-- ==== Sys2Proof/Word.lean ====
section
/-! DEFINITION. The word types of the Novrex LM4 and their plainest arithmetic (R2, R3, R7). -/
namespace Sys2Proof

/-- A byte of memory. -/
abbrev Byte := BitVec 8
/-- A 32-bit register or word. -/
abbrev Word := BitVec 32
/-- A 64-bit register pair, scalar, address or instruction word. -/
abbrev DWord := BitVec 64
/-- A set of lanes of a weft: bit `i` is lane `i` (R166). -/
abbrev LaneMask := BitVec 32
/-- A segment number (R7). -/
abbrev Seg := BitVec 24
/-- A byte offset within a segment (R7). -/
abbrev Off := BitVec 40
/-- A context identifier (R367). -/
abbrev CtxId := BitVec 16

/-- The bits `hi:lo` of `x` as a number. -/
def bitsOf (x hi lo : Nat) : Nat := (x >>> lo) % 2 ^ (hi + 1 - lo)

/-- Bit `i` of a number. -/
def bitAt (x i : Nat) : Bool := (x >>> i) % 2 == 1

/-- A Boolean as 0 or 1. -/
def b2n (b : Bool) : Nat := if b then 1 else 0

/-- The smallest `q` with `q * b ≥ a`; 0 when `b` is 0. -/
def ceilDiv (a b : Nat) : Nat := if b = 0 then 0 else (a + b - 1) / b

/-- A natural number read as two's complement of width `w`. -/
def toSigned (w x : Nat) : Int :=
  let y := x % 2 ^ w
  if y < 2 ^ (w - 1) then (y : Int) else (y : Int) - (2 ^ w : Nat)

/-- An integer reduced modulo `2^w`. -/
def wrapNat (w : Nat) (x : Int) : Nat := (x % ((2 ^ w : Nat) : Int)).toNat

/-- The little-endian value of a list of bytes (R222). -/
def leNat : List Byte → Nat
  | [] => 0
  | b :: bs => b.toNat + 256 * leNat bs

/-- The `n` low bytes of a number, little-endian (R222). -/
def natLE : Nat → Nat → List Byte
  | 0, _ => []
  | n + 1, x => BitVec.ofNat 8 x :: natLE n (x / 256)

/-- The segment number of an address (R7). -/
def segOf (a : DWord) : Seg := a.extractLsb' 40 24
/-- The offset of an address (R7). -/
def offOf (a : DWord) : Off := a.extractLsb' 0 40
/-- The address with segment `s` and offset `o` (R7). -/
def mkAddr (s : Seg) (o : Off) : DWord := s ++ o

/-- The lanes of a mask in ascending order (R5). -/
def lanesOf (m : LaneMask) : List Nat := (List.range 32).filter (fun i => m.getLsbD i)

/-- The mask holding exactly the listed lanes. -/
def maskOf (ls : List Nat) : LaneMask :=
  ls.foldl (fun m i => m ||| (BitVec.ofNat 32 1 <<< i)) 0

end Sys2Proof
end

