-- ==== Sys2Proof/Config.lean ====
section
/-! DEFINITION. What the manual leaves open: free values (opaque constants without a body, so that nothing can be proved
of them) and the plain capacities of R1. -/
namespace Sys2Proof.Config

/-- Whether a read of a register whose flag-tracked result is not complete returns the new value (R175): a free
choice for each read, lane and register. Arguments: the state's counter `fresh`, and the register's key. -/
opaque freePick : Nat → Nat → Bool

/-- The byte seen when a data unit is read under a key other than the one it was last written under (R88: bytes decrypt
to unrelated values). Arguments: physical address, key index, key generation, write count of the line's tag. -/
opaque freeByte : Nat → Nat → Nat → Nat → Byte

/-- How far TIME advances at a step: the rate is disciplined by messages from outside (R367, R470). -/
opaque freeTick : Nat → Nat

/-- A value that the manual leaves open where a poisoned operand stands for no value (R442). -/
opaque freeWord : Nat → Nat → DWord

/-- The first PSN of a packet delivery context, agreed at its opening (R426): even arguments for those that this package
opens, odd ones for its peers'. -/
opaque freePsn : Nat → Word

/-- Whether the home package of a remote segment resolves what an engine asks of it (R82): another package's answer. Arguments: the
pod node, the state's counter `fresh`. -/
opaque nodeAnswers : Nat → Nat → Bool

/-- Whether SR-IOV has enabled a virtual function (R464): the host does so in the configuration space of the link, for which the
manual gives no step. -/
opaque vfEnabled : Nat → Bool

/-- A byte of the digest of a firmware image, by the image's number (R489). -/
opaque firmwareDigest : Nat → Nat → Byte

/-- The context that a JOBID and a PID name at a receiver (R427): the manual gives no table for it. -/
opaque pidContext : Nat → Nat → Option CtxId

/-- The segment table root and the save segment that the die scheduler's context table holds for a context (R10, R411): system
software fills that table by means that the manual does not describe. -/
opaque contextRoot : Nat → DWord
/-- The save segment number of a context's entry (R411). -/
opaque contextSave : Nat → Seg

/-- Where in a context's frame-map segment the device puts the frame maps of a published code segment: the manual gives no place
(R285, R371). Argument: the segment number. -/
opaque freeFrameBlock : Nat → Nat

/-- A byte of an ML-DSA-65 signature under the package identity key, which never leaves D0's controller (R489). -/
opaque signatureByte : List Byte → Nat → Byte

/-- Whether a core goes on seeing a sector of HBM as it was before a write of another core, and whether it still does at one of its
slots: plain stores reach other cores in any order, at different times for different observers (R134). Arguments: the number of the
write or of the slot, the core, the sector. -/
opaque freeStale : Nat → Nat → Nat → Bool

/-- Whether a plain load of HBM bytes is satisfied later than in its turn (R134). Argument: the load's number. -/
opaque freeLate : Nat → Bool

/-- Dies of the package (R1). -/
def dies : Nat := 4
/-- Logical quads of a die's map that are built into the address map and enabled at test (R1). -/
def quads : Nat := 36
/-- Cores of a quad (R1). -/
def coresPerQuad : Nat := 4
/-- Spare quads of a die (R1). -/
def spares : Nat := 2
/-- Register blocks of a core (R99). -/
def regBlocks : Nat := 128
/-- Panel pad bytes of a core (R1). -/
def padBytes : Nat := 0x80000
/-- I-pad bytes of a core (R1). -/
def ipadBytes : Nat := 0x10000
/-- Entries of a core's range scoreboard (R121). -/
def sboardEntries : Nat := 32
/-- Entries of a die's future table (R349). -/
def futuresPerDie : Nat := 16384
/-- Entries of a core's trace FIFO (R472). -/
def traceEntries : Nat := 64
/-- Entries of a core's interval store buffer (R448). -/
def heldEntries : Nat := 1024
/-- Posts of a network work queue (R425). -/
def netQueuePosts : Nat := 16
/-- PDCs of a die (R425). -/
def pdcsPerDie : Nat := 4096
/-- HBM capacity in units of 64 GiB, FEAT.HBMU (R367). -/
def hbmUnits : Nat := 8
/-- ISA level, FEAT.ISA (R367). -/
def isaLevel : Nat := 1
/-- Pages of a core's miss queue (R74). -/
def missPages : Nat := 32
/-- Ways of a die-store set (R125). -/
def storeWays : Nat := 24
/-- Entries of a die walker's cache of non-leaf entries (R69). -/
def walkEntries : Nat := 4096
/-- Event records held for a function whose ring is full (R468). -/
def heldEvents : Nat := 256

/-- Whether the members of a `.pod` barrier in other packages have arrived by a time (R357): the manual does not say when they do. -/
opaque podArrived : Nat → Bool

end Sys2Proof.Config
end

