-- ==== Sys2Proof/Syntax.lean ====
section
/-! DEFINITION. The steps of the machine, one constructor for each row of spec/opcode_table.json: the instruction words
(with their decoded fields, R182 to R193) and the steps of the device's other agents, the host and the network. -/
namespace Sys2Proof

/-- Bits 57:50 of every instruction word: DIST, SW and FLAG (R182). -/
structure Common where
  dist : BitVec 3
  sw   : Bool
  flag : BitVec 4
  deriving DecidableEq, Repr

/-- A register operand (R183): lane register, weft scalar, ZERO or LANE. An unused field is `v 0`. -/
inductive Opnd where
  | v (n : BitVec 8)
  | s (n : BitVec 6)
  | zero
  | lane
  deriving DecidableEq, Repr

/-- The element types of R184. -/
inductive Ty where
  | b32 | b64 | i32 | n32 | i64 | n64 | i16 | n16 | i8 | n8 | f32 | f16 | bf16 | e4m3 | e5m2 | bf16x2
  deriving DecidableEq, Repr

/-- The rounding modes of R185. -/
inductive Rnd where
  | rne | rz | rp | rm | rs
  deriving DecidableEq, Repr

/-- The access sizes of R188. -/
inductive Size where
  | b8 | b16 | b32 | b64 | b128
  deriving DecidableEq, Repr

/-- The SCOPE field of R188, R190; the scopes of R4. -/
inductive Scope where
  | none | ln | core | quad | die | pkg | pod
  deriving DecidableEq, Repr

/-- The ORD field of R188. -/
inductive Ord where
  | plain | acq | rel | ar
  deriving DecidableEq, Repr

/-- The ETYPE field of R189. -/
inductive ETy where
  | bfp2 | bfp3 | bfp4 | bfp5 | bfp6 | bfp7 | bfp8 | bfa16 | bf16 | f32 | e5m3 | i48
  deriving DecidableEq, Repr

/-- The system registers of R193. -/
inductive SReg where
  | hmap | picks | laneid | weftid | core | ctxid | owner | cir | time | feat | trapv | prio | xinva | xinv
  | mqs (n : BitVec 4)
  deriving DecidableEq, Repr

/-- Format V3 (R186). -/
structure V3 where
  ty  : Ty
  rnd : Rnd
  sat : Bool
  d   : Opnd
  a   : Opnd
  b   : Opnd
  c   : Opnd
  deriving DecidableEq, Repr

/-- The fields of `cvt` (R186, R267): destination and source type. -/
structure CvtF where
  td  : Ty
  ts  : Ty
  rnd : Rnd
  sat : Bool
  d   : Opnd
  a   : Opnd
  deriving DecidableEq, Repr

/-- Format VI (R187). -/
structure VI where
  ty  : Ty
  d   : Opnd
  a   : Opnd
  imm : BitVec 22
  deriving DecidableEq, Repr

/-- Format M (R188). -/
structure MF where
  size  : Size
  scope : Scope
  ord   : Ord
  d     : Opnd
  a     : Opnd
  b     : Opnd
  disp  : BitVec 9
  deriving DecidableEq, Repr

/-- Format X (R189). -/
structure XF where
  ety   : ETy
  shape : BitVec 5
  td    : BitVec 3
  bs    : BitVec 4
  gm    : BitVec 4
  swz   : BitVec 2
  qp    : BitVec 2
  a     : Opnd
  b     : Opnd
  deriving DecidableEq, Repr

/-- Format E (R190). -/
structure EF where
  q     : BitVec 2
  h     : BitVec 4
  swz   : BitVec 2
  scope : Scope
  tag   : BitVec 3
  bar   : Bool
  ds    : Bool
  d     : Opnd
  a     : Opnd
  b     : Opnd
  deriving DecidableEq, Repr

/-- Format C (R191). -/
structure CF where
  jm  : BitVec 4
  a   : Opnd
  b   : Opnd
  imm : BitVec 16
  deriving DecidableEq, Repr

/-- Format S (R192). -/
structure SF where
  sreg : SReg
  d    : Opnd
  a    : Opnd
  imm  : BitVec 14
  deriving DecidableEq, Repr

/-- An access by another package to a segment whose home is this package, or the arrival at its home of an access by a
lane of this package (R82). `outbound` says whether the home resolved the page. -/
inductive RemoteReq where
  | inbound (root : Nat) (pgsz : Nat) (okey : Nat) (off : Nat) (store : Option (List Byte)) (len : Nat)
  /-- An atomic: its row of R310 from 0, its size in bytes, its operand and its compare value. -/
  | inboundAtomic (root : Nat) (pgsz : Nat) (okey : Nat) (off : Nat) (op : Nat) (size : Nat) (b : Nat) (d : Nat)
  | outbound (id : Nat) (resolved : Bool)
  deriving DecidableEq, Repr

/-- What a pager acts on (R77, R79, R81): a fault subgroup of a weft, the head command of a copy queue, a matrix word, a
network post, a stalled save or spill of a panel, a placement's spill, or another package's access. -/
inductive PagerTarget where
  | sub (weft k : Nat)
  | copy (core queue : Nat)
  | matrix (core id : Nat)
  | post (core queue : Nat)
  | packet (die id : Nat)
  | save (panel : Nat)
  /-- The spill of a tile of a core at a placement (R376). -/
  | place (core tile : Nat)
  /-- An access by another package (R82). -/
  | remote (id : Nat)
  deriving DecidableEq, Repr

/-- A barrier (R357): a panel's own barrier, or the barrier of a route tag in a node of a scope for a context. -/
inductive BarrierName where
  | panel (panel : Nat)
  | reed (scope : Scope) (node tag : Nat) (ctx : CtxId)
  deriving DecidableEq, Repr

/-- The events that roll a REPLAY panel back (R450). -/
inductive RollbackCause where
  | ecc
  | shadow (weft lane : Nat)
  | beam
  deriving DecidableEq, Repr

/-- Where an ECC error is found (R440, R445); `corrected` errors change nothing a program sees. -/
inductive EccTarget where
  | corrected
  | hbmLine (pa : Nat)
  | padWord (core off : Nat)
  | reg (weft lane n : Nat)
  | accElem (core tile elem : Nat)
  | partElem (core tile elem : Nat)
  | staging (core queue : Nat)
  | ipad (core off : Nat)
  | checkpoint (panel : Nat)
  /-- The result that the shadow unit formed for a lane's newest checked word, as an f32 pattern (R276). -/
  | shadow (weft lane : Nat) (formed : BitVec 32)
  | beam (core id : Nat)
  deriving DecidableEq, Repr

/-- The step of the bring-up sequence that fails (R488), with what fails. -/
inductive BootFail where
  | fuses (die : Nat)
  | firmware
  | hbm (stack : Nat)
  | quad (die quad : Nat)
  | random
  | hostLink
  deriving DecidableEq, Repr

/-- What a quad repair ends in (R459): new heald maps of the four cores, or the quad replaced by a spare. -/
inductive RepairResult where
  | refuse (good0 good1 good2 good3 : BitVec 16)
  | replace (good0 good1 good2 good3 : BitVec 16)
  deriving DecidableEq, Repr

/-- A packet on the wire as the receiving engine reads it (R431). `codes` says that the payload is a delta stream. -/
structure Packet where
  peer   : Nat
  jobid  : Nat
  pid    : Nat
  mode   : BitVec 2
  psn    : Word
  dst    : DWord
  len    : Nat
  rctr   : DWord
  rinc   : Word
  count  : Nat
  msg    : Nat
  off    : Nat
  ds     : Bool
  poison : Bool
  bytes  : List Byte
  deriving DecidableEq, Repr

/-- An acknowledgement (R433), or a negative acknowledgement carrying a fault code (R432). -/
structure NetAck where
  pdc  : Nat
  cack : Word
  sack : DWord
  nack : Option (Word × Nat)
  deriving DecidableEq, Repr

/-- What a debugger's halt command names (R479). -/
inductive HaltTarget where
  | weft (weft : Nat)
  | context (ctx : CtxId)
  deriving DecidableEq, Repr

/-- The rows of spec/opcode_table.json. -/
inductive Instr where
  /-- INT_ADD (R244). Integer add, wrapping or saturating, in each active lane. -/
  | intAdd (c : Common) (f : V3)
  /-- INT_SUB (R244). Integer subtract, wrapping or saturating. -/
  | intSub (c : Common) (f : V3)
  /-- INT_MUL (R244). Low W bits of the integer product. -/
  | intMul (c : Common) (f : V3)
  /-- MULHI (R244). High W bits of the 2W-bit integer product. -/
  | mulhi (c : Common) (f : V3)
  /-- MAD (R244). Integer multiply-add a*b+c. -/
  | mad (c : Common) (f : V3)
  /-- INT_MIN (R244). Smaller of two integers. -/
  | intMin (c : Common) (f : V3)
  /-- INT_MAX (R244). Larger of two integers. -/
  | intMax (c : Common) (f : V3)
  /-- INT_ABS (R244). Integer absolute value, wrapping. -/
  | intAbs (c : Common) (f : V3)
  /-- INT_NEG (R244). Integer negation, wrapping. -/
  | intNeg (c : Common) (f : V3)
  /-- SAD (R244). Sum of absolute difference |a-b|+c. -/
  | sad (c : Common) (f : V3)
  /-- ADDI (R247). Integer add of a sign-extended immediate. -/
  | addi (c : Common) (f : VI)
  /-- MULI (R247). Integer multiply by an immediate, low bits. -/
  | muli (c : Common) (f : VI)
  /-- MOVI (R247). Write a zero-extended immediate. -/
  | movi (c : Common) (f : VI)
  /-- MOVHI (R247). Write the immediate into the high bits, keeping the low bits of A. -/
  | movhi (c : Common) (f : VI)
  /-- ANDI (R247). Bitwise AND with an immediate. -/
  | andi (c : Common) (f : VI)
  /-- ORI (R247). Bitwise OR with an immediate. -/
  | ori (c : Common) (f : VI)
  /-- XORI (R247). Bitwise XOR with an immediate. -/
  | xori (c : Common) (f : VI)
  /-- SHLI (R247). Shift left by an immediate. -/
  | shli (c : Common) (f : VI)
  /-- SHRI (R247). Logical shift right by an immediate. -/
  | shri (c : Common) (f : VI)
  /-- SRAI (R247). Arithmetic shift right by an immediate. -/
  | srai (c : Common) (f : VI)
  /-- AND (R248). Bitwise AND. -/
  | and (c : Common) (f : V3)
  /-- OR (R248). Bitwise OR. -/
  | or (c : Common) (f : V3)
  /-- XOR (R248). Bitwise XOR. -/
  | xor (c : Common) (f : V3)
  /-- ANDN (R248). a AND NOT b. -/
  | andn (c : Common) (f : V3)
  /-- ORN (R248). a OR NOT b. -/
  | orn (c : Common) (f : V3)
  /-- NOT (R248). Bitwise NOT. -/
  | not (c : Common) (f : V3)
  /-- BSEL (R248). Bit select of a or b by mask c. -/
  | bsel (c : Common) (f : V3)
  /-- SHL (R249). Shift left by a register amount. -/
  | shl (c : Common) (f : V3)
  /-- SHR (R249). Logical shift right by a register amount. -/
  | shr (c : Common) (f : V3)
  /-- SRA (R249). Arithmetic shift right by a register amount. -/
  | sra (c : Common) (f : V3)
  /-- ROTL (R249). Rotate left. -/
  | rotl (c : Common) (f : V3)
  /-- ROTR (R249). Rotate right. -/
  | rotr (c : Common) (f : V3)
  /-- FSH (R249). Funnel shift of a:b. -/
  | fsh (c : Common) (f : V3)
  /-- INT_SETEQ (R251). Integer compare equal, writing 1 or 0. -/
  | intSeteq (c : Common) (f : V3)
  /-- INT_SETNE (R251). Integer compare not equal. -/
  | intSetne (c : Common) (f : V3)
  /-- INT_SETLT (R251). Integer compare less than. -/
  | intSetlt (c : Common) (f : V3)
  /-- INT_SETLE (R251). Integer compare less or equal. -/
  | intSetle (c : Common) (f : V3)
  /-- INT_SETGT (R251). Integer compare greater than. -/
  | intSetgt (c : Common) (f : V3)
  /-- INT_SETGE (R251). Integer compare greater or equal. -/
  | intSetge (c : Common) (f : V3)
  /-- SEL (R251). Select a or b by c non-zero. -/
  | sel (c : Common) (f : V3)
  /-- POPC (R250). Count one bits. -/
  | popc (c : Common) (f : V3)
  /-- CLZ (R250). Count leading zeros. -/
  | clz (c : Common) (f : V3)
  /-- CTZ (R250). Count trailing zeros. -/
  | ctz (c : Common) (f : V3)
  /-- BREV (R250). Reverse bit order. -/
  | brev (c : Common) (f : V3)
  /-- BFE (R250). Extract a bit field. -/
  | bfe (c : Common) (f : V3)
  /-- BFI (R250). Insert a bit field. -/
  | bfi (c : Common) (f : V3)
  /-- SEGOF (R252). Extract the segment number of an address. -/
  | segof (c : Common) (f : V3)
  /-- OFFOF (R252). Extract the offset of an address. -/
  | offof (c : Common) (f : V3)
  /-- MKADDR (R252). Join a segment number and an offset. -/
  | mkaddr (c : Common) (f : V3)
  /-- ADDOFF (R252). Add to an address offset modulo 2^40. -/
  | addoff (c : Common) (f : V3)
  /-- ABSADDR (R253). Resolve a FREL or STK address to an absolute stack address. -/
  | absaddr (c : Common) (f : V3)
  /-- ADDOFFI (R254). Add an immediate to an address offset. -/
  | addoffi (c : Common) (f : VI)
  /-- SEGRD (R254). Link-slot segment read through the binding entry. -/
  | segrd (c : Common) (f : VI)
  /-- BMM (R255). 8x8 GF(2) bit-matrix multiply. -/
  | bmm (c : Common) (f : V3)
  /-- BMMT (R255). Bit-matrix multiply with B transposed. -/
  | bmmt (c : Common) (f : V3)
  /-- BMMX (R255). Bit-matrix multiply XORed into C. -/
  | bmmx (c : Common) (f : V3)
  /-- SPREAD (R256). Deposit low bits of a at the mask positions. -/
  | spread (c : Common) (f : V3)
  /-- GATHER (R256). Gather the mask-selected bits of a to the low end. -/
  | gather (c : Common) (f : V3)
  /-- BPERM (R257). Arbitrary 64-bit permutation from a scalar table. -/
  | bperm (c : Common) (f : V3)
  /-- BGAT (R257). Byte gather with selector codes. -/
  | bgat (c : Common) (f : V3)
  /-- BSWAP (R257). Reverse byte order. -/
  | bswap (c : Common) (f : V3)
  /-- MULW (R245). Widening 32x32 to 64-bit multiply. -/
  | mulw (c : Common) (f : V3)
  /-- MADW (R245). Widening multiply-add into 64 bits. -/
  | madw (c : Common) (f : V3)
  /-- MOV (R258). Copy a register. -/
  | mov (c : Common) (f : V3)
  /-- RDACTIVE (R258). Write the mask of lanes executing this instruction. -/
  | rdactive (c : Common) (f : V3)
  /-- ADDSAT (R246). Packed element add with clamping. -/
  | addsat (c : Common) (f : V3)
  /-- SUBSAT (R246). Packed element subtract with clamping. -/
  | subsat (c : Common) (f : V3)
  /-- PACKS (R246). Pack signed elements with clamping. -/
  | packs (c : Common) (f : V3)
  /-- PACKN (R246). Pack unsigned elements with clamping. -/
  | packn (c : Common) (f : V3)
  /-- FP_ADD (R264). Floating add with rounding. -/
  | fpAdd (c : Common) (f : V3)
  /-- FP_SUB (R264). Floating subtract. -/
  | fpSub (c : Common) (f : V3)
  /-- FP_MUL (R264). Floating multiply. -/
  | fpMul (c : Common) (f : V3)
  /-- FMA (R264). Fused multiply-add with one rounding. -/
  | fma (c : Common) (f : V3)
  /-- FP_MIN (R264). Floating minimum, propagating NaNs. -/
  | fpMin (c : Common) (f : V3)
  /-- FP_MAX (R264). Floating maximum, propagating NaNs. -/
  | fpMax (c : Common) (f : V3)
  /-- FP_ABS (R264). Clear the sign bit. -/
  | fpAbs (c : Common) (f : V3)
  /-- FP_NEG (R264). Invert the sign bit. -/
  | fpNeg (c : Common) (f : V3)
  /-- FP_SETEQ (R266). FP32 compare equal. -/
  | fpSeteq (c : Common) (f : V3)
  /-- FP_SETNE (R266). FP32 compare not equal. -/
  | fpSetne (c : Common) (f : V3)
  /-- FP_SETLT (R266). FP32 compare less than. -/
  | fpSetlt (c : Common) (f : V3)
  /-- FP_SETLE (R266). FP32 compare less or equal. -/
  | fpSetle (c : Common) (f : V3)
  /-- FP_SETGT (R266). FP32 compare greater than. -/
  | fpSetgt (c : Common) (f : V3)
  /-- FP_SETGE (R266). FP32 compare greater or equal. -/
  | fpSetge (c : Common) (f : V3)
  /-- SETNAN (R266). 1 when either operand is a NaN. -/
  | setnan (c : Common) (f : V3)
  /-- CVT (R267). Convert between numeric types with rounding. -/
  | cvt (c : Common) (f : CvtF)
  /-- FRND (R268). Round FP32 to an integral value. -/
  | frnd (c : Common) (f : V3)
  /-- RCP (R272). Reciprocal, correctly rounded. -/
  | rcp (c : Common) (f : V3)
  /-- RSQRT (R272). Reciprocal square root. -/
  | rsqrt (c : Common) (f : V3)
  /-- SQRT (R272). Square root. -/
  | sqrt (c : Common) (f : V3)
  /-- EXP2 (R272). Base-2 exponential. -/
  | exp2 (c : Common) (f : V3)
  /-- LOG2 (R272). Base-2 logarithm. -/
  | log2 (c : Common) (f : V3)
  /-- SIN (R272). Sine in radians. -/
  | sin (c : Common) (f : V3)
  /-- COS (R272). Cosine in radians. -/
  | cos (c : Common) (f : V3)
  /-- TANH (R272). Hyperbolic tangent. -/
  | tanh (c : Common) (f : V3)
  /-- PACK2 (R269). Round two FP32 values into a bf16x2. -/
  | pack2 (c : Common) (f : V3)
  /-- UNPKLO (R269). Widen element 0 of a bf16x2 to FP32. -/
  | unpklo (c : Common) (f : V3)
  /-- UNPKHI (R269). Widen element 1 of a bf16x2 to FP32. -/
  | unpkhi (c : Common) (f : V3)
  /-- PACK4 (R269). Round four BF16 elements into 8-bit floats. -/
  | pack4 (c : Common) (f : V3)
  /-- UNPK8LO (R269). Widen bytes 0 and 1 to a bf16x2. -/
  | unpk8lo (c : Common) (f : V3)
  /-- UNPK8HI (R269). Widen bytes 2 and 3 to a bf16x2. -/
  | unpk8hi (c : Common) (f : V3)
  /-- SCLENC (R270). Encode an FP32 value as an E5M3 scale. -/
  | sclenc (c : Common) (f : V3)
  /-- SCLDEC (R270). Decode an E5M3 scale to FP32. -/
  | scldec (c : Common) (f : V3)
  /-- FP_ADDI (R265). FP32 add of an immediate. -/
  | fpAddi (c : Common) (f : VI)
  /-- FP_MULI (R265). FP32 multiply by an immediate. -/
  | fpMuli (c : Common) (f : VI)
  /-- FP_MOVI (R265). Write an FP32 immediate pattern. -/
  | fpMovi (c : Common) (f : VI)
  /-- RND (R275). Optionally reseed and step the lane's rounding stream. -/
  | rnd (c : Common) (f : V3)
  /-- DOT2 (R271). Two-term BF16 dot product plus addend, one rounding. -/
  | dot2 (c : Common) (f : V3)
  /-- DOT4 (R271). Four-term 8-bit float dot product plus addend. -/
  | dot4 (c : Common) (f : V3)
  /-- XL_GET (R301). Every lane of a group reads one source lane. -/
  | xlGet (c : Common) (f : V3)
  /-- XL_ROT (R301). Rotation within a lane group. -/
  | xlRot (c : Common) (f : V3)
  /-- XL_XOR (R301). Exchange by lane-number XOR. -/
  | xlXor (c : Common) (f : V3)
  /-- XL_REV (R301). Mirror within a lane group. -/
  | xlRev (c : Common) (f : V3)
  /-- VOTE_ALL (R302). 1 when every member's value is non-zero. -/
  | voteAll (c : Common) (f : V3)
  /-- VOTE_ANY (R302). 1 when some member's value is non-zero. -/
  | voteAny (c : Common) (f : V3)
  /-- VOTE_EQ (R302). 1 when all non-exited members agree. -/
  | voteEq (c : Common) (f : V3)
  /-- VOTE_BALLOT (R302). Mask of members with non-zero values. -/
  | voteBallot (c : Common) (f : V3)
  /-- RED_ADD (R302). Sum over members in lane order. -/
  | redAdd (c : Common) (f : V3)
  /-- RED_MIN (R302). Minimum over members. -/
  | redMin (c : Common) (f : V3)
  /-- RED_MAX (R302). Maximum over members. -/
  | redMax (c : Common) (f : V3)
  /-- RED_AND (R302). AND over members. -/
  | redAnd (c : Common) (f : V3)
  /-- RED_OR (R302). OR over members. -/
  | redOr (c : Common) (f : V3)
  /-- RED_XOR (R302). XOR over members. -/
  | redXor (c : Common) (f : V3)
  /-- SCAN_ADD (R302). Inclusive or exclusive prefix sum over members. -/
  | scanAdd (c : Common) (ex : Bool) (f : V3)
  /-- SCAN_MIN (R302). Prefix minimum. -/
  | scanMin (c : Common) (ex : Bool) (f : V3)
  /-- SCAN_MAX (R302). Prefix maximum. -/
  | scanMax (c : Common) (ex : Bool) (f : V3)
  /-- SCAN_OR (R302). Prefix OR. -/
  | scanOr (c : Common) (ex : Bool) (f : V3)
  /-- BRA (R279). Unconditional branch within the code segment. -/
  | bra (c : Common) (f : CF)
  /-- BRZ (R279). Branch when the condition is zero. -/
  | brz (c : Common) (f : CF)
  /-- BRNZ (R279). Branch when the condition is non-zero. -/
  | brnz (c : Common) (f : CF)
  /-- BRIND (R279). Branch to a register offset in the code segment. -/
  | brind (c : Common) (f : CF)
  /-- JOIN (R280). Add active lanes to a rejoin mask's expected set. -/
  | join (c : Common) (f : CF)
  /-- JOIN_X (R280). Remove active lanes from a rejoin mask, possibly releasing it. -/
  | joinX (c : Common) (f : CF)
  /-- WAIT (R280). Arrive and park at a rejoin mask until release. -/
  | wait (c : Common) (f : CF)
  /-- CALL (R288). Direct call within the code segment, writing a link record. -/
  | call (c : Common) (f : CF)
  /-- CALL_SYM (R288). Symbolic call through a link slot, taking a hold. -/
  | callSym (c : Common) (f : CF)
  /-- CALL_IND (R288). Indirect call to a per-lane code address. -/
  | callInd (c : Common) (f : CF)
  /-- RET (R289). Return through the link record, releasing any hold. -/
  | ret (c : Common) (f : CF)
  /-- EXIT (R290). End the lane, releasing holds of its frames. -/
  | exit (c : Common) (f : CF)
  /-- ENTER (R286). Allocate the procedure's frame locals. -/
  | enter (c : Common) (bud : BitVec 4) (size : BitVec 16)
  /-- LEAVE (R286). Reset SP to the top of the locals. -/
  | leave (c : Common) (size : BitVec 16)
  /-- MARK (R293). Push a mark record and return its token. -/
  | mark (c : Common) (f : CF)
  /-- CUT (R296). Cut the stack above a mark into a sealed skein. -/
  | cut (c : Common) (f : CF)
  /-- GRAFT (R297). Copy and rebase a skein's image onto the lane's stack. -/
  | graft (c : Common) (f : CF)
  /-- DROP (R298). Mark a skein DROPPING and free it when no graft runs. -/
  | drop (c : Common) (f : CF)
  /-- PREFI (R292). Prefetch a code range into the die store. -/
  | prefi (c : Common) (f : CF)
  /-- NOP (R281). No effect. -/
  | nop (c : Common) (f : CF)
  /-- PAUSE (R281). Keep the path from issuing for a cycle count. -/
  | pause (c : Common) (f : CF)
  /-- LD (R308). Per-lane load, plain or acquire. -/
  | ld (c : Common) (f : MF)
  /-- LDS (R309). One scalar load for the instruction. -/
  | lds (c : Common) (f : MF)
  /-- ST (R308). Per-lane store, plain or release. -/
  | st (c : Common) (f : MF)
  /-- STS (R309). One scalar store for the instruction. -/
  | sts (c : Common) (f : MF)
  /-- ATOM_ADD (R310). Atomic add returning the old value. -/
  | atomAdd (c : Common) (f : MF)
  /-- ATOM_MIN (R310). Atomic signed minimum. -/
  | atomMin (c : Common) (f : MF)
  /-- ATOM_MAX (R310). Atomic signed maximum. -/
  | atomMax (c : Common) (f : MF)
  /-- ATOM_AND (R310). Atomic AND. -/
  | atomAnd (c : Common) (f : MF)
  /-- ATOM_OR (R310). Atomic OR. -/
  | atomOr (c : Common) (f : MF)
  /-- ATOM_XOR (R310). Atomic XOR. -/
  | atomXor (c : Common) (f : MF)
  /-- ATOM_EXCH (R310). Atomic exchange. -/
  | atomExch (c : Common) (f : MF)
  /-- CAS (R310). Atomic compare-and-swap. -/
  | cas (c : Common) (f : MF)
  /-- FENCE (R311). Scoped fence entering the store queue. -/
  | fence (c : Common) (f : MF)
  /-- BIND (R314). One BIND of a binding entry, returning a future. -/
  | bind (c : Common) (f : MF)
  /-- UNBIND (R315). One UNBIND of a binding entry, returning a future. -/
  | unbind (c : Common) (f : MF)
  /-- LOOKUP (R316). Search the context's lookup order for a name. -/
  | lookup (c : Common) (f : MF)
  /-- PUSH (R318). Send one 64-byte message entry per lane through a send slot. -/
  | push (c : Common) (f : MF)
  /-- POP (R319). Pop message entries from a pad queue and return credits. -/
  | pop (c : Common) (f : MF)
  /-- PREF (R320). Prefetch a data range into the die store. -/
  | pref (c : Common) (f : MF)
  /-- DISCARD (R321). Mark whole pages dead and invalidate them. -/
  | discard (c : Common) (f : MF)
  /-- BLOAD (R332). Load a B operand from the pad into beam slots. -/
  | bload (c : Common) (f : XF)
  /-- BCLR (R332). Clear a beam macro and its record. -/
  | bclr (c : Common) (f : XF)
  /-- MMA_W (R333). Exact per-K-block partial products into partial tiles. -/
  | mmaW (c : Common) (f : XF)
  /-- MMA_Q (R334). One quarter of the rows of mma.w. -/
  | mmaQ (c : Common) (f : XF)
  /-- MMA_S (R335). Product with scaled accumulation into an accumulator tile. -/
  | mmaS (c : Common) (f : XF)
  /-- ALIGN (R341). Convert BF16 blocks to BFA16 per a descriptor. -/
  | align (c : Common) (f : XF)
  /-- SACC (R342). Apply block scales to partials and add into an accumulator. -/
  | sacc (c : Common) (f : XF)
  /-- TLD (R346). Load an accumulator tile. -/
  | tld (c : Common) (f : XF)
  /-- TST (R346). Store an accumulator tile. -/
  | tst (c : Common) (f : XF)
  /-- TZERO (R346). Zero an accumulator tile. -/
  | tzero (c : Common) (f : XF)
  /-- PLD (R346). Load a partial tile. -/
  | pld (c : Common) (f : XF)
  /-- PST (R346). Store a partial tile. -/
  | pst (c : Common) (f : XF)
  /-- PZERO (R346). Zero a partial tile. -/
  | pzero (c : Common) (f : XF)
  /-- COPY (R354). Issue one copy command per lane into a copy queue. -/
  | copy (c : Common) (f : EF)
  /-- QFENCE (R356). Enter a queue fence joining named copy queues. -/
  | qfence (c : Common) (f : EF)
  /-- FTEST (R352). Test whether a handle's future is complete. -/
  | ftest (c : Common) (f : EF)
  /-- FWAIT (R352). Hold until a future completes, then acquire. -/
  | fwait (c : Common) (f : EF)
  /-- FCANCEL (R353). Cancel a pending future. -/
  | fcancel (c : Common) (f : EF)
  /-- HGET (R352). Wait for a future and read its value. -/
  | hget (c : Common) (f : EF)
  /-- HGET_REF (R352). Write a handle's future reference without waiting. -/
  | hgetRef (c : Common) (f : EF)
  /-- HPUT (R352). Install a future reference into a handle. -/
  | hput (c : Common) (f : EF)
  /-- ARRIVE (R358). Arrive at a barrier phase as a release. -/
  | arrive (c : Common) (f : EF)
  /-- BWAIT (R358). Hold until the lane's last arrival phase completes. -/
  | bwait (c : Common) (f : EF)
  /-- BSYNC (R358). Arrive then wait at a barrier. -/
  | bsync (c : Common) (f : EF)
  /-- ENQ (R363). Enqueue a task record into a queue or attach it to a counter. -/
  | enq (c : Common) (f : EF)
  /-- DEQ (R365). Make lanes requesters of records from a task queue. -/
  | deq (c : Common) (f : EF)
  /-- DCINIT (R362). Set a dependency counter's queue and count. -/
  | dcinit (c : Common) (f : EF)
  /-- DCADD (R362). Add to a dependency counter, releasing its list at zero. -/
  | dcadd (c : Common) (f : EF)
  /-- NPOST (R366). Post one network work request per lane. -/
  | npost (c : Common) (f : EF)
  /-- NWAIT (R366). Hold until a counter word reaches a value. -/
  | nwait (c : Common) (f : EF)
  /-- SYSR (R367). Read a system register. -/
  | sysr (c : Common) (f : SF)
  /-- SYSW (R367). Write a system register without a row of its own. -/
  | sysw (c : Common) (f : SF)
  /-- XINV_SEG (R70). Start a shootdown of a segment's descriptor and pages. -/
  | xinvSeg (c : Common) (f : SF)
  /-- XINV_PAGES (R70). Start a shootdown of NPG pages of a segment. -/
  | xinvPages (c : Common) (f : SF)
  /-- XINV_CTX (R70). Start a shootdown of every translation of a context. -/
  | xinvCtx (c : Common) (f : SF)
  /-- SHOOTDOWN_COMPLETE (R70). Shootdown has completed everywhere; the sysw flag falls. -/
  | shootdownComplete (id : Nat)
  /-- TRACE (R369). Emit a trace record into the core FIFO. -/
  | trace (c : Common) (f : SF)
  /-- TRAP (R370). Enter software trap handler n. -/
  | trap (c : Common) (f : SF)
  /-- RETT (R388). Return from a trap handler with code-specific effects. -/
  | rett (c : Common) (f : SF)
  /-- PUBLISH (R371). Submit a staging segment for publication as code. -/
  | publish (c : Common) (f : SF)
  /-- CHKERR (R368). Read and clear CIR after earlier accesses complete. -/
  | chkerr (c : Common) (f : SF)
  /-- BRK (R477). Emit a BRK record and debug-halt the weft. -/
  | brk (c : Common) (f : SF)
  /-- ISSUE_SLOT (R170). Every P cycles the issue stage chooses a weft and up to two paths. -/
  | issueSlot (core : Nat)
  /-- UNIT_RESULT_COMPLETE (R175). A flag-tracked unit result is written and its flag decremented. -/
  | unitResultComplete (weft id : Nat)
  /-- MEMORY_ACCESS_COMPLETE (R305). A load, atomic or pop returns its data and the flag falls. -/
  | memoryAccessComplete (weft id : Nat)
  /-- STORE_PERFORM (R133). A store-queue entry leaves the queue and performs at the core. -/
  | storePerform (weft : Nat)
  /-- ATOMIC_AT_HOME (R140). An atomic request is performed at its location's home. -/
  | atomicAtHome (weft : Nat)
  /-- WINDOW_ACCESS (R104). A window access arrives at its target structure. -/
  | windowAccess (id : Nat)
  /-- REMOTE_ACCESS (R82). A remote-segment access arrives at its home package and is translated there. -/
  | remoteAccess (r : RemoteReq)
  /-- WALK_SLOT_GRANT (R73). Each cycle a shared walker slot is granted in round robin. -/
  | walkSlotGrant (die : Nat)
  /-- WALK_COMPLETE (R72). A page walk ends and all attached requesters get its result. -/
  | walkComplete (die id : Nat)
  /-- PAGER_RESOLVE (R77). A pager resolves the faults and releases the subgroup or command. -/
  | pagerResolve (t : PagerTarget)
  /-- PAGER_DECLINE (R77). A pager declines; lanes stop or the command ends with PAGE. -/
  | pagerDecline (t : PagerTarget)
  /-- COPY_SECTOR_LAND (R79). A copy sector lands at its destination. -/
  | copySectorLand (core queue : Nat)
  /-- MQ_ENTRY_ARRIVAL (R118). A pushed entry arrives at the target queue and lands or is refused. -/
  | mqEntryArrival (core slot : Nat)
  /-- MQ_CREDIT_RETURN (R119). A credit return arrives at the sender slot. -/
  | mqCreditReturn (id : Nat)
  /-- PUSH_RETRY_TIMEOUT (R118). A refused push lane re-executes after 1,024 cycles. -/
  | pushRetryTimeout (weft : Nat)
  /-- MATRIX_WORD_START (R326). A matrix word starts once conflicting earlier words complete. -/
  | matrixWordStart (core id : Nat)
  /-- TREADLE_STEP_END (R340). A treadle step ends and the step index advances. -/
  | treadleStepEnd (core id : Nat)
  /-- MATRIX_WORD_COMPLETE (R328). The word's flag falls 8 cycles after its last step on every member. -/
  | matrixWordComplete (core id : Nat)
  /-- BARRIER_COMPLETE (R358). A barrier phase completes once all conditions hold. -/
  | barrierComplete (b : BarrierName)
  /-- LAUNCH_TAKE (R372). The die scheduler takes a launch record from a launch queue. -/
  | launchTake (die : Nat)
  /-- PANEL_PLACE (R377). The scheduler places one panel or group on a core. -/
  | panelPlace (die : Nat)
  /-- PANEL_END (R379). After its last lane exits and drains, a panel ends and frees resources. -/
  | panelEnd (panel : Nat)
  /-- STEAL_STEP (R382). Every 64 cycles the scheduler steals records for idle requesters. -/
  | stealStep (die : Nat)
  /-- KEY_DRAIN_COMPLETE (R88). A draining key slot becomes EMPTY and its lines are dropped. -/
  | keyDrainComplete (key : Nat)
  /-- NET_PACKET_SEND (R425). The network engine sends the next packet of a post. -/
  | netPacketSend (core queue : Nat)
  /-- NWAIT_RECHECK (R366). A held nwait re-reads its word at an event or every 1,024 cycles. -/
  | nwaitRecheck (weft : Nat)
  /-- PUBLISH_CHECK (R371). The die controller checks, copies and seals published code. -/
  | publishCheck (id : Nat)
  /-- TRACE_RING_MOVE (R473). The die controller moves a trace record into the context's ring. -/
  | traceRingMove (core : Nat)
  /-- PANEL_SAVE (R418). A halted panel is saved into a save block. -/
  | panelSave (panel : Nat)
  /-- GANG_SWITCH (R421). At the switch instant one gang is pre-empted and another placed. -/
  | gangSwitch (gang : Nat)
  /-- HANG_WATCHDOG (R422). A weft's hang counter reaches its limit and is reported. -/
  | hangWatchdog (weft : Nat)
  /-- COMMIT_POINT (R449). A REPLAY panel drains held stores and writes its checkpoint. -/
  | commitPoint (panel : Nat)
  /-- ROLLBACK (R451). A REPLAY panel is halted and restored from its checkpoint. -/
  | rollback (panel : Nat) (cause : RollbackCause)
  /-- CROSS_FUNCTION_ACCOWN (R455). The die controller spills and retags a tile of another function. -/
  | crossFunctionAccown (id : Nat)
  /-- PANEL_RESUME (R419). A saved panel is restored on a core that fits. -/
  | panelResume (saved : Nat)
  /-- ECC_ERROR (R440). An error is detected; corrected or the granule poisoned. -/
  | eccError (e : EccTarget)
  /-- PREEMPT_REQUEST (R416). A pre-emption request halts a panel or group. -/
  | preemptRequest (panel : Nat)
  /-- FUNCTION_LEVEL_RESET (R456). Reset of a virtual function clears all its state within 50 µs. -/
  | functionLevelReset (fn : Nat)
  /-- QUAD_DRAIN (R458). The die controller empties a quad of contexts. -/
  | quadDrain (die quad : Nat)
  /-- QUAD_REPAIR (R459). A drained quad is tested, re-fused or replaced by a spare. -/
  | quadRepair (die quad : Nat) (r : RepairResult)
  /-- HBM_ROW_SPARE (R461). A base die copies and redirects an HBM row. -/
  | hbmRowSpare (stack row : Nat)
  /-- FIRMWARE_UPDATE (R462). One die controller's firmware is replaced and restarted. -/
  | firmwareUpdate (die : Nat) (signed : Bool)
  /-- KEY_CREATE (R88). The die controller creates an owner key in a slot. -/
  | keyCreate (key : Nat)
  /-- KEY_DESTROY (R88). An owner key slot goes to DRAINING. -/
  | keyDestroy (key : Nat)
  /-- LAUNCH_DOORBELL (R466). A host LQDB write advances a launch queue's TAIL. -/
  | launchDoorbell (fn : Nat) (value : DWord)
  /-- APSEG_WRITE (R464). Function 0 sets a function's aperture segment and context. -/
  | apsegWrite (fn : Nat) (value : DWord)
  /-- EVCTL_WRITE (R468). Host updates event ring control, letting held records go. -/
  | evctlWrite (fn : Nat) (value : DWord)
  /-- BAR0_WRITE (R464). Host write to a BAR0 register without a row of its own. -/
  | bar0Write (fn off : Nat) (value : DWord)
  /-- HOST_APERTURE_WRITE (R465). Host BAR2 write performs as a store of the aperture context. -/
  | hostApertureWrite (fn off : Nat) (bytes : List Byte)
  /-- HOST_APERTURE_READ (R465). Host BAR2 read performs as a load of the aperture context. -/
  | hostApertureRead (fn off len : Nat)
  /-- ATS_TRANSLATION_RESPONSE (R467). An ATS response arrives for a host-segment access. -/
  | atsTranslationResponse (id : Nat) (page : Option Nat)
  /-- ATS_INVALIDATION (R467). Host ATS invalidation request is completed after draining. -/
  | atsInvalidation (die page : Nat)
  /-- NET_PACKET_RECEIVE (R432). A received packet is placed or dropped and acknowledged. -/
  | netPacketReceive (die : Nat) (p : Packet)
  /-- NET_ACK_RECEIVE (R434). An acknowledgement arrives and drives retransmission and completion. -/
  | netAckReceive (die : Nat) (a : NetAck)
  /-- NET_RTO_EXPIRY (R434). A packet's retransmission timeout expires. -/
  | netRtoExpiry (die pdc : Nat) (psn : Word)
  /-- PDC_IDLE_TIMEOUT (R426). A PDC idle for 16 RTO closes. -/
  | pdcIdleTimeout (die pdc : Nat)
  /-- PTP_MESSAGE (R470). A 1588 message is received and disciplines TIME. -/
  | ptpMessage (master : Nat)
  /-- HOLDOVER_REPORT (R470). After 1 s without messages holdover is reported. -/
  | holdoverReport
  /-- THERMAL_THROTTLE (R487). Power or temperature limit reached; slots and steps withheld. -/
  | thermalThrottle (die : Nat)
  /-- THERMAL_TRIP (R487). At 115 °C the die halts and reports a trip. -/
  | thermalTrip (die : Nat)
  /-- COLD_RESET (R488). Power-on or reset pin runs the bring-up sequence. -/
  | coldReset (fail : Option BootFail)
  /-- ATTESTATION_REQUEST (R489). D0's controller writes a signed attestation report. -/
  | attestationRequest (bus : Nat) (nonce : List Byte)
  /-- DEBUG_ATTACH (R475). A debugger is attached to a context. -/
  | debugAttach (ctx : CtxId)
  /-- DEBUG_DETACH (R479). Detaching resumes every halted weft. -/
  | debugDetach (ctx : CtxId)
  /-- DEBUG_RESUME (R479). The debugger resumes a halted weft. -/
  | debugResume (weft : Nat)
  /-- DEBUG_STEP (R479). The debugger issues exactly one slot of a halted weft. -/
  | debugStep (weft : Nat)
  /-- DEBUG_HALT (R479). A halt command halts wefts at their next slot boundary. -/
  | debugHalt (t : HaltTarget)
  /-- DEBUG_SNAPSHOT (R478). Snapshot of a halted weft's records is taken. -/
  | debugSnapshot (weft : Nat)
  /-- BREAKPOINT_WRITE (R475). System software writes a breakpoint or watchpoint entry. -/
  | breakpointWrite (ctx : CtxId) (watch : Bool) (index : Nat) (entry : BitVec 128)
  /-- LANE_RELEASE (R408). A stopped lane is released to execute its word again. -/
  | laneRelease (weft lane : Nat)
  /-- LANE_RELEASE_AT_PC (R408). A stopped lane is released at a given header PC. -/
  | laneReleaseAtPc (weft lane : Nat) (pc : DWord)
  /-- LANE_END (R290). System software ends a stopped lane as exit does. -/
  | laneEnd (weft lane : Nat)
  /-- LAUNCH_QUEUE_TABLE_WRITE (R372). System software writes a launch-queue table entry. -/
  | launchQueueTableWrite (die entry : Nat) (v : Option (CtxId × Seg))
  /-- STEAL_TABLE_WRITE (R381). System software writes a context's steal table. -/
  | stealTableWrite (ctx : CtxId) (die index : Nat) (seg : Seg)
  /-- ENDPOINT_WRITE (R427). System software writes a network endpoint entry. -/
  | endpointWrite (ctx : CtxId) (index : Nat) (entry : BitVec 512)
  /-- ASSOCIATION_KEY_WRITE (R428). A security association key is written and bound to a key index. -/
  | associationKeyWrite (sa okey : Nat)
  /-- GANG_INSTANT_WRITE (R421). System software writes the next gang switch instant. -/
  | gangInstantWrite (out inc : Nat) (at_ : DWord)
  /-- PNODE_WRITE (R367). System software writes the package's pod node. -/
  | pnodeWrite (node : BitVec 6)
  /-- FIRMWARE_RESTART_END (R462). A die controller ends its restart after a firmware update, and the scheduler and the lanes waiting on the controller resume. -/
  | firmwareRestartEnd (die : Nat)
  /-- THROTTLE_RELEASE (R487). Package power or junction temperature falls back below its limit, and the die controllers stop withholding slots and delaying treadle steps. -/
  | throttleRelease (die : Nat)
  /-- TRACE_RING_WRITE (R473). System software names a context's trace ring through the die controller. -/
  | traceRingWrite (ctx : CtxId) (seg : Seg)
  deriving DecidableEq, Repr

end Sys2Proof
end

