-- ==== Sys2Proof/Decode.lean ====
section
/-! DEFINITION. The decoder (clause headers R178 to R181, instruction words R182 to R198), the checks of R197 on the
fields of a word, and the encoder. One table of forms (R195) serves both. -/
namespace Sys2Proof

/-- The reasons of ILLEGAL (R197, R284, R385). -/
inductive Illegal where
  | major | sub | place | field | type | shape | operand | header | entry | frame
  deriving DecidableEq, Repr

/-- The reason value of ILLEGAL (R197). -/
def Illegal.code : Illegal → Nat
  | .major => 1 | .sub => 2 | .place => 3 | .field => 4 | .type => 5 | .shape => 6 | .operand => 7 | .header => 8
  | .entry => 9 | .frame => 10

/-! ### Codes of the field types -/

/-- R184. -/
def Ty.all : List Ty :=
  [.b32, .b64, .i32, .n32, .i64, .n64, .i16, .n16, .i8, .n8, .f32, .f16, .bf16, .e4m3, .e5m2, .bf16x2]
/-- R184. -/
def Ty.code : Ty → BitVec 4
  | .b32 => 0 | .b64 => 1 | .i32 => 2 | .n32 => 3 | .i64 => 4 | .n64 => 5 | .i16 => 6 | .n16 => 7
  | .i8 => 8 | .n8 => 9 | .f32 => 10 | .f16 => 11 | .bf16 => 12 | .e4m3 => 13 | .e5m2 => 14 | .bf16x2 => 15
/-- R184. -/
def Ty.ofCode (c : BitVec 4) : Ty := Ty.all.getD c.toNat .b32
/-- Whether an operand of the type is 64 bits wide (R183, R222). -/
def Ty.is64 : Ty → Bool
  | .b64 | .i64 | .n64 => true
  | .b32 | .i32 | .n32 | .i16 | .n16 | .i8 | .n8 | .f32 | .f16 | .bf16 | .e4m3 | .e5m2 | .bf16x2 => false
/-- The width of a 32- or 64-bit operand of the type. -/
def Ty.width (t : Ty) : Nat := if t.is64 then 64 else 32

/-- R185. -/
def Rnd.code : Rnd → BitVec 3
  | .rne => 0 | .rz => 1 | .rp => 2 | .rm => 3 | .rs => 4
/-- R185; 5 to 7 are reserved. -/
def Rnd.ofCode (c : BitVec 3) : Option Rnd := [Rnd.rne, .rz, .rp, .rm, .rs][c.toNat]?

/-- R188. -/
def Size.code : Size → BitVec 3
  | .b8 => 0 | .b16 => 1 | .b32 => 2 | .b64 => 3 | .b128 => 4
/-- R188; 5 to 7 are reserved. -/
def Size.ofCode (c : BitVec 3) : Option Size := [Size.b8, .b16, .b32, .b64, .b128][c.toNat]?
/-- The width in bytes (R307). -/
def Size.bytes : Size → Nat
  | .b8 => 1 | .b16 => 2 | .b32 => 4 | .b64 => 8 | .b128 => 16

/-- R188. -/
def Scope.code : Scope → BitVec 3
  | .none => 0 | .ln => 1 | .core => 2 | .quad => 3 | .die => 4 | .pkg => 5 | .pod => 6
/-- R188; 7 is reserved. -/
def Scope.ofCode (c : BitVec 3) : Option Scope := [Scope.none, .ln, .core, .quad, .die, .pkg, .pod][c.toNat]?
/-- The rank of a scope: a wider scope has a higher rank (R4). -/
def Scope.rank (s : Scope) : Nat := s.code.toNat

/-- R188. -/
def Ord.code : Ord → BitVec 2
  | .plain => 0 | .acq => 1 | .rel => 2 | .ar => 3
/-- R188. -/
def Ord.ofCode (c : BitVec 2) : Ord := [Ord.plain, .acq, .rel, .ar].getD c.toNat .plain

/-- R189. -/
def ETy.code : ETy → BitVec 4
  | .bfp2 => 0 | .bfp3 => 1 | .bfp4 => 2 | .bfp5 => 3 | .bfp6 => 4 | .bfp7 => 5 | .bfp8 => 6 | .bfa16 => 7
  | .bf16 => 8 | .f32 => 9 | .e5m3 => 10 | .i48 => 11
/-- R189; 12 to 15 are reserved. -/
def ETy.ofCode (c : BitVec 4) : Option ETy :=
  [ETy.bfp2, .bfp3, .bfp4, .bfp5, .bfp6, .bfp7, .bfp8, .bfa16, .bf16, .f32, .e5m3, .i48][c.toNat]?
/-- The mantissa width n of R332; 0 for the types that are no operand of a product. -/
def ETy.bits : ETy → Nat
  | .bfp2 => 2 | .bfp3 => 3 | .bfp4 => 4 | .bfp5 => 5 | .bfp6 => 6 | .bfp7 => 7 | .bfp8 => 8 | .bfa16 => 16
  | .bf16 | .f32 | .e5m3 | .i48 => 0
/-- The base K of R194. -/
def ETy.baseK : ETy → Nat
  | .bfp2 => 128 | .bfp3 | .bfp4 => 64
  | .bfp5 | .bfp6 | .bfp7 | .bfp8 | .bfa16 | .bf16 | .f32 | .e5m3 | .i48 => 32
/-- Rows of K that one macro holds (R194). -/
def ETy.kmac (e : ETy) : Nat := 2 * e.baseK
/-- Columns of N that one macro holds (R194). -/
def ETy.nmac (e : ETy) : Nat := if e = .bfa16 then 64 else 128

/-- R193. -/
def SReg.code : SReg → BitVec 12
  | .hmap => 0 | .picks => 1 | .laneid => 2 | .weftid => 3 | .core => 4 | .ctxid => 5 | .owner => 6 | .cir => 7
  | .time => 8 | .feat => 9 | .trapv => 10 | .prio => 11 | .xinva => 0x10 | .xinv => 0x11
  | .mqs n => 0x20 ||| n.setWidth 12
/-- R193; every other value is reserved. -/
def SReg.ofCode (c : BitVec 12) : Option SReg :=
  if c.toNat < 12 then
    [SReg.hmap, .picks, .laneid, .weftid, .core, .ctxid, .owner, .cir, .time, .feat, .trapv, .prio][c.toNat]?
  else if c = 0x10 then some .xinva
  else if c = 0x11 then some .xinv
  else if c.extractLsb' 4 8 = 2 then some (.mqs (c.setWidth 4))
  else none
/-- Whether `sysw` may write the register (R193). -/
def SReg.writable : SReg → Bool
  | .ctxid | .owner | .cir | .trapv | .prio | .xinva | .xinv | .mqs _ => true
  | .hmap | .picks | .laneid | .weftid | .core | .time | .feat => false
/-- Whether `sysr` may read the register in program mode (R193). -/
def SReg.readable : SReg → Bool
  | .hmap | .picks | .laneid | .weftid | .core | .cir | .time | .feat => true
  | .ctxid | .owner | .trapv | .prio | .xinva | .xinv | .mqs _ => false

/-- R183. -/
def Opnd.code : Opnd → BitVec 9
  | .v n => n.setWidth 9
  | .s n => 0x100 ||| n.setWidth 9
  | .zero => 0x180
  | .lane => 0x181
/-- R183; the reserved values name no operand. -/
def Opnd.ofCode (c : BitVec 9) : Option Opnd :=
  if c.toNat < 0x100 then some (.v (c.setWidth 8))
  else if c.toNat < 0x140 then some (.s (c.setWidth 6))
  else if c = 0x180 then some .zero
  else if c = 0x181 then some .lane
  else none

/-! ### What a field may hold -/

/-- What an operand field of a form may hold. `step`: a vN with N a multiple of it, naming `step` registers (0: no vN).
`s`: 0 no sN, 1 any, 2 an even N, 3 N at most 58 (R257). `nib`: the field holds a 4-bit number, not a register. -/
structure OC where
  step : Nat := 0
  s    : Nat := 0
  z    : Bool := false
  l    : Bool := false
  used : Bool := true
  nib  : Bool := false
  deriving DecidableEq, Repr

/-- The registers that an operand of a width takes. -/
def span (w64 : Bool) : Nat := if w64 then 2 else 1

/-- A field that the form does not use. -/
def OC.no : OC := { used := false }
/-- A source register of the width (R183). -/
def OC.src (w64 : Bool) : OC := { step := span w64, s := 1, z := true, l := true }
/-- A source register that may not be LANE (a mask, a length, an address of format M). -/
def OC.srcZ (w64 : Bool) : OC := { step := span w64, s := 1, z := true }
/-- A 64-bit address or value: an even vN or an sN (R347, R278, R189). -/
def OC.adr : OC := { step := 2, s := 1 }
/-- A destination: a lane register of the width, or ZERO (R183). -/
def OC.dst (w64 : Bool) : OC := { step := span w64, z := true }
/-- A destination that may be an sN (R195, "D: s"). -/
def OC.dstS (w64 : Bool) : OC := { step := span w64, s := 1, z := true }
/-- A lane register, and nothing else. -/
def OC.vOnly (w64 : Bool) : OC := { step := span w64 }
/-- A group of sixteen registers (R318, R347). -/
def OC.grp : OC := { step := 16 }
/-- A weft scalar, and nothing else (R309). -/
def OC.sOnly : OC := { s := 1 }
/-- A 32-bit lane register or an sN (R279). -/
def OC.cond : OC := { step := 1, s := 1 }
/-- The table operand of `bperm` (R257). -/
def OC.table : OC := { s := 3 }
/-- A 4-bit number. -/
def OC.nibble : OC := { nib := true }

/-- The part of a field's check that gives FIELD (R197): an unused field is 0, a number fits. -/
def OC.fieldOk (k : OC) (o : Opnd) : Bool :=
  if k.nib then (match o with | .v n => n.toNat < 16 | .s _ => false | .zero => false | .lane => false)
  else k.used || o == .v 0
/-- The part that gives OPERAND (R183). -/
def OC.operandOk (k : OC) (o : Opnd) : Bool :=
  if k.nib || !k.used then true
  else match o with
    | .v n => k.step != 0 && n.toNat % k.step == 0
    | .s n => k.s == 1 || (k.s == 2 && n.toNat % 2 == 0) || (k.s == 3 && n.toNat ≤ 58)
    | .zero => k.z
    | .lane => k.l
/-- The number just above the highest lane register that the operand names (R176); 0 when it names none. -/
def OC.top (k : OC) (o : Opnd) : Nat :=
  if k.nib || !k.used then 0 else match o with
    | .v n => n.toNat + k.step
    | .s _ => 0
    | .zero => 0
    | .lane => 0

/-- The first failing check among FIELD, TYPE, SHAPE and OPERAND, in the order of R197. -/
def firstBad (field type shape operand : Bool) : Option Illegal :=
  if !field then some .field else if !type then some .type else if !shape then some .shape
  else if !operand then some .operand else none

/-- A form of format V3 (R186, R195). -/
structure V3Form where
  inst  : Common → Bool → V3 → Instr
  types : List Ty
  d     : Ty → OC
  a     : Ty → OC
  b     : Ty → OC
  c     : Ty → OC
  rnd   : Bool := false
  sat   : Bool := false
  scan  : Bool := false

/-- The types of `cvt` (R267). -/
def cvtTypes : List Ty := [.i32, .n32, .i64, .n64, .i16, .n16, .i8, .n8, .f32, .f16, .bf16, .e4m3, .e5m2]

/-- The source type of a `cvt` word, held in bits 3:0 of field C (R186). -/
def cvtSource (o : Opnd) : Ty :=
  match o with
  | .v n => Ty.ofCode (n.setWidth 4)
  | .s _ => .b32
  | .zero => .b32
  | .lane => .b32

/-- The checks of R197 on the fields of a V3 word. `cvt` is the form whose field C is a type (R267). -/
def V3Form.check (m : V3Form) (cvt : Bool) (ex : Bool) (f : V3) : Option Illegal :=
  let a := if cvt then OC.src (cvtSource f.c).is64 else m.a f.ty
  firstBad
    ((f.rnd == .rne || m.rnd) && (!f.sat || m.sat) && (!ex || m.scan) &&
      (m.d f.ty).fieldOk f.d && a.fieldOk f.a && (m.b f.ty).fieldOk f.b && (m.c f.ty).fieldOk f.c)
    (m.types.contains f.ty && (!cvt || (cvtTypes.contains (cvtSource f.c) && cvtSource f.c != f.ty)))
    true
    ((m.d f.ty).operandOk f.d && a.operandOk f.a && (m.b f.ty).operandOk f.b && (m.c f.ty).operandOk f.c)

/-- A form of format VI (R187, R195). -/
structure VIForm where
  inst  : Common → VI → Instr
  types : List Ty
  d     : Ty → OC
  a     : Ty → OC
  imm   : Ty → BitVec 22 → Bool := fun _ _ => true

/-- The checks of R197 on the fields of a VI word. -/
def VIForm.check (m : VIForm) (f : VI) : Option Illegal :=
  firstBad ((m.d f.ty).fieldOk f.d && (m.a f.ty).fieldOk f.a && m.imm f.ty f.imm) (m.types.contains f.ty) true
    ((m.d f.ty).operandOk f.d && (m.a f.ty).operandOk f.a)

/-- A form of format M (R188, R195). -/
structure MForm where
  inst : Common → MF → Instr
  d    : Size → OC
  a    : OC
  b    : Size → OC
  /-- Which SIZE, SCOPE, ORD and DISP the form takes (R188, R310, R312). -/
  mode : MF → Bool

/-- The checks of R197 on the fields of an M word. -/
def MForm.check (m : MForm) (f : MF) : Option Illegal :=
  firstBad (m.mode f && (m.d f.size).fieldOk f.d && m.a.fieldOk f.a && (m.b f.size).fieldOk f.b) true true
    ((m.d f.size).operandOk f.d && m.a.operandOk f.a && (m.b f.size).operandOk f.b)

/-- A form of format X (R189, R322): which fields it uses. -/
structure XForm where
  inst  : Common → XF → Instr
  types : List ETy
  shape : Bool := false
  td    : Bool := false
  part  : Bool := false
  bs    : Bool := false
  gm    : Bool := false
  swz   : Bool := false
  qp    : Bool := false
  a     : OC := OC.no
  b     : OC := OC.no
  /-- The form uses neither ETYPE nor SHAPE (R322). -/
  plain : Bool := false
  /-- The form's product goes to partial tiles from TD (R336, R337). -/
  prod  : Bool := false

/-- M of a SHAPE code (R194). -/
def shapeM (s : BitVec 5) : Nat := if s.getLsbD 4 then 64 else 32
/-- N of a SHAPE code (R194). -/
def shapeN (s : BitVec 5) : Nat := 32 * 2 ^ (s.extractLsb' 2 2).toNat
/-- K of a SHAPE code (R194). -/
def shapeK (e : ETy) (s : BitVec 5) : Nat := e.baseK * 2 ^ (s.extractLsb' 0 2).toNat
/-- The macros that a product uses (R194). -/
def shapeMacros (e : ETy) (s : BitVec 5) : Nat := ceilDiv (shapeK e s) e.kmac * ceilDiv (shapeN s) e.nmac
/-- The partial tiles that a product uses (R336). -/
def shapeTiles (e : ETy) (s : BitVec 5) : Nat := ceilDiv (shapeM s * shapeN s * (shapeK e s / 32)) 8192

/-- The checks of R197 on the fields of an X word. The own-bit rule of GM needs the issuing core (R189, R330). -/
def XForm.check (m : XForm) (f : XF) : Option Illegal :=
  firstBad
    ((m.td || f.td == 0) && (m.bs || f.bs == 0) && (m.gm || f.gm == 0) && (m.swz || f.swz == 0) &&
      (m.qp || f.qp == 0) && (!m.plain || (f.ety == .bfp2 && f.shape == 0)) && m.a.fieldOk f.a && m.b.fieldOk f.b)
    (m.types.contains f.ety)
    (if m.shape then f.shape.extractLsb' 2 2 != 3 && f.bs.toNat + shapeMacros f.ety f.shape ≤ 16 else f.shape == 0)
    (m.a.operandOk f.a && m.b.operandOk f.b && (!m.part || f.td.toNat < 4) &&
      (!m.prod || f.td.toNat + shapeTiles f.ety f.shape ≤ 4))

/-- A form of format E (R190, R347): which fields it uses. -/
structure EForm where
  inst : Common → EF → Instr
  q    : Bool := false
  h    : Bool := false
  swz  : Bool := false
  ds   : Bool := false
  /-- `copy`, `npost`: BAR, SCOPE and TAG. -/
  bar  : Bool := false
  /-- The barrier subs: SCOPE and TAG. -/
  tag  : Bool := false
  d    : OC := OC.no
  a    : OC := OC.no
  b    : OC := OC.no

/-- Whether SCOPE and TAG name a barrier (R347). -/
def barrierField (s : Scope) (t : BitVec 3) : Bool :=
  2 ≤ s.rank && (t == 0 || s != .core)

/-- The checks of R197 on the fields of an E word. -/
def EForm.check (m : EForm) (f : EF) : Option Illegal :=
  firstBad
    ((m.q || f.q == 0) && (m.h || f.h == 0) && (m.swz || f.swz == 0) && (m.ds || !f.ds) && (m.bar || !f.bar) &&
      (if m.tag || f.bar then barrierField f.scope f.tag else f.scope == .none && f.tag == 0) &&
      m.d.fieldOk f.d && m.a.fieldOk f.a && m.b.fieldOk f.b)
    true true (m.d.operandOk f.d && m.a.operandOk f.a && m.b.operandOk f.b)

/-- A form of format C (R191, R278). -/
structure CForm where
  inst : Common → CF → Instr
  jm  : Bool := false
  a   : OC := OC.no
  b   : OC := OC.no
  imm : BitVec 16 → Bool := fun i => i == 0

/-- The checks of R197 on the fields of a C word. -/
def CForm.check (m : CForm) (f : CF) : Option Illegal :=
  firstBad ((m.jm || f.jm == 0) && m.imm f.imm && m.a.fieldOk f.a && m.b.fieldOk f.b) true true
    (m.a.operandOk f.a && m.b.operandOk f.b)

/-- A form of format S (R192, R347). -/
structure SForm where
  inst : Common → SF → Instr
  sreg : SReg → Bool := fun r => r == .hmap
  d    : OC := OC.no
  a    : OC := OC.no
  imm  : BitVec 14 → Bool := fun i => i == 0

/-- The checks of R197 on the fields of an S word. -/
def SForm.check (m : SForm) (f : SF) : Option Illegal :=
  firstBad (m.sreg f.sreg && m.imm f.imm && m.d.fieldOk f.d && m.a.fieldOk f.a) true true
    (m.d.operandOk f.d && m.a.operandOk f.a)

/-! ### The opcode map (R195) -/

/-- An operand of the word's type. -/
def srcT (t : Ty) : OC := OC.src t.is64
/-- A 32-bit source. -/
def src32 (_ : Ty) : OC := OC.src false
/-- A 64-bit source. -/
def src64 (_ : Ty) : OC := OC.src true
/-- A destination of the word's type. -/
def dstT (t : Ty) : OC := OC.dst t.is64
/-- A 32-bit destination. -/
def dst32 (_ : Ty) : OC := OC.dst false
/-- A 64-bit destination. -/
def dst64 (_ : Ty) : OC := OC.dst true
/-- A destination of the word's type that may be an sN. -/
def dstST (t : Ty) : OC := OC.dstS t.is64
/-- A field not used. -/
def unused (_ : Ty) : OC := OC.no
/-- The member mask of the cross-lane forms (R300). -/
def mask32 (_ : Ty) : OC := OC.srcZ false

/-- The integer types of R244. -/
def tInts : List Ty := [.i32, .n32, .i64, .n64]
/-- The bit types. -/
def tBits : List Ty := [.b32, .b64]

/-- A V3 form with two sources. -/
def v3ab (mk : Common → V3 → Instr) (ts : List Ty) (d a b : Ty → OC) : V3Form :=
  { inst := fun c _ f => mk c f, types := ts, d := d, a := a, b := b, c := unused }
/-- A V3 form with one source. -/
def v3a (mk : Common → V3 → Instr) (ts : List Ty) (d a : Ty → OC) : V3Form :=
  { inst := fun c _ f => mk c f, types := ts, d := d, a := a, b := unused, c := unused }
/-- A V3 form with three sources. -/
def v3abc (mk : Common → V3 → Instr) (ts : List Ty) (d a b c : Ty → OC) : V3Form :=
  { inst := fun c _ f => mk c f, types := ts, d := d, a := a, b := b, c := c }
/-- The form with a rounding mode allowed (R185). -/
def V3Form.wr (m : V3Form) : V3Form := { m with rnd := true }
/-- The form with `.sat` allowed (R185). -/
def V3Form.ws (m : V3Form) : V3Form := { m with sat := true }
/-- A vote or reduction form (R302). -/
def v3x (mk : Common → V3 → Instr) (ts : List Ty) : V3Form :=
  { inst := fun c _ f => mk c f, types := ts, d := dstST, a := srcT, b := unused, c := mask32 }
/-- A scan form (R302). -/
def v3scan (mk : Common → Bool → V3 → Instr) (ts : List Ty) : V3Form :=
  { inst := mk, types := ts, d := dstT, a := srcT, b := unused, c := mask32, scan := true }
/-- A cross-lane exchange form (R301). -/
def v3xl (mk : Common → V3 → Instr) : V3Form :=
  { inst := fun c _ f => mk c f, types := tBits, d := dstT, a := srcT, b := src32, c := mask32 }

/-- The V3 forms of a major, by SUB (R195). -/
def v3Forms : Nat → List V3Form
  | 0x00 => [(v3ab .intAdd tInts dstT srcT srcT).ws, (v3ab .intSub tInts dstT srcT srcT).ws,
      v3ab .intMul tInts dstT srcT srcT, v3ab .mulhi tInts dstT srcT srcT, (v3abc .mad tInts dstT srcT srcT srcT).ws,
      v3ab .intMin tInts dstT srcT srcT, v3ab .intMax tInts dstT srcT srcT, v3a .intAbs tInts dstT srcT,
      v3a .intNeg tInts dstT srcT, v3abc .sad tInts dstT srcT srcT srcT]
  | 0x02 => [v3ab .and tBits dstT srcT srcT, v3ab .or tBits dstT srcT srcT, v3ab .xor tBits dstT srcT srcT,
      v3ab .andn tBits dstT srcT srcT, v3ab .orn tBits dstT srcT srcT, v3a .not tBits dstT srcT,
      v3abc .bsel tBits dstT srcT srcT srcT]
  | 0x03 => [v3ab .shl tBits dstT srcT src32, v3ab .shr tBits dstT srcT src32, v3ab .sra tBits dstT srcT src32,
      v3ab .rotl tBits dstT srcT src32, v3ab .rotr tBits dstT srcT src32, v3abc .fsh tBits dstT srcT srcT src32]
  | 0x04 => [v3ab .intSeteq tInts dst32 srcT srcT, v3ab .intSetne tInts dst32 srcT srcT,
      v3ab .intSetlt tInts dst32 srcT srcT, v3ab .intSetle tInts dst32 srcT srcT,
      v3ab .intSetgt tInts dst32 srcT srcT, v3ab .intSetge tInts dst32 srcT srcT,
      v3abc .sel tBits dstT srcT srcT src32]
  | 0x05 => [v3a .popc tBits dst32 srcT, v3a .clz tBits dst32 srcT, v3a .ctz tBits dst32 srcT,
      v3a .brev tBits dstT srcT, v3abc .bfe tBits dstT srcT unused src32, v3abc .bfi tBits dstT srcT srcT src32]
  | 0x06 => [v3a .segof [.b64] dst64 src64, v3a .offof [.b64] dst64 src64, v3ab .mkaddr [.b64] dst64 src64 src64,
      v3ab .addoff [.b64] dst64 src64 src64, v3a .absaddr [.b64] dst64 src64]
  | 0x08 => [v3ab .bmm [.b64] dst64 src64 src64, v3ab .bmmt [.b64] dst64 src64 src64,
      v3abc .bmmx [.b64] dst64 src64 src64 src64]
  | 0x09 => [v3ab .spread tBits dstT srcT srcT, v3ab .gather tBits dstT srcT srcT]
  | 0x0A => [v3ab .bperm [.b64] dst64 src64 (fun _ => OC.table), v3abc .bgat [.b32] dst32 src32 src32 src32,
      v3a .bswap tBits dstT srcT]
  | 0x0B => [v3ab .mulw [.i32, .n32] dst64 src32 src32, v3abc .madw [.i32, .n32] dst64 src32 src32 src64]
  | 0x0C => [v3a .mov tBits dstT srcT, v3a .rdactive [.b32] dstST unused]
  | 0x0D => [v3ab .addsat [.i8, .n8, .i16, .n16, .i32, .n32] dst32 src32 src32,
      v3ab .subsat [.i8, .n8, .i16, .n16, .i32, .n32] dst32 src32 src32,
      v3ab .packs [.i8, .n8, .i16, .n16] dst32 src32 src32, v3ab .packn [.i8, .n8, .i16, .n16] dst32 src32 src32]
  | 0x10 => [(v3ab .fpAdd [.f32, .bf16x2] dst32 src32 src32).wr.ws, (v3ab .fpSub [.f32, .bf16x2] dst32 src32 src32).wr.ws,
      (v3ab .fpMul [.f32, .bf16x2] dst32 src32 src32).wr.ws, (v3abc .fma [.f32, .bf16x2] dst32 src32 src32 src32).wr.ws,
      v3ab .fpMin [.f32, .bf16x2] dst32 src32 src32, v3ab .fpMax [.f32, .bf16x2] dst32 src32 src32,
      v3a .fpAbs [.f32, .bf16x2] dst32 src32, v3a .fpNeg [.f32, .bf16x2] dst32 src32]
  | 0x11 => [v3ab .fpSeteq [.f32] dst32 src32 src32, v3ab .fpSetne [.f32] dst32 src32 src32,
      v3ab .fpSetlt [.f32] dst32 src32 src32, v3ab .fpSetle [.f32] dst32 src32 src32,
      v3ab .fpSetgt [.f32] dst32 src32 src32, v3ab .fpSetge [.f32] dst32 src32 src32,
      v3ab .setnan [.f32] dst32 src32 src32]
  | 0x12 => [(v3abc (fun c f => .cvt c ⟨f.ty, cvtSource f.c, f.rnd, f.sat, f.d, f.a⟩) cvtTypes dstT srcT unused
        (fun _ => OC.nibble)).wr.ws,
      (v3a .frnd [.f32] dst32 src32).wr]
  | 0x13 => [v3a .rcp [.f32] dst32 src32, v3a .rsqrt [.f32] dst32 src32, v3a .sqrt [.f32] dst32 src32,
      v3a .exp2 [.f32] dst32 src32, v3a .log2 [.f32] dst32 src32, v3a .sin [.f32] dst32 src32,
      v3a .cos [.f32] dst32 src32, v3a .tanh [.f32] dst32 src32]
  | 0x14 => [(v3ab .pack2 [.bf16x2] dst32 src32 src32).wr, v3a .unpklo [.f32] dst32 src32, v3a .unpkhi [.f32] dst32 src32]
  | 0x15 => [(v3ab .pack4 [.e4m3, .e5m2] dst32 src32 src32).wr.ws, v3a .unpk8lo [.e4m3, .e5m2] dst32 src32,
      v3a .unpk8hi [.e4m3, .e5m2] dst32 src32]
  | 0x16 => [(v3a .sclenc [.f32] dst32 src32).wr, v3a .scldec [.f32] dst32 src32]
  | 0x18 => [v3a .rnd [.b32] dst32 src32]
  | 0x19 => [(v3abc .dot2 [.bf16x2] dst32 src32 src32 src32).wr, (v3abc .dot4 [.e4m3, .e5m2] dst32 src32 src32 src32).wr]
  | 0x1A => [v3xl .xlGet, v3xl .xlRot, v3xl .xlXor, v3xl .xlRev]
  | 0x1B => [v3x .voteAll [.b32], v3x .voteAny [.b32], v3x .voteEq tBits, v3x .voteBallot [.b32]]
  | 0x1C => [v3x .redAdd (tInts ++ [.f32]), v3x .redMin (tInts ++ [.f32]), v3x .redMax (tInts ++ [.f32]),
      v3x .redAnd tBits, v3x .redOr tBits, v3x .redXor tBits]
  | 0x1D => [v3scan .scanAdd [.i32, .n32, .f32], v3scan .scanMin [.i32, .n32, .f32],
      v3scan .scanMax [.i32, .n32, .f32], v3scan .scanOr [.b32]]
  | _ => []

/-- The shift amount of an immediate shift is below the width (R247). -/
def shiftOk (t : Ty) (i : BitVec 22) : Bool := i.toNat < t.width

/-- The VI forms of a major, by SUB (R195). -/
def viForms : Nat → List VIForm
  | 0x01 => [⟨.addi, [.i32, .i64], dstT, srcT, fun _ _ => true⟩, ⟨.muli, [.i32, .i64], dstT, srcT, fun _ _ => true⟩,
      ⟨.movi, tBits, dstT, unused, fun _ _ => true⟩, ⟨.movhi, tBits, dstT, srcT, fun _ _ => true⟩,
      ⟨.andi, tBits, dstT, srcT, fun _ _ => true⟩, ⟨.ori, tBits, dstT, srcT, fun _ _ => true⟩,
      ⟨.xori, tBits, dstT, srcT, fun _ _ => true⟩, ⟨.shli, tBits, dstT, srcT, shiftOk⟩,
      ⟨.shri, tBits, dstT, srcT, shiftOk⟩, ⟨.srai, tBits, dstT, srcT, shiftOk⟩]
  | 0x07 => [⟨.addoffi, [.b64], dst64, src64, fun _ _ => true⟩,
      ⟨.segrd, [.b64], dst64, unused, fun _ i => i.toNat < 0x10000⟩]
  | 0x17 => [⟨.fpAddi, [.f32], dst32, src32, fun _ _ => true⟩, ⟨.fpMuli, [.f32], dst32, src32, fun _ _ => true⟩,
      ⟨.fpMovi, [.f32], dst32, unused, fun _ _ => true⟩]
  | _ => []

/-- R188: a plain access, or one of ORD `o` at a scope. -/
def accessMode (o : Ord) (f : MF) : Bool := (f.ord == .plain && f.scope == .none) || (f.ord == o && f.scope != .none)
/-- R188, R310: SIZE b32 or b64, any ORD at a scope. -/
def atomMode (f : MF) : Bool := f.scope != .none && (f.size == .b32 || f.size == .b64)
/-- R188: the subs that take SIZE, SCOPE and ORD 0. -/
def bareMode (f : MF) : Bool := f.size == .b8 && f.scope == .none && f.ord == .plain
/-- The destination of a load (R307). -/
def loadDst (sc : Bool) (z : Size) : OC :=
  { step := if z = .b128 then 4 else span (z == .b64), s := if sc then (if z = .b128 then 2 else 1) else 0, z := true }
/-- The data of a store (R307). -/
def storeSrc (z : Size) : OC :=
  { step := if z = .b128 then 4 else span (z == .b64), s := if z = .b128 then 2 else 1, z := true, l := z != .b128 }
/-- The data of an atomic (R310). -/
def atomSrc (z : Size) : OC := OC.src (z == .b64)
/-- The result of an atomic (R310). -/
def atomDst (z : Size) : OC := OC.dst (z == .b64)

/-- The M forms of a major, by SUB (R195). -/
def mForms : Nat → List MForm
  | 0x30 => [⟨.ld, loadDst false, OC.srcZ true, fun _ => OC.no, accessMode .acq⟩,
      ⟨.lds, loadDst true, OC.sOnly, fun _ => OC.no, accessMode .acq⟩]
  | 0x31 => [⟨.st, fun _ => OC.no, OC.srcZ true, storeSrc, accessMode .rel⟩,
      ⟨.sts, fun _ => OC.no, OC.sOnly, storeSrc, accessMode .rel⟩]
  | 0x32 => [⟨.atomAdd, atomDst, OC.srcZ true, atomSrc, atomMode⟩, ⟨.atomMin, atomDst, OC.srcZ true, atomSrc, atomMode⟩,
      ⟨.atomMax, atomDst, OC.srcZ true, atomSrc, atomMode⟩, ⟨.atomAnd, atomDst, OC.srcZ true, atomSrc, atomMode⟩,
      ⟨.atomOr, atomDst, OC.srcZ true, atomSrc, atomMode⟩, ⟨.atomXor, atomDst, OC.srcZ true, atomSrc, atomMode⟩,
      ⟨.atomExch, atomDst, OC.srcZ true, atomSrc, atomMode⟩,
      ⟨.cas, fun z => OC.vOnly (z == .b64), OC.srcZ true, atomSrc, atomMode⟩]
  | 0x33 => [⟨.fence, fun _ => OC.no, OC.no, fun _ => OC.no,
      fun f => f.size == .b8 && f.ord == .plain && f.scope != .none && f.disp == 0⟩]
  | 0x34 => [⟨.bind, fun _ => OC.no, OC.srcZ true, fun _ => OC.src true, fun f => bareMode f && f.disp.toNat < 16⟩,
      ⟨.unbind, fun _ => OC.no, OC.srcZ true, fun _ => OC.no, fun f => bareMode f && f.disp.toNat < 16⟩,
      ⟨.lookup, fun _ => OC.no, OC.srcZ true, fun _ => OC.no, fun f => bareMode f && f.disp.toNat < 16⟩]
  | 0x35 => [⟨.push, fun _ => OC.no, OC.no, fun _ => OC.grp, fun f => bareMode f && f.disp.toNat < 16⟩,
      ⟨.pop, fun _ => OC.grp, OC.srcZ true, fun _ => OC.vOnly false, fun f => bareMode f && f.disp == 0⟩]
  | 0x36 => [⟨.pref, fun _ => OC.no, OC.srcZ true, fun _ => OC.src false, bareMode⟩,
      ⟨.discard, fun _ => OC.no, OC.srcZ true, fun _ => OC.src true, bareMode⟩]
  | _ => []

/-- The element types of a product (R322). -/
def tProd : List ETy := [.bfp2, .bfp3, .bfp4, .bfp5, .bfp6, .bfp7, .bfp8, .bfa16]

/-- The X forms of a major, by SUB (R195, R322). -/
def xForms : Nat → List XForm
  | 0x38 => [{ inst := .bload, types := tProd, shape := true, bs := true, gm := true, swz := true, a := OC.adr },
      { inst := .bclr, types := [.bfp2], bs := true, plain := true }]
  | 0x39 => [{ inst := .mmaW, types := tProd, shape := true, td := true, part := true, bs := true, gm := true, swz := true,
               a := OC.adr, prod := true },
      { inst := .mmaQ, types := tProd, shape := true, td := true, part := true, bs := true, gm := true, swz := true,
        qp := true, a := OC.adr, prod := true },
      { inst := .mmaS, types := tProd, shape := true, td := true, bs := true, gm := true, swz := true, a := OC.adr,
        b := OC.adr }]
  | 0x3A => [{ inst := .align, types := [.bf16], gm := true, swz := true, a := OC.adr },
      { inst := .sacc, types := [.e5m3, .bfa16], td := true, gm := true, qp := true, b := OC.adr }]
  | 0x3B => [{ inst := .tld, types := [.f32], td := true, swz := true, a := OC.adr },
      { inst := .tst, types := [.f32], td := true, swz := true, a := OC.adr },
      { inst := .tzero, types := [.f32], td := true },
      { inst := .pld, types := [.i48], td := true, part := true, swz := true, a := OC.adr },
      { inst := .pst, types := [.i48], td := true, part := true, swz := true, a := OC.adr },
      { inst := .pzero, types := [.i48], td := true, part := true }]
  | _ => []

/-- `hget` with Q 0, `hget.ref` with Q 1 (R347). -/
def mkHget (c : Common) (f : EF) : Instr := if f.q = 1 then .hgetRef c f else .hget c f

/-- The E forms of a major, by SUB (R195, R347). -/
def eForms : Nat → List EForm
  | 0x3C => [{ inst := .copy, q := true, h := true, swz := true, ds := true, bar := true, d := OC.adr, a := OC.adr,
               b := OC.src false },
      { inst := .qfence, q := true, h := true },
      { inst := .ftest, h := true, d := OC.vOnly false },
      { inst := .fwait, h := true }, { inst := .fcancel, h := true },
      { inst := mkHget, q := true, h := true, d := OC.adr },
      { inst := .hput, h := true, a := OC.adr }]
  | 0x3D => [{ inst := .arrive, tag := true }, { inst := .bwait, tag := true }, { inst := .bsync, tag := true },
      { inst := .enq, a := OC.adr, b := OC.grp },
      { inst := .deq, h := true, d := OC.grp, a := OC.adr },
      { inst := .dcinit, a := OC.adr, b := OC.src true },
      { inst := .dcadd, d := OC.dst false, a := OC.adr, b := OC.src false },
      { inst := .npost, q := true, h := true, swz := true, ds := true, bar := true, a := OC.adr },
      { inst := .nwait, a := OC.adr, b := OC.src true }]
  | _ => []

/-- A target offset in IMM16 (R278). -/
def targetOk (i : BitVec 16) : Bool := i.toNat % 8 == 0
/-- A frame size in IMM16 (R286). -/
def frameOk (i : BitVec 16) : Bool := i.toNat % 8 == 0 && i.toNat ≤ 4096
/-- Any IMM16. -/
def anyImm (_ : BitVec 16) : Bool := true

/-- The number in a 4-bit field written as a register operand. -/
def Opnd.nib : Opnd → BitVec 4
  | .v n => n.setWidth 4
  | .s _ => 0
  | .zero => 0
  | .lane => 0

/-- The C forms of a major, by SUB (R195). -/
def cForms : Nat → List CForm
  | 0x20 => [{ inst := .bra, imm := targetOk }, { inst := .brz, a := OC.cond, imm := targetOk },
      { inst := .brnz, a := OC.cond, imm := targetOk }]
  | 0x21 => [{ inst := .join, jm := true }, { inst := .joinX, jm := true }, { inst := .wait, jm := true }]
  | 0x22 => [{ inst := .call, imm := targetOk }, { inst := .callSym, imm := anyImm }, { inst := .callInd, a := OC.adr }]
  | 0x23 => [{ inst := .ret }, { inst := .exit }]
  | 0x24 => [{ inst := fun c f => .enter c f.b.nib f.imm, b := OC.nibble, imm := frameOk },
      { inst := fun c f => .leave c f.imm, imm := frameOk }]
  | 0x25 => [{ inst := .mark, b := OC.vOnly true }, { inst := .cut, a := OC.adr, b := OC.vOnly true },
      { inst := .graft, a := OC.adr }, { inst := .drop, a := OC.adr }]
  | 0x26 => [{ inst := .prefi, a := OC.adr, imm := anyImm }]
  | 0x27 => [{ inst := .brind, a := OC.cond }]
  | 0x28 => [{ inst := .nop }, { inst := .pause, imm := anyImm }]
  | _ => []

/-- The S forms of a major, by SUB (R195, R347). -/
def sForms : Nat → List SForm
  | 0x3E => [{ inst := .sysr, sreg := fun _ => true, d := OC.adr },
      { inst := .sysw, sreg := SReg.writable, a := OC.adr },
      { inst := .trace, a := OC.src true, imm := fun _ => true },
      { inst := .trap, imm := fun i => i.toNat < 256 },
      { inst := .rett },
      { inst := .publish, a := OC.adr, imm := fun i => i.toNat < 16 },
      { inst := .chkerr, d := OC.dstS true },
      { inst := .brk, imm := fun _ => true }]
  | _ => []

/-- The majors that the opcode map lists with at least one sub, or with every SUB reserved (R195). -/
def isMajor (op : Nat) : Bool :=
  op ≤ 0x0D || (0x10 ≤ op && op ≤ 0x1D) || (0x20 ≤ op && op ≤ 0x29) || (0x30 ≤ op && op ≤ 0x3E)

/-- The number of subs of a major (R195). -/
def subs (op : Nat) : Nat :=
  (v3Forms op).length + (viForms op).length + (mForms op).length + (xForms op).length + (eForms op).length
    + (cForms op).length + (sForms op).length

/-- The CLASS of a major's words; 4 is CTL (R180). -/
def classOf (op : Nat) : Nat :=
  if op ≤ 0x1D then 0 else if op ≤ 0x29 then 4 else if op ≤ 0x36 then 1 else if op ≤ 0x3B then 2
  else if op ≤ 0x3D then 3 else 5

/-- The words marked E in the opcode map (R195). -/
def isE (op sub : Nat) : Bool :=
  match op with
  | 0x20 => true
  | 0x21 => sub == 2
  | 0x22 => true
  | 0x23 => true
  | 0x25 => sub == 1 || sub == 2
  | 0x27 => true
  | 0x28 => sub == 1
  | 0x3E => sub == 3 || sub == 4 || sub == 7
  | _ => false

/-- R180: the word's class is the clause's, CTL words stand in any class, an E word is the clause's last. -/
def placeOk (cls : Nat) (last : Bool) (op sub : Nat) : Bool :=
  (classOf op == 4 || classOf op == cls) && (!isE op sub || last)

/-! ### Views: the fields of an instruction as its format lays them out -/

/-- An instruction as major, sub and fields; an event of the device has no word. -/
inductive View where
  | fV3 (op sub : Nat) (c : Common) (ex : Bool) (f : V3)
  | fVI (op sub : Nat) (c : Common) (f : VI)
  | fM (op sub : Nat) (c : Common) (f : MF)
  | fX (op sub : Nat) (c : Common) (f : XF)
  | fE (op sub : Nat) (c : Common) (f : EF)
  | fC (op sub : Nat) (c : Common) (f : CF)
  | fS (op sub : Nat) (c : Common) (f : SF)
  | event
  deriving DecidableEq, Repr

/-- The view of an instruction (R195). -/
def Instr.view : Instr → View
  | .intAdd c f => .fV3 0x00 0 c false f
  | .intSub c f => .fV3 0x00 1 c false f
  | .intMul c f => .fV3 0x00 2 c false f
  | .mulhi c f => .fV3 0x00 3 c false f
  | .mad c f => .fV3 0x00 4 c false f
  | .intMin c f => .fV3 0x00 5 c false f
  | .intMax c f => .fV3 0x00 6 c false f
  | .intAbs c f => .fV3 0x00 7 c false f
  | .intNeg c f => .fV3 0x00 8 c false f
  | .sad c f => .fV3 0x00 9 c false f
  | .addi c f => .fVI 0x01 0 c f
  | .muli c f => .fVI 0x01 1 c f
  | .movi c f => .fVI 0x01 2 c f
  | .movhi c f => .fVI 0x01 3 c f
  | .andi c f => .fVI 0x01 4 c f
  | .ori c f => .fVI 0x01 5 c f
  | .xori c f => .fVI 0x01 6 c f
  | .shli c f => .fVI 0x01 7 c f
  | .shri c f => .fVI 0x01 8 c f
  | .srai c f => .fVI 0x01 9 c f
  | .and c f => .fV3 0x02 0 c false f
  | .or c f => .fV3 0x02 1 c false f
  | .xor c f => .fV3 0x02 2 c false f
  | .andn c f => .fV3 0x02 3 c false f
  | .orn c f => .fV3 0x02 4 c false f
  | .not c f => .fV3 0x02 5 c false f
  | .bsel c f => .fV3 0x02 6 c false f
  | .shl c f => .fV3 0x03 0 c false f
  | .shr c f => .fV3 0x03 1 c false f
  | .sra c f => .fV3 0x03 2 c false f
  | .rotl c f => .fV3 0x03 3 c false f
  | .rotr c f => .fV3 0x03 4 c false f
  | .fsh c f => .fV3 0x03 5 c false f
  | .intSeteq c f => .fV3 0x04 0 c false f
  | .intSetne c f => .fV3 0x04 1 c false f
  | .intSetlt c f => .fV3 0x04 2 c false f
  | .intSetle c f => .fV3 0x04 3 c false f
  | .intSetgt c f => .fV3 0x04 4 c false f
  | .intSetge c f => .fV3 0x04 5 c false f
  | .sel c f => .fV3 0x04 6 c false f
  | .popc c f => .fV3 0x05 0 c false f
  | .clz c f => .fV3 0x05 1 c false f
  | .ctz c f => .fV3 0x05 2 c false f
  | .brev c f => .fV3 0x05 3 c false f
  | .bfe c f => .fV3 0x05 4 c false f
  | .bfi c f => .fV3 0x05 5 c false f
  | .segof c f => .fV3 0x06 0 c false f
  | .offof c f => .fV3 0x06 1 c false f
  | .mkaddr c f => .fV3 0x06 2 c false f
  | .addoff c f => .fV3 0x06 3 c false f
  | .absaddr c f => .fV3 0x06 4 c false f
  | .addoffi c f => .fVI 0x07 0 c f
  | .segrd c f => .fVI 0x07 1 c f
  | .bmm c f => .fV3 0x08 0 c false f
  | .bmmt c f => .fV3 0x08 1 c false f
  | .bmmx c f => .fV3 0x08 2 c false f
  | .spread c f => .fV3 0x09 0 c false f
  | .gather c f => .fV3 0x09 1 c false f
  | .bperm c f => .fV3 0x0A 0 c false f
  | .bgat c f => .fV3 0x0A 1 c false f
  | .bswap c f => .fV3 0x0A 2 c false f
  | .mulw c f => .fV3 0x0B 0 c false f
  | .madw c f => .fV3 0x0B 1 c false f
  | .mov c f => .fV3 0x0C 0 c false f
  | .rdactive c f => .fV3 0x0C 1 c false f
  | .addsat c f => .fV3 0x0D 0 c false f
  | .subsat c f => .fV3 0x0D 1 c false f
  | .packs c f => .fV3 0x0D 2 c false f
  | .packn c f => .fV3 0x0D 3 c false f
  | .fpAdd c f => .fV3 0x10 0 c false f
  | .fpSub c f => .fV3 0x10 1 c false f
  | .fpMul c f => .fV3 0x10 2 c false f
  | .fma c f => .fV3 0x10 3 c false f
  | .fpMin c f => .fV3 0x10 4 c false f
  | .fpMax c f => .fV3 0x10 5 c false f
  | .fpAbs c f => .fV3 0x10 6 c false f
  | .fpNeg c f => .fV3 0x10 7 c false f
  | .fpSeteq c f => .fV3 0x11 0 c false f
  | .fpSetne c f => .fV3 0x11 1 c false f
  | .fpSetlt c f => .fV3 0x11 2 c false f
  | .fpSetle c f => .fV3 0x11 3 c false f
  | .fpSetgt c f => .fV3 0x11 4 c false f
  | .fpSetge c f => .fV3 0x11 5 c false f
  | .setnan c f => .fV3 0x11 6 c false f
  | .cvt c f => .fV3 0x12 0 c false ⟨f.td, f.rnd, f.sat, f.d, f.a, .v 0, .v (f.ts.code.setWidth 8)⟩
  | .frnd c f => .fV3 0x12 1 c false f
  | .rcp c f => .fV3 0x13 0 c false f
  | .rsqrt c f => .fV3 0x13 1 c false f
  | .sqrt c f => .fV3 0x13 2 c false f
  | .exp2 c f => .fV3 0x13 3 c false f
  | .log2 c f => .fV3 0x13 4 c false f
  | .sin c f => .fV3 0x13 5 c false f
  | .cos c f => .fV3 0x13 6 c false f
  | .tanh c f => .fV3 0x13 7 c false f
  | .pack2 c f => .fV3 0x14 0 c false f
  | .unpklo c f => .fV3 0x14 1 c false f
  | .unpkhi c f => .fV3 0x14 2 c false f
  | .pack4 c f => .fV3 0x15 0 c false f
  | .unpk8lo c f => .fV3 0x15 1 c false f
  | .unpk8hi c f => .fV3 0x15 2 c false f
  | .sclenc c f => .fV3 0x16 0 c false f
  | .scldec c f => .fV3 0x16 1 c false f
  | .fpAddi c f => .fVI 0x17 0 c f
  | .fpMuli c f => .fVI 0x17 1 c f
  | .fpMovi c f => .fVI 0x17 2 c f
  | .rnd c f => .fV3 0x18 0 c false f
  | .dot2 c f => .fV3 0x19 0 c false f
  | .dot4 c f => .fV3 0x19 1 c false f
  | .xlGet c f => .fV3 0x1A 0 c false f
  | .xlRot c f => .fV3 0x1A 1 c false f
  | .xlXor c f => .fV3 0x1A 2 c false f
  | .xlRev c f => .fV3 0x1A 3 c false f
  | .voteAll c f => .fV3 0x1B 0 c false f
  | .voteAny c f => .fV3 0x1B 1 c false f
  | .voteEq c f => .fV3 0x1B 2 c false f
  | .voteBallot c f => .fV3 0x1B 3 c false f
  | .redAdd c f => .fV3 0x1C 0 c false f
  | .redMin c f => .fV3 0x1C 1 c false f
  | .redMax c f => .fV3 0x1C 2 c false f
  | .redAnd c f => .fV3 0x1C 3 c false f
  | .redOr c f => .fV3 0x1C 4 c false f
  | .redXor c f => .fV3 0x1C 5 c false f
  | .scanAdd c ex f => .fV3 0x1D 0 c ex f
  | .scanMin c ex f => .fV3 0x1D 1 c ex f
  | .scanMax c ex f => .fV3 0x1D 2 c ex f
  | .scanOr c ex f => .fV3 0x1D 3 c ex f
  | .bra c f => .fC 0x20 0 c f
  | .brz c f => .fC 0x20 1 c f
  | .brnz c f => .fC 0x20 2 c f
  | .brind c f => .fC 0x27 0 c f
  | .join c f => .fC 0x21 0 c f
  | .joinX c f => .fC 0x21 1 c f
  | .wait c f => .fC 0x21 2 c f
  | .call c f => .fC 0x22 0 c f
  | .callSym c f => .fC 0x22 1 c f
  | .callInd c f => .fC 0x22 2 c f
  | .ret c f => .fC 0x23 0 c f
  | .exit c f => .fC 0x23 1 c f
  | .enter c bud size => .fC 0x24 0 c ⟨0, .v 0, .v (bud.setWidth 8), size⟩
  | .leave c size => .fC 0x24 1 c ⟨0, .v 0, .v 0, size⟩
  | .mark c f => .fC 0x25 0 c f
  | .cut c f => .fC 0x25 1 c f
  | .graft c f => .fC 0x25 2 c f
  | .drop c f => .fC 0x25 3 c f
  | .prefi c f => .fC 0x26 0 c f
  | .nop c f => .fC 0x28 0 c f
  | .pause c f => .fC 0x28 1 c f
  | .ld c f => .fM 0x30 0 c f
  | .lds c f => .fM 0x30 1 c f
  | .st c f => .fM 0x31 0 c f
  | .sts c f => .fM 0x31 1 c f
  | .atomAdd c f => .fM 0x32 0 c f
  | .atomMin c f => .fM 0x32 1 c f
  | .atomMax c f => .fM 0x32 2 c f
  | .atomAnd c f => .fM 0x32 3 c f
  | .atomOr c f => .fM 0x32 4 c f
  | .atomXor c f => .fM 0x32 5 c f
  | .atomExch c f => .fM 0x32 6 c f
  | .cas c f => .fM 0x32 7 c f
  | .fence c f => .fM 0x33 0 c f
  | .bind c f => .fM 0x34 0 c f
  | .unbind c f => .fM 0x34 1 c f
  | .lookup c f => .fM 0x34 2 c f
  | .push c f => .fM 0x35 0 c f
  | .pop c f => .fM 0x35 1 c f
  | .pref c f => .fM 0x36 0 c f
  | .discard c f => .fM 0x36 1 c f
  | .bload c f => .fX 0x38 0 c f
  | .bclr c f => .fX 0x38 1 c f
  | .mmaW c f => .fX 0x39 0 c f
  | .mmaQ c f => .fX 0x39 1 c f
  | .mmaS c f => .fX 0x39 2 c f
  | .align c f => .fX 0x3A 0 c f
  | .sacc c f => .fX 0x3A 1 c f
  | .tld c f => .fX 0x3B 0 c f
  | .tst c f => .fX 0x3B 1 c f
  | .tzero c f => .fX 0x3B 2 c f
  | .pld c f => .fX 0x3B 3 c f
  | .pst c f => .fX 0x3B 4 c f
  | .pzero c f => .fX 0x3B 5 c f
  | .copy c f => .fE 0x3C 0 c f
  | .qfence c f => .fE 0x3C 1 c f
  | .ftest c f => .fE 0x3C 2 c f
  | .fwait c f => .fE 0x3C 3 c f
  | .fcancel c f => .fE 0x3C 4 c f
  | .hget c f => .fE 0x3C 5 c f
  | .hgetRef c f => .fE 0x3C 5 c f
  | .hput c f => .fE 0x3C 6 c f
  | .arrive c f => .fE 0x3D 0 c f
  | .bwait c f => .fE 0x3D 1 c f
  | .bsync c f => .fE 0x3D 2 c f
  | .enq c f => .fE 0x3D 3 c f
  | .deq c f => .fE 0x3D 4 c f
  | .dcinit c f => .fE 0x3D 5 c f
  | .dcadd c f => .fE 0x3D 6 c f
  | .npost c f => .fE 0x3D 7 c f
  | .nwait c f => .fE 0x3D 8 c f
  | .sysr c f => .fS 0x3E 0 c f
  | .sysw c f => .fS 0x3E 1 c f
  | .xinvSeg c f => .fS 0x3E 1 c f
  | .xinvPages c f => .fS 0x3E 1 c f
  | .xinvCtx c f => .fS 0x3E 1 c f
  | .shootdownComplete _ => .event
  | .trace c f => .fS 0x3E 2 c f
  | .trap c f => .fS 0x3E 3 c f
  | .rett c f => .fS 0x3E 4 c f
  | .publish c f => .fS 0x3E 5 c f
  | .chkerr c f => .fS 0x3E 6 c f
  | .brk c f => .fS 0x3E 7 c f
  | .issueSlot _ => .event
  | .unitResultComplete _ _ => .event
  | .memoryAccessComplete _ _ => .event
  | .storePerform _ => .event
  | .atomicAtHome _ => .event
  | .windowAccess _ => .event
  | .remoteAccess _ => .event
  | .walkSlotGrant _ => .event
  | .walkComplete _ _ => .event
  | .pagerResolve _ => .event
  | .pagerDecline _ => .event
  | .copySectorLand _ _ => .event
  | .mqEntryArrival _ _ => .event
  | .mqCreditReturn _ => .event
  | .pushRetryTimeout _ => .event
  | .matrixWordStart _ _ => .event
  | .treadleStepEnd _ _ => .event
  | .matrixWordComplete _ _ => .event
  | .barrierComplete _ => .event
  | .launchTake _ => .event
  | .panelPlace _ => .event
  | .panelEnd _ => .event
  | .stealStep _ => .event
  | .preemptRequest _ => .event
  | .panelSave _ => .event
  | .panelResume _ => .event
  | .gangSwitch _ => .event
  | .hangWatchdog _ => .event
  | .commitPoint _ => .event
  | .rollback _ _ => .event
  | .eccError _ => .event
  | .crossFunctionAccown _ => .event
  | .functionLevelReset _ => .event
  | .quadDrain _ _ => .event
  | .quadRepair _ _ _ => .event
  | .hbmRowSpare _ _ => .event
  | .firmwareUpdate _ _ => .event
  | .keyCreate _ => .event
  | .keyDestroy _ => .event
  | .keyDrainComplete _ => .event
  | .launchDoorbell _ _ => .event
  | .apsegWrite _ _ => .event
  | .evctlWrite _ _ => .event
  | .bar0Write _ _ _ => .event
  | .hostApertureWrite _ _ _ => .event
  | .hostApertureRead _ _ _ => .event
  | .atsTranslationResponse _ _ => .event
  | .atsInvalidation _ _ => .event
  | .netPacketSend _ _ => .event
  | .netPacketReceive _ _ => .event
  | .netAckReceive _ _ => .event
  | .netRtoExpiry _ _ _ => .event
  | .pdcIdleTimeout _ _ => .event
  | .nwaitRecheck _ => .event
  | .ptpMessage _ => .event
  | .holdoverReport => .event
  | .thermalThrottle _ => .event
  | .thermalTrip _ => .event
  | .coldReset _ => .event
  | .attestationRequest _ _ => .event
  | .publishCheck _ => .event
  | .traceRingMove _ => .event
  | .debugAttach _ => .event
  | .debugDetach _ => .event
  | .debugResume _ => .event
  | .debugStep _ => .event
  | .debugHalt _ => .event
  | .debugSnapshot _ => .event
  | .breakpointWrite _ _ _ _ => .event
  | .laneRelease _ _ => .event
  | .laneReleaseAtPc _ _ _ => .event
  | .laneEnd _ _ => .event
  | .launchQueueTableWrite _ _ _ => .event
  | .stealTableWrite _ _ _ _ => .event
  | .endpointWrite _ _ _ => .event
  | .associationKeyWrite _ _ => .event
  | .gangInstantWrite _ _ _ => .event
  | .pnodeWrite _ => .event
  | .firmwareRestartEnd _ => .event
  | .throttleRelease _ => .event
  | .traceRingWrite _ _ => .event

/-- The checks of R197 on the fields of an instruction word, after its major, sub and place. -/
def View.check : View → Option Illegal
  | .fV3 op sub c ex f => match (v3Forms op)[sub]? with
    | some m => if 12 < c.flag.toNat then some .field else m.check (op == 0x12 && sub == 0) ex f
    | none => some .sub
  | .fVI op sub c f => match (viForms op)[sub]? with
    | some m => if 12 < c.flag.toNat then some .field else m.check f
    | none => some .sub
  | .fM op sub c f => match (mForms op)[sub]? with
    | some m => if 12 < c.flag.toNat then some .field else m.check f
    | none => some .sub
  | .fX op sub c f => match (xForms op)[sub]? with
    | some m => if 12 < c.flag.toNat then some .field else m.check f
    | none => some .sub
  | .fE op sub c f => match (eForms op)[sub]? with
    | some m => if 12 < c.flag.toNat || (op == 0x3C && sub == 5 && 1 < f.q.toNat) then some .field else m.check f
    | none => some .sub
  | .fC op sub c f => match (cForms op)[sub]? with
    | some m => if 12 < c.flag.toNat then some .field else m.check f
    | none => some .sub
  | .fS op sub c f => match (sForms op)[sub]? with
    | some m => if 12 < c.flag.toNat then some .field else m.check f
    | none => some .sub
  | .event => none

/-- The instruction of a view. -/
def View.build : View → Option Instr
  | .fV3 op sub c ex f => ((v3Forms op)[sub]?).map (fun m => m.inst c ex f)
  | .fVI op sub c f => ((viForms op)[sub]?).map (fun m => m.inst c f)
  | .fM op sub c f => ((mForms op)[sub]?).map (fun m => m.inst c f)
  | .fX op sub c f => ((xForms op)[sub]?).map (fun m => m.inst c f)
  | .fE op sub c f => ((eForms op)[sub]?).map (fun m => m.inst c f)
  | .fC op sub c f => ((cForms op)[sub]?).map (fun m => m.inst c f)
  | .fS op sub c f => ((sForms op)[sub]?).map (fun m => m.inst c f)
  | .event => none

/-- Whether a field names a register of the weft's lanes at or above `alloc` (R176). -/
def View.overBudget (alloc : Nat) : View → Bool
  | .fV3 op sub _ _ f => match (v3Forms op)[sub]? with
    | some m => alloc < max (max ((m.d f.ty).top f.d)
        ((if op == 0x12 && sub == 0 then OC.src (cvtSource f.c).is64 else m.a f.ty).top f.a))
        (max ((m.b f.ty).top f.b) ((m.c f.ty).top f.c))
    | none => false
  | .fVI op sub _ f => match (viForms op)[sub]? with
    | some m => alloc < max ((m.d f.ty).top f.d) ((m.a f.ty).top f.a)
    | none => false
  | .fM op sub _ f => match (mForms op)[sub]? with
    | some m => alloc < max ((m.d f.size).top f.d) (max (m.a.top f.a) ((m.b f.size).top f.b))
    | none => false
  | .fX op sub _ f => match (xForms op)[sub]? with
    | some m => alloc < max (m.a.top f.a) (m.b.top f.b)
    | none => false
  | .fE op sub _ f => match (eForms op)[sub]? with
    | some m => alloc < max (m.d.top f.d) (max (m.a.top f.a) (m.b.top f.b))
    | none => false
  | .fC op sub _ f => match (cForms op)[sub]? with
    | some m => alloc < max (m.a.top f.a) (m.b.top f.b)
    | none => false
  | .fS op sub _ f => match (sForms op)[sub]? with
    | some m => alloc < max (m.d.top f.d) (m.a.top f.a)
    | none => false
  | .event => false

/-! ### Words -/

/-- Bits `lo + n - 1 : lo` of a word. -/
def fld (w : DWord) (lo n : Nat) : BitVec n := w.extractLsb' lo n

/-- An operand field; a reserved value reads as LANE and is reported by `badOpnd`. -/
def opndAt (w : DWord) (lo : Nat) : Opnd := (Opnd.ofCode (fld w lo 9)).getD .lane
/-- Whether an operand field holds a reserved value (R183). -/
def badOpnd (w : DWord) (lo : Nat) : Bool := (Opnd.ofCode (fld w lo 9)).isNone

/-- The common fields of a word (R182). -/
def commonOf (w : DWord) : Common := ⟨fld w 55 3, (fld w 54 1) == 1, fld w 50 4⟩

/-- What the raw fields of a word add to the check of its view: a reserved code of a field, of an element type, of an
operand. -/
def verdict (rawField badType badOp : Bool) (r : Option Illegal) : Option Illegal :=
  if rawField then some .field
  else if r == some .field then some .field
  else if badType then some .type
  else if r == some .type || r == some .shape then r
  else if badOp then some .operand
  else r

/-- The view of a word of a listed major and sub, and what its reserved codes add (R186 to R193). -/
def rawView (op sub : Nat) (w : DWord) : View × Bool × Bool × Bool :=
  let c := commonOf w
  if sub < (v3Forms op).length then
    let mod := fld w 36 4
    let scan := op == 0x1D
    let r := if scan then some Rnd.rne else Rnd.ofCode (mod.setWidth 3)
    let bad := if scan then 1 < mod.toNat else r.isNone
    (.fV3 op sub c (scan && mod == 1)
      ⟨Ty.ofCode (fld w 40 4), r.getD .rne, !scan && mod.getLsbD 3, opndAt w 27, opndAt w 18, opndAt w 9, opndAt w 0⟩,
     bad, false, badOpnd w 27 || badOpnd w 18 || badOpnd w 9 || badOpnd w 0)
  else if sub < (viForms op).length then
    (.fVI op sub c ⟨Ty.ofCode (fld w 40 4), opndAt w 31, opndAt w 22, fld w 0 22⟩, false, false,
     badOpnd w 31 || badOpnd w 22)
  else if sub < (mForms op).length then
    let z := Size.ofCode (fld w 41 3)
    let sc := Scope.ofCode (fld w 38 3)
    (.fM op sub c ⟨z.getD .b8, sc.getD .none, Ord.ofCode (fld w 36 2), opndAt w 27, opndAt w 18, opndAt w 9, fld w 0 9⟩,
     z.isNone || sc.isNone, false, badOpnd w 27 || badOpnd w 18 || badOpnd w 9)
  else if sub < (xForms op).length then
    let e := ETy.ofCode (fld w 40 4)
    (.fX op sub c ⟨e.getD .bfp2, fld w 35 5, fld w 32 3, fld w 28 4, fld w 24 4, fld w 22 2, fld w 20 2, opndAt w 9,
      opndAt w 0⟩, fld w 18 2 != 0 || (op == 0x38 && sub == 1 && fld w 40 4 != 0), e.isNone, badOpnd w 9 || badOpnd w 0)
  else if sub < (eForms op).length then
    let sc := Scope.ofCode (fld w 33 3)
    (.fE op sub c ⟨fld w 42 2, fld w 38 4, fld w 36 2, sc.getD .none, fld w 30 3, fld w 29 1 == 1, fld w 28 1 == 1,
      opndAt w 18, opndAt w 9, opndAt w 0⟩, sc.isNone || fld w 27 1 != 0, false,
     badOpnd w 18 || badOpnd w 9 || badOpnd w 0)
  else if sub < (cForms op).length then
    (.fC op sub c ⟨fld w 40 4, opndAt w 31, opndAt w 16, fld w 0 16⟩, fld w 25 6 != 0, false,
     badOpnd w 31 || badOpnd w 16)
  else
    let r := SReg.ofCode (fld w 32 12)
    (.fS op sub c ⟨r.getD .hmap, opndAt w 23, opndAt w 14, fld w 0 14⟩, r.isNone, false, badOpnd w 23 || badOpnd w 14)

/-- The instruction of a word in a clause of class `cls`, or the first failing check of R197. -/
def decodeWord (cls : Nat) (last : Bool) (w : DWord) : Except Illegal Instr :=
  let op := (fld w 58 6).toNat
  let sub := (fld w 44 6).toNat
  if !isMajor op then .error .major
  else if subs op ≤ sub then .error .sub
  else if !placeOk cls last op sub then .error .place
  else
    let (v, rawField, badType, badOp) := rawView op sub w
    match verdict rawField badType badOp v.check with
    | some r => .error r
    | none => match v.build with
      | some i => .ok i
      | none => .error .sub

/-- A clause header (R179). -/
structure Header where
  count : BitVec 4
  cls   : BitVec 3
  wait  : BitVec 12
  rej   : Bool
  rjm   : BitVec 4
  deriving DecidableEq, Repr

/-- The header of a word; none raises HEADER (R197). -/
def decodeHeader (w : DWord) : Option Header :=
  let cls := fld w 51 3
  let rej := fld w 38 1 == 1
  let rjm := fld w 34 4
  if fld w 58 6 = 0x3F ∧ fld w 0 34 = 0 ∧ cls.toNat < 6 ∧ (rej ∨ rjm = 0)
  then some ⟨fld w 54 4, cls, fld w 39 12, rej, rjm⟩ else none

/-- The instruction in eight bytes of a code segment, lowest address first (R178, R222). -/
def decodeBytes (cls : Nat) (last : Bool) (bs : List Byte) : Except Illegal Instr :=
  decodeWord cls last (BitVec.ofNat 64 (leNat (bs.take 8)))

/-- The instruction of a word standing last in a clause of its own class: what spec/opcode_table.json numbers. -/
def decodeTableWord (_nbits w : Nat) : Option Instr :=
  let x := BitVec.ofNat 64 w
  match decodeBytes (classOf (fld x 58 6).toNat) true (natLE 8 w) with
  | .ok i => some i
  | .error _ => none

/-! ### The encoder -/

/-- A single bit. -/
def bit1 (b : Bool) : BitVec 1 := if b then 1 else 0

/-- The word of a view (R182, R186 to R192); an event has none. -/
def View.word : View → Option DWord
  | .fV3 op sub c ex f => some (BitVec.ofNat 6 op ++ c.dist ++ bit1 c.sw ++ c.flag ++ BitVec.ofNat 6 sub ++ f.ty.code
      ++ bit1 f.sat ++ (if op = 0x1D then (bit1 ex).setWidth 3 else f.rnd.code) ++ f.d.code ++ f.a.code ++ f.b.code
      ++ f.c.code)
  | .fVI op sub c f => some (BitVec.ofNat 6 op ++ c.dist ++ bit1 c.sw ++ c.flag ++ BitVec.ofNat 6 sub ++ f.ty.code
      ++ f.d.code ++ f.a.code ++ f.imm)
  | .fM op sub c f => some (BitVec.ofNat 6 op ++ c.dist ++ bit1 c.sw ++ c.flag ++ BitVec.ofNat 6 sub ++ f.size.code
      ++ f.scope.code ++ f.ord.code ++ f.d.code ++ f.a.code ++ f.b.code ++ f.disp)
  | .fX op sub c f => some (BitVec.ofNat 6 op ++ c.dist ++ bit1 c.sw ++ c.flag ++ BitVec.ofNat 6 sub ++ f.ety.code
      ++ f.shape ++ f.td ++ f.bs ++ f.gm ++ f.swz ++ f.qp ++ (0 : BitVec 2) ++ f.a.code ++ f.b.code)
  | .fE op sub c f => some (BitVec.ofNat 6 op ++ c.dist ++ bit1 c.sw ++ c.flag ++ BitVec.ofNat 6 sub ++ f.q ++ f.h
      ++ f.swz ++ f.scope.code ++ f.tag ++ bit1 f.bar ++ bit1 f.ds ++ (0 : BitVec 1) ++ f.d.code ++ f.a.code ++ f.b.code)
  | .fC op sub c f => some (BitVec.ofNat 6 op ++ c.dist ++ bit1 c.sw ++ c.flag ++ BitVec.ofNat 6 sub ++ f.jm ++ f.a.code
      ++ (0 : BitVec 6) ++ f.b.code ++ f.imm)
  | .fS op sub c f => some (BitVec.ofNat 6 op ++ c.dist ++ bit1 c.sw ++ c.flag ++ BitVec.ofNat 6 sub ++ f.sreg.code
      ++ f.d.code ++ f.a.code ++ f.imm)
  | .event => none

/-- The word of an instruction; none for the steps of the device's other agents, which have no word. -/
def encode (i : Instr) : Option DWord := i.view.word

/-- The major and sub of an instruction word. -/
def View.opSub : View → Nat × Nat
  | .fV3 op sub _ _ _ => (op, sub)
  | .fVI op sub _ _ => (op, sub)
  | .fM op sub _ _ => (op, sub)
  | .fX op sub _ _ => (op, sub)
  | .fE op sub _ _ => (op, sub)
  | .fC op sub _ _ => (op, sub)
  | .fS op sub _ _ => (op, sub)
  | .event => (0x3F, 0)

/-- The common fields of an instruction word. -/
def View.common : View → Common
  | .fV3 _ _ c _ _ => c
  | .fVI _ _ c _ => c
  | .fM _ _ c _ => c
  | .fX _ _ c _ => c
  | .fE _ _ c _ => c
  | .fC _ _ c _ => c
  | .fS _ _ c _ => c
  | .event => ⟨0, false, 0⟩

/-- Whether a word is a matrix word (R322). -/
def View.isMatrix : View → Bool
  | .fX _ _ _ _ => true
  | .fV3 _ _ _ _ _ => false
  | .fVI _ _ _ _ => false
  | .fM _ _ _ _ => false
  | .fE _ _ _ _ => false
  | .fC _ _ _ _ => false
  | .fS _ _ _ _ => false
  | .event => false

/-- Whether a word names a gang with GM, without the core's own bit (R189, R330): 4 cores of a quad, by number. -/
def View.gmBad (core : Nat) : View → Bool
  | .fX op sub _ f => (match (xForms op)[sub]? with
      | some m => m.gm
      | none => false) && f.gm != 0 && !f.gm.getLsbD core
  | .fV3 _ _ _ _ _ | .fVI _ _ _ _ | .fM _ _ _ _ | .fE _ _ _ _ | .fC _ _ _ _ | .fS _ _ _ _ | .event => false

/-- Whether the raw word of a major and sub names a gang without the core's own bit. -/
def gmBadWord (core : Nat) (w : DWord) : Bool :=
  let op := (fld w 58 6).toNat
  let sub := (fld w 44 6).toNat
  decide (0x38 ≤ op) && decide (op ≤ 0x3B) && (rawView op sub w).1.gmBad core

/-- The CLASS whose clauses hold the instruction's word (R180). -/
def Instr.cls (i : Instr) : Nat := classOf i.view.opSub.1

end Sys2Proof
end

