-- ==== Sys2Proof/Machine/IntFn.lean ====
section
/-! DEFINITION. The functions of the integer, address and bit instructions on the values of one lane (R240 to R258),
computed exactly and narrowed at the end. Operands and results are 64-bit values; a 32-bit one has zero above bit 31. -/
namespace Sys2Proof.Machine

/-- Whether a type's values are read as two's complement (R184). -/
def signedTy : Ty → Bool
  | .i32 | .i64 | .i16 | .i8 => true
  | .b32 | .b64 | .n32 | .n64 | .n16 | .n8 | .f32 | .f16 | .bf16 | .e4m3 | .e5m2 | .bf16x2 => false

/-- The element width of an integer type (R225). -/
def elemBits : Ty → Nat
  | .i8 | .n8 | .e4m3 | .e5m2 => 8
  | .i16 | .n16 | .f16 | .bf16 => 16
  | .b32 | .i32 | .n32 | .f32 | .bf16x2 => 32
  | .b64 | .i64 | .n64 => 64

/-- The integer that a pattern of a type holds (R225). -/
def intVal (t : Ty) (x : Nat) : Int := if signedTy t then toSigned (elemBits t) x else ((x % 2 ^ elemBits t : Nat) : Int)

/-- The smallest value of an integer type. -/
def intMinVal (t : Ty) : Int := if signedTy t then -((2 ^ (elemBits t - 1) : Nat) : Int) else 0
/-- The largest value of an integer type. -/
def intMaxVal (t : Ty) : Int := if signedTy t then ((2 ^ (elemBits t - 1) : Nat) : Int) - 1 else ((2 ^ elemBits t : Nat) : Int) - 1

/-- The nearer end of the type's range for a value outside it (R240). -/
def clampInt (t : Ty) (r : Int) : Int := if r < intMinVal t then intMinVal t else if intMaxVal t < r then intMaxVal t else r

/-- The pattern of an exact result, wrapped or clamped (R240). -/
def narrowInt (t : Ty) (sat : Bool) (r : Int) : DWord :=
  BitVec.ofNat 64 (wrapNat (elemBits t) (if sat then clampInt t r else r))

/-- R244. -/
def fnAdd (t : Ty) (sat : Bool) (a b : DWord) : DWord := narrowInt t sat (intVal t a.toNat + intVal t b.toNat)
/-- R244. -/
def fnSub (t : Ty) (sat : Bool) (a b : DWord) : DWord := narrowInt t sat (intVal t a.toNat - intVal t b.toNat)
/-- R244: the low W bits of the product. -/
def fnMul (t : Ty) (a b : DWord) : DWord := narrowInt t false (intVal t a.toNat * intVal t b.toNat)
/-- R244: the high W bits of the 2W-bit product. -/
def fnMulhi (t : Ty) (a b : DWord) : DWord :=
  narrowInt t false (intVal t a.toNat * intVal t b.toNat / ((2 ^ elemBits t : Nat) : Int))
/-- R244. -/
def fnMad (t : Ty) (sat : Bool) (a b c : DWord) : DWord :=
  narrowInt t sat (intVal t a.toNat * intVal t b.toNat + intVal t c.toNat)
/-- R244. -/
def fnMin (t : Ty) (a b : DWord) : DWord := narrowInt t false (min (intVal t a.toNat) (intVal t b.toNat))
/-- R244. -/
def fnMax (t : Ty) (a b : DWord) : DWord := narrowInt t false (max (intVal t a.toNat) (intVal t b.toNat))
/-- R244: wrapping at the most negative value. -/
def fnAbs (t : Ty) (a : DWord) : DWord := narrowInt t false ((intVal t a.toNat).natAbs : Int)
/-- R244. -/
def fnNeg (t : Ty) (a : DWord) : DWord := narrowInt t false (-(intVal t a.toNat))
/-- R244: the difference is exact. -/
def fnSad (t : Ty) (a b c : DWord) : DWord :=
  narrowInt t false (((intVal t a.toNat - intVal t b.toNat).natAbs : Int) + intVal t c.toNat)

/-- R245: the widening product, with a 64-bit addend. -/
def fnMadw (t : Ty) (a b c : DWord) : DWord :=
  BitVec.ofNat 64 (wrapNat 64 (intVal t a.toNat * intVal t b.toNat + intVal (if t = .i32 then .i64 else .n64) c.toNat))

/-- Element `k` of width `w` of a packed register. -/
def elemAt (w x k : Nat) : Nat := (x >>> (w * k)) % 2 ^ w
/-- A register from its elements of width `w`, element 0 lowest. -/
def packElems (w : Nat) : List Nat → Nat
  | [] => 0
  | e :: es => e % 2 ^ w + 2 ^ w * packElems w es

/-- R246: element by element, clamped to the type. -/
def fnPacked (t : Ty) (op : Int → Int → Int) (a b : DWord) : DWord :=
  let w := elemBits t
  BitVec.ofNat 64 (packElems w ((List.range (32 / w)).map (fun k =>
    wrapNat w (clampInt t (op (intVal t (elemAt w a.toNat k)) (intVal t (elemAt w b.toNat k)))))))
/-- R246. -/
def fnAddsat (t : Ty) (a b : DWord) : DWord := fnPacked t (· + ·) a b
/-- R246. -/
def fnSubsat (t : Ty) (a b : DWord) : DWord := fnPacked t (· - ·) a b
/-- R246: source elements of twice the width, signed or not, clamped and packed, A's then B's. -/
def fnPack (sgn : Bool) (t : Ty) (a b : DWord) : DWord :=
  let w := elemBits t
  let src := fun (x : DWord) => (List.range (16 / w)).map (fun k =>
    let e := elemAt (2 * w) x.toNat k
    wrapNat w (clampInt t (if sgn then toSigned (2 * w) e else (e : Int))))
  BitVec.ofNat 64 (packElems w (src a ++ src b))

/-- The immediate of a VI word for the type (R187). -/
def immOf (t : Ty) (i : BitVec 22) : DWord := if signedTy t then i.signExtend 64 else i.setWidth 64

/-- R247: the immediate in the high bits, the low bits of `a` kept. -/
def fnMovhi (w : Nat) (a : DWord) (i : BitVec 22) : DWord :=
  BitVec.ofNat 64 (i.toNat * 2 ^ (w - 22) + a.toNat % 2 ^ (w - 22))

/-- A pattern of width `w`. -/
def trunc (w : Nat) (x : Nat) : DWord := BitVec.ofNat 64 (x % 2 ^ w)

/-- R248. -/
def fnNot (w : Nat) (a : DWord) : DWord := trunc w (~~~ a).toNat
/-- R248. -/
def fnBsel (a b c : DWord) : DWord := (c &&& a) ||| (~~~ c &&& b)

/-- R249: 0 when the amount reaches the width. -/
def fnShl (w : Nat) (a : DWord) (s : Nat) : DWord := if w ≤ s then 0 else trunc w (a.toNat * 2 ^ s)
/-- R249. -/
def fnShr (w : Nat) (a : DWord) (s : Nat) : DWord := if w ≤ s then 0 else trunc w (a.toNat / 2 ^ s)
/-- R249: sign-filled. -/
def fnSra (w : Nat) (a : DWord) (s : Nat) : DWord :=
  BitVec.ofNat 64 (wrapNat w (toSigned w a.toNat / ((2 ^ min s w : Nat) : Int)))
/-- R249: the low W bits of `(a : b) >> (s mod W)`. -/
def fnFsh (w : Nat) (a b : DWord) (s : Nat) : DWord := trunc w ((a.toNat * 2 ^ w + b.toNat % 2 ^ w) / 2 ^ (s % w))
/-- R249. -/
def fnRotr (w : Nat) (a : DWord) (s : Nat) : DWord := fnFsh w (trunc w a.toNat) a s
/-- R249. -/
def fnRotl (w : Nat) (a : DWord) (s : Nat) : DWord := fnRotr w a (w - s % w)

/-- A number from its bits. -/
def ofBits (n : Nat) (f : Nat → Bool) : Nat := (List.range n).foldl (fun acc i => acc + (if f i then 2 ^ i else 0)) 0

/-- R250. -/
def fnPopc (w : Nat) (a : DWord) : DWord := BitVec.ofNat 64 (((List.range w).filter (fun i => bitAt a.toNat i)).length)
/-- R250: the width for 0. -/
def fnClz (w : Nat) (a : DWord) : DWord :=
  BitVec.ofNat 64 (((List.range w).find? (fun i => bitAt a.toNat (w - 1 - i))).getD w)
/-- R250: the width for 0. -/
def fnCtz (w : Nat) (a : DWord) : DWord := BitVec.ofNat 64 (((List.range w).find? (fun i => bitAt a.toNat i)).getD w)
/-- R250. -/
def fnBrev (w : Nat) (a : DWord) : DWord := BitVec.ofNat 64 (ofBits w (fun j => bitAt a.toNat (w - 1 - j)))
/-- R250: the position and the width (0 when empty) of the field that `c` names. -/
def bitField (w : Nat) (c : DWord) : Nat × Nat :=
  let p := bitsOf c.toNat 7 0
  let n := bitsOf c.toNat 15 8
  if w ≤ p then (p, 0) else (p, min (p + n) w - p)
/-- R250. -/
def fnBfe (w : Nat) (a c : DWord) : DWord :=
  let (p, n) := bitField w c
  trunc n (a.toNat / 2 ^ p)
/-- R250. -/
def fnBfi (w : Nat) (a b c : DWord) : DWord :=
  let (p, n) := bitField w c
  BitVec.ofNat 64 (ofBits w (fun j => if p ≤ j ∧ j < p + n then bitAt b.toNat (j - p) else bitAt a.toNat j))

/-- A relation of R251. -/
inductive Rel where
  | eq | ne | lt | le | gt | ge
  deriving DecidableEq, Repr

/-- Whether the relation holds of two integers. -/
def Rel.holds : Rel → Int → Int → Bool
  | .eq, a, b => a == b
  | .ne, a, b => a != b
  | .lt, a, b => a < b
  | .le, a, b => a ≤ b
  | .gt, a, b => b < a
  | .ge, a, b => b ≤ a
/-- R251: 1 or 0. -/
def fnSet (r : Rel) (t : Ty) (a b : DWord) : DWord := BitVec.ofNat 64 (b2n (r.holds (intVal t a.toNat) (intVal t b.toNat)))
/-- R251. -/
def fnSel (a b c : DWord) : DWord := if c.toNat % 2 ^ 32 = 0 then b else a

/-- R252. -/
def fnSegof (a : DWord) : DWord := (segOf a).setWidth 64
/-- R252. -/
def fnOffof (a : DWord) : DWord := (offOf a).setWidth 64
/-- R252. -/
def fnMkaddr (a b : DWord) : DWord := mkAddr (a.setWidth 24) (b.setWidth 40)
/-- R252: the segment number never changes. -/
def fnAddoff (a b : DWord) : DWord := mkAddr (segOf a) (offOf a + b.setWidth 40)
/-- R253: FREL and STK addresses become absolute stack addresses. -/
def fnAbsaddr (sseg : Seg) (fb : Off) (a : DWord) : DWord :=
  if segOf a = 0xFFFFFF then mkAddr sseg (fb + offOf a)
  else if segOf a = 0xFFFFFE then mkAddr sseg (offOf a)
  else a

/-- R255: element (r, c) is bit 8r + c; the sum over k is an exclusive or. -/
def fnBmm (b' : Nat → Nat → Nat → Bool) (a b : DWord) : DWord :=
  BitVec.ofNat 64 (ofBits 64 (fun j =>
    (List.range 8).foldl (fun acc k => acc ^^ (bitAt a.toNat (8 * (j / 8) + k) && b' b.toNat k (j % 8))) false))
/-- R255: B as it stands. -/
def bmmElem (b k c : Nat) : Bool := bitAt b (8 * k + c)
/-- R255: B transposed. -/
def bmmtElem (b k c : Nat) : Bool := bitAt b (8 * c + k)

/-- The positions of the one bits of a mask, ascending (R256). -/
def onePositions (w : Nat) (b : DWord) : List Nat := (List.range w).filter (fun i => bitAt b.toNat i)
/-- R256. -/
def fnSpread (w : Nat) (a b : DWord) : DWord :=
  BitVec.ofNat 64 (((onePositions w b).zipIdx).foldl (fun acc (q, k) => acc + (if bitAt a.toNat k then 2 ^ q else 0)) 0)
/-- R256. -/
def fnGather (w : Nat) (a b : DWord) : DWord :=
  BitVec.ofNat 64 (((onePositions w b).zipIdx).foldl (fun acc (q, k) => acc + (if bitAt a.toNat q then 2 ^ k else 0)) 0)

/-- R257: bit j of the result is bit idx(j) of `a`; the 384-bit table is six scalars, the first lowest. -/
def fnBperm (a : DWord) (table : List DWord) : DWord :=
  let s := packElems 64 (table.map (fun x => x.toNat))
  BitVec.ofNat 64 (ofBits 64 (fun j => bitAt a.toNat (bitsOf s (6 * j + 5) (6 * j))))

/-- The eight bits of a byte in reverse order. -/
def revByte (x : Nat) : Nat := ofBits 8 (fun j => bitAt x (7 - j))
/-- R257. -/
def fnBgat (a b c : DWord) : DWord :=
  let pool := (a.toNat % 2 ^ 32) + 2 ^ 32 * (b.toNat % 2 ^ 32)
  BitVec.ofNat 64 (packElems 8 ((List.range 4).map (fun k =>
    let sel := elemAt 8 c.toNat k
    let e := elemAt 8 pool (sel % 8)
    match bitsOf sel 4 3 with
    | 0 => e
    | 1 => revByte e
    | 2 => 0
    | _ => if bitAt e 7 then 0xFF else 0)))
/-- R257. -/
def fnBswap (w : Nat) (a : DWord) : DWord :=
  BitVec.ofNat 64 (packElems 8 (((List.range (w / 8)).map (fun k => elemAt 8 a.toNat k)).reverse))

end Sys2Proof.Machine
end

