-- ==== Sys2Proof/Machine/FloatFn.lean ====
section
/-! DEFINITION. The floating formats, rounding and arithmetic (R222 to R236), exact first and narrowed once. A finite
value is a sign, a natural number and a power of two, so that every sum and product is exact. -/
namespace Sys2Proof.Machine

/-- A floating format (R223): exponent and fraction bits, bias, and whether it is E4M3 or E5M3, which have no infinity. -/
structure Fmt where
  ebits : Nat
  mbits : Nat
  bias  : Nat
  finiteTop : Bool
  deriving DecidableEq, Repr

/-- R223. -/
def fmtF32 : Fmt := ⟨8, 23, 127, false⟩
/-- R223. -/
def fmtF16 : Fmt := ⟨5, 10, 15, false⟩
/-- R223. -/
def fmtBf16 : Fmt := ⟨8, 7, 127, false⟩
/-- R223. -/
def fmtE4m3 : Fmt := ⟨4, 3, 7, true⟩
/-- R223. -/
def fmtE5m2 : Fmt := ⟨5, 2, 15, false⟩
/-- The unsigned scale format of R229. -/
def fmtE5m3 : Fmt := ⟨5, 3, 15, true⟩

/-- The floating format of an element type; none for the integer and bit types. -/
def fmtOf : Ty → Option Fmt
  | .f32 => some fmtF32 | .f16 => some fmtF16 | .bf16 => some fmtBf16 | .bf16x2 => some fmtBf16
  | .e4m3 => some fmtE4m3 | .e5m2 => some fmtE5m2
  | .b32 | .b64 | .i32 | .n32 | .i64 | .n64 | .i16 | .n16 | .i8 | .n8 => none

/-- The width of a pattern with its sign. -/
def Fmt.width (f : Fmt) : Nat := 1 + f.ebits + f.mbits
/-- The sign bit of a pattern. -/
def Fmt.neg (f : Fmt) (x : Nat) : Bool := bitAt x (f.ebits + f.mbits)
/-- The exponent and fraction of a pattern, as one number. -/
def Fmt.mag (f : Fmt) (x : Nat) : Nat := x % 2 ^ (f.ebits + f.mbits)
/-- The biased exponent field. -/
def Fmt.expField (f : Fmt) (x : Nat) : Nat := f.mag x / 2 ^ f.mbits
/-- The fraction field. -/
def Fmt.frac (f : Fmt) (x : Nat) : Nat := x % 2 ^ f.mbits
/-- The largest finite magnitude pattern (R223, R229). -/
def Fmt.maxFinite (f : Fmt) : Nat :=
  if f.finiteTop then 2 ^ (f.ebits + f.mbits) - 2 else (2 ^ f.ebits - 1) * 2 ^ f.mbits - 1
/-- The magnitude pattern of infinity; for E4M3 the pattern of NaN. -/
def Fmt.topMag (f : Fmt) : Nat := f.maxFinite + 1
/-- R224. -/
def Fmt.isNaN (f : Fmt) (x : Nat) : Bool := if f.finiteTop then f.mag x == f.topMag else f.topMag < f.mag x
/-- R224. -/
def Fmt.isInf (f : Fmt) (x : Nat) : Bool := !f.finiteTop && f.mag x == f.topMag
/-- The sign bit of the format as a number. -/
def Fmt.signBit (f : Fmt) (neg : Bool) : Nat := if neg then 2 ^ (f.ebits + f.mbits) else 0
/-- The NaN with its quiet bit set (R224); E4M3 has none. -/
def Fmt.quiet (f : Fmt) (x : Nat) : Nat :=
  if f.finiteTop then x else if bitAt x (f.mbits - 1) then x else x + 2 ^ (f.mbits - 1)

/-- An exact extended real. -/
inductive FVal where
  | nan
  | inf (neg : Bool)
  | fin (neg : Bool) (m : Nat) (e : Int)
  deriving DecidableEq, Repr

/-- The value of a pattern (R223). -/
def Fmt.val (f : Fmt) (x : Nat) : FVal :=
  if f.isNaN x then .nan
  else if f.isInf x then .inf (f.neg x)
  else if f.expField x = 0 then .fin (f.neg x) (f.frac x) (1 - (f.bias : Int) - f.mbits)
  else .fin (f.neg x) (f.frac x + 2 ^ f.mbits) ((f.expField x : Int) - f.bias - f.mbits)

/-- Whether the discarded part of a value rounds the kept part away from zero (R234): `rem` of `2^s` is discarded, `odd`
says that the last kept bit is 1, `rw` is the random word. -/
def roundsUp (mode : Rnd) (rw : Nat) (neg odd : Bool) (rem s : Nat) : Bool :=
  match mode with
  | .rne => 2 ^ s < 2 * rem || (2 * rem == 2 ^ s && odd)
  | .rz => false
  | .rp => rem != 0 && !neg
  | .rm => rem != 0 && neg
  | .rs => rw % 65536 < rem * 65536 / 2 ^ s

/-- `m * 2^(e - q)` rounded to an integer. -/
def roundAt (mode : Rnd) (rw : Nat) (neg : Bool) (m : Nat) (e q : Int) : Nat :=
  if q ≤ e then m * 2 ^ (e - q).toNat
  else
    let s := (q - e).toNat
    m / 2 ^ s + b2n (roundsUp mode rw neg (m / 2 ^ s % 2 == 1) (m % 2 ^ s) s)

/-- The magnitude pattern of a rounded finite value, extended above the largest finite one (R234). -/
def Fmt.roundMag (f : Fmt) (mode : Rnd) (rw : Nat) (neg : Bool) (m : Nat) (e : Int) : Nat :=
  if m = 0 then 0
  else
    let emin : Int := 1 - (f.bias : Int)
    let top := max (e + Nat.log2 m) emin
    (top - emin).toNat * 2 ^ f.mbits + roundAt mode rw neg m e (top - f.mbits)

/-- The magnitude pattern that stands for an overflow (R235). -/
def Fmt.overflow (f : Fmt) (mode : Rnd) (sat neg : Bool) : Nat :=
  if sat then f.maxFinite
  else if f.finiteTop then f.topMag
  else if mode == .rz || (mode == .rp && neg) || (mode == .rm && !neg) then f.maxFinite
  else f.topMag

/-- The parity of the 17 bits of fold (R232). -/
def parity17 (x : Nat) : Nat := ((List.range 17).filter (fun i => bitAt x i)).length % 2

/-- What names the place of an invalid operation in its NaN (R232): the lane and fold of the word's PC. -/
structure NanCtx where
  lane : Nat
  fold : Nat
  deriving DecidableEq, Repr

/-- fold of a PC (R232). -/
def foldOf (pc : DWord) : Nat :=
  (bitsOf (offOf pc).toNat 16 0) ^^^ (bitsOf (offOf pc).toNat 33 17) ^^^ (bitsOf (segOf pc).toNat 16 0)

/-- The origin NaN of a format (R232). -/
def Fmt.origin (f : Fmt) (c : NanCtx) : Nat :=
  if f = fmtF32 then 0x7FC00000 + (c.lane % 32) * 2 ^ 17 + c.fold % 2 ^ 17
  else if f = fmtBf16 then 0x7FC0 + (c.lane % 32) * 2 + parity17 c.fold
  else if f = fmtF16 then 0x7E00 + (c.lane % 32) * 16 + c.fold % 16
  else if f = fmtE5m2 then 0x7E
  else f.topMag

/-- A NaN of FP32 in a narrower format, and so on: the table of R233. -/
def nanFromF32 (g : Fmt) (x : Nat) : Nat :=
  let sg := g.signBit (fmtF32.neg x)
  if g = fmtF32 then fmtF32.quiet x
  else if g = fmtBf16 then sg + 0x7FC0 + (bitsOf x 21 17) * 2 + parity17 (bitsOf x 16 0)
  else if g = fmtF16 then sg + 0x7E00 + (bitsOf x 21 17) * 16 + bitsOf x 3 0
  else if g = fmtE5m2 then sg + 0x7E
  else sg + g.topMag

/-- A NaN of a format as a NaN of FP32 (R233). -/
def nanToF32 (f : Fmt) (x : Nat) : Nat :=
  let sg := fmtF32.signBit (f.neg x)
  if f = fmtF32 then fmtF32.quiet x
  else if f = fmtBf16 then sg + 0x7FC00000 + (bitsOf x 5 1) * 2 ^ 17 + x % 2
  else if f = fmtF16 then sg + 0x7FC00000 + (bitsOf x 8 4) * 2 ^ 17 + bitsOf x 3 0
  else sg + 0x7FC00000

/-- A NaN converted between formats (R233); in its own format it is quieted. From an 8-bit format it is the origin NaN
pattern of the destination with lane and fold 0. -/
def nanConvert (f g : Fmt) (x : Nat) : Nat :=
  if f = g then f.quiet x
  else if f = fmtE4m3 ∨ f = fmtE5m2 then g.signBit (f.neg x) + g.origin ⟨0, 0⟩
  else nanFromF32 g (nanToF32 f x)

/-- Round(x, F, mode, sat) of R234 and R235; NaN gives the origin NaN. -/
def Fmt.round (f : Fmt) (mode : Rnd) (sat : Bool) (rw : Nat) (c : NanCtx) (x : FVal) : Nat :=
  match x with
  | .nan => f.origin c
  | .inf neg => f.signBit neg + (if sat then f.maxFinite else f.topMag)
  | .fin neg m e =>
    let p := f.roundMag mode rw neg m e
    f.signBit neg + (if f.maxFinite < p then f.overflow mode sat neg else p)

/-- The sign changed. -/
def FVal.negate : FVal → FVal
  | .nan => .nan
  | .inf n => .inf (!n)
  | .fin n m e => .fin (!n) m e

/-- The exact product; 0 × ∞ is invalid (R264). -/
def FVal.mul : FVal → FVal → FVal
  | .nan, _ => .nan
  | .inf _, .nan => .nan
  | .inf a, .inf b => .inf (a ^^ b)
  | .inf a, .fin b m _ => if m = 0 then .nan else .inf (a ^^ b)
  | .fin _ _ _, .nan => .nan
  | .fin a m _, .inf b => if m = 0 then .nan else .inf (a ^^ b)
  | .fin a m e, .fin b n d => .fin (a ^^ b) (m * n) (e + d)

/-- The exact sum; infinities of opposite signs are invalid. A zero from cancellation is +0, or −0 under RM (R234). -/
def FVal.add (mode : Rnd) : FVal → FVal → FVal
  | .nan, _ => .nan
  | .inf _, .nan => .nan
  | .inf a, .inf b => if a = b then .inf a else .nan
  | .inf a, .fin _ _ _ => .inf a
  | .fin _ _ _, .nan => .nan
  | .fin _ _ _, .inf b => .inf b
  | .fin a m e, .fin b n d =>
    let lo := min e d
    let x : Int := (if a then -1 else 1) * ((m * 2 ^ (e - lo).toNat : Nat) : Int)
      + (if b then -1 else 1) * ((n * 2 ^ (d - lo).toNat : Nat) : Int)
    if x = 0 then .fin (if m = 0 ∧ n = 0 ∧ a = b then a else mode == .rm) 0 0
    else .fin (x < 0) x.natAbs lo

/-- The exact sum of several terms. -/
def FVal.sum (mode : Rnd) : FVal → List FVal → FVal
  | x, [] => x
  | x, y :: ys => FVal.sum mode (x.add mode y) ys

/-- The rounding mode, saturation, random words and place of a floating word in one lane. -/
structure FEnv where
  mode : Rnd
  sat  : Bool
  rws  : List Nat
  ctx  : NanCtx
  deriving DecidableEq, Repr

/-- The environment of a word without rounding permission (R260). -/
def FEnv.plain (c : NanCtx) : FEnv := ⟨.rne, false, [], c⟩
/-- The k-th random word that the word draws (R274). -/
def FEnv.rw (v : FEnv) (k : Nat) : Nat := v.rws.getD k 0
/-- A rounded result, drawing the k-th word. -/
def FEnv.round (v : FEnv) (f : Fmt) (k : Nat) (x : FVal) : Nat := f.round v.mode v.sat (v.rw k) v.ctx x

/-- The first NaN among patterns of one format, quieted (R233). -/
def firstNaN (f : Fmt) (xs : List Nat) : Option Nat := (xs.find? f.isNaN).map f.quiet

/-- R264: the sum of two elements. -/
def fAdd (f : Fmt) (v : FEnv) (k a b : Nat) : Nat :=
  match firstNaN f [a, b] with
  | some n => n
  | none => v.round f k ((f.val a).add v.mode (f.val b))
/-- R264. -/
def fSub (f : Fmt) (v : FEnv) (k a b : Nat) : Nat :=
  match firstNaN f [a, b] with
  | some n => n
  | none => v.round f k ((f.val a).add v.mode (f.val b).negate)
/-- R264. -/
def fMul (f : Fmt) (v : FEnv) (k a b : Nat) : Nat :=
  match firstNaN f [a, b] with
  | some n => n
  | none => v.round f k ((f.val a).mul (f.val b))
/-- R264: one rounding. -/
def fFma (f : Fmt) (v : FEnv) (k a b c : Nat) : Nat :=
  match firstNaN f [a, b, c] with
  | some n => n
  | none => v.round f k (((f.val a).mul (f.val b)).add v.mode (f.val c))

/-- The order of R264: −0 below +0. -/
def Fmt.key (f : Fmt) (x : Nat) : Int := if f.neg x then -(f.mag x : Int) - 1 else f.mag x
/-- R264: NaNs propagate, equal values give A. -/
def fMin (f : Fmt) (a b : Nat) : Nat :=
  match firstNaN f [a, b] with
  | some n => n
  | none => if f.key b < f.key a then b else a
/-- R264. -/
def fMax (f : Fmt) (a b : Nat) : Nat :=
  match firstNaN f [a, b] with
  | some n => n
  | none => if f.key a < f.key b then b else a
/-- R264: only the sign bit changes. -/
def fAbs (f : Fmt) (a : Nat) : Nat := f.mag a
/-- R264. -/
def fNeg (f : Fmt) (a : Nat) : Nat := f.mag a + f.signBit (!f.neg a)

/-- Apply an element function to f32, or to both elements of bf16x2 in order (R264). -/
def eachElem (t : Ty) (g : Fmt → Nat → (Nat → Nat) → Nat) (xs : List DWord) : DWord :=
  if t = .bf16x2 then
    BitVec.ofNat 64 (packElems 16 [g fmtBf16 0 (fun i => elemAt 16 (xs.getD i 0).toNat 0),
      g fmtBf16 1 (fun i => elemAt 16 (xs.getD i 0).toNat 1)])
  else trunc 32 (g fmtF32 0 (fun i => elemAt 32 (xs.getD i 0).toNat 0))

/-- R264. -/
def fnFpAdd (t : Ty) (v : FEnv) (a b : DWord) : DWord := eachElem t (fun f k x => fAdd f v k (x 0) (x 1)) [a, b]
/-- R264. -/
def fnFpSub (t : Ty) (v : FEnv) (a b : DWord) : DWord := eachElem t (fun f k x => fSub f v k (x 0) (x 1)) [a, b]
/-- R264. -/
def fnFpMul (t : Ty) (v : FEnv) (a b : DWord) : DWord := eachElem t (fun f k x => fMul f v k (x 0) (x 1)) [a, b]
/-- R264. -/
def fnFma (t : Ty) (v : FEnv) (a b c : DWord) : DWord := eachElem t (fun f k x => fFma f v k (x 0) (x 1) (x 2)) [a, b, c]
/-- R264. -/
def fnFpMin (t : Ty) (a b : DWord) : DWord := eachElem t (fun f _ x => fMin f (x 0) (x 1)) [a, b]
/-- R264. -/
def fnFpMax (t : Ty) (a b : DWord) : DWord := eachElem t (fun f _ x => fMax f (x 0) (x 1)) [a, b]
/-- R264. -/
def fnFpAbs (t : Ty) (a : DWord) : DWord := eachElem t (fun f _ x => fAbs f (x 0)) [a]
/-- R264. -/
def fnFpNeg (t : Ty) (a : DWord) : DWord := eachElem t (fun f _ x => fNeg f (x 0)) [a]

/-- R266: −0 equals +0; with a NaN only `setne` holds. -/
def fnFpSet (r : Rel) (a b : DWord) : DWord :=
  let x := elemAt 32 a.toNat 0
  let y := elemAt 32 b.toNat 0
  let k := fun z => if fmtF32.mag z = 0 then 0 else fmtF32.key z
  BitVec.ofNat 64 (b2n (if fmtF32.isNaN x || fmtF32.isNaN y then r == .ne else r.holds (k x) (k y)))
/-- R266. -/
def fnSetnan (a b : DWord) : DWord :=
  BitVec.ofNat 64 (b2n (fmtF32.isNaN (elemAt 32 a.toNat 0) || fmtF32.isNaN (elemAt 32 b.toNat 0)))

/-- A value of one format rounded into another (R234, R235, R233). -/
def fConvert (f g : Fmt) (v : FEnv) (k x : Nat) : Nat :=
  if f.isNaN x then nanConvert f g x else v.round g k (f.val x)

/-- A finite value rounded to an integer (R234). -/
def fToInt (v : FEnv) (k : Nat) (neg : Bool) (m : Nat) (e : Int) : Int :=
  let r := roundAt v.mode (v.rw k) neg m e 0
  if neg then -(r : Int) else r

/-- The register that holds an integer of a type, extended to 32 bits (R222). -/
def intReg (t : Ty) (x : Int) : DWord := BitVec.ofNat 64 (wrapNat (max 32 (elemBits t)) x)

/-- R267. -/
def fnCvt (td ts : Ty) (v : FEnv) (a : DWord) : DWord :=
  let x := a.toNat % 2 ^ elemBits ts
  match fmtOf ts, fmtOf td with
  | some f, some g => BitVec.ofNat 64 (fConvert f g v 0 x)
  | some f, none =>
    match f.val x with
    | .nan => 0
    | .inf neg => intReg td (if neg then intMinVal td else intMaxVal td)
    | .fin neg m e => intReg td (clampInt td (fToInt v 0 neg m e))
  | none, some g =>
    let n := intVal ts x
    BitVec.ofNat 64 (v.round g 0 (.fin (n < 0) n.natAbs 0))
  | none, none => intReg td (clampInt td (intVal ts x))

/-- R268. -/
def fnFrnd (v : FEnv) (a : DWord) : DWord :=
  let x := elemAt 32 a.toNat 0
  match fmtF32.val x with
  | .nan => trunc 32 (fmtF32.quiet x)
  | .inf _ => trunc 32 x
  | .fin neg m e =>
    if m = 0 then trunc 32 x
    else trunc 32 (fmtF32.round .rne false 0 v.ctx (.fin neg (roundAt v.mode (v.rw 0) neg m e 0) 0))

/-- R269. -/
def fnPack2 (v : FEnv) (a b : DWord) : DWord :=
  BitVec.ofNat 64 (packElems 16 [fConvert fmtF32 fmtBf16 v 0 (elemAt 32 a.toNat 0), fConvert fmtF32 fmtBf16 v 1 (elemAt 32 b.toNat 0)])
/-- R269: element k of a bf16x2, widened exactly. -/
def fnUnpk (k : Nat) (c : NanCtx) (a : DWord) : DWord :=
  BitVec.ofNat 64 (fConvert fmtBf16 fmtF32 (FEnv.plain c) 0 (elemAt 16 a.toNat k))
/-- R269. -/
def fnPack4 (g : Fmt) (v : FEnv) (a b : DWord) : DWord :=
  BitVec.ofNat 64 (packElems 8 [fConvert fmtBf16 g v 0 (elemAt 16 a.toNat 0), fConvert fmtBf16 g v 1 (elemAt 16 a.toNat 1),
    fConvert fmtBf16 g v 2 (elemAt 16 b.toNat 0), fConvert fmtBf16 g v 3 (elemAt 16 b.toNat 1)])
/-- R269: bytes k and k + 1 widened to a bf16x2. -/
def fnUnpk8 (f : Fmt) (k : Nat) (c : NanCtx) (a : DWord) : DWord :=
  BitVec.ofNat 64 (packElems 16 [fConvert f fmtBf16 (FEnv.plain c) 0 (elemAt 8 a.toNat k),
    fConvert f fmtBf16 (FEnv.plain c) 0 (elemAt 8 a.toNat (k + 1))])

/-- Rounding to E5M3 (R229). -/
def toE5m3 (v : FEnv) (x : FVal) : Nat :=
  match x with
  | .nan => 0xFF
  | .inf neg => if neg || !v.sat then 0xFF else 0xFE
  | .fin neg m e =>
    if m = 0 then 0
    else if neg then 0xFF
    else
      let p := fmtE5m3.roundMag v.mode (v.rw 0) false m e
      if 0xFE < p then (if v.sat then 0xFE else 0xFF) else p
/-- R270. -/
def fnSclenc (v : FEnv) (a : DWord) : DWord := BitVec.ofNat 64 (toE5m3 v (fmtF32.val (elemAt 32 a.toNat 0)))
/-- The value of an E5M3 code; NaN for 0xFF (R229). -/
def e5m3Val (c : Nat) : FVal := fmtE5m3.val (c % 256)
/-- R270. -/
def fnScldec (c : NanCtx) (a : DWord) : DWord := BitVec.ofNat 64 (fmtF32.round .rne false 0 c (e5m3Val (elemAt 8 a.toNat 0)))

/-- R271: the products of n elements and an FP32 addend, summed exactly and rounded once. -/
def fDot (f : Fmt) (v : FEnv) (as bs : List Nat) (c : Nat) : Nat :=
  match (as ++ bs).find? f.isNaN with
  | some x => nanConvert f fmtF32 x
  | none =>
    if fmtF32.isNaN c then fmtF32.quiet c
    else match List.zipWith (fun a b => (f.val a).mul (f.val b)) as bs ++ [fmtF32.val c] with
      | [] => 0
      | x :: xs => v.round fmtF32 0 (x.sum v.mode xs)
/-- R271. -/
def fnDot2 (v : FEnv) (a b c : DWord) : DWord :=
  BitVec.ofNat 64 (fDot fmtBf16 v [elemAt 16 a.toNat 0, elemAt 16 a.toNat 1] [elemAt 16 b.toNat 0, elemAt 16 b.toNat 1]
    (elemAt 32 c.toNat 0))
/-- R271. -/
def fnDot4 (f : Fmt) (v : FEnv) (a b c : DWord) : DWord :=
  let es := fun (x : DWord) => (List.range 4).map (fun k => elemAt 8 x.toNat k)
  BitVec.ofNat 64 (fDot f v (es a) (es b) (elemAt 32 c.toNat 0))

/-- One step of the rounding stream (R273). -/
def rstep (s : DWord) : DWord :=
  let s := s ^^^ (s <<< 13)
  let s := s ^^^ (s >>> 7)
  s ^^^ (s <<< 17)
/-- The seed of lane `i` (R273). -/
def rseed (a : Nat) (i : Nat) : DWord := BitVec.ofNat 64 ((a % 2 ^ 32) * 2 ^ 32 + (0x9E3779B9 ^^^ (0x0101 * i)))
/-- The n words that a rounding draws, and the state after them (R274). -/
def rdraw : Nat → DWord → List Nat × DWord
  | 0, s => ([], s)
  | n + 1, s =>
    let s1 := rstep s
    let (ws, s2) := rdraw n s1
    (bitsOf s1.toNat 63 48 :: ws, s2)

end Sys2Proof.Machine
end

