-- ==== Sys2Proof/WellFormed.lean ====
section
/-! DEFINITION. When an instruction is well-formed: its fields pass the checks of R197 (FIELD, TYPE, SHAPE, OPERAND).
The tables it reads stand in Decode.lean, beside the encodings they come from. -/
namespace Sys2Proof

/-- The first check of R197 that the instruction's fields fail. -/
def Instr.illFormed (i : Instr) : Option Illegal := i.view.check

/-- The view of a decoded word is the instruction itself. `hget` and `hget.ref` are told apart by Q (R347), the three
shootdowns by the SREG they write (R70). -/
def Instr.nameOk : Instr → Bool
  | .hget _ f => f.q == 0
  | .hgetRef _ f => f.q == 1
  | .xinvSeg _ f => f.sreg == .xinv
  | .xinvPages _ f => f.sreg == .xinv
  | .xinvCtx _ f => f.sreg == .xinv
  | _ => true

/-- An instruction that the machine may hold: well-formed fields under its own name. -/
def Instr.wellFormed (i : Instr) : Bool := i.illFormed.isNone && i.nameOk

end Sys2Proof
end

