-- ==== Sys2Proof/Machine/State.lean ====
section
/-! DEFINITION. The state of the package as plain data: memory, cores, panels, wefts, lanes, contexts, the tables of the
dies, the host and network interfaces, and the state after reset (R488). Sparse maps are lists of key and value pairs. -/
namespace Sys2Proof.Machine

/-- Why the machine stops with a fault. No step of this model does: every fault of the manual is a next state (R403 to
R408). The one constructor says so; were it raised it would be safe. -/
inductive Fault where
  /-- Raised by no step; safe. -/
  | unreachable
  deriving DecidableEq, Repr

/-- Why the machine refuses a step. -/
inductive Refusal where
  /-- Raised by `exec` for an instruction without a meaning yet; safe. -/
  | notModelled (mnemonic : String)
  deriving DecidableEq, Repr

/-- The fault codes of R403; `none` marks a lane stopped with no fault code (code 0). -/
inductive FaultCode where
  | none | unbound | link | segment | limit | rights | page | overlay | budget | member | align | illegal | priv | skein
  | accown | shadow | beamchk | qfull | watch | trap
  deriving DecidableEq, Repr

/-- R403. -/
def FaultCode.code : FaultCode → Nat
  | .none => 0 | .unbound => 1 | .link => 2 | .segment => 3 | .limit => 4 | .rights => 5 | .page => 6 | .overlay => 7
  | .budget => 8 | .member => 9 | .align => 10 | .illegal => 11 | .priv => 12 | .skein => 13 | .accown => 14
  | .shadow => 15 | .beamchk => 16 | .qfull => 17 | .watch => 18 | .trap => 0x80

/-- A fault that a lane takes: code, reason, faulting address, INFO and EXTRA of its trap locals (R406). For PAGE, INFO keeps
the access class (its row of R24 and 1 more; 0 is Load) and the further faulting pages of the access (R76). -/
structure LFault where
  code   : FaultCode
  reason : Nat := 0
  addr   : DWord := 0
  info   : Nat := 0
  extra  : DWord := 0
  deriving DecidableEq, Repr

/-- The access classes, in the row order of R24. -/
inductive Cls where
  | load | store | atomic | fetch | enqueue | dequeue | counterSet | counterAdd | skeinCreate | skeinUse | skeinFree | name
  deriving DecidableEq, Repr

/-- The classes in the row order of R24. -/
def Cls.all : List Cls :=
  [.load, .store, .atomic, .fetch, .enqueue, .dequeue, .counterSet, .counterAdd, .skeinCreate, .skeinUse, .skeinFree, .name]

/-- A reference to a future (R350). -/
structure FutRef where
  ctx   : CtxId
  die   : Nat
  index : Nat
  gen   : Nat
  deriving DecidableEq, Repr

/-- Where a byte of an access lies once every check has passed. -/
inductive Loc where
  /-- A byte of HBM under an owner key index (R17, R67), and the allocation policy of the access (R126). -/
  | hbm (pa okey cpol : Nat)
  /-- A byte of a core structure by package physical address (R96); `win`: reached through a window (R104). -/
  | chip (pa : Nat) (win : Bool)
  /-- A byte of a DEAD page read as zero (R67). -/
  | zero
  /-- A byte of host memory by bus address, for a function (R83). -/
  | host (fn addr : Nat)
  /-- A byte of another package: node, page-table root, page size, key index and offset (R82). -/
  | remote (node root pgsz okey off : Nat)
  deriving DecidableEq, Repr

/-- A byte to be written at its place, with its poison (R441). -/
structure Wr where
  loc : Loc
  b   : Byte
  pz  : Bool
  deriving DecidableEq, Repr

/-- A parsed segment descriptor (R13), or the descriptor that a contextual number stands for (R20). -/
structure Desc where
  kind  : Nat
  r     : Bool
  w     : Bool
  x     : Bool
  a     : Bool
  sysOnly : Bool
  ret   : Bool
  pgsz  : Nat
  cpol  : Nat
  okey  : Nat
  limit : Nat
  hnode : Nat
  hdie  : Nat
  hquad : Nat
  kspec : Nat
  base  : Nat
  deriving DecidableEq, Repr

/-- The position of a lane in its clause (R181): at a header not yet passed, or past the header at the offset, at a word of its
clause. -/
inductive Pos where
  | header
  | inside (hdr : Off)
  /-- Returned to a word whose clause is found when the lane is due to issue (R388). -/
  | resume
  /-- At ENTRY, its root link record not yet written (R284). -/
  | launch
  /-- Being ended by system software, a frame of it not yet read (R290). -/
  | ending
  deriving DecidableEq, Repr

/-- Why a lane is parked. -/
inductive Park where
  /-- In a fault subgroup (R75). -/
  | fault (k : Nat)
  /-- On a binding entry, in a waiter node (R42). -/
  | bind (node : Nat)
  /-- On a message-queue push (R117); `refused` when the target refused the entry (R118). -/
  | push (slot : Nat) (refused : Bool)
  /-- At a WAIT, arrived (R172). -/
  | rejoin (j : Nat)
  /-- Held at a WAIT whose arrived bit is set (R172). -/
  | heldWait (j : Nat)
  /-- Held at a barrier word until the phase completes (R358): barrier record, phase, and the counted instruction that the
  completion ends (0: none; the lane then executes its word again). -/
  | barrier (rec phase track : Nat)
  /-- At an `nwait` whose word has not reached its value (R366). -/
  | nwait
  /-- Held at issue (R348): the lane tries its word again in a later slot. -/
  | held
  /-- At a word that finds no free waiter node (R42). -/
  | node
  /-- At a call or graft that would raise HOLD or GIP above its bound (R45, R47, R297). -/
  | hold
  /-- Waiting for its step at a home, for its frame copy, or for the acceptance of its engine command (R296, R297, R354, R363):
  the counted instruction. -/
  | step (track : Nat)
  /-- Waiting in `rett` for the spill of a tile (R409). -/
  | spill
  /-- At an issued word, for the walks of its pages (R74): the counted instruction. -/
  | walk (track : Nat)
  deriving DecidableEq, Repr

/-- The status of a lane (R413). -/
inductive LaneSt where
  | active | exited
  | parked (p : Park)
  | stopped (f : LFault)
  deriving DecidableEq, Repr

/-- A lane: program counter, frame state (R282), rounding stream (R273), mode, and what the device keeps for it. -/
structure Lane where
  pc      : DWord
  pos     : Pos
  st      : LaneSt
  sys     : Bool
  sseg    : Seg
  fb      : Off
  sp      : Off
  mtop    : BitVec 24
  rstate  : DWord
  /-- The core slot in which the lane last issued (R173). -/
  last    : Option Nat
  /-- The core slot before which `pause` keeps the lane from issuing (R281). -/
  pause   : Nat
  /-- The handler handle (R387). -/
  hh      : Option FutRef
  /-- For each barrier record, the phase at which the lane last arrived (R358). -/
  arrived : List (Option Nat)
  /-- Faults to be delivered before the lane issues again, oldest first, each with the PC of its word (R277, R330, R405). -/
  trap    : List (LFault × DWord)
  /-- Where the shadow unit checks the result of its newest word: the word's PC and the main result (R276, R277). -/
  shadow  : Option (DWord × Word)
  /-- The entry and CSEQ of the UNBOUND handler that it runs (R385, R389). -/
  unb     : Option (Nat × Nat)
  /-- What it was parked on when it entered its handler, and goes back to (R330). -/
  back    : Option Park
  deriving DecidableEq, Repr

/-- A result not yet readable everywhere: `op = none`: fixed latency `lat`, issued in slot `slot` (R174); else the tracked
operation that writes it (R175). Keys are register keys. `known`: the values are the results; while they are not, a read
finds the older value. -/
structure Pend where
  op   : Option Nat
  slot : Nat
  lat  : Nat
  known : Bool
  vals : List (Nat × DWord)
  /-- The registers whose result is poisoned (R442). -/
  pz   : List Nat
  deriving DecidableEq, Repr

/-- An instruction counted on a flag and the parts of it that have not completed (R175, R305). -/
structure Track where
  id   : Nat
  flag : Nat
  left : Nat
  /-- Its fixed-latency results: the slot in which it issued and the latency of each, a part that ends when it is readable (R174,
  R182). -/
  due  : List (Nat × Nat)
  deriving DecidableEq, Repr

/-- The read-modify-write of an atomic (R310). -/
inductive AtomOp where
  | add | min | max | and | or | xor | exch | cas
  deriving DecidableEq, Repr

/-- The ends of a command as its last check found them (R28, R33): descriptor, number and first offset of its source, and of
its destination. -/
structure CmdEnds where
  sd   : Desc
  sseg : Seg
  soff : Nat
  dd   : Desc
  dseg : Seg
  doff : Nat
  deriving DecidableEq, Repr

/-- A fill, store or copy command's end: an address as issued, resolved at each sector (R22). -/
structure CopyCmd where
  id     : Nat
  panel  : Nat
  weft   : Nat
  lane   : Nat
  sys    : Bool
  dst    : DWord
  src    : DWord
  len    : Nat
  prog   : Nat
  swz    : Nat
  ds     : Bool
  /-- The barrier counted (scope, tag), and the phase (R359). -/
  bar    : Option (Scope × Nat)
  fut    : Option FutRef
  /-- A queue fence entry: the commands that it waits for; its mask of queues stands in `len` (R143, R356). -/
  fence  : Option (List Nat)
  /-- Stalled on PAGE at `prog` (R79). -/
  stall  : Option LFault
  /-- Cancelled: it ends at the next sector boundary (R353). -/
  cancel : Bool
  /-- None until it is accepted, and from a stall or a save until it is checked again (R28, R33). -/
  ends   : Option CmdEnds
  /-- The REPLAY panel for whose commit point its next sector waits (R149). -/
  waits  : Option Nat
  deriving DecidableEq, Repr

/-- A post of a network work queue (R425): its work request as read at acceptance. -/
structure NetPost where
  id     : Nat
  panel  : Nat
  weft   : Nat
  lane   : Nat
  sys    : Bool
  ctx    : CtxId
  wr     : List Byte
  addr   : DWord
  swz    : Nat
  ds     : Bool
  bar    : Option (Scope × Nat)
  fut    : Option FutRef
  /-- Payload bytes sent and acknowledged. -/
  sent   : Nat
  acked  : Nat
  stall  : Option LFault
  cancel : Bool
  /-- The last packet of the post has been sent. -/
  done   : Bool
  /-- Its payload's descriptor, number and first offset as its last check found them (R28, R33). -/
  src    : Option (Desc × Seg × Nat)
  deriving DecidableEq, Repr

/-- What a store-queue entry does when it leaves the queue (R132). -/
inductive SqOp where
  /-- A store of bytes; `rel` is the scope of a release, `none` for a plain store. -/
  | store (bs : List Wr) (rel : Scope)
  /-- An atomic at its bytes, the operand and compare value, whether they are poisoned, the load that takes the old value, and
  the scope of its release side (R140). -/
  | atomic (op : AtomOp) (locs : List Loc) (b d : DWord) (pz : Bool) (load : Nat) (rel : Scope)
  /-- The release side of a fence (R138). -/
  | fence (sc : Scope)
  /-- The place of a message-queue entry in the queue: it is sent when this leaves (R117, R120). -/
  | push (msg : Nat)
  /-- Pages made dead: segment, page number, page size code, table base, key index (R84). -/
  | discard (pages : List (Seg × Nat × Nat × Nat × Nat))
  /-- A task record to a queue or a counter (R363). -/
  | enq (a : DWord) (rec : List Byte)
  | dcinit (a b : DWord)
  | dcadd (a : DWord) (b : Word) (load : Nat)
  /-- The copy of a cut (R296): token, skein handle, register field. -/
  | cut (token skein : DWord) (bfield : Nat)
  /-- The copy of a graft (R297): skein handle. -/
  | graft (skein : DWord)
  /-- The place of a tile store (R346): its matrix word. -/
  | tile (word : Nat)
  /-- The place of a lane's access whose pages are still being walked (R74, R132). -/
  | await
  /-- A copy command, queue fence or post not yet accepted (R142). -/
  | copy (q : Nat) (c : CopyCmd)
  | post (q : Nat) (p : NetPost)
  deriving DecidableEq, Repr

/-- An entry of a weft's store queue (R132): the lane it belongs to and the instruction it counts for. -/
structure SqEntry where
  id   : Nat
  lane : Nat
  sys  : Bool
  track : Nat
  /-- The word's address and its clause. -/
  pc   : DWord
  hdr  : Off
  /-- The address as issued; 0 where the entry is no access of one. -/
  addr : DWord
  op   : SqOp
  deriving DecidableEq, Repr

/-- What a load in progress waits for. -/
inductive LoadWait where
  /-- Its value is taken. -/
  | ready
  /-- The range scoreboard (R122). -/
  | board
  /-- The arrival of a window access (R104). -/
  | window
  /-- The home package (R82). -/
  | home
  /-- Its turn in the store queue (an atomic, a `dcadd`). -/
  | queue
  /-- Nothing: it is satisfied later by a free choice (R134). -/
  | late
  deriving DecidableEq, Repr

/-- A load, atomic or pop that has not returned its data (R305): where its bytes lie and those already taken. -/
structure LoadRec where
  id    : Nat
  track : Nat
  lane  : Nat
  wait  : LoadWait
  /-- An acquire load (R137). -/
  acq   : Bool
  addr  : DWord
  /-- The word's address and its clause. -/
  pc    : DWord
  hdr   : Off
  /-- Each byte's place, and the byte and its poison once taken. -/
  bytes : List (Loc × Option (Byte × Bool))
  /-- Registers to write from the bytes, each with the number of its first byte and its bytes. -/
  dst   : List (Nat × Nat × Nat)
  deriving DecidableEq, Repr

/-- A page entry of a fault subgroup (R406). -/
structure PageEntry where
  addr   : DWord
  cls    : Cls
  reason : Nat
  lanes  : LaneMask
  /-- The faulting address of each lane. -/
  byLane : List (Nat × DWord)
  deriving DecidableEq, Repr

/-- A fault subgroup (R76, R413). -/
structure Sub where
  lanes  : LaneMask
  /-- 0 free, 1 not delivered, 2 delivered to a handler lane, 3 held by the die controller. -/
  status : Nat
  handler : Nat
  pages  : List PageEntry
  deriving DecidableEq, Repr

/-- A waiter node (R42): the entry's index, the lanes and the next link. -/
structure WNode where
  entry : Nat
  lanes : LaneMask
  next  : Option Nat
  deriving DecidableEq, Repr

/-- A weft (R166). -/
structure Weft where
  id      : Nat
  panel   : Nat
  /-- Index in the panel and slot on the core (R367). -/
  pweft   : Nat
  slotNo  : Nat
  core    : Nat
  lanes   : List Lane
  /-- Register values by key: 256 × lane + n for vn, 8192 + n for sn; unlisted reads 0. -/
  regs    : List (Nat × DWord)
  /-- Poisoned registers, by key (R440). -/
  poison  : List Nat
  pend    : List Pend
  tracks  : List Track
  /-- cf0 (unused) to cf12 (R175). -/
  flags   : List Nat
  /-- E and A of j0 to j15 (R172). -/
  masks   : List (LaneMask × LaneMask)
  /-- h0 to h15 (R349). -/
  handles : List (Option FutRef)
  sq      : List SqEntry
  loads   : List LoadRec
  subs    : List Sub
  nodes   : List (Option WNode)
  /-- The hang counter (R422). -/
  hang    : Nat
  /-- Parked by an SW word until every flag is 0 (R175). -/
  swWait  : Bool
  /-- Debug-halted (R478). -/
  halted  : Bool
  /-- The one slot that the debugger has asked for (R479): 1 asked for, 2 issued and its
  HALT record not yet emitted; 3: a halt command waits for a FIFO entry (R472). -/
  step    : Nat
  /-- The words where paths stopped, at which no breakpoint fires in the first slot after a resume or a step (R479). -/
  skipAt  : List DWord
  deriving DecidableEq, Repr

/-- A barrier record of a panel (R415). -/
structure BarRec where
  member : Bool
  phase  : Nat
  pend   : Nat
  /-- Matrix words counted under the barrier that have not completed (R329). -/
  words  : Nat
  /-- The phase is decided and its completion on its way: what is counted now counts in the next one (R359). -/
  decided : Bool
  deriving DecidableEq, Repr

/-- The life of a resident panel. -/
inductive PanelLife where
  /-- Running; halted for pre-emption (R416); its last lane has exited (R379). -/
  | running | halting | ending
  deriving DecidableEq, Repr

/-- The checkpoint of a REPLAY panel (R447): wefts and pad share at the last commit point. -/
structure Ckpt where
  wefts : List Weft
  pad   : List Byte
  /-- Poisoned bank words of the share, by offset. -/
  padPz : List Nat
  /-- The first number not yet given out then. -/
  mark  : Nat
  valid : Bool
  deriving DecidableEq, Repr

/-- A launch record's fields (R373). -/
structure Launch where
  id     : Nat
  ctx    : CtxId
  die    : Nat
  lq     : Nat
  gang   : Nat
  prio   : Nat
  wefts  : Nat
  bud    : Nat
  padu   : Nat
  acct   : Nat
  partt  : Nat
  bscope : Nat
  btags  : BitVec 8
  qgrp   : Nat
  anydie : Bool
  replay : Bool
  sseg0  : Seg
  panels : Nat
  done   : DWord
  argp   : DWord
  entry  : DWord
  user   : Word
  /-- The argument words, each with its poison, as read at the take (R374, R375). -/
  args   : List (DWord × Bool)
  /-- The next panel index not yet placed. -/
  next   : Nat
  /-- Panels that have ended. -/
  ended  : Nat
  deriving DecidableEq, Repr

/-- A resident panel (R376): residency record and what the device keeps for it. -/
structure Panel where
  id     : Nat
  launch : Launch
  /-- Panel index in its launch. -/
  index  : Nat
  core   : Nat
  wmask  : BitVec 16
  rblk   : Nat
  padb   : Nat
  amask  : BitVec 8
  pmask  : BitVec 4
  /-- Placement order, for R377. -/
  order  : Nat
  life   : PanelLife
  /-- The panel barrier, then route tags 0 to 7 (R357). -/
  bars   : List BarRec
  /-- The interval store buffer (R448): the weft of each held entry, oldest first. -/
  held   : List (Nat × SqEntry)
  ckpt   : Option Ckpt
  /-- Rollbacks of the interval (R449). -/
  attempt : Nat
  /-- At a commit point: the waiting inbound accesses to its pad perform (R149, R449). -/
  inOpen  : Bool
  /-- The save block that a REPLAY panel holds (R447). -/
  block   : Option Nat
  /-- Its save has been abandoned in the placement under way (R418). -/
  spared  : Bool
  deriving DecidableEq, Repr

/-- The matrix forms (R322). -/
inductive MKind where
  | bload | bclr | mmaW | mmaQ | mmaS | align | sacc | tld | tst | tzero | pld | pst | pzero
  deriving DecidableEq, Repr

/-- A matrix word in a core's matrix order (R326). -/
structure MWord where
  /-- The same on every member of a gang. -/
  id     : Nat
  /-- The panel that it works for on this core (R329), and the issuing weft and lane. -/
  panel  : Nat
  ctx    : CtxId
  weft   : Nat
  lane   : Nat
  sys    : Bool
  pc     : DWord
  kind   : MKind
  f      : XF
  /-- A and B as read at issue, frame-relative addresses made absolute. -/
  aval   : DWord
  bval   : DWord
  /-- The align descriptor (R341). -/
  desc   : Nat
  issuer : Nat
  members : List Nat
  track  : Nat
  step   : Nat
  /-- Sectors of the step that have moved (R346). -/
  moved  : Nat
  started : Bool
  susp   : Bool
  /-- It has consumed poison (R442). -/
  pz     : Bool
  /-- No further step runs (R339, R346, R401). -/
  ended  : Bool
  /-- The fault that it is stalled on (R346). -/
  stall  : Option LFault
  /-- The REPLAY panel for whose commit point its next sector waits (R149). -/
  waits  : Option Nat
  /-- Descriptor, number and first offset of a tile transfer's A as its last check found them; none from a stall or a save until it is
  checked again (R28, R33, R346). -/
  src    : Option (Desc × Seg × Nat)
  /-- The beam has erred in the step to come (R339). -/
  err    : Bool
  deriving DecidableEq, Repr

/-- A beam macro (R325, R332): its cells by bit number, checksum column by row, and slot record. -/
structure Macro where
  bits   : List (Nat × Bool)
  sums   : List (Nat × Int)
  ctx    : CtxId
  ety    : ETy
  shape  : BitVec 5
  swz    : Nat
  off    : Nat
  len    : Nat
  /-- The macro's number in its `bload`. -/
  idx    : Nat
  core   : Nat
  valid  : Bool
  stale  : Bool
  poison : Bool
  /-- Its cells are lost: a step that reads it raises BEAMCHK (R345). -/
  lost   : Bool
  deriving DecidableEq, Repr

/-- A tile's tag (R323). -/
structure TileTag where
  owner : CtxId
  mc    : Nat
  nc    : Nat
  kb    : Nat
  deriving DecidableEq, Repr

/-- A line of a page cache (R69), with the table base that it was walked under. -/
structure PageLine where
  ctx  : CtxId
  seg  : Seg
  page : Nat
  pgsz : Nat
  base : Nat
  leaf : DWord
  deriving DecidableEq, Repr

/-- A line of a walker's cache (R69): table entry by physical address and key index, and the segments whose walks used it. -/
structure WalkLine where
  pa    : Nat
  key   : Nat
  entry : Nat
  users : List (CtxId × Seg)
  deriving DecidableEq, Repr

/-- A line of a die store (R125): its 64-byte block, its key index, whether it is dirty, and its bytes. -/
structure DLine where
  unit  : Nat
  okey  : Nat
  dirty : Bool
  bytes : List Byte
  deriving DecidableEq, Repr

/-- A 32-byte sector of HBM as a core still sees it (R134): as it was before the first write, by its number, that the core does not
see; and the copy commands among the makers of the writes that it does not see. -/
structure Stale where
  core  : Nat
  sect  : Nat
  okey  : Nat
  bytes : List (Byte × Bool)
  ver   : Nat
  src   : List Nat
  deriving DecidableEq, Repr

/-- Lanes that wait for the walks of an issued word's pages (R74): the counted instruction, the word, and the registers that it
read at its issue. -/
structure Late where
  track : Nat
  weft  : Nat
  lanes : LaneMask
  pc    : DWord
  hdr   : Off
  slot  : Nat
  regs  : List (Nat × DWord)
  poison : List Nat
  /-- The descriptors that its accesses were checked against (R32, R33). -/
  descs : List (Seg × Desc)
  deriving DecidableEq, Repr

/-- A panel saved in a save block (R412, R418). -/
structure Saved where
  id     : Nat
  panel  : Panel
  block  : Nat
  wefts  : List Weft
  copies : List (Nat × CopyCmd)
  words  : List MWord
  /-- Tiles by name: tile number on the saved core, and SPILLED (R412); accumulators, then partials. -/
  tiles  : List (Nat × Bool)
  /-- The tags of the tiles, which move with them (R323); OWNER 0 for one that the context does not own. -/
  tags   : List TileTag
  /-- The records of the beam slots that it filled, with their slots (R345). -/
  beams  : List (Nat × Macro)
  /-- Poisoned bank words of its pad share, by offset. -/
  padPz  : List Nat
  deriving DecidableEq, Repr

/-- A range-scoreboard entry (R121): first and last structure offsets, DST or SRC, its command. -/
structure BoardEntry where
  lo  : Nat
  hi  : Nat
  dst : Bool
  cmd : Nat
  deriving DecidableEq, Repr

/-- An I-pad residency (R91, R410). -/
structure Resid where
  ctx : CtxId
  seg : Seg
  off : Nat
  len : Nat
  entered : Nat
  deriving DecidableEq, Repr

/-- A message-queue entry on its way (R117): its send slot, its bytes, and the lane and word that pushed it. -/
structure MqMsg where
  id    : Nat
  slot  : Nat
  bytes : List (Byte × Bool)
  weft  : Nat
  lane  : Nat
  pc    : DWord
  hdr   : Off
  deriving DecidableEq, Repr

/-- A credit return on its way (R119): the sender's slot, the count, and the queue header's physical address. -/
structure Credit where
  id     : Nat
  sender : Nat
  count  : Nat
  pa     : Nat
  /-- The panel that popped, and the counted instruction that it completes with. -/
  panel  : Nat
  weft   : Nat
  deriving DecidableEq, Repr

/-- A core (R1): its registers, caches, queues and stores. -/
structure CoreSt where
  /-- HMAP.GOOD (R167). -/
  good    : BitVec 16
  /-- Holds no quad position (R167, R459). -/
  absent  : Bool
  /-- Issue slots begun (R173) and the weft slot that last issued (R170). -/
  slot    : Nat
  lastWeft : Nat
  /-- TIME at the first cycle of the last slot. -/
  slotAt  : Nat
  xinva   : DWord
  mqs     : List DWord
  /-- Message-queue entries that this core has sent and that have not arrived, oldest first (R117). -/
  mqIn    : List MqMsg
  resid   : List Resid
  tlbDesc : List (CtxId × Seg × Desc)
  tlbPage : List PageLine
  /-- Pages of the admitted instruction that have not entered the miss queue: requester, context, segment, page, page size code,
  table base (R74). -/
  missRest : List (Nat × (CtxId × Seg × Nat × Nat × Nat))
  board   : List BoardEntry
  copyQ   : List (List CopyCmd)
  netQ    : List (List NetPost)
  beams   : List Macro
  shuttle : CtxId
  /-- Tags of a0 to a7 and p0 to p3. -/
  tags    : List TileTag
  /-- The spill home of a tile held in place for a saved panel or owned by a placed one: save block (R409). -/
  homes   : List (Option (CtxId × Nat × Nat))
  /-- Tiles whose spill for the placement under way a pager has declined (R376). -/
  declined : List Nat
  morder  : List MWord
  trace   : List (List Byte)
  dropped : Nat
  deriving DecidableEq, Repr

/-- A network endpoint entry (R427) as written. -/
abbrev Endpoint := BitVec 512

/-- A context: the die scheduler's copy of its context record (R411), and what the die controllers hold for it. -/
structure Ctx where
  id     : CtxId
  root   : DWord
  ord    : List (BitVec 32)
  btseg  : Seg
  fmseg  : Seg
  trapv  : Seg
  func   : Nat
  tag    : BitVec 12
  prio   : Nat
  cir    : DWord
  publo  : Seg
  pubhi  : Seg
  wdog   : Nat
  sbcnt  : Nat
  saveSeg : Seg
  debug  : Bool
  bps    : List (BitVec 128)
  wps    : List (BitVec 128)
  ring   : Seg
  ringTail : Nat
  counters : List (Nat × Nat)
  /-- Steal tables: die, index, segment (R381). -/
  steal  : List (Nat × Nat × Seg)
  endpoints : List (Nat × Endpoint)
  /-- The digests recorded with published segments (R371). -/
  digests : List (Nat × List Byte)
  deriving DecidableEq, Repr

/-- What made a future (R351). -/
inductive FutKind where
  | copy | post | deq | publish | bind
  | unbind (entry : Nat)
  /-- A search that follows a load of its weft (R316). -/
  | lookup (weft load : Nat)
  deriving DecidableEq, Repr

/-- An entry of a die's future table (R349). -/
structure Fut where
  ctx   : CtxId
  kind  : FutKind
  gen   : Nat
  /-- None while PENDING. -/
  value : Option DWord
  /-- Parts not yet ended, bytes counted, first fault code (R351). -/
  left  : Nat
  bytes : Nat
  fault : Nat
  used  : Bool
  /-- Cancels that wait for it: weft and counted instruction (R352). -/
  waiters : List (Nat × Nat)
  deriving DecidableEq, Repr

/-- A requester of a `deq` (R365): its lane, the queue's segment, the future, the first record register, and the operation
whose results its registers are. -/
structure Deq where
  op    : Nat
  weft  : Nat
  panel : Nat
  lane  : Nat
  seg   : Seg
  ctx   : CtxId
  fut   : FutRef
  d     : Nat
  deriving DecidableEq, Repr

/-- A publication in progress (R371). -/
structure Pub where
  id  : Nat
  ctx : CtxId
  fut : FutRef
  /-- The staging address. -/
  addr : DWord
  sys : Bool
  panel : Nat
  deriving DecidableEq, Repr

/-- A shootdown in progress (R70). -/
structure Shoot where
  id  : Nat
  opc : Nat
  ctx : CtxId
  seg : Seg
  off : Nat
  npg : Nat
  weft : Nat
  track : Nat
  deriving DecidableEq, Repr

/-- The state of a key slot (R88). -/
inductive KeySt where
  | empty | live | draining
  deriving DecidableEq, Repr

/-- A queued walk (R71, R72): the requesters attached to it (a core by its number, or an engine), the page, and whether a
slot is granted; a walk that has ended keeps its PAGE reason, or 0 for an engine that it succeeded for, until its requesters have
taken it. -/
structure Walk where
  id    : Nat
  die   : Nat
  reqs  : List Nat
  ctx   : CtxId
  seg   : Seg
  page  : Nat
  pgsz  : Nat
  base  : Nat
  granted : Bool
  result : Option Nat
  deriving DecidableEq, Repr

/-- A window access on its way (R104): from a weft of a core, a load of that weft or bytes to write. -/
structure WinAcc where
  id    : Nat
  core  : Nat
  weft  : Nat
  load  : Option Nat
  bytes : List Wr
  track : Nat
  deriving DecidableEq, Repr

/-- A remote access on its way (R82). -/
structure RemAcc where
  id    : Nat
  core  : Nat
  weft  : Nat
  load  : Option Nat
  lane  : Nat
  addr  : DWord
  cls   : Cls
  bytes : List Wr
  track : Nat
  pc    : DWord
  hdr   : Off
  /-- The read-modify-write of an atomic: operation, operand, compare value. -/
  atom  : Option (AtomOp × DWord × DWord)
  deriving DecidableEq, Repr

/-- An access by another package that waits here for its translation or for the pager (R82). -/
structure InRem where
  id    : Nat
  root  : Nat
  pgsz  : Nat
  okey  : Nat
  off   : Nat
  /-- Bytes to store. -/
  store : Option (List Byte)
  /-- The operation, operand and compare value of an atomic. -/
  atom  : Option (AtomOp × DWord × DWord)
  len   : Nat
  /-- Held by the pager. -/
  held  : Bool
  deriving DecidableEq, Repr

/-- A packet sent and not acknowledged (R425, R434): its PSN, its staged bytes, its post, and how often RTO has passed. -/
structure InFlight where
  psn   : Word
  pkt   : Packet
  post  : Nat
  tries : Nat
  deriving DecidableEq, Repr

/-- A packet delivery context of a sender (R425): its context, endpoint, next PSN and packets in flight. -/
structure Pdc where
  id     : Nat
  die    : Nat
  ctx    : CtxId
  epi    : Nat
  psn    : Word
  unacked : List InFlight
  deriving DecidableEq, Repr

/-- The receive side of a peer's packet delivery context (R432, R433): PSNs recorded as received, and for each message the packets
placed. -/
structure RxPdc where
  die    : Nat
  peer   : Nat
  seen   : List Word
  msgs   : List (Nat × Nat)
  deriving DecidableEq, Repr

/-- What has left for other packages, oldest first: an engine's packets and acknowledgements (R431, R433), and data read over the
weave links (R82). -/
inductive WireMsg where
  | packet (die : Nat) (p : Packet)
  | ack (die : Nat) (a : NetAck)
  /-- Bytes that another package has read from this one (R82). -/
  | remoteData (bytes : List Byte)
  /-- An access of another package that this one's pager has declined, by its number (R82). -/
  | remoteRefused (id : Nat)
  deriving DecidableEq, Repr

/-- A message of the host link, oldest first: an MSI-X interrupt, an ATS request or completion, or read data. -/
inductive HostMsg where
  | msix (fn vector : Nat)
  | atsRequest (id fn page : Nat)
  | atsDone (die page : Nat)
  /-- The data of a host read (R465). -/
  | readDone (fn : Nat) (bytes : List Byte)
  deriving DecidableEq, Repr

/-- A PCIe function (R463). -/
structure Fn where
  /-- EVBASE and EVCTL (R464). -/
  evBase  : DWord
  evCtl   : DWord
  /-- EVTAIL, the records held and the records dropped (R468). -/
  evTail  : Nat
  held    : List (List Byte)
  evDrops : Nat
  apseg   : DWord
  deriving DecidableEq, Repr

/-- A die (R1). -/
structure DieSt where
  restarting : Bool
  /-- Halted until cold reset: by a thermal trip (R487), or disabled at bring-up (R488). -/
  tripped    : Bool
  throttled  : Bool
  spares     : Nat
  quads      : Nat
  /-- Quads drained and not yet returned (R458). -/
  drained    : List Nat
  lqNext     : Nat
  /-- The translation cache of host pages: function, page, and the granted page; none: refused, until a requester has taken
  the refusal (R467). -/
  ats        : List (Nat × Nat × Option Nat)
  /-- The requester to which the walker looks first for its next shared slot (R73). -/
  walkNext   : Nat
  /-- The walker's cache of non-leaf entries, newest first (R69). -/
  walkCache  : List WalkLine
  /-- The firmware image that the controller runs, by a number (R462, R489). -/
  firmware   : Nat
  deriving DecidableEq, Repr

/-- What the die controllers report to system software (R408, R422, R446 and others). -/
structure Report where
  /-- What is reported: a name and the fields the rule gives. -/
  what   : String
  ctx    : CtxId
  fields : List Nat
  deriving DecidableEq, Repr

/-- A gang switch to come (R421). -/
structure Gang where
  out  : Nat
  inc  : Nat
  at_  : DWord
  deriving DecidableEq, Repr

/-- A word that the issue stage has chosen and not yet performed (R170): the weft, its lanes, the PC and the slot. -/
structure SlotWord where
  weft  : Nat
  lanes : LaneMask
  pc    : DWord
  /-- The header of the word's clause. -/
  hdr   : Off
  slot  : Nat
  /-- The other path of the slot: its PC and lanes; 0 where there is none (R471). -/
  pc2   : DWord
  lanes2 : LaneMask
  /-- The word has issued, and these lanes go on with it after their walks (R74). -/
  late   : Option Late
  deriving DecidableEq, Repr

/-- HBM and the memories outside the package. -/
structure MemSt where
  /-- Package physical bytes (R94); unlisted reads 0. -/
  bytes  : List Host.Cell
  /-- For each HBM data unit: the key index, its generation and the writes under it (R87). -/
  tags   : List (Nat × (Nat × Nat × Nat))
  /-- Poisoned granules by physical address (R440). -/
  poison : List Nat
  host   : List Host.Cell
  remote : List Host.Cell
  /-- HBM rows redirected to spares (R461). -/
  rows   : List (Nat × Nat)
  /-- The lines of the die stores, those of each set from the highest retention to the lowest (R125, R126). -/
  lines  : List DLine
  deriving DecidableEq, Repr

/-- The state of the machine. -/
structure State where
  mem     : MemSt
  cores   : List (Nat × CoreSt)
  panels  : List Panel
  wefts   : List Weft
  ctxs    : List Ctx
  futs    : List (Nat × Fut)
  deqs    : List Deq
  pubs    : List Pub
  shoots  : List Shoot
  keys    : List (Nat × (KeySt × Nat))
  /-- Security associations bound to key indexes (R428). -/
  assoc   : List (Nat × Nat)
  lqTab   : List (Nat × (CtxId × Seg))
  /-- Launch-queue entries passed over until they are rewritten (R372). -/
  lqBad   : List Nat
  launches : List Launch
  /-- The cores on which panels are pre-empted for a launch, which is placed there (R377, R378). -/
  aims    : List (Nat × List Nat)
  saved   : List Saved
  lastCore : List (Nat × Nat)
  walks   : List Walk
  wins    : List WinAcc
  rems    : List RemAcc
  inRems  : List InRem
  /-- Sectors of HBM that cores still see as they were (R134). -/
  stale   : List Stale
  /-- Lanes that wait for walks (R74). -/
  lates   : List Late
  credits : List Credit
  pdcs    : List Pdc
  rxPdcs  : List RxPdc
  wire    : List WireMsg
  gangs   : List Gang
  fns     : List Fn
  hostOut : List HostMsg
  /-- Host translations asked for: number, die, function, page (R467). -/
  atsWait : List (Nat × Nat × Nat × Nat)
  dies    : List DieSt
  pnode   : BitVec 6
  /-- The time unit runs without messages (R470). -/
  holdover : Bool
  /-- Steps of the bring-up sequence that have ended (R488). -/
  boot    : Nat
  reports : List Report
  time    : Nat
  fresh   : Nat
  nextId  : Nat
  agenda  : List Instr
  /-- Turns taken by agents that the agenda did not name. -/
  turn    : Nat
  slot    : List SlotWord
  cur     : Option SlotWord
  /-- The weft that got the last slot, and that slot, until it is known whether it issued (R177). -/
  issuing : Option (Nat × Nat)
  deriving DecidableEq, Repr

/-! ### Reset (R488) -/

/-- A tile tag after reset (R323). -/
def TileTag.reset : TileTag := ⟨0, 1, 2, 1⟩

/-- A cleared beam macro (R332, R488). -/
def Macro.reset : Macro := ⟨[], [], 0, .bfp2, 0, 0, 0, 0, 0, 0, false, false, false, false⟩

/-- A core after reset: every heald good (DESIGN CHOICE: fuses the manual gives no value for; log entry 9). -/
def CoreSt.reset : CoreSt where
  good := 0xFFFF
  absent := false
  slot := 0
  lastWeft := 15
  slotAt := 0
  xinva := 0
  mqs := List.replicate 16 0
  mqIn := []
  resid := []
  tlbDesc := []
  tlbPage := []
  missRest := []
  board := []
  copyQ := List.replicate 4 []
  netQ := List.replicate 4 []
  beams := List.replicate 16 Macro.reset
  shuttle := 0
  tags := List.replicate 12 TileTag.reset
  homes := List.replicate 12 none
  declined := []
  morder := []
  trace := []
  dropped := 0

/-- A function after reset (R464). -/
def Fn.reset : Fn := ⟨0, 0, 0, [], 0, 0⟩

/-- A die after reset: its logical quads in service, its spares unused (R1). -/
def DieSt.reset : DieSt := ⟨false, false, false, Config.spares, Config.quads, [], 0, [], 0, [], 0⟩

/-- Memory after reset: nothing listed. -/
def MemSt.reset : MemSt := ⟨[], [], [], [], [], [], []⟩

/-- The machine right after reset (R488). -/
def State.reset : State where
  mem := MemSt.reset
  cores := []
  panels := []
  wefts := []
  ctxs := []
  futs := []
  deqs := []
  pubs := []
  shoots := []
  keys := []
  assoc := []
  lqTab := []
  lqBad := []
  launches := []
  aims := []
  saved := []
  lastCore := []
  walks := []
  wins := []
  rems := []
  inRems := []
  stale := []
  lates := []
  credits := []
  pdcs := []
  rxPdcs := []
  wire := []
  gangs := []
  fns := List.replicate 16 Fn.reset
  hostOut := []
  atsWait := []
  dies := List.replicate Config.dies DieSt.reset
  pnode := 0
  holdover := true
  boot := 7
  reports := []
  time := 0
  fresh := 0
  nextId := 1
  agenda := []
  turn := 0
  slot := []
  cur := none
  issuing := none

end Sys2Proof.Machine
end

