-- ==== Sys2Proof/Machine/Base.lean ====
section
/-! DEFINITION. Looking up and updating the parts of the state: sparse maps, cores, panels, wefts, lanes, contexts, registers
with their pending results, completion flags and reports. -/
namespace Sys2Proof.Machine

/-! ### Sparse maps: keys strictly rising, no entry equal to the default -/

/-- The value at a key, `d` where none is listed. -/
def sget {α : Type} (d : α) : List (Nat × α) → Nat → α
  | [], _ => d
  | (k, v) :: m, i => if i < k then d else if i = k then v else sget d m i

/-- The map with a value at a key; the default value removes the entry. -/
def sput {α : Type} [DecidableEq α] (d : α) : List (Nat × α) → Nat → α → List (Nat × α)
  | [], i, v => if v = d then [] else [(i, v)]
  | (k, x) :: m, i, v =>
    if i < k then (if v = d then (k, x) :: m else (i, v) :: (k, x) :: m)
    else if i = k then (if v = d then m else (k, v) :: m)
    else (k, x) :: sput d m i v

/-- The canonical form above a lower bound. -/
def smapFrom {α : Type} [DecidableEq α] (d : α) : Nat → List (Nat × α) → Bool
  | _, [] => true
  | lo, (k, v) :: m => decide (lo ≤ k) && decide (v ≠ d) && smapFrom d (k + 1) m

/-- The canonical form: keys strictly rising, no default value. -/
def smapOk {α : Type} [DecidableEq α] (d : α) (m : List (Nat × α)) : Bool := smapFrom d 0 m

/-- The keys of a map rise strictly from a bound on. -/
def risesFrom {α : Type} : Nat → List (Nat × α) → Prop
  | _, [] => True
  | lo, (k, _) :: m => lo ≤ k ∧ risesFrom (k + 1) m

/-- The value found by `find?` on keys of another kind. -/
def lookupKey {κ α : Type} [DecidableEq κ] (k : κ) : List (κ × α) → Option α
  | [] => none
  | (x, v) :: m => if x = k then some v else lookupKey k m

/-! ### Placeholders for what is not there -/

/-- The lane of no weft. -/
def Lane.nil : Lane := ⟨0, .header, .exited, false, 0, 0x20, 0x20, 0, 1, none, 0, none, [], [], none, none, none⟩
/-- No fault subgroup. -/
def Sub.free : Sub := ⟨0, 0, 0, []⟩
/-- The weft of no id. -/
def Weft.nil : Weft := ⟨0, 0, 0, 0, 0, [], [], [], [], [], [], [], [], [], [], [], [], 0, false, false, 0, []⟩
/-- No launch. -/
def Launch.nil : Launch := ⟨0, 0, 0, 0, 0, 0, 0, 0, 0, 0, 0, 0, 0, 0, false, false, 0, 0, 0, 0, 0, 0, [], 0, 0⟩
/-- The panel of no id. -/
def Panel.nil : Panel := ⟨0, Launch.nil, 0, 0, 0, 0, 0, 0, 0, 0, .ending, [], [], none, 0, false, none, false⟩
/-- A context with nothing in it. -/
def Ctx.nil (c : CtxId) : Ctx :=
  ⟨c, 0, List.replicate 8 0, 0, 0, 0, 0, 0, 0, 0, 0, 0, 0, 0, 0, false, List.replicate 8 0, List.replicate 4 0, 0, 0, [], [], [], []⟩
/-- No barrier record. -/
def BarRec.nil : BarRec := ⟨false, 0, 0, 0, false⟩
/-- No future. -/
def Fut.free : Fut := ⟨0, .copy, 0, none, 0, 0, 0, false, []⟩

/-! ### Looking up and updating -/

/-- A core by CORE[9:0] (R367). -/
def State.core (s : State) (c : Nat) : CoreSt := sget CoreSt.reset s.cores c
/-- A core changed. -/
def State.modCore (s : State) (c : Nat) (f : CoreSt → CoreSt) : State :=
  { s with cores := sput CoreSt.reset s.cores c (f (s.core c)) }
/-- The weft of an id. -/
def State.weft (s : State) (w : Nat) : Weft := (s.wefts.find? (fun x => x.id == w)).getD Weft.nil
/-- Whether a weft is resident. -/
def State.hasWeft (s : State) (w : Nat) : Bool := s.wefts.any (fun x => x.id == w)
/-- A weft changed. -/
def State.modWeft (s : State) (w : Nat) (f : Weft → Weft) : State :=
  { s with wefts := s.wefts.map (fun x => if x.id = w then f x else x) }
/-- The panel of an id. -/
def State.panel (s : State) (p : Nat) : Panel := (s.panels.find? (fun x => x.id == p)).getD Panel.nil
/-- A panel changed. -/
def State.modPanel (s : State) (p : Nat) (f : Panel → Panel) : State :=
  { s with panels := s.panels.map (fun x => if x.id = p then f x else x) }
/-- A context; one with nothing in it where the scheduler holds none. -/
def State.ctx (s : State) (c : CtxId) : Ctx := (s.ctxs.find? (fun x => x.id == c)).getD (Ctx.nil c)
/-- A context changed. -/
def State.modCtx (s : State) (c : CtxId) (f : Ctx → Ctx) : State :=
  { s with ctxs := s.ctxs.map (fun x => if x.id = c then f x else x) }
/-- A die. -/
def State.die (s : State) (d : Nat) : DieSt := s.dies.getD d DieSt.reset
/-- A die changed. -/
def State.modDie (s : State) (d : Nat) (f : DieSt → DieSt) : State := { s with dies := s.dies.modify d f }
/-- A function. -/
def State.fn (s : State) (n : Nat) : Fn := s.fns.getD n Fn.reset
/-- A function changed. -/
def State.modFn (s : State) (n : Nat) (f : Fn → Fn) : State := { s with fns := s.fns.modify n f }
/-- A lane of a weft. -/
def Weft.lane (w : Weft) (i : Nat) : Lane := w.lanes.getD i Lane.nil
/-- A lane changed. -/
def Weft.modLane (w : Weft) (i : Nat) (f : Lane → Lane) : Weft := { w with lanes := w.lanes.modify i f }
/-- A lane of a weft changed. -/
def State.modLane (s : State) (w i : Nat) (f : Lane → Lane) : State := s.modWeft w (fun x => x.modLane i f)
/-- A report to system software (R408). -/
def State.report (s : State) (what : String) (ctx : CtxId) (fields : List Nat) : State :=
  { s with reports := s.reports ++ [⟨what, ctx, fields⟩] }
/-- A fresh identifier. -/
def State.takeId (s : State) : State × Nat := ({ s with nextId := s.nextId + 1 }, s.nextId)

/-- The context of a panel's launch. -/
def Panel.ctx (p : Panel) : CtxId := p.launch.ctx
/-- The register allocation of a panel's wefts (R176). -/
def Panel.alloc (p : Panel) : Nat := 16 * (p.launch.bud + 1)
/-- The panel of a weft. -/
def State.panelOf (s : State) (w : Weft) : Panel := s.panel w.panel
/-- The wefts of a panel, in panel order. -/
def State.weftsOf (s : State) (p : Nat) : List Weft := s.wefts.filter (fun w => w.panel == p)

/-- A counter of a context changed (R482). -/
def State.modCount (s : State) (c : CtxId) (leaf : Nat) (f : Nat → Nat) : State :=
  s.modCtx c (fun x => { x with counters := sput 0 x.counters leaf (f (sget 0 x.counters leaf)) })

/-- The die of a core (R367). -/
def coreDie (c : Nat) : Nat := bitsOf c 9 8
/-- The logical quad of a core. -/
def coreQuad (c : Nat) : Nat := bitsOf c 7 2
/-- The core number in its quad. -/
def coreIdx (c : Nat) : Nat := bitsOf c 1 0
/-- CORE[9:0] from die, quad and core. -/
def coreOf (d q c : Nat) : Nat := d * 256 + q * 4 + c

/-- G, the number of good healds (R167). -/
def CoreSt.gcnt (c : CoreSt) : Nat := ((List.range 16).filter (fun i => c.good.getLsbD i)).length
/-- P, the pick count (R167). -/
def CoreSt.picks (c : CoreSt) : Nat := ceilDiv 32 c.gcnt

/-! ### Registers (R99, R166, R183) and pending results (R174, R175) -/

/-- The key of lane register vn of a lane. -/
def keyV (lane n : Nat) : Nat := 256 * lane + n
/-- The key of weft scalar sn. -/
def keyS (n : Nat) : Nat := 8192 + n

/-- Whether a fixed-latency result is readable in a slot (R174). -/
def Pend.visible (p : Pend) (slot picks : Nat) : Bool := p.lat ≤ (slot - p.slot) * picks

/-- The value of a register in a slot: the newest readable result, else an older one, else the register (R174). While a
tracked result is not complete, old or new by a free choice (R175). -/
def readKey (fresh slot picks : Nat) (regs : List (Nat × DWord)) (key : Nat) : List Pend → DWord
  | [] => sget 0 regs key
  | p :: ps =>
    match lookupKey key p.vals with
    | none => readKey fresh slot picks regs key ps
    | some v =>
      match p.op with
      | none => if p.visible slot picks then v else readKey fresh slot picks regs key ps
      | some _ =>
        if p.known && Config.freePick fresh key then v else readKey fresh slot picks regs key ps

/-- Whether a register's value, as `readKey` finds it, is poisoned (R440). -/
def poisonKey (fresh slot picks : Nat) (poison : List Nat) (key : Nat) : List Pend → Bool
  | [] => poison.contains key
  | p :: ps =>
    match lookupKey key p.vals with
    | none => poisonKey fresh slot picks poison key ps
    | some _ =>
      match p.op with
      | none => if p.visible slot picks then p.pz.contains key else poisonKey fresh slot picks poison key ps
      | some _ =>
        if p.known && Config.freePick fresh key then p.pz.contains key else poisonKey fresh slot picks poison key ps

/-- What a word reads with: its weft, slot, pick count, PC, lanes and mode. -/
structure IC where
  w     : Weft
  p     : Panel
  fresh : Nat
  slot  : Nat
  picks : Nat
  pc    : DWord
  hdr   : Off
  lanes : List Nat
  sys   : Bool
  /-- The counted instruction (R175). -/
  track : Nat
  /-- The other path of the slot (R471). -/
  pc2   : DWord
  lanes2 : LaneMask
  /-- The word has issued, and these lanes go on after their walks (R74). -/
  late  : Bool

/-- The lowest-numbered active lane of the word: its agent (R128). -/
def IC.agent (x : IC) : Nat := x.lanes.headD 0
/-- A register by key. -/
def IC.key (x : IC) (k : Nat) : DWord := readKey x.fresh x.slot x.picks x.w.regs k x.w.pend
/-- Whether a register is poisoned. -/
def IC.pzKey (x : IC) (k : Nat) : Bool := poisonKey x.fresh x.slot x.picks x.w.poison k x.w.pend
/-- Whether an operand is poisoned in a lane (R442). -/
def IC.pz (x : IC) (w64 : Bool) (o : Opnd) (lane : Nat) : Bool :=
  match o with
  | .v n => x.pzKey (keyV lane n.toNat) || (w64 && x.pzKey (keyV lane (n.toNat + 1)))
  | .s n => x.pzKey (keyS n.toNat)
  | .zero => false
  | .lane => false
/-- An operand read in a lane at its width (R183, R241). -/
def IC.rd (x : IC) (w64 : Bool) (o : Opnd) (lane : Nat) : DWord :=
  match o with
  | .v n =>
    if w64 then (BitVec.ofNat 32 (x.key (keyV lane n.toNat)).toNat) ++ (BitVec.ofNat 32 (x.key (keyV lane (n.toNat + 1))).toNat)
    else trunc 32 (x.key (keyV lane n.toNat)).toNat
  | .s n => if w64 then x.key (keyS n.toNat) else trunc 32 (x.key (keyS n.toNat)).toNat
  | .zero => 0
  | .lane => BitVec.ofNat 64 lane
/-- The origin of NaNs of the word in a lane (R232). -/
def IC.nan (x : IC) (lane : Nat) : NanCtx := ⟨lane, foldOf x.pc⟩

/-- The register writes of a value to a destination in a lane (R99, R183). -/
def destWrites (w64 : Bool) (d : Opnd) (lane : Nat) (v : DWord) : List (Nat × DWord) :=
  match d with
  | .v n =>
    if w64 then [(keyV lane n.toNat, v >>> 32), (keyV lane (n.toNat + 1), trunc 32 v.toNat)]
    else [(keyV lane n.toNat, trunc 32 v.toNat)]
  | .s n => [(keyS n.toNat, if w64 then v else trunc 32 v.toNat)]
  | .zero => []
  | .lane => []

/-- The writes of a word: each lane's value to a lane register, the lowest lane's to a scalar (R183). -/
def wordWrites (w64 : Bool) (d : Opnd) (lanes : List Nat) (f : Nat → DWord) : List (Nat × DWord) :=
  match d with
  | .v _ => lanes.flatMap (fun i => destWrites w64 d i (f i))
  | .s _ => (lanes.take 1).flatMap (fun i => destWrites w64 d i (f i))
  | .zero => []
  | .lane => []

/-- The registers and their poison. -/
abbrev RegFile := List (Nat × DWord) × List Nat

/-- Whether a list of register writes writes a key. -/
def hasKey (vs : List (Nat × DWord)) (k : Nat) : Bool := vs.any (fun x => x.1 == k)

/-- Values written into the registers, with the poisoned ones among them. -/
def RegFile.put (r : RegFile) (vs : List (Nat × DWord)) (pz : List Nat) : RegFile :=
  (vs.foldl (fun m kv => sput 0 m kv.1 kv.2) r.1, r.2.filter (fun k => !hasKey vs k) ++ pz)

/-- A pending result without the registers that a newer result has written. -/
def Pend.drop (q : Pend) (vs : List (Nat × DWord)) : Pend :=
  { q with vals := q.vals.filter (fun kv => !hasKey vs kv.1), pz := q.pz.filter (fun k => !hasKey vs k) }

/-- Registers written outright: older pending results of the same registers are dropped. -/
def Weft.setRegs (w : Weft) (vs : List (Nat × DWord)) (pz : List Nat := []) : Weft :=
  { w with
    regs := (RegFile.put (w.regs, w.poison) vs pz).1
    poison := (RegFile.put (w.regs, w.poison) vs pz).2
    pend := w.pend.map (fun p => p.drop vs) }

/-- Write the results that are readable from this slot on into the registers, oldest first; the newest value of a register
stays (R174). The list holds the newest result first. -/
def settle (slot picks : Nat) (r : RegFile) : List Pend → RegFile × List Pend
  | [] => (r, [])
  | p :: ps =>
    let q := settle slot picks r ps
    if p.op.isNone && p.visible slot picks then (q.1.put p.vals p.pz, q.2.map (fun x => x.drop p.vals))
    else (q.1, p :: q.2)

/-- The weft with every fixed-latency result readable in the slot settled. -/
def Weft.settled (w : Weft) (slot picks : Nat) : Weft :=
  let q := settle slot picks (w.regs, w.poison) w.pend
  { w with regs := q.1.1, poison := q.1.2, pend := q.2.filter (fun p => !p.vals.isEmpty) }

/-- A tracked operation has written its results (R175): its pending values become register values, unless a newer result
of the register is already pending. -/
def Weft.complete (w : Weft) (op : Nat) : Weft :=
  match w.pend.find? (fun p => p.op == some op) with
  | none => w
  | some p =>
    let newer := w.pend.takeWhile (fun q => q.op != some op)
    let older := (w.pend.dropWhile (fun q => q.op != some op)).drop 1
    let r := RegFile.put (w.regs, w.poison) p.vals p.pz
    { w with regs := r.1, poison := r.2, pend := newer ++ older.map (fun q => q.drop p.vals) }

/-- A fixed-latency result. -/
def Weft.addFixed (w : Weft) (slot lat : Nat) (vs : List (Nat × DWord)) (pz : List Nat := []) : Weft :=
  if vs.isEmpty then w else { w with pend := ⟨none, slot, lat, true, vs, pz⟩ :: w.pend }
/-- A tracked result. -/
def Weft.addTracked (w : Weft) (op : Nat) (vs : List (Nat × DWord)) (pz : List Nat := []) : Weft :=
  if vs.isEmpty then w else { w with pend := ⟨some op, 0, 0, true, vs, pz⟩ :: w.pend }
/-- A tracked result whose values are not known yet: the registers by key. -/
def Weft.addUnknown (w : Weft) (op : Nat) (ks : List Nat) : Weft :=
  if ks.isEmpty then w else { w with pend := ⟨some op, 0, 0, false, ks.map (fun k => (k, 0)), []⟩ :: w.pend }
/-- The values and poison of a tracked result become known, by register. -/
def Weft.fillPend (w : Weft) (op : Nat) (f : Nat → DWord × Bool) : Weft :=
  { w with pend := w.pend.map (fun p =>
      if p.op = some op ∧ p.known = false then
        { p with known := true, vals := p.vals.map (fun kv => (kv.1, (f kv.1).1)),
                 pz := (p.vals.map (·.1)).filter (fun k => (f k).2) }
      else p) }

/-! ### Completion flags (R175) -/

/-- cfn (0 for n = 0). -/
def Weft.flag (w : Weft) (n : Nat) : Nat := w.flags.getD n 0
/-- One more instruction counted. -/
def Weft.flagUp (w : Weft) (n : Nat) : Weft := if n = 0 then w else { w with flags := w.flags.modify n (· + 1) }
/-- One instruction completed. -/
def Weft.flagDown (w : Weft) (n : Nat) : Weft := if n = 0 then w else { w with flags := w.flags.modify n (· - 1) }
/-- Whether every flag is 0. -/
def Weft.flagsClear (w : Weft) : Bool := (w.flags.drop 1).all (· == 0)

/-- One part of a counted instruction has completed; the flag falls with the last (R305). -/
def Weft.partDone (w : Weft) (id : Nat) : Weft :=
  match w.tracks.find? (fun t => t.id == id) with
  | none => w
  | some t =>
    if t.left ≤ 1 then { w with tracks := w.tracks.eraseP (fun x => x.id == id) }.flagDown t.flag
    else { w with tracks := w.tracks.map (fun x => if x.id = id then { x with left := x.left - 1 } else x) }
/-- A counted instruction with its parts; with none its flag falls at once. -/
def Weft.beginTrack (w : Weft) (id flag parts : Nat) : Weft :=
  if parts = 0 then w.flagDown flag else { w with tracks := w.tracks ++ [⟨id, flag, parts, []⟩] }
/-- The parts of counted instructions that are fixed-latency results readable in a slot end (R174, R175). -/
def Weft.endFixed (w : Weft) (slot picks : Nat) : Weft :=
  w.tracks.foldl (fun x t =>
    let old := t.due.filter (fun d => decide (d.2 ≤ (slot - d.1) * picks))
    if old.isEmpty then x
    else old.foldl (fun y _ => y.partDone t.id) { x with tracks := x.tracks.map (fun u =>
      if u.id = t.id then { u with due := u.due.filter (fun d => !decide (d.2 ≤ (slot - d.1) * picks)) } else u) }) w

/-- A completion in a weft, resident or saved, and in the checkpoint of its panel where the completed instruction is counted too
(R447). -/
def State.modBoth (s : State) (w : Nat) (f : Weft → Weft) : State :=
  let g (x : Weft) : Weft := if x.id = w then f x else x
  { s.modWeft w f with
    panels := s.panels.map (fun p =>
      match p.ckpt with
      | some k => { p with ckpt := some { k with wefts := k.wefts.map g } }
      | none => p)
    saved := s.saved.map (fun v => { v with wefts := v.wefts.map g }) }

/-- Part of an instruction of a weft completed. -/
def State.partDone (s : State) (w id : Nat) : State := s.modBoth w (fun x => x.partDone id)

/-! ### Keys (R88) -/

/-- The state and generation of a key slot. -/
def State.key (s : State) (k : Nat) : KeySt × Nat := sget (.empty, 0) s.keys k
/-- Whether a key index has a live key (R89). -/
def State.keyLive (s : State) (k : Nat) : Bool := (s.key k).1 == .live

/-- Whether a die's scheduler works: after bring-up, and while its controller does not restart and the die is not tripped (R462, R487,
R488). -/
def State.schedules (s : State) (die : Nat) : Bool :=
  s.boot == 7 && !(s.die die).restarting && !(s.die die).tripped

/-! ### Lanes of a weft -/

/-- Whether a lane may take part in a path (R171). -/
def Lane.ready (l : Lane) : Bool := l.st == .active
/-- The lanes not exited. -/
def Weft.liveLanes (w : Weft) : List Nat := (List.range 32).filter (fun i => (w.lane i).st != .exited)
/-- The lanes of a panel's wefts all exited (R379). -/
def State.panelExited (s : State) (p : Nat) : Bool := (s.weftsOf p).all (fun w => w.liveLanes.isEmpty)

end Sys2Proof.Machine
end

