-- ==== Sys2Proof/Machine/Digest.lean ====
section
/-! DEFINITION. The SHAKE256 digest that the manual records with published code and signs in attestation reports (R371, R489).
The manual names the function and leaves it to FIPS 202: Keccak-f[1600] with rate 1088 bits. PRESUMED. -/
namespace Sys2Proof.Machine

/-- Lane x, y of a Keccak state of 25 words. -/
def klane (a : List DWord) (x y : Nat) : DWord := a.getD (x % 5 + 5 * (y % 5)) 0
/-- A Keccak state by its lanes. -/
def kbuild (f : Nat → Nat → DWord) : List DWord := (List.range 25).map (fun i => f (i % 5) (i / 5))

/-- The rotation of each lane in ρ, by x + 5y. -/
def krot : List Nat :=
  [0, 1, 62, 28, 27] ++ [36, 44, 6, 55, 20] ++ [3, 10, 43, 25, 39] ++ [41, 45, 15, 21, 8] ++ [18, 2, 61, 56, 14]

/-- One step of the shift register of the round constants. -/
def klfsr (r : Nat) : Nat := if r < 128 then 2 * r else (2 * r) % 256 ^^^ 0x71

/-- The round constant read off the shift register: bit 2^j - 1 from its j-th output. -/
def kconst : Nat → Nat → Nat → DWord × Nat
  | 0, _, r => (0, r)
  | n + 1, j, r =>
    let q := kconst n (j + 1) (klfsr r)
    (if r % 2 = 1 then q.1 ^^^ ((1 : DWord) <<< (2 ^ j - 1)) else q.1, q.2)

/-- The steps θ, ρ and π, χ and ι of a round. -/
def kround (a : List DWord) (rc : DWord) : List DWord :=
  let par (x : Nat) : DWord := klane a x 0 ^^^ klane a x 1 ^^^ klane a x 2 ^^^ klane a x 3 ^^^ klane a x 4
  let th := kbuild (fun x y => klane a x y ^^^ par (x + 4) ^^^ (par (x + 1)).rotateLeft 1)
  let rp := kbuild (fun x y => (klane th (x + 3 * y) x).rotateLeft (krot.getD ((x + 3 * y) % 5 + 5 * x) 0))
  let ch := kbuild (fun x y => klane rp x y ^^^ (~~~ (klane rp (x + 1) y) &&& klane rp (x + 2) y))
  ch.set 0 (klane ch 0 0 ^^^ rc)

/-- Keccak-f: `n` rounds from a state of the shift register. -/
def keccak : Nat → Nat → List DWord → List DWord
  | 0, _, a => a
  | n + 1, r, a =>
    let q := kconst 7 0 r
    keccak n q.2 (kround a q.1)

/-- A block of 136 bytes absorbed. -/
def kabsorb (a : List DWord) (blk : List Byte) : List DWord :=
  keccak 24 1 ((List.range 25).map (fun i => a.getD i 0 ^^^ BitVec.ofNat 64 (leNat ((blk.drop (8 * i)).take 8))))

/-- The sponge over the whole blocks of a padded message. -/
def ksponge : Nat → List Byte → List DWord → List DWord
  | 0, _, a => a
  | n + 1, bs, a => ksponge n (bs.drop 136) (kabsorb a (bs.take 136))

/-- The 64-byte SHAKE256 digest of a byte string. -/
def shake256 (bs : List Byte) : List Byte :=
  let n := bs.length / 136 + 1
  let gap := 136 * n - bs.length
  let pad : List Byte := if gap = 1 then [0x9F] else 0x1F :: (List.replicate (gap - 2) 0 ++ [0x80])
  ((ksponge n (bs ++ pad) (List.replicate 25 0)).take 8).flatMap (fun v => natLE 8 v.toNat)

end Sys2Proof.Machine
end

