-- ==== Sys2Proof/Machine/Access.lean ====
section
/-! DEFINITION. Memory: the package physical map (R94 to R103), owner keys (R87 to R89), poison (R440, R441), descriptors
(R10 to R16), page tables (R63 to R69) and the check order of R26. -/
namespace Sys2Proof.Machine

/-! ### Physical addresses (R94 to R102) -/

/-- The first physical address of the core structures (R94). -/
def chipBase : Nat := 0x8000000000000
/-- The first physical address above HBM (R94). -/
def hbmEnd : Nat := 0x8000000000
/-- The block of a core (R96). -/
def coreBlock (c : Nat) : Nat := chipBase + coreDie c * 2 ^ 29 + coreQuad c * 2 ^ 23 + coreIdx c * 2 ^ 21
/-- The core whose block holds a physical address. -/
def coreOfPa (pa : Nat) : Nat := coreOf (bitsOf pa 30 29) (bitsOf pa 28 23) (bitsOf pa 22 21)
/-- Block offsets of the structures (R96). -/
def padOff : Nat := 0x80000
/-- Block offset of the accumulator store. -/
def accOff : Nat := 0x100000
/-- Block offset of the partial store window. -/
def partOff : Nat := 0x140000
/-- Block offset of the I-pad. -/
def ipadOff : Nat := 0x180000
/-- The block offset of a physical address in the core structures. -/
def blockOff (pa : Nat) : Nat := pa % 2 ^ 21
/-- A byte of a core's pad by structure offset. -/
def padPa (c off : Nat) : Nat := coreBlock c + padOff + off
/-- Whether a physical address is a byte of a panel pad. -/
def isPad (pa : Nat) : Bool := decide (chipBase ≤ pa) && decide (padOff ≤ blockOff pa) && decide (blockOff pa < accOff)
/-- Whether a physical address is a byte of the partial store window. -/
def isPart (pa : Nat) : Bool := decide (partOff ≤ blockOff pa) && decide (blockOff pa < ipadOff)
/-- Whether a physical address is a byte of a register file. -/
def isReg (pa : Nat) : Bool := decide (blockOff pa < 0x40000)

/-- Wefts of a panel (R373: WEFTS is the number less 1). -/
def Launch.nwefts (l : Launch) : Nat := l.wefts + 1

/-- The weft, lane and lane register that hold a register-file word (R99); none where no resident weft holds the block
(R106). -/
def State.regHome (s : State) (c off : Nat) : Option (Nat × Nat × Nat) :=
  let b := off / 2048
  (s.panels.find? (fun p => decide (p.core = c) && decide (p.rblk ≤ b) &&
      decide (b < p.rblk + p.launch.nwefts * (p.launch.bud + 1)))).bind fun p =>
    let k := b - p.rblk
    (s.wefts.find? (fun w => decide (w.panel = p.id) && decide (w.pweft = k / (p.launch.bud + 1)))).map fun w =>
      (w.id, off % 128 / 4, 16 * (k % (p.launch.bud + 1)) + off % 2048 / 128)

/-! ### Bytes -/

/-- Byte `i` of a number. -/
def byteOf (x i : Nat) : Byte := BitVec.ofNat 8 (x >>> (8 * i))

/-- The tag of an HBM data unit: key index, generation, writes (R87); (0, 0, 0) when it was never written. -/
def MemSt.tag (m : MemSt) (pa : Nat) : Nat × Nat × Nat := sget (0, 0, 0) m.tags (pa / 64)

/-- A byte of the HBM arrays under a key index (R87, R88). -/
def State.dramByte (s : State) (pa okey : Nat) : Byte :=
  let t := s.mem.tag pa
  if t.2.2 = 0 ∨ (t.1 = okey ∧ t.2.1 = (s.key okey).2) then sget 0 s.mem.bytes pa
  else Config.freeByte pa okey (s.key okey).2 t.2.2

/-- The die-store line that an access under a key index hits (R90). -/
def MemSt.line? (m : MemSt) (pa okey : Nat) : Option DLine := m.lines.find? (fun l => l.unit == pa / 64 && l.okey == okey)

/-- An HBM byte under a key index: of the home die's store where that holds the line, else of the arrays (R90, R125). -/
def State.hbmByte (s : State) (pa okey : Nat) : Byte :=
  match s.mem.line? pa okey with
  | some l => l.bytes.getD (pa % 64) 0
  | none => s.dramByte pa okey

/-- A weft as its register file stands between two issue cycles of its core: results readable by then are written (R106, R174). -/
def State.filed (s : State) (core : Nat) (w : Weft) : Weft := w.settled ((s.core core).slot + 1) (s.core core).picks

/-- A register as a window finds it (R106). -/
def State.fileWord (s : State) (core w key : Nat) : DWord := sget 0 (s.filed core (s.weft w)).regs key

/-- A byte of a core structure (R99 to R103). -/
def State.chipByte (s : State) (pa : Nat) : Byte :=
  let off := blockOff pa
  if isReg pa then
    match s.regHome (coreOfPa pa) off with
    | some (w, lane, n) => byteOf (s.fileWord (coreOfPa pa) w (keyV lane n)).toNat (off % 4)
    | none => 0
  else if isPart pa && 6 ≤ off % 8 then
    if (sget 0 s.mem.bytes (pa - off % 8 + 5)).getLsbD 7 then 0xFF else 0
  else sget 0 s.mem.bytes pa

/-- The key of a byte of another package. -/
def remoteKey (node root off : Nat) : Nat := (root * 2 ^ 40 + off) * 64 + node

/-- The byte at a place. -/
def State.byteAt (s : State) : Loc → Byte
  | .hbm pa k _ => s.hbmByte pa k
  | .chip pa _ => s.chipByte pa
  | .zero => 0
  | .host _ a => sget 0 s.mem.host a
  | .remote node root _ _ off => sget 0 s.mem.remote (remoteKey node root off)

/-- A byte of the HBM arrays written under a key index: a unit last written under another key first becomes what that key reads
(R87). -/
def State.dramPut (s : State) (pa okey : Nat) (b : Byte) : State :=
  let t := s.mem.tag pa
  let g := (s.key okey).2
  let u := pa / 64
  let bytes := if t.2.2 = 0 ∨ (t.1 = okey ∧ t.2.1 = g) then s.mem.bytes
    else (List.range 64).foldl (fun m i => sput 0 m (64 * u + i) (Config.freeByte (64 * u + i) okey g t.2.2)) s.mem.bytes
  { s with mem := { s.mem with
      bytes := sput 0 bytes pa b
      tags := sput (0, 0, 0) s.mem.tags u (okey, g, t.2.2 + 1) } }

/-! ### The die stores (R95, R125, R126) -/

/-- The stack of an HBM address (R95). -/
def stackOf (pa : Nat) : Nat := bitsOf pa 14 12
/-- The home die of an HBM address (R95). -/
def homeDie (pa : Nat) : Nat := bitsOf pa 14 13
/-- The set of an HBM address in its home die's store (R125). -/
def storeSet (pa : Nat) : Nat := bitsOf pa 22 15 * 2 ^ 7 + bitsOf pa 12 6
/-- Whether a line stands in the set of an address, of the same die. -/
def DLine.inSet (l : DLine) (pa : Nat) : Bool :=
  homeDie (64 * l.unit) == homeDie pa && storeSet (64 * l.unit) == storeSet pa

/-- A line written back under its own key index, if it is dirty (R125). -/
def State.writeBack (s : State) (l : DLine) : State :=
  if l.dirty then (List.range 64).foldl (fun x i => x.dramPut (64 * l.unit + i) l.okey (l.bytes.getD i 0)) s else s

/-- Room for a line in the set of an address: of a full set, the line of the lowest retention is evicted (R125). -/
def State.evict (s : State) (pa : Nat) : State :=
  let set := s.mem.lines.filter (fun l => l.inSet pa)
  if set.length < Config.storeWays then s
  else match set.getLast? with
    | none => s
    | some v =>
      let s1 := s.writeBack v
      { s1 with mem := { s1.mem with lines := s1.mem.lines.erase v } }

/-- What an access allocates on a miss by its policy: a line at the highest retention, at the lowest, or none (R126). -/
def State.allocLine (s : State) (pa okey cpol : Nat) : State :=
  if 2 ≤ cpol ∨ (s.mem.line? pa okey).isSome then s
  else
    let u := pa / 64
    let s1 := s.evict pa
    let l : DLine := ⟨u, okey, false, (List.range 64).map (fun i => s1.dramByte (64 * u + i) okey)⟩
    { s1 with mem := { s1.mem with lines := if cpol = 0 then l :: s1.mem.lines else s1.mem.lines ++ [l] } }

/-- A line with one byte replaced. -/
def DLine.put (l : DLine) (i : Nat) (b : Byte) : DLine :=
  { l with dirty := true, bytes := (List.range 64).map (fun k => if k = i then b else l.bytes.getD k 0) }

/-- An HBM byte written under a key index: in its line, which a miss allocates by the policy, else in the arrays (R90, R125,
R126). -/
def State.hbmPut (s : State) (pa okey cpol : Nat) (b : Byte) : State :=
  let s1 := s.allocLine pa okey cpol
  if (s1.mem.line? pa okey).isSome then
    { s1 with mem := { s1.mem with lines := s1.mem.lines.map (fun l =>
        if l.unit = pa / 64 ∧ l.okey = okey then l.put (pa % 64) b else l) } }
  else s1.dramPut pa okey b

/-- Lines dropped without being written back (R84, R88). -/
def State.dropLines (s : State) (f : DLine → Bool) : State :=
  if s.mem.lines.any f then { s with mem := { s.mem with lines := s.mem.lines.filter (fun l => !f l) } } else s

/-- A register of a weft with one byte replaced. -/
def regByte (v : DWord) (i : Nat) (b : Byte) : DWord :=
  BitVec.ofNat 64 (v.toNat - (byteOf v.toNat i).toNat * 256 ^ i + b.toNat * 256 ^ i)

/-- A byte of a core structure written (R102, R106). -/
def State.chipPut (s : State) (pa : Nat) (b : Byte) : State :=
  let off := blockOff pa
  if isReg pa then
    match s.regHome (coreOfPa pa) off with
    | some (w, lane, n) =>
      let k := keyV lane n
      s.modWeft w (fun x =>
        let y := s.filed (coreOfPa pa) x
        { y with regs := sput 0 y.regs k (regByte (sget 0 y.regs k) (off % 4) b) })
    | none => s
  else if isPart pa && 6 ≤ off % 8 then s
  else { s with mem := { s.mem with bytes := sput 0 s.mem.bytes pa b } }

/-- The byte at a place written. -/
def State.putByte (s : State) (l : Loc) (b : Byte) : State :=
  match l with
  | .hbm pa k c => s.hbmPut pa k c b
  | .chip pa _ => s.chipPut pa b
  | .zero => s
  | .host _ a => { s with mem := { s.mem with host := sput 0 s.mem.host a b } }
  | .remote node root _ _ off =>
    { s with mem := { s.mem with remote := sput 0 s.mem.remote (remoteKey node root off) b } }

/-! ### Poison (R440, R441) -/

/-- The granule of a place: its first physical address and its bytes; the registers of a register-file window are marked in
their weft, and no granule stands for memory outside the package. -/
def granule : Loc → Option (Nat × Nat)
  | .hbm pa _ _ => some (pa / 64 * 64, 64)
  | .chip pa _ =>
    if isReg pa then none
    else if isPart pa then some (pa / 8 * 8, 6)
    else if isPad pa then some (pa / 8 * 8, 8)
    else if blockOff pa < partOff then some (pa / 4 * 4, 4)
    else none
  | .zero => none
  | .host _ _ => none
  | .remote _ _ _ _ _ => none

/-- Whether the byte at a place is poisoned. -/
def State.pzAt (s : State) (l : Loc) : Bool :=
  match granule l with
  | some (g, _) => s.mem.poison.contains g
  | none =>
    match l with
    | .chip pa _ => match s.regHome (coreOfPa pa) (blockOff pa) with
      | some (w, lane, n) => isReg pa && (s.weft w).poison.contains (keyV lane n)
      | none => false
    | .hbm _ _ _ => false
    | .zero => false
    | .host _ _ => false
    | .remote _ _ _ _ _ => false

/-- The physical address of a place in the package. -/
def Loc.pa? : Loc → Option Nat
  | .hbm pa _ _ => some pa
  | .chip pa _ => some pa
  | .zero => none
  | .host _ _ => none
  | .remote _ _ _ _ _ => none

/-- The poison marks after a write: a poisoned byte marks its granule, and a write of every byte of a marked granule
clears the mark (R440, R441). -/
def State.pzAfter (s : State) (ws : List Wr) : List Nat :=
  if s.mem.poison.isEmpty && !ws.any (fun w => w.pz) then [] else
  let covered (g n : Nat) : Bool := (List.range n).all (fun i => ws.any (fun w => w.loc.pa? == some (g + i)))
  ws.foldl (fun ps w =>
    match granule w.loc with
    | none => ps
    | some (g, n) =>
      if ws.any (fun x => x.pz && granule x.loc == some (g, n)) then (if ps.contains g then ps else g :: ps)
      else if covered g n then ps.filter (· != g) else ps) s.mem.poison

/-- A write of bytes at a place recorded by a beam slot marks the slot STALE on every core (R325). -/
def State.staleBeams (s : State) (ws : List Wr) : State :=
  let hit (m : Macro) : Bool := m.valid && ws.any (fun w =>
    match w.loc with
    | .chip pa _ => isPad pa && coreOfPa pa == m.core && decide (m.off ≤ blockOff pa - padOff) &&
        decide (blockOff pa - padOff < m.off + m.len)
    | .hbm _ _ _ => false
    | .zero => false
    | .host _ _ => false
    | .remote _ _ _ _ _ => false)
  if s.cores.any (fun c => c.2.beams.any hit) then
    { s with cores := s.cores.map (fun c =>
        (c.1, { c.2 with beams := c.2.beams.map (fun m => if hit m then { m with stale := true } else m) })) }
  else s

/-- The poison of registers after a write through a window (R106, R440, R441). -/
def State.pzRegs (s : State) (ws : List Wr) : State :=
  let inReg (w : Wr) (g : Nat) : Bool := match w.loc with
    | .chip pa _ => pa / 4 == g
    | .hbm _ _ _ | .zero | .host _ _ | .remote _ _ _ _ _ => false
  let one (y : State) (pa : Nat) : State :=
    match y.regHome (coreOfPa pa) (blockOff pa) with
    | none => y
    | some (w, lane, n) =>
      let k := keyV lane n
      if ws.any (fun q => q.pz && inReg q (pa / 4)) then
        y.modWeft w (fun x => { x with poison := k :: x.poison.filter (· != k) })
      else if (List.range 4).all (fun i => ws.any (fun q => q.loc.pa? == some (pa / 4 * 4 + i))) then
        y.modWeft w (fun x => { x with poison := x.poison.filter (· != k) })
      else y
  ws.foldl (fun y w => match w.loc with
    | .chip pa _ => if isReg pa then one y pa else y
    | .hbm _ _ _ | .zero | .host _ _ | .remote _ _ _ _ _ => y) s

/-- Bytes written. -/
def State.write (s : State) (ws : List Wr) : State :=
  let pz := s.pzAfter ws
  let s1 := ((ws.foldl (fun x w => x.putByte w.loc w.b) s).pzRegs ws).staleBeams ws
  { s1 with mem := { s1.mem with poison := pz } }

/-- Bytes at places, to be written. -/
def wrs (locs : List Loc) (bs : List Byte) (pz : Bool := false) : List Wr :=
  (locs.zip bs).map (fun lb => ⟨lb.1, lb.2, pz⟩)

/-- Bytes and poison at places. -/
def State.read (s : State) (locs : List Loc) : List (Byte × Bool) := locs.map (fun l => (s.byteAt l, s.pzAt l))

/-! ### What cores still see of HBM (R134) -/

/-- The 32-byte sectors of HBM, with their key indexes, that writes lie in. -/
def sectorsOf (ws : List Wr) : List (Nat × Nat) :=
  (ws.filterMap (fun w => match w.loc with
    | .hbm pa k _ => some (pa / 32, k)
    | .chip _ _ | .zero | .host _ _ | .remote _ _ _ _ _ => none)).eraseDups

/-- The cores with resident wefts, other than one. -/
def State.otherCores (s : State) (core : Nat) : List Nat := ((s.wefts.map (fun w => w.core)).filter (· != core)).eraseDups

/-- A sector as memory holds it. -/
def State.sector (s : State) (x okey : Nat) : List (Byte × Bool) :=
  (List.range 32).map (fun i => (s.hbmByte (32 * x + i) okey, s.pzAt (.hbm (32 * x + i) okey 0)))

/-- A core's view of a sector, where it still sees it as it was. -/
def State.staleAt (s : State) (core x okey : Nat) : Option Stale :=
  s.stale.find? (fun e => e.core == core && e.sect == x && e.okey == okey)

/-- What a write of a core leaves other cores seeing, by a free choice for each core and sector (R134; the grain is the model's choice,
log entry 17): the write is not seen there
yet, or it is with every earlier one. The writing core sees it (R133). `src`: the copy command that writes; 0 for none. -/
def State.leaveStale (s : State) (core src : Nat) (ws : List Wr) : State :=
  let xs := sectorsOf ws
  let cs := s.otherCores core
  if xs.isEmpty || (cs.isEmpty && s.stale.isEmpty) then s
  else
    let v := s.nextId
    let missed (c x : Nat) : Bool := Config.freeStale v c x
    let kept := s.stale.filterMap (fun e =>
      if !xs.contains (e.sect, e.okey) then some e
      else if e.core == core || !missed e.core e.sect then none
      else some { e with src := if src = 0 then e.src else src :: e.src })
    let new := xs.flatMap (fun x => cs.filterMap (fun c =>
      if (s.staleAt c x.1 x.2).isSome || !missed c x.1 then none
      else some ⟨c, x.1, x.2, s.sector x.1 x.2, v, if src = 0 then [] else [src]⟩))
    { s with stale := kept ++ new, nextId := v + 1 }

/-- Bytes written by a core, as one access. -/
def State.writeBy (s : State) (core : Nat) (ws : List Wr) (src : Nat := 0) : State := (s.leaveStale core src ws).write ws

/-- The writes that a core sees are performed throughout a set of cores (R137): none of them sees an older state of a sector. -/
def State.spreadTo (s : State) (core : Nat) (cores : Nat → Bool) : State :=
  if s.stale.isEmpty then s
  else { s with stale := s.stale.filterMap (fun e =>
    if e.core == core || !cores e.core then some e
    else match s.staleAt core e.sect e.okey with
      | none => none
      | some o => some (if e.ver < o.ver then { o with core := e.core } else e)) }

/-- The landings of a command are performed throughout the package (R142, R144, R145). -/
def State.spreadCmd (s : State) (id : Nat) : State :=
  if s.stale.isEmpty then s else { s with stale := s.stale.filter (fun e => !e.src.contains id) }

/-- A core sees, by a free choice for each sector, what has been written (R134). -/
def State.catchUp (s : State) (core : Nat) : State :=
  if s.stale.isEmpty then s
  else { s with stale := s.stale.filter (fun e => e.core != core || Config.freeStale s.fresh core e.sect) }

/-! ### Reads by the device of its own tables in HBM -/

/-- Eight bytes of HBM at a physical address under a key index. -/
def State.hbmWord (s : State) (pa okey : Nat) : Nat :=
  leNat ((List.range 8).map (fun i => s.hbmByte (pa + i) okey))
/-- Whether a table read returns an uncorrectable error (R67, R97). -/
def State.tableErr (s : State) (pa : Nat) : Bool := decide (hbmEnd ≤ pa) || s.mem.poison.contains (pa / 64 * 64)

/-! ### Descriptors (R12 to R16) -/

/-- A fault of a segment number. -/
def segFault (reason : Nat) (a : DWord := 0) : LFault := ⟨.segment, reason, a, 0, 0⟩
/-- PAGE with a reason (R68). -/
def pageFault (reason : Nat) (a : DWord := 0) (base : DWord := a >>> 16 <<< 16) : LFault := ⟨.page, reason, a, 0, base⟩

/-- Whether the kind is paged (R63). -/
def pagedKind (k : Nat) : Bool := k == 1 || (5 ≤ k && k ≤ 11)

/-- The four words of a descriptor, parsed (R13). -/
def parseDesc (w0 w1 w2 w3 : Nat) : Desc :=
  ⟨bitsOf w0 63 60, bitAt w0 59, bitAt w0 58, bitAt w0 57, bitAt w0 56, bitAt w0 55, bitAt w0 54, bitsOf w0 53 52,
   bitsOf w0 51 50, bitsOf w0 47 36, bitsOf w1 39 0, bitsOf w1 63 58, bitsOf w1 57 56, bitsOf w1 55 50, bitsOf w2 31 0, w3⟩

/-- Whether PGSZ and CPOL hold values that the kind allows (R15). -/
def descSizes (d : Desc) : Bool :=
  (match d.kind with
    | 1 | 3 => d.pgsz < 3
    | 6 | 11 => d.pgsz < 2
    | _ => d.pgsz == 0) &&
  (match d.kind with
    | 1 => d.cpol < 3
    | 2 | 3 => d.cpol == 2
    | 6 => d.cpol < 2
    | _ => d.cpol == 0)

/-- Whether every set right is one that the kind allows (R15). -/
def descRights (d : Desc) : Bool :=
  match d.kind with
  | 1 | 2 | 3 | 6 | 9 => !d.x
  | 4 => !d.x && (!d.a || bitsOf d.kspec 2 0 == 1)
  | 5 => !d.w && !d.a
  | _ => !d.x && !d.a

/-- Bytes of a window structure (R16). -/
def structSize (t : Nat) : Nat := if t = 1 then 0x80000 else if t = 4 then 0x10000 else 0x40000

/-- The constraints of R15, R16 and R64 on a descriptor; any HQUAD is accepted (the model's choice, log entry 19). -/
def descKind (pnode : Nat) (d : Desc) : Bool :=
  match d.kind with
  | 3 => d.hnode != pnode
  | 4 =>
    bitsOf d.kspec 31 16 == 0 && bitsOf d.kspec 5 3 == 0 && bitsOf d.kspec 13 8 < 36 && bitsOf d.kspec 2 0 < 5 &&
      (bitsOf d.kspec 2 0 != 4 || d.sysOnly) && d.base + d.limit < structSize (bitsOf d.kspec 2 0)
  | 5 => d.limit ≤ 0xFFFF && bitsOf d.kspec 31 16 == 0
  | 8 => (d.limit + 1) % 64 == 0 && bitsOf d.kspec 31 1 == 0
  | 9 => (d.limit + 1) % 8 == 0
  | 10 => d.sysOnly && (d.limit + 1) % 16 == 0
  | _ => true

/-- Whether the descriptor's words are malformed (R14), a paged BASE that is not a multiple of 8 KiB among them (the model's choice, log
entry 20). -/
def descBad (pnode w0 w1 w2 : Nat) (d : Desc) : Bool :=
  11 < d.kind || bitsOf w0 49 48 != 0 || bitsOf w1 49 40 != 0 || bitsOf w2 63 32 != 0 ||
  !descSizes d || !descRights d || (d.ret && d.kind != 5) ||
  (d.kind != 4 && d.kind != 5 && d.kind != 8 && d.kspec != 0) || (pagedKind d.kind && d.base % 0x2000 != 0) ||
  !descKind pnode d

/-- The descriptor of a segment number, read from the context's table (R12, R14, R89, R97); number 0 and the reserved and contextual
numbers have no entry (R9). Reserved bits 14:12 of the root word are ignored (the model's choice, log entry 18). -/
def State.readDesc (s : State) (c : CtxId) (seg : Seg) : Except LFault Desc :=
  let root := (s.ctx c).root.toNat
  let tkey := bitsOf root 11 0
  let di := bitsOf seg.toNat 23 12
  let dpa := bitsOf root 51 15 * 0x8000 + 8 * di
  if seg = 0 then .error (segFault 1)
  else if 0xFFFFF0 ≤ seg.toNat then .error (segFault 2)
  else if bitsOf root 63 52 < di then .error (segFault 3)
  else if !s.keyLive tkey then .error (pageFault 6)
  else if s.tableErr dpa then .error (segFault 5)
  else
    let e := s.hbmWord dpa tkey
    if !bitAt e 0 then .error (segFault 3)
    else if bitsOf e 63 52 != 0 || bitsOf e 16 1 != 0 then .error (segFault 5)
    else
      let pa := bitsOf e 51 17 * 0x20000 + 32 * bitsOf seg.toNat 11 0
      if s.tableErr pa then .error (segFault 5)
      else
        let w0 := s.hbmWord pa tkey
        let w1 := s.hbmWord (pa + 8) tkey
        let w2 := s.hbmWord (pa + 16) tkey
        let w3 := s.hbmWord (pa + 24) tkey
        let d := parseDesc w0 w1 w2 w3
        if d.kind = 0 then .error (segFault 4)
        else if descBad s.pnode.toNat w0 w1 w2 d then .error (segFault 5)
        else .ok d

/-- The descriptor that a core uses: the cached one, else the table's (R32, R69). -/
def State.descOf (s : State) (core : Nat) (c : CtxId) (seg : Seg) : Except LFault Desc :=
  match (s.core core).tlbDesc.find? (fun e => e.1 == c && e.2.1 == seg) with
  | some e => .ok e.2.2
  | none => s.readDesc c seg

/-- Sets of an 8-way descriptor cache of 256 entries (R69). -/
def descSets : Nat := 32
/-- Sets of an 8-way page cache of 2048 entries (R69). -/
def pageSets : Nat := 256

/-- A list without the entries of a set beyond the first `n`. -/
def keepWays {α : Type} (same : α → Bool) : Nat → List α → List α
  | _, [] => []
  | n, a :: l => if !same a then a :: keepWays same n l else match n with
    | 0 => keepWays same 0 l
    | k + 1 => a :: keepWays same k l

/-- A set-associative cache of 8 ways, newest first, with a new entry (R69): it replaces the oldest of its set (the model's choice, log
entry 23). -/
def addWay {α : Type} (same : α → Bool) (x : α) (l : List α) : List α := x :: keepWays same 7 l

/-- The descriptor cache when a walk for a segment number has completed (log entry 23): malformed and absent descriptors are never held
(R32). -/
def State.cacheDesc (s : State) (core : Nat) (c : CtxId) (seg : Seg) : State :=
  if (s.core core).tlbDesc.any (fun e => e.1 == c && e.2.1 == seg) then s
  else match s.readDesc c seg with
    | .ok d => s.modCore core (fun x => { x with
        tlbDesc := addWay (fun e => e.2.1.toNat % descSets == seg.toNat % descSets) (c, seg, d) x.tlbDesc })
    | .error _ => s

/-! ### Page tables (R64 to R68) -/

/-- Bytes of a page by PGSZ (R64). -/
def pageSize (pgsz : Nat) : Nat := if pgsz = 0 then 0x10000 else if pgsz = 1 then 0x200000 else 0x40000000

/-- Whether a valid entry is malformed at its level: `leaf`, the alignment of what it names (R65). -/
def pteBad (e : Nat) (leaf : Bool) (align : Nat) : Bool :=
  bitsOf e 63 52 != 0 || bitsOf e 7 3 != 0 || bitAt e 1 != leaf || (bitsOf e 51 8 * 256) % align != 0 ||
  (bitAt e 2 && !leaf) || (leaf && hbmEnd ≤ bitsOf e 51 8 * 256)

/-- One table read of a walk: the entry, or the reason of PAGE (R67, R68). -/
def State.walkStep (s : State) (tkey pa : Nat) (leaf : Bool) (align : Nat) : Except Nat Nat :=
  if !s.keyLive tkey then .error 6
  else if s.tableErr pa then .error 4
  else
    let e := s.hbmWord pa tkey
    if !bitAt e 0 then .error 1
    else if pteBad e leaf align then .error 3
    else .ok e

/-- A walk by a way of reading its tables: the physical address of the leaf entry and the entry (R64, R67). -/
def walkWith (step : Nat → Bool → Nat → Except Nat Nat) (base off pgsz : Nat) : Except Nat (Nat × Nat) :=
  let p2 := base + 8 * bitsOf off 39 30
  match step p2 (pgsz == 2) (if pgsz = 2 then pageSize 2 else 0x1000) with
  | .error r => .error r
  | .ok e2 =>
    if pgsz = 2 then .ok (p2, e2)
    else
      let p1 := bitsOf e2 51 8 * 256 + 8 * bitsOf off 29 21
      match step p1 (pgsz == 1) (if pgsz = 1 then pageSize 1 else 0x100) with
      | .error r => .error r
      | .ok e1 =>
        if pgsz = 1 then .ok (p1, e1)
        else
          let p0 := bitsOf e1 51 8 * 256 + 8 * bitsOf off 20 16
          match step p0 true (pageSize 0) with
          | .error r => .error r
          | .ok e0 => .ok (p0, e0)

/-- The valid non-leaf entries that a walk reads, each with its physical address (R69). -/
def walkNodes (step : Nat → Bool → Nat → Except Nat Nat) (base off pgsz : Nat) : List (Nat × Nat) :=
  let p2 := base + 8 * bitsOf off 39 30
  if pgsz = 2 then []
  else match step p2 false 0x1000 with
    | .error _ => []
    | .ok e2 =>
      let p1 := bitsOf e2 51 8 * 256 + 8 * bitsOf off 29 21
      (p2, e2) :: (if pgsz = 1 then [] else match step p1 false 0x100 with
        | .error _ => []
        | .ok e1 => [(p1, e1)])

/-- A walk of the tables in memory (R64, R67). -/
def State.walkPage (s : State) (tkey base off pgsz : Nat) : Except Nat (Nat × Nat) := walkWith (s.walkStep tkey) base off pgsz

/-- The key index under which a context's tables are read (R66). -/
def State.tkey (s : State) (c : CtxId) : Nat := bitsOf (s.ctx c).root.toNat 11 0

/-- Whether a class may read a DEAD page as zeros (R67). -/
def Cls.readsDead : Cls → Bool
  | .load | .fetch | .dequeue | .name => true
  | .store | .atomic | .enqueue | .counterSet | .counterAdd | .skeinCreate | .skeinUse | .skeinFree => false

/-- The place of an offset under its leaf entry (R67, R89). -/
def State.leafLoc (s : State) (cls : Cls) (d : Desc) (off leaf : Nat) : Except Nat Loc :=
  if bitAt leaf 2 then (if cls.readsDead then .ok .zero else .error 2)
  else if !s.keyLive d.okey then .error 6
  else .ok (.hbm (bitsOf leaf 51 8 * 256 + off % pageSize d.pgsz) d.okey d.cpol)

/-- A page that a translation needs: context, segment, page number, page size code and table base. -/
abbrev PageReq := CtxId × Seg × Nat × Nat × Nat

/-- Who makes an access and where: context, core, lane's stack segment and frame base, mode, panel. -/
structure Req where
  ctx   : CtxId
  core  : Nat
  panel : Nat
  sys   : Bool
  sseg  : Seg
  fb    : Nat
  /-- The walker's requester (R71): a core by its number, or an engine of a die, and in multiples of 16384 what waits there. -/
  who   : Nat
  /-- Translated at once by the device (trap entry, frame copies), with no queued walk. -/
  now   : Bool := false

/-- A PAGE fault with the class of its access (R406). -/
def LFault.ofCls (f : LFault) (c : Cls) : LFault :=
  if f.code = .page then { f with info := f.info / 16 * 16 + (Cls.all.findIdx (· == c)) + 1 } else f

/-- The further faulting pages of an access that raised PAGE, each with its reason (R76). -/
def LFault.more (f : LFault) : List (DWord × Nat) :=
  (List.range (f.info / 16 % 1024)).map (fun i =>
    let x := f.info / 2 ^ 14 / 2 ^ (80 * i)
    (BitVec.ofNat 64 x, x / 2 ^ 64 % 2 ^ 16))
/-- A PAGE fault with further faulting pages. -/
def LFault.withMore (f : LFault) (ps : List (DWord × Nat)) : LFault :=
  { f with info := f.info % 16 + 16 * (ps.take 32).length +
      2 ^ 14 * ((ps.take 32).zipIdx.foldl (fun n q => n + (q.1.1.toNat + q.1.2 * 2 ^ 64) * 2 ^ (80 * q.2)) 0) }
/-- The PAGE faults of a byte and of those after it in one access (R76): other faults show no further page. -/
def LFault.also (f g : LFault) : LFault :=
  if f.code ≠ .page ∨ g.code ≠ .page then f
  else if f.extra = g.extra then f.withMore g.more
  else f.withMore ((g.extra, g.reason) :: g.more)

/-- The requester numbers of the engines of a die (R71). -/
def whoCopy (die : Nat) : Nat := 2048 + die
/-- The network engine of a die. -/
def whoNet (die : Nat) : Nat := 4096 + die
/-- Remote walks for other packages at a die (R81). -/
def whoRemote (die : Nat) : Nat := 8192 + die
/-- A requester's waiter: a counted instruction, a weft, a command. -/
def whoFor (who id : Nat) : Nat := who % 16384 + 16384 * id
/-- The requester of a waiter. -/
def whoOf (who : Nat) : Nat := who % 16384
/-- The die of a requester. -/
def whoDie (who : Nat) : Nat := if whoOf who < 1024 then coreDie (whoOf who) else who % 4
/-- The die whose walker and host cache serve a request. -/
def Req.die (r : Req) : Nat := if r.core < 1024 then coreDie r.core else r.core - 1024

/-- The result of a check: what was asked, a fault, or pages whose walks must end first (R74). -/
inductive Chk (α : Type) where
  | ok (a : α)
  | fault (f : LFault)
  | miss (ps : List PageReq)
  deriving DecidableEq, Repr

/-- The next check after a passed one. -/
def Chk.bind {α β : Type} (c : Chk α) (f : α → Chk β) : Chk β :=
  match c with
  | .ok a => f a
  | .fault e => .fault e
  | .miss ps => .miss ps

/-- A check's result mapped. -/
def Chk.map {α β : Type} (c : Chk α) (f : α → β) : Chk β := c.bind (fun a => .ok (f a))

/-- Whether an ended or queued walk is that of a page. -/
def Walk.isFor (w : Walk) (c : CtxId) (seg : Seg) (page pgsz base : Nat) : Bool :=
  w.ctx == c && w.seg == seg && w.page == page && w.pgsz == pgsz && w.base == base

/-- The leaf entry of an offset as the core finds it: in the page cache, from an ended walk that it waited for, or a miss (R67,
R69, R72). -/
def State.leafOf (s : State) (r : Req) (seg : Seg) (d : Desc) (off : Nat) : Chk Nat :=
  let pg := off / pageSize d.pgsz
  let bad (reason : Nat) : Chk Nat :=
    .fault (pageFault reason (mkAddr seg (BitVec.ofNat 40 off)) (mkAddr seg (BitVec.ofNat 40 (pg * pageSize d.pgsz))))
  let walk : Chk Nat := match s.walkPage (s.tkey r.ctx) d.base off d.pgsz with
    | .ok e => .ok e.2
    | .error reason => bad reason
  match (s.core r.core).tlbPage.find? (fun e => e.ctx == r.ctx && e.seg == seg && e.page == pg && e.pgsz == d.pgsz && e.base == d.base) with
  | some e => .ok e.leaf.toNat
  | none =>
    if r.now then walk
    else match s.walks.find? (fun w => w.isFor r.ctx seg pg d.pgsz d.base && w.result.isSome && w.reqs.contains r.who) with
    | some w => match w.result with
      | some 0 => walk
      | some reason => bad reason
      | none => .miss [(r.ctx, seg, pg, d.pgsz, d.base)]
    | none => .miss [(r.ctx, seg, pg, d.pgsz, d.base)]

/-! ### The virtual kinds of the contextual numbers (R20) -/

/-- The kind number that stands for PAD. -/
def kPad : Nat := 0x10
/-- ACC. -/
def kAcc : Nat := 0x11
/-- PART. -/
def kPart : Nat := 0x12
/-- IPAD. -/
def kIpad : Nat := 0x13

/-- The descriptor that a contextual number of some bytes stands for (R20). -/
def ctxDesc (kind bytes : Nat) (a : Bool) : Desc :=
  ⟨kind, true, true, false, a, false, false, 0, 0, 0, bytes - 1, 0, 0, 0, b2n (bytes == 0), 0⟩
/-- The last offset of a segment: −1 for a contextual number of no bytes (R20). -/
def Desc.top (d : Desc) : Int := if kPad ≤ d.kind ∧ d.kspec = 1 then -1 else d.limit

/-- The (k+1)-th set bit of a mask, in ascending order (R324). -/
def nthSet (m : Nat) (n k : Nat) : Option Nat := ((List.range n).filter (fun i => bitAt m i))[k]?

/-- Whether a class accepts a kind (R24, R25). -/
def Cls.accepts (c : Cls) (sys : Bool) (d : Desc) : Bool :=
  match c with
  | .load => sys || d.kind != 10
  | .store => sys || d.kind == 1 || d.kind == 2 || d.kind == 3 || d.kind == 4 || d.kind == 6 || kPad ≤ d.kind
  | .atomic => d.kind == 1 || d.kind == 2 || d.kind == 3 || (d.kind == 4 && bitsOf d.kspec 2 0 == 1) || d.kind == 6 ||
      d.kind == kPad
  | .fetch => d.kind == 5
  | .enqueue => d.kind == 8
  | .dequeue => d.kind == 8
  | .counterSet => d.kind == 9
  | .counterAdd => d.kind == 9
  | .skeinCreate => d.kind == 7
  | .skeinUse => d.kind == 7
  | .skeinFree => d.kind == 7
  | .name => d.kind == 11

/-- Whether the contextual number is accepted by the class (R24). -/
def Cls.contextual (c : Cls) (seg : Nat) : Bool :=
  match c with
  | .load | .store => true
  | .atomic => seg == 0xFFFFFF || seg == 0xFFFFFE || seg == 0xFFFFFD
  | .fetch | .enqueue | .dequeue | .counterSet | .counterAdd | .skeinCreate | .skeinUse | .skeinFree | .name => false

/-- Whether the descriptor grants what the class needs (R24). -/
def Cls.granted (c : Cls) (d : Desc) : Bool :=
  match c with
  | .load | .dequeue | .skeinUse | .name => d.r
  | .store | .enqueue | .counterSet | .skeinCreate | .skeinFree => d.w
  | .atomic | .counterAdd => d.a
  | .fetch => d.x

/-- The row of a class in R24, from 0. -/
def Cls.row : Cls → Nat
  | .load => 0 | .store => 1 | .atomic => 2 | .fetch => 3 | .enqueue => 4 | .dequeue => 5 | .counterSet => 6
  | .counterAdd => 7 | .skeinCreate => 8 | .skeinUse => 9 | .skeinFree => 10 | .name => 11

/-! ### CheckAccess (R26) -/

/-- The descriptor that an access is checked against: of one that waits for its walks, the one that it was checked against before (R32,
R33). -/
def State.descFor (s : State) (r : Req) (seg : Seg) : Except LFault Desc :=
  match (s.lates.find? (fun q => q.track == r.who / 16384)).bind (fun q => lookupKey seg q.descs) with
  | some d => .ok d
  | none => s.descOf r.core r.ctx seg

/-- The descriptor of an access, the number it is looked up under, and its offset (R8, R20). -/
def State.resolve (s : State) (r : Req) (seg : Seg) (off : Int) : Except LFault (Desc × Seg × Int) :=
  let n := seg.toNat
  if n = 0 then .error (segFault 1)
  else if 0xFFFFF0 ≤ n ∧ n ≤ 0xFFFFF9 then .error (segFault 2)
  else if n = 0xFFFFFA then
    if r.sys then .ok (ctxDesc kIpad 0x10000 false, seg, off) else .error ⟨.priv, 0, 0, 0, 0⟩
  else if n = 0xFFFFFB then .ok (ctxDesc kPart (0x10000 * (s.panel r.panel).launch.partt) false, seg, off)
  else if n = 0xFFFFFC then .ok (ctxDesc kAcc (0x8000 * (s.panel r.panel).launch.acct) false, seg, off)
  else if n = 0xFFFFFD then .ok (ctxDesc kPad (0x4000 * (s.panel r.panel).launch.padu) true, seg, off)
  else if 0xFFFFFE ≤ n then
    match s.descFor r r.sseg with
    | .ok d => .ok (d, r.sseg, if n = 0xFFFFFF then (r.fb : Int) + off else off)
    | .error f => .error f
  else match s.descFor r seg with
    | .ok d => if d.sysOnly && !r.sys then .error ⟨.priv, 0, 0, 0, 0⟩ else .ok (d, seg, off)
    | .error f => .error f

/-- Whether a watchpoint of the context matches (R475, R476). -/
def State.watched (s : State) (r : Req) (cls : Cls) (seg : Seg) (off size : Nat) : Bool :=
  let bit := match cls with
    | .load => some 4
    | .store => some 5
    | .atomic => some 6
    | .fetch => some 7
    | .enqueue | .dequeue | .counterSet | .counterAdd | .skeinCreate | .skeinUse | .skeinFree | .name => none
  match bit with
  | none => false
  | some b => (s.ctx r.ctx).wps.any (fun e =>
      let x := e.toNat
      bitAt x 0 && bitAt x b && bitsOf x 127 104 == seg.toNat && decide (0 < size) &&
        decide (off ≤ bitsOf x 103 64 + bitsOf x 39 20) && decide (bitsOf x 103 64 < off + size))

/-- The physical tile of a tile name (R324): accumulators 0 to 7, partials 8 to 11. -/
def Panel.accTile (p : Panel) (k : Nat) : Option Nat := nthSet p.amask.toNat 8 k
/-- The physical partial tile of a name. -/
def Panel.partTile (p : Panel) (k : Nat) : Option Nat := (nthSet p.pmask.toNat 4 k).map (· + 8)

/-- The tiles that an access of ACC or PART touches. -/
def State.tilesOf (s : State) (r : Req) (kind off size : Nat) : List Nat :=
  let p := s.panel r.panel
  if size = 0 then []
  else if kind = kAcc then
    (List.range 8).filterMap (fun k => if off / 0x8000 ≤ k ∧ k ≤ (off + size - 1) / 0x8000 then p.accTile k else none)
  else if kind = kPart then
    (List.range 4).filterMap (fun k => if off / 0x10000 ≤ k ∧ k ≤ (off + size - 1) / 0x10000 then p.partTile k else none)
  else []

/-- The tile that raises ACCOWN for a context (R26, R323). -/
def State.foreignTile (s : State) (r : Req) (kind off size : Nat) : Option Nat :=
  (s.tilesOf r kind off size).find? (fun t =>
    let o := ((s.core r.core).tags.getD t TileTag.reset).owner
    o != 0 && o != r.ctx)

/-- The address as issued, for a fault. -/
def LFault.at (f : LFault) (a : DWord) : LFault :=
  if f.addr ≠ 0 then f else if f.code = .page then { pageFault f.reason a with info := f.info } else { f with addr := a }

/-- The contexts that own bytes of a core structure (R454): holders of its register blocks, pad shares, I-pad residencies, and
owners of its tiles; by structure number (R16), offset and size. -/
def State.pieceOwners (s : State) (core t off size : Nat) : List CtxId :=
  let meets (lo len : Nat) : Bool := decide (lo < off + size) && decide (off < lo + len)
  let ps := s.panels.filter (fun p => p.core == core)
  match t with
  | 0 => (ps.filter (fun p => meets (2048 * p.rblk) (2048 * (p.launch.nwefts * (p.launch.bud + 1))))).map Panel.ctx
  | 1 => (ps.filter (fun p => meets (0x4000 * p.padb) (0x4000 * p.launch.padu))).map Panel.ctx
  | 2 => (List.range 8).filterMap (fun k =>
      let o := ((s.core core).tags.getD k TileTag.reset).owner
      if o != 0 && meets (0x8000 * k) 0x8000 then some o else none)
  | 3 => (List.range 4).filterMap (fun k =>
      let o := ((s.core core).tags.getD (k + 8) TileTag.reset).owner
      if o != 0 && meets (0x10000 * k) 0x10000 then some o else none)
  | _ => ((s.core core).resid.filter (fun e => meets e.off e.len)).map (fun e => e.ctx)

/-- Whether a window access of a context of a virtual function reaches bytes of another function (R454). -/
def State.foreignWindow (s : State) (r : Req) (d : Desc) (off size : Nat) : Bool :=
  let f := (s.ctx r.ctx).func
  d.kind == 4 && f != 0 &&
    (s.pieceOwners (coreOf (bitsOf d.kspec 15 14) (bitsOf d.kspec 13 8) (bitsOf d.kspec 7 6)) (bitsOf d.kspec 2 0)
      (d.base + off) size).any (fun c => (s.ctx c).func != f)

/-- R26 up to and including its ACCOWN step: the descriptor, the number it is looked up under, and the offset; where not
`watch`, up to and including its LIMIT step (R28). The place of R454's check is the model's choice (log entry 21). -/
def State.checkTo (s : State) (r : Req) (cls : Cls) (a : DWord) (disp : Int) (size align : Nat) (watch : Bool := true) :
    Except LFault (Desc × Seg × Nat) :=
  let seg := segOf a
  match s.resolve r seg ((offOf a).toNat + disp) with
  | .error f => .error (f.at a)
  | .ok (d, sg, off) =>
    if (0xFFFFFA ≤ seg.toNat && !cls.contextual seg.toNat) || !cls.accepts r.sys d then .error ⟨.rights, 1, a, 0, 0⟩
    else if !cls.granted d then .error ⟨.rights, 2, a, 0, 0⟩
    else if s.foreignWindow r d off.toNat size then .error ⟨.rights, 3, a, 0, 0⟩
    else if off % align != 0 then .error ⟨.align, 0, a, 0, 0⟩
    else if off < 0 ∨ 2 ^ 40 ≤ off then .error ⟨.limit, 2, a, 0, 0⟩
    else if d.top < off + size - 1 then .error ⟨.limit, 1, a, 0, 0⟩
    else if watch && d.kind < kPad && s.watched r cls sg off.toNat size then .error ⟨.watch, 0, a, 0, 0⟩
    else match (if watch then s.foreignTile r d.kind off.toNat size else none) with
      | some t => .error ⟨.accown, 0, a, t + ((s.core r.core).tags.getD t TileTag.reset).owner.toNat * 256,
          BitVec.ofNat 64 r.core⟩
      | none => .ok (d, sg, off.toNat)

/-- The place of one byte of an access, for a descriptor that needs no translation. -/
def State.plainLoc (s : State) (r : Req) (d : Desc) (off : Nat) : Loc :=
  let p := s.panel r.panel
  if d.kind = 2 then .host (s.ctx r.ctx).func (d.base + off)
  else if d.kind = 3 then .remote d.hnode d.base d.pgsz d.okey off
  else if d.kind = 4 then
    let c := coreOf (bitsOf d.kspec 15 14) (bitsOf d.kspec 13 8) (bitsOf d.kspec 7 6)
    let t := bitsOf d.kspec 2 0
    let o := [0, padOff, accOff, partOff, ipadOff].getD t 0
    .chip (coreBlock c + o + d.base + off) (!(c == r.core && t == 1))
  else if d.kind = kPad then .chip (padPa r.core (0x4000 * p.padb + off)) false
  else if d.kind = kAcc then
    .chip (coreBlock r.core + accOff + 0x8000 * ((p.accTile (off / 0x8000)).getD 0) + off % 0x8000) false
  else if d.kind = kPart then
    .chip (coreBlock r.core + partOff + 0x10000 * ((p.partTile (off / 0x10000)).getD 8 - 8) + off % 0x10000) false
  else .chip (coreBlock r.core + ipadOff + off) false

/-- The page size code that marks a page request as an ATS request (R467). -/
def atsSize : Nat := 9

/-- The place of a byte of host memory (R83, R467): the die's translation cache maps its bus address. -/
def State.hostLoc (s : State) (r : Req) (a : DWord) (fn addr : Nat) : Chk Loc :=
  match (s.die r.die).ats.find? (fun e => e.1 == fn && e.2.1 == addr / 4096) with
  | some (_, _, some pg) => .ok (.host fn (pg * 4096 + addr % 4096))
  | some (_, _, none) => .fault (pageFault 7 a)
  | none => .miss [(r.ctx, segOf a, addr / 4096, atsSize, fn)]

/-- The place of one byte of an access (R67, R82, R83, R104). -/
def State.locOf (s : State) (r : Req) (cls : Cls) (d : Desc) (seg : Seg) (off : Nat) : Chk Loc :=
  if pagedKind d.kind then
    (s.leafOf r seg d off).bind fun leaf =>
      match s.leafLoc cls d off leaf with
      | .ok l => .ok l
      | .error reason => .fault (pageFault reason (mkAddr seg (BitVec.ofNat 40 off))
        (mkAddr seg (BitVec.ofNat 40 (off / pageSize d.pgsz * pageSize d.pgsz))))
  else match s.plainLoc r d off with
    | .host fn addr => s.hostLoc r (mkAddr seg (BitVec.ofNat 40 off)) fn addr
    | .hbm pa k c => .ok (.hbm pa k c)
    | .chip pa w => .ok (.chip pa w)
    | .zero => .ok .zero
    | .remote n r p k o => .ok (.remote n r p k o)

/-- The places of bytes, or the missing pages, or the first fault in ascending offsets. -/
def State.locsFrom (s : State) (r : Req) (cls : Cls) (d : Desc) (seg : Seg) : Nat → Nat → Chk (List Loc)
  | _, 0 => .ok []
  | off, n + 1 =>
    match s.locOf r cls d seg off, s.locsFrom r cls d seg (off + 1) n with
    | .ok l, .ok ls => .ok (l :: ls)
    | .fault f, .fault g => .fault (f.also g)
    | .fault f, .miss q => if f.code = .page then .miss q else .fault f
    | .fault f, .ok _ => .fault f
    | .miss p, .miss q => .miss (p ++ q.filter (fun x => !p.contains x))
    | .miss p, .ok _ => .miss p
    | .miss p, .fault _ => .miss p
    | .ok _, .fault f => .fault f
    | .ok _, .miss p => .miss p

/-- CheckAccess of R26 to its end, but for the OVERLAY step of the Fetch class: the places of the bytes. -/
def State.check (s : State) (r : Req) (cls : Cls) (a : DWord) (disp : Int) (size align : Nat) (watch : Bool := true) :
    Chk (Desc × Seg × Nat × List Loc) :=
  match s.checkTo r cls a disp size align watch with
  | .error f => .fault (f.ofCls cls)
  | .ok (d, seg, off) =>
    match s.locsFrom r cls d seg off size with
    | .ok ls => .ok (d, seg, off, ls)
    | .fault f => .fault ((f.at a).ofCls cls)
    | .miss p => .miss p

/-- The I-pad residency of a code segment for a context (R91). -/
def CoreSt.residOf (c : CoreSt) (x : CtxId) (seg : Seg) : Option Resid := c.resid.find? (fun e => e.ctx == x && e.seg == seg)

/-- CheckAccess in the Fetch class for a target, with its OVERLAY step (R26, R30). -/
def State.checkFetch (s : State) (r : Req) (t : DWord) : Chk Unit :=
  (s.check r .fetch t 0 8 8).bind fun _ =>
    if ((s.core r.core).residOf r.ctx (segOf t)).isSome then .ok () else .fault ⟨.overlay, 0, t, 0, 0⟩

/-- Eight bytes of a resident code segment as a word (R103); 0 where it is not resident. -/
def State.fetchWord (s : State) (core : Nat) (c : CtxId) (seg : Seg) (off : Nat) : DWord :=
  match (s.core core).residOf c seg with
  | some e => BitVec.ofNat 64 (leNat ((List.range 8).map (fun i =>
      sget 0 s.mem.bytes (coreBlock core + ipadOff + e.off + off + i))))
  | none => 0

/-! ### Walks (R71 to R74) -/

/-- A translation of a host page is requested over ATS, each page once (R467). -/
def State.askAts (s : State) (die fn page : Nat) : State :=
  if s.atsWait.any (fun e => e.2.1 == die && e.2.2.1 == fn && e.2.2.2 == page) then s
  else { s with
    atsWait := s.atsWait ++ [(s.nextId, die, fn, page)]
    hostOut := s.hostOut ++ [.atsRequest s.nextId fn page]
    nextId := s.nextId + 1 }

/-- A page joins the walk of it in flight, or is queued (R72); a host page is asked for over ATS. -/
def State.queueWalk (x : State) (who die : Nat) (p : PageReq) : State :=
  let (c, seg, pg, sz, base) := p
  let mine (w : Walk) : Bool := w.isFor c seg pg sz base && w.die == die && w.result.isNone
  if sz = atsSize then x.askAts die base pg
  else if x.walks.any mine then
    { x with walks := x.walks.map (fun w => if mine w && !w.reqs.contains who then { w with reqs := w.reqs ++ [who] } else w) }
  else { x with walks := x.walks ++ [⟨x.nextId, die, [who], c, seg, pg, sz, base, false, none⟩], nextId := x.nextId + 1 }

/-- A requester's missing pages join the queued walks, each page once (R72). -/
def State.queueWalks (s : State) (who die : Nat) (ps : List PageReq) : State := ps.foldl (fun x p => x.queueWalk who die p) s

/-- The distinct pages in a core's miss queue (R74). -/
def State.missQueue (s : State) (core : Nat) : List Walk :=
  s.walks.filter (fun w => w.result.isNone && w.reqs.any (fun k => whoOf k == core))

/-- Whether the miss queue of a core admits an instruction's missing pages (R74). -/
def State.missFits (s : State) (core : Nat) (ps : List PageReq) : Bool :=
  let q := s.missQueue core
  let new := ps.filter (fun p => decide (p.2.2.2.1 ≠ atsSize) && !q.any (fun w => w.isFor p.1 p.2.1 p.2.2.1 p.2.2.2.1 p.2.2.2.2))
  new.isEmpty || q.isEmpty && (s.core core).missRest.isEmpty ||
    (s.core core).missRest.isEmpty && decide (q.length + new.length ≤ Config.missPages)

/-- Pages waiting at a core enter its miss queue while there is room (R74). -/
def State.enterMisses (s : State) (core : Nat) : Nat → State
  | 0 => s
  | n + 1 =>
    match (s.core core).missRest with
    | [] => s
    | (who, p) :: r =>
      if Config.missPages ≤ (s.missQueue core).length then s
      else ((s.modCore core (fun c => { c with missRest := r })).queueWalk who (coreDie core) p).enterMisses core n

/-- The missing pages of an admitted instruction: those that find room enter the miss queue, the others follow (R74). -/
def State.admitMisses (s : State) (who core : Nat) (ps : List PageReq) : State :=
  (s.modCore core (fun c => { c with missRest := c.missRest ++ ps.map (fun p => (who, p)) })).enterMisses core
    ((s.core core).missRest.length + ps.length)

/-- The pages that a requester of a core misses, but for those that it waits for already, are admitted together, or not at all (R74). -/
def State.askPages (s : State) (who core : Nat) (ps : List PageReq) : State :=
  let new := ps.filter (fun p => !s.walks.any (fun w => w.isFor p.1 p.2.1 p.2.2.1 p.2.2.2.1 p.2.2.2.2 && w.result.isNone &&
    w.reqs.contains who) && !(s.core core).missRest.any (fun q => q.1 == who && q.2 == p))
  if s.missFits core new then s.admitMisses who core new else s

/-- A requester of a die has taken the refusals of host translations. -/
def State.takeAts (s : State) (die : Nat) : State :=
  if (s.die die).ats.any (fun e => e.2.2.isNone) then
    s.modDie die (fun d => { d with ats := d.ats.filter (fun e => e.2.2.isSome) })
  else s

/-- A requester has taken the results of the walks that it waited for. -/
def State.takeWalks (s0 : State) (who : Nat) : State :=
  let s := s0.takeAts (whoDie who)
  if s.walks.any (fun w => w.result.isSome && w.reqs.contains who) then
    { s with walks := (s.walks.map (fun w =>
        if w.result.isSome then { w with reqs := w.reqs.filter (· != who) } else w)).filter (fun w => !w.reqs.isEmpty) }
  else s

/-- A requester of a core waits for no walk any longer. -/
def State.quitWalks (s : State) (core who : Nat) : State :=
  let s1 := s.modCore core (fun c => { c with missRest := c.missRest.filter (fun q => q.1 != who) })
  if s.walks.any (fun w => w.reqs.contains who) then
    { s1 with walks := (s.walks.map (fun w => { w with reqs := w.reqs.filter (· != who) })).filter (fun w => !w.reqs.isEmpty) }
  else s1

/-! ### Accesses of the device to its own tables: translated at once, never cached -/

/-- The bytes of a segment that the device reads or writes on its own account (R25, R37, R376): the descriptor, LIMIT,
translation and key steps. -/
def State.deviceLocs (s : State) (c : CtxId) (cls : Cls) (seg : Seg) (off size : Nat) : Except LFault (Desc × List Loc) :=
  if seg = 0 then .error (segFault 1)
  else match s.readDesc c seg with
    | .error f => .error f
    | .ok d =>
      if d.limit < off + size - 1 ∨ 2 ^ 40 ≤ off then .error ⟨.limit, 1, mkAddr seg (BitVec.ofNat 40 off), 0, 0⟩
      else if !pagedKind d.kind then .error ⟨.rights, 1, mkAddr seg (BitVec.ofNat 40 off), 0, 0⟩
      else
        let z := pageSize d.pgsz
        let one (k : Nat) : Except LFault Nat :=
          let a := max off (z * (off / z + k))
          match s.walkPage (s.tkey c) d.base a d.pgsz with
          | .error r => .error (pageFault r (mkAddr seg (BitVec.ofNat 40 a)))
          | .ok e => match s.leafLoc cls d a e.2 with
            | .error r => .error (pageFault r (mkAddr seg (BitVec.ofNat 40 a)))
            | .ok _ => .ok e.2
        match (List.range (if size = 0 then 0 else (off + size - 1) / z - off / z + 1)).mapM one with
        | .error f => .error f
        | .ok leaves => .ok (d, (List.range size).map (fun i =>
          match s.leafLoc cls d (off + i) (leaves.getD ((off + i) / z - off / z) 0) with
          | .ok l => l
          | .error _ => .zero))

/-- The bytes at places as one little-endian number. -/
def State.leAt (s : State) (ls : List Loc) : Nat := leNat (ls.map s.byteAt)

/-- A little-endian number of a segment, read by the device. -/
def State.deviceRead (s : State) (c : CtxId) (seg : Seg) (off size : Nat) : Except LFault Nat :=
  match s.deviceLocs c .load seg off size with
  | .ok (_, ls) => .ok (s.leAt ls)
  | .error f => .error f

/-- A little-endian number written by the device; unchanged where the bytes cannot be reached. -/
def State.deviceWrite (s : State) (c : CtxId) (seg : Seg) (off size x : Nat) : State :=
  match s.deviceLocs c .store seg off size with
  | .ok (_, ls) => s.write (wrs ls (natLE size x))
  | .error _ => s

end Sys2Proof.Machine
end

