-- ==== Sys2Proof/Machine/Entry.lean ====
section
/-! DEFINITION. Link slots, binding entries, waiter nodes and HOLD (R35 to R57), and futures (R349 to R351): each operation on
an entry is one indivisible step of the entry order (R39). -/
namespace Sys2Proof.Machine

/-! ### Futures (R349 to R351) -/

/-- The index of a future of a die among all dies' tables. -/
def futKey (die i : Nat) : Nat := die * Config.futuresPerDie + i
/-- A future table entry. -/
def State.fut (s : State) (die i : Nat) : Fut := sget Fut.free s.futs (futKey die i)
/-- The future that a reference names (R350). -/
def State.futOf (s : State) (r : FutRef) : Option Fut :=
  let f := s.fut r.die r.index
  if f.used && f.gen == r.gen && f.ctx == r.ctx then some f else none
/-- A future changed. -/
def State.modFut (s : State) (r : FutRef) (g : Fut → Fut) : State :=
  { s with futs := sput Fut.free s.futs (futKey r.die r.index) (g (s.fut r.die r.index)) }
/-- The lowest free entry of a die's table below a bound. -/
def State.freeFut (s : State) (die : Nat) : Nat → Nat → Option Nat
  | _, 0 => none
  | i, n + 1 => if (s.fut die i).used then s.freeFut die (i + 1) n else some i
/-- A new future of a die; none while the table is full (R349). -/
def State.newFut (s : State) (die : Nat) (c : CtxId) (k : FutKind) (parts : Nat) : Option (State × FutRef) :=
  (s.freeFut die 0 Config.futuresPerDie).map fun i =>
    let f := s.fut die i
    ({ s with futs := sput Fut.free s.futs (futKey die i) ⟨c, k, f.gen, none, parts, 0, 0, true, []⟩ }, ⟨c, die, i, f.gen⟩)
/-- Whether a handle's future is PENDING. -/
def State.pending (s : State) (h : Option FutRef) : Bool :=
  match h.bind s.futOf with
  | some f => f.value.isNone
  | none => false
/-- Whether some handle of a resident or saved weft, or a handler handle, names a future. -/
def State.named (s : State) (r : FutRef) : Bool :=
  let inW (w : Weft) : Bool := w.handles.contains (some r) || w.lanes.any (fun l => l.hh == some r)
  s.wefts.any inW || s.saved.any (fun v => v.wefts.any inW)
/-- Free the futures that are complete and that no handle names; GEN advances (R349, R350). -/
def State.sweepFut (s : State) (r : FutRef) : State :=
  match s.futOf r with
  | some f => if f.value.isSome && !s.named r then
      { s with futs := sput Fut.free s.futs (futKey r.die r.index) { Fut.free with gen := (f.gen + 1) % 2 ^ 32 } }
    else s
  | none => s
/-- A future completes with a value (R351). -/
def State.completeFut (s : State) (r : FutRef) (v : DWord) : State :=
  match s.futOf r with
  | some f =>
    if f.value.isNone then
      (f.waiters.foldl (fun y w => y.partDone w.1 w.2) (s.modFut r (fun x => { x with value := some v, waiters := [] }))).sweepFut r
    else s
  | none => s
/-- The value of a future of copies or posts: status, first fault code, bytes (R351). -/
def copyValue (status fault bytes : Nat) : DWord := BitVec.ofNat 64 (status + fault * 256 + (bytes % 2 ^ 40) * 2 ^ 24)
/-- One command of a future ends: its bytes, its fault code, whether it was cancelled (R351). -/
def State.endPart (s : State) (r : FutRef) (bytes fault : Nat) (cancelled : Bool) : State :=
  match s.futOf r with
  | none => s
  | some f =>
    let f' := { f with left := f.left - 1, bytes := f.bytes + bytes, fault := if f.fault = 0 then fault else f.fault }
    let s1 := s.modFut r (fun _ => f')
    if f.left ≤ 1 && f.value.isNone then
      s1.completeFut r (copyValue (if cancelled then 3 else if f'.fault ≠ 0 then 4 else 0) f'.fault f'.bytes)
    else s1
/-- A reference as the word of R350. -/
def FutRef.word (r : FutRef) : DWord :=
  BitVec.ofNat 64 (r.ctx.toNat * 2 ^ 48 + r.die * 2 ^ 46 + r.index * 2 ^ 32 + r.gen)
/-- The reference that a word holds (R350). -/
def FutRef.ofWord (x : DWord) : FutRef :=
  ⟨BitVec.ofNat 16 (bitsOf x.toNat 63 48), bitsOf x.toNat 47 46, bitsOf x.toNat 45 32, bitsOf x.toNat 31 0⟩

/-- Handle `n` as a lane names it: a handler lane's handle 15 is its own (R387). -/
def Weft.handle (w : Weft) (sys : Bool) (lane n : Nat) : Option FutRef :=
  if sys && n == 15 then (w.lane lane).hh else (w.handles.getD n none)
/-- A handle written. -/
def Weft.setHandle (w : Weft) (sys : Bool) (lane n : Nat) (h : Option FutRef) : Weft :=
  if sys && n == 15 then w.modLane lane (fun l => { l with hh := h }) else { w with handles := w.handles.set n h }
/-- A handle written, its old future freed where nothing else names it (R349). -/
def State.setHandle (s : State) (wid : Nat) (sys : Bool) (lane n : Nat) (h : Option FutRef) : State :=
  let old := (s.weft wid).handle sys lane n
  let s1 := s.modWeft wid (fun w => w.setHandle sys lane n h)
  match old with
  | some r => s1.sweepFut r
  | none => s1

/-! ### The binding table (R36, R37) -/

/-- A binding entry (R38). -/
structure BEntry where
  state  : Nat
  rights : Nat
  reason : Nat
  seg    : Nat
  cseq   : Nat
  hold   : Nat
  wnode  : Option Nat
  deriving DecidableEq, Repr

/-- The low word of an entry (R38). -/
def BEntry.lo (e : BEntry) : Nat := e.state * 2 ^ 61 + e.rights * 2 ^ 57 + e.reason * 2 ^ 48 + e.seg * 2 ^ 24 + e.cseq * 2 ^ 8
/-- The high word of an entry (R38). -/
def BEntry.hi (e : BEntry) : Nat :=
  e.hold * 2 ^ 48 + (match e.wnode with | some n => 2 ^ 47 + n * 2 ^ 31 | none => 0)
/-- The entry in two words; none when malformed (R40). -/
def BEntry.parse (lo hi : Nat) : Option BEntry :=
  if 4 < bitsOf lo 63 61 || bitAt lo 56 || bitsOf lo 7 0 != 0 || bitsOf hi 30 0 != 0 then none
  else some ⟨bitsOf lo 63 61, bitsOf lo 60 57, bitsOf lo 55 48, bitsOf lo 47 24, bitsOf lo 23 8, bitsOf hi 63 48,
    if bitAt hi 47 then some (bitsOf hi 46 31) else none⟩

/-- LINK with a reason (R54). -/
def linkFault (reason : Nat) (a : DWord := 0) : LFault := ⟨.link, reason, a, 0, 0⟩

/-- A failed read of the table by a use: PAGE as it is, everything else LINK, SLOT (R37). -/
def tableFault (f : LFault) : LFault := if f.code = .page then f else linkFault 6

/-- A number of the binding table: its descriptor first, then LIMIT, translation and key (R37). -/
def State.btRead (s : State) (c : CtxId) (off size : Nat) : Except LFault Nat :=
  let seg := (s.ctx c).btseg
  match s.readDesc c seg with
  | .error f => .error (tableFault f)
  | .ok d =>
    if d.kind ≠ 10 then .error (linkFault 6)
    else match s.deviceLocs c .load seg off size with
      | .error f => .error (tableFault f)
      | .ok (_, ls) => .ok (s.leAt ls)

/-- The table's header fields EBASE, NBASE, ECOUNT, MCOUNT (R36). -/
def State.btHeader (s : State) (c : CtxId) : Except LFault (Nat × Nat × Nat × Nat) :=
  match s.btRead c 0 64 with
  | .error f => .error f
  | .ok h =>
    if bitsOf h 63 56 != 1 || bitsOf h 55 17 != 0 || bitsOf h 127 96 != 0 || bitsOf h 191 168 != 0 || bitsOf h 511 232 != 0
    then .error (linkFault 6)
    else .ok (bitsOf h 167 128, bitsOf h 231 192, bitsOf h 95 64, bitsOf h 16 0)

/-- The entry that a link slot of a module selects, and EBASE and NBASE (R37). -/
def State.slotToEntry (s : State) (c : CtxId) (m slot : Nat) : Except LFault (Nat × Nat × Nat) :=
  match s.btHeader c with
  | .error f => .error f
  | .ok (eb, nb, ec, mc) =>
    if mc ≤ m then .error (linkFault 6)
    else match s.btRead c (0x40 + 8 * m) 8 with
      | .error f => .error f
      | .ok x =>
        if bitsOf x 31 17 != 0 || bitsOf x 16 0 ≤ slot || ec ≤ bitsOf x 63 32 + slot then .error (linkFault 6)
        else .ok (bitsOf x 63 32 + slot, eb, nb)

/-- A binding entry by index: its words (R38). -/
def State.entryWords (s : State) (c : CtxId) (eb e : Nat) : Except LFault (Nat × Nat) :=
  match s.btRead c (eb + 16 * e) 16 with
  | .error f => .error f
  | .ok x => .ok (bitsOf x 63 0, bitsOf x 127 64)

/-- A well-formed binding entry (R40). -/
def State.entryAt (s : State) (c : CtxId) (eb e : Nat) : Except LFault BEntry :=
  match s.entryWords c eb e with
  | .error f => .error f
  | .ok (lo, hi) => match BEntry.parse lo hi with
    | some x => .ok x
    | none => .error (linkFault 7)

/-- An entry written. -/
def State.putEntry (s : State) (c : CtxId) (eb e : Nat) (x : BEntry) : State :=
  s.deviceWrite c (s.ctx c).btseg (eb + 16 * e) 16 (x.lo + x.hi * 2 ^ 64)

/-- Where the entries start; 0 where the table cannot be read. -/
def State.ebase (s : State) (c : CtxId) : Nat :=
  match s.btHeader c with
  | .ok (eb, _, _, _) => eb
  | .error _ => 0

/-- The module of a code segment (R16, R35); 0 where its descriptor cannot be read (the model's choice, log entry 25). -/
def State.moduleOf (s : State) (core : Nat) (c : CtxId) (seg : Seg) : Nat :=
  match s.descOf core c seg with
  | .ok d => bitsOf d.kspec 15 0
  | .error _ => 0

/-! ### Waiter nodes (R42 to R44) -/

/-- The name of a waiter node (R42). -/
def nodeId (core wslot k : Nat) : Nat := coreDie core * 2 ^ 14 + coreQuad core * 2 ^ 8 + coreIdx core * 2 ^ 6 + wslot * 4 + k

/-- Lanes of a weft parked. -/
def Weft.park (w : Weft) (lanes : List Nat) (p : Park) : Weft :=
  lanes.foldl (fun x i => x.modLane i (fun l => { l with st := .parked p })) w
/-- What a lane still waits for outside its handler, of what satisfies no test (R330). -/
def Lane.still (l : Lane) (f : Park → Bool) : Option Park := l.back.filter (fun p => !f p)
/-- A lane whose parking satisfies a test goes on: it becomes active, or, outside a handler, waits for what it waited for when it took a
fault (R330). -/
def Lane.unpark (l : Lane) (f : Park → Bool) : Lane :=
  match l.st with
  | .parked p =>
    if !f p then { l with back := l.still f }
    else if l.sys then { l with st := .active, back := l.still f }
    else { l with st := ((l.still f).map LaneSt.parked).getD .active, back := none }
  | .active | .exited | .stopped _ => { l with back := l.still f }
/-- The lanes of a weft whose parking satisfies a test go on. -/
def Weft.unpark (w : Weft) (f : Park → Bool) : Weft := { w with lanes := w.lanes.map (fun l => l.unpark f) }
/-- Lanes that wait for a free waiter node. -/
def Park.isNode : Park → Bool
  | .node => true
  | .hold | .held | .nwait | .step _ | .spill | .walk _ | .fault _ | .bind _ | .push _ _ | .rejoin _ | .heldWait _ | .barrier _ _ _ => false
/-- Lanes that wait for HOLD or GIP to fall. -/
def Park.isHold : Park → Bool
  | .hold => true
  | .node | .held | .nwait | .step _ | .spill | .walk _ | .fault _ | .bind _ | .push _ _ | .rejoin _ | .heldWait _ | .barrier _ _ _ => false

/-- The node of a weft that a park on an entry uses (R42). -/
def Weft.nodeFor (w : Weft) (e : Nat) : Option Nat :=
  match w.nodes.findIdx? (fun n => match n with | some x => x.entry == e | none => false) with
  | some k => some k
  | none => w.nodes.findIdx? (fun n => n.isNone)

/-- Lanes park on an entry (R42); where the weft has no node for it and none free, they stay at their word. -/
def State.parkOn (s : State) (wid : Nat) (lanes : List Nat) (c : CtxId) (eb e : Nat) (x : BEntry) : State :=
  if lanes.isEmpty then s
  else
    let w := s.weft wid
    match w.nodeFor e with
    | none => s.modWeft wid (fun w => w.park lanes .node)
    | some k =>
      match w.nodes.getD k none with
      | some n =>
        s.modWeft wid (fun w =>
          { w.park lanes (.bind k) with nodes := w.nodes.set k (some { n with lanes := n.lanes ||| maskOf lanes }) })
      | none =>
        let s1 := s.modWeft wid (fun w =>
          { w.park lanes (.bind k) with nodes := w.nodes.set k (some ⟨e, maskOf lanes, x.wnode⟩) })
        s1.putEntry c eb e { x with wnode := some (nodeId w.core w.slotNo k) }

/-- Free the nodes of a weft that name an entry, and release their lanes (R43). -/
def Weft.releaseNodes (w : Weft) (e : Nat) : Weft :=
  let ks := (List.range 4).filter (fun k => match w.nodes.getD k none with | some n => n.entry == e | none => false)
  if ks.isEmpty then w
  else ({ w with nodes := ks.foldl (fun ns k => ns.set k none) w.nodes }.unpark (fun p => match p with
    | .bind k => ks.contains k
    | .node => true
    | .hold | .held | .nwait | .step _ | .spill | .walk _ | .fault _ | .push _ _ | .rejoin _ | .heldWait _ | .barrier _ _ _ => false))

/-- Release the waiters of an entry: one step empties its list (R43). -/
def State.releaseWaiters (s : State) (c : CtxId) (e : Nat) : State :=
  { s with wefts := s.wefts.map (fun w => if (s.panel w.panel).ctx = c then w.releaseNodes e else w) }

/-- Lanes that wait for a HOLD or a GIP to fall try their word again. -/
def State.releaseHold (s : State) : State := { s with wefts := s.wefts.map (fun w => w.unpark Park.isHold) }

/-! ### Transitions (R53) -/

/-- The value of a BIND or UNBIND future (R56). -/
def bindValue (status cseq : Nat) : DWord := BitVec.ofNat 64 (status + (cseq % 65536) * 65536)

/-- The pending UNBIND futures of an entry. -/
def State.unbindFuts (s : State) (c : CtxId) (e : Nat) : List FutRef :=
  s.futs.filterMap (fun kf =>
    if kf.2.used && kf.2.ctx == c && kf.2.value.isNone && kf.2.kind == .unbind e
    then some ⟨c, kf.1 / Config.futuresPerDie, kf.1 % Config.futuresPerDie, kf.2.gen⟩ else none)

/-- The outcome that a BIND's operand names: state 2 with rights and segment, or 4 with a reason (R53, R54, R314). -/
def bindOutcome (b : Nat) : Nat × Nat × Nat × Nat :=
  let st := bitsOf b 63 61
  let seg := bitsOf b 47 24
  let r := bitsOf b 55 48
  if (st != 2 && st != 4) || bitAt b 56 || bitsOf b 7 0 != 0 then (4, 0, 0, 5)
  else if st = 2 then (if 0 < seg ∧ seg < 0xFFFFF0 then (2, bitsOf b 60 57, seg, 0) else (4, 0, 0, 8))
  else (4, 0, 0, if (1 ≤ r && r ≤ 8) || 0x80 ≤ r then r else 5)

/-- One BIND of an entry (R53): the new state and the value of its future; CONFLICT with CSEQ 0 for an entry that cannot be read (the
model's choice, log entry 26). -/
def State.bindEntry (s : State) (c : CtxId) (eb e : Nat) (b : Nat) : State × DWord :=
  match s.entryWords c eb e with
  | .error _ => (s, bindValue 2 0)
  | .ok (lo, hi) =>
    match BEntry.parse lo hi with
    | none => (s, bindValue 2 (bitsOf lo 23 8))
    | some x =>
      if (x.state = 0 ∨ x.state = 1) ∧ x.cseq = bitsOf b 23 8 then
        let (st, rights, seg, reason) := bindOutcome b
        let q := (x.cseq + 1) % 65536
        let y : BEntry := ⟨st, rights, reason, seg, q, x.hold, none⟩
        ((s.putEntry c eb e y).releaseWaiters c e, bindValue 0 q)
      else (s, bindValue 2 x.cseq)

/-- The BIND of the die controller: FAILED, reason HANDLER (R52); nothing where the table's header cannot be read. -/
def State.bindFailed (s : State) (c : CtxId) (e cseq : Nat) : State :=
  match s.btHeader c with
  | .ok (eb, _, _, _) => (s.bindEntry c eb e (4 * 2 ^ 61 + 5 * 2 ^ 48 + cseq * 2 ^ 8)).1
  | .error _ => s.report "binding error" c [e]

/-- The PAGE that a step on some entries meets first, in their table's header or at an entry (R37). -/
def State.entryPage (s : State) (c : CtxId) (es : List Nat) : Option LFault :=
  if es.isEmpty then none
  else match s.btHeader c with
    | .error f => if f.code = .page then some f else none
    | .ok (eb, _, _, _) => es.findSome? (fun e => match s.entryAt c eb e with
        | .error f => if f.code = .page then some f else none
        | .ok _ => none)

/-- An entry that has lost its last hold while REVOKING becomes UNBOUND; every pending UNBIND completes (R53). -/
def State.unboundNow (s : State) (c : CtxId) (eb e : Nat) (x : BEntry) : State :=
  let q := (x.cseq + 1) % 65536
  let s1 := (s.putEntry c eb e { x with state := 0, rights := 0, seg := 0, cseq := q, wnode := none }).releaseWaiters c e
  (s.unbindFuts c e).foldl (fun y r => y.completeFut r (bindValue 0 q)) s1

/-- One hold less (R46 to R48); an entry that cannot be read, or whose HOLD is 0, is reported (the model's
choice, log entry 27). -/
def State.holdDown (s : State) (c : CtxId) (e : Nat) : State :=
  match s.btHeader c with
  | .error _ => s.report "binding error" c [e]
  | .ok (eb, _, _, _) => match s.entryAt c eb e with
    | .error _ => s.report "binding error" c [e]
    | .ok x =>
      if x.hold = 0 then s.report "binding error" c [e]
      else
        let x1 := { x with hold := x.hold - 1 }
        (if x1.hold = 0 ∧ x.state = 3 then s.unboundNow c eb e x1 else s.putEntry c eb e x1).releaseHold

/-- Holds more (R45, R47): none where an entry would pass 0xFFFF; an entry that cannot be read keeps its hold (the model's
choice, log entry 28). -/
def State.holdUp (s : State) (c : CtxId) (e n : Nat) : Option State :=
  match s.btHeader c with
  | .error _ => some s
  | .ok (eb, _, _, _) => match s.entryAt c eb e with
    | .error _ => some s
    | .ok x => if x.hold + n ≤ 0xFFFF then some (s.putEntry c eb e { x with hold := x.hold + n }) else none

/-- One UNBIND of an entry for a future (R53): complete with a value, or pending; an entry that cannot be read as in `bindEntry`. -/
def State.unbindEntry (s : State) (c : CtxId) (eb e : Nat) : State × Option DWord :=
  match s.entryWords c eb e with
  | .error _ => (s, some (bindValue 2 0))
  | .ok (lo, hi) =>
    match BEntry.parse lo hi with
    | none => (s, some (bindValue 2 (bitsOf lo 23 8)))
    | some x =>
      let q := (x.cseq + 1) % 65536
      if x.state = 0 then (s, some (bindValue 0 x.cseq))
      else if x.state = 1 then (s, some (bindValue 1 x.cseq))
      else if x.state = 2 then
        if x.hold = 0 then (s.putEntry c eb e { x with state := 0, rights := 0, seg := 0, cseq := q }, some (bindValue 0 q))
        else (s.putEntry c eb e { x with state := 3 }, none)
      else if x.state = 3 then (s, none)
      else (s.putEntry c eb e { x with state := 0, reason := 0, cseq := q }, some (bindValue 0 q))

/-- A cancel of a pending UNBIND future (R53); CANCELLED with CSEQ 0 where the entry cannot be read (the model's choice, log entry 26). -/
def State.cancelUnbind (s : State) (r : FutRef) (e : Nat) : State :=
  match s.btHeader r.ctx with
  | .error _ => s.completeFut r (bindValue 3 0)
  | .ok (eb, _, _, _) => match s.entryAt r.ctx eb e with
    | .error _ => s.completeFut r (bindValue 3 0)
    | .ok x =>
      if x.state = 3 ∧ s.unbindFuts r.ctx e = [r] then
        let q := (x.cseq + 1) % 65536
        ((s.putEntry r.ctx eb e { x with state := 2, cseq := q, wnode := none }).releaseWaiters r.ctx e).completeFut r
          (bindValue 3 q)
      else s.completeFut r (bindValue 3 x.cseq)

end Sys2Proof.Machine
end

