-- ==== Sys2Proof/Machine/SaveBlock.lean ====
section
/-! DEFINITION. The save segment (R411 to R415): the images and records of a panel's save block, its bitmap, and the writes of a
block by the device. -/
namespace Sys2Proof.Machine

/-! ### Save blocks (R411, R412) -/

/-- The offset of a save block in the save segment (R412). -/
def blockBase (k : Nat) : Nat := 0x200000 * (k + 1)

/-- Whether a save block holds a panel; taken as one that does where the bitmap cannot be read (R411). -/
def State.blockUsed (s : State) (c : CtxId) (k : Nat) : Bool :=
  match s.deviceRead c (s.ctx c).saveSeg (0x100 + k / 8) 1 with
  | .ok b => bitAt b (k % 8)
  | .error _ => true
/-- The lowest free save block of a context (R418). -/
def State.freeBlock (s : State) (c : CtxId) : Option Nat := (List.range (s.ctx c).sbcnt).find? (fun k => !s.blockUsed c k)
/-- A save block's bit of the bitmap written (R411). -/
def State.markBlock (s : State) (c : CtxId) (k : Nat) (used : Bool) : State :=
  match s.deviceRead c (s.ctx c).saveSeg (0x100 + k / 8) 1 with
  | .ok b => s.deviceWrite c (s.ctx c).saveSeg (0x100 + k / 8) 1
      (b - (if bitAt b (k % 8) then 2 ^ (k % 8) else 0) + (if used then 2 ^ (k % 8) else 0))
  | .error _ => s

/-! ### Images and records (R412, R413) -/

/-- A block of 16 registers of a weft, laid out as in R99. -/
def Weft.regImage (w : Weft) (b : Nat) : List Byte :=
  (List.range 16).flatMap (fun n => (List.range 32).flatMap (fun i => natLE 4 (sget 0 w.regs (keyV i (16 * b + n))).toNat))

/-- A handle's reference (R350); 0 for an EMPTY one. -/
def handleWord (h : Option FutRef) : Nat :=
  match h with
  | some r => r.word.toNat
  | none => 0

/-- A page entry of the trap locals (R406). -/
def PageEntry.word (e : PageEntry) : Nat := e.addr.toNat / 65536 * 65536 + e.reason * 2 ^ 8 + e.cls.row

/-- A fault-subgroup record (R413). -/
def Sub.image (g : Sub) : List Byte :=
  natLE 4 g.lanes.toNat ++ natLE 1 g.status ++ natLE 1 g.handler ++ natLE 1 g.pages.length ++ natLE 1 0 ++
    (List.range 6).flatMap (fun k => natLE 8 (match g.pages[k]? with
      | some e => e.word
      | none => 0))

/-- A weft record (R413). -/
def Weft.image (w : Weft) : List Byte :=
  (List.range 64).flatMap (fun n => natLE 8 (sget 0 w.regs (keyS n)).toNat) ++
    (List.range 16).flatMap (fun j => natLE 4 (w.masks.getD j (0, 0)).1.toNat ++ natLE 4 (w.masks.getD j (0, 0)).2.toNat) ++
    (List.range 16).flatMap (fun h => natLE 8 (handleWord (w.handles.getD h none))) ++
    (List.range 32).flatMap (fun n => natLE 1 (if n < 12 then w.flag (n + 1) else 0)) ++
    (List.range 4).flatMap (fun k => (w.subs.getD k Sub.free).image)

/-- The status of a lane in its record (R413). -/
def LaneSt.code : LaneSt → Nat
  | .active => 0
  | .exited => 1
  | .parked _ => 2
  | .stopped _ => 3

/-- The frame state of a lane (R282). -/
def Lane.frameWord (l : Lane) : Nat := l.sseg.toNat * 2 ^ 104 + l.fb.toNat * 2 ^ 64 + l.sp.toNat * 2 ^ 24 + l.mtop.toNat

/-- Whether a lane has arrived in the current phase of a barrier of its panel. -/
def Panel.arrivedIn (p : Panel) (l : Lane) (i : Nat) : Bool :=
  l.arrived.getD i none == some (p.bars.getD i BarRec.nil).phase

/-- A lane record (R413). -/
def Panel.laneImage (p : Panel) (l : Lane) : List Byte :=
  natLE 8 l.pc.toNat ++ natLE 16 l.frameWord ++ natLE 8 l.rstate.toNat ++ natLE 8 (handleWord l.hh) ++
    natLE 24 (l.st.code + b2n l.sys * 4 + ofBits 9 (fun i => p.arrivedIn l i) * 256)

/-- A barrier record of a panel (R415). -/
def Panel.barImage (p : Panel) (ws : List Weft) (i : Nat) : List Byte :=
  let r := p.bars.getD i BarRec.nil
  let arr := ws.all (fun w => w.lanes.all (fun l => l.st == .exited || p.arrivedIn l i))
  natLE 16 (b2n r.member + b2n arr * 2 + r.phase % 65536 * 2 ^ 64 + r.pend * 2 ^ 80)

/-- A panel's residency record (R376). -/
def Panel.residency (p : Panel) : Nat :=
  let l := p.launch
  p.wmask.toNat * 2 ^ 128 + l.ctx.toNat * 2 ^ 112 + p.index % 2 ^ 32 * 2 ^ 80 + l.gang * 2 ^ 64 + l.prio * 2 ^ 58 + b2n l.replay * 2 ^ 57 +
    l.wefts * 2 ^ 53 + l.bud * 2 ^ 49 + p.rblk * 2 ^ 42 + p.padb * 2 ^ 36 + l.padu * 2 ^ 30 + p.amask.toNat * 2 ^ 22 +
    p.pmask.toNat * 2 ^ 18 + l.bscope * 2 ^ 15 + l.btags.toNat * 2 ^ 7

/-- The panel header of a save block: residency record, saved core, tile locators (R412). -/
def Panel.header (p : Panel) (tiles : List (Nat × Bool)) : List Byte :=
  natLE 20 p.residency ++ natLE 4 p.core ++ tiles.flatMap (fun t => natLE 2 (t.1 % 16 + b2n t.2 * 2 ^ 15))

/-- A copy command's record, or a queue fence entry's (R414): its queue, its position, its handle. -/
def CopyCmd.image (c : CopyCmd) (q pos h : Nat) : List Byte :=
  natLE 32 (match c.fence with
    | some _ => pos * 2 ^ 58 + q * 2 ^ 46 + 2 ^ 34 + 2 ^ 33 + c.len * 2 ^ 29
    | none =>
      c.dst.toNat * 2 ^ 192 + c.src.toNat * 2 ^ 128 + c.len * 2 ^ 96 + c.prog * 2 ^ 64 + pos * 2 ^ 58 + c.lane * 2 ^ 53 + h * 2 ^ 49 +
        q * 2 ^ 46 + c.swz * 2 ^ 44 + b2n c.ds * 2 ^ 43 + (match c.bar with
          | some b => 2 ^ 42 + b.1.code.toNat * 2 ^ 39 + b.2 * 2 ^ 36
          | none => 0) + b2n c.stall.isSome * 2 ^ 35 + 2 ^ 34)

/-- A post's record (R414, R438). -/
def NetPost.image (p : NetPost) (pos h : Nat) : List Byte :=
  natLE 32 (p.addr.toNat * 2 ^ 128 + leNat (p.wr.take 8) / 2 ^ 32 * 2 ^ 96 + p.sent * 2 ^ 64 + pos * 2 ^ 58 + p.lane * 2 ^ 53 + h * 2 ^ 49 +
    4 * 2 ^ 46 + p.swz * 2 ^ 44 + b2n p.ds * 2 ^ 43 + (match p.bar with
      | some b => 2 ^ 42 + b.1.code.toNat * 2 ^ 39 + b.2 * 2 ^ 36
      | none => 0) + b2n p.stall.isSome * 2 ^ 35 + 2 ^ 34)

/-- A matrix word's record (R415): its instruction word, and its position in the matrix order. -/
def MWord.image (m : MWord) (word : DWord) (pweft pos : Nat) : List Byte :=
  natLE 32 (word.toNat * 2 ^ 192 + m.aval.toNat * 2 ^ 128 + m.bval.toNat * 2 ^ 64 + m.step % 65536 * 2 ^ 48 + pweft * 2 ^ 44 + pos % 256 * 2 ^ 36 +
    b2n m.susp * 2 ^ 35 + 2 ^ 34)

/-- The pad share of a panel. -/
def State.padShare (s : State) (p : Panel) : List Byte :=
  (List.range (0x4000 * p.launch.padu)).map (fun i => sget 0 s.mem.bytes (padPa p.core (0x4000 * p.padb + i)))

/-- The poisoned bank words of a panel's pad share, by offset. -/
def State.padPoison (s : State) (p : Panel) : List Nat :=
  s.mem.poison.filterMap (fun a =>
    let base := padPa p.core (0x4000 * p.padb)
    if base ≤ a ∧ a < base + 0x4000 * p.launch.padu then some (a - base) else none)

/-- Register image, pad image, weft records and lane records of a panel, each with its offset in a save block (R412). -/
def State.imageParts (s : State) (p : Panel) (ws : List Weft) : List (Nat × List Byte) :=
  let n := p.launch.bud + 1
  ws.flatMap (fun w => (List.range n).map (fun b => (2048 * (w.pweft * n + b), w.regImage b))) ++
    ws.map (fun w => (0x41000 + 1024 * w.pweft, w.image)) ++
    ws.flatMap (fun w => (w.lanes.zipIdx).map (fun l => (0x45000 + 64 * (32 * w.pweft + l.2), p.laneImage l.1))) ++
    [(0x80000, s.padShare p)]

/-- Parts of a save block written under the context's segment table; the first fault of a write (R418). -/
def State.writeParts (s : State) (c : CtxId) (k : Nat) (ps : List (Nat × List Byte)) : Except LFault State :=
  match ps.mapM (fun q => if q.2.isEmpty then .ok [] else
      match s.deviceLocs c .store (s.ctx c).saveSeg (blockBase k + q.1) q.2.length with
      | .error f => Except.error f
      | .ok r => .ok (wrs r.2 q.2)) with
  | .error f => .error f
  | .ok ws => .ok (ws.foldl (fun y w => if w.isEmpty then y else y.write w) s)

/-- A part of a save block read. -/
def State.readPart (s : State) (c : CtxId) (k off n : Nat) : Except LFault (List Byte) :=
  match s.deviceLocs c .load (s.ctx c).saveSeg (blockBase k + off) n with
  | .error f => .error f
  | .ok r => .ok (r.2.map s.byteAt)

end Sys2Proof.Machine
end

