-- ==== Sys2Proof/Machine/Ops.lean ====
section
/-! DEFINITION. Lanes: the accesses of a lane through its weft's store queue (R132), rejoin masks (R172), frames (R283),
taking a fault or a trap (R385, R403 to R408) and returning from one (R388, R407), stops, exits, and commit points. -/
namespace Sys2Proof.Machine

/-! ### The word being performed -/

/-- What the chosen word reads with: the lanes of its path that are still active at it; of lanes that go on after their walks, what
they read at the word's issue (R74). -/
def icOf (s : State) (sw : SlotWord) : IC :=
  let w := s.weft sw.weft
  let p := s.panel w.panel
  let k := (s.core w.core).picks
  match sw.late with
  | none =>
    let ls := (lanesOf sw.lanes).filter (fun i => (w.lane i).st == .active)
    { w := w, p := p, fresh := s.fresh, slot := sw.slot, picks := k, pc := sw.pc, hdr := sw.hdr, lanes := ls,
      sys := (w.lane (ls.headD 0)).sys, track := s.nextId, pc2 := sw.pc2, lanes2 := sw.lanes2, late := false }
  | some q =>
    let ls := (lanesOf sw.lanes).filter (fun i => (w.lane i).st == .parked (.walk q.track))
    { w := { w with regs := q.regs, poison := q.poison, pend := [] }, p := p, fresh := s.fresh, slot := sw.slot, picks := k, pc := sw.pc,
      hdr := sw.hdr, lanes := ls, sys := (w.lane (ls.headD 0)).sys, track := q.track, pc2 := sw.pc2, lanes2 := sw.lanes2, late := true }

/-- The counted instruction that a lane's walks stand for: the issued word at which it waits, else none (R74). -/
def Lane.walkTrack (l : Lane) : Nat :=
  match l.st with
  | .parked (.walk t) => t
  | .parked (.fault _) | .parked (.bind _) | .parked (.push _ _) | .parked (.rejoin _) | .parked (.heldWait _) | .parked (.barrier _ _ _)
  | .parked .nwait | .parked .held | .parked .node | .parked .hold | .parked (.step _) | .parked .spill => 0
  | .active | .exited | .stopped _ => 0

/-- Whether an entry keeps the place of a lane's access to come (R74, R132). -/
def SqEntry.awaits (e : SqEntry) (lane track : Nat) : Bool := e.op == .await && e.lane == lane && e.track == track

/-- A lane waits no longer for the walks of an issued word: its part of the word's flag, and the place kept in the store queue (R74). -/
def State.leaveWalk (s : State) (wid lane track : Nat) : State :=
  if s.lates.any (fun q => q.weft == wid && q.track == track && q.lanes.getLsbD lane) then
    let s1 := (s.modWeft wid (fun w => { w with sq := w.sq.filter (fun e => !e.awaits lane track) })).partDone wid track
    { s1 with lates := (s1.lates.map (fun q =>
        if q.weft = wid ∧ q.track = track then { q with lanes := q.lanes &&& ~~~(maskOf [lane]) } else q)).filter (fun q => q.lanes != 0) }
  else s

/-- A lane that leaves its word waits for no walk of it. -/
def State.quitLate (s : State) (wid lane : Nat) : State := s.leaveWalk wid lane ((s.weft wid).lane lane).walkTrack

/-- The request of a lane of a weft (R26): its walks stand for the issued word at which it waits, else for its weft. -/
def State.reqOf (s : State) (wid lane : Nat) : Req :=
  let w := s.weft wid
  let l := w.lane lane
  { ctx := (s.panel w.panel).ctx, core := w.core, panel := w.panel, sys := l.sys, sseg := l.sseg, fb := l.fb.toNat,
    who := whoFor w.core (if l.walkTrack = 0 then wid else l.walkTrack) }

/-- The same, translated at once by the device. -/
def State.reqNow (s : State) (wid lane : Nat) : Req := { s.reqOf wid lane with now := true }

/-- The numbers that name the contextual segments FREL, STK and PAD (R20). -/
def segFREL : Seg := 0xFFFFFF
/-- STK. -/
def segSTK : Seg := 0xFFFFFE
/-- PAD. -/
def segPAD : Seg := 0xFFFFFD

/-! ### Events and reports (R408, R468) -/

/-- The ring size of EVCTL; 0 when the ring is disabled. -/
def Fn.ring (f : Fn) : Nat := if bitsOf f.evCtl.toNat 4 0 = 0 then 0 else 2 ^ bitsOf f.evCtl.toNat 4 0
/-- Whether the ring has room: EVTAIL − HEAD is below its size (R468). -/
def Fn.room (f : Fn) : Bool := decide (0 < f.ring) && (f.evTail + 2 ^ 32 - bitsOf f.evCtl.toNat 63 32) % 2 ^ 32 < f.ring

/-- One record written into the ring: the record, then EVTAIL, then the message on the link (R468). -/
def State.putEvent (s : State) (n : Nat) (rc : List Byte) : State :=
  let f := s.fn n
  let base := f.evBase.toNat + 32 * (f.evTail % f.ring)
  let rc' := if f.evDrops = 0 then rc else rc.set 1 (BitVec.ofNat 8 (min f.evDrops 255))
  let s1 := s.write (wrs ((List.range 32).map (fun i => Loc.host n (base + i))) rc')
  { s1.modFn n (fun x => { x with evTail := (x.evTail + 1) % 2 ^ 32, evDrops := 0 }) with
    hostOut := s1.hostOut ++ [.msix n 0] }

/-- An event record for a function (R468): written, held while the ring is full, dropped while it is disabled. -/
def State.event (s : State) (n kind reason : Nat) (c : CtxId) (panel data addr : Nat) : State :=
  let rc := natLE 32 (kind % 256 + reason % 256 * 2 ^ 8 + c.toNat * 2 ^ 16 + panel % 2 ^ 32 * 2 ^ 32 + data % 2 ^ 64 * 2 ^ 64
    + addr % 2 ^ 64 * 2 ^ 128 + s.time % 2 ^ 64 * 2 ^ 192)
  let f := s.fn n
  if f.ring = 0 then s
  else if f.held.isEmpty && f.room then s.putEvent n rc
  else if f.held.length < Config.heldEvents then s.modFn n (fun x => { x with held := x.held ++ [rc] })
  else s.modFn n (fun x => { x with held := x.held.drop 1 ++ [rc], evDrops := x.evDrops + 1 })

/-- A lane stops with a fault and is reported: context, panel, weft and lane; code, reason, address and PC (R408). An UNBOUND entry that
it has not finished waits for its release (R385). -/
def State.stopLane (s : State) (wid lane : Nat) (f : LFault) : State :=
  let w := s.weft wid
  let p := s.panel w.panel
  let pc := (w.lane lane).pc
  (((s.quitLate wid lane).modLane wid lane (fun l => { l with st := .stopped f, trap := l.trap.filter (fun q => q.1.code == .unbound) })).report "lane stopped" p.ctx
      [p.index, w.pweft, lane, f.code.code, f.reason, f.addr.toNat, pc.toNat]).event
    (s.ctx p.ctx).func 3 f.reason p.ctx p.index pc.toNat f.addr.toNat

/-! ### The bytes that a lane reads (R132, R133, R147) -/

/-- A place without the way it is reached. -/
def Loc.norm : Loc → Loc
  | .chip pa _ => .chip pa false
  | .hbm pa k _ => .hbm pa k 0
  | .zero => .zero
  | .host f a => .host f a
  | .remote n r p k o => .remote n r p k o

/-- The newest byte that a list of writes holds for a place. -/
def findWr (ws : List Wr) (l : Loc) : Option (Byte × Bool) :=
  (ws.reverse.find? (fun w => w.loc.norm == l.norm)).map (fun w => (w.b, w.pz))

/-- The bytes that a store-queue entry writes. -/
def SqOp.writes : SqOp → List Wr
  | .store bs _ => bs
  | .tile _ => []
  | .atomic _ _ _ _ _ _ _ | .fence _ | .push _ | .discard _ | .enq _ _ | .dcinit _ _ | .dcadd _ _ _ | .cut _ _ _ | .graft _
  | .await | .copy _ _ | .post _ _ => []

/-- The byte that the newest entry of a queue holds for a place (R132). -/
def sqByte (q : List SqEntry) (l : Loc) : Option (Byte × Bool) := q.reverse.findSome? (fun e => findWr e.op.writes l)

/-- The byte of a partial word whose sign a read of its bytes 6 and 7 returns (R102). -/
def Loc.signAt : Loc → Option Loc
  | .chip pa win => if decide (chipBase ≤ pa) && isPart pa && 6 ≤ pa % 8 then some (.chip (pa / 8 * 8 + 5) win) else none
  | .hbm _ _ _ | .zero | .host _ _ | .remote _ _ _ _ _ => none

/-- A byte as a read returns it, of what is held for places (R102). -/
def signed (see : Loc → Byte × Bool) (l : Loc) : Byte × Bool :=
  match l.signAt with
  | some m => (if (see m).1.getLsbD 7 then 0xFF else 0, (see m).2)
  | none => see l

/-- A byte of memory as a core sees it (R134). -/
def State.memSeen (s : State) (core : Nat) (l : Loc) : Byte × Bool :=
  match l with
  | .hbm pa k _ => match s.staleAt core (pa / 32) k with
    | some e => e.bytes.getD (pa % 32) (0, false)
    | none => (s.byteAt l, s.pzAt l)
  | .chip _ _ | .zero | .host _ _ | .remote _ _ _ _ _ => (s.byteAt l, s.pzAt l)

/-- The byte that a panel's held stores, the stores of its core on their way, or memory hold for a place (R133, R134, R147). -/
def State.coreSeen (s : State) (core pid : Nat) (l : Loc) : Byte × Bool :=
  match (s.panel pid).held.reverse.findSome? (fun e => findWr e.2.op.writes l) with
  | some b => b
  | none =>
    match s.wins.reverse.findSome? (fun w => if w.core = core ∧ w.load.isNone then findWr w.bytes l else none) with
    | some b => b
    | none =>
      match s.rems.reverse.findSome? (fun w => if w.core = core ∧ w.load.isNone then findWr w.bytes l else none) with
      | some b => b
      | none => s.memSeen core l

/-- The byte at a place as a panel of a core reads it outside its wefts' queues. -/
def State.coreByte (s : State) (core pid : Nat) (l : Loc) : Byte × Bool := signed (s.coreSeen core pid) l

/-- The byte at a place as a weft reads it past entries of its queue (R132). -/
def State.queueByte (s : State) (w : Weft) (q : List SqEntry) (l : Loc) : Byte × Bool :=
  signed (fun m => (sqByte q m).getD (s.coreSeen w.core w.panel m)) l

/-- The byte at a place as a lane of a weft reads it (R132). -/
def State.laneByte (s : State) (wid : Nat) (l : Loc) : Byte × Bool := s.queueByte (s.weft wid) (s.weft wid).sq l

/-- A little-endian number as a lane reads it. -/
def State.laneNat (s : State) (wid : Nat) (ls : List Loc) : Nat := leNat (ls.map (fun l => (s.laneByte wid l).1))

/-- An entry joins the weft's store queue (R132): in the place kept for it, else at the end. -/
def State.enqueue (s : State) (wid lane track : Nat) (sys : Bool) (pc : DWord) (hdr : Off) (op : SqOp) (addr : DWord := 0) : State :=
  if (s.weft wid).sq.any (fun e => e.awaits lane track) then
    s.modWeft wid (fun w => { w with sq := w.sq.map (fun e => if e.awaits lane track then { e with op := op, addr := addr } else e) })
  else
    let e : SqEntry := ⟨s.nextId, lane, sys, track, pc, hdr, addr, op⟩
    { s.modWeft wid (fun w => { w with sq := w.sq ++ [e] }) with nextId := s.nextId + 1 }

/-! ### Rejoin masks (R172) -/

/-- Lanes released from a mask: those parked at a WAIT on it, and those held at one. -/
def Park.onMask (j : Nat) : Park → Bool
  | .rejoin k => k == j
  | .heldWait k => k == j
  | .fault _ | .bind _ | .push _ _ | .barrier _ _ _ | .step _ | .spill | .walk _ | .nwait | .node | .hold | .held => false

/-- Mask jn. -/
def Weft.mask (w : Weft) (j : Nat) : LaneMask × LaneMask := w.masks.getD j (0, 0)
/-- A mask changed, and released when A = E with E not empty (R172). -/
def Weft.setMask (w : Weft) (j : Nat) (e a : LaneMask) : Weft :=
  if e = a ∧ e ≠ 0 then
    { w with masks := w.masks.set j (e, 0) }.unpark (Park.onMask j)
  else { w with masks := w.masks.set j (e, a) }
/-- A lane leaves E and A of every mask (R172). -/
def Weft.leaveMasks (w : Weft) (lane : Nat) : Weft :=
  (List.range 16).foldl (fun x j =>
    let m := x.mask j
    let b := maskOf [lane]
    if m.1 &&& b = 0 then x else x.setMask j (m.1 &&& ~~~b) (m.2 &&& ~~~b)) w
/-- One lane executes `wait jn` (R172): whether it proceeds, and the weft. -/
def Weft.waitLane (w : Weft) (j lane : Nat) : Bool × Weft :=
  let m := w.mask j
  let b := maskOf [lane]
  if m.1 &&& b = 0 then (true, w)
  else if m.2 &&& b = 0 then (false, (w.park [lane] (.rejoin j)).setMask j m.1 (m.2 ||| b))
  else (false, w.park [lane] (.heldWait j))

/-! ### Frames (R282, R283) -/

/-- A link record (R283). -/
structure Frame where
  ret   : DWord
  cseg  : Nat
  entry : Nat
  fsize : Nat
  bud   : Nat
  mkd   : Bool
  savfb : DWord
  ent   : Nat
  smtop : Nat
  tf    : Nat
  hv    : Bool
  deriving DecidableEq, Repr

/-- The link record as a number (R283). -/
def Frame.word (f : Frame) : Nat :=
  f.ret.toNat + (b2n f.mkd + f.bud * 2 ^ 7 + f.fsize * 2 ^ 11 + f.entry * 2 ^ 24 + f.cseg * 2 ^ 40) * 2 ^ 64
  + f.savfb.toNat * 2 ^ 128 + (f.ent + f.smtop * 2 ^ 32 + f.tf * 2 ^ 61 + b2n f.hv * 2 ^ 63) * 2 ^ 192

/-- The link record in a number. -/
def Frame.ofNat (x : Nat) : Frame :=
  ⟨BitVec.ofNat 64 x, bitsOf x 127 104, bitsOf x 103 88, bitsOf x 87 75, bitsOf x 74 71, bitAt x 64,
   BitVec.ofNat 64 (x / 2 ^ 128), bitsOf x 223 192, bitsOf x 247 224, bitsOf x 254 253, bitAt x 255⟩

/-- The link record of a lane's frame whose locals start at an offset, as the lane reads it (R289): below offset 0x20 it lies below the
stack, and the read takes LIMIT. -/
def State.frameAt (s : State) (r : Req) (wid fb : Nat) : Chk Frame :=
  (s.check { r with fb := 0 } .load (mkAddr segSTK (BitVec.ofNat 40 fb)) (-0x20) 32 8).map fun q =>
    Frame.ofNat (s.laneNat wid q.2.2.2)

/-- The frames of a lane from an offset down to its root, or to the first frame whose SAVFB fails the tests of R290; each
with its offset. -/
def State.framesFrom (s : State) (r : Req) (wid : Nat) : Nat → Nat → Chk (List (Nat × Frame))
  | 0, _ => .ok []
  | fuel + 1, fb =>
    match s.frameAt r wid fb with
    | .fault f => .fault f
    | .miss p => .miss p
    | .ok f =>
      let nfb := (offOf f.savfb).toNat
      if segOf f.ret = 0 ∨ segOf f.savfb ≠ r.sseg ∨ nfb < 0x20 ∨ fb < nfb + 0x20 then .ok [(fb, f)]
      else match s.framesFrom r wid fuel nfb with
        | .ok fs => .ok ((fb, f) :: fs)
        | .fault e => .fault e
        | .miss p => .miss p

/-- No chain of frames is longer (R290: each frame lies 0x20 bytes lower). -/
def frameFuel (fb : Nat) : Nat := fb / 0x20 + 1

/-! ### Targets (R30, R181, R288) -/

/-- ILLEGAL with a reason. -/
def illFault (i : Illegal) (a : DWord := 0) : LFault := ⟨.illegal, i.code, a, 0, 0⟩

/-- The budget (a multiple of 16) and frame size of the `enter` that begins the procedure at a target (R288): the target is
checked in the Fetch class, its header under R197, its first word must be `enter`. -/
def State.procAt (s : State) (r : Req) (t : DWord) (whole : Bool) : Chk (Nat × Nat) :=
  (s.checkFetch r t).bind fun _ =>
    let off := (offOf t).toNat
    match decodeHeader (s.fetchWord r.core r.ctx (segOf t) off) with
    | none => .fault (illFault .header t)
    | some h =>
      let lim := match s.descOf r.core r.ctx (segOf t) with
        | .ok d => d.limit
        | .error _ => 0
      if whole && decide (lim < off + 8 * (h.count.toNat + 2) - 1) then .fault ⟨.limit, 1, t, 0, 0⟩
      else
        let w := s.fetchWord r.core r.ctx (segOf t) (off + 8)
        if fld w 58 6 = 0x24 ∧ fld w 44 6 = 0 then .ok (16 * ((fld w 16 4).toNat + 1), (fld w 0 13).toNat)
        else .fault (illFault .entry t)

/-! ### Nodes, own pads and send slots (R4, R116, R147) -/

/-- The node of a scope that holds a core, by number (R4). -/
def nodeOf (sc : Scope) (core : Nat) : Nat :=
  match sc with
  | .quad => core / 4
  | .die => core / 256
  | .none | .ln | .core => core
  | .pkg | .pod => 0

/-- Whether a byte lies in a panel's own pad share (R147). -/
def Panel.ownByte (p : Panel) (l : Loc) : Bool :=
  match l with
  | .chip pa _ => isPad pa && coreOfPa pa == p.core && decide (0x4000 * p.padb ≤ blockOff pa - padOff) &&
      decide (blockOff pa - padOff < 0x4000 * (p.padb + p.launch.padu))
  | .hbm _ _ _ | .zero | .host _ _ | .remote _ _ _ _ _ => false

/-- The panel of a core whose pad share holds a structure offset. -/
def State.padOwner (s : State) (core off : Nat) : Option Panel :=
  s.panels.find? (fun p => decide (p.core = core) && decide (0x4000 * p.padb ≤ off) &&
    decide (off < 0x4000 * (p.padb + p.launch.padu)))

/-- Send slot n of a core (R116). -/
def State.mqs (s : State) (core n : Nat) : DWord := (s.core core).mqs.getD n 0
/-- The core that a slot names. -/
def mqsCore (x : DWord) : Nat := coreOf (bitsOf x.toNat 62 61) (bitsOf x.toNat 60 55) (bitsOf x.toNat 54 53)
/-- The structure offset of the queue header that a slot names. -/
def mqsOff (x : DWord) : Nat := 64 * bitsOf x.toNat 31 19
/-- The context that may push through a slot. -/
def mqsCtx (x : DWord) : CtxId := BitVec.ofNat 16 (bitsOf x.toNat 47 32)

/-! ### The range scoreboard (R121, R122) -/

/-- The structure offset of a place in a core's own pad. -/
def Loc.ownPad (core : Nat) : Loc → Option Nat
  | .chip pa win => if !win && isPad pa && coreOfPa pa == core then some (blockOff pa - padOff) else none
  | .hbm _ _ _ | .zero | .host _ _ | .remote _ _ _ _ _ => none

/-- Whether bytes of the own pad wait on the scoreboard: a load on DST entries, a store or atomic on any (R122). -/
def State.boardBlocks (s : State) (core : Nat) (ls : List Loc) (store : Bool) : Bool :=
  (s.core core).board.any (fun b => (b.dst || store) && ls.any (fun l =>
    match l.ownPad core with
    | some o => decide (b.lo ≤ o) && decide (o ≤ b.hi)
    | none => false))

/-! ### Loads taking their bytes (R132 to R134) -/

/-- The places that an atomic entry changes. -/
def SqOp.atomLocs : SqOp → List Loc
  | .atomic _ ls _ _ _ _ _ => ls
  | .tile _ | .store _ _ | .fence _ | .push _ | .discard _ | .enq _ _ | .dcinit _ _ | .dcadd _ _ _ | .cut _ _ _ | .graft _
  | .await | .copy _ _ | .post _ _ => []

/-- Whether two lists of places share one. -/
def locsMeet (a b : List Loc) : Bool := a.any (fun l => b.any (fun m => l.norm == m.norm))

/-- The queue entries of a weft older than a load. -/
def Weft.olderSq (w : Weft) (id : Nat) : List SqEntry := w.sq.filter (fun e => e.id < id)

/-- A byte as a load of a weft takes it: from the newest older entry of its queue, else as its core reads it (R132). -/
def State.loadByte (s : State) (w : Weft) (id : Nat) (l : Loc) : Byte × Bool := s.queueByte w (w.olderSq id) l

/-- The places of a load. -/
def LoadRec.locs (ld : LoadRec) : List Loc := ld.bytes.map (·.1)
/-- Whether a load has still to read its places; an atomic's turn is in the queue. -/
def LoadRec.open_ (ld : LoadRec) : Bool := ld.wait != .ready && ld.wait != .queue

/-- Whether a load can take its bytes: no older load or atomic of its weft has them to itself first (R130, R132), and the scoreboard
lets it (R122). -/
def State.loadClear (s : State) (w : Weft) (ld : LoadRec) : Bool :=
  !s.boardBlocks w.core ld.locs false && !(w.olderSq ld.id).any (fun e => locsMeet e.op.atomLocs ld.locs) &&
    !w.loads.any (fun l => decide (l.id < ld.id) && l.open_ && locsMeet l.locs ld.locs)

/-- A load with its bytes taken. -/
def State.taken (s : State) (w : Weft) (ld : LoadRec) : LoadRec :=
  { ld with wait := .ready, bytes := ld.bytes.map (fun b => (b.1, match b.2 with
      | some x => some x
      | none => some (s.loadByte w ld.id b.1))) }

/-- The value of a destination register of a load, and its poison. -/
def LoadRec.value (ld : LoadRec) (key : Nat) : DWord × Bool :=
  match ld.dst.find? (fun d => d.1 == key) with
  | none => (0, false)
  | some d =>
    let bs := ((ld.bytes.drop d.2.1).take d.2.2).map (fun b => b.2.getD (0, false))
    (BitVec.ofNat 64 (leNat (bs.map (·.1))), bs.any (·.2))

/-- A load of a weft replaced; its destination values become known when it is ready (R175). -/
def Weft.putLoad (w : Weft) (ld : LoadRec) : Weft :=
  let w1 := { w with loads := w.loads.map (fun x => if x.id = ld.id then ld else x) }
  if ld.wait = .ready then w1.fillPend ld.id ld.value else w1

/-- A place with the allocation policy of its access (R126). -/
def Loc.withPol (c : Nat) : Loc → Loc
  | .hbm pa k _ => .hbm pa k c
  | .chip pa win => .chip pa win
  | .zero => .zero
  | .host f a => .host f a
  | .remote n r p k o => .remote n r p k o

/-- What a read of places allocates in the die stores (R126). -/
def State.allocAll (s : State) (ls : List Loc) : State :=
  ls.foldl (fun y l => match l with
    | .hbm pa k c => y.allocLine pa k c
    | .chip _ _ | .zero | .host _ _ | .remote _ _ _ _ _ => y) s

/-- A load of a weft takes its bytes. -/
def State.takeLoad (s : State) (wid id : Nat) : State :=
  let w := s.weft wid
  match w.loads.find? (fun x => x.id == id) with
  | none => s
  | some ld => (s.modBoth wid (fun x => x.putLoad (s.taken w ld))).allocAll ld.locs

/-- A load of a weft that the scoreboard holds takes those of its bytes that lie among some places. -/
def State.takeSome (s : State) (wid : Nat) (ld : LoadRec) (ls : List Loc) : State :=
  let w := s.weft wid
  s.modBoth wid (fun x => x.putLoad { ld with bytes := ld.bytes.map (fun b =>
    if b.2.isNone && ls.any (fun l => l.norm == b.1.norm) then (b.1, some (s.loadByte w ld.id b.1)) else b) })

/-- Whether a place is reached through a window. -/
def Loc.isWin : Loc → Bool
  | .chip _ win => win
  | .hbm _ _ _ | .zero | .host _ _ | .remote _ _ _ _ _ => false
/-- Whether a place lies in another package. -/
def Loc.isRemote : Loc → Bool
  | .remote _ _ _ _ _ => true
  | .chip _ _ | .hbm _ _ _ | .zero | .host _ _ => false

/-- Loads of a core issued before a store of the core performs, and not yet satisfied at its bytes, are satisfied first: a weft's loads
keep program order with the stores of its core (R133). -/
def State.forceLate (s : State) (core wid id : Nat) (ls : List Loc) : State :=
  (s.wefts.filter (fun w => w.core == core)).foldl (fun y w =>
    (w.loads.filter (fun l => (l.wait == .late || l.wait == .board) && locsMeet l.locs ls && (w.id != wid || decide (l.id < id)) &&
        !(w.olderSq l.id).any (fun e => locsMeet e.op.atomLocs l.locs))).foldl (fun z l =>
      if l.wait = .late then z.takeLoad w.id l.id else z.takeSome w.id l ls) y) s

/-! ### Performing a store at the core (R133) -/

/-- Part of a counted instruction of a weft has completed; 0 counts none. -/
def State.doneIf (s : State) (wid track : Nat) : State := if track = 0 then s else s.partDone wid track

/-- Whether a store of a core on its way to a structure covers one of some places. -/
def State.winBusy (s : State) (core : Nat) (ls : List Loc) : Bool :=
  s.wins.any (fun a => a.core == core && a.load.isNone && locsMeet (a.bytes.map (·.loc)) ls)

/-- A store leaves a weft's queue and is performed at its core (R133): in memory, or held by the core on its way to another core or
package, or behind one of its core on its way to the same bytes (R104, R130). Other cores may see it later (R134, log entry 17). -/
def State.performStore (s : State) (wid : Nat) (e : SqEntry) (ws : List Wr) : State :=
  let core := (s.weft wid).core
  let ls := ws.map (·.loc)
  let s1 := s.forceLate core wid e.id ls
  let s2 : State :=
    if ls.any Loc.isWin || s1.winBusy core ls then
      { s1 with wins := s1.wins ++ [⟨s1.nextId, core, wid, none, ws, 0⟩], nextId := s1.nextId + 1 }
    else if ls.any Loc.isRemote then
      { s1 with rems := s1.rems ++ [⟨s1.nextId, core, wid, none, e.lane, e.addr, .store, ws, 0, e.pc, e.hdr, none⟩],
                nextId := s1.nextId + 1 }
    else s1.writeBy core ws
  s2.doneIf wid e.track

/-- What a core sees is performed throughout its node of a scope (R137). -/
def State.spread (s : State) (core : Nat) (sc : Scope) : State :=
  if Scope.core.rank < sc.rank then s.spreadTo core (fun d => nodeOf sc d == nodeOf sc core) else s

/-! ### DISCARD (R84, R86) -/

/-- A store-queue entry with its places moved. -/
def SqOp.reloc (f : Loc → Loc) : SqOp → SqOp
  | .store bs rel => .store (bs.map (fun w => { w with loc := f w.loc })) rel
  | .atomic op ls b d pz ld rel => .atomic op (ls.map f) b d pz ld rel
  | .fence sc => .fence sc
  | .push m => .push m
  | .discard ps => .discard ps
  | .enq a rc => .enq a rc
  | .dcinit a b => .dcinit a b
  | .dcadd a b ld => .dcadd a b ld
  | .cut t k b => .cut t k b
  | .graft k => .graft k
  | .tile w => .tile w
  | .await => .await
  | .copy q c => .copy q c
  | .post q p => .post q p

/-- The places that a weft has still to reach moved. -/
def Weft.reloc (w : Weft) (f : Loc → Loc) : Weft :=
  { w with
    sq := w.sq.map (fun e => { e with op := e.op.reloc f })
    loads := w.loads.map (fun l => { l with bytes := l.bytes.map (fun b => if b.2.isNone then (f b.1, b.2) else b) }) }

/-- A place of a range of a frame under a key index, made dead. -/
def Loc.bury (lo n okey : Nat) (l : Loc) : Loc :=
  match l with
  | .hbm pa k _ => if k = okey ∧ lo ≤ pa ∧ pa < lo + n then .zero else l
  | .chip _ _ | .zero | .host _ _ | .remote _ _ _ _ _ => l

/-- Accesses translated to a frame that has been discarded: a store is dropped, as before the DISCARD; an atomic raises DEADWRITE, as
after it; a load reads zeros (R84, R86). -/
def State.bury (s : State) (lo n okey : Nat) : State :=
  let f := Loc.bury lo n okey
  { s with
    wefts := s.wefts.map (fun w => w.reloc f)
    panels := s.panels.map (fun p => { p with
      held := p.held.map (fun q => (q.1, { q.2 with op := q.2.op.reloc f }))
      ckpt := p.ckpt.map (fun k => { k with wefts := k.wefts.map (fun w => w.reloc f) }) })
    saved := s.saved.map (fun v => { v with wefts := v.wefts.map (fun w => w.reloc f) })
    stale := s.stale.filter (fun e => !(e.okey == okey && decide (lo ≤ 32 * e.sect) && decide (32 * e.sect < lo + n))) }

/-- A page made dead, dropped from every page cache and from the die stores (R84): segment, page, page size code, table base, key
index. One whose entry is gone meanwhile has no page. -/
def State.discardPage (s : State) (c : CtxId) (q : Seg × Nat × Nat × Nat × Nat) : State :=
  let (seg, pg, sz, base, okey) := q
  match s.walkPage (s.tkey c) base (pg * pageSize sz) sz with
  | .error _ => s
  | .ok (pte, e) =>
    let k := s.tkey c
    let lo := bitsOf e 51 8 * 256
    let x1 := if bitAt e 2 then s else s.write (wrs ((List.range 8).map (fun i => Loc.hbm (pte + i) k 2)) (natLE 8 (e + 4)))
    let x2 := { x1 with cores := x1.cores.map (fun co => (co.1, { co.2 with tlbPage := co.2.tlbPage.filter (fun t =>
      !(t.ctx == c && t.page == pg && t.pgsz == sz && (t.seg == seg || t.base == base))) })) }
    if bitAt e 2 then x2
    else (x2.dropLines (fun l => l.okey == okey && decide (lo ≤ 64 * l.unit) && decide (64 * l.unit < lo + pageSize sz))).bury lo
      (pageSize sz) okey

/-- Pages made dead and dropped from every page cache of the package (R84). -/
def State.discardPages (s : State) (c : CtxId) (ps : List (Seg × Nat × Nat × Nat × Nat)) : State :=
  ps.foldl (fun x q => x.discardPage c q) s

/-! ### Commit points (R147 to R149, R447 to R449) -/

/-- Whether a `bload`, `bclr` or `align` of a panel has not completed: a commit point of the panel waits for it (R449). -/
def State.beamBusy (s : State) (pid : Nat) : Bool :=
  s.cores.any (fun c => c.2.morder.any (fun m => m.panel == pid && (m.kind == .bload || m.kind == .bclr || m.kind == .align)))

/-- Drain a panel's held stores in order (R147, R148). -/
def State.drainHeld (s : State) (pid : Nat) : State :=
  let p := s.panel pid
  (p.held.foldl (fun x q =>
    match q.2.op with
    | .store ws _ => x.performStore q.1 q.2 ws
    | .discard ps => (x.discardPages p.ctx ps).doneIf q.1 q.2.track
    | .atomic _ _ _ _ _ _ _ | .fence _ | .push _ | .enq _ _ | .dcinit _ _ | .dcadd _ _ _ | .cut _ _ _ | .graft _ | .tile _
    | .await | .copy _ _ | .post _ _ => x) s).modPanel pid (fun x => { x with held := [] })

/-- The images of a checkpoint written into the panel's save block (R447, R449). -/
def State.writeCheckpoint (s : State) (p : Panel) : State :=
  match p.block with
  | none => s
  | some k => match s.writeParts p.ctx k (s.imageParts p (s.weftsOf p.id)) with
    | .ok s1 => s1
    | .error _ => s

/-- A REPLAY panel's checkpoint as of now; a new interval starts (R447, R449). -/
def State.checkpoint (s : State) (pid : Nat) : State :=
  let p := s.panel pid
  if p.launch.replay then
    (s.modPanel pid (fun x => { x with ckpt := some ⟨s.weftsOf pid, s.padShare p, s.padPoison p, s.nextId, true⟩, attempt := 0 })).writeCheckpoint
      p
  else s

/-- Bytes that have landed in a REPLAY panel's pad from outside enter its checkpoint too (R148, R449). -/
def State.inbound (s : State) (p : Panel) (ls : List Loc) : State :=
  if p.launch.replay then
    let base := padPa p.core (0x4000 * p.padb)
    let at_ (l : Loc) : Option Nat := if p.ownByte l then l.pa?.map (· - base) else none
    s.modPanel p.id (fun x => { x with ckpt := x.ckpt.map (fun k => { k with
      pad := ls.foldl (fun bs l => match at_ l with
        | some o => bs.set o (sget 0 s.mem.bytes (base + o))
        | none => bs) k.pad
      padPz := ls.foldl (fun ps l => match at_ l with
        | some o =>
          let g := o / 8 * 8
          if s.mem.poison.contains (base + g) then (if ps.contains g then ps else g :: ps) else ps.filter (· != g)
        | none => ps) k.padPz }) })
  else s

/-- Whether an access from outside may reach a pad (R149): a REPLAY panel's pad only at its commit points. -/
def Panel.admits (p : Panel) : Bool := !p.launch.replay || p.inOpen

/-- Whether the head of another weft's queue is an atomic that only a panel's pad holds back (R140, R149). -/
def State.atomWaits (s : State) (p : Panel) (w : Weft) : Bool :=
  w.panel != p.id && !(s.panel w.panel).launch.replay && (match w.sq.head? with
    | some e => (match e.op with
      | .atomic _ ls _ _ _ _ rel => rel == .none && ls.any p.ownByte && !s.boardBlocks w.core ls true && !s.winBusy w.core ls
      | .tile _ | .store _ _ | .fence _ | .push _ | .discard _ | .enq _ _ | .dcinit _ _ | .dcadd _ _ _ | .cut _ _ _ | .graft _
      | .await | .copy _ _ | .post _ _ => false)
    | none => false)

/-- Whether accesses from outside wait at a panel's pad (R149): window accesses first of their core, message-queue entries first of
their slot, sectors of copies, posts and tile words, and atomics. -/
def State.inboundWaits (s : State) (pid : Nat) : Bool :=
  let p := s.panel pid
  s.wins.any (fun a => (s.weft a.weft).panel != pid && a.bytes.any (fun b => p.ownByte b.loc) &&
      s.wins.find? (fun q => q.core == a.core) == some a) ||
    s.cores.any (fun c => c.2.mqIn.any (fun m =>
      let q := c.2.mqs.getD m.slot 0
      c.2.mqIn.find? (fun z => z.slot == m.slot) == some m && !(s.weft m.weft).sq.any (fun e => e.op == .push m.id) &&
        mqsCtx q == p.ctx && (s.padOwner (mqsCore q) (mqsOff q)).map (fun x => x.id) == some pid)) ||
    s.cores.any (fun c => c.2.copyQ.any (fun q => q.any (fun k => k.waits == some pid)) ||
      c.2.morder.any (fun m => m.waits == some pid)) ||
    s.wefts.any (s.atomWaits p)

/-- Whether a commit point of a panel has still to drain its held stores, or to perform the accesses that wait at its pad (R449). -/
def State.commitWaits (s : State) (pid : Nat) : Bool :=
  (s.panel pid).launch.replay && (!(s.panel pid).held.isEmpty || s.inboundWaits pid)

/-- A commit point begins: the held stores drain, the state is shadowed, and the accesses that wait at the pad are let in, each of
which enters the shadow too (R148, R149, R449). -/
def State.openCommit (s : State) (pid : Nat) : State :=
  if (s.panel pid).launch.replay then ((s.drainHeld pid).checkpoint pid).modPanel pid (fun x => { x with inOpen := true }) else s

/-- The committing instruction performs, and its effect enters the checkpoint, so that no rollback performs it again (R449, R453). -/
def State.committed (s : State) (pid : Nat) (f : State → State) : State :=
  if (s.panel pid).launch.replay then
    ((f (s.drainHeld pid)).modPanel pid (fun x => { x with inOpen := false })).checkpoint pid
  else f s

/-- A commit point of a REPLAY panel (R148, R449): it waits for the beam words; the held stores drain and what waits at the pad
performs; then the committing instruction performs, once what it waits for itself has ended. -/
def State.atCommit (s : State) (pid : Nat) (waits : State → Bool) (f : State → State) : State :=
  if !(s.panel pid).launch.replay then (if waits s then s else f s)
  else if s.beamBusy pid then s
  else if s.commitWaits pid then s.openCommit pid
  else if waits s then s
  else s.committed pid f

/-! ### Entering a handler (R385, R405) -/

/-- The word of the trap table at an offset (R404): 0 where the table cannot be read; and whether its read failed. -/
def State.trapEntry (s : State) (c : CtxId) (off : Nat) : DWord × Bool :=
  match s.deviceLocs c .load (s.ctx c).trapv off 8 with
  | .ok (d, ls) => if d.kind = 1 ∧ d.sysOnly ∧ d.r then (BitVec.ofNat 64 (s.leAt ls), false) else (0, true)
  | .error _ => (0, true)

/-- A register of a lane as it stands when a handler starts: every fixed-latency result is readable by then. -/
def State.regNow (s : State) (w : Weft) (lane n : Nat) : Nat :=
  (readKey s.fresh ((s.core w.core).slot + 8) 8 w.regs (keyV lane n) w.pend).toNat

/-- Steps 2 to 4 of R385: budget and frame size of the handler's procedure. -/
def State.handlerProc (s : State) (wid lane : Nat) (h : DWord) : Except LFault (Nat × Nat) :=
  match s.procAt { s.reqNow wid lane with sys := true } h true with
  | .fault f => .error f
  | .miss _ => .error (pageFault 1)
  | .ok q => if (s.panel (s.weft wid).panel).alloc < q.1 then .error ⟨.budget, 0, 0, 0, 0⟩ else .ok q

/-- Steps 5 to 8 of R385 for a lane: the handler's address, RET, TF, the four words of the trap locals and the further page words;
the budget and frame size of the handler's procedure. -/
def State.enterFrame (s : State) (wid lane : Nat) (h ret : DWord) (tf : Nat) (w4 extra : List Nat) (size : Nat) (q : Nat × Nat) :
    Chk State :=
  let r : Req := { s.reqNow wid lane with sys := true }
  let w := s.weft wid
  let l := w.lane lane
  (s.check { r with fb := 0 } .store (mkAddr segSTK l.sp) 0 size 8).map fun k =>
    let link : Frame := ⟨ret, (segOf h).toNat, (offOf h).toNat % 65536, q.2, q.1 / 16 - 1, false, mkAddr l.sseg l.fb, 0,
      l.mtop.toNat, tf, false⟩
    let savev := (List.range 8).flatMap (fun i => natLE 4 (s.regNow w lane i))
    let bytes := natLE 32 link.word ++ w4.flatMap (natLE 8) ++ savev ++ extra.flatMap (natLE 8)
    (s.enqueue wid lane 0 true l.pc 0 (.store (wrs k.2.2.2 bytes) .none)).modLane wid lane (fun x =>
      { x with fb := x.sp + 0x20, sp := x.sp + 0x20, mtop := 0, sys := true, pc := h, pos := .header, hh := none, st := .active })

/-- Steps 2 to 8 of R385 for a lane. -/
def State.enterHandler (s : State) (wid lane : Nat) (h ret : DWord) (tf : Nat) (w4 extra : List Nat) (size : Nat) : Chk State :=
  match s.handlerProc wid lane h with
  | .error f => .fault f
  | .ok q => s.enterFrame wid lane h ret tf w4 extra size q

/-- Host pages of a handler's frame are asked for (R467); the lane goes on when they have come. -/
def State.askFrame (s : State) (wid : Nat) (ps : List PageReq) : State :=
  let c := (s.weft wid).core
  s.queueWalks c (coreDie c) ps

/-- A fault kept for a lane, before its others. -/
def State.keepTrap (s : State) (wid lane : Nat) (f : LFault) (pc : DWord) : State :=
  s.modLane wid lane (fun l => { l with trap := (f, pc) :: l.trap })
/-- A lane's first fault taken from it. -/
def State.dropTrap (s : State) (wid lane : Nat) : State := s.modLane wid lane (fun l => { l with trap := l.trap.drop 1 })

/-! ### Fault subgroups (R75 to R77, R406) -/

/-- The word at FREL:0x08 of trap locals (R406). -/
def codeWord (code reason lane info : Nat) : Nat := code + reason % 256 * 2 ^ 8 + lane * 2 ^ 16 + info % 2 ^ 32 * 2 ^ 32

/-- A page of some lanes among the pages of a subgroup, each page once (R76). -/
def addPage (ps : List PageEntry) (e : PageEntry) : List PageEntry :=
  if ps.any (fun x => x.addr == e.addr) then
    ps.map (fun x => if x.addr = e.addr then { x with lanes := x.lanes ||| e.lanes, byLane := x.byLane ++ e.byLane } else x)
  else ps ++ [e]

/-- The pages of faulting lanes among others (R76). -/
def pagesOf (ps : List PageEntry) (fs : List (Nat × LFault)) (cls : Cls) : List PageEntry :=
  fs.foldl (fun acc lf =>
    let k := if lf.2.info % 16 = 0 then cls else Cls.all.getD (lf.2.info % 16 - 1) cls
    lf.2.more.foldl (fun z m => addPage z ⟨m.1, k, m.2, maskOf [lf.1], [(lf.1, m.1)]⟩)
      (addPage acc ⟨lf.2.extra, k, lf.2.reason, maskOf [lf.1], [(lf.1, lf.2.addr)]⟩)) ps

/-- The faulting address of a lane that needs a page. -/
def PageEntry.atLane (e : PageEntry) (lane : Nat) : DWord := ((e.byLane.find? (fun q => q.1 == lane)).map (·.2)).getD e.addr

/-- The pager's handler is started on the lowest lane of a subgroup; with no entry in the trap table the die controller holds the
subgroup (R77). -/
def State.deliverSub (s : State) (wid k : Nat) : State :=
  let w := s.weft wid
  let c := (s.panel w.panel).ctx
  let g := w.subs.getD k Sub.free
  let h := (lanesOf g.lanes).headD 0
  let pc := (w.lane h).pc
  let e := s.trapEntry c (8 * FaultCode.page.code)
  let p0 := g.pages.headD ⟨0, .load, 0, 0, []⟩
  let held := (s.modWeft wid (fun x => { x with subs := x.subs.set k { g with status := 3 } })).report "page" c
    [w.id, g.lanes.toNat, p0.addr.toNat]
  if e.1 = 0 then held
  else match s.enterHandler wid h e.1 pc 2 [(p0.atLane h).toNat, codeWord 6 p0.reason h g.lanes.toNat, pc.toNat, g.pages.length % 64]
      ((g.pages.drop 1).map PageEntry.word) 0x160 with
    | .ok s2 => s2.modWeft wid (fun x => { x with subs := x.subs.set k { g with status := 2, handler := h } })
    | .fault _ => held.stopLane wid h (pageFault p0.reason (p0.atLane h))
    | .miss ps => s.askFrame wid ps

/-- Lanes whose walk or leaf check raised PAGE split off into a fault subgroup and park (R75, R76); the pager's handler runs
on the lowest of them (R77). -/
def State.pageLanes (s : State) (wid : Nat) (fs : List (Nat × LFault)) (cls : Cls) : State :=
  if fs.isEmpty then s
  else
    let w := s.weft wid
    let ls := fs.map (·.1)
    let k := (w.subs.findIdx? (fun g => g.status == 0)).getD 3
    let g := w.subs.getD k Sub.free
    let g' : Sub := if g.status = 0 then ⟨maskOf ls, 1, 0, pagesOf [] fs cls⟩
      else { g with lanes := g.lanes ||| maskOf ls, pages := pagesOf g.pages fs cls }
    let s1 := s.modWeft wid (fun x => { x.park ls (.fault k) with subs := x.subs.set k g' })
    if g.status ≠ 0 then s1 else s1.deliverSub wid k

/-- A lane parks in a subgroup that the die controller holds (R77, R284). -/
def State.holdLane (s : State) (wid lane : Nat) (cls : Cls) (f : LFault) : State :=
  let w := s.weft wid
  let k := (w.subs.findIdx? (fun g => g.status == 0)).getD 3
  (s.modWeft wid (fun x => { x.park [lane] (.fault k) with
    subs := x.subs.modify k (fun g => ⟨g.lanes ||| maskOf [lane], if g.status = 0 then 3 else g.status, g.handler, pagesOf g.pages [(lane, f)] cls⟩) })).report "page"
      (s.panel w.panel).ctx [wid, (maskOf [lane]).toNat, f.addr.toNat]

/-! ### UNBOUND (R385, R386) -/

/-- The UNBOUND of a lane between its check of the handler and its frame (R385): the handler's address, what its trap locals hold, and
the handler's budget and frame size. -/
def unboundTrap (h : DWord) (e cseq slot m : Nat) (q : Nat × Nat) (name : DWord) : LFault :=
  ⟨.unbound, 0, h, e + cseq * 2 ^ 32 + slot * 2 ^ 48 + m * 2 ^ 64 + q.2 * 2 ^ 80 + (q.1 / 16 - 1) * 2 ^ 93, name⟩
/-- The entry and CSEQ of a lane's UNBOUND. -/
def LFault.unbEntry (u : LFault) : Nat × Nat := (bitsOf u.info 31 0, bitsOf u.info 47 32)

/-- Steps 5 to 8 of R385 for UNBOUND: on PAGE the lane parks with the entry still BINDING and keeps its place; any other failure binds
the entry FAILED. -/
def State.unboundFrame (s : State) (wid lane : Nat) (u : LFault) (pc : DWord) : State :=
  let c := (s.panel (s.weft wid).panel).ctx
  let n := u.info
  match s.enterFrame wid lane u.addr pc 1
      [bitsOf n 31 0, bitsOf n 47 32, u.extra.toNat, bitsOf n 63 48 + bitsOf n 79 64 * 65536] [] 0x60
      (16 * (bitsOf n 96 93 + 1), bitsOf n 92 80) with
  | .ok s1 => s1.modLane wid lane (fun l => { l with unb := some u.unbEntry })
  | .fault f =>
    if f.code = .page then (s.keepTrap wid lane u pc).pageLanes wid [(lane, f)] .store
    else s.bindFailed c u.unbEntry.1 u.unbEntry.2
  | .miss ps => (s.keepTrap wid lane u pc).askFrame wid ps

/-- A lane takes UNBOUND on an entry that it has moved to BINDING (R385, R386). -/
def State.takeUnbound (s : State) (wid lane : Nat) (pc : DWord) (hdr : Off) (m slot e cseq nb : Nat) : State :=
  let c := (s.panel (s.weft wid).panel).ctx
  let s0 := s.modLane wid lane (fun l => { l with pc := pc, pos := .inside hdr, st := .active })
  let h := s0.trapEntry c 8
  if h.1 = 0 then s0.bindFailed c e cseq
  else match s0.handlerProc wid lane h.1 with
    | .error _ => s0.bindFailed c e cseq
    | .ok q => s0.unboundFrame wid lane
        (unboundTrap h.1 e cseq slot m q (mkAddr (s.ctx c).btseg (BitVec.ofNat 40 (nb + 64 * e)))) pc

/-- The entries whose UNBOUND handlers a lane runs, or is about to, with their CSEQs. -/
def Lane.binds (l : Lane) : List (Nat × Nat) := l.unb.toList ++ (l.trap.filter (fun q => q.1.code == .unbound)).map (fun q => q.1.unbEntry)
/-- They are bound FAILED: their handlers cannot complete (R52). -/
def State.failLane (s : State) (c : CtxId) (l : Lane) : State := l.binds.foldl (fun y q => y.bindFailed c q.1 q.2) s

/-- A lane gives up an UNBOUND that waits for its frame: the entry is bound FAILED (R52, R385). -/
def State.dropUnbound (s : State) (wid lane : Nat) : State :=
  let c := (s.panel (s.weft wid).panel).ctx
  let us := ((s.weft wid).lane lane).trap.filter (fun q => q.1.code == .unbound)
  us.foldl (fun y q => y.bindFailed c q.1.unbEntry.1 q.1.unbEntry.2)
    (s.modLane wid lane (fun l => { l with trap := l.trap.filter (fun q => q.1.code != .unbound) }))

/-! ### Ending a handler by a fault (R389) -/

/-- The frames of a lane down to the newest frame of an UNBOUND handler, that one last (R389). -/
def State.toUnbFrame (s : State) (wid lane : Nat) : Chk (List (Nat × Frame)) :=
  let l := (s.weft wid).lane lane
  (s.framesFrom (s.reqNow wid lane) wid (frameFuel l.fb.toNat) l.fb.toNat).map fun fs =>
    if fs.any (fun x => x.2.tf == 1) then
      fs.takeWhile (fun x => x.2.tf != 1) ++ (fs.dropWhile (fun x => x.2.tf != 1)).take 1
    else []

/-- Words of a frame's locals: `n` words of eight bytes from an offset of the frame. -/
def State.localWords (s : State) (wid lane fb off n : Nat) : Chk (List Nat) :=
  (s.check { s.reqNow wid lane with fb := 0 } .load (mkAddr segSTK (BitVec.ofNat 40 fb)) off (8 * n) 8).map fun q =>
    (List.range n).map (fun i => s.laneNat wid ((q.2.2.2.drop (8 * i)).take 8))

/-- v0 to v7 of a lane restored from SAVEV words (R386). -/
def Weft.restoreV (w : Weft) (lane : Nat) (ws : List Nat) : Weft :=
  w.setRegs ((List.range 8).map (fun k => (keyV lane k, BitVec.ofNat 64 (bitsOf (ws.getD (k / 2) 0) (32 * (k % 2) + 31) (32 * (k % 2))))))

/-- Steps 4 to 6 of R388: registers, frame state, mode and PC of a lane restored from a trap frame. -/
def State.popTrap (s : State) (wid lane fb : Nat) (f : Frame) (savev : List Nat) : State :=
  let hh := ((s.weft wid).lane lane).hh
  let s1 := s.modWeft wid (fun w => (w.restoreV lane savev).modLane lane (fun l =>
    { l with sp := BitVec.ofNat 40 fb - 0x20, fb := offOf f.savfb, mtop := BitVec.ofNat 24 f.smtop, sys := false,
             pc := f.ret, pos := .resume, st := (l.back.map LaneSt.parked).getD .active, hh := none, back := none,
             unb := if f.tf = 1 then none else l.unb }))
  match hh with
  | some r => s1.sweepFut r
  | none => s1

/-- A lane that runs the UNBOUND handler takes a fault (R389): its frames are popped down to the handler's, their holds given back, its
registers restored, and the entry bound FAILED. A frame that meets PAGE waits for the pager, the fault kept; one that cannot be read
leaves the lane stopped, its entry bound FAILED all the same. -/
def State.handlerFault (s : State) (wid lane : Nat) (f : LFault) (pc : DWord) : State :=
  let l := (s.weft wid).lane lane
  let c := (s.panel (s.weft wid).panel).ctx
  let q := l.unb.getD (0, 0)
  let lost : State := ((s.bindFailed c q.1 q.2).modLane wid lane (fun x => { x with unb := none })).stopLane wid lane f
  let stuck (g : LFault) : State := if g.code = .page then (s.keepTrap wid lane f pc).holdLane wid lane .load g else lost
  match s.toUnbFrame wid lane with
  | .fault g => stuck g
  | .miss ps => (s.keepTrap wid lane f pc).askFrame wid ps
  | .ok fs =>
    match fs.getLast? with
    | none => lost
    | some (fb, t) =>
      match s.localWords wid lane fb 0x20 4 with
      | .fault g => stuck g
      | .miss ps => (s.keepTrap wid lane f pc).askFrame wid ps
      | .ok sv =>
        let es := (fs.filter (fun x => x.2.hv)).map (fun x => x.2.ent)
        match s.entryPage c (q.1 :: es) with
        | some g => (s.keepTrap wid lane f pc).holdLane wid lane .load g
        | none =>
          let s1 := es.foldl (fun x e => x.holdDown c e) s
          (s1.bindFailed c q.1 q.2).popTrap wid lane fb t sv

/-! ### Delivery (R405, R406) -/

/-- Whether a byte range of an I-pad is used by a residency. -/
def Resid.over (e : Resid) (lo len : Nat) : Bool := decide (e.off < lo + len) && decide (lo < e.off + (e.len + 4095) / 4096 * 4096)

/-- The lowest free range of the I-pad, in units of 4 KiB (R410). -/
def freeIpad (rs : List Resid) (len : Nat) : Option Nat :=
  ((List.range (Config.ipadBytes / 4096)).map (· * 4096)).find? (fun lo =>
    decide (lo + len ≤ Config.ipadBytes) && !rs.any (fun e => e.over lo len))

/-- Whether a resident lane of a core has its PC in a segment of a context (R291). -/
def State.pcIn (s : State) (core : Nat) (e : Resid) : Bool :=
  s.wefts.any (fun w => w.core == core && (s.panel w.panel).ctx == e.ctx &&
    w.lanes.any (fun l => l.st != .exited && segOf l.pc == e.seg))

/-- Evict resident segments in least-recently-entered order until a range is free (R410): the residencies kept and the
range. -/
def State.makeIpad (s : State) (core : Nat) (len : Nat) : Nat → List Resid → Option (List Resid × Nat)
  | 0, rs => (freeIpad rs len).map (fun o => (rs, o))
  | n + 1, rs =>
    match freeIpad rs len with
    | some o => some (rs, o)
    | none =>
      let able := rs.filter (fun e => !s.pcIn core e)
      match able.find? (fun e => able.all (fun x => e.entered ≤ x.entered)) with
      | none => none
      | some v => s.makeIpad core len n (rs.filter (· != v))

/-- The range of a segment's OVERLAY entry (R410): the state after evictions, the I-pad offset and the length; none where no
range can be made. The range is cleared (R91). -/
def State.overlayRange (s : State) (core : Nat) (c : CtxId) (t : DWord) : Option (State × Nat × Nat) :=
  match s.descOf core c (segOf t) with
  | .error _ => some (s, 0, 0)
  | .ok d =>
    let len := (d.limit + 1 + 4095) / 4096 * 4096
    (s.makeIpad core len (s.core core).resid.length (s.core core).resid).map fun q =>
      let s1 := s.modCore core (fun x => { x with resid := q.1 })
      (s1.write (wrs ((List.range len).map (fun i => Loc.chip (coreBlock core + ipadOff + q.2 + i) false)) (List.replicate len 0)), q.2,
        d.limit + 1)

/-- A spill home as an address in the owner's save segment (R409, R412): 0 when the owner panel has ended. -/
def State.spillHome (s : State) (core tile : Nat) : DWord :=
  match (s.core core).homes.getD tile none with
  | none => 0
  | some (c, block, k) =>
    mkAddr (s.ctx c).saveSeg (BitVec.ofNat 40 (blockBase block +
      (if tile < 8 then 0x100000 + 0x8000 * k else 0x140000 + 0x10000 * k)))

/-- Whether a fault is an ACCOWN on a tile of another function (R455). -/
def State.otherFunction (s : State) (c : CtxId) (f : LFault) : Bool :=
  f.code == .accown && (s.ctx (BitVec.ofNat 16 (f.info / 256))).func != (s.ctx c).func

/-- A fault other than UNBOUND is delivered to a lane standing at RET (R405). An OVERLAY entry for which no range can be made
waits. The die controller serves an ACCOWN on a tile of another function, the lane parked (R455); the PAGE of a matrix word that a
pager declined stops the lane (R77, R346). A fault in an UNBOUND handler ends it, which changes its entry and so is a commit point (R50,
R389). -/
def State.deliver (s : State) (wid lane : Nat) (f : LFault) (pc : DWord) : State :=
  let w := s.weft wid
  let c := (s.panel w.panel).ctx
  if s.otherFunction c f then
    (s.modLane wid lane (fun l => { l with st := .parked .spill, trap := (f, pc) :: l.trap })).report "cross-function accown" c
      [wid, lane, f.info, f.extra.toNat]
  else if (w.lane lane).sys then
    if (w.lane lane).unb.isNone then s.stopLane wid lane f
    else (s.keepTrap wid lane f pc).atCommit w.panel (fun _ => false) (fun y => (y.dropTrap wid lane).handlerFault wid lane f pc)
  else if f.code = .page then s.stopLane wid lane f
  else
    let n := f.code.code
    let e := s.trapEntry c (if f.code = .trap then 0x100 + 8 * f.info else 8 * n)
    if e.1 = 0 then
      let s1 := s.stopLane wid lane f
      if e.2 then s1.report "trap table" c [n] else s1
    else
      let go (s : State) (addr extra : DWord) : State :=
        match s.enterHandler wid lane e.1 (s.weft wid |>.lane lane).pc 2
            [addr.toNat, codeWord n f.reason lane f.info, pc.toNat, extra.toNat] [] 0x60 with
        | .ok s1 => s1
        | .fault _ => s.stopLane wid lane f
        | .miss ps => (s.keepTrap wid lane f pc).askFrame wid ps
      if f.code = .overlay then
        match s.overlayRange w.core c f.addr with
        | none => s.keepTrap wid lane f pc
        | some (s1, off, len) => go s1 f.addr (BitVec.ofNat 64 (off + len * 65536))
      else if f.code = .accown then go s (s.spillHome (bitsOf f.extra.toNat 9 0) (f.info % 16)) f.extra
      else go s f.addr f.extra

/-- Release a fault subgroup: its lanes execute their word again (R76). -/
def Weft.releaseSub (w : Weft) (k : Nat) : Weft :=
  { w with subs := w.subs.set k Sub.free }.unpark (fun p => match p with
    | .fault i => i == k
    | .bind _ | .push _ _ | .rejoin _ | .heldWait _ | .barrier _ _ _ | .step _ | .spill | .walk _ | .nwait | .node | .hold | .held => false)

/-- A declined subgroup: every lane of it stops with PAGE and its reason (R77); a lane that was to enter the UNBOUND handler gives its
entry up (R385), and a lane that was to be ended stays stopped (R290). -/
def State.declineSub (s : State) (wid k : Nat) : State :=
  let g := (s.weft wid).subs.getD k Sub.free
  let s1 := s.modWeft wid (fun w => { w with subs := w.subs.set k Sub.free })
  (lanesOf g.lanes).foldl (fun x i =>
    let l := (x.weft wid).lane i
    let e := (g.pages.find? (fun p => p.lanes.getLsbD i)).getD ⟨0, .load, 1, 0, []⟩
    if l.trap.any (fun q => q.1.code == .unbound) then
      (x.dropUnbound wid i).modLane wid i (fun l => { l with st := .active })
    else if l.pos = .ending then
      (x.modLane wid i (fun l => { l with pos := if l.pc = (x.panel (x.weft wid).panel).launch.entry ∧ l.fb = 0x20 ∧ l.sp = 0x20 then .launch
          else .resume })).report "end refused" (x.panel (x.weft wid).panel).ctx
        [wid, i, (e.atLane i).toNat]
    else x.stopLane wid i (pageFault e.reason (e.atLane i))) s1

/-- The faults of a word: its lanes stand at the word again; PAGE lanes form a subgroup, the others take their faults in
ascending lane order (R75, R403, R405). A lane that has exited or stopped takes none (R5). -/
def State.faultLanes (s : State) (wid : Nat) (pc : DWord) (hdr : Off) (cls : Cls) (fs0 : List (Nat × LFault)) : State :=
  let fs := fs0.filter (fun lf => match ((s.weft wid).lane lf.1).st with
    | .exited | .stopped _ => false
    | .active | .parked _ => true)
  if fs.isEmpty then s
  else
    let s0 := (fs.foldl (fun y lf => y.quitLate wid lf.1) s).modWeft wid (fun w => fs.foldl (fun x lf =>
      x.modLane lf.1 (fun l => { l with pc := pc, pos := .inside hdr, st := .active })) w)
    let sysL (i : Nat) : Bool := ((s0.weft wid).lane i).sys
    let pages := fs.filter (fun lf => lf.2.code == .page && !sysL lf.1)
    let others := fs.filter (fun lf => !(lf.2.code == .page && !sysL lf.1))
    others.foldl (fun x lf => x.deliver wid lf.1 lf.2 pc) ((s0.takeWalks (whoFor (s0.weft wid).core wid)).pageLanes wid pages cls)

/-! ### The root frame (R284) -/

/-- FSIZE and BUD of the `enter` that begins the entry clause; 0 where the scheduler cannot read that word, or it is none. -/
def State.enterFields (s : State) (c : CtxId) (entry : DWord) : Nat × Nat :=
  match s.deviceRead c (segOf entry) ((offOf entry).toNat + 8) 8 with
  | .error _ => (0, 0)
  | .ok w =>
    let x : DWord := BitVec.ofNat 64 w
    if fld x 58 6 = 0x24 ∧ fld x 44 6 = 0 then ((fld x 0 13).toNat, (fld x 16 4).toNat) else (0, 0)

/-- The root link record of a lane (R284): on PAGE the lane waits for the pager, and any other failure stops it. -/
def State.rootLink (s : State) (wid lane : Nat) : State :=
  let p := s.panel (s.weft wid).panel
  let en := p.launch.entry
  let pages (f : LFault) : State := (s.modLane wid lane (fun l => { l with pos := .launch })).holdLane wid lane .store f
  match s.check (s.reqNow wid lane) .store (mkAddr segSTK 0) 0 32 8 with
  | .miss ps => s.askFrame wid ps
  | .fault f => if f.code = .page then pages f else s.stopLane wid lane f
  | .ok q =>
    let z := s.enterFields p.ctx en
    let link : Frame := ⟨0, (segOf en).toNat, (offOf en).toNat % 65536, z.1, z.2, false, 0, 0, 0, 0, false⟩
    (s.write (wrs q.2.2.2 (natLE 32 link.word))).modLane wid lane (fun l => { l with pos := .header })

/-! ### Faults that wait for their delivery (R385, R405) -/

/-- A fault waiting for its delivery is delivered before the lane issues again; a lane that is parked takes it too, and goes back to what
it waits for after its handler (R330). UNBOUND goes on at its frame, and where it fails its entry changes, at a commit point (R50, R385,
R405). -/
def State.deliverPending (s0 : State) (wid lane : Nat) : State :=
  let l := (s0.weft wid).lane lane
  match l.trap with
  | [] => s0
  | (f, pc) :: _ =>
    let s := match l.st with
      | .parked p => s0.modLane wid lane (fun x => { x with back := some p })
      | .active | .exited | .stopped _ => s0
    if f.code = .unbound then
      s.atCommit (s.weft wid).panel (fun _ => false) (fun y => (y.dropTrap wid lane).unboundFrame wid lane f pc)
    else (s.dropTrap wid lane).deliver wid lane f pc

/-! ### Ending a lane (R290) -/

/-- A lane has exited: it leaves every mask and never issues again (R172, R290). -/
def State.exitLane (s : State) (wid lane : Nat) : State :=
  let hh := ((s.weft wid).lane lane).hh
  let s1 := (s.quitLate wid lane).modWeft wid (fun w => (w.modLane lane (fun l => { l with st := .exited, hh := none, trap := [], unb := none })).leaveMasks lane)
  match hh with
  | some r => s1.sweepFut r
  | none => s1

end Sys2Proof.Machine
end

