-- ==== Sys2Proof/Machine/Operands.lean ====
section
/-! DEFINITION. Operands (R183, R191) and results of a word: what its lanes read, and how a value reaches its destination
(R174, R175, R183), with poison (R441 to R443). -/
namespace Sys2Proof.Machine

/-- A 64-bit address operand in a lane (R278, R304). -/
def IC.addr (x : IC) (o : Opnd) (lane : Nat) : DWord := x.rd true o lane
/-- A 32-bit operand in a lane as a number. -/
def IC.nat32 (x : IC) (o : Opnd) (lane : Nat) : Nat := (x.rd false o lane).toNat

/-- The keys that a destination writes in a lane (R183). -/
def destKeys (w64 : Bool) (d : Opnd) (lane : Nat) : List Nat := (destWrites w64 d lane 0).map (·.1)

/-- The keys that a word writes (R183): its lanes' registers, or the scalar of its lowest lane. -/
def wordKeys (w64 : Bool) (d : Opnd) (lanes : List Nat) : List Nat := (wordWrites w64 d lanes (fun _ => 0)).map (·.1)

/-- The poisoned keys of a word's result, from the lanes whose result is poisoned. -/
def wordPz (w64 : Bool) (d : Opnd) (lanes : List Nat) (pz : Nat → Bool) : List Nat :=
  match d with
  | .v _ => (lanes.filter pz).flatMap (destKeys w64 d)
  | .s _ => ((lanes.take 1).filter pz).flatMap (destKeys w64 d)
  | .zero => []
  | .lane => []

/-- CIR with a bit set. -/
def setCir (bit : Nat) (v : DWord) : DWord := v ||| (1 <<< bit)

/-- A consumption of poisoned data by lanes of a word (R442): CIR, and the record of the die controller. -/
def State.consume (s : State) (x : IC) (lanes : List Nat) : State :=
  if lanes.isEmpty then s
  else
    let n := (s.ctx x.p.ctx).cir.toNat
    let cnt := min (bitsOf n 15 0 + 1) 0xFFFF
    (s.modCtx x.p.ctx (fun c => { c with cir := setCir 16 (BitVec.ofNat 64 (n / 65536 * 65536 + cnt)) })).report
      "poison" x.p.ctx [x.pc.toNat, (maskOf lanes).toNat]

/-- Lanes that read a poisoned address, condition or length stop (R443): code 0, and CIR.PSN is set. -/
def State.stopPoison (s : State) (x : IC) (lanes : List Nat) : State :=
  if lanes.isEmpty then s
  else
    let s1 := s.modCtx x.p.ctx (fun c => { c with cir := setCir 16 c.cir })
    lanes.foldl (fun y i =>
      (y.modLane x.w.id i (fun l => { l with pc := x.pc, pos := .inside x.hdr })).stopLane x.w.id i ⟨.none, 0, 0, 0, 0⟩) s1

/-- A fixed-latency result of a counted instruction is a part of it until it is readable (R174, R182). -/
def Weft.addDue (w : Weft) (id slot lat : Nat) : Weft :=
  { w with tracks := w.tracks.map (fun t =>
      if t.id = id ∧ t.flag ≠ 0 then { t with left := t.left + 1, due := (slot, lat) :: t.due } else t) }
/-- The results of a fixed-latency word (R174). -/
def State.fixed (s : State) (x : IC) (lat : Nat) (vs : List (Nat × DWord)) (pz : List Nat := []) : State :=
  s.modWeft x.w.id (fun w => if vs.isEmpty then w else (w.addFixed x.slot lat vs pz).addDue x.track x.slot lat)

/-- More parts of the word's counted instruction (R305). -/
def Weft.addParts (w : Weft) (id n : Nat) : Weft :=
  { w with tracks := w.tracks.map (fun t => if t.id = id then { t with left := t.left + n } else t) }
/-- More parts of an instruction of a weft. -/
def State.addParts (s : State) (wid id n : Nat) : State := s.modWeft wid (fun w => w.addParts id n)

/-- The results of a flag-tracked word (R175): written when its unit completes. -/
def State.tracked (s : State) (x : IC) (vs : List (Nat × DWord)) (pz : List Nat := []) : State :=
  if vs.isEmpty then s
  else s.modWeft x.w.id (fun w => (w.addTracked x.track vs pz).addParts x.track 1)

/-- A result that waits on no unit: written as its word issues, its flag falling at once. -/
def State.atOnce (s : State) (x : IC) (vs : List (Nat × DWord)) (pz : List Nat := []) : State :=
  s.modWeft x.w.id (fun w => w.setRegs vs pz)

end Sys2Proof.Machine
end

