-- ==== Sys2Proof/Machine/Flags.lean ====
section
/-! DEFINITION. The issue of an instruction word: completion flags and their parts (R175, R305), slot history (R173), the
clause position (R181), BUDGET and PRIV (R176, R193, R198), and words held at issue (R348). -/
namespace Sys2Proof.Machine

/-- What a word does when it is due: it issues and has its effect; it is held; or a check raises a fault on lanes, nothing
else happening (R198). -/
inductive Plan where
  | go (f : State → State)
  | hold (f : State → State)
  | raise (lanes : List Nat) (f : LFault)
  /-- Some lanes pass and the word is performed by them; others take their faults; others stop, having read a poisoned value
  for which none can stand (R443). -/
  | part (pass : List Nat) (f : IC → State → State) (bad : List (Nat × LFault)) (stop : List Nat)
  /-- Something happens at the word, which does not issue. -/
  | stay (f : State → State)
  /-- The word issues; some lanes pass at once, and others, by the pages that they miss, go on after their walks (R74). -/
  | walk (pass : List Nat) (f : IC → State → State) (bad : List (Nat × LFault)) (stop miss : List Nat) (pages : List PageReq)

/-- Whether the word at an offset is the last of the clause whose header is at another. -/
def State.lastWord (s : State) (core : Nat) (c : CtxId) (seg : Seg) (hdr off : Off) : Bool :=
  match decodeHeader (s.fetchWord core c seg hdr.toNat) with
  | some h => off.toNat == hdr.toNat + 8 * (h.count.toNat + 1)
  | none => true

/-- The position after a word (R181). -/
def State.nextPos (s : State) (x : IC) : Pos :=
  if s.lastWord x.w.core x.p.ctx (segOf x.pc) x.hdr (offOf x.pc) then .header else .inside x.hdr

/-- The slot of an issued word moves from STRUCT.RES, where the choice of its weft put it, to its leaf; LANES grows (R481). -/
def State.countIssue (s : State) (x : IC) : State :=
  let c := x.p.ctx
  let other := (List.range 32).any (fun i => !x.lanes.contains i && (x.w.lane i).last == some x.slot)
  let full := (List.range 32).all (fun i => x.lanes.contains i || (x.w.lane i).st == .exited)
  let s1 := s.modCount c 13 (· + x.lanes.length)
  if other then (s1.modCount c 3 (· - 1)).modCount c 1 (· + 1)
  else (s1.modCount c 12 (· - 1)).modCount c (if full then 2 else 3) (· + 1)

/-- The lanes of a word of a weft issue it: slot history, PC and clause position (R173, R181); SW parks the weft (R175); FLAG counts
it (R175). -/
def Weft.issueWord (w : Weft) (x : IC) (c : Common) (pos : Pos) : Weft :=
  ({ w with
      lanes := w.lanes.mapIdx (fun i l =>
        if x.lanes.contains i then { l with last := some x.slot, pc := x.pc + 8, pos := pos, shadow := none } else l),
      swWait := w.swWait || c.sw,
      hang := 0,
      tracks := ⟨x.track, c.flag.toNat, 1, []⟩ :: w.tracks } : Weft).flagUp c.flag.toNat

/-- A word issues in its weft; the slot is counted (R481). -/
def State.issued (s : State) (x : IC) (c : Common) : State :=
  let s1 := (s.modWeft x.w.id (fun w => w.issueWord x c (s.nextPos x))).countIssue x
  { s1 with nextId := s.nextId + 1, fresh := s.fresh + 1 }

/-- A word whose checks pass: it issues, has its effect, and its own part ends (R175, R305). -/
def State.perform (s : State) (x : IC) (c : Common) (f : State → State) : State :=
  (f (s.issued x c)).partDone x.w.id x.track

/-- The lanes of a word are held at it (R348). -/
def State.holdWord (s : State) (x : IC) : State := s.modWeft x.w.id (fun w => w.park x.lanes .held)

/-- The lanes of a word stand at it, inside its clause. -/
def State.atWord (s : State) (x : IC) : State :=
  s.modWeft x.w.id (fun w => { w with lanes := w.lanes.mapIdx (fun i l =>
    if x.lanes.contains i then { l with pc := x.pc, pos := .inside x.hdr } else l) })

/-- Whether counting the word would raise its flag above 63 (R175). -/
def IC.flagFull (x : IC) (c : Common) : Bool := c.flag != 0 && 63 ≤ x.w.flag c.flag.toNat

/-- The state in which the current word reads its operands: results readable in its slot are settled (R174). -/
def State.ready (s : State) (sw : SlotWord) : State :=
  { s.modWeft sw.weft (fun w => w.settled sw.slot (s.core w.core).picks) with cur := none }

/-- Whether a word may be a commit point of a REPLAY panel (R148, R331). -/
def viewCommits : View → Bool
  | .fM _ _ _ _ => true
  | .fE _ _ _ _ => true
  | .fX op _ _ f => !(op == 0x38 || (op == 0x3A && f.ety == .bf16))
  | .fC op _ _ _ => op == 0x22 || op == 0x23 || op == 0x25
  | .fS _ _ _ _ => true
  | .fVI _ _ _ f => f.ty == .b64
  | .fV3 _ _ _ _ _ => false
  | .event => false

/-- Lanes go past a word that they do not issue: no slot is recorded (R198). -/
def State.passBy (s : State) (x : IC) (ls : List Nat) : State :=
  s.modWeft x.w.id (fun w => { w with lanes := w.lanes.mapIdx (fun i l =>
    if ls.contains i then { l with pc := x.pc + 8, pos := s.nextPos x } else l) })

/-- A check of R197 fails: its fault acts on every active lane of the path, of a matrix word on the agent alone, the others going past
the word (R198, R330). -/
def State.refuse (s : State) (x : IC) (matrix : Bool) (cls : Cls) (f : LFault) : State :=
  if matrix then (s.passBy x (x.lanes.filter (· != x.agent))).faultLanes x.w.id x.pc x.hdr cls [(x.agent, f)]
  else s.faultLanes x.w.id x.pc x.hdr cls (x.lanes.map (fun i => (i, f)))

/-! ### Lanes that wait for walks (R74) -/

/-- The places kept in a weft's store queue for some lanes of a counted instruction are given up. -/
def Weft.dropAwaits (w : Weft) (ls : List Nat) (track : Nat) : Weft :=
  { w with sq := w.sq.filter (fun e => !(e.op == .await && e.track == track && ls.contains e.lane)) }

/-- The lanes of an issued word that miss pages stand at it until their walks have ended: each is a part of the word's flag; every lane of
the word keeps its place in the store queue (R74, R132). -/
def State.waitWalks (s : State) (x : IC) (miss : List Nat) (pages : List PageReq) : State :=
  let s1 := s.modWeft x.w.id (fun w => ({ w with lanes := w.lanes.mapIdx (fun i l =>
    if miss.contains i then { l with pc := x.pc, pos := .inside x.hdr, st := .parked (.walk x.track) } else l) } : Weft).addParts x.track
      miss.length)
  let s2 := x.lanes.foldl (fun y i => y.enqueue x.w.id i x.track x.sys x.pc x.hdr .await) s1
  let q : Late := ⟨x.track, x.w.id, maskOf miss, x.pc, x.hdr, x.slot,
    ((List.range 64).flatMap (fun n => [keyS n]) ++ miss.flatMap (fun i => (List.range 256).map (keyV i))).filterMap (fun k =>
      if x.key k = 0 then none else some (k, x.key k)),
    ((List.range 64).map keyS ++ miss.flatMap (fun i => (List.range 256).map (keyV i))).filter x.pzKey,
    ((pages.map (fun p => p.2.1)).eraseDups).filterMap (fun seg => match s.descOf x.w.core x.p.ctx seg with
      | .ok d => some (seg, d)
      | .error _ => none)⟩
  ({ s2 with lates := s2.lates ++ [q] } : State).admitMisses (whoFor x.w.core x.track) x.w.core pages

/-- Lanes of an issued word wait no longer. -/
def State.endLate (s : State) (x : IC) (ls : List Nat) : State := ls.foldl (fun y i => y.leaveWalk x.w.id i x.track) s

/-- Lanes of an issued word whose walks have ended perform it, and go past it. -/
def State.performLate (s : State) (x : IC) (ls : List Nat) (f : IC → State → State) : State :=
  if ls.isEmpty then s
  else
    let y : IC := { x with lanes := ls }
    (f y (s.modWeft x.w.id (fun w => { w with lanes := w.lanes.mapIdx (fun i l =>
      if ls.contains i then { l with pc := x.pc + 8, pos := s.nextPos x, st := .active } else l) }))).endLate x ls

/-- Lanes of an issued word execute it again. -/
def State.lateAgain (s : State) (x : IC) : State :=
  (s.modWeft x.w.id (fun w => { w with lanes := w.lanes.mapIdx (fun i l =>
    if x.lanes.contains i then { l with st := .active } else l) })).endLate x x.lanes

/-- What the lanes of an issued word do after their walks, given the word's plan: they perform it, take its faults, or wait for further
pages; where the word is held, they execute it again. -/
def State.doLate (s : State) (x : IC) (plan : Plan) : State :=
  let who := whoFor x.w.core x.track
  let split (ls : List Nat) (f : IC → State → State) (bad : List (Nat × LFault)) (stop : List Nat) : State :=
    let s1 := (s.performLate x ls f).endLate x (bad.map (·.1) ++ stop)
    (s1.stopPoison x stop).faultLanes x.w.id x.pc x.hdr .load bad
  match plan with
  | .go f => (s.performLate x x.lanes (fun _ => f)).takeWalks who
  | .hold f => (f (s.lateAgain x)).takeWalks who
  | .raise ls f => (split [] (fun _ y => y) (ls.map (fun i => (i, f))) []).takeWalks who
  | .part ls f bad stop => (split ls f bad stop).takeWalks who
  | .stay f => (f (s.lateAgain x)).takeWalks who
  | .walk ls f bad stop _ pages => (split ls f bad stop).admitMisses who x.w.core pages

/-! ### What a word does -/

/-- A word of which some lanes miss pages (R74): held where the core's miss queue does not admit them, else issued. -/
def State.issueWalk (s : State) (x : IC) (c : Common) (ls : List Nat) (f : IC → State → State) (bad : List (Nat × LFault))
    (stop miss : List Nat) (pages : List PageReq) : State :=
  if !s.missFits x.w.core pages then s.holdWord x
  else
    let all : IC := { x with lanes := x.lanes.filter (fun i => ls.contains i || miss.contains i) }
    let y : IC := { x with lanes := ls }
    let s1 := ((s.atWord x).issued all c).waitWalks all miss pages
    let s2 := (if ls.isEmpty then s1 else f y s1).modWeft x.w.id (fun w => w.dropAwaits ls x.track)
    ((s2.partDone x.w.id x.track).stopPoison x stop).faultLanes x.w.id x.pc x.hdr .load bad

/-- What a word does, given its plan: the rest of R197 first, BUDGET, then PRIV, then the plan (R197, R198, R304). -/
def State.doPlan (s : State) (x : IC) (v : View) (sysOnly : Bool) (plan : IC → State → Plan) : State :=
  if x.lanes.isEmpty then s
  else if x.late then s.doLate x (plan x s)
  else if v.gmBad (coreIdx x.w.core) then s.refuse x true .load (illFault .field x.pc)
  else if v.overBudget x.p.alloc then
    s.refuse x v.isMatrix .load ⟨.budget, 0, 0, 0, 0⟩
  else if sysOnly && !x.sys then
    s.refuse x v.isMatrix .load ⟨.priv, 0, 0, 0, 0⟩
  else if x.flagFull v.common then s.holdWord x
  else if x.p.launch.replay && viewCommits v && s.beamBusy x.p.id then s.holdWord x
  else match plan x s with
    | .go f => s.perform x v.common f
    | .hold f => (f s).holdWord x
    | .raise ls f => s.faultLanes x.w.id x.pc x.hdr .load (ls.map (fun i => (i, f)))
    | .part ls f bad stop =>
      let y : IC := { x with lanes := ls }
      let s1 := if ls.isEmpty then s.atWord x else (s.atWord x).perform y v.common (f y)
      (s1.stopPoison x stop).faultLanes x.w.id x.pc x.hdr .load bad
    | .stay f => f (s.atWord x)
    | .walk ls f bad stop miss pages => s.issueWalk x v.common ls f bad stop miss pages

/-- An instruction word is performed by the lanes that the issue stage chose for it; where no word is due, nothing
happens. -/
def runWord (v : View) (sysOnly : Bool) (plan : IC → State → Plan) (s : State) : Host.Outcome State Fault Refusal :=
  match s.cur with
  | none => .next s
  | some sw =>
    let s1 := s.ready sw
    .next (s1.doPlan (icOf s1 sw) v sysOnly plan)

/-- A word that only issues and has an effect. -/
def simpleWord (v : View) (f : IC → State → State) (s : State) : Host.Outcome State Fault Refusal :=
  runWord v false (fun x _ => .go (f x)) s

/-- The values of an arithmetic word (R174, R175): the fixed latency, or none for a flag-tracked unit; the destination; each
lane's poison and value. Poisoned operands are consumed (R442). -/
def valueWord (v : View) (lat : Option Nat) (w64 : Bool) (d : Opnd) (pz : IC → Nat → Bool) (f : IC → Nat → DWord) (s : State) :
    Host.Outcome State Fault Refusal :=
  simpleWord v (fun x s1 =>
    let vs := wordWrites w64 d x.lanes (f x)
    let ps := wordPz w64 d x.lanes (pz x)
    let s2 := match lat with
      | some n => s1.fixed x n vs ps
      | none => s1.tracked x vs ps
    s2.consume x (x.lanes.filter (pz x))) s

end Sys2Proof.Machine
end

