-- ==== Sys2Proof/Machine/IntBit.lean ====
section
/-! DEFINITION. Integer and bit instructions (R240 to R258): each active lane's value under the fixed latency 4 (R242). -/
namespace Sys2Proof.Machine

/-- The latency of the integer ALU (R174, R242). -/
def latInt : Nat := 4

/-- An ALU word without sources. -/
def alu0 (v : View) (d64 : Bool) (d : Opnd) (g : IC → Nat → DWord) (s : State) : Host.Outcome State Fault Refusal :=
  valueWord v (some latInt) d64 d (fun _ _ => false) g s
/-- An ALU word with one source. -/
def alu1 (v : View) (d64 : Bool) (d : Opnd) (a64 : Bool) (a : Opnd) (g : DWord → DWord) (s : State) :
    Host.Outcome State Fault Refusal :=
  valueWord v (some latInt) d64 d (fun x i => x.pz a64 a i) (fun x i => g (x.rd a64 a i)) s
/-- An ALU word with two sources. -/
def alu2 (v : View) (d64 : Bool) (d : Opnd) (a64 : Bool) (a : Opnd) (b64 : Bool) (b : Opnd) (g : DWord → DWord → DWord)
    (s : State) : Host.Outcome State Fault Refusal :=
  valueWord v (some latInt) d64 d (fun x i => x.pz a64 a i || x.pz b64 b i) (fun x i => g (x.rd a64 a i) (x.rd b64 b i)) s
/-- An ALU word with three sources. -/
def alu3 (v : View) (d64 : Bool) (d : Opnd) (a64 : Bool) (a : Opnd) (b64 : Bool) (b : Opnd) (c64 : Bool) (c : Opnd)
    (g : DWord → DWord → DWord → DWord) (s : State) : Host.Outcome State Fault Refusal :=
  valueWord v (some latInt) d64 d (fun x i => x.pz a64 a i || x.pz b64 b i || x.pz c64 c i)
    (fun x i => g (x.rd a64 a i) (x.rd b64 b i) (x.rd c64 c i)) s

/-- The six scalars of a `bperm` table (R257). -/
def tableOps (b : Opnd) : List Opnd :=
  match b with
  | .s n => (List.range 6).map (fun k => .s (n + BitVec.ofNat 6 k))
  | .v _ => []
  | .zero => []
  | .lane => []

/-- a + b, wrapping or saturating (R244). -/
def execIntAdd (c : Common) (f : V3) (s : State) : Host.Outcome State Fault Refusal :=
  alu2 (Instr.intAdd c f).view f.ty.is64 f.d f.ty.is64 f.a f.ty.is64 f.b (fnAdd f.ty f.sat) s

/-- a − b, wrapping or saturating (R244). -/
def execIntSub (c : Common) (f : V3) (s : State) : Host.Outcome State Fault Refusal :=
  alu2 (Instr.intSub c f).view f.ty.is64 f.d f.ty.is64 f.a f.ty.is64 f.b (fnSub f.ty f.sat) s

/-- The low W bits of a × b (R244). -/
def execIntMul (c : Common) (f : V3) (s : State) : Host.Outcome State Fault Refusal :=
  alu2 (Instr.intMul c f).view f.ty.is64 f.d f.ty.is64 f.a f.ty.is64 f.b (fnMul f.ty) s

/-- The high W bits of the 2W-bit product (R244). -/
def execMulhi (c : Common) (f : V3) (s : State) : Host.Outcome State Fault Refusal :=
  alu2 (Instr.mulhi c f).view f.ty.is64 f.d f.ty.is64 f.a f.ty.is64 f.b (fnMulhi f.ty) s

/-- a × b + c (R244). -/
def execMad (c : Common) (f : V3) (s : State) : Host.Outcome State Fault Refusal :=
  alu3 (Instr.mad c f).view f.ty.is64 f.d f.ty.is64 f.a f.ty.is64 f.b f.ty.is64 f.c (fnMad f.ty f.sat) s

/-- The smaller (R244). -/
def execIntMin (c : Common) (f : V3) (s : State) : Host.Outcome State Fault Refusal :=
  alu2 (Instr.intMin c f).view f.ty.is64 f.d f.ty.is64 f.a f.ty.is64 f.b (fnMin f.ty) s

/-- The larger (R244). -/
def execIntMax (c : Common) (f : V3) (s : State) : Host.Outcome State Fault Refusal :=
  alu2 (Instr.intMax c f).view f.ty.is64 f.d f.ty.is64 f.a f.ty.is64 f.b (fnMax f.ty) s

/-- |a|, wrapping (R244). -/
def execIntAbs (c : Common) (f : V3) (s : State) : Host.Outcome State Fault Refusal :=
  alu1 (Instr.intAbs c f).view f.ty.is64 f.d f.ty.is64 f.a (fnAbs f.ty) s

/-- −a, wrapping (R244). -/
def execIntNeg (c : Common) (f : V3) (s : State) : Host.Outcome State Fault Refusal :=
  alu1 (Instr.intNeg c f).view f.ty.is64 f.d f.ty.is64 f.a (fnNeg f.ty) s

/-- |a − b| + c (R244). -/
def execSad (c : Common) (f : V3) (s : State) : Host.Outcome State Fault Refusal :=
  alu3 (Instr.sad c f).view f.ty.is64 f.d f.ty.is64 f.a f.ty.is64 f.b f.ty.is64 f.c (fnSad f.ty) s

/-- a + IMM (R247). -/
def execAddi (c : Common) (f : VI) (s : State) : Host.Outcome State Fault Refusal :=
  alu1 (Instr.addi c f).view f.ty.is64 f.d f.ty.is64 f.a (fun a => fnAdd f.ty false a (immOf f.ty f.imm)) s

/-- The low W bits of a × IMM (R247). -/
def execMuli (c : Common) (f : VI) (s : State) : Host.Outcome State Fault Refusal :=
  alu1 (Instr.muli c f).view f.ty.is64 f.d f.ty.is64 f.a (fun a => fnMul f.ty a (immOf f.ty f.imm)) s

/-- IMM, zero-extended (R247). -/
def execMovi (c : Common) (f : VI) (s : State) : Host.Outcome State Fault Refusal :=
  alu0 (Instr.movi c f).view f.ty.is64 f.d (fun _ _ => immOf f.ty f.imm) s

/-- IMM into the high bits (R247). -/
def execMovhi (c : Common) (f : VI) (s : State) : Host.Outcome State Fault Refusal :=
  alu1 (Instr.movhi c f).view f.ty.is64 f.d f.ty.is64 f.a (fun a => fnMovhi f.ty.width a f.imm) s

/-- a AND IMM (R247). -/
def execAndi (c : Common) (f : VI) (s : State) : Host.Outcome State Fault Refusal :=
  alu1 (Instr.andi c f).view f.ty.is64 f.d f.ty.is64 f.a (fun a => a &&& immOf f.ty f.imm) s

/-- a OR IMM (R247). -/
def execOri (c : Common) (f : VI) (s : State) : Host.Outcome State Fault Refusal :=
  alu1 (Instr.ori c f).view f.ty.is64 f.d f.ty.is64 f.a (fun a => a ||| immOf f.ty f.imm) s

/-- a XOR IMM (R247). -/
def execXori (c : Common) (f : VI) (s : State) : Host.Outcome State Fault Refusal :=
  alu1 (Instr.xori c f).view f.ty.is64 f.d f.ty.is64 f.a (fun a => a ^^^ immOf f.ty f.imm) s

/-- Shift left by IMM (R247). -/
def execShli (c : Common) (f : VI) (s : State) : Host.Outcome State Fault Refusal :=
  alu1 (Instr.shli c f).view f.ty.is64 f.d f.ty.is64 f.a (fun a => fnShl f.ty.width a f.imm.toNat) s

/-- Logical shift right by IMM (R247). -/
def execShri (c : Common) (f : VI) (s : State) : Host.Outcome State Fault Refusal :=
  alu1 (Instr.shri c f).view f.ty.is64 f.d f.ty.is64 f.a (fun a => fnShr f.ty.width a f.imm.toNat) s

/-- Arithmetic shift right by IMM (R247). -/
def execSrai (c : Common) (f : VI) (s : State) : Host.Outcome State Fault Refusal :=
  alu1 (Instr.srai c f).view f.ty.is64 f.d f.ty.is64 f.a (fun a => fnSra f.ty.width a f.imm.toNat) s

/-- a AND b (R248). -/
def execAnd (c : Common) (f : V3) (s : State) : Host.Outcome State Fault Refusal :=
  alu2 (Instr.and c f).view f.ty.is64 f.d f.ty.is64 f.a f.ty.is64 f.b (fun a b => a &&& b) s

/-- a OR b (R248). -/
def execOr (c : Common) (f : V3) (s : State) : Host.Outcome State Fault Refusal :=
  alu2 (Instr.or c f).view f.ty.is64 f.d f.ty.is64 f.a f.ty.is64 f.b (fun a b => a ||| b) s

/-- a XOR b (R248). -/
def execXor (c : Common) (f : V3) (s : State) : Host.Outcome State Fault Refusal :=
  alu2 (Instr.xor c f).view f.ty.is64 f.d f.ty.is64 f.a f.ty.is64 f.b (fun a b => a ^^^ b) s

/-- a AND NOT b (R248). -/
def execAndn (c : Common) (f : V3) (s : State) : Host.Outcome State Fault Refusal :=
  alu2 (Instr.andn c f).view f.ty.is64 f.d f.ty.is64 f.a f.ty.is64 f.b (fun a b => a &&& fnNot f.ty.width b) s

/-- a OR NOT b (R248). -/
def execOrn (c : Common) (f : V3) (s : State) : Host.Outcome State Fault Refusal :=
  alu2 (Instr.orn c f).view f.ty.is64 f.d f.ty.is64 f.a f.ty.is64 f.b (fun a b => a ||| fnNot f.ty.width b) s

/-- NOT a (R248). -/
def execNot (c : Common) (f : V3) (s : State) : Host.Outcome State Fault Refusal :=
  alu1 (Instr.not c f).view f.ty.is64 f.d f.ty.is64 f.a (fnNot f.ty.width) s

/-- Bits of a where c is 1, of b where it is 0 (R248). -/
def execBsel (c : Common) (f : V3) (s : State) : Host.Outcome State Fault Refusal :=
  alu3 (Instr.bsel c f).view f.ty.is64 f.d f.ty.is64 f.a f.ty.is64 f.b f.ty.is64 f.c fnBsel s

/-- Shift left (R249). -/
def execShl (c : Common) (f : V3) (s : State) : Host.Outcome State Fault Refusal :=
  alu2 (Instr.shl c f).view f.ty.is64 f.d f.ty.is64 f.a false f.b (fun a b => fnShl f.ty.width a b.toNat) s

/-- Logical shift right (R249). -/
def execShr (c : Common) (f : V3) (s : State) : Host.Outcome State Fault Refusal :=
  alu2 (Instr.shr c f).view f.ty.is64 f.d f.ty.is64 f.a false f.b (fun a b => fnShr f.ty.width a b.toNat) s

/-- Arithmetic shift right (R249). -/
def execSra (c : Common) (f : V3) (s : State) : Host.Outcome State Fault Refusal :=
  alu2 (Instr.sra c f).view f.ty.is64 f.d f.ty.is64 f.a false f.b (fun a b => fnSra f.ty.width a b.toNat) s

/-- Rotate left (R249). -/
def execRotl (c : Common) (f : V3) (s : State) : Host.Outcome State Fault Refusal :=
  alu2 (Instr.rotl c f).view f.ty.is64 f.d f.ty.is64 f.a false f.b (fun a b => fnRotl f.ty.width a b.toNat) s

/-- Rotate right (R249). -/
def execRotr (c : Common) (f : V3) (s : State) : Host.Outcome State Fault Refusal :=
  alu2 (Instr.rotr c f).view f.ty.is64 f.d f.ty.is64 f.a false f.b (fun a b => fnRotr f.ty.width a b.toNat) s

/-- Funnel shift of a:b (R249). -/
def execFsh (c : Common) (f : V3) (s : State) : Host.Outcome State Fault Refusal :=
  alu3 (Instr.fsh c f).view f.ty.is64 f.d f.ty.is64 f.a f.ty.is64 f.b false f.c (fun a b c => fnFsh f.ty.width a b c.toNat) s

/-- 1 when a = b, else 0 (R251). -/
def execIntSeteq (c : Common) (f : V3) (s : State) : Host.Outcome State Fault Refusal :=
  alu2 (Instr.intSeteq c f).view false f.d f.ty.is64 f.a f.ty.is64 f.b (fnSet .eq f.ty) s

/-- 1 when a ≠ b, else 0 (R251). -/
def execIntSetne (c : Common) (f : V3) (s : State) : Host.Outcome State Fault Refusal :=
  alu2 (Instr.intSetne c f).view false f.d f.ty.is64 f.a f.ty.is64 f.b (fnSet .ne f.ty) s

/-- 1 when a < b, else 0 (R251). -/
def execIntSetlt (c : Common) (f : V3) (s : State) : Host.Outcome State Fault Refusal :=
  alu2 (Instr.intSetlt c f).view false f.d f.ty.is64 f.a f.ty.is64 f.b (fnSet .lt f.ty) s

/-- 1 when a ≤ b, else 0 (R251). -/
def execIntSetle (c : Common) (f : V3) (s : State) : Host.Outcome State Fault Refusal :=
  alu2 (Instr.intSetle c f).view false f.d f.ty.is64 f.a f.ty.is64 f.b (fnSet .le f.ty) s

/-- 1 when a > b, else 0 (R251). -/
def execIntSetgt (c : Common) (f : V3) (s : State) : Host.Outcome State Fault Refusal :=
  alu2 (Instr.intSetgt c f).view false f.d f.ty.is64 f.a f.ty.is64 f.b (fnSet .gt f.ty) s

/-- 1 when a ≥ b, else 0 (R251). -/
def execIntSetge (c : Common) (f : V3) (s : State) : Host.Outcome State Fault Refusal :=
  alu2 (Instr.intSetge c f).view false f.d f.ty.is64 f.a f.ty.is64 f.b (fnSet .ge f.ty) s

/-- a where c is not 0, else b (R251). -/
def execSel (c : Common) (f : V3) (s : State) : Host.Outcome State Fault Refusal :=
  alu3 (Instr.sel c f).view f.ty.is64 f.d f.ty.is64 f.a f.ty.is64 f.b false f.c fnSel s

/-- The number of one bits (R250). -/
def execPopc (c : Common) (f : V3) (s : State) : Host.Outcome State Fault Refusal :=
  alu1 (Instr.popc c f).view false f.d f.ty.is64 f.a (fnPopc f.ty.width) s

/-- The number of leading zeros (R250). -/
def execClz (c : Common) (f : V3) (s : State) : Host.Outcome State Fault Refusal :=
  alu1 (Instr.clz c f).view false f.d f.ty.is64 f.a (fnClz f.ty.width) s

/-- The number of trailing zeros (R250). -/
def execCtz (c : Common) (f : V3) (s : State) : Host.Outcome State Fault Refusal :=
  alu1 (Instr.ctz c f).view false f.d f.ty.is64 f.a (fnCtz f.ty.width) s

/-- The bits in reverse order (R250). -/
def execBrev (c : Common) (f : V3) (s : State) : Host.Outcome State Fault Refusal :=
  alu1 (Instr.brev c f).view f.ty.is64 f.d f.ty.is64 f.a (fnBrev f.ty.width) s

/-- A bit field, shifted down (R250). -/
def execBfe (c : Common) (f : V3) (s : State) : Host.Outcome State Fault Refusal :=
  alu2 (Instr.bfe c f).view f.ty.is64 f.d f.ty.is64 f.a false f.c (fnBfe f.ty.width) s

/-- A bit field replaced (R250). -/
def execBfi (c : Common) (f : V3) (s : State) : Host.Outcome State Fault Refusal :=
  alu3 (Instr.bfi c f).view f.ty.is64 f.d f.ty.is64 f.a f.ty.is64 f.b false f.c (fnBfi f.ty.width) s

/-- a[63:40] (R252). -/
def execSegof (c : Common) (f : V3) (s : State) : Host.Outcome State Fault Refusal :=
  alu1 (Instr.segof c f).view true f.d true f.a fnSegof s

/-- a[39:0] (R252). -/
def execOffof (c : Common) (f : V3) (s : State) : Host.Outcome State Fault Refusal :=
  alu1 (Instr.offof c f).view true f.d true f.a fnOffof s

/-- Segment number and offset joined (R252). -/
def execMkaddr (c : Common) (f : V3) (s : State) : Host.Outcome State Fault Refusal :=
  alu2 (Instr.mkaddr c f).view true f.d true f.a true f.b fnMkaddr s

/-- b added to the offset of a (R252). -/
def execAddoff (c : Common) (f : V3) (s : State) : Host.Outcome State Fault Refusal :=
  alu2 (Instr.addoff c f).view true f.d true f.a true f.b fnAddoff s

/-- A contextual stack address made absolute (R253). -/
def execAbsaddr (c : Common) (f : V3) (s : State) : Host.Outcome State Fault Refusal :=
  valueWord (Instr.absaddr c f).view (some 4) true f.d (fun x i => x.pz true f.a i)
    (fun x i => fnAbsaddr (x.w.lane i).sseg (x.w.lane i).fb (x.rd true f.a i)) s

/-- IMM added to the offset of a (R254). -/
def execAddoffi (c : Common) (f : VI) (s : State) : Host.Outcome State Fault Refusal :=
  alu1 (Instr.addoffi c f).view true f.d true f.a (fun a => fnAddoff a (f.imm.signExtend 64)) s

/-- A bit-matrix product (R255). -/
def execBmm (c : Common) (f : V3) (s : State) : Host.Outcome State Fault Refusal :=
  alu2 (Instr.bmm c f).view true f.d true f.a true f.b (fnBmm bmmElem) s

/-- A bit-matrix product with B transposed (R255). -/
def execBmmt (c : Common) (f : V3) (s : State) : Host.Outcome State Fault Refusal :=
  alu2 (Instr.bmmt c f).view true f.d true f.a true f.b (fnBmm bmmtElem) s

/-- A bit-matrix product, XORed into c (R255). -/
def execBmmx (c : Common) (f : V3) (s : State) : Host.Outcome State Fault Refusal :=
  alu3 (Instr.bmmx c f).view true f.d true f.a true f.b true f.c (fun a b c => c ^^^ fnBmm bmmElem a b) s

/-- Low bits of a deposited at the mask (R256). -/
def execSpread (c : Common) (f : V3) (s : State) : Host.Outcome State Fault Refusal :=
  alu2 (Instr.spread c f).view f.ty.is64 f.d f.ty.is64 f.a f.ty.is64 f.b (fnSpread f.ty.width) s

/-- The masked bits of a gathered (R256). -/
def execGather (c : Common) (f : V3) (s : State) : Host.Outcome State Fault Refusal :=
  alu2 (Instr.gather c f).view f.ty.is64 f.d f.ty.is64 f.a f.ty.is64 f.b (fnGather f.ty.width) s

/-- A permutation from the table of six scalars (R257). -/
def execBperm (c : Common) (f : V3) (s : State) : Host.Outcome State Fault Refusal :=
  valueWord (Instr.bperm c f).view (some 4) true f.d (fun x i => x.pz true f.a i || (tableOps f.b).any (fun o => x.pz true o i))
    (fun x i => fnBperm (x.rd true f.a i) ((tableOps f.b).map (fun o => x.rd true o i))) s

/-- A byte gather (R257). -/
def execBgat (c : Common) (f : V3) (s : State) : Host.Outcome State Fault Refusal :=
  alu3 (Instr.bgat c f).view false f.d false f.a false f.b false f.c fnBgat s

/-- The bytes in reverse order (R257). -/
def execBswap (c : Common) (f : V3) (s : State) : Host.Outcome State Fault Refusal :=
  alu1 (Instr.bswap c f).view f.ty.is64 f.d f.ty.is64 f.a (fnBswap f.ty.width) s

/-- The 64-bit product of 32-bit operands (R245). -/
def execMulw (c : Common) (f : V3) (s : State) : Host.Outcome State Fault Refusal :=
  alu2 (Instr.mulw c f).view true f.d false f.a false f.b (fun a b => fnMadw f.ty a b 0) s

/-- A 64-bit product plus c (R245). -/
def execMadw (c : Common) (f : V3) (s : State) : Host.Outcome State Fault Refusal :=
  alu3 (Instr.madw c f).view true f.d false f.a false f.b true f.c (fnMadw f.ty) s

/-- A register copied, its poison with it (R258, R441). -/
def execMov (c : Common) (f : V3) (s : State) : Host.Outcome State Fault Refusal :=
  simpleWord (Instr.mov c f).view (fun x s1 =>
    s1.fixed x 4 (wordWrites f.ty.is64 f.d x.lanes (fun i => x.rd f.ty.is64 f.a i)) (wordPz f.ty.is64 f.d x.lanes (fun i => x.pz f.ty.is64 f.a i))) s

/-- The mask of the lanes that execute the word (R258). -/
def execRdactive (c : Common) (f : V3) (s : State) : Host.Outcome State Fault Refusal :=
  alu0 (Instr.rdactive c f).view false f.d (fun x _ => (maskOf x.lanes).setWidth 64) s

/-- Packed elements added, clamped (R246). -/
def execAddsat (c : Common) (f : V3) (s : State) : Host.Outcome State Fault Refusal :=
  alu2 (Instr.addsat c f).view false f.d false f.a false f.b (fnAddsat f.ty) s

/-- Packed elements subtracted, clamped (R246). -/
def execSubsat (c : Common) (f : V3) (s : State) : Host.Outcome State Fault Refusal :=
  alu2 (Instr.subsat c f).view false f.d false f.a false f.b (fnSubsat f.ty) s

/-- Signed elements packed, clamped (R246). -/
def execPacks (c : Common) (f : V3) (s : State) : Host.Outcome State Fault Refusal :=
  alu2 (Instr.packs c f).view false f.d false f.a false f.b (fnPack true f.ty) s

/-- Unsigned elements packed, clamped (R246). -/
def execPackn (c : Common) (f : V3) (s : State) : Host.Outcome State Fault Refusal :=
  alu2 (Instr.packn c f).view false f.d false f.a false f.b (fnPack false f.ty) s

end Sys2Proof.Machine
end

