-- ==== Sys2Proof/Machine/Control.lean ====
section
/-! DEFINITION. Control words (R278 to R292): branches, rejoin, calls and returns, frames; and the uses of link slots (R45). -/
namespace Sys2Proof.Machine

/-! ### Words checked lane by lane -/

/-- Lanes sorted by their checks: those that pass, each with what it got; those that fault; the pages that are missing. -/
def sortLanes {α : Type} (chk : Nat → Chk α) : List Nat → List (Nat × α) × List (Nat × LFault) × List PageReq
  | [] => ([], [], [])
  | i :: is =>
    let q := sortLanes chk is
    match chk i with
    | .ok a => ((i, a) :: q.1, q.2.1, q.2.2)
    | .fault f => (q.1, (i, f) :: q.2.1, q.2.2)
    | .miss ps => (q.1, q.2.1, ps ++ q.2.2.filter (fun p => !ps.contains p))

/-- An acquire load of one of the lanes has not taken its value, or a fence of one has not been performed: a word that accesses memory
is held (R137, R138); plain loads may be late (R134, log entry 17). -/
def IC.awaits (x : IC) : Bool :=
  !x.late && (x.w.loads.any (fun l => l.acq && l.wait != .ready && x.lanes.contains l.lane) ||
    x.w.sq.any (fun e => (match e.op with
      | .fence _ => true
      | .atomic _ _ _ _ _ _ _ | .tile _ | .store _ _ | .push _ | .discard _ | .enq _ _ | .dcinit _ _ | .dcadd _ _ _ | .cut _ _ _
      | .graft _ | .await | .copy _ _ | .post _ _ => false) && x.lanes.contains e.lane))

/-- The plan of a word whose lanes have been checked: lanes that pass perform it, others take their faults or stop, and those that miss
pages go on after their walks (R74). -/
def checkedPlan (pass : List Nat) (f : IC → State → State) (bad : List (Nat × LFault)) (stop miss : List Nat) (pages : List PageReq) :
    Plan :=
  if pages.isEmpty then .part pass f bad stop else .walk pass f bad stop miss pages

/-- The plan of a word that checks each lane (R74, R198, R443): poisoned addresses stop their lanes; the passing lanes act in
ascending order. Each action says whether it is a commit point (R148). `mem`: the word accesses memory. -/
def lanePlan (mem : Bool) (x : IC) (s : State) (pz : Nat → Bool) (chk : Nat → Chk (Bool × (State → State))) : Plan :=
  let ls := x.lanes.filter (fun i => !pz i)
  let q := sortLanes chk ls
  let cm := q.1.any (fun a => a.2.1)
  let go (z : State) : State := q.1.foldl (fun z a => a.2.2 z) z
  if mem && x.awaits then .hold id
  else if cm && s.commitWaits x.p.id then .hold (fun y => y.openCommit x.p.id)
  else checkedPlan (q.1.map (·.1)) (fun y s1 => if cm then s1.committed y.p.id go else go s1) q.2.1 (x.lanes.filter pz)
    (ls.filter (fun i => !(q.1.any (fun a => a.1 == i) || q.2.1.any (fun a => a.1 == i)))) q.2.2

/-- A word that checks each lane. -/
def laneWord (v : View) (mem sysOnly : Bool) (pz : IC → Nat → Bool) (chk : IC → State → Nat → Chk (Bool × (State → State)))
    (s : State) : Host.Outcome State Fault Refusal :=
  runWord v sysOnly (fun x s1 => lanePlan mem x s1 (pz x) (chk x s1)) s

/-! ### Branches (R279) -/

/-- A lane goes to a header (R181). -/
def State.jump (s : State) (wid lane : Nat) (t : DWord) : State := s.modLane wid lane (fun l => { l with pc := t, pos := .header })

/-- A branch of a lane to an offset of its code segment, checked under R30. -/
def State.branchTo (s : State) (x : IC) (lane : Nat) (off : Nat) : Chk (Bool × (State → State)) :=
  let t := mkAddr (segOf x.pc) (BitVec.ofNat 40 off)
  (s.checkFetch (s.reqOf x.w.id lane) t).map fun _ => (false, fun y => y.jump x.w.id lane t)

/-- A conditional branch: the lanes whose condition holds branch, the others fall through. -/
def branchWord (v : View) (a : Opnd) (off : Nat) (taken : DWord → Bool) (s : State) : Host.Outcome State Fault Refusal :=
  laneWord v false false (fun x i => x.pz false a i)
    (fun x s1 i => if taken (x.rd false a i) then s1.branchTo x i off else .ok (false, id)) s

/-- `bra` (R279). -/
def execBra (c : Common) (f : CF) (s : State) : Host.Outcome State Fault Refusal :=
  laneWord (Instr.bra c f).view false false (fun _ _ => false) (fun x s1 i => s1.branchTo x i f.imm.toNat) s
/-- `brz`: branches when the condition is 0 (R279). -/
def execBrz (c : Common) (f : CF) (s : State) : Host.Outcome State Fault Refusal :=
  branchWord (Instr.brz c f).view f.a f.imm.toNat (fun a => a == 0) s
/-- `brnz`: branches when the condition is not 0 (R279). -/
def execBrnz (c : Common) (f : CF) (s : State) : Host.Outcome State Fault Refusal :=
  branchWord (Instr.brnz c f).view f.a f.imm.toNat (fun a => a != 0) s
/-- `brind`: a branch to the offset in a register (R279). -/
def execBrind (c : Common) (f : CF) (s : State) : Host.Outcome State Fault Refusal :=
  laneWord (Instr.brind c f).view false false (fun x i => x.pz false f.a i) (fun x s1 i => s1.branchTo x i (x.nat32 f.a i)) s

/-! ### Rejoin, pause, no-op (R280, R281) -/

/-- `join`: the lanes enter E (R172). -/
def execJoin (c : Common) (f : CF) (s : State) : Host.Outcome State Fault Refusal :=
  simpleWord (Instr.join c f).view (fun x s1 => s1.modWeft x.w.id (fun w =>
    let m := w.mask f.jm.toNat
    w.setMask f.jm.toNat (m.1 ||| maskOf x.lanes) m.2)) s
/-- `join.x`: the lanes leave E and A, which may release the mask (R172). -/
def execJoinX (c : Common) (f : CF) (s : State) : Host.Outcome State Fault Refusal :=
  simpleWord (Instr.joinX c f).view (fun x s1 => s1.modWeft x.w.id (fun w =>
    let m := w.mask f.jm.toNat
    w.setMask f.jm.toNat (m.1 &&& ~~~(maskOf x.lanes)) (m.2 &&& ~~~(maskOf x.lanes)))) s
/-- `wait`: each lane proceeds, arrives and parks, or is held at the word (R172). -/
def execWait (c : Common) (f : CF) (s : State) : Host.Outcome State Fault Refusal :=
  runWord (Instr.wait c f).view false (fun x _ =>
    let m := x.w.mask f.jm.toNat
    let held := x.lanes.filter (fun i => m.1.getLsbD i && m.2.getLsbD i)
    let pass := x.lanes.filter (fun i => !(m.1.getLsbD i && m.2.getLsbD i))
    let hold (s1 : State) : State := s1.modWeft x.w.id (fun w => w.park held (.heldWait f.jm.toNat))
    if pass.isEmpty then .stay hold
    else .part pass (fun y s1 => (hold s1).modWeft y.w.id (fun w =>
      pass.foldl (fun z i => (z.waitLane f.jm.toNat i).2) w)) [] []) s
/-- `nop` (R281). -/
def execNop (c : Common) (f : CF) (s : State) : Host.Outcome State Fault Refusal := simpleWord (Instr.nop c f).view (fun _ s1 => s1) s
/-- `pause`: the lanes do not issue for IMM16 cycles after this slot (R281). -/
def execPause (c : Common) (f : CF) (s : State) : Host.Outcome State Fault Refusal :=
  simpleWord (Instr.pause c f).view (fun x s1 => s1.modWeft x.w.id (fun w =>
    { w with lanes := w.lanes.mapIdx (fun i l =>
        if x.lanes.contains i then { l with pause := x.slot + 1 + ceilDiv f.imm.toNat x.picks } else l) })) s

/-! ### Frame allocation (R286) -/

/-- SP set to a distance above FB, and no mark in effect (R286). -/
def State.setTop (s : State) (wid lane size : Nat) : State :=
  s.modLane wid lane (fun l => { l with sp := l.fb + BitVec.ofNat 40 size, mtop := 0 })

/-- `enter`: allocates the locals, checked up to the LIMIT step of R26 (R286). -/
def execEnter (c : Common) (bud : BitVec 4) (size : BitVec 16) (s : State) : Host.Outcome State Fault Refusal :=
  laneWord (Instr.enter c bud size).view false false (fun _ _ => false) (fun x s1 i =>
    let go : Chk (Bool × (State → State)) := .ok (false, fun y => y.setTop x.w.id i size.toNat)
    if size = 0 then go
    else match s1.checkTo (s1.reqOf x.w.id i) .store (mkAddr segSTK (x.w.lane i).fb) 0 size.toNat 1 false with
      | .error f => .fault f
      | .ok _ => go) s
/-- `leave`: resets SP to the top of the locals (R286). -/
def execLeave (c : Common) (size : BitVec 16) (s : State) : Host.Outcome State Fault Refusal :=
  simpleWord (Instr.leave c size).view (fun x s1 => x.lanes.foldl (fun y i => y.setTop x.w.id i size.toNat) s1) s

/-! ### Calls (R287, R288) -/

/-- Steps 2 to 5 of a call to a target: budget and frame size of the procedure, and the bytes of its link record. -/
def State.callChecks (s : State) (x : IC) (lane : Nat) (t : DWord) : Chk (Nat × Nat × List Loc) :=
  let r := s.reqOf x.w.id lane
  (s.procAt r t false).bind fun q =>
    if x.p.alloc < q.1 then .fault ⟨.budget, 0, t, 0, 0⟩
    else (s.check r .store (mkAddr segSTK (x.w.lane lane).sp) 0 0x20 8).map fun k => (q.1, q.2, k.2.2.2)

/-- The address after the word: the return address of a call (R288). -/
def IC.after (x : IC) : DWord := mkAddr (segOf x.pc) (offOf x.pc + 8)

/-- Steps 7 and 8 of a call: the link record, and the lane at the procedure's header. `hold`: the binding entry held. -/
def State.enterProc (s : State) (x : IC) (lane : Nat) (t : DWord) (q : Nat × Nat × List Loc) (hold : Option Nat) : State :=
  let l := x.w.lane lane
  let link : Frame := ⟨x.after, (segOf t).toNat, (offOf t).toNat % 65536, q.2.1, q.1 / 16 - 1, l.mtop != 0, mkAddr l.sseg l.fb,
    hold.getD 0, 0, 0, hold.isSome⟩
  let s1 := s.enqueue x.w.id lane 0 x.sys x.pc x.hdr (.store (wrs q.2.2 (natLE 32 link.word)) .none)
  s1.modLane x.w.id lane (fun y => { y with fb := l.sp + 0x20, sp := l.sp + 0x20, mtop := 0, pc := t, pos := .header })

/-- A call of each lane to its own target. -/
def callWord (v : View) (pz : IC → Nat → Bool) (target : IC → Nat → DWord) (s : State) : Host.Outcome State Fault Refusal :=
  laneWord v true false pz (fun x s1 i =>
    (s1.callChecks x i (target x i)).map fun q => (false, fun y => y.enterProc x i (target x i) q none)) s

/-- `call`: a call within the code segment (R288). -/
def execCall (c : Common) (f : CF) (s : State) : Host.Outcome State Fault Refusal :=
  callWord (Instr.call c f).view (fun _ _ => false) (fun x _ => mkAddr (segOf x.pc) (f.imm.setWidth 40)) s
/-- `call.ind`: a call of each lane to its own code address (R288). -/
def execCallInd (c : Common) (f : CF) (s : State) : Host.Outcome State Fault Refusal :=
  callWord (Instr.callInd c f).view (fun x i => x.pz true f.a i) (fun x i => x.addr f.a i) s

/-! ### Releases made at issue (R137) -/

/-- Whether stores of a core are still on their way. -/
def State.storesOut (s : State) (core : Nat) : Bool :=
  s.wins.any (fun w => w.core == core && w.load.isNone) || s.rems.any (fun w => w.core == core && w.load.isNone)

/-- Whether matrix words of lanes of a weft have not completed. -/
def State.wordsOut (s : State) (core wid : Nat) (lanes : List Nat) : Bool :=
  (s.core core).morder.any (fun m => m.weft == wid && lanes.contains m.lane)

/-- Whether a word that is a release at a scope waits for what its lanes did before it, for the entries of its weft's queue, and beyond
the core for the core's stores on their way (R137). -/
def State.releaseWaits (s : State) (x : IC) (sc : Scope) : Bool :=
  x.w.loads.any (fun l => l.wait != .ready && x.lanes.contains l.lane) || !x.w.sq.isEmpty || s.wordsOut x.w.core x.w.id x.lanes ||
    (decide (Scope.core.rank < sc.rank) && s.storesOut x.w.core)

/-! ### Uses of a link slot (R45) -/

/-- Whether a park of a weft on an entry writes the entry (R42): it takes a free node. -/
def Weft.parkWrites (w : Weft) (e : Nat) : Bool :=
  match w.nodeFor e with
  | some k => (w.nodes.getD k none).isNone
  | none => false

/-- A step of the entry order at a word of a panel that does not issue: of a REPLAY panel it is a commit point (R50). -/
def State.entryStep (s : State) (x : IC) (f : State → State) : Plan :=
  if s.commitWaits x.p.id then .hold (fun y => y.openCommit x.p.id) else .stay (fun y => y.committed x.p.id f)

/-- The lanes of a word park on an entry (R42, R45). -/
def State.parkPlan (s : State) (x : IC) (c : CtxId) (eb e : Nat) (b : BEntry) : Plan :=
  let f (y : State) : State := y.parkOn x.w.id x.lanes c eb e b
  if x.w.parkWrites e then s.entryStep x f else .stay f

/-- The lowest lane of a word takes UNBOUND on an entry, now BINDING, on which the others park (R45). A lane of the UNBOUND handler takes
it as a fault that ends the handler, with no handler for the new entry, which is bound FAILED (R52, R389). -/
def State.unboundWord (s : State) (x : IC) (c : CtxId) (m slot eb nb e : Nat) (b : BEntry) : State :=
  let i := x.agent
  let s1 := s.putEntry c eb e { b with state := 1 }
  if (x.w.lane i).sys && (x.w.lane i).unb.isSome then
    (s1.bindFailed c e b.cseq).handlerFault x.w.id i ⟨.unbound, 0, 0, e, 0⟩ x.pc
  else
    let s2 := s1.takeUnbound x.w.id i x.pc x.hdr m slot e b.cseq nb
    match s2.entryAt c eb e with
    | .ok b2 => if b2.state = 1 then s2.parkOn x.w.id (x.lanes.filter (· != i)) c eb e b2 else s2
    | .error _ => s2

/-- A use of a link slot by the lanes of a word, up to BOUND (R37, R40, R45). -/
def State.useSlot (s : State) (x : IC) (slot : Nat) (bound : Nat → BEntry → Plan) : Plan :=
  let c := x.p.ctx
  let m := s.moduleOf x.w.core c (segOf x.pc)
  if x.awaits then .hold id
  else match s.slotToEntry c m slot with
  | .error f => .raise x.lanes f
  | .ok (e, eb, nb) =>
    match s.entryAt c eb e with
    | .error f => .raise x.lanes f
    | .ok b =>
      if b.state = 0 then s.entryStep x (fun y => y.unboundWord x c m slot eb nb e b)
      else if b.state = 1 ∨ b.state = 3 then s.parkPlan x c eb e b
      else if b.state = 4 then .raise x.lanes (linkFault b.reason)
      else bound e b

/-- `call.sym`: a call of the bound segment at offset 0, taking a hold for each lane that passes (R45, R288). -/
def execCallSym (c : Common) (f : CF) (s : State) : Host.Outcome State Fault Refusal :=
  runWord (Instr.callSym c f).view false (fun x s0 => s0.useSlot x f.imm.toNat (fun e b =>
    if b.rights / 2 % 2 = 0 then .raise x.lanes ⟨.rights, 2, 0, 0, 0⟩
    else
      let t := mkAddr (BitVec.ofNat 24 b.seg) 0
      let q := sortLanes (fun i => s0.callChecks x i t) x.lanes
      if 0xFFFF < b.hold + q.1.length then
        .stay (fun y => (y.modWeft x.w.id (fun w => w.park (q.1.map (·.1)) .hold)).faultLanes x.w.id x.pc x.hdr .load q.2.1)
      else if !q.1.isEmpty && s0.commitWaits x.p.id then .hold (fun y => y.openCommit x.p.id)
      else checkedPlan (q.1.map (·.1)) (fun _ s1 => s1.committed x.p.id (fun s2 =>
        let s3 := (s2.holdUp x.p.ctx e q.1.length).getD s2
        q.1.foldl (fun y a => y.enterProc x a.1 t a.2 (some e)) s3)) q.2.1 []
        (x.lanes.filter (fun i => !(q.1.any (fun a => a.1 == i) || q.2.1.any (fun a => a.1 == i)))) q.2.2)) s

/-! ### Returns and exits (R289, R290) -/

/-- What `exit` does for a lane once its frames have been read: the holds are given back, and the lane exits (R290). -/
def State.exitFrames (s : State) (wid lane : Nat) (c : CtxId) (fs : List (Nat × Frame)) : State :=
  (fs.foldl (fun y q => if q.2.hv then y.holdDown c q.2.ent else y) s).exitLane wid lane

/-- A lane whose step on some entries meets PAGE takes it, and executes its word again (R37, R46). -/
def State.entriesIn (s : State) (c : CtxId) (es : List Nat) : Chk Unit :=
  match s.entryPage c es with
  | some f => .fault f
  | none => .ok ()

/-- The entries that frames hold. -/
def heldEntries (fs : List (Nat × Frame)) : List Nat := (fs.filter (fun q => q.2.hv)).map (fun q => q.2.ent)

/-- `exit` of a lane (R290): the whole walk is read before any hold falls. -/
def State.exitCheck (s : State) (x : IC) (lane : Nat) : Chk (Bool × (State → State)) :=
  let fb := (x.w.lane lane).fb.toNat
  (s.framesFrom (s.reqOf x.w.id lane) x.w.id (frameFuel fb) fb).bind fun fs =>
    (s.entriesIn x.p.ctx (heldEntries fs)).map fun _ =>
      (fs.any (fun q => q.2.hv), fun y => y.exitFrames x.w.id lane x.p.ctx fs)

/-- `ret` of a lane (R289). -/
def State.retCheck (s : State) (x : IC) (lane : Nat) : Chk (Bool × (State → State)) :=
  let fb := (x.w.lane lane).fb.toNat
  let r := s.reqOf x.w.id lane
  (s.frameAt r x.w.id fb).bind fun f =>
    if segOf f.ret = 0 then s.exitCheck x lane
    else (s.checkFetch r f.ret).bind fun _ => (s.entriesIn x.p.ctx (if f.hv then [f.ent] else [])).map fun _ =>
      (f.hv, fun y =>
        let y1 := if f.hv then y.holdDown x.p.ctx f.ent else y
        y1.modLane x.w.id lane (fun l => { l with sp := BitVec.ofNat 40 fb - 0x20 - (if f.mkd then 16 else 0),
                                                    fb := offOf f.savfb, mtop := 0, pc := f.ret, pos := .header }))

/-- `ret` (R289). -/
def execRet (c : Common) (f : CF) (s : State) : Host.Outcome State Fault Refusal :=
  laneWord (Instr.ret c f).view true false (fun _ _ => false) (fun x s1 i => s1.retCheck x i) s
/-- `exit` (R290). -/
def execExit (c : Common) (f : CF) (s : State) : Host.Outcome State Fault Refusal :=
  laneWord (Instr.exit c f).view true false (fun _ _ => false) (fun x s1 i => s1.exitCheck x i) s

/-! ### Marks and instruction prefetch (R292, R293) -/

/-- `mark`: a mark record at SP, its token to a register, and MTOP (R293). -/
def execMark (c : Common) (f : CF) (s : State) : Host.Outcome State Fault Refusal :=
  runWord (Instr.mark c f).view false (fun x s0 => lanePlan true x s0 (fun _ => false) (fun i =>
    let l := x.w.lane i
    let t := mkAddr l.sseg l.sp
    (s0.check (s0.reqOf x.w.id i) .store (mkAddr segSTK l.sp) 0 16 8).map fun k =>
      (false, fun y =>
        let y1 := (y.enqueue x.w.id i 0 x.sys x.pc x.hdr (.store (wrs k.2.2.2 (natLE 16 t.toNat)) .none)).fixed x latInt
          (destWrites true f.b i t)
        y1.modLane x.w.id i (fun z => { z with sp := l.sp + 16, mtop := (l.sp + 16).setWidth 24 ||| 1 })))) s

/-- A range of a code segment that `prefi` names is read into the die stores at the highest retention where every page of it hits
in the core's page cache; any other request is dropped (R29, R292). -/
def State.prefiLane (s : State) (x : IC) (lane : Nat) (a : DWord) (len : Nat) : State :=
  let r := s.reqOf x.w.id lane
  match s.check r .fetch a 0 len 1 with
  | .ok (_, seg, _, ls) => if ((s.core x.w.core).residOf x.p.ctx seg).isSome then s else s.allocAll (ls.map (fun l => l.withPol 0))
  | .fault _ | .miss _ => s

/-- `prefi`: it changes nothing that a program sees, and never faults (R29, R292). -/
def execPrefi (c : Common) (f : CF) (s : State) : Host.Outcome State Fault Refusal :=
  laneWord (Instr.prefi c f).view false false (fun x i => x.pz true f.a i) (fun x _ i =>
    .ok (false, fun y => y.prefiLane x i (x.addr f.a i) (f.imm.toNat + 1))) s

/-! ### Stopped lanes (R290, R408) -/

/-- Whether a lane is stopped. -/
def Lane.isStopped (l : Lane) : Bool :=
  match l.st with
  | .stopped _ => true
  | .active | .exited | .parked _ => false

/-- The matrix words of a lane that are suspended on ACCOWN make their owner check again, or end (R400, R401, R408). -/
def State.wakeLane (s : State) (wid lane : Nat) (ends : Bool) : State :=
  { s with cores := s.cores.map (fun c => (c.1, { c.2 with morder := c.2.morder.map (fun m =>
      if m.weft = wid ∧ m.lane = lane ∧ m.susp then { m with susp := false, ended := m.ended || ends } else m) })) }

/-- A stopped lane ends as by `exit`; a PAGE of its frame walk, or of an entry that it holds, runs the pager's path while the lane stays
stopped, and the end completes after it; at any other fault the end is refused and the address reported (R77, R290). -/
def State.endLane (s : State) (wid lane : Nat) : State :=
  let p := s.panel (s.weft wid).panel
  let l := (s.weft wid).lane lane
  let wait (y : State) : State := y.modLane wid lane (fun x => { x with st := l.st, pos := .ending })
  match s.framesFrom (s.reqNow wid lane) wid (frameFuel l.fb.toNat) l.fb.toNat with
  | .fault f =>
    if f.code = .page then wait (s.holdLane wid lane .load f)
    else s.report "end refused" p.ctx [wid, lane, f.addr.toNat]
  | .miss ps => (wait s).askFrame wid ps
  | .ok fs =>
    let es := heldEntries fs ++ l.binds.map (·.1)
    let go (y : State) : State := ((y.failLane p.ctx l).wakeLane wid lane true).exitFrames wid lane p.ctx fs
    match s.entryPage p.ctx es with
    | some f => wait (s.holdLane wid lane .load f)
    | none => if es.isEmpty then go s else (wait s).atCommit p.id (fun _ => false) go

/-- Whether a lane of a weft is held for the pager. -/
def Weft.inSub (w : Weft) (lane : Nat) : Bool := w.subs.any (fun g => g.lanes.getLsbD lane)

/-- The ends of a weft's stopped lanes that were to wait go on (R290). -/
def State.endLanes (s : State) (wid : Nat) : State :=
  (List.range 32).foldl (fun y i =>
    let w := y.weft wid
    if (w.lane i).isStopped && (w.lane i).pos == .ending && !w.inSub i then y.endLane wid i else y) s

end Sys2Proof.Machine
end

