-- ==== Sys2Proof/Machine/Memory.lean ====
section
/-! DEFINITION. Loads, stores, atomics, fences, prefetch and discard (R304 to R311, R320, R321): what a word does at its issue.
What an entry does when it leaves the store queue stands in MemEvents. -/
namespace Sys2Proof.Machine

/-! ### Tile tags (R323) -/

/-- A tile's tag. -/
def State.tag (s : State) (core t : Nat) : TileTag := (s.core core).tags.getD t TileTag.reset
/-- A tile's tag changed. -/
def State.modTag (s : State) (core t : Nat) (f : TileTag → TileTag) : State :=
  s.modCore core (fun c => { c with tags := c.tags.modify t f })
/-- Unowned tiles take the context of an access (R323). -/
def State.claim (s : State) (core : Nat) (c : CtxId) (ts : List Nat) : State :=
  ts.foldl (fun y t => if (y.tag core t).owner = 0 then y.modTag core t (fun g => { g with owner := c }) else y) s

/-- The tile that a place presented by an ACC or PART number lies in; a window presents none. -/
def tileOfLoc (core : Nat) (l : Loc) : Option Nat :=
  match l with
  | .chip pa false =>
    let o := blockOff pa
    if coreOfPa pa ≠ core then none
    else if accOff ≤ o ∧ o < accOff + 0x40000 then some ((o - accOff) / 0x8000)
    else if partOff ≤ o ∧ o < partOff + 0x40000 then some (8 + (o - partOff) / 0x10000)
    else none
  | .chip _ true => none
  | .hbm _ _ _ => none
  | .zero => none
  | .host _ _ => none
  | .remote _ _ _ _ _ => none

/-- An access of a context to the tiles that places lie in (R323). -/
def State.touch (s : State) (core : Nat) (c : CtxId) (ls : List Loc) : State := s.claim core c (ls.filterMap (tileOfLoc core))

/-- Whether a place is a byte of HBM. -/
def Loc.isHbm : Loc → Bool
  | .hbm _ _ _ => true
  | .chip _ _ | .zero | .host _ _ | .remote _ _ _ _ _ => false

/-- A load of a weft through a window, or of another package, is sent on its way (R82, R104). -/
def State.sendLoad (s : State) (wid : Nat) (ld : LoadRec) : State :=
  let core := (s.weft wid).core
  let ws := wrs ld.locs (List.replicate ld.locs.length 0)
  let win := ld.locs.any Loc.isWin
  let s1 := s.modWeft wid (fun w => { w with loads := w.loads.map (fun l =>
    if l.id = ld.id then { l with wait := if win then .window else .home } else l) })
  if win then { s1 with wins := s1.wins ++ [⟨s1.nextId, core, wid, some ld.id, ws, ld.track⟩], nextId := s1.nextId + 1 }
  else { s1 with
    rems := s1.rems ++ [⟨s1.nextId, core, wid, some ld.id, ld.lane, ld.addr, .load, ws, ld.track, ld.pc, ld.hdr, none⟩]
    nextId := s1.nextId + 1 }

/-- A load whose turn has come takes its bytes, or is sent to where they lie (R82, R104). -/
def State.startLoad (s : State) (wid : Nat) (ld : LoadRec) : State :=
  let q := (s.weft wid).olderSq ld.id
  if ld.locs.any (fun l => l.isWin || l.isRemote) && !ld.locs.all (fun l => (sqByte q l).isSome) then s.sendLoad wid ld
  else s.takeLoad wid ld.id

/-- A load is issued (R305, R308): its destinations are pending. Where nothing holds it, it takes its bytes at once, or is sent on its
way, or, of HBM, is satisfied later by a free choice (R134). An earlier load of the weft of the same bytes comes first (R130). -/
def State.issueLoad (s : State) (x : IC) (lane : Nat) (addr : DWord) (locs : List Loc) (dst : List (Nat × Nat × Nat)) (acq : Bool) :
    State :=
  let wid := x.w.id
  let s0 := ((s.weft wid).loads.filter (fun l => l.wait == .late && locsMeet l.locs locs)).foldl (fun y l => y.takeLoad wid l.id)
    (s.touch x.w.core (s.panel x.w.panel).ctx locs)
  let id := s0.nextId
  let ld : LoadRec := ⟨id, x.track, lane, .board, acq, addr, x.pc, x.hdr, locs.map (fun l => (l, none)), dst⟩
  let s1 := s0.modWeft wid (fun w =>
    ({ w with loads := w.loads ++ [ld] } : Weft).addUnknown id (dst.map (·.1)) |>.addParts x.track 1)
  let s2 : State := { s1 with nextId := id + 1 }
  let w := s2.weft wid
  if !s2.loadClear w ld then s2
  else if locs.all Loc.isHbm && !locs.all (fun l => (sqByte w.sq l).isSome) && !(s2.otherCores x.w.core).isEmpty && Config.freeLate id then
    s2.modWeft wid (fun v => { v with loads := v.loads.map (fun l => if l.id = id then { l with wait := .late } else l) })
  else s2.startLoad wid ld

/-! ### Operands (R307) -/

/-- The destination registers of a load in a lane, each with its first byte and its bytes; of a pair, vN holds bits 63:32
(R99, R307). -/
def loadDsts (z : Size) (d : Opnd) (lane : Nat) : List (Nat × Nat × Nat) :=
  match d with
  | .v n =>
    let k (i : Nat) := keyV lane (n.toNat + i)
    match z with
    | .b8 => [(k 0, 0, 1)]
    | .b16 => [(k 0, 0, 2)]
    | .b32 => [(k 0, 0, 4)]
    | .b64 => [(k 0, 4, 4), (k 1, 0, 4)]
    | .b128 => [(k 0, 4, 4), (k 1, 0, 4), (k 2, 12, 4), (k 3, 8, 4)]
  | .s n =>
    match z with
    | .b8 => [(keyS n.toNat, 0, 1)]
    | .b16 => [(keyS n.toNat, 0, 2)]
    | .b32 => [(keyS n.toNat, 0, 4)]
    | .b64 => [(keyS n.toNat, 0, 8)]
    | .b128 => [(keyS n.toNat, 0, 8), (keyS (n.toNat + 1), 8, 8)]
  | .zero => []
  | .lane => []

/-- The operand that holds the high half of a 16-byte group (R307). -/
def secondHalf (o : Opnd) : Opnd :=
  match o with
  | .v n => .v (n + 2)
  | .s n => .s (n + 1)
  | .zero => .zero
  | .lane => .lane

/-- The bytes of a store's data in a lane, low bytes first. -/
def IC.storeData (x : IC) (z : Size) (b : Opnd) (lane : Nat) : List Byte :=
  match z with
  | .b8 => natLE 1 (x.rd false b lane).toNat
  | .b16 => natLE 2 (x.rd false b lane).toNat
  | .b32 => natLE 4 (x.rd false b lane).toNat
  | .b64 => natLE 8 (x.rd true b lane).toNat
  | .b128 => natLE 8 (x.rd true b lane).toNat ++ natLE 8 (x.rd true (secondHalf b) lane).toNat

/-- Whether a store's data is poisoned in a lane. -/
def IC.storePz (x : IC) (z : Size) (b : Opnd) (lane : Nat) : Bool :=
  match z with
  | .b8 => x.pz false b lane
  | .b16 => x.pz false b lane
  | .b32 => x.pz false b lane
  | .b64 => x.pz true b lane
  | .b128 => x.pz true b lane || x.pz true (secondHalf b) lane

/-- The displacement of an access in bytes (R308). -/
def memOffset (f : MF) : Int := f.disp.toInt * f.size.bytes

/-- The plan of a word that checks each of some lanes; the others take part in nothing. Of a word with one access, every lane waits
for its walks (R74, R309). -/
def memPlan (x : IC) (ls : List Nat) (pz : Nat → Bool) (chk : Nat → Chk (State → State)) : Plan :=
  let act := ls.filter (fun i => !pz i)
  let q := sortLanes chk act
  let rest := x.lanes.filter (fun i => !ls.contains i)
  let miss := act.filter (fun i => !(q.1.any (fun a => a.1 == i) || q.2.1.any (fun a => a.1 == i)))
  let all := !q.2.2.isEmpty && !rest.isEmpty
  if x.awaits then .hold id
  else checkedPlan (if all then [] else x.lanes.filter (fun i => q.1.any (fun a => a.1 == i) || !ls.contains i))
    (fun _ s2 => q.1.foldl (fun z a => a.2 z) s2) q.2.1 (ls.filter pz) (if all then x.lanes else miss) q.2.2

/-- A memory word that checks each of some lanes. -/
def memWord (v : View) (who : IC → List Nat) (pz : IC → Nat → Bool) (chk : IC → State → Nat → Chk (State → State))
    (s : State) : Host.Outcome State Fault Refusal :=
  runWord v false (fun x s1 => memPlan x (who x) (pz x) (chk x s1)) s

/-- Every active lane. -/
def allLanes (x : IC) : List Nat := x.lanes
/-- The lowest-numbered active lane. -/
def agentOnly (x : IC) : List Nat := x.lanes.take 1

/-! ### Loads and stores (R308, R309) -/

/-- Whether a form has an acquire side (R136). -/
def acquires (f : MF) : Bool := f.ord == .acq || f.ord == .ar

/-- `ld`: each lane's load (R308). -/
def execLd (c : Common) (f : MF) (s : State) : Host.Outcome State Fault Refusal :=
  memWord (Instr.ld c f).view allLanes (fun x i => x.pz true f.a i) (fun x s1 i =>
    (s1.check (s1.reqOf x.w.id i) .load (x.addr f.a i) (memOffset f) f.size.bytes f.size.bytes).map fun q =>
      (fun y => y.issueLoad x i (x.addr f.a i) q.2.2.2 (loadDsts f.size f.d i) (acquires f))) s

/-- `lds`: one load for the word, of its lowest lane (R309). -/
def execLds (c : Common) (f : MF) (s : State) : Host.Outcome State Fault Refusal :=
  memWord (Instr.lds c f).view agentOnly (fun x i => x.pz true f.a i) (fun x s1 i =>
    (s1.check (s1.reqOf x.w.id i) .load (x.addr f.a i) (memOffset f) f.size.bytes f.size.bytes).map fun q =>
      let dst := match f.d with
        | .v _ => x.lanes.flatMap (loadDsts f.size f.d)
        | .s _ => loadDsts f.size f.d i
        | .zero => []
        | .lane => []
      (fun y => y.issueLoad x i (x.addr f.a i) q.2.2.2 dst (acquires f))) s

/-- The scope of a release form; `none` for the others (R136). -/
def relScope (f : MF) : Scope := if f.ord = .rel ∨ f.ord = .ar then f.scope else .none

/-- A store of a lane enters the queue, one more part of the word's flag (R132, R305). -/
def State.queueStore (s : State) (x : IC) (lane : Nat) (addr : DWord) (ws : List Wr) (rel : Scope) : State :=
  ((s.touch x.w.core (s.panel x.w.panel).ctx (ws.map (·.loc))).addParts x.w.id x.track 1).enqueue x.w.id lane x.track x.sys x.pc x.hdr
    (.store ws rel) addr

/-- `st`: each lane's store (R308). -/
def execSt (c : Common) (f : MF) (s : State) : Host.Outcome State Fault Refusal :=
  memWord (Instr.st c f).view allLanes (fun x i => x.pz true f.a i) (fun x s1 i =>
    (s1.check (s1.reqOf x.w.id i) .store (x.addr f.a i) (memOffset f) f.size.bytes f.size.bytes).map fun q =>
      (fun y => y.queueStore x i (x.addr f.a i) (wrs q.2.2.2 (x.storeData f.size f.b i) (x.storePz f.size f.b i)) (relScope f))) s

/-- `sts`: one store for the word, of its lowest lane (R309). -/
def execSts (c : Common) (f : MF) (s : State) : Host.Outcome State Fault Refusal :=
  memWord (Instr.sts c f).view agentOnly (fun x i => x.pz true f.a i) (fun x s1 i =>
    (s1.check (s1.reqOf x.w.id i) .store (x.addr f.a i) (memOffset f) f.size.bytes f.size.bytes).map fun q =>
      (fun y => y.queueStore x i (x.addr f.a i) (wrs q.2.2.2 (x.storeData f.size f.b i) (x.storePz f.size f.b i)) (relScope f))) s

/-! ### Atomics (R310) -/

/-- The new value of a location (R310). -/
def AtomOp.new (op : AtomOp) (w : Nat) (old b d : Nat) : Nat :=
  match op with
  | .add => (old + b) % 2 ^ w
  | .min => if toSigned w b < toSigned w old then b else old
  | .max => if toSigned w old < toSigned w b then b else old
  | .and => old &&& b
  | .or => old ||| b
  | .xor => old ^^^ b
  | .exch => b
  | .cas => if old = d then b else old

/-- Whether an atomic may go to host memory (R467). -/
def AtomOp.hostOk : AtomOp → Bool
  | .add => true
  | .exch => true
  | .cas => true
  | .min => false
  | .max => false
  | .and => false
  | .or => false
  | .xor => false

/-- An atomic word: each lane's atomic enters the queue, and its old value returns to D (R140, R310). -/
def atomWord (v : View) (op : AtomOp) (f : MF) (s : State) : Host.Outcome State Fault Refusal :=
  memWord v allLanes (fun x i => x.pz true f.a i) (fun x s1 i =>
    let w64 := f.size == .b64
    (s1.check (s1.reqOf x.w.id i) .atomic (x.addr f.a i) (memOffset f) f.size.bytes f.size.bytes).bind fun q =>
      if q.1.kind = 2 ∧ !op.hostOk then .fault ⟨.rights, 1, x.addr f.a i, 0, 0⟩
      else .ok (fun y =>
        let id := y.nextId
        let dst := loadDsts f.size f.d i
        let d := if op = .cas then x.rd w64 f.d i else 0
        let pz := x.pz w64 f.b i || (decide (op = .cas) && x.pz w64 f.d i)
        let ld : LoadRec := ⟨id, x.track, i, .queue, acquires f, x.addr f.a i, x.pc, x.hdr, q.2.2.2.map (fun l => (l, none)), dst⟩
        let y1 := (y.touch x.w.core (y.panel x.w.panel).ctx q.2.2.2).modWeft x.w.id (fun w =>
          ({ w with loads := w.loads ++ [ld] } : Weft).addUnknown id (dst.map (·.1)) |>.addParts x.track 1)
        ({ y1 with nextId := id + 1 } : State).enqueue x.w.id i x.track x.sys x.pc x.hdr
          (.atomic op q.2.2.2 (x.rd w64 f.b i) d pz id (relScope f)) (x.addr f.a i))) s

/-- `atom.add` (R310). -/
def execAtomAdd (c : Common) (f : MF) (s : State) : Host.Outcome State Fault Refusal := atomWord (Instr.atomAdd c f).view .add f s
/-- `atom.min`, signed (R310). -/
def execAtomMin (c : Common) (f : MF) (s : State) : Host.Outcome State Fault Refusal := atomWord (Instr.atomMin c f).view .min f s
/-- `atom.max`, signed (R310). -/
def execAtomMax (c : Common) (f : MF) (s : State) : Host.Outcome State Fault Refusal := atomWord (Instr.atomMax c f).view .max f s
/-- `atom.and` (R310). -/
def execAtomAnd (c : Common) (f : MF) (s : State) : Host.Outcome State Fault Refusal := atomWord (Instr.atomAnd c f).view .and f s
/-- `atom.or` (R310). -/
def execAtomOr (c : Common) (f : MF) (s : State) : Host.Outcome State Fault Refusal := atomWord (Instr.atomOr c f).view .or f s
/-- `atom.xor` (R310). -/
def execAtomXor (c : Common) (f : MF) (s : State) : Host.Outcome State Fault Refusal := atomWord (Instr.atomXor c f).view .xor f s
/-- `atom.exch` (R310). -/
def execAtomExch (c : Common) (f : MF) (s : State) : Host.Outcome State Fault Refusal := atomWord (Instr.atomExch c f).view .exch f s
/-- `cas`: the compare value is D (R310). -/
def execCas (c : Common) (f : MF) (s : State) : Host.Outcome State Fault Refusal := atomWord (Instr.cas c f).view .cas f s

/-! ### Fences (R311) -/

/-- `fence`: each lane's fence enters the queue; at `.ln` nothing is ordered and the flag falls at once (R138, R311). -/
def execFence (c : Common) (f : MF) (s : State) : Host.Outcome State Fault Refusal :=
  memWord (Instr.fence c f).view allLanes (fun _ _ => false) (fun x _ i =>
    .ok (fun y =>
      if f.scope = .ln then y
      else (y.addParts x.w.id x.track 1).enqueue x.w.id i x.track x.sys x.pc x.hdr (.fence f.scope))) s

/-! ### Prefetch and discard (R320, R321) -/

/-- The range of a `pref` in a lane is read into the die stores at the retention of its policy; a request that would fault, or that
misses a page, is dropped (R29, R320). -/
def State.prefLane (s : State) (x : IC) (lane : Nat) (a : DWord) (disp : Int) (len : Nat) : State :=
  if len = 0 then s
  else match s.check (s.reqOf x.w.id lane) .load a disp (min len 0x100000) 1 with
    | .ok (_, _, _, ls) => s.allocAll ls
    | .fault _ | .miss _ => s

/-- `pref`: changes no value that any access returns, and raises nothing (R29, R320). -/
def execPref (c : Common) (f : MF) (s : State) : Host.Outcome State Fault Refusal :=
  memWord (Instr.pref c f).view allLanes (fun x i => x.pz true f.a i || x.pz false f.b i) (fun x _ i =>
    .ok (fun y => y.prefLane x i (x.addr f.a i) f.disp.toInt (x.nat32 f.b i))) s

/-- The pages wholly inside a range, by the core's translations (R67, R74); absent ones are skipped, and the key index of the segment must
be live for any other (R89, R321). -/
def State.discardList (s : State) (r : Req) (d : Desc) (seg : Seg) (first : Nat) : Nat → Chk (List (Seg × Nat × Nat × Nat × Nat))
  | 0 => .ok []
  | n + 1 =>
    let pg := first + n
    let a := mkAddr seg (BitVec.ofNat 40 (pg * pageSize d.pgsz))
    let one : Chk (List (Seg × Nat × Nat × Nat × Nat)) :=
      match s.leafOf r seg d (pg * pageSize d.pgsz) with
      | .ok _ => if s.keyLive d.okey then .ok [(seg, pg, d.pgsz, d.base, d.okey)] else .fault (pageFault 6 a)
      | .fault f => if f.reason = 1 then .ok [] else .fault f
      | .miss ps => .miss ps
    match s.discardList r d seg first n, one with
    | .ok ps, .ok q => .ok (ps ++ q)
    | .ok _, .fault f => .fault f
    | .ok _, .miss q => .miss q
    | .fault f, .miss q => if f.code = .page then .miss q else .fault f
    | .fault f, .ok _ | .fault f, .fault _ => .fault f
    | .miss p, .miss q => .miss (p ++ q.filter (fun x => !p.contains x))
    | .miss p, .ok _ | .miss p, .fault _ => .miss p

/-- The check of a discard in a lane: the pages that become dead (R84, R321). -/
def State.discardCheck (s : State) (x : IC) (lane : Nat) (a : DWord) (disp : Int) (len : Nat) :
    Chk (List (Seg × Nat × Nat × Nat × Nat)) :=
  let r := s.reqOf x.w.id lane
  let kindOk : Bool := match s.resolve r (segOf a) ((offOf a).toNat + disp) with
    | .ok (d, _, _) => d.kind == 1 || d.kind == 6
    | .error _ => true
  if !kindOk then .fault ⟨.rights, 1, a, 0, 0⟩
  else match s.checkTo r .store a disp len 1 with
    | .error f => .fault f
    | .ok (d, seg, off) =>
      let sz := pageSize d.pgsz
      let first := ceilDiv off sz
      match s.discardList r d seg first ((off + len) / sz - first) with
      | .ok ps => .ok ps
      | .fault f => .fault (f.ofCls .store)
      | .miss ps => .miss ps

/-- `discard` (R321). -/
def execDiscard (c : Common) (f : MF) (s : State) : Host.Outcome State Fault Refusal :=
  memWord (Instr.discard c f).view allLanes (fun x i => x.pz true f.a i || x.pz true f.b i) (fun x s1 i =>
    (s1.discardCheck x i (x.addr f.a i) f.disp.toInt ((x.rd true f.b i).toNat % 2 ^ 40)).map fun ps =>
      (fun y => (y.addParts x.w.id x.track 1).enqueue x.w.id i x.track x.sys x.pc x.hdr (.discard ps) (x.addr f.a i))) s

end Sys2Proof.Machine
end

