-- ==== Sys2Proof/Machine/Binding.lean ====
section
/-! DEFINITION. Binding instructions (R312 to R317) and the lookup order (R34, R58 to R61). -/
namespace Sys2Proof.Machine

/-! ### Names (R34) -/

/-- A letter, digit, `.` or `_` of a name. -/
def nameByte (b : Nat) : Bool := (0x61 ≤ b && b ≤ 0x7A) || (0x30 ≤ b && b ≤ 0x39) || b == 0x2E || b == 0x5F

/-- Whether no two `.` stand side by side and none ends the name. -/
def dotsOk : List Nat → Bool
  | [] => true
  | [c] => c != 0x2E
  | c :: d :: cs => !(c == 0x2E && d == 0x2E) && dotsOk (d :: cs)

/-- The characters of a stored name; none when the field breaks R34. -/
def nameOf (field : List Byte) : Option (List Nat) :=
  let bs := field.map BitVec.toNat
  let cs := bs.takeWhile (· != 0)
  let first := cs.headD 0
  if (bs.drop cs.length).all (· == 0) && cs.all nameByte && decide (0x61 ≤ first) && decide (first ≤ 0x7A) && dotsOk cs
  then some cs else none

/-- The 32-bit FNV-1a hash of a name's characters (R58). -/
def fnv1a (cs : List Nat) : Nat := cs.foldl (fun h c => (h ^^^ c) * 0x01000193 % 2 ^ 32) 0x811C9DC5

/-! ### Name spaces (R58) -/

/-- Bytes of a name space as a lane's LOOKUP reads them (R24, R58): none where a read would fault. -/
def State.nsBytes (s : State) (r : Req) (wid : Nat) (seg : Seg) (off size : Nat) : Option (List Byte) :=
  match s.check { r with now := true } .name (mkAddr seg (BitVec.ofNat 40 off)) 0 size 1 with
  | .ok q => if off < 2 ^ 40 then some (q.2.2.2.map (fun l => (s.laneByte wid l).1)) else none
  | .fault _ => none
  | .miss _ => none

/-- The outcome of the search of one space: a record's word, no live record, or NSFAULT. -/
inductive NsFind where
  | found (word : Nat)
  | missing
  | bad
  deriving DecidableEq, Repr

/-- The search of a bucket's chain from a record number (R58). -/
def State.nsChain (s : State) (r : Req) (wid : Nat) (seg : Seg) (rbase rcount : Nat) (name : List Byte) : Nat → Nat → NsFind
  | 0, k => if k = 0 then .missing else .bad
  | fuel + 1, k =>
    if k = 0 then .missing
    else if rcount < k then .bad
    else match s.nsBytes r wid seg (rbase + 96 * (k - 1)) 96 with
      | none => .bad
      | some bs =>
        let w := leNat ((bs.drop 64).take 8)
        if bitsOf w 34 32 ≠ 0 ∨ (bs.drop 80).any (· != 0) then .bad
        else if bs.take 64 = name ∧ bitAt w 35 = false then .found w
        else s.nsChain r wid seg rbase rcount name fuel (bitsOf w 31 0)

/-- The search of one name space (R58); BLOG2 above 24 and an RBASE off 64 are malformed too (the model's choice, log entry 24). -/
def State.nsSearch (s : State) (r : Req) (wid : Nat) (seg : Seg) (name : List Byte) (hash : Nat) : NsFind :=
  match s.nsBytes r wid seg 0 0x40 with
  | none => .bad
  | some h =>
    let w0 := leNat (h.take 8)
    let w1 := leNat ((h.drop 8).take 8)
    if bitsOf w0 63 56 ≠ 1 ∨ bitsOf w0 55 48 ≠ 0 ∨ bitsOf w0 39 32 ≠ 0 ∨ 24 < bitsOf w0 47 40 ∨ bitsOf w1 63 40 ≠ 0 ∨
        bitsOf w1 39 0 % 64 ≠ 0 ∨ (h.drop 16).any (· != 0) then .bad
    else match s.nsBytes r wid seg (0x40 + 4 * (hash % 2 ^ bitsOf w0 47 40)) 4 with
      | none => .bad
      | some b => s.nsChain r wid seg (bitsOf w1 39 0) (bitsOf w0 31 0) name (bitsOf w0 31 0) (leNat b)

/-- The search of the lookup order from a position (R61): the value of a LOOKUP (R316). -/
def State.orderSearch (s : State) (r : Req) (wid : Nat) (name : List Byte) (hash : Nat) : Nat → List (BitVec 32) → Nat
  | _, [] => 1
  | pos, o :: os =>
    if !o.getLsbD 31 then 1
    else match s.nsSearch r wid (o.setWidth 24) name hash with
      | .found w => bitsOf w 63 40 * 2 ^ 40 + bitsOf w 39 36 * 2 ^ 36 + pos * 2 ^ 8
      | .missing => s.orderSearch r wid name hash (pos + 1) os
      | .bad => 3

/-- The value of a LOOKUP of a stored name (R316). -/
def State.lookupValue (s : State) (r : Req) (wid : Nat) (field : List Byte) : DWord :=
  match nameOf field with
  | none => 2
  | some cs => BitVec.ofNat 64 (s.orderSearch r wid field (fnv1a cs) 0 (s.ctx r.ctx).ord)

/-! ### The entry that a word selects (R313) -/

/-- The entry that operand A selects, and where the entries start. -/
def State.selectEntry (s : State) (x : IC) (a : Nat) : Except LFault (Nat × Nat) :=
  let c := x.p.ctx
  if bitAt a 63 then
    if bitsOf a 62 16 ≠ 0 then .error (linkFault 6)
    else (s.slotToEntry c (s.moduleOf x.w.core c (segOf x.pc)) (bitsOf a 15 0)).map (fun q => (q.1, q.2.1))
  else if !x.sys then .error ⟨.priv, 0, 0, 0, 0⟩
  else if bitsOf a 62 32 ≠ 0 then .error (linkFault 6)
  else match s.btHeader c with
    | .error f => .error f
    | .ok (eb, _, ec, _) => if ec ≤ bitsOf a 31 0 then .error (linkFault 6) else .ok (bitsOf a 31 0, eb)

/-- The handle that the DISP field of a word names. -/
def handleOf (f : MF) : Nat := f.disp.toNat % 16

/-- Whether a word that makes a future is held (R312, R349): its handle's future is PENDING, or the table is full. -/
def State.futureHeld (s : State) (x : IC) (h : Nat) (k : FutKind) : Bool :=
  s.pending (x.w.handle x.sys x.agent h) || (s.newFut (coreDie x.w.core) x.p.ctx k 0).isNone

/-- A new future in a handle of the word's agent (R349). -/
def State.makeFuture (s : State) (x : IC) (h : Nat) (k : FutKind) (parts : Nat) : State × Option FutRef :=
  match s.newFut (coreDie x.w.core) x.p.ctx k parts with
  | some (s1, r) => (s1.setHandle x.w.id x.sys x.agent h (some r), some r)
  | none => (s, none)

/-- A future completed at once, where it was made. -/
def State.finish (s : State) (r : Option FutRef) (v : DWord) : State :=
  match r with
  | some r => s.completeFut r v
  | none => s

/-- LINK, MALFORMED at the word, for its agent, where the entry is found malformed in the operation's step (R313). -/
def State.malformedAt (s : State) (x : IC) (eb e : Nat) (y : State) : State :=
  match s.entryAt x.p.ctx eb e with
  | .ok _ => y
  | .error f => y.faultLanes x.w.id x.pc x.hdr .load [(x.agent, f)]

/-- The entry that operand A selects, where its words can be read (R37, R313). -/
def State.bindTarget (s : State) (x : IC) (a : Nat) : Except LFault (Nat × Nat) :=
  match s.selectEntry x a with
  | .error f => .error f
  | .ok q => match s.entryWords x.p.ctx q.2 q.1 with
    | .error f => .error f
    | .ok _ => .ok q

/-- A binding word (R312 to R315): held while its future cannot be made; a commit point (R317), and where `rel` a release at `.pkg`
(R49); then its operation on the entry that A selects. -/
def bindWord (v : View) (f : MF) (k : Nat → FutKind) (pz : IC → Nat → Bool) (rel : IC → Bool)
    (op : IC → Nat → Nat → State → State) (s : State) : Host.Outcome State Fault Refusal :=
  runWord v false (fun x s1 =>
    let t := s1.bindTarget x (x.rd true f.a x.agent).toNat
    let due := (match t with
      | .ok _ => true
      | .error _ => false) && !pz x x.agent
    if s1.futureHeld x (handleOf f) (k 0) then .hold id
    else if due && s1.commitWaits x.p.id then .hold (fun y => y.openCommit x.p.id)
    else if due && rel x && s1.releaseWaits x .pkg then .hold id
    else memPlan x (agentOnly x) (pz x) (fun _ =>
      match t with
      | .error g => .fault g
      | .ok (e, eb) => .ok (fun y =>
        let y0 := if rel x then y.spread x.w.core .pkg else y
        y0.malformedAt x eb e (y0.committed x.p.id (op x e eb))))) s

/-- `bind`: one BIND of an entry (R314); one that writes BOUND is a release at `.pkg` (R49). -/
def execBind (c : Common) (f : MF) (s : State) : Host.Outcome State Fault Refusal :=
  bindWord (Instr.bind c f).view f (fun _ => .bind) (fun x i => x.pz true f.a i || x.pz true f.b i)
    (fun x => (bindOutcome (x.rd true f.b x.agent).toNat).1 == 2) (fun x e eb z =>
      let q := z.bindEntry x.p.ctx eb e (x.rd true f.b x.agent).toNat
      let m := q.1.makeFuture x (handleOf f) .bind 0
      m.1.finish m.2 q.2) s

/-- `unbind`: one UNBIND of an entry (R315). -/
def execUnbind (c : Common) (f : MF) (s : State) : Host.Outcome State Fault Refusal :=
  bindWord (Instr.unbind c f).view f .unbind (fun x i => x.pz true f.a i) (fun _ => false) (fun x e eb z =>
    let m := z.makeFuture x (handleOf f) (.unbind e) 0
    let q := m.1.unbindEntry x.p.ctx eb e
    match q.2 with
    | some v => q.1.finish m.2 v
    | none => q.1) s

/-- `lookup`: the handle's future is pending while the stored name is read, as a load of the agent; the search follows (R316). -/
def execLookup (c : Common) (f : MF) (s : State) : Host.Outcome State Fault Refusal :=
  runWord (Instr.lookup c f).view false (fun x s1 =>
    if s1.futureHeld x (handleOf f) (.lookup x.w.id 0) then .hold id
    else memPlan x (agentOnly x) (fun i => x.pz true f.a i) (fun i =>
      (s1.check (s1.reqOf x.w.id i) .load (x.addr f.a i) 0 64 8).map fun q =>
        (fun y =>
          let m := y.makeFuture x (handleOf f) (.lookup x.w.id y.nextId) 0
          m.1.issueLoad { x with track := 0 } i (x.addr f.a i) q.2.2.2 [] false))) s

/-- The search of a LOOKUP whose name has been read ends, and its future completes (R316). -/
def State.endLookup (s : State) (wid : Nat) (ld : LoadRec) : State :=
  let w := s.weft wid
  let name := ld.bytes.map (fun b => (b.2.getD (0, false)).1)
  let v := s.lookupValue (s.reqOf wid ld.lane) wid name
  (s.futs.filter (fun kf => kf.2.used && kf.2.value.isNone && kf.2.kind == .lookup w.id ld.id)).foldl (fun y kf =>
    y.completeFut ⟨kf.2.ctx, kf.1 / Config.futuresPerDie, kf.1 % Config.futuresPerDie, kf.2.gen⟩ v) s

/-- LOOKUPs whose weft, or the load of their name, is gone end without a search (R316). -/
def State.dropLookups (s : State) : State :=
  let alive (w l : Nat) : Bool := s.wefts.any (fun x => x.id == w && x.loads.any (fun z => z.id == l)) ||
    s.saved.any (fun v => v.wefts.any (fun x => x.id == w && x.loads.any (fun z => z.id == l)))
  (s.futs.filter (fun kf => kf.2.used && kf.2.value.isNone && (match kf.2.kind with
    | .lookup w l => !alive w l
    | .copy | .post | .deq | .publish | .bind | .unbind _ => false))).foldl (fun y kf =>
      y.completeFut ⟨kf.2.ctx, kf.1 / Config.futuresPerDie, kf.1 % Config.futuresPerDie, kf.2.gen⟩ 0x10) s

/-- `segrd`: the bound segment number of a link slot (R45, R254). -/
def execSegrd (c : Common) (f : VI) (s : State) : Host.Outcome State Fault Refusal :=
  runWord (Instr.segrd c f).view false (fun x s0 => s0.useSlot x (f.imm.toNat % 65536) (fun _ b =>
    .go (fun s1 => s1.tracked x (wordWrites true f.d x.lanes (fun _ => mkAddr (BitVec.ofNat 24 b.seg) 0))))) s

end Sys2Proof.Machine
end

