-- ==== Sys2Proof/Machine/Queue.lean ====
section
/-! DEFINITION. Message queues (R115 to R120, R318, R319): push and pop, and the arrivals of entries and credits. -/
namespace Sys2Proof.Machine

/-! ### Send slots (R116) -/

/-- The credits of a slot. -/
def mqsFree (x : DWord) : Nat := bitsOf x.toNat 12 0
/-- A slot with its credits set. -/
def mqsSetFree (x : DWord) (n : Nat) : DWord := BitVec.ofNat 64 (x.toNat / 2 ^ 13 * 2 ^ 13 + n % 2 ^ 13)
/-- The credits of a slot changed. -/
def State.setFree (s : State) (core n k : Nat) : State :=
  s.modCore core (fun c => { c with mqs := c.mqs.set n (mqsSetFree (c.mqs.getD n 0) k) })

/-- The lanes of a core parked on a push through a slot, in ascending order of weft number, then lane (R117). -/
def State.pushWaiters (s : State) (core n : Nat) : List (Nat × Nat) :=
  let ws := (List.range 16).filterMap (fun k => s.wefts.find? (fun w => w.core == core && w.slotNo == k))
  ws.flatMap (fun w => ((List.range 32).filter (fun i => (w.lane i).st == .parked (.push n false))).map (fun i => (w.id, i)))

/-- Parked lanes take a slot's credits in their order (R117): as many of the first weft as there are credits execute their push again;
those of the next weft follow when they have. -/
def State.wakePush (s : State) (core n : Nat) : State :=
  let ws := s.pushWaiters core n
  ((ws.filter (fun q => q.1 == (ws.headD (0, 0)).1)).take (mqsFree (s.mqs core n))).foldl (fun y wl =>
    y.modLane wl.1 wl.2 (fun l => { l with st := .active })) s

/-- Whether a parking is one at a push through a slot, refused or not. -/
def Park.onPush (n : Nat) (refused : Bool) : Park → Bool
  | .push k r => k == n && r == refused
  | .fault _ | .bind _ | .rejoin _ | .heldWait _ | .barrier _ _ _ | .nwait | .held | .node | .hold | .step _ | .spill | .walk _ => false

/-- A send slot has been rewritten: refused lanes execute their push again (R118); lanes that may no longer push through it do too, and
take their faults; the others take its credits (R117). -/
def State.slotWritten (s : State) (core n : Nat) : State :=
  let q := s.mqs core n
  let may (w : Weft) : Bool := q.getLsbD 63 && mqsCtx q == (s.panel w.panel).ctx
  ({ s with wefts := s.wefts.map (fun w => if w.core = core then
      w.unpark (fun p => p.onPush n true || (p.onPush n false && !may w)) else w) } : State).wakePush core n

/-! ### push (R117, R318) -/

/-- The 64 bytes of a register group vN to vN+15 of a lane, with their poison (R318). -/
def IC.group (x : IC) (b : Opnd) (lane : Nat) : List (Byte × Bool) :=
  match b with
  | .v n => (List.range 16).flatMap (fun k =>
      let o : Opnd := .v (n + BitVec.ofNat 8 k)
      (natLE 4 (x.rd false o lane).toNat).map (fun q => (q, x.pz false o lane)))
  | .s _ => []
  | .zero => []
  | .lane => []

/-- One lane's entry is sent: a credit less, the entry on its way, its place in the store queue (R117, R120). -/
def State.sendEntry (s : State) (x : IC) (lane n : Nat) (b : Opnd) : State :=
  let id := s.nextId
  let free := mqsFree (s.mqs x.w.core n)
  let s1 := (s.setFree x.w.core n (free - 1)).modCore x.w.core (fun c =>
    { c with mqIn := c.mqIn ++ [⟨id, n, x.group b lane, x.w.id, lane, x.pc, x.hdr⟩] })
  (({ s1 with nextId := id + 1 } : State).addParts x.w.id x.track 1).enqueue x.w.id lane x.track x.sys x.pc x.hdr (.push id)

/-- `push`: one entry for each lane while there are credits; the others park (R117, R318). Of a REPLAY panel it is a commit point, which
the weft's earlier stores precede (R120, R148). -/
def execPush (c : Common) (f : MF) (s : State) : Host.Outcome State Fault Refusal :=
  runWord (Instr.push c f).view false (fun x s1 =>
    let n := handleOf f
    let q := s1.mqs x.w.core n
    if x.awaits then .hold id
    else if !q.getLsbD 63 || mqsCtx q != x.p.ctx then .raise x.lanes ⟨.rights, 2, 0, 0, 0⟩
    else
      let pass := x.lanes.take (mqsFree q)
      let wait := x.lanes.drop (mqsFree q)
      let parkRest (y : State) : State := y.modWeft x.w.id (fun w => w.park wait (.push n false))
      if pass.isEmpty then .stay parkRest
      else if x.p.launch.replay && !x.w.sq.isEmpty then .hold id
      else if s1.commitWaits x.p.id then .hold (fun y => y.openCommit x.p.id)
      else .part pass (fun _ s2 => ((parkRest s2).committed x.p.id (fun s3 =>
        pass.foldl (fun y i => y.sendEntry x i n f.b) s3)).wakePush x.w.core n) [] []) s

/-! ### Queue headers (R115, R118) -/

/-- Whether the header of a queue at a pad offset of a share is malformed (R118): its words, its offset in the share, the
share's bytes. -/
def mqBad (h0 h1 off share : Nat) : Bool :=
  bitAt h0 63 || bitsOf h0 61 56 != 0 || bitsOf h0 51 46 != 0 || bitsOf h1 63 13 != 0 || bitsOf h0 55 52 == 0 ||
    12 < bitsOf h0 55 52 || share < off + 64 * (2 ^ bitsOf h0 55 52 + 1)

/-- A word of a core's pad by package physical address. -/
def State.padWord (s : State) (pa : Nat) : Nat := leNat ((List.range 8).map (fun i => s.chipByte (pa + i)))
/-- A word of a core's pad written. -/
def State.putPadWord (s : State) (pa x : Nat) : State :=
  s.write (wrs ((List.range 8).map (fun i => Loc.chip (pa + i) false)) (natLE 8 x))

/-! ### pop (R319) -/

/-- What a lane's pop gets: the entry's bytes, or none when the queue is empty or malformed; the state after it; and the
sender's slot when an entry is taken. -/
def State.popOne (s : State) (p : Panel) (off : Nat) : State × Option (List (Byte × Bool) × Nat) :=
  let base := padPa p.core (0x4000 * p.padb)
  let h0 := s.padWord (base + off)
  let h1 := s.padWord (base + off + 8)
  if mqBad h0 h1 off (0x4000 * p.launch.padu) then (s.report "message queue malformed" p.ctx [p.core, off], none)
  else
    let head := bitsOf h0 15 0
    if bitsOf h0 31 16 = head then (s, none)
    else
      let e := base + off + 64 + 64 * (head % 2 ^ bitsOf h0 55 52)
      let bs := (List.range 64).map (fun i => (s.chipByte (e + i), s.pzAt (.chip (e + i) false)))
      (s.putPadWord (base + off) (h0 - head + (head + 1) % 65536), some (bs, bitsOf h0 45 32))

/-- A pop of a lane: its registers are pending until the word completes. -/
def State.popLane (s : State) (x : IC) (lane : Nat) (d b : Opnd) (a : DWord) (off : Nat) : State :=
  let q := s.popOne x.p off
  let id := q.1.nextId
  let got := q.2.isSome
  let flag := (natLE 4 (b2n got)).map (fun z => (Loc.zero, some (z, false)))
  let bytes := match q.2 with
    | some (bs, _) => bs.map (fun z => (Loc.zero, some z)) ++ flag
    | none => flag
  let dk : List (Nat × Nat × Nat) := match d, got with
    | .v n, true => (List.range 16).map (fun k => (keyV lane (n.toNat + k), 4 * k, 4))
    | .v _, false => []
    | .s _, _ => []
    | .zero, _ => []
    | .lane, _ => []
  let bk : List (Nat × Nat × Nat) := match b with
    | .v n => [(keyV lane n.toNat, if got then 64 else 0, 4)]
    | .s _ => []
    | .zero => []
    | .lane => []
  let ld : LoadRec := ⟨id, x.track, lane, .ready, true, a, x.pc, x.hdr, bytes, dk ++ bk⟩
  let s1 := q.1.modWeft x.w.id (fun w =>
    (({ w with loads := w.loads ++ [ld] } : Weft).addUnknown id ((dk ++ bk).map (·.1)) |>.addParts x.track 1).fillPend id ld.value)
  let pa := padPa x.p.core (0x4000 * x.p.padb) + off
  let s2 : State := { s1 with nextId := id + 1 }
  match q.2 with
  | none => s2
  | some (_, snd) =>
    -- one credit return for each queue of the word (R119)
    if s2.credits.any (fun k => k.id == x.track && k.pa == pa) then
      { s2 with credits := s2.credits.map (fun k => if k.id = x.track ∧ k.pa = pa then { k with count := k.count + 1 } else k) }
    else { s2 with credits := s2.credits ++ [⟨x.track, snd, 1, pa, x.p.id, x.w.id⟩] }

/-- The check of a lane's pop (R319): the address resolves to PAD, then its header word under R26. -/
def State.popCheck (s : State) (r : Req) (a : DWord) : Chk Nat :=
  match s.resolve r (segOf a) (offOf a).toNat with
  | .error f => .fault (f.at a)
  | .ok (d, _, _) =>
    if d.kind ≠ kPad then .fault ⟨.rights, 1, a, 0, 0⟩
    else (s.check r .atomic a 0 8 64).map fun q => q.2.2.1

/-- Whether a pop of some lanes at a queue waits on the range scoreboard (R122): its header, which it writes, or an entry that they would
take. -/
def State.popBlocked (s : State) (p : Panel) (off n : Nat) : Bool :=
  let base := padPa p.core (0x4000 * p.padb)
  let h0 := s.padWord (base + off)
  let occ := (bitsOf h0 31 16 + 65536 - bitsOf h0 15 0) % 65536
  let at_ (o k : Nat) : List Loc := (List.range k).map (fun i => Loc.chip (base + o + i) false)
  s.boardBlocks p.core (at_ off 16) true ||
    (List.range (min n occ)).any (fun j => s.boardBlocks p.core
      (at_ (off + 64 + 64 * ((bitsOf h0 15 0 + j) % 2 ^ bitsOf h0 55 52)) 64) false)

/-- `pop`: the lanes take entries in ascending order (R319). It is held while earlier stores of the weft are in the queue, and by the
range scoreboard (R122). -/
def execPop (c : Common) (f : MF) (s : State) : Host.Outcome State Fault Refusal :=
  runWord (Instr.pop c f).view false (fun x s1 =>
    let chk (i : Nat) : Chk Nat := s1.popCheck (s1.reqOf x.w.id i) (x.addr f.a i)
    let offs := (sortLanes chk (x.lanes.filter (fun i => !x.pz true f.a i))).1.map (·.2)
    if !x.w.sq.isEmpty || offs.any (fun o => s1.popBlocked x.p o x.lanes.length) then .hold id
    else memPlan x x.lanes (fun i => x.pz true f.a i) (fun i =>
      (chk i).map fun off => (fun y => y.popLane x i f.d f.b (x.addr f.a i) off))) s

/-! ### Arrivals -/

/-- An entry is refused (R118): its credit returns and its lane parks at the push again. -/
def State.refusePush (s : State) (core : Nat) (m : MqMsg) : State :=
  let s1 := s.setFree core m.slot (min 4096 (mqsFree (s.mqs core m.slot) + 1))
  let s2 := match ((s1.weft m.weft).lane m.lane).st with
    | .exited | .stopped _ => s1
    | .active | .parked _ =>
      s1.modLane m.weft m.lane (fun l => { l with pc := m.pc, pos := .inside m.hdr, st := .parked (.push m.slot true) })
  s2.wakePush core m.slot

/-- An entry lands, or is discarded (R118). -/
def State.landEntry (s : State) (p : Panel) (off : Nat) (m : MqMsg) : State :=
  let base := padPa p.core 0
  let h0 := s.padWord (base + off)
  let h1 := s.padWord (base + off + 8)
  let n := 2 ^ bitsOf h0 55 52
  let tail := bitsOf h0 31 16
  if mqBad h0 h1 (off - 0x4000 * p.padb) (0x4000 * p.launch.padu) || (tail + 65536 - bitsOf h0 15 0) % 65536 == n then
    (s.putPadWord (base + off) (if bitAt h0 62 then h0 else h0 + 2 ^ 62)).report "message discarded" p.ctx [p.core, off]
  else
    let e := base + off + 64 + 64 * (tail % n)
    let s1 := s.write ((m.bytes.zipIdx).map (fun q => ⟨Loc.chip (e + q.2) false, q.1.1, q.1.2⟩))
    s1.putPadWord (base + off) (h0 - tail * 65536 + (tail + 1) % 65536 * 65536)

/-- MQ_ENTRY_ARRIVAL: the oldest entry of a send slot arrives at its target, once its turn in the store queue has come (R117,
R118). -/
def execMqEntryArrival (core slot : Nat) (s : State) : Host.Outcome State Fault Refusal :=
  match (s.core core).mqIn.find? (fun m => m.slot == slot) with
  | none => .next s
  | some m =>
    if (s.weft m.weft).sq.any (fun e => e.op == .push m.id) then .next s
    else
      let q := s.mqs core slot
      let s1 := s.modCore core (fun c => { c with mqIn := c.mqIn.filter (fun z => z.id != m.id) })
      match s.padOwner (mqsCore q) (mqsOff q) with
      | none => .next (s1.refusePush core m)
      | some p =>
        if p.ctx ≠ mqsCtx q then .next (s1.refusePush core m)
        else if !p.admits then .next s
        else
          let base := padPa p.core 0
          let h0 := s1.padWord (base + mqsOff q)
          let e := base + mqsOff q + 64 + 64 * (bitsOf h0 31 16 % 2 ^ bitsOf h0 55 52)
          .next ((s1.landEntry p (mqsOff q) m).inbound p ((List.range 16).map (fun i => Loc.chip (base + mqsOff q + i) false) ++
            (List.range 64).map (fun i => Loc.chip (e + i) false)))

/-- Whether a credit return waits (R119, R453): its POP has not completed, or a rollback could still take it back. -/
def State.creditWaits (s : State) (k : Credit) : Bool :=
  (s.weft k.weft).loads.any (fun l => l.track == k.id) ||
    ((s.panel k.panel).launch.replay && (match (s.panel k.panel).ckpt with
      | some q => decide (q.mark ≤ k.id)
      | none => true))

/-- MQ_CREDIT_RETURN: a credit return arrives at the sender's slot; with no live slot of the queue's context it is kept in UNRET of a
panel that is still there (R119). -/
def execMqCreditReturn (id : Nat) (s : State) : Host.Outcome State Fault Refusal :=
  match s.credits.find? (fun k => k.id == id && !s.creditWaits k) with
  | none => .next s
  | some k =>
    let s1 : State := { s with credits := s.credits.filter (fun z => !(z.id == id && z.pa == k.pa)) }
    let core := coreOf (bitsOf k.sender 13 12) (bitsOf k.sender 11 6) (bitsOf k.sender 5 4)
    let n := bitsOf k.sender 3 0
    let q := s.mqs core n
    match s.panels.find? (fun p => p.id == k.panel) with
    | none => .next s1
    | some p =>
      if q.getLsbD 63 && p.ctx == mqsCtx q then
        .next ((s1.setFree core n (min 4096 (mqsFree q + k.count))).wakePush core n)
      else
        let h1 := s1.padWord (k.pa + 8)
        .next ((s1.putPadWord (k.pa + 8) (h1 - bitsOf h1 12 0 + min 8191 (bitsOf h1 12 0 + k.count))).inbound p
          ((List.range 8).map (fun i => Loc.chip (k.pa + 8 + i) false)))

/-- PUSH_RETRY_TIMEOUT: the refused lanes of a weft execute their push again (R118). -/
def execPushRetryTimeout (weft : Nat) (s : State) : Host.Outcome State Fault Refusal :=
  .next (s.modWeft weft (fun w => w.unpark (fun p => match p with
    | .push _ r => r
    | .fault _ | .bind _ | .rejoin _ | .heldWait _ | .barrier _ _ _ | .nwait | .held | .node | .hold | .step _ | .spill | .walk _ => false)))

end Sys2Proof.Machine
end

