-- ==== Sys2Proof/Machine/Sector.lean ====
section
/-! DEFINITION. What the engines and the beam share: swizzle modes (R112), tiles and their owners (R101, R102, R323, R409), barriers
that count commands and matrix words (R357 to R359), and sectors moved by engines (R79, R129, R149). -/
namespace Sys2Proof.Machine

/-! ### Swizzle modes (R112) -/

/-- The pad offset that an unswizzled structure offset uses. -/
def swzOff (m a : Nat) : Nat :=
  match m with
  | 1 => a ^^^ ((a >>> 3) &&& 0x70)
  | 2 => a ^^^ ((a >>> 4) &&& 0xF0)
  | 3 => a ^^^ ((a >>> 5) &&& 0x1F0)
  | _ => a

/-- A place under a swizzle mode, which applies to bytes of a panel pad. -/
def Loc.swz (m : Nat) (l : Loc) : Loc :=
  match l with
  | .chip pa win => if isPad pa then .chip (pa - (blockOff pa - padOff) + swzOff m (blockOff pa - padOff)) win else l
  | .hbm _ _ _ => l
  | .zero => l
  | .host _ _ => l
  | .remote _ _ _ _ _ => l

/-- The span of bytes that a mode permutes (R121). -/
def swzSpan (m : Nat) : Nat := [1, 128, 256, 512].getD m 1

/-! ### Tiles (R101, R102, R323) -/

/-- The first byte of a physical tile: accumulators 0 to 7, partials 8 to 11. -/
def tilePa (core t : Nat) : Nat := if t < 8 then coreBlock core + accOff + 0x8000 * t else coreBlock core + partOff + 0x10000 * (t - 8)
/-- The bytes of a physical tile. -/
def tileSize (t : Nat) : Nat := if t < 8 then 0x8000 else 0x10000
/-- Bytes of a tile by place. -/
def tileLocs (core t off n : Nat) : List Loc := (List.range n).map (fun i => Loc.chip (tilePa core t + off + i) false)
/-- A tile zeroed, its OWNER set (R323, R407). -/
def State.zeroTile (s : State) (core t : Nat) (owner : CtxId) : State :=
  (s.write (wrs (tileLocs core t 0 (tileSize t)) (List.replicate (tileSize t) 0))).modTag core t (fun g =>
    if owner = 0 then { TileTag.reset with owner := 0 } else { g with owner := owner })

/-- The outcome of a spill. -/
inductive Spill where
  | ok (s : State)
  /-- It meets PAGE. -/
  | page (f : LFault)
  | fail

/-- A tile copied to its spill home and marked SPILLED in its owner's locator, in the save block too (R376, R409, R412); with no home
there is nothing to copy. -/
def State.spillTile (s : State) (core t : Nat) : Spill :=
  match (s.core core).homes.getD t none with
  | none => .ok s
  | some (c, block, k) =>
    match s.deviceLocs c .store (s.ctx c).saveSeg (offOf (s.spillHome core t)).toNat (tileSize t) with
    | .error f => if f.code = .page then .page f else .fail
    | .ok (_, ls) =>
      let bs := s.read (tileLocs core t 0 (tileSize t))
      let s0 := s.write ((ls.zip bs).map (fun q => ⟨q.1, q.2.1, q.2.2⟩))
      let at_ (v : Saved) : Nat := if t < 8 then k else v.panel.launch.acct + k
      let s1 := match s0.saved.find? (fun v => v.panel.ctx == c && v.block == block) with
        | some v => s0.deviceWrite c (s.ctx c).saveSeg (blockBase block + 0x40018 + 2 * at_ v) 2 (t % 16 + 2 ^ 15)
        | none => s0
      .ok { s1.modCore core (fun x => { x with homes := x.homes.set t none }) with
        saved := s1.saved.map (fun v => if v.panel.ctx = c ∧ v.block = block then
          { v with tiles := v.tiles.modify (at_ v) (fun q => (q.1, true)) } else v) }

/-- Whether a place lies in a tile that a running matrix word of its core writes (R107): none of a panel that is being pre-empted. -/
def State.tileBusy (s : State) (writes : Nat → MWord → List Nat) (l : Loc) : Bool :=
  match l with
  | .chip pa true =>
    let c := coreOfPa pa
    (s.core c).morder.any (fun m => m.started && !m.susp && !m.ended && (s.panel m.panel).life != .halting && (writes c m).any (fun t =>
      decide (tilePa c t ≤ pa) && decide (pa < tilePa c t + tileSize t)))
  | .chip _ false => false
  | .hbm _ _ _ => false
  | .zero => false
  | .host _ _ => false
  | .remote _ _ _ _ _ => false

/-! ### Barriers (R357 to R359) -/

/-- The barrier record that a scope and a tag name (R357): the panel barrier, or a route tag's. -/
def barIdx (sc : Scope) (tag : Nat) : Nat := if sc = .core then 0 else 1 + tag
/-- Whether a panel is a member of a barrier (R357). -/
def Panel.isMember (p : Panel) (sc : Scope) (tag : Nat) : Bool :=
  sc == .core || (p.launch.bscope == sc.code.toNat && (p.bars.getD (1 + tag) BarRec.nil).member)
/-- The phase of a panel's barrier. -/
def Panel.phase (p : Panel) (idx : Nat) : Nat := (p.bars.getD idx BarRec.nil).phase
/-- The phase at which a lane last arrived. -/
def Lane.arrivedAt (l : Lane) (idx : Nat) : Option Nat := l.arrived.getD idx none
/-- The members of a barrier, resident and saved, with their wefts (R357). -/
def State.barMembers (s : State) (b : BarrierName) : List (Panel × List Weft) :=
  let all := s.panels.map (fun p => (p, s.weftsOf p.id)) ++ s.saved.map (fun v => (v.panel, v.wefts))
  match b with
  | .panel p => all.filter (fun q => q.1.id == p)
  | .reed sc node tag c => all.filter (fun q => q.1.ctx == c && q.1.isMember sc tag && nodeOf sc q.1.core == node)

/-- The record of a barrier in its members. -/
def recIdx : BarrierName → Nat
  | .panel _ => 0
  | .reed sc _ tag _ => barIdx sc tag

/-- Whether a member has arrived in its current phase (R358): every lane that has not exited has. -/
def memberArrived (idx : Nat) (q : Panel × List Weft) : Bool :=
  q.2.all (fun w => w.lanes.all (fun l => l.st == .exited || l.arrivedAt idx == some (q.1.phase idx)))

/-- Whether some lane of a member has arrived in the current phase. -/
def memberHas (idx : Nat) (q : Panel × List Weft) : Bool :=
  q.2.any (fun w => w.lanes.any (fun l => l.arrivedAt idx == some (q.1.phase idx)))

/-- The scope of a barrier. -/
def barScope : BarrierName → Scope
  | .panel _ => .core
  | .reed sc _ _ _ => sc

/-- Whether a lane of a member that has exited has an access that its node does not see yet (R137, R161). -/
def State.exitOut (s : State) (sc : Scope) (q : Panel × List Weft) : Bool :=
  let gone (w : Weft) (i : Nat) : Bool := (w.lane i).st == .exited
  q.2.any (fun w => w.sq.any (fun e => gone w e.lane) || w.loads.any (fun l => l.wait != .ready && gone w l.lane) ||
      (s.core w.core).morder.any (fun m => m.weft == w.id && gone w m.lane)) ||
    (decide (Scope.core.rank < sc.rank) && q.2.any (fun w => (List.range 32).any (gone w)) && s.storesOut q.1.core)

/-- Whether every condition of a phase's completion holds (R161, R163, R358); the members of a `.pod` barrier in other packages arrive at
a time that this package does not choose (R357). -/
def State.phaseDone (s : State) (b : BarrierName) : Bool :=
  let ms := s.barMembers b
  let idx := recIdx b
  ms.any (memberHas idx) && ((barScope b) != .pod || Config.podArrived s.time) && ms.all (fun q =>
    let r := q.1.bars.getD idx BarRec.nil
    memberArrived idx q && r.pend == 0 && r.words == 0 && !q.2.any (fun w => w.halted) && !s.exitOut (barScope b) q)

/-- Whether the completion of a barrier's phase is decided and on its way (R359). -/
def State.decided (s : State) (b : BarrierName) : Bool :=
  (s.barMembers b).any (fun q => (q.1.bars.getD (recIdx b) BarRec.nil).decided)

/-- The completion of a barrier's phase is decided where its conditions hold: what is counted from now on counts in the next phase
(R359). -/
def State.decideBar (s : State) (b : BarrierName) : State :=
  if s.decided b || !s.phaseDone b then s
  else
    let ids := (s.barMembers b).map (fun q => q.1.id)
    let f (p : Panel) : Panel := if ids.contains p.id then { p with bars := p.bars.modify (recIdx b) (fun r => { r with decided := true }) } else p
    { s with panels := s.panels.map f, saved := s.saved.map (fun v => { v with panel := f v.panel }) }

/-- The barrier of a panel that a scope and a tag name. -/
def Panel.barrier (p : Panel) (sc : Scope) (tag : Nat) : BarrierName :=
  if sc = .core then .panel p.id else .reed sc (nodeOf sc p.core) tag p.ctx

/-- Pending bytes of a panel's barrier changed, the panel resident or saved (R359, R438). -/
def State.modPend (s : State) (pid : Nat) (b : Option (Scope × Nat)) (g : Nat → Nat) : State :=
  match b with
  | some q =>
    let f (p : Panel) : Panel := { p with bars := p.bars.modify (barIdx q.1 q.2) (fun r => { r with pend := g r.pend }) }
    { s.modPanel pid f with saved := s.saved.map (fun v => if v.id = pid then { v with panel := f v.panel } else v) }
  | none => s
/-- A command accepted under a barrier adds its bytes to the count of the phase that is not decided (R359). -/
def State.addPend (s : State) (p : Panel) (b : Option (Scope × Nat)) (n : Nat) : State :=
  match b with
  | some q => (s.decideBar (p.barrier q.1 q.2)).modPend p.id b (fun k => k + n)
  | none => s
/-- Whether more bytes fit under a panel's barrier (R359). -/
def Panel.pendFits (p : Panel) (b : Option (Scope × Nat)) (n : Nat) : Bool :=
  match b with
  | some q => decide ((p.bars.getD (barIdx q.1 q.2) BarRec.nil).pend + n < 2 ^ 48)
  | none => true

/-! ### Accesses by an engine -/

/-- The check of a command's end (R28): descriptor, number and the command's first offset, checked from an offset of the command
through the LIMIT step. -/
def State.endOf (s : State) (r : Req) (cls : Cls) (a : DWord) (prog len : Nat) : Except LFault (Desc × Seg × Nat) :=
  match s.checkTo r cls a prog (len - prog) 1 false with
  | .error f => .error (f.ofCls cls)
  | .ok (d, seg, off) => .ok (d, seg, off - prog)

/-- The places of `n` bytes of a checked end from an offset of the command (R22, R79): an ACC or PART number presents no tile of another
context (R92), and a home that does not answer raises PAGE (R82). -/
def State.endLocs (s : State) (r : Req) (cls : Cls) (e : Desc × Seg × Nat) (prog n : Nat) : Chk (List Loc) :=
  let a := mkAddr e.2.1 (BitVec.ofNat 40 (e.2.2 + prog))
  match s.foreignTile r e.1.kind (e.2.2 + prog) n with
  | some t => .fault ⟨.accown, 0, a, t + ((s.core r.core).tags.getD t TileTag.reset).owner.toNat * 256, BitVec.ofNat 64 r.core⟩
  | none =>
    match s.locsFrom r cls e.1 e.2.1 (e.2.2 + prog) n with
    | .ok ls =>
      if ls.any (fun l => match l with
          | .remote node _ _ _ _ => !Config.nodeAnswers node s.fresh
          | .chip _ _ | .hbm _ _ _ | .zero | .host _ _ => false) then .fault ((pageFault 5 a).ofCls cls)
      else .ok ls
    | .fault f => .fault (f.ofCls cls)
    | .miss p => .miss p

/-- The structure offset of an end in the core's own pad (R121): through PAD, or a window that names this core. -/
def ownPadEnd (p : Panel) (d : Desc) (off : Nat) : Option Nat :=
  if d.kind = kPad then some (0x4000 * p.padb + off)
  else if d.kind = 4 ∧ bitsOf d.kspec 2 0 = 1 ∧ coreOf (bitsOf d.kspec 15 14) (bitsOf d.kspec 13 8) (bitsOf d.kspec 7 6) = p.core then
    some (d.base + off)
  else none

/-- The number under which an engine writes: that of no core, so that every core may see its landings late (R144). -/
def noCore : Nat := 4096

/-- The panels whose pads places lie in, other than a panel itself. -/
def State.padsOf (s : State) (pid : Nat) (ls : List Loc) : List Panel :=
  (ls.filterMap (fun l => match l with
    | .chip pa _ => if isPad pa then s.padOwner (coreOfPa pa) (blockOff pa - padOff) else none
    | .hbm _ _ _ | .zero | .host _ _ | .remote _ _ _ _ _ => none)).foldl (fun acc p =>
      if p.id = pid ∨ acc.any (fun q => q.id == p.id) then acc else acc ++ [p]) []

/-- The first REPLAY panel whose pad does not let an access from outside in, of those that places lie in (R149). -/
def State.padHolds (s : State) (pid : Nat) (ls : List Loc) : Option Nat :=
  ((s.padsOf pid ls).find? (fun p => !p.admits)).map (fun p => p.id)

/-- The panel itself, where it is a REPLAY panel whose last commit point followed an operation: no rollback performs that again. -/
def State.keptOf (s : State) (pid id : Nat) : List Panel :=
  if id ≠ 0 ∧ (s.panel pid).ckpt.any (fun k => decide (id < k.mark)) then [s.panel pid] else []

/-- Bytes land from outside a panel, or from its engines (R149): those that land in other panels' pads enter their shadows too, and so do
those of an operation of the panel that its last commit point follows (R453). `core`: the core that writes; `src`: the copy command, of
which `id` is the number, as it is of another operation. -/
def State.landBy (s : State) (pid core : Nat) (ws : List Wr) (src : Nat := 0) (id : Nat := src) : State :=
  let ls := ws.map (·.loc)
  (s.padsOf pid ls ++ s.keptOf pid id).foldl (fun y p => y.inbound p ls) (s.writeBy core ws src)

/-- Bytes land, performed throughout the package: no core sees them late (R135, R432). -/
def State.landAll (s : State) (pid : Nat) (ws : List Wr) (id : Nat := 0) : State :=
  (({ s with nextId := s.nextId + 1 } : State).landBy pid noCore ws s.nextId id).spreadCmd s.nextId

end Sys2Proof.Machine
end

