-- ==== Sys2Proof/Machine/Matrix.lean ====
section
/-! DEFINITION. Matrix words (R322 to R346, R394 to R400): their checks at issue, the matrix order of a core, treadle steps and
completion. -/
namespace Sys2Proof.Machine

/-! ### Shapes and tiles of a word -/

/-- M of a word's SHAPE. -/
def MWord.mM (m : MWord) : Nat := shapeM m.f.shape
/-- N of a word's SHAPE. -/
def MWord.mN (m : MWord) : Nat := shapeN m.f.shape
/-- K-blocks of a word's SHAPE. -/
def MWord.mKb (m : MWord) : Nat := shapeK m.f.ety m.f.shape / 32
/-- The beam slots that a word uses. -/
def MWord.slots (m : MWord) : List Nat :=
  match m.kind with
  | .bload | .mmaW | .mmaQ | .mmaS => (List.range (shapeMacros m.f.ety m.f.shape)).map (fun i => m.f.bs.toNat + i)
  | .bclr => [m.f.bs.toNat]
  | .align | .sacc | .tld | .tst | .tzero | .pld | .pst | .pzero => []
/-- Partial tile names of a product (R336). -/
def MWord.prodTiles (m : MWord) : List Nat := (List.range (shapeTiles m.f.ety m.f.shape)).map (fun i => m.f.td.toNat + i)

/-- The accumulator tile names that a form uses. -/
def accNames (k : MKind) (f : XF) : List Nat :=
  match k with
  | .mmaS | .sacc | .tld | .tst | .tzero => [f.td.toNat]
  | .bload | .bclr | .mmaW | .mmaQ | .align | .pld | .pst | .pzero => []
/-- The partial tile names that a form uses, but for those that `sacc` reads past QP. -/
def partNames (k : MKind) (f : XF) : List Nat :=
  match k with
  | .mmaW | .mmaQ => (List.range (shapeTiles f.ety f.shape)).map (fun i => f.td.toNat + i)
  | .pld | .pst | .pzero => [f.td.toNat]
  | .sacc => [f.qp.toNat]
  | .bload | .bclr | .mmaS | .align | .tld | .tst | .tzero => []

/-- The physical tiles of a panel by names. -/
def Panel.tiles (p : Panel) (acc part : List Nat) : List Nat := acc.filterMap p.accTile ++ part.filterMap p.partTile

/-- The request of a tile transfer's sectors. -/
def State.mwReq (_s : State) (core : Nat) (m : MWord) : Req :=
  { ctx := m.ctx, core := core, panel := m.panel, sys := m.sys, sseg := 0, fb := 0, who := whoFor (whoCopy (coreDie core)) m.id }

/-- The bytes of the tile that a tile transfer moves (R346). -/
def MKind.span : MKind → Nat
  | .tld | .tst => 0x8000
  | .pld | .pst => 0x10000
  | .bload | .bclr | .mmaW | .mmaQ | .mmaS | .align | .sacc | .tzero | .pzero => 0
/-- The access class of a tile transfer (R346). -/
def MKind.cls : MKind → Cls
  | .tst | .pst => .store
  | .bload | .bclr | .mmaW | .mmaQ | .mmaS | .align | .sacc | .tld | .tzero | .pld | .pzero => .load

/-- The A operand of a tile transfer, checked from an offset of the tile (R28, R33, R346). -/
def State.mwSrc (s : State) (core : Nat) (m : MWord) (prog : Nat) : Except LFault (Desc × Seg × Nat) :=
  match m.src with
  | some e => .ok e
  | none => s.endOf (s.mwReq core m) m.kind.cls m.aval prog m.kind.span

/-- The tiles of the core that some bytes of a tile transfer's A lie in: through an ACC or PART number, and through a window onto the
core itself where `win` (R23, R344). -/
def State.farTiles (s : State) (core : Nat) (m : MWord) (win : Bool) (lo n : Nat) : List Nat :=
  if m.kind.span = 0 then []
  else match s.mwSrc core m 0 with
    | .error _ => []
    | .ok (d, _, off) =>
      if d.kind ≠ 4 then s.tilesOf (s.mwReq core m) d.kind (off + lo) n
      else if !win || coreOf (bitsOf d.kspec 15 14) (bitsOf d.kspec 13 8) (bitsOf d.kspec 7 6) != core then []
      else (List.range 12).filter (fun t =>
        let o := if t < 8 then 0x8000 * t else 0x10000 * (t - 8)
        bitsOf d.kspec 2 0 == (if t < 8 then 2 else 3) && decide (o < d.base + off + lo + n) && decide (d.base + off + lo < o + tileSize t))

/-- The physical tiles that a word writes on its core. -/
def State.mwWrites (s : State) (core : Nat) (m : MWord) : List Nat :=
  let p := s.panel m.panel
  match m.kind with
  | .mmaW | .mmaQ => p.tiles [] m.prodTiles
  | .mmaS | .sacc | .tld | .tzero => p.tiles [m.f.td.toNat] []
  | .pld | .pzero => p.tiles [] [m.f.td.toNat]
  | .tst | .pst => s.farTiles core m true 0 m.kind.span
  | .bload | .bclr | .align => []

/-- M, N and KB of a partial tile's tag (R323). -/
def TileTag.dims (t : TileTag) : Nat × Nat × Nat :=
  (if t.mc = 0 then 32 else 64, if t.nc = 0 then 32 else if t.nc = 1 then 64 else 128, t.kb)

/-- The dimensions that the tag of a `sacc`'s partial tile will have in the matrix order: those that an earlier word will leave, or
the tag's (R342). -/
def State.saccDims (s : State) (core : Nat) (p : Panel) (qp before : Nat) : Nat × Nat × Nat :=
  let t := (p.partTile qp).getD 8
  match (((s.core core).morder.filter (fun m => m.id < before)).reverse.find? (fun m =>
      (s.mwWrites core m).contains t)) with
  | some m => if m.kind = .mmaW ∨ m.kind = .mmaQ then (m.mM, m.mN, m.mKb) else (64, 128, 1)
  | none => (s.tag core t).dims

/-- The physical tiles that a word reads on its core. -/
def State.mwReads (s : State) (core : Nat) (m : MWord) : List Nat :=
  let p := s.panel m.panel
  match m.kind with
  | .sacc =>
    let d := s.saccDims core p m.f.qp.toNat m.id
    p.tiles [] ((List.range (ceilDiv (d.1 * d.2.1 * d.2.2) 8192)).map (· + m.f.qp.toNat))
  | .tst => p.tiles [m.f.td.toNat] []
  | .pst => p.tiles [] [m.f.td.toNat]
  | .tld | .pld => s.farTiles core m true 0 m.kind.span
  | .bload | .bclr | .mmaW | .mmaQ | .mmaS | .align | .tzero | .pzero => []

/-- The number of steps of a word (R340). -/
def State.mwSteps (s : State) (core : Nat) (m : MWord) : Nat :=
  match m.kind with
  | .bload => shapeMacros m.f.ety m.f.shape
  | .bclr | .tzero | .pzero => 1
  | .mmaW | .mmaS => 4 * m.mKb
  | .mmaQ => m.mKb
  | .align => bitsOf m.desc 111 96
  | .sacc => (s.saccDims core (s.panel m.panel) m.f.qp.toNat m.id).2.2
  | .tld | .tst => 32
  | .pld | .pst => 64

/-! ### Issue (R326, R329, R330) -/

/-- The check of an operand that must resolve to PAD (R330, R332). -/
def State.padCheck (s : State) (r : Req) (cls : Cls) (a : DWord) (size align : Nat) : Chk Unit :=
  match s.resolve r (segOf a) (offOf a).toNat with
  | .error f => .fault (f.at a)
  | .ok (d, _, _) => if d.kind ≠ kPad then .fault ⟨.rights, 1, a, 0, 0⟩ else (s.check r cls a 0 size align).map (fun _ => ())

/-- The cores of a word's gang (R189, R329). -/
def gangCores (core : Nat) (gm : BitVec 4) : List Nat :=
  if gm = 0 then [core] else (List.range 4).filterMap (fun i => if gm.getLsbD i then some (core / 4 * 4 + i) else none)

/-- The gang partner on a core (R329): none where there is none or more than one. -/
def State.partner (s : State) (p : Panel) (c : Nat) : Option Panel :=
  if c = p.core then some p
  else match s.panels.filter (fun q => q.core == c && q.launch.id == p.launch.id && q.life != .ending) with
    | [q] => some q
    | [] => none
    | _ :: _ :: _ => none

/-- The align descriptor at a pad offset of a panel, as a weft of its core reads it (R341). -/
def State.alignDesc (s : State) (wid : Nat) (p : Panel) (off : Nat) : Nat :=
  s.laneNat wid ((List.range 16).map (fun i => Loc.chip (padPa p.core (0x4000 * p.padb + off + i)) false))

/-- The checks of an align descriptor against the pad share (R341). -/
def descFault (a : DWord) (share x : Nat) : Option LFault :=
  let n := bitsOf x 111 96
  if bitsOf x 31 0 % 64 ≠ 0 ∨ bitsOf x 63 32 % 64 ≠ 0 then some ⟨.align, 0, a, 0, 0⟩
  else if share < bitsOf x 31 0 + 64 * n ∨ share < bitsOf x 63 32 + 64 * n ∨ share < bitsOf x 95 64 + n then some ⟨.limit, 1, a, 0, 0⟩
  else none

/-- The address checks of a form (R330, R332, R333, R335, R341, R342, R346): the absolute A operand, and of a tile transfer what it
resolves to. -/
def State.matCheck (s : State) (x : IC) (k : MKind) (f : XF) (a b : DWord) (parts : List Panel) :
    Chk (DWord × Option (Desc × Seg × Nat)) :=
  let r := s.reqOf x.w.id x.agent
  let n := f.ety.bits
  let kb := shapeK f.ety f.shape / 32
  let abs : Chk (DWord × Option (Desc × Seg × Nat)) :=
    match s.checkTo r k.cls a 0 k.span 64 with
    | .error g => .fault (g.ofCls k.cls)
    | .ok e => .ok (if segOf a = segFREL ∨ segOf a = segSTK then mkAddr e.2.1 (BitVec.ofNat 40 e.2.2) else a, some e)
  let ok : DWord × Option (Desc × Seg × Nat) := (a, none)
  match k with
  | .bload => (s.padCheck r .load a (shapeN f.shape * kb * (4 * n)) 64).map (fun _ => ok)
  | .mmaW | .mmaQ => (s.padCheck r .load a (shapeM f.shape * kb * (4 * n)) 64).map (fun _ => ok)
  | .mmaS => (s.padCheck r .load a (shapeM f.shape * kb * (4 * n)) 64).bind fun _ =>
      (s.padCheck r .load b ((shapeM f.shape + shapeN f.shape) * kb) 1).map (fun _ => ok)
  | .sacc =>
    let d := s.saccDims x.w.core x.p f.qp.toNat s.nextId
    (s.padCheck r .load b ((d.1 + d.2.1) * d.2.2) 1).map (fun _ => ok)
  | .align => (s.padCheck r .load a 16 16).bind fun _ =>
      match parts.findSome? (fun p => descFault a (0x4000 * p.launch.padu) (s.alignDesc x.w.id p (offOf a).toNat)) with
      | some g => .fault g
      | none => .ok ok
  | .tld | .tst | .pld | .pst => abs
  | .bclr | .tzero | .pzero => .ok ok

/-- Whether the form is a commit point of a REPLAY panel (R331). -/
def MKind.commits : MKind → Bool
  | .bload | .bclr | .align => false
  | .mmaW | .mmaQ | .mmaS | .sacc | .tld | .tst | .tzero | .pld | .pst | .pzero => true
/-- Whether the form takes a place in the store queue (R346). -/
def MKind.queued : MKind → Bool
  | .tst | .pst => true
  | .bload | .bclr | .mmaW | .mmaQ | .mmaS | .sacc | .align | .tld | .tzero | .pld | .pzero => false

/-- A word enters every member's matrix order, counted under the partners' panel barriers when ganged (R326, R329, R398). -/
def State.queueMat (s : State) (x : IC) (k : MKind) (f : XF) (a : DWord × Option (Desc × Seg × Nat)) (b : DWord) (parts : List Panel) :
    State :=
  let id := s.nextId
  let cores := parts.map (fun p => p.core)
  let w (p : Panel) : MWord := ⟨id, p.id, p.ctx, x.w.id, x.agent, x.sys, x.pc, k, f, a.1, b,
    if k = .align then s.alignDesc x.w.id p (offOf a.1).toNat else 0, x.w.core, cores, x.track, 0, 0, false, false, false, false, none,
    none, a.2, false⟩
  let s1 := parts.foldl (fun y p =>
    let y1 := y.modCore p.core (fun c => { c with morder := c.morder ++ [w p] })
    if f.gm = 0 then y1
    else (y1.decideBar (.panel p.id)).modPanel p.id (fun q => { q with bars := q.bars.modify 0 (fun r => { r with words := r.words + 1 }) })) s
  let s2 := ({ s1 with nextId := id + 1 } : State).addParts x.w.id x.track parts.length
  if k.queued then s2.enqueue x.w.id x.agent 0 x.sys x.pc x.hdr (.tile id) else s2

/-! ### The matrix order (R326, R394) -/

/-- A word of a core's matrix order. -/
def State.mword (s : State) (core id : Nat) : Option MWord := (s.core core).morder.find? (fun m => m.id == id)
/-- A word changed. -/
def State.modMWord (s : State) (core id : Nat) (g : MWord → MWord) : State :=
  s.modCore core (fun c => { c with morder := c.morder.map (fun m => if m.id = id then g m else m) })

/-- Pad ranges of a word on its core by first structure offset and length: read, then written (R326, R332 to R342). -/
def State.mwPad (s : State) (core : Nat) (m : MWord) : List (Nat × Nat) × List (Nat × Nat) :=
  let p := s.panel m.panel
  let base := 0x4000 * p.padb
  let n := m.f.ety.bits
  let wide (lo len : Nat) : List (Nat × Nat) :=
    if len = 0 then []
    else
      let q := swzSpan m.f.swz.toNat
      [((base + lo) / q * q, ((base + lo + len + q - 1) / q - (base + lo) / q) * q)]
  let a := (offOf m.aval).toNat
  let b := (offOf m.bval).toNat
  let own : List (Nat × Nat) := match s.mwSrc core m 0 with
    | .ok (d, _, off) => (match ownPadEnd p d off with
      | some o =>
        let q := swzSpan m.f.swz.toNat
        [(o / q * q, ((o + m.kind.span + q - 1) / q - o / q) * q)]
      | none => [])
    | .error _ => []
  match m.kind with
  | .bload => (if core = m.issuer then wide a (m.mN * m.mKb * (4 * n)) else [], [])
  | .mmaW | .mmaQ => (wide a (m.mM * m.mKb * (4 * n)), [])
  | .mmaS => (wide a (m.mM * m.mKb * (4 * n)) ++ [(base + b, (m.mM + m.mN) * m.mKb)], [])
  | .sacc =>
    let d := s.saccDims core p m.f.qp.toNat m.id
    ([(base + b, (d.1 + d.2.1) * d.2.2)], [])
  | .align =>
    let k := bitsOf m.desc 111 96
    (wide (bitsOf m.desc 31 0) (64 * k) ++ [(base + a, 16)], wide (bitsOf m.desc 63 32) (64 * k) ++ [(base + bitsOf m.desc 95 64, k)])
  | .tld | .pld => (own, [])
  | .tst | .pst => ([], own)
  | .bclr | .tzero | .pzero => ([], [])

/-- The beam slots that a word writes, and those that it reads. -/
def MWord.beamW (m : MWord) : List Nat := if m.kind = .bload ∨ m.kind = .bclr then m.slots else []
/-- The beam slots that a word reads. -/
def MWord.beamR (m : MWord) : List Nat := if m.kind = .bload ∨ m.kind = .bclr then [] else m.slots

/-- Whether two lists share a member. -/
def meet (a b : List Nat) : Bool := a.any (fun x => b.contains x)
/-- Whether two lists of ranges share a byte. -/
def rangesMeet (a b : List (Nat × Nat)) : Bool := a.any (fun x => b.any (fun y => decide (x.1 < y.1 + y.2) && decide (y.1 < x.1 + x.2)))

/-- Whether two words of a core conflict (R326). -/
def State.mwConflict (s : State) (core : Nat) (m q : MWord) : Bool :=
  let tw := s.mwWrites core m
  let uw := s.mwWrites core q
  let pm := s.mwPad core m
  let pq := s.mwPad core q
  meet m.beamW (q.beamW ++ q.beamR) || meet m.beamR q.beamW || meet tw (uw ++ s.mwReads core q) || meet (s.mwReads core m) uw ||
    rangesMeet pm.2 (pq.1 ++ pq.2) || rangesMeet pm.1 pq.2

/-- Whether pad ranges of a core that a word reads, and those that it writes, wait on the range scoreboard (R122, R327), or on stores of the
core on their way to them (R133). -/
def State.rangesWait (s : State) (core : Nat) (pr : List (Nat × Nat) × List (Nat × Nat)) : Bool :=
  (s.core core).board.any (fun e => (e.dst && rangesMeet pr.1 [(e.lo, e.hi + 1 - e.lo)]) || rangesMeet pr.2 [(e.lo, e.hi + 1 - e.lo)]) ||
    s.wins.any (fun w => w.core == core && w.load.isNone && w.bytes.any (fun b => match b.loc with
      | .chip pa _ => isPad pa && coreOfPa pa == core && rangesMeet (pr.1 ++ pr.2) [(blockOff pa - padOff, 1)]
      | .hbm _ _ _ | .zero | .host _ _ | .remote _ _ _ _ _ => false))

/-- Whether a word may start on a core (R326, R327): no earlier word conflicts with it, the stores ahead of its reads of the pad have
performed, and no copy is to land in what it reads. -/
def State.mwReady (s : State) (core : Nat) (m : MWord) : Bool :=
  let pr := s.mwPad core m
  !m.started &&
  !((s.core core).morder.takeWhile (fun q => q.id != m.id)).any (fun q => s.mwConflict core m q) &&
  (pr.1.isEmpty || !(s.weft m.weft).sq.any (fun e => e.id < m.id)) && !s.rangesWait core pr &&
  (s.panel m.panel).life != .halting

/-- Whether an `align` cannot read its descriptor yet on some of its cores (R327): a store ahead of it, a copy to land there, an earlier
matrix word that writes there. -/
def State.descWaits (s : State) (x : IC) (a : DWord) (parts : List Panel) : Bool :=
  !x.w.sq.isEmpty || parts.any (fun p =>
    let at_ := [(0x4000 * p.padb + (offOf a).toNat, 16)]
    s.rangesWait p.core (at_, []) || (s.core p.core).morder.any (fun m => rangesMeet (s.mwPad p.core m).2 at_))

/-! ### The words (R330) -/

/-- The plan of a matrix word (R330): its checks fall on the agent; the other lanes go on. -/
def State.matPlan (s : State) (x : IC) (k : MKind) (f : XF) (useA useB : Bool) : Plan :=
  let i := x.agent
  let others := x.lanes.filter (· != i)
  let bad (g : LFault) : Plan := .part others (fun _ y => y) [(i, g)] []
  let refuse (g : LFault) : Plan := .stay (fun y => y.refuse x true .load g)
  let a := if useA then x.addr f.a i else 0
  let b := if useB then x.addr f.b i else 0
  if (accNames k f).any (fun n => x.p.launch.acct ≤ n) || (partNames k f).any (fun n => x.p.launch.partt ≤ n) then
    refuse ⟨.budget, 0, 0, 0, 0⟩
  else if (useA && x.pz true f.a i) || (useB && x.pz true f.b i) then .part others (fun _ y => y) [] [i]
  else if x.awaits then .hold id
  else
    let ps := (gangCores x.w.core f.gm).filterMap (s.partner x.p)
    if ps.length ≠ (gangCores x.w.core f.gm).length then bad ⟨.member, 0, 0, 0, 0⟩
    else if k = .align ∧ s.descWaits x a ps then .hold id
    else match s.matCheck x k f a b ps with
      | .fault g => bad g
      | .miss q => .hold (fun y => y.askPages (whoFor x.w.core x.w.id) x.w.core q)
      | .ok a1 => if k.commits && s.commitWaits x.p.id then .hold (fun y => y.openCommit x.p.id) else .go (fun y => if k.commits then y.committed x.p.id (fun z => z.queueMat x k f a1 b ps)
          else y.queueMat x k f a1 b ps)

/-- A matrix word. -/
def matWord (v : View) (k : MKind) (f : XF) (useA useB : Bool) (s : State) : Host.Outcome State Fault Refusal :=
  runWord v false (fun x s1 => s1.matPlan x k f useA useB) s

/-- `bload` (R332). -/
def execBload (c : Common) (f : XF) (s : State) : Host.Outcome State Fault Refusal := matWord (Instr.bload c f).view .bload f true false s
/-- `bclr` (R332). -/
def execBclr (c : Common) (f : XF) (s : State) : Host.Outcome State Fault Refusal := matWord (Instr.bclr c f).view .bclr f false false s
/-- `mma.w` (R333). -/
def execMmaW (c : Common) (f : XF) (s : State) : Host.Outcome State Fault Refusal := matWord (Instr.mmaW c f).view .mmaW f true false s
/-- `mma.q`: a quarter of the rows (R334). -/
def execMmaQ (c : Common) (f : XF) (s : State) : Host.Outcome State Fault Refusal := matWord (Instr.mmaQ c f).view .mmaQ f true false s
/-- `mma.s`: the product applied into an accumulator tile (R335). -/
def execMmaS (c : Common) (f : XF) (s : State) : Host.Outcome State Fault Refusal := matWord (Instr.mmaS c f).view .mmaS f true true s
/-- `align` (R341). -/
def execAlign (c : Common) (f : XF) (s : State) : Host.Outcome State Fault Refusal := matWord (Instr.align c f).view .align f true false s
/-- `sacc` (R342). -/
def execSacc (c : Common) (f : XF) (s : State) : Host.Outcome State Fault Refusal := matWord (Instr.sacc c f).view .sacc f false true s
/-- `tld` (R346). -/
def execTld (c : Common) (f : XF) (s : State) : Host.Outcome State Fault Refusal := matWord (Instr.tld c f).view .tld f true false s
/-- `tst` (R346). -/
def execTst (c : Common) (f : XF) (s : State) : Host.Outcome State Fault Refusal := matWord (Instr.tst c f).view .tst f true false s
/-- `tzero` (R346). -/
def execTzero (c : Common) (f : XF) (s : State) : Host.Outcome State Fault Refusal := matWord (Instr.tzero c f).view .tzero f false false s
/-- `pld` (R346). -/
def execPld (c : Common) (f : XF) (s : State) : Host.Outcome State Fault Refusal := matWord (Instr.pld c f).view .pld f true false s
/-- `pst` (R346). -/
def execPst (c : Common) (f : XF) (s : State) : Host.Outcome State Fault Refusal := matWord (Instr.pst c f).view .pst f true false s
/-- `pzero` (R346). -/
def execPzero (c : Common) (f : XF) (s : State) : Host.Outcome State Fault Refusal := matWord (Instr.pzero c f).view .pzero f false false s

/-! ### Starts (R91, R394) -/

/-- A word starts on a core: slots whose record names another context are cleared, and so is the shuttle buffer after a word of
another context (R91). -/
def State.mwStart (s : State) (core id : Nat) : State :=
  match s.mword core id with
  | none => s
  | some m =>
    (s.modCore core (fun c => { c with
      shuttle := m.ctx
      beams := c.beams.mapIdx (fun i b =>
        if m.slots.contains i && b.ctx != 0 && b.ctx != m.ctx then Macro.reset else b) })).modMWord core id
      (fun q => { q with started := true })

/-- MATRIX_WORD_START: a word starts where nothing holds it; a ganged `bload` starts on every member at once (R326, R394). -/
def execMatrixWordStart (core id : Nat) (s : State) : Host.Outcome State Fault Refusal :=
  match s.mword core id with
  | none => .next s
  | some m =>
    let cs := if m.kind = .bload then m.members else [core]
    if cs.all (fun c => match s.mword c id with
        | some q => s.mwReady c q
        | none => false) then
      .next (cs.foldl (fun y c => y.mwStart c id) s)
    else .next s

/-! ### Pad, beam and tile contents -/

/-- Places of a panel's pad under a swizzle mode. -/
def padLocs (p : Panel) (swz off n : Nat) : List Loc :=
  (List.range n).map (fun i => (Loc.chip (padPa p.core (0x4000 * p.padb + off + i)) false).swz swz)
/-- A block of mantissas: its number and whether it is poisoned. -/
def State.block (s : State) (p : Panel) (swz off n : Nat) : Nat × Bool :=
  let ls := padLocs p swz off (4 * n)
  (s.leAt ls, ls.any (fun l => s.pzAt l))
/-- Mantissa `j` of a block of `n`-bit mantissas (R225, R226). -/
def mantissa (n blk j : Nat) : Int := toSigned n (blk >>> (n * j))

/-- The cell of a macro at a row and column, by the type of the word that reads it (R332). -/
def Macro.cell (mc : Macro) (e : ETy) (r c : Nat) : Int :=
  toSigned e.bits (ofBits e.bits (fun i => sget false mc.bits ((r * e.nmac + c) * e.bits + i)))

/-- The bits that a cell sets. -/
def cellBits (e : ETy) (bits : List (Nat × Bool)) (r c : Nat) (v : Int) : List (Nat × Bool) :=
  (List.range e.bits).foldl (fun m i => sput false m ((r * e.nmac + c) * e.bits + i) (bitAt (wrapNat e.bits v) i)) bits

/-- What a macro of a `bload` holds (R332): the operand's elements (k, j) that belong to macro `i` of the word, read from a panel's
pad; its checksum column; and whether a poisoned byte was read. -/
def State.loadMacro (s : State) (p : Panel) (e : ETy) (shape : BitVec 5) (swz off i : Nat) : List (Nat × Bool) × List (Nat × Int) × Bool :=
  let kb := shapeK e shape / 32
  let cols := ceilDiv (shapeN shape) e.nmac
  let k0 := i / cols * e.kmac
  let j0 := i % cols * e.nmac
  let rows := min e.kmac (shapeK e shape - k0)
  let js := (List.range (min e.nmac (shapeN shape - j0)))
  let blk (j b : Nat) : Nat × Bool := s.block p swz (off + ((j0 + j) * kb + b) * (4 * e.bits)) e.bits
  let elem (r c : Nat) : Int := mantissa e.bits (blk c ((k0 + r) / 32)).1 ((k0 + r) % 32)
  let bits := (List.range rows).foldl (fun m r => js.foldl (fun m2 c => cellBits e m2 r c (elem r c)) m) []
  let sums := (List.range rows).foldl (fun m r => sput (0 : Int) m r (js.foldl (fun t c => t + elem r c) 0)) []
  (bits, sums, js.any (fun c => (List.range (ceilDiv rows 32)).any (fun b => (blk c (k0 / 32 + b)).2)))

/-- The place of partial element `x` of a product from a tile name (R336): none past the allotted tiles (R338). -/
def partPlace (p : Panel) (name x : Nat) : Option Nat :=
  (p.partTile (name + x / 8192)).map (fun t => tilePa p.core t + x % 8192 / 128 * 1024 + x % 128 * 8)
/-- The bytes of a partial element. -/
def elemLocs (pa n : Nat) : List Loc := (List.range n).map (fun i => Loc.chip (pa + i) false)

/-- The product of a step (R333): the partial of row m, column j and block kb, and whether an operand is poisoned. -/
def State.product (s : State) (core : Nat) (m : MWord) (row j kb : Nat) : Int × Bool :=
  let p := s.panel m.panel
  let n := m.f.ety.bits
  let a := s.block p m.f.swz.toNat ((offOf m.aval).toNat + (row * m.mKb + kb) * (4 * n)) n
  let cols := ceilDiv m.mN m.f.ety.nmac
  let mc := (s.core core).beams.getD (m.f.bs.toNat + kb * 32 / m.f.ety.kmac * cols + j / m.f.ety.nmac) Macro.reset
  ((List.range 32).foldl (fun t k =>
    t + mantissa n a.1 k * mc.cell m.f.ety ((kb * 32 + k) % m.f.ety.kmac) (j % m.f.ety.nmac)) 0, a.2 || mc.poison)

/-- Whether a macro's checksum of a row of a step differs, or its cells have erred in the step (R339), or the slot was left unfilled
(R345). -/
def State.beamMismatch (s : State) (core : Nat) (m : MWord) (rows : List Nat) (kb : Nat) : Bool :=
  let p := s.panel m.panel
  let n := m.f.ety.bits
  let cols := ceilDiv m.mN m.f.ety.nmac
  (List.range cols).any (fun g =>
    let mc := (s.core core).beams.getD (m.f.bs.toNat + kb * 32 / m.f.ety.kmac * cols + g) Macro.reset
    mc.lost || (mc.valid && mc.ety == m.f.ety && mc.shape == m.f.shape && (m.err || rows.any (fun row =>
      let a := (s.block p m.f.swz.toNat ((offOf m.aval).toNat + (row * m.mKb + kb) * (4 * n)) n).1
      let js := (List.range m.mN).filter (fun j => j / m.f.ety.nmac == g)
      decide (js.foldl (fun t j => t + (s.product core m row j kb).1) 0 ≠
        (List.range 32).foldl (fun t k => t + mantissa n a k * sget (0 : Int) mc.sums ((kb * 32 + k) % m.f.ety.kmac)) 0)))))

/-- The scaled partial added to an accumulator element, two roundings (R238): `bfa`: block exponents; else E5M3 codes. -/
def scaledAdd (bfa : Bool) (c : NanCtx) (acc : Nat) (p : Int) (sa sb : Nat) : Nat :=
  let pv (e : Int) : FVal := .fin (decide (p < 0)) p.natAbs e
  let v : FVal :=
    if bfa then (if sa = 255 ∨ sb = 255 then .nan else pv ((sa : Int) + sb - 254 - 28))
    else (pv 0).mul ((e5m3Val sa).mul (e5m3Val sb))
  fAdd fmtF32 (FEnv.plain c) 0 acc (fmtF32.round .rne false 0 c v)

/-- The scale bytes of a row and a column in a block (R342), and whether either is poisoned. -/
def State.scales (s : State) (p : Panel) (b mM kbs row j kb : Nat) : Nat × Nat × Bool :=
  let la := padLocs p 0 (b + row * kbs + kb) 1
  let lb := padLocs p 0 (b + mM * kbs + j * kbs + kb) 1
  (s.leAt la, s.leAt lb, (la ++ lb).any (fun l => s.pzAt l))

/-- An element's write. -/
def elemWr (pa n x : Nat) (pz : Bool) : List Wr := wrs (elemLocs pa n) (natLE n x) pz

/-- Consumption of poison by a matrix word, counted once (R442). -/
def State.mwConsume (s : State) (core : Nat) (m : MWord) (pz : Bool) : State :=
  if pz && !m.pz then
    let n := (s.ctx m.ctx).cir.toNat
    (((s.modCtx m.ctx (fun c => { c with cir := setCir 16 (BitVec.ofNat 64 (n / 65536 * 65536 + min (bitsOf n 15 0 + 1) 0xFFFF)) })).report
      "poison" m.ctx [m.pc.toNat, (maskOf [m.lane]).toNat])).modMWord core m.id (fun q => { q with pz := true })
  else s

/-- The accumulator update of rows in a block: `pp` gives the partial and its poison. -/
def State.accStep (s : State) (core : Nat) (m : MWord) (bfa : Bool) (mM mN kbs : Nat) (rows : List Nat) (kb : Nat)
    (pp : Nat → Nat → Int × Bool) : State :=
  let p := s.panel m.panel
  let t := tilePa core ((p.accTile m.f.td.toNat).getD 0)
  let es := rows.flatMap (fun row => (List.range mN).map (fun j =>
    let ls := elemLocs (t + 512 * row + 4 * j) 4
    let sc := s.scales p (offOf m.bval).toNat mM kbs row j kb
    let q := pp row j
    let pz := ls.any (fun l => s.pzAt l) || sc.2.2 || q.2
    (t + 512 * row + 4 * j, scaledAdd bfa ⟨row % 32, foldOf m.pc⟩ (s.leAt ls) q.1 sc.1 sc.2.1, pz)))
  (s.write (es.flatMap (fun e => elemWr e.1 4 e.2.1 e.2.2))).mwConsume core m (es.any (fun e => e.2.2))

/-! ### Steps (R340 to R346) -/

/-- Rows of quarter `q` of a word. -/
def MWord.quarter (m : MWord) (q : Nat) : List Nat := (List.range (m.mM / 4)).map (fun i => q * (m.mM / 4) + i)

/-- The quarter and block of a product's step. -/
def MWord.at_ (m : MWord) : Nat × Nat :=
  (if m.kind = .mmaQ then m.f.qp.toNat else m.step / m.mKb, m.step % m.mKb)

/-- The physical tiles that the next step of a word touches. -/
def State.mwTouches (s : State) (core : Nat) (m : MWord) : List Nat :=
  let p := s.panel m.panel
  match m.kind with
  | .mmaW | .mmaQ =>
    let xs := (m.quarter m.at_.1).flatMap (fun row => [(m.at_.2 * m.mM + row) * m.mN, (m.at_.2 * m.mM + row) * m.mN + m.mN - 1])
    (p.tiles [] (xs.map (fun x => m.f.td.toNat + x / 8192))).eraseDups
  | .sacc =>
    let d := s.saccDims core p m.f.qp.toNat m.id
    (p.tiles [m.f.td.toNat] ([m.step * d.1 * d.2.1, (m.step + 1) * d.1 * d.2.1 - 1].map (fun x => m.f.qp.toNat + x / 8192))).eraseDups
  | .tld | .tst => p.tiles [m.f.td.toNat] [] ++ s.farTiles core m false (1024 * m.step) 1024
  | .pld | .pst => p.tiles [] [m.f.td.toNat] ++ s.farTiles core m false (1024 * m.step) 1024
  | .mmaS | .tzero => p.tiles [m.f.td.toNat] []
  | .pzero => p.tiles [] [m.f.td.toNat]
  | .bload | .bclr | .align => []

/-- The lanes of a weft that can take a fault: neither exited nor stopped. -/
def Weft.takers (w : Weft) : List Nat := w.liveLanes.filter (fun i => match (w.lane i).st with
  | .stopped _ => false
  | .active | .parked _ | .exited => true)
/-- A fault of a matrix word goes to the lowest non-exited lane of the issuing weft that has not stopped, which takes it before the weft
issues again (R330); with none the die controller takes it. -/
def State.mwRaise (s : State) (m : MWord) (f : LFault) : State :=
  match (s.weft m.weft).takers with
  | i :: _ => s.modLane m.weft i (fun l => { l with trap := l.trap ++ [(f, m.pc)] })
  | [] => s.report "matrix fault" m.ctx [f.code.code, m.pc.toNat, f.info, f.extra.toNat]

/-- The owner check of a step (R344): the word is suspended, and ACCOWN raised; the die controller takes that of a tile of another function
(R455), and that of a weft with no lane left (R330). -/
def State.mwForeign (s : State) (core : Nat) (m : MWord) (t : Nat) : State :=
  let o := (s.tag core t).owner
  let s1 := s.modMWord core m.id (fun q => { q with susp := true })
  if (s.ctx o).func ≠ (s.ctx m.ctx).func then s1
  else if (s1.weft m.weft).takers.isEmpty then s1
  else s1.mwRaise m ⟨.accown, 0, 0, t + o.toNat * 256, BitVec.ofNat 64 (core + m.step % 65536 * 65536)⟩

/-- The step counter of a word advances. -/
def State.mwNext (s : State) (core id : Nat) : State := s.modMWord core id (fun q => { q with step := q.step + 1, moved := 0, err := false })

/-- The tags of a product's tiles (R333). -/
def State.prodTags (s : State) (core : Nat) (m : MWord) : State :=
  ((s.panel m.panel).tiles [] m.prodTiles).foldl (fun y t => y.modTag core t (fun _ =>
    ⟨m.ctx, if m.mM = 64 then 1 else 0, if m.mN = 32 then 0 else if m.mN = 64 then 1 else 2, m.mKb⟩)) s

/-- BEAMCHK ends a word (R339). Of a REPLAY panel whose attempt number is below 3 it causes a rollback instead, after which the word
runs again from its first step, or an `mma.s`, which has added its earlier steps, from the failing one (R450, R451). -/
def State.beamFail (s : State) (core : Nat) (m : MWord) : State :=
  let p := s.panel (s.weft m.weft).panel
  if p.launch.replay && decide (p.attempt < 3) then
    let s1 := s.modMWord core m.id (fun q => { q with step := if q.kind = .mmaS then q.step else 0, err := false })
    { s1 with agenda := .rollback p.id .beam :: s1.agenda }
  else (s.modMWord core m.id (fun q => { q with ended := true })).mwRaise m
    ⟨.beamchk, 0, 0, 0, BitVec.ofNat 64 (core + m.step % 65536 * 65536)⟩

/-- A step of `mma.w` or `mma.q` (R333, R334, R339). -/
def State.mmaStep (s : State) (core : Nat) (m : MWord) : State :=
  let rows := m.quarter m.at_.1
  let kb := m.at_.2
  let p := s.panel m.panel
  let es := rows.flatMap (fun row => (List.range m.mN).map (fun j =>
    (partPlace p m.f.td.toNat ((kb * m.mM + row) * m.mN + j), s.product core m row j kb)))
  let ws := es.flatMap (fun e => match e.1 with
    | some pa => elemWr pa 6 (wrapNat 48 e.2.1) e.2.2
    | none => [])
  let s1 := (s.write ws).mwConsume core m (es.any (fun e => e.2.2))
  if s.beamMismatch core m rows kb then (s1.prodTags core m).beamFail core m
  else
    let s2 := s1.mwNext core m.id
    if m.step + 1 = s.mwSteps core m then s2.prodTags core m else s2

/-- A step of `mma.s` (R335): on a mismatch its add is not made. -/
def State.mmaSStep (s : State) (core : Nat) (m : MWord) : State :=
  let rows := m.quarter m.at_.1
  if s.beamMismatch core m rows m.at_.2 then s.beamFail core m
  else (s.accStep core m (m.f.ety == .bfa16) m.mM m.mN m.mKb rows m.at_.2 (fun row j => s.product core m row j m.at_.2)).mwNext core m.id

/-- A step of `sacc` (R342, R343): one K-block. -/
def State.saccStep (s : State) (core : Nat) (m : MWord) : State :=
  let p := s.panel m.panel
  let d := s.saccDims core p m.f.qp.toNat m.id
  (s.accStep core m (m.f.ety == .bfa16) d.1 d.2.1 d.2.2 (List.range d.1) m.step (fun row j =>
    match partPlace p m.f.qp.toNat ((m.step * d.1 + row) * d.2.1 + j) with
    | some pa => (toSigned 48 (s.leAt (elemLocs pa 6)), (elemLocs pa 6).any (fun l => s.pzAt l))
    | none => (0, false))).mwNext core m.id

/-- A step of `bload` on one core: one macro, its record, its checksum column (R325, R332). -/
def State.bloadStep (s : State) (core : Nat) (m : MWord) : State :=
  let src := (s.panels.find? (fun p => p.core == m.issuer && p.launch.id == (s.panel m.panel).launch.id &&
    (s.weft m.weft).panel == p.id)).getD (s.panel m.panel)
  let off := (offOf m.aval).toNat
  let q := s.loadMacro src m.f.ety m.f.shape m.f.swz.toNat off m.step
  let mac : Macro := ⟨q.1, q.2.1, m.ctx, m.f.ety, m.f.shape, m.f.swz.toNat, 0x4000 * src.padb + off,
    m.mN * m.mKb * (4 * m.f.ety.bits), m.step, m.issuer, true, false, q.2.2, false⟩
  (s.modCore core (fun c => { c with beams := c.beams.set (m.f.bs.toNat + m.step) mac })).mwNext core m.id

/-- Round to nearest even of `x / 2^k` (R228). -/
def roundNE (x k : Nat) : Nat :=
  let q := x / 2 ^ k
  let r := x % 2 ^ k * 2
  if r < 2 ^ k then q else if 2 ^ k < r then q + 1 else q + q % 2

/-- AlignBlock of R228 on 32 BF16 patterns: the block exponent and the mantissas. -/
def alignBlock (xs : List Nat) : Nat × List Int :=
  if xs.any (fun x => bitsOf x 14 7 == 255) then (255, List.replicate 32 0)
  else
    let ex (x : Nat) : Nat := if bitsOf x 14 7 = 0 then 1 else bitsOf x 14 7
    let sig (x : Nat) : Nat := bitsOf x 6 0 + (if bitsOf x 14 7 = 0 then 0 else 128)
    let e := (xs.map ex).foldl max 0
    (e, xs.map (fun x =>
      let mag : Int := roundNE (sig x * 128) (e - ex x)
      if bitAt x 15 then -mag else mag))

/-- A step of `align`: one block (R341). -/
def State.alignStep (s : State) (core : Nat) (m : MWord) : State :=
  let p := s.panel m.panel
  let z := m.f.swz.toNat
  let src := padLocs p z (bitsOf m.desc 31 0 + 64 * m.step) 64
  let pz := src.any (fun l => s.pzAt l)
  let r := alignBlock ((List.range 32).map (fun j => s.leAt ((src.drop (2 * j)).take 2)))
  let ws := wrs (padLocs p z (bitsOf m.desc 63 32 + 64 * m.step) 64) (r.2.flatMap (fun x => natLE 2 (wrapNat 16 x))) pz ++
    wrs (padLocs p 0 (bitsOf m.desc 95 64 + m.step) 1) (natLE 1 r.1) pz
  ((s.write ws).mwConsume core m pz).mwNext core m.id

/-- A tile transfer meets a fault at a sector (R346): PAGE stalls it there, any other fault ends it. -/
def State.tileFault (s : State) (core : Nat) (m : MWord) (f : LFault) : State :=
  if f.code = .page then
    (s.modMWord core m.id (fun q => { q with stall := some f, src := none })).report "page" m.ctx [m.pc.toNat, f.addr.toNat, f.reason]
  else (s.modMWord core m.id (fun q => { q with ended := true })).mwRaise m f

/-- The next sector of a tile transfer (R129, R346), and whether it has moved. A load's bytes come from the issuing weft's queue first
(R132). -/
def State.tileSector (s : State) (core : Nat) (m : MWord) (loads : Bool) : State × Bool :=
  let p := s.panel m.panel
  let t := (if m.kind = .tld ∨ m.kind = .tst then p.accTile m.f.td.toNat else p.partTile m.f.td.toNat).getD 0
  let at_ := 1024 * m.step + 32 * m.moved
  let mine := tileLocs core t at_ 32
  let r := s.mwReq core m
  match s.mwSrc core m at_ with
  | .error f => (s.tileFault core m f, false)
  | .ok e =>
    match s.endLocs r m.kind.cls e at_ 32 with
    | .miss ps => (s.queueWalks r.who (coreDie core) ps, false)
    | .fault f => (s.tileFault core m f, false)
    | .ok ls =>
      let far := ls.map (Loc.swz m.f.swz.toNat)
      let older := (s.weft m.weft).olderSq m.id
      let moved (y : State) : State := y.modMWord core m.id (fun q => { q with moved := q.moved + 1, src := some e, waits := none })
      if far.any (s.tileBusy s.mwWrites) || s.winBusy core far then (s, false)
      else if loads then
        if older.any (fun q => locsMeet q.op.atomLocs far) then (s, false)
        else
          let bs := far.map (signed (fun l => (sqByte older l).getD (s.coreSeen core m.panel l)))
          (moved ((s.write ((mine.zip bs).map (fun q => ⟨q.1, q.2.1, q.2.2⟩))).allocAll far), true)
      else match s.padHolds m.panel far with
        | some q => (s.modMWord core m.id (fun z => { z with waits := some q }), false)
        | none => (moved (s.landBy m.panel core ((far.zip (s.read mine)).map (fun q => ⟨q.1, q.2.1, q.2.2⟩)) 0 m.id), true)

/-- A step of a tile transfer: 1 KiB in 32-byte sectors, in ascending order, from the one at which it stalled up to the first that cannot
move (R346). -/
def State.tileStep (s : State) (core : Nat) (m : MWord) (loads : Bool) : State :=
  let t := ((s.panel m.panel).partTile m.f.td.toNat).getD 0
  let go (acc : State × Bool) (_ : Nat) : State × Bool :=
    if !acc.2 then acc
    else match acc.1.mword core m.id with
      | some q => acc.1.tileSector core q loads
      | none => (acc.1, false)
  let q := (List.range (32 - m.moved)).foldl go (s, true)
  let s1 := if q.2 then q.1.mwNext core m.id else q.1
  let s2 := s1.takeWalks (s.mwReq core m).who
  if q.2 && decide (m.kind = .pld) && decide (m.step + 1 = 64) then s2.modTag core t (fun g => { g with mc := 1, nc := 2, kb := 1 }) else s2

/-- The effect of a step (R340). -/
def State.mwStep (s : State) (core : Nat) (m : MWord) : State :=
  let p := s.panel m.panel
  match m.kind with
  | .bload => m.members.foldl (fun y c => match y.mword c m.id with
      | some q => y.bloadStep c q
      | none => y) s
  | .bclr => (s.modCore core (fun c => { c with beams := c.beams.set m.f.bs.toNat Macro.reset })).mwNext core m.id
  | .mmaW | .mmaQ => s.mmaStep core m
  | .mmaS => s.mmaSStep core m
  | .align => s.alignStep core m
  | .sacc => s.saccStep core m
  | .tld | .pld => s.tileStep core m true
  | .tst | .pst => s.tileStep core m false
  | .tzero => (s.zeroTile core ((p.accTile m.f.td.toNat).getD 0) m.ctx).mwNext core m.id
  | .pzero => ((s.zeroTile core ((p.partTile m.f.td.toNat).getD 8) m.ctx).modTag core ((p.partTile m.f.td.toNat).getD 8) (fun g =>
      { g with mc := 1, nc := 2, kb := 1 })).mwNext core m.id

/-- Whether a word may take its next step. -/
def State.mwSteppable (s : State) (core : Nat) (m : MWord) : Bool :=
  m.started && !m.susp && !m.ended && m.stall.isNone && decide (m.step < s.mwSteps core m) && (s.panel m.panel).life != .halting &&
    !s.rangesWait core (s.mwPad core m) &&
    !(m.kind.queued && (s.weft m.weft).sq.any (fun e => e.op == .tile m.id) &&
      ((s.weft m.weft).sq.head?.map (fun e => e.op)) != some (.tile m.id))

/-- TREADLE_STEP_END: the next step of a word that has started (R340); before it the owner check of the tiles that it touches
(R344). -/
def execTreadleStepEnd (core id : Nat) (s : State) : Host.Outcome State Fault Refusal :=
  match s.mword core id with
  | none => .next s
  | some m =>
    if !s.mwSteppable core m then .next s
    else
      let ts := s.mwTouches core m
      match ts.find? (fun t => (s.tag core t).owner != 0 && (s.tag core t).owner != m.ctx) with
      | some t => .next (s.mwForeign core m t)
      | none => .next ((s.claim core m.ctx ts).mwStep core m)

/-- A word leaves a core's matrix order: its part of the flag, its count under the partner's barrier, its place in the store queue
(R328, R329, R346). -/
def State.mwEnd (s : State) (core : Nat) (m : MWord) : State :=
  let s1 := s.modCore core (fun c => { c with morder := c.morder.filter (fun q => q.id != m.id) })
  let s2 := if m.f.gm = 0 then s1
    else s1.modPanel m.panel (fun q => { q with bars := q.bars.modify 0 (fun r => { r with words := r.words - 1 }) })
  let s3 := s2.partDone m.weft m.track
  if m.kind.queued then s3.modBoth m.weft (fun w => { w with sq := w.sq.filter (fun e => e.op != .tile m.id) }) else s3

/-- MATRIX_WORD_COMPLETE: the last step of a word has ended, or it has ended early (R328). -/
def execMatrixWordComplete (core id : Nat) (s : State) : Host.Outcome State Fault Refusal :=
  match s.mword core id with
  | none => .next s
  | some m =>
    if m.started && !m.susp && m.stall.isNone && (m.ended || decide (s.mwSteps core m ≤ m.step)) then .next (s.mwEnd core m)
    else .next s

end Sys2Proof.Machine
end

