-- ==== Sys2Proof/Machine/Skein.lean ====
section
/-! DEFINITION. Skeins (R293 to R299): CUT and GRAFT, each one indivisible step when its place in the weft's store queue comes,
and DROP. -/
namespace Sys2Proof.Machine

/-- SKEIN with a reason (R295). -/
def skeinFault (reason : Nat) (a : DWord := 0) : LFault := ⟨.skein, reason, a, 0, 0⟩

/-! ### Frame maps (R214, R285) -/

/-- A word of the context's frame-map segment. -/
def State.fmRead (s : State) (c : CtxId) (off size : Nat) : Option Nat :=
  match s.deviceLocs c .load (s.ctx c).fmseg off size with
  | .ok (d, ls) => if d.kind = 1 ∧ d.sysOnly then some (s.leAt ls) else none
  | .error _ => none

/-- The flagged slots of the record with an entry offset, among `n` records from an offset. -/
def State.fmRecord (s : State) (c : CtxId) (entry : Nat) : Nat → Nat → Option (List Nat)
  | _, 0 => none
  | off, n + 1 =>
    match s.fmRead c off 8 with
    | none => none
    | some h =>
      let fs := bitsOf h 47 32
      let nw := ceilDiv fs 512
      if bitsOf h 31 16 = entry then
        (s.fmRead c (off + 8) (8 * nw)).map fun m => ((List.range (fs / 8)).filter (fun k => bitAt m k)).map (8 * ·)
      else s.fmRecord c entry (off + 8 + 8 * nw) n

/-- The slots, by byte offset from FB, that a procedure's frame map flags (R285); none where it cannot be read or found. -/
def State.frameMap (s : State) (c : CtxId) (cseg entry : Nat) : Option (List Nat) :=
  if (s.ctx c).fmseg = 0 then none
  else match s.fmRead c (8 * cseg) 8 with
    | none => none
    | some b =>
      if b = 0 ∨ 2 ^ 40 ≤ b then none
      else match s.fmRead c b 8 with
        | none => none
        | some n => s.fmRecord c entry (b + 8) (bitsOf n 31 0)

/-! ### Headers (R294) -/

/-- A skein header's fields. -/
structure SkHdr where
  state  : Nat
  owner  : Nat
  fcount : Nat
  maxbud : Nat
  gip    : Nat
  bytes  : Nat
  mtok   : DWord
  base0  : DWord
  resume : DWord
  ncseg  : Nat
  cutd   : Nat
  topfb  : Nat
  deriving DecidableEq, Repr

/-- The header in 64 bytes. -/
def SkHdr.ofNat (x : Nat) : SkHdr :=
  ⟨bitsOf x 63 62, bitsOf x 47 32, bitsOf x 31 16, bitsOf x 15 8, bitsOf x 127 112, bitsOf x 103 64,
   BitVec.ofNat 64 (x / 2 ^ 128), BitVec.ofNat 64 (x / 2 ^ 192), BitVec.ofNat 64 (x / 2 ^ 256), bitsOf x 383 368,
   bitsOf x 360 352, bitsOf x 351 320⟩
/-- The header as a number. -/
def SkHdr.word (h : SkHdr) : Nat :=
  h.state * 2 ^ 62 + h.owner * 2 ^ 32 + h.fcount * 2 ^ 16 + h.maxbud * 2 ^ 8 + (h.gip * 2 ^ 48 + h.bytes) * 2 ^ 64
  + h.mtok.toNat * 2 ^ 128 + h.base0.toNat * 2 ^ 192 + h.resume.toNat * 2 ^ 256
  + (h.ncseg * 2 ^ 48 + h.cutd * 2 ^ 32 + h.topfb) * 2 ^ 320
/-- Whether a reserved bit of the header is set. -/
def skReserved (x : Nat) : Bool :=
  bitsOf x 61 48 != 0 || bitsOf x 7 0 != 0 || bitsOf x 111 104 != 0 || bitsOf x 367 361 != 0 || bitsOf x 511 384 != 0
/-- Whether a sealed or dropping header's fields are out of range (R295). -/
def SkHdr.bad (h : SkHdr) : Bool :=
  h.fcount == 0 || h.maxbud == 0 || 16 < h.maxbud || h.ncseg == 0 || h.fcount < h.ncseg || h.bytes < 0x20 || h.bytes % 8 != 0 ||
    h.topfb % 8 != 0 || h.topfb < 0x20 || h.bytes < h.topfb

/-- The header's checks that GRAFT and DROP share, up to OWNER (R297, R298). -/
def skCheck (x : Nat) (c : CtxId) (a : DWord) : Except LFault SkHdr :=
  let h := SkHdr.ofNat x
  if skReserved x then .error (skeinFault 9 a)
  else if h.state < 2 then .error (skeinFault 4 a)
  else if h.bad then .error (skeinFault 9 a)
  else if h.owner ≠ c.toNat then .error (skeinFault 5 a)
  else .ok h

/-- The header that a lane's handle names, read through an access class. -/
def State.skHeader (s : State) (r : Req) (wid : Nat) (cls : Cls) (a : DWord) : Chk (Nat × List Loc) :=
  (s.check r cls a 0 64 1).bind fun q =>
    if offOf a ≠ 0 then .fault (skeinFault 6 a) else .ok (s.laneNat wid q.2.2.2, q.2.2.2)

/-- The frames of an image: for each, where its locals start in the image, and its link record; top first (R294). -/
def imageFrames (img : List Byte) (base : Nat) : Nat → Nat → List (Nat × Frame)
  | _, 0 => []
  | p, n + 1 =>
    if p < 0x20 ∨ img.length < p then []
    else
      let f := Frame.ofNat (leNat ((img.drop (p - 0x20)).take 0x20))
      (p, f) :: imageFrames img base ((offOf f.savfb).toNat - base) n

/-- Bytes of a list replaced from a position. -/
def patch (img : List Byte) (p : Nat) (bs : List Byte) : List Byte := img.take p ++ bs ++ img.drop (p + bs.length)

/-! ### CUT (R296) -/

/-- The frames of a cut from an offset down to the one whose link record lies at `o` + 16: a frame below it, or a chain that does not go
down in the lane's stack, ends the walk. -/
def State.cutFrames (s : State) (r : Req) (wid o : Nat) : Nat → Nat → Chk (List (Nat × Frame))
  | 0, _ => .fault (skeinFault 2)
  | fuel + 1, fb =>
    if fb < o + 0x30 then .fault (skeinFault 2)
    else (s.frameAt r wid fb).bind fun f =>
      if fb = o + 0x30 then .ok [(fb, f)]
      else if segOf f.savfb ≠ r.sseg ∨ fb ≤ (offOf f.savfb).toNat then .fault (skeinFault 2)
      else (s.cutFrames r wid o fuel (offOf f.savfb).toNat).map fun fs => (fb, f) :: fs

/-- The flagged slots of a cut's frames hold no address in the stack segment outside the image. -/
def State.cutSlots (s : State) (r : Req) (wid o sp : Nat) : List (Nat × Frame) → Chk Unit
  | [] => .ok ()
  | q :: qs =>
    match s.frameMap r.ctx q.2.cseg q.2.entry with
    | none => .fault (skeinFault 8)
    | some slots =>
      let one (k : Nat) : Chk Bool :=
        (s.check { r with fb := 0 } .load (mkAddr segSTK (BitVec.ofNat 40 (q.1 + k))) 0 8 8).map fun z =>
          let v := BitVec.ofNat 64 (s.laneNat wid z.2.2.2)
          segOf v != r.sseg || (decide (o + 16 ≤ (offOf v).toNat) && decide ((offOf v).toNat < sp))
      let go := slots.foldl (fun (acc : Chk Unit) k => acc.bind fun _ => (one k).bind fun b =>
        if b then .ok () else .fault (skeinFault 3)) (.ok ())
      go.bind fun _ => s.cutSlots r wid o sp qs

/-- The distinct code segments of frames, in the order of the walk. -/
def cutSegs (fs : List (Nat × Frame)) : List Nat :=
  fs.foldl (fun acc q => if acc.contains q.2.cseg then acc else acc ++ [q.2.cseg]) []

/-- A lane's frame state after a cut or a graft, or at a return. -/
def State.setFrame (s : State) (wid lane fb sp : Nat) (pc : DWord) : State :=
  s.modLane wid lane (fun l => { l with fb := BitVec.ofNat 40 fb, sp := BitVec.ofNat 40 sp, mtop := 0, pc := pc, pos := .header,
                                        st := .active })

/-- CUT of a lane (R296): a step that checks, copies and seals. -/
def State.cutLane (s : State) (wid : Nat) (e : SqEntry) (t h : DWord) (bf : Nat) : Chk (State → State) :=
  let r := s.reqOf wid e.lane
  let l := (s.weft wid).lane e.lane
  let o := (offOf t).toNat
  let sp := l.sp.toNat
  if segOf t ≠ r.sseg then .fault (skeinFault 1 t)
  else
    (s.check { r with fb := 0 } .load (mkAddr segSTK (offOf t)) 0 8 8).bind fun m =>
    if s.laneNat wid m.2.2.2 ≠ t.toNat then .fault (skeinFault 1 t)
    else
      (s.cutFrames r wid o (frameFuel l.fb.toNat) l.fb.toNat).bind fun fs =>
      let bottom := (fs.getLast?.map (·.2)).getD (Frame.ofNat 0)
      (s.checkFetch r bottom.ret).bind fun _ =>
      (s.check r .skeinCreate h 0 64 1).bind fun _ =>
      if offOf h ≠ 0 then .fault (skeinFault 6 h)
      else
        (s.cutSlots r wid o sp fs).bind fun _ =>
        let n := sp - (o + 16)
        let segs := cutSegs fs
        if 0x100000 < n ∨ 0xFFFF < fs.length then .fault (skeinFault 7 h)
        else
          (s.check r .skeinCreate h 0 (0x40 + n + 4 * segs.length) 1).bind fun d =>
          (s.check { r with fb := 0 } .load (mkAddr segSTK (BitVec.ofNat 40 (o + 16))) 0 n 1).bind fun src =>
          if s.leAt (d.2.2.2.take 16) ≠ 0 then .fault (skeinFault 4 h)
          else
            let maxbud := (fs.map (fun q => q.2.bud)).foldl max 0 + 1
            let hdr : SkHdr := ⟨2, r.ctx.toNat, fs.length, maxbud, 0, n, t, mkAddr r.sseg (BitVec.ofNat 40 (o + 16)), e.pc + 8,
              segs.length, bf, (fs.headD (0, bottom)).1 - (o + 16)⟩
            let img := src.2.2.2.map (fun q => s.laneByte wid q)
            .ok (fun y => y.committed (s.weft wid).panel (fun y1 =>
              let ws := wrs (d.2.2.2.take 0x40) (natLE 0x40 hdr.word) ++
                ((d.2.2.2.drop 0x40).zip img).map (fun q => ⟨q.1, q.2.1, q.2.2⟩) ++
                wrs (d.2.2.2.drop (0x40 + n)) (segs.flatMap (natLE 4))
              ((y1.spread (s.weft wid).core .pkg).writeBy (s.weft wid).core ws).setFrame wid e.lane (offOf bottom.savfb).toNat o bottom.ret))

/-! ### GRAFT (R297) -/

/-- The image as a graft places it (R297): links and flagged slots rebased; none where a frame map cannot be found. -/
def State.rebase (s : State) (r : Req) (h : SkHdr) (img : List Byte) (sp : Nat) (fb : Off) (ret : DWord) : Option (List Byte) :=
  let b0 := (offOf h.base0).toNat
  let frames := imageFrames img b0 h.topfb h.fcount
  let shift (v : DWord) : DWord := mkAddr r.sseg (BitVec.ofNat 40 ((offOf v).toNat + sp + 2 ^ 40 - b0))
  let one (acc : Option (List Byte)) (k : Nat) (q : Nat × Frame) : Option (List Byte) :=
    match acc, s.frameMap r.ctx q.2.cseg q.2.entry with
    | some im, some slots =>
      let im1 := slots.foldl (fun z sl =>
        let v := BitVec.ofNat 64 (leNat ((z.drop (q.1 + sl)).take 8))
        if q.1 + sl + 8 ≤ img.length ∧ segOf v = segOf h.base0 ∧ b0 ≤ (offOf v).toNat ∧ (offOf v).toNat < b0 + h.bytes then
          patch z (q.1 + sl) (natLE 8 (shift v).toNat)
        else z) im
      let link : Frame := if k + 1 = frames.length then { q.2 with savfb := mkAddr r.sseg fb, ret := ret, mkd := false }
        else { q.2 with savfb := shift q.2.savfb }
      some (patch im1 (q.1 - 0x20) (natLE 0x20 link.word))
    | some _, none => none
    | none, _ => none
  (frames.zipIdx).foldl (fun acc q => one acc q.2 q.1) (some img)

/-- The entries held by an image's frames, each with how often (R47). -/
def imageHolds (img : List Byte) (h : SkHdr) : List (Nat × Nat) :=
  let es := ((imageFrames img (offOf h.base0).toNat h.topfb h.fcount).filter (fun q => q.2.hv)).map (fun q => q.2.ent)
  es.eraseDups.map (fun e => (e, (es.filter (· == e)).length))

/-- The bytes of an image. -/
def State.imageBytes (s : State) (wid : Nat) (ls : List Loc) : List Byte := ls.map (fun l => (s.laneByte wid l).1)

/-- GRAFT of a lane (R297); none where it waits for a HOLD or GIP below its bound. -/
def State.graftLane (s : State) (wid : Nat) (e : SqEntry) (a : DWord) : Chk (Option (State → State)) :=
  let r := s.reqOf wid e.lane
  let w := s.weft wid
  let l := w.lane e.lane
  let p := s.panel w.panel
  (s.skHeader r wid .skeinUse a).bind fun q =>
  match skCheck q.1 r.ctx a with
  | .error f => .fault f
  | .ok h =>
    if 0x100000 < h.bytes then .fault (skeinFault 7 a)
    else if h.state ≠ 2 then .fault (skeinFault 4 a)
    else if p.alloc < 16 * h.maxbud ∨ p.alloc < h.cutd + 2 then .fault ⟨.budget, 0, a, 0, 0⟩
    else
      (s.check r .skeinUse (mkAddr (segOf a) 0x40) 0 h.bytes 1).bind fun src =>
      (s.check { r with fb := 0 } .store (mkAddr segSTK l.sp) 0 h.bytes 1).bind fun dst =>
      (s.checkFetch r h.resume).bind fun _ =>
      let img := s.imageBytes wid src.2.2.2
      match s.rebase r h img l.sp.toNat l.fb (e.pc + 8) with
      | none => .fault (skeinFault 8 a)
      | some im =>
        let holds := imageHolds img h
        let full := holds.any (fun k => (s.holdUp r.ctx k.1 k.2).isNone)
        if h.gip = 0xFFFF ∨ full then .ok none
        else .ok (some (fun y => y.committed w.panel (fun y1 =>
          let y2 := holds.foldl (fun z k => (z.holdUp r.ctx k.1 k.2).getD z) y1
          let ws := (dst.2.2.2.zip (im.zip (src.2.2.2.map (fun q => (s.laneByte wid q).2)))).map (fun q => ⟨q.1, q.2.1, q.2.2⟩)
          let y3 := (y2.writeBy w.core ws).setFrame wid e.lane (l.sp.toNat + h.topfb) (l.sp.toNat + h.bytes) h.resume
          y3.modWeft wid (fun z => z.setRegs [(keyV e.lane h.cutd, 0), (keyV e.lane (h.cutd + 1), 0)]))))

/-! ### The words -/

/-- `cut`: each lane takes its place in the store queue and waits (R296). -/
def execCut (c : Common) (f : CF) (s : State) : Host.Outcome State Fault Refusal :=
  laneWord (Instr.cut c f).view true false (fun x i => x.pz true f.a i || x.pz true f.b i) (fun x _ i =>
    .ok (false, fun y =>
      ((y.addParts x.w.id x.track 1).enqueue x.w.id i x.track x.sys x.pc x.hdr
        (.cut (x.addr f.a i) (x.addr f.b i) f.b.code.toNat)).modWeft x.w.id (fun w => w.park [i] (.step x.track)))) s
/-- `graft`: each lane takes its place in the store queue and waits (R297). -/
def execGraft (c : Common) (f : CF) (s : State) : Host.Outcome State Fault Refusal :=
  laneWord (Instr.graft c f).view true false (fun x i => x.pz true f.a i) (fun x _ i =>
    .ok (false, fun y => (y.enqueue x.w.id i 0 x.sys x.pc x.hdr (.graft (x.addr f.a i))).modWeft x.w.id (fun w => w.park [i] (.step x.track)))) s

/-- Free a skein (R298): its image's holds fall and words 0 and 1 become 0. -/
def State.freeSkein (s : State) (c : CtxId) (h : SkHdr) (img : List Byte) (hdr : List Loc) : State :=
  let s1 := (imageHolds img h).foldl (fun y k => (List.range k.2).foldl (fun z _ => z.holdDown c k.1) y) s
  s1.write (wrs (hdr.take 16) (List.replicate 16 0))

/-- `drop` of a lane (R298): a sealed skein starts dropping, and is freed when no graft of it runs. Where it would be freed its image and the
entries that it holds must be readable; the lane takes the fault of a read that fails (R37, R46). -/
def State.dropCheck (s : State) (x : IC) (lane : Nat) (a : DWord) : Chk (Bool × (State → State)) :=
  let r := s.reqOf x.w.id lane
  (s.skHeader r x.w.id .skeinFree a).bind fun q =>
  match skCheck q.1 r.ctx a with
  | .error f => .fault f
  | .ok h =>
    let image : Chk (List Byte) := if h.gip ≠ 0 then .ok []
      else (s.check r .skeinFree (mkAddr (segOf a) 0x40) 0 h.bytes 1).map fun z => s.imageBytes x.w.id z.2.2.2
    image.bind fun img => (s.entriesIn x.p.ctx ((imageHolds img h).map (·.1))).map fun _ => (true, fun y =>
      let now := SkHdr.ofNat (y.leAt q.2)
      if now.state < 2 then y
      else if now.gip = 0 then y.freeSkein r.ctx now img q.2
      else (y.write (wrs (q.2.take 8) (natLE 8 (({ now with state := 3 } : SkHdr).word)))).addParts x.w.id x.track 1)

/-- `drop` (R298). -/
def execDrop (c : Common) (f : CF) (s : State) : Host.Outcome State Fault Refusal :=
  laneWord (Instr.drop c f).view true false (fun x i => x.pz true f.a i) (fun x s1 i => s1.dropCheck x i (x.addr f.a i)) s

end Sys2Proof.Machine
end

