-- ==== Sys2Proof/Machine/Engine.lean ====
section
/-! DEFINITION. Copies, queue fences and the uses of futures (R349 to R356): the words, the acceptance of a command, and the
landing of its sectors. -/
namespace Sys2Proof.Machine

/-! ### Barriers that count commands (R357, R359) -/

/-- The barrier under which an engine word counts its commands. -/
def efBarrier (f : EF) : Option (Scope × Nat) := if f.bar then some (f.scope, f.tag.toNat) else none
/-- Whether a word names a barrier that its panel is no member of. -/
def IC.foreignBar (x : IC) (b : Option (Scope × Nat)) : Bool :=
  match b with
  | some q => !x.p.isMember q.1 q.2
  | none => false
/-! ### The words (R354, R356) -/

/-- Words of an engine's command are held at issue where their future cannot be made; else each lane takes its place in the store
queue and waits for the acceptance of its command (R349, R354, R366). -/
def engineWord (v : View) (f : EF) (k : FutKind) (pz : IC → Nat → Bool) (cmd : IC → Option FutRef → Nat → State → SqOp)
    (s : State) : Host.Outcome State Fault Refusal :=
  runWord v false (fun x s1 =>
    if x.foreignBar (efBarrier f) then .raise x.lanes ⟨.member, 0, 0, 0, 0⟩
    else if x.awaits || s1.futureHeld x f.h.toNat k then .hold id
    else
      let pass := x.lanes.filter (fun i => !pz x i)
      .part pass (fun y s2 =>
        let m := s2.makeFuture y f.h.toNat k pass.length
        pass.foldl (fun z i =>
          (((z.addParts y.w.id y.track 1).enqueue y.w.id i y.track y.sys y.pc y.hdr (cmd y m.2 i z)).modWeft y.w.id
            (fun w => w.park [i] (.step y.track)))) m.1) [] (x.lanes.filter (pz x))) s

/-- The command of a lane of a `copy` (R354). -/
def IC.copyCmd (x : IC) (f : EF) (r : Option FutRef) (i id : Nat) : CopyCmd :=
  ⟨id, x.p.id, x.w.id, i, x.sys, x.addr f.d i, x.addr f.a i, x.nat32 f.b i, 0, f.swz.toNat, f.ds, (efBarrier f), r, none, none, false, none, none⟩

/-- `copy`: one command for each lane, under one future (R354). -/
def execCopy (c : Common) (f : EF) (s : State) : Host.Outcome State Fault Refusal :=
  engineWord (Instr.copy c f).view f .copy (fun x i => x.pz true f.d i || x.pz true f.a i || x.pz false f.b i)
    (fun x r i z => .copy f.q.toNat (x.copyCmd f r i z.nextId)) s

/-- The number of a command in a store queue, with its queue. -/
def SqOp.copyId : SqOp → Option (Nat × Nat)
  | .copy q c => some (q, c.id)
  | .post _ _ | .store _ _ | .atomic _ _ _ _ _ _ _ | .fence _ | .push _ | .discard _ | .enq _ _ | .dcinit _ _ | .dcadd _ _ _
  | .cut _ _ _ | .graft _ | .tile _ | .await => none

/-- The commands and queue fences of a core, accepted or not, by queue and number. -/
def State.copyIds (s : State) (core : Nat) : List (Nat × Nat) :=
  ((s.core core).copyQ.zipIdx).flatMap (fun q => q.1.map (fun c => (q.2, c.id))) ++
    (s.wefts.filter (fun w => w.core == core)).flatMap (fun w => w.sq.filterMap (fun e => e.op.copyId))

/-- Whether commands that a queue fence names have not retired (R143); those of a saved panel have not. -/
def State.fenceOpen (s : State) (core : Nat) (ids : List Nat) : Bool :=
  (s.copyIds core).any (fun q => ids.contains q.2) || s.saved.any (fun v => v.copies.any (fun q => !q.2.cancel && ids.contains q.2.id))

/-- `qfence`: an entry of a queue that names the commands issued earlier into the masked queues (R143, R356). -/
def execQfence (c : Common) (f : EF) (s : State) : Host.Outcome State Fault Refusal :=
  simpleWord (Instr.qfence c f).view (fun x s1 =>
    if f.h = 0 then s1
    else
      let ids := ((s1.copyIds x.w.core).filter (fun q => q.1 != f.q.toNat && f.h.getLsbD q.1)).map (·.2)
      (s1.addParts x.w.id x.track 1).enqueue x.w.id x.agent x.track x.sys x.pc x.hdr
        (.copy f.q.toNat ⟨s1.nextId, x.p.id, x.w.id, x.agent, x.sys, 0, 0, f.h.toNat, 0, 0, false, none, none, some ids, none, false, none, none⟩)) s

/-! ### Uses of a future (R352) -/

/-- The future of a handle as a word's agent names it. -/
def IC.future (x : IC) (s : State) (h : Nat) : Option Fut := (x.w.handle x.sys x.agent h).bind s.futOf

/-- `ftest`: 1 when the future is complete or the handle names none (R352). -/
def execFtest (c : Common) (f : EF) (s : State) : Host.Outcome State Fault Refusal :=
  simpleWord (Instr.ftest c f).view (fun x s1 =>
    let done := match x.future s1 f.h.toNat with
      | some u => u.value.isSome
      | none => true
    s1.atOnce x (wordWrites false f.d x.lanes (fun _ => BitVec.ofNat 64 (b2n done)))) s

/-- `fwait`: held until the future is complete (R352). -/
def execFwait (c : Common) (f : EF) (s : State) : Host.Outcome State Fault Refusal :=
  runWord (Instr.fwait c f).view false (fun x s1 =>
    if s1.pending (x.w.handle x.sys x.agent f.h.toNat) then .hold id else .go id) s

/-- `hget`: held until the future is complete, then its value; 0xFF where the handle names none (R351, R352). -/
def execHget (c : Common) (f : EF) (s : State) : Host.Outcome State Fault Refusal :=
  runWord (Instr.hget c f).view false (fun x s1 =>
    if s1.pending (x.w.handle x.sys x.agent f.h.toNat) then .hold id
    else
      let v : DWord := match x.future s1 f.h.toNat with
        | some u => u.value.getD 0xFF
        | none => 0xFF
      .go (fun s2 => s2.atOnce x (wordWrites true f.d x.lanes (fun _ => v)))) s

/-- `hget.ref`: the reference of a handle; 0 for an EMPTY one (R350, R352). -/
def execHgetRef (c : Common) (f : EF) (s : State) : Host.Outcome State Fault Refusal :=
  simpleWord (Instr.hgetRef c f).view (fun x s1 =>
    let v : DWord := match x.w.handle x.sys x.agent f.h.toNat with
      | some r => r.word
      | none => 0
    s1.atOnce x (wordWrites true f.d x.lanes (fun _ => v))) s

/-- `hput`: a handle names the future of a reference, or none (R350, R352). -/
def execHput (c : Common) (f : EF) (s : State) : Host.Outcome State Fault Refusal :=
  runWord (Instr.hput c f).view false (fun x s1 =>
    let i := x.agent
    if s1.pending (x.w.handle x.sys i f.h.toNat) then .hold id
    else if x.pz true f.a i then .part (x.lanes.filter (· != i)) (fun _ y => y) [] [i]
    else
      let r := FutRef.ofWord (x.rd true f.a i)
      let h : Option FutRef := if r.ctx = x.p.ctx then (s1.futOf r).map (fun _ => r) else none
      .go (fun s2 => s2.setHandle x.w.id x.sys i f.h.toNat h)) s

/-! ### Cancels (R353) -/

/-- A `deq` ends (R351, R365): its served lanes' registers are written, its other requesters leave the queue, and its future
completes with the mask of the lanes served. -/
def State.endDeq (s : State) (d : Deq) (status : Nat) : State :=
  let mask := match s.futOf d.fut with
    | some f => f.bytes
    | none => 0
  let s1 := (List.range 32).foldl (fun y _ => y.modBoth d.weft (fun w => w.complete d.op)) s
  ({ s1 with deqs := s1.deqs.filter (fun e => e.fut != d.fut) } : State).completeFut d.fut
    (BitVec.ofNat 64 (status + mask % 2 ^ 32 * 2 ^ 32))

/-- Commands of a store queue's entries marked as cancelled. -/
def SqOp.cancel (r : FutRef) : SqOp → SqOp
  | .copy q c => .copy q (if c.fut = some r then { c with cancel := true } else c)
  | .post q p => .post q (if p.fut = some r then { p with cancel := true } else p)
  | .store bs rel => .store bs rel
  | .atomic op ls b d pz ld rel => .atomic op ls b d pz ld rel
  | .fence sc => .fence sc
  | .push m => .push m
  | .discard ps => .discard ps
  | .enq a rc => .enq a rc
  | .dcinit a b => .dcinit a b
  | .dcadd a b ld => .dcadd a b ld
  | .cut t k b => .cut t k b
  | .graft k => .graft k
  | .tile w => .tile w
  | .await => .await

/-- The record of a saved command is marked not valid in its save block (R353, R414): V stands in bit 34. -/
def State.voidRecord (s : State) (v : Saved) (k : Nat) : State :=
  let c := v.panel.ctx
  let off := blockBase v.block + 0x40100 + 32 * k
  match s.deviceRead c (s.ctx c).saveSeg off 8 with
  | .ok x => s.deviceWrite c (s.ctx c).saveSeg off 8 (if bitAt x 34 then x - 2 ^ 34 else x)
  | .error _ => s

/-- Saved commands of a future end at their progress, their records no longer valid (R353). -/
def State.cancelSaved (s : State) (r : FutRef) : State :=
  let mine (v : Saved) : List CopyCmd := (v.copies.map (·.2)).filter (fun c => c.fut == some r && !c.cancel)
  let drop (v : Saved) : Saved :=
    let bars := (mine v).foldl (fun bs c => match c.bar with
      | some q => bs.modify (barIdx q.1 q.2) (fun b => { b with pend := b.pend - (c.len - c.prog) })
      | none => bs) v.panel.bars
    { v with
      copies := v.copies.map (fun q => if q.2.fut = some r then (q.1, { q.2 with cancel := true }) else q)
      wefts := v.wefts.map (fun w => { w with sq := w.sq.map (fun e => { e with op := e.op.cancel r }) })
      panel := { v.panel with bars := bars } }
  let ended := s.saved.flatMap mine
  let s0 := s.saved.foldl (fun y v => (v.copies.zipIdx).foldl (fun z q =>
    if q.1.2.fut = some r ∧ !q.1.2.cancel then z.voidRecord v q.2 else z) y) s
  let s1 : State := { s0 with saved := s0.saved.map drop }
  ended.foldl (fun y c => y.endPart r c.prog 0 true) s1

/-- A cancel of a pending future (R353). -/
def State.cancelFut (s : State) (r : FutRef) : State :=
  match s.futOf r with
  | none => s
  | some f =>
    if f.value.isSome then s
    else match f.kind with
    | .copy | .post =>
      let s1 : State := { s with
        cores := s.cores.map (fun c => (c.1, { c.2 with
          copyQ := c.2.copyQ.map (fun q => q.map (fun k => if k.fut = some r then { k with cancel := true } else k))
          netQ := c.2.netQ.map (fun q => q.map (fun k => if k.fut = some r then { k with cancel := true } else k)) }))
        wefts := s.wefts.map (fun w => { w with sq := w.sq.map (fun e => { e with op := e.op.cancel r }) }) }
      s1.cancelSaved r
    | .deq =>
      match s.deqs.find? (fun d => d.fut == r) with
      | some d => s.endDeq d 3
      | none => s.completeFut r 3
    | .publish => ({ s with pubs := s.pubs.filter (fun p => p.fut != r) } : State).completeFut r 3
    | .unbind e => s.cancelUnbind r e
    | .lookup _ _ => s.completeFut r 0x10
    | .bind => s

/-- Whether a future is a pending one of an UNBIND, the cancel of which changes its entry. -/
def Fut.ofUnbind (u : Fut) : Bool :=
  u.value.isNone && (match u.kind with
    | .unbind _ => true
    | .copy | .post | .deq | .publish | .bind | .lookup _ _ => false)

/-- `fcancel`: its flag falls when the future is complete (R352, R353). The cancel of an UNBIND changes an entry, and so is a commit point
(R50, R148). -/
def execFcancel (c : Common) (f : EF) (s : State) : Host.Outcome State Fault Refusal :=
  runWord (Instr.fcancel c f).view false (fun x s0 =>
    let commits := ((x.future s0 f.h.toNat).map Fut.ofUnbind).getD false
    let go (s1 : State) : State := match x.w.handle x.sys x.agent f.h.toNat with
      | none => s1
      | some r =>
        let s2 := s1.cancelFut r
        if s2.pending (some r) then
          (s2.addParts x.w.id x.track 1).modFut r (fun u => { u with waiters := u.waiters ++ [(x.w.id, x.track)] })
        else s2
    if commits && s0.commitWaits x.p.id then .hold (fun y => y.openCommit x.p.id)
    else .go (fun s1 => if commits then s1.committed x.p.id go else go s1)) s

/-! ### Releases at the head of a store queue (R137) -/

/-- Whether a release at a scope at the head of a queue waits (R137): for the earlier loads and matrix words of its lane, and beyond the
core for the core's stores on their way. -/
def State.headWaits (s : State) (w : Weft) (e : SqEntry) (sc : Scope) : Bool :=
  w.loads.any (fun l => decide (l.id < e.id) && l.wait != .ready && l.lane == e.lane) ||
    (s.core w.core).morder.any (fun m => m.weft == w.id && m.lane == e.lane && decide (m.id < e.id)) ||
    (decide (Scope.core.rank < sc.rank) && s.storesOut w.core)

/-! ### Acceptance of a copy command (R28, R121, R123, R142, R354) -/

/-- A lane's entry leaves its store queue. -/
def State.dropSq (s : State) (wid id : Nat) : State := s.modWeft wid (fun w => { w with sq := w.sq.filter (fun e => e.id != id) })

/-- The lanes that wait for an instruction's acceptances go on when its last one is done (R354). -/
def State.stepOut (s : State) (wid track : Nat) : State :=
  if (s.weft wid).sq.any (fun e => e.track == track) then s
  else s.modWeft wid (fun w => w.unpark (fun p => p == .step track))

/-- The scoreboard entry of an end (R121), widened to whole spans of its mode. -/
def boardEnd (p : Panel) (d : Desc) (off len swz id : Nat) (dst : Bool) : List BoardEntry :=
  match ownPadEnd p d off with
  | none => []
  | some o =>
    let q := swzSpan swz
    [⟨o / q * q, (o + len - 1) / q * q + q - 1, dst, id⟩]

/-- Whether bytes from an offset of an end lie in the panel's own pad share. -/
def inOwnShare (p : Panel) (d : Desc) (off len : Nat) : Bool :=
  match ownPadEnd p d off with
  | none => false
  | some o => decide (0x4000 * p.padb ≤ o) && decide (o + len ≤ 0x4000 * (p.padb + p.launch.padu))

/-- An address of a command made absolute: FREL and STK name the lane's stack as it stands at acceptance. -/
def absEnd (a : DWord) (seg : Seg) (off : Nat) : DWord :=
  if segOf a = segFREL ∨ segOf a = segSTK then mkAddr seg (BitVec.ofNat 40 off) else a

/-- A command leaves the store queue without entering its engine's queue: its part of the future moves no byte. -/
def State.endCmd (s : State) (wid : Nat) (e : SqEntry) (fut : Option FutRef) (cancelled : Bool := false) : State :=
  let s1 := (s.dropSq wid e.id).doneIf wid e.track
  match fut with
  | some r => s1.endPart r 0 0 cancelled
  | none => s1
/-- A command that fails its checks: its lane takes the fault (R354). -/
def State.refuseCmd (s : State) (wid : Nat) (e : SqEntry) (fut : Option FutRef) (f : LFault) : State :=
  ((s.endCmd wid e fut).faultLanes wid e.pc e.hdr .load [(e.lane, f)]).stepOut wid e.track

/-- A command enters its queue. -/
def State.pushCopy (s : State) (core q : Nat) (c : CopyCmd) : State :=
  s.modCore core (fun k => { k with copyQ := k.copyQ.modify q (fun cs => cs ++ [c]) })

/-- The engine scope of a command between two ends (R142). -/
def engineScope (a b : Desc) : Scope := if a.kind = 3 ∨ b.kind = 3 then .pod else .pkg

/-- The head of a weft's store queue is a copy command or a queue fence: it is accepted, a release at its engine scope, or waits, or
fails. -/
def State.acceptCopy (s : State) (wid : Nat) (e : SqEntry) (q : Nat) (c : CopyCmd) : State :=
  let w := s.weft wid
  let p := s.panel w.panel
  let core := w.core
  if c.fence.isSome then ((s.pushCopy core q c).dropSq wid e.id).doneIf wid e.track
  else if c.cancel then (s.endCmd wid e c.fut true).stepOut wid e.track
  else if ((s.core core).copyQ.getD q []).any (fun k => match k.fence with
      | some ids => s.fenceOpen core ids
      | none => false) then s
  else
    let r := s.reqOf wid e.lane
    match s.endOf r .load c.src 0 c.len, s.endOf r .store c.dst 0 c.len with
    | .error f, _ => if s.headWaits w e .pkg then s else s.refuseCmd wid e c.fut f
    | .ok _, .error f => if s.headWaits w e .pkg then s else s.refuseCmd wid e c.fut f
    | .ok (ds, sseg, soff), .ok (dd, dseg, doff) =>
      let sc := engineScope ds dd
      if c.ds && (ds.kind == 2 || dd.kind == 2) then s.refuseCmd wid e c.fut ⟨.rights, 1, if ds.kind = 2 then c.src else c.dst, 0, 0⟩
      else
        let bd := if c.len = 0 then [] else
          boardEnd p ds soff c.len c.swz c.id false ++ boardEnd p dd doff c.len c.swz c.id true
        let commits := p.launch.replay && !inOwnShare p dd doff c.len
        if Config.sboardEntries < (s.core core).board.length + bd.length || !p.pendFits c.bar c.len then s
        else
          let c1 : CopyCmd := { c with src := absEnd c.src sseg soff, dst := absEnd c.dst dseg doff,
                                       ends := some ⟨ds, sseg, soff, dd, dseg, doff⟩ }
          let go (y : State) : State :=
            let y1 := ((y.spread core sc).dropSq wid e.id).doneIf wid e.track
            let y2 := if c.len = 0 then (match c.fut with
                | some r => y1.endPart r 0 0 false
                | none => y1)
              else ((y1.addPend p c.bar c.len).modCore core (fun k => { k with board := k.board ++ bd })).pushCopy
                core q c1
            y2.stepOut wid e.track
          if commits then s.atCommit p.id (fun y => y.headWaits w e sc) go else if s.headWaits w e sc then s else go s

/-! ### Sectors (R79, R80, R355) -/

/-- A command leaves its queue, its landings performed throughout the package: its scoreboard entries, the bytes of its barrier that never
landed, its part of the future (R123, R145, R351, R359). -/
def State.retireCopy (s : State) (core q : Nat) (c : CopyCmd) (fault : Nat) (cancelled : Bool) : State :=
  let s1 := ((s.spreadCmd c.id).modCore core (fun k => { k with
    copyQ := k.copyQ.modify q (fun cs => cs.filter (fun x => x.id != c.id))
    board := k.board.filter (fun b => b.cmd != c.id) })).modPend c.panel c.bar (fun n => n - (c.len - c.prog))
  match c.fut with
  | some r => s1.endPart r c.prog fault cancelled
  | none => s1

/-- A command of a queue replaced. -/
def State.putCopy (s : State) (core q : Nat) (c : CopyCmd) : State :=
  s.modCore core (fun k => { k with copyQ := k.copyQ.modify q (fun cs => cs.map (fun x => if x.id = c.id then c else x)) })

/-- The request of a command's sectors. -/
def State.copyReq (s : State) (core : Nat) (c : CopyCmd) : Req :=
  { ctx := (s.panel c.panel).ctx, core := core, panel := c.panel, sys := c.sys, sseg := 0, fb := 0,
    who := whoFor (whoCopy (coreDie core)) c.id }

/-- The next sector of a command: its bytes up to the next 32-byte boundary of its destination (R79). -/
def CopyCmd.sector (c : CopyCmd) : Nat := min (32 - ((offOf c.dst).toNat + c.prog) % 32) (c.len - c.prog)

/-- The ends of a command: those found at its acceptance, or checked again over the rest of their ranges after a stall or a save (R28,
R33); the source's fault goes first (the model's choice, log entry 22). -/
def State.cmdEnds (s : State) (r : Req) (c : CopyCmd) : Except LFault CmdEnds :=
  match c.ends with
  | some e => .ok e
  | none =>
    match s.endOf r .load c.src c.prog c.len with
    | .error f => .error f
    | .ok a => (s.endOf r .store c.dst c.prog c.len).map fun b => ⟨a.1, a.2.1, a.2.2, b.1, b.2.1, b.2.2⟩

/-- A sector of a command fails: PAGE stalls it, any other fault ends it (R79, R351). -/
def State.sectorFault (s : State) (core q : Nat) (c : CopyCmd) (f : LFault) : State :=
  let r := s.copyReq core c
  if f.code = .page then
    ((s.putCopy core q { c with stall := some f, ends := none }).report "page" r.ctx [core, q, f.addr.toNat, f.reason]).takeWalks r.who
  else (s.retireCopy core q c f.code.code false).takeWalks r.who

/-- The next sector of a command lands, those before it performed throughout the package (R79, R129, R144); its data travels in the delta
stream form unchanged (R355). It waits while a matrix word writes a tile of it (R107), and for the commit point of a REPLAY panel in
whose pad it lands (R149). -/
def State.landSector (s : State) (core q : Nat) (c : CopyCmd) : State :=
  let r := s.copyReq core c
  let n := c.sector
  let die := coreDie core
  match s.cmdEnds r c with
  | .error f => s.sectorFault core q c f
  | .ok e =>
    match s.endLocs r .load (e.sd, e.sseg, e.soff) c.prog n, s.endLocs r .store (e.dd, e.dseg, e.doff) c.prog n with
    | .fault f, _ => s.sectorFault core q c f
    | _, .fault f => s.sectorFault core q c f
    | .miss a, .miss b => s.queueWalks r.who die (a ++ b.filter (fun x => !a.contains x))
    | .miss a, .ok _ => s.queueWalks r.who die a
    | .ok _, .miss b => s.queueWalks r.who die b
    | .ok ls, .ok ld =>
      let src := ls.map (Loc.swz c.swz)
      let dst := ld.map (Loc.swz c.swz)
      if (src ++ dst).any (s.tileBusy s.mwWrites) then s
      else match s.padHolds c.panel dst with
      | some p => s.putCopy core q { c with waits := some p }
      | none =>
        let bs := src.map (fun l => s.coreByte core c.panel l)
        let s1 := (((s.touch core r.ctx (src ++ dst)).allocAll src).spreadCmd c.id).landBy c.panel noCore
          ((dst.zip bs).map (fun z => ⟨z.1, z.2.1, z.2.2⟩)) c.id
        let c1 : CopyCmd := { c with prog := c.prog + n, ends := some e, waits := none }
        let s2 := ((s1.putCopy core q c1).modPend c.panel c.bar (fun k => k - n)).takeWalks r.who
        if c1.prog = c.len then s2.retireCopy core q c1 0 false else s2

/-- COPY_SECTOR_LAND: a cancelled command of a copy queue ends where it stands (R353); else the command at the head moves its next
sector, none of a panel that is being pre-empted (R416); a satisfied fence leaves (R79, R143). -/
def execCopySectorLand (core queue : Nat) (s : State) : Host.Outcome State Fault Refusal :=
  let cs := (s.core core).copyQ.getD queue []
  match cs.find? (fun c => c.cancel && c.fence.isNone) with
  | some c => .next (s.retireCopy core queue c 0 true)
  | none =>
    match cs.head? with
    | none => .next s
    | some c =>
      match c.fence with
      | some ids => .next (if s.fenceOpen core ids then s else s.retireCopy core queue c 0 false)
      | none =>
        if c.stall.isSome || (s.panel c.panel).life == .halting then .next s
        else .next (s.landSector core queue c)

end Sys2Proof.Machine
end

