-- ==== Sys2Proof/Machine/Sync.lean ====
section
/-! DEFINITION. Barriers (R357 to R359, R161 to R163): arrivals, waits and the completion of a phase. -/
namespace Sys2Proof.Machine

/-! ### Arrival and waiting (R358) -/

/-- The lanes of a word that have arrived in the current phase. -/
def IC.hasArrived (x : IC) (idx : Nat) : List Nat :=
  x.lanes.filter (fun i => (x.w.lane i).arrivedAt idx == some (x.p.phase idx))
/-- The lanes of a word that have not. -/
def IC.notArrived (x : IC) (idx : Nat) : List Nat :=
  x.lanes.filter (fun i => (x.w.lane i).arrivedAt idx != some (x.p.phase idx))

/-- Lanes arrive at a barrier's current phase. -/
def State.arriveLanes (s : State) (x : IC) (idx : Nat) (ls : List Nat) : State :=
  s.modWeft x.w.id (fun w => ls.foldl (fun z i => z.modLane i (fun l => { l with arrived := l.arrived.set idx (some (x.p.phase idx)) })) w)

/-- An arriving word (R358): the lanes that have not arrived do, those that have are held at it until the phase completes; where
`sync`, the arriving lanes then wait for the completion, on which their flag falls. -/
def arriveWord (v : View) (f : EF) (sync : Bool) (s : State) : Host.Outcome State Fault Refusal :=
  runWord v false (fun x s1 =>
    let idx := barIdx f.scope f.tag.toNat
    let fresh := x.notArrived idx
    let parkRest (y : State) : State := y.modWeft x.w.id (fun w => w.park (x.hasArrived idx) (.barrier idx (x.p.phase idx) 0))
    if !x.p.isMember f.scope f.tag.toNat then .raise x.lanes ⟨.member, 0, 0, 0, 0⟩
    else if fresh.isEmpty then .stay parkRest
    else if s1.releaseWaits x f.scope then .hold id
    else if Scope.core.rank < f.scope.rank && s1.commitWaits x.p.id then .hold (fun y => y.openCommit x.p.id)
    else .part fresh (fun y s2 =>
      let go (z : State) : State :=
        let z1 := (z.spread y.w.core f.scope).arriveLanes y idx fresh
        if sync then (z1.addParts y.w.id y.track fresh.length).modWeft y.w.id (fun w =>
          w.park fresh (.barrier idx (x.p.phase idx) y.track)) else z1
      parkRest (if Scope.core.rank < f.scope.rank then s2.committed y.p.id go else go s2)) [] []) s

/-- `arrive` (R358). -/
def execArrive (c : Common) (f : EF) (s : State) : Host.Outcome State Fault Refusal := arriveWord (Instr.arrive c f).view f false s
/-- `bsync`: arrives, then waits (R358). -/
def execBsync (c : Common) (f : EF) (s : State) : Host.Outcome State Fault Refusal := arriveWord (Instr.bsync c f).view f true s

/-- `bwait`: a lane whose last arrival has completed proceeds; the others are held at the word (R358). -/
def execBwait (c : Common) (f : EF) (s : State) : Host.Outcome State Fault Refusal :=
  runWord (Instr.bwait c f).view false (fun x _ =>
    let idx := barIdx f.scope f.tag.toNat
    let pass := x.notArrived idx
    let parkRest (y : State) : State := y.modWeft x.w.id (fun w => w.park (x.hasArrived idx) (.barrier idx (x.p.phase idx) 0))
    if !x.p.isMember f.scope f.tag.toNat then .raise x.lanes ⟨.member, 0, 0, 0, 0⟩
    else if pass.isEmpty then .stay parkRest
    else .part pass (fun _ s2 => parkRest s2) [] []) s

/-! ### Completion (R161, R163, R358) -/

/-- The scope at which a launch's panels join route tags (R373). -/
def Launch.scope (l : Launch) : Scope := [.none, .ln, .core, .quad, .die, .pkg, .pod].getD l.bscope .none

/-- The lanes of a weft that wait for a phase go on. -/
def Weft.phaseWake (w : Weft) (idx n : Nat) : Weft :=
  w.unpark (fun p => match p with
    | .barrier i k _ => i == idx && k == n
    | .fault _ | .bind _ | .push _ _ | .rejoin _ | .heldWait _ | .nwait | .held | .node | .hold | .step _ | .spill | .walk _ => false)

/-- The counted instruction that ends with a phase on which a lane waits. -/
def Park.phaseTrack (idx n : Nat) : Park → Option Nat
  | .barrier i k t => if i = idx ∧ k = n ∧ t ≠ 0 then some t else none
  | .fault _ | .bind _ | .push _ _ | .rejoin _ | .heldWait _ | .nwait | .held | .node | .hold | .step _ | .spill | .walk _ => none
/-- The counted instructions that end with a phase in a weft: one for each lane. -/
def Weft.phaseTracks (w : Weft) (idx n : Nat) : List Nat :=
  w.lanes.flatMap (fun l => ((match l.st with
    | .parked p => p.phaseTrack idx n
    | .active | .exited | .stopped _ => none).toList ++ (l.back.bind (Park.phaseTrack idx n)).toList))

/-- A member goes to its next phase: its waiting lanes go on, and their flags fall. -/
def State.nextPhase (s : State) (idx : Nat) (q : Panel × List Weft) : State :=
  let n := q.1.phase idx
  let bump (p : Panel) : Panel := if p.id = q.1.id then { p with bars := p.bars.modify idx (fun r => { r with phase := n + 1, decided := false }) } else p
  let mine (w : Weft) : Bool := q.2.any (fun x => x.id == w.id)
  let wake (w : Weft) : Weft := if mine w then w.phaseWake idx n else w
  let s1 := { s with
    panels := s.panels.map bump
    wefts := s.wefts.map wake
    saved := s.saved.map (fun v => { v with panel := bump v.panel, wefts := v.wefts.map wake }) }
  q.2.foldl (fun y w => (w.phaseTracks idx n).foldl (fun z t => z.partDone w.id t) y) s1

/-- BARRIER_COMPLETE: the completion of a phase is decided where its conditions hold, then takes place (R358, R359); the held stores of
REPLAY members drain first, at a commit point (R148, R163). What the members see is performed throughout the barrier's node (R146,
R161). -/
def execBarrierComplete (b : BarrierName) (s : State) : Host.Outcome State Fault Refusal :=
  if !s.decided b then .next (s.decideBar b)
  else
    let ms := (s.barMembers b).filter (fun q => (q.1.bars.getD (recIdx b) BarRec.nil).decided)
    let rs := (ms.map (·.1)).filter (fun p => p.launch.replay && s.panels.any (fun q => q.id == p.id))
    if rs.any (fun p => s.beamBusy p.id) then .next s
    else if rs.any (fun p => s.commitWaits p.id) then
      .next (rs.foldl (fun y p => if y.commitWaits p.id then y.openCommit p.id else y) s)
    else if Scope.core.rank < (barScope b).rank && rs.any (fun p => s.storesOut p.core) then .next s
    else
      let s1 := ms.foldl (fun y q => y.spread q.1.core (barScope b)) s
      let s2 := ms.foldl (fun y q => y.nextPhase (recIdx b) q) s1
      .next (rs.foldl (fun y p => y.committed p.id id) s2)

end Sys2Proof.Machine
end

