-- ==== Sys2Proof/Machine/System.lean ====
section
/-! DEFINITION. System words (R367 to R371, R388, R407, R477): system registers, shootdowns (R70), trace records (R471), traps and
the return from them, publication, `chkerr` and `brk`. -/
namespace Sys2Proof.Machine

/-! ### System registers (R193, R367) -/

/-- FEAT of a core (R367). -/
def State.feat (s : State) (core : Nat) : Nat :=
  core * 2 ^ 48 + Config.hbmUnits * 2 ^ 40 + (s.die (coreDie core)).quads * 2 ^ 32 + (s.core core).picks * 2 ^ 24 + Config.isaLevel

/-- The value of a system register as a lane reads it (R70, R116, R167, R367). -/
def State.sysVal (s : State) (x : IC) (r : SReg) (lane : Nat) : Nat :=
  let c := s.ctx x.p.ctx
  let k := s.core x.w.core
  match r with
  | .hmap => k.good.toNat + k.gcnt * 2 ^ 16
  | .picks => k.picks
  | .laneid => lane
  | .weftid => x.p.index * 2 ^ 32 + x.w.pweft * 2 ^ 4 + x.w.slotNo
  | .core => s.pnode.toNat * 2 ^ 40 + x.w.core
  | .ctxid => x.p.ctx.toNat
  | .owner => c.func * 2 ^ 16 + c.tag.toNat
  | .cir => c.cir.toNat
  | .time => s.time
  | .feat => s.feat x.w.core
  | .trapv => c.trapv.toNat * 2 ^ 40
  | .prio => c.prio
  | .xinva => k.xinva.toNat
  | .xinv => 0
  | .mqs n => (k.mqs.getD n.toNat 0).toNat

/-- `sysr`: written by the register's unit (R367). -/
def execSysr (c : Common) (f : SF) (s : State) : Host.Outcome State Fault Refusal :=
  runWord (Instr.sysr c f).view (!f.sreg.readable) (fun x s1 =>
    .go (fun s2 => s2.tracked x (wordWrites true f.d x.lanes (fun i => BitVec.ofNat 64 (s1.sysVal x f.sreg i))))) s

/-- Whether a value sets a reserved bit of a register, or is one that the register refuses (R70, R116, R367). -/
def sysBad (r : SReg) (v : Nat) : Bool :=
  match r with
  | .ctxid => bitsOf v 63 16 != 0
  | .owner => bitsOf v 63 20 != 0 || bitsOf v 15 12 != 0
  | .cir => bitsOf v 63 19 != 0
  | .trapv => bitsOf v 39 0 != 0
  | .prio => bitsOf v 63 6 != 0
  | .xinva => false
  | .xinv => bitsOf v 63 60 == 0 || decide (3 < bitsOf v 63 60) || bitsOf v 59 48 != 0 || bitsOf v 31 20 != 0 ||
      (bitsOf v 63 60 == 2 && bitsOf v 19 0 == 0)
  | .mqs _ => bitsOf v 52 48 != 0 || bitsOf v 18 13 != 0 || decide (35 < bitsOf v 60 55) || decide (4096 < bitsOf v 12 0)
  | .hmap | .picks | .laneid | .weftid | .core | .time | .feat => true

/-- A context known by another identifier (R367): its record and its panels. -/
def State.renameCtx (s : State) (old new : CtxId) : State :=
  let l (q : Launch) : Launch := if q.ctx = old then { q with ctx := new } else q
  { s with
    ctxs := s.ctxs.map (fun c => if c.id = old then { c with id := new } else c)
    panels := s.panels.map (fun p => { p with launch := l p.launch })
    launches := s.launches.map l
    saved := s.saved.map (fun v => { v with panel := { v.panel with launch := l v.panel.launch } }) }

/-! ### Shootdowns (R70) -/

/-- Whether a page of a size is among those of a shootdown. -/
def Shoot.hitsPage (k : Shoot) (c : CtxId) (seg : Seg) (pg pgsz : Nat) : Bool :=
  c == k.ctx && (k.opc == 3 || (seg == k.seg && (k.opc == 1 ||
    (decide (k.off / pageSize pgsz ≤ pg) && decide (pg < k.off / pageSize pgsz + k.npg)))))
/-- Whether a descriptor is among those of a shootdown. -/
def Shoot.hitsDesc (k : Shoot) (c : CtxId) (seg : Seg) : Bool := c == k.ctx && (k.opc == 3 || (k.opc == 1 && seg == k.seg))

/-- The entries of a shootdown leave every cache of the package, those of the walkers too, and no walk that has ended keeps its result. -/
def State.shoot (s : State) (k : Shoot) : State :=
  { s with
    cores := s.cores.map (fun c => (c.1, { c.2 with
      tlbDesc := c.2.tlbDesc.filter (fun e => !k.hitsDesc e.1 e.2.1)
      tlbPage := c.2.tlbPage.filter (fun e => !k.hitsPage e.ctx e.seg e.page e.pgsz) }))
    dies := s.dies.map (fun d => { d with walkCache := d.walkCache.filter (fun l =>
      !l.users.any (fun u => u.1 == k.ctx && (k.opc == 3 || u.2 == k.seg))) })
    walks := s.walks.filter (fun w => !(w.result.isSome && k.hitsPage w.ctx w.seg w.page w.pgsz)) }

/-- A write of XINV starts a shootdown; the flag of the word falls when it has completed (R70). -/
def State.startShoot (s : State) (x : IC) (v : Nat) : State :=
  let a := (s.core x.w.core).xinva
  let k : Shoot := ⟨s.nextId, bitsOf v 63 60, BitVec.ofNat 16 (bitsOf v 47 32), segOf a, (offOf a).toNat, bitsOf v 19 0, x.w.id, x.track⟩
  (({ s with shoots := s.shoots ++ [k], nextId := s.nextId + 1 } : State).shoot k).addParts x.w.id x.track 1

/-- The effect of a write of a system register (R367). -/
def State.sysSet (s : State) (x : IC) (r : SReg) (v : DWord) : State :=
  let n := v.toNat
  match r with
  | .ctxid => s.renameCtx x.p.ctx (BitVec.ofNat 16 n)
  | .owner => s.modCtx x.p.ctx (fun c => { c with func := bitsOf n 19 16, tag := BitVec.ofNat 12 (bitsOf n 11 0) })
  | .cir => s.modCtx x.p.ctx (fun c => { c with cir := v })
  | .trapv => s.modCtx x.p.ctx (fun c => { c with trapv := segOf v })
  | .prio => s.modCtx x.p.ctx (fun c => { c with prio := n })
  | .xinva => s.modCore x.w.core (fun k => { k with xinva := v })
  | .xinv => s.startShoot x n
  | .mqs i => (s.modCore x.w.core (fun k => { k with mqs := k.mqs.set i.toNat v })).slotWritten x.w.core i.toNat
  | .hmap | .picks | .laneid | .weftid | .core | .time | .feat => s

/-- A write of a system register with the agent's value: ILLEGAL, FIELD, and nothing changed, where the register refuses it
(R367). -/
def syswWord (v : View) (f : SF) (s : State) : Host.Outcome State Fault Refusal :=
  runWord v true (fun x _ =>
    let a := x.rd true f.a x.agent
    if x.pz true f.a x.agent then .part (x.lanes.filter (· != x.agent)) (fun _ y => y) [] [x.agent]
    else if sysBad f.sreg a.toNat then .raise x.lanes (illFault .field x.pc)
    else .go (fun y => y.sysSet x f.sreg a)) s

/-- `sysw` (R367). -/
def execSysw (c : Common) (f : SF) (s : State) : Host.Outcome State Fault Refusal := syswWord (Instr.sysw c f).view f s
/-- `sysw XINV` with OPC SEG (R70). -/
def execXinvSeg (c : Common) (f : SF) (s : State) : Host.Outcome State Fault Refusal := syswWord (Instr.xinvSeg c f).view f s
/-- `sysw XINV` with OPC PAGES (R70). -/
def execXinvPages (c : Common) (f : SF) (s : State) : Host.Outcome State Fault Refusal := syswWord (Instr.xinvPages c f).view f s
/-- `sysw XINV` with OPC CTX (R70). -/
def execXinvCtx (c : Common) (f : SF) (s : State) : Host.Outcome State Fault Refusal := syswWord (Instr.xinvCtx c f).view f s

/-- Whether an entry of a store queue is an access already checked. -/
def SqOp.checked : SqOp → Bool
  | .store _ _ | .atomic _ _ _ _ _ _ _ | .discard _ => true
  | .fence _ | .push _ | .enq _ _ | .dcinit _ _ | .dcadd _ _ _ | .cut _ _ _ | .graft _ | .tile _ | .await | .copy _ _ | .post _ _ => false

/-- Whether a segment number of a context is among those that a shootdown removes entries of. -/
def Shoot.names (k : Shoot) (c : CtxId) (seg : Seg) : Bool := c == k.ctx && (k.opc == 3 || seg == k.seg)

/-- Whether a command of a shootdown's context was checked before it against entries that it removes. -/
def State.cmdHit (s : State) (k : Shoot) (c : CopyCmd) : Bool :=
  decide (c.id < k.id) && (match c.ends with
    | some e => k.names (s.panel c.panel).ctx e.sseg || k.names (s.panel c.panel).ctx e.dseg
    | none => false)
/-- The same of a post. -/
def Shoot.postHit (k : Shoot) (p : NetPost) : Bool :=
  decide (p.id < k.id) && (match p.src with
    | some e => k.names p.ctx e.2.1
    | none => false)
/-- The same of a tile transfer. -/
def Shoot.wordHit (k : Shoot) (m : MWord) : Bool :=
  decide (m.id < k.id) && !m.ended && (match m.src with
    | some e => k.names m.ctx e.2.1
    | none => false)

/-- Whether accesses of a context checked before a shootdown have still to perform (R32, R70): loads, stores and atomics, those that wait
for walks and those that a REPLAY panel holds; sectors of commands and tile transfers, but for what waits for the pager or behind such a
command, which is checked again (R33); and walks in flight. -/
def State.shootWaits (s : State) (k : Shoot) : Bool :=
  let mine (wid : Nat) : Bool := (s.panel (s.weft wid).panel).ctx == k.ctx
  s.wefts.any (fun w => mine w.id &&
    (w.loads.any (fun l => decide (l.id < k.id) && l.wait != .ready) || w.sq.any (fun e => decide (e.id < k.id) && e.op.checked))) ||
  s.wins.any (fun a => decide (a.id < k.id) && mine a.weft) || s.rems.any (fun a => decide (a.id < k.id) && mine a.weft) ||
  s.lates.any (fun q => decide (q.track < k.id) && mine q.weft) ||
  s.panels.any (fun p => p.ctx == k.ctx && p.held.any (fun q => decide (q.2.id < k.id))) ||
  s.cores.any (fun c => c.2.copyQ.any (fun q => (q.takeWhile (fun x => x.stall.isNone)).any (s.cmdHit k)) ||
    c.2.netQ.any (fun q => q.any (fun p => p.stall.isNone && !p.done && k.postHit p)) ||
    c.2.morder.any (fun m => m.stall.isNone && !m.susp && k.wordHit m)) ||
  s.walks.any (fun w => decide (w.id < k.id) && w.result.isNone && k.hitsPage w.ctx w.seg w.page w.pgsz)

/-- What waits for the pager is checked again when it goes on (R33). -/
def State.recheck (s : State) (k : Shoot) : State :=
  { s with cores := s.cores.map (fun c => (c.1, { c.2 with
      copyQ := c.2.copyQ.map (fun q => q.map (fun x => if s.cmdHit k x then { x with ends := none } else x))
      netQ := c.2.netQ.map (fun q => q.map (fun p => if k.postHit p then { p with src := none } else p))
      morder := c.2.morder.map (fun m => if k.wordHit m then { m with src := none } else m) })) }

/-- SHOOTDOWN_COMPLETE: the caches hold no entry of it, and every earlier access has performed (R70). -/
def execShootdownComplete (id : Nat) (s : State) : Host.Outcome State Fault Refusal :=
  match s.shoots.find? (fun k => k.id == id) with
  | none => .next s
  | some k =>
    if s.shootWaits k then .next s
    else .next (((({ s with shoots := s.shoots.filter (fun q => q.id != id) } : State).shoot k).recheck k).partDone k.weft k.track)

/-! ### Trace records (R369, R471, R472) -/

/-- A trace record (R471). -/
def traceRecord (panel : Nat) (c : CtxId) (core pweft att drops kind tag : Nat) (l2 l1 : LaneMask) (pc2 data pc : DWord) (stamp : Nat) :
    List Byte :=
  natLE 64 (panel % 2 ^ 32 * 2 ^ 416 + c.toNat * 2 ^ 400 + core % 2 ^ 10 * 2 ^ 390 + pweft % 2 ^ 4 * 2 ^ 386 + att % 4 * 2 ^ 384
    + min drops 0xFFFF * 2 ^ 368 + kind % 2 ^ 4 * 2 ^ 364 + tag % 2 ^ 14 * 2 ^ 350 + l2.toNat * 2 ^ 288 + l1.toNat * 2 ^ 256
    + pc2.toNat * 2 ^ 192 + data.toNat * 2 ^ 128 + pc.toNat * 2 ^ 64 + stamp % 2 ^ 64)

/-- Entries of the FIFO that a TRACE record may not take (R472). -/
def traceKept : Nat := 4
/-- Whether the FIFO of a core has a free entry. -/
def State.traceRoom (s : State) (core : Nat) : Bool := decide ((s.core core).trace.length < Config.traceEntries)
/-- Records that the event of a weft adds to a core's FIFO, or drops (R472). -/
def State.emit (s : State) (wid kind tag : Nat) (l1 : LaneMask) (pc : DWord) (l2 : LaneMask) (pc2 data : DWord) : State :=
  let w := s.weft wid
  let p := s.panel w.panel
  let k := s.core w.core
  let room := if kind = 1 then Config.traceEntries - traceKept else Config.traceEntries
  if room ≤ k.trace.length then s.modCore w.core (fun q => { q with dropped := q.dropped + 1 })
  else s.modCore w.core (fun q => { q with
    trace := q.trace ++ [traceRecord p.index p.ctx w.core w.pweft (if p.launch.replay then p.attempt else 0) q.dropped kind tag l2 l1
      pc2 data pc k.slotAt]
    dropped := 0 })

/-- `trace`: its flag falls when the record has entered the FIFO or is dropped (R369, R472). -/
def execTrace (c : Common) (f : SF) (s : State) : Host.Outcome State Fault Refusal :=
  runWord (Instr.trace c f).view false (fun x _ =>
    if x.pz true f.a x.agent then .part (x.lanes.filter (· != x.agent)) (fun _ y => y) [] [x.agent]
    else .go (fun y => y.emit x.w.id 1 f.imm.toNat (maskOf x.lanes) x.pc x.lanes2 x.pc2 (x.rd true f.a x.agent))) s

/-- `brk`: with a debugger attached, a BRK record, and the weft halts at the header after the word (R370, R477). -/
def execBrk (c : Common) (f : SF) (s : State) : Host.Outcome State Fault Refusal :=
  runWord (Instr.brk c f).view false (fun x s1 =>
    if !(s1.ctx x.p.ctx).debug then .go id
    else if !s1.traceRoom x.w.core then .hold id
    else .go (fun y => (y.emit x.w.id 2 f.imm.toNat (maskOf x.lanes) x.pc x.lanes2 x.pc2 0).modWeft x.w.id (fun w =>
      { w with halted := true }))) s

/-! ### trap and rett (R370, R388, R405, R407) -/

/-- `trap n`: each lane enters handler n, to return to the header after the word (R370, R403). -/
def execTrap (c : Common) (f : SF) (s : State) : Host.Outcome State Fault Refusal :=
  simpleWord (Instr.trap c f).view (fun x s1 =>
    x.lanes.foldl (fun y i => y.deliver x.w.id i ⟨.trap, 0, 0, f.imm.toNat, 0⟩ x.pc) s1) s

/-- The fault of a code (R403). -/
def faultOfCode (n : Nat) : FaultCode :=
  if n = 0x80 then .trap
  else [FaultCode.none, .unbound, .link, .segment, .limit, .rights, .page, .overlay, .budget, .member, .align, .illegal, .priv,
    .skein, .accown, .shadow, .beamchk, .qfull, .watch].getD n .none

/-- A lane in a handler parks at its `rett` in a subgroup that the die controller holds (R388, R289). -/
def State.parkHandler (s : State) (x : IC) (lane : Nat) (f : LFault) : State :=
  (s.modLane x.w.id lane (fun l => { l with pc := x.pc, pos := .inside x.hdr })).holdLane x.w.id lane .load f

/-- The subgroup that a handler lane handles. -/
def Weft.subOf (w : Weft) (lane : Nat) : Option Nat := w.subs.findIdx? (fun g => g.status == 2 && g.handler == lane)

/-- Words of a weft suspended on ACCOWN on a core go on, or end (R401, R407). -/
def State.wakeWords (s : State) (core wid : Nat) (ends : Bool) : State :=
  s.modCore core (fun k => { k with morder := k.morder.map (fun m =>
    if m.weft = wid ∧ m.susp then { m with susp := false, ended := m.ended || ends } else m) })

/-- A declined trap, its frame popped: the lane stops with its fault; for PAGE the whole subgroup, for a suspended matrix word the word ends
(R77, R401, R407). -/
def State.declineTrap (s : State) (x : IC) (lane code reason : Nat) (addr : DWord) (core : Nat) : State :=
  let stop (y : State) : State := y.stopLane x.w.id lane ⟨faultOfCode code, reason, addr, 0, 0⟩
  if code = FaultCode.page.code then
    match (s.weft x.w.id).subOf lane with
    | some k => s.declineSub x.w.id k
    | none => stop s
  else if code = FaultCode.accown.code then stop (s.wakeWords core x.w.id true)
  else stop s

/-- An OVERLAY handler's residency is recorded (R407, R410). -/
def State.addResid (s : State) (core : Nat) (c : CtxId) (t extra : DWord) : State :=
  let new : Resid := ⟨c, segOf t, bitsOf extra.toNat 15 0, bitsOf extra.toNat 32 16, s.nextId⟩
  s.modCore core (fun k => { k with resid := k.resid.filter (fun e => !(e.ctx == c && e.seg == segOf t)) ++ [new] })

/-- `rett` of a lane at its trap frame (R388, R407). -/
def State.rettLane (s : State) (x : IC) (lane : Nat) : State :=
  let wid := x.w.id
  let fb := ((s.weft wid).lane lane).fb.toNat
  let bad (f : LFault) : State :=
    if f.code = .page then s.parkHandler x lane f else s.faultLanes wid x.pc x.hdr .load [(lane, f)]
  let stand := s.modLane wid lane (fun l => { l with pc := x.pc, pos := .inside x.hdr })
  match s.frameAt (s.reqNow wid lane) wid fb with
  | .miss ps => stand.askFrame wid ps
  | .fault f => bad f
  | .ok fr =>
    if fr.tf = 0 ∨ fr.tf = 3 then s.faultLanes wid x.pc x.hdr .load [(lane, illFault .frame x.pc)]
    else match s.localWords wid lane fb 0 8 with
    | .miss ps => stand.askFrame wid ps
    | .fault f => bad f
    | .ok ws =>
      let word (k : Nat) : Nat := ws.getD k 0
      let sv := ws.drop 4
      let c := x.p.ctx
      if fr.tf = 1 then
        let e := bitsOf (word 0) 31 0
        let q := bitsOf (word 1) 15 0
        let still := match s.entryAt c (s.ebase c) e with
          | .ok b => b.state == 1 && b.cseq == q
          | .error _ => false
        if still && s.commitWaits x.p.id then stand.openCommit x.p.id
        else (if still then s.committed x.p.id (fun y => y.bindFailed c e q) else s).popTrap wid lane fb fr sv
      else
        let code := bitsOf (word 1) 7 0
        let reason := bitsOf (word 1) 15 8
        let addr := BitVec.ofNat 64 (word 0)
        let extra := BitVec.ofNat 64 (word 3)
        let core := bitsOf (word 3) 9 0
        let decline := (s.popTrap wid lane fb fr sv).declineTrap x lane code reason addr core
        if bitAt (word 1) 31 then decline
        else if code = FaultCode.page.code then
          (match (s.weft wid).subOf lane with
            | some k => s.modWeft wid (fun w => w.releaseSub k)
            | none => s).popTrap wid lane fb fr sv
        else if code = FaultCode.overlay.code then (s.addResid x.w.core c addr extra).popTrap wid lane fb fr sv
        else if code = FaultCode.accown.code then
          let t := bitsOf (word 1) 35 32
          let free (y : State) : State := ((y.zeroTile core t c).wakeWords core wid false).popTrap wid lane fb fr sv
          if addr = 0 then free s
          else match s.spillTile core t with
            | .ok s1 => free s1
            | .fail => decline
            | .page f => (stand.modLane wid lane (fun l => { l with st := .parked .spill })).report "page" c
                [wid, lane, f.addr.toNat, f.reason]
        else s.popTrap wid lane fb fr sv

/-- `rett`: each lane returns from its handler; held while a handler handle's future is PENDING (R388, R407). -/
def execRett (c : Common) (f : SF) (s : State) : Host.Outcome State Fault Refusal :=
  runWord (Instr.rett c f).view true (fun x s1 =>
    if x.lanes.any (fun i => s1.pending (x.w.lane i).hh) then .hold id
    else .go (fun y => x.lanes.foldl (fun z i => z.rettLane x i) y)) s

/-! ### chkerr (R368) -/

/-- `chkerr`: held until the weft's earlier loads and matrix words have completed; then CIR is read and cleared in one step; the old
value is a result of its unit (R175, R368). -/
def execChkerr (c : Common) (f : SF) (s : State) : Host.Outcome State Fault Refusal :=
  runWord (Instr.chkerr c f).view false (fun x s1 =>
    if !x.w.loads.isEmpty || s1.cores.any (fun k => k.2.morder.any (fun m => m.weft == x.w.id)) then .hold id
    else
      let v := (s1.ctx x.p.ctx).cir
      .go (fun y => (y.modCtx x.p.ctx (fun k => { k with cir := BitVec.ofNat 64 (bitsOf v.toNat 63 19 * 2 ^ 19) })).tracked x
        (wordWrites true f.d x.lanes (fun _ => v)))) s

/-! ### publish (R371) -/

/-- `publish`: the staging segment is checked as a load of its header; the die controller does the rest (R371). It is held until
the weft's earlier stores have performed. -/
def execPublish (c : Common) (f : SF) (s : State) : Host.Outcome State Fault Refusal :=
  runWord (Instr.publish c f).view false (fun x s1 =>
    let i := x.agent
    let h := f.imm.toNat % 16
    let others := x.lanes.filter (· != i)
    let a := x.addr f.a i
    if x.pz true f.a i then .part others (fun _ y => y) [] [i]
    else if x.awaits || s1.futureHeld x h .publish || !x.w.sq.isEmpty || s1.storesOut x.w.core then .hold id
    else match s1.check (s1.reqOf x.w.id i) .load a 0 64 8 with
      | .miss ps => .hold (fun y => y.askPages (whoFor x.w.core x.w.id) x.w.core ps)
      | .fault g => .part others (fun _ y => y) [(i, g)] []
      | .ok q => .go (fun y =>
        let m := (y.takeWalks (whoFor x.w.core x.w.id)).makeFuture x h .publish 0
        match m.2 with
        | none => m.1
        | some r => { m.1 with
            pubs := m.1.pubs ++ [⟨m.1.nextId, x.p.ctx, r, absEnd a q.2.1 q.2.2.1, x.sys, x.p.id⟩]
            nextId := m.1.nextId + 1 })) s

/-- Staging bytes as the die controller reads them (R371). -/
def State.stage (s : State) (p : Pub) (off n : Nat) : Chk (List Byte) :=
  let pn := s.panel p.panel
  let r : Req := { ctx := p.ctx, core := pn.core, panel := p.panel, sys := p.sys, sseg := 0, fb := 0, who := 0, now := true }
  (s.check r .load (mkAddr (segOf p.addr) (BitVec.ofNat 40 off)) 0 n 1 false).map fun q =>
    q.2.2.2.map (fun l => (s.coreByte pn.core p.panel l).1)

/-- The staging header's fields (R221). -/
structure StageHdr where
  codelen : Nat
  mod     : Nat
  fm      : Nat × Nat
  bu      : Nat × Nat
  ci      : Nat × Nat

/-- The header in 64 bytes; none when it is malformed (R221). -/
def stageHdr (bs : List Byte) : Option StageHdr :=
  let x := leNat bs
  let n := bitsOf x 95 64
  if bs.take 8 ≠ [0x4E, 0x58, 0x53, 0x54, 0x47, 0x00, 0x00, 0x01] ∨ n % 8 ≠ 0 ∨ n < 16 ∨ 65536 < n ∨ bitsOf x 127 112 ≠ 0 ∨
      bitsOf x 511 416 ≠ 0 then none
  else some ⟨n, bitsOf x 111 96, (bitsOf x 191 128, bitsOf x 351 320), (bitsOf x 255 192, bitsOf x 383 352),
    (bitsOf x 319 256, bitsOf x 415 384)⟩

/-- The clause walk of R217 from an offset: the headers' offsets, each with its header; none where it does not end at the end. -/
def walkClauses (code : List Byte) : Nat → Nat → Option (List (Nat × Header))
  | 0, _ => none
  | n + 1, off =>
    if off = code.length then some []
    else if code.length < off + 8 then none
    else match decodeHeader (BitVec.ofNat 64 (leNat ((code.drop off).take 8))) with
      | none => none
      | some h => (walkClauses code n (off + 8 * (h.count.toNat + 2))).map (fun hs => (off, h) :: hs)

/-- The clause-index record of the walk (R217). -/
def clauseIndex (offs : List Nat) : List Byte :=
  let bs := natLE 8 (offs.length * 2 ^ 32) ++ offs.flatMap (natLE 2)
  bs ++ List.replicate ((8 - bs.length % 8) % 8) 0

/-- The words of a clause: each with its offset, and whether it stands last. -/
def clauseWords (q : Nat × Header) : List (Nat × Bool) :=
  (List.range (q.2.count.toNat + 1)).map (fun k => (q.1 + 8 * (k + 1), k == q.2.count.toNat))

/-- A word of code by offset. -/
def codeWordAt (code : List Byte) (off : Nat) : Nat := leNat ((code.drop off).take 8)

/-- The `enter` words of code: the header offset of each one's clause, its budget and its frame size (R286). -/
def enters (code : List Byte) (hs : List (Nat × Header)) : List (Nat × Nat × Nat) :=
  hs.flatMap (fun q => (clauseWords q).filterMap (fun k =>
    let w := codeWordAt code k.1
    if bitsOf w 63 58 = 0x24 ∧ bitsOf w 49 44 = 0 then some (q.1, 16 * (bitsOf w 19 16 + 1), bitsOf w 15 0) else none))

/-- The frame-map records of a section body (R214): ENTRY and FSIZE of each; none where the body is malformed: a head's reserved bit, or a
bit of a bitmap past the frame. -/
def fmRecords (bs : List Byte) : Nat → Nat → Option (List (Nat × Nat))
  | 0, _ => none
  | n + 1, off =>
    if off = bs.length then some []
    else if bs.length < off + 8 then none
    else
      let h := leNat ((bs.drop off).take 8)
      let nw := ceilDiv (bitsOf h 47 32) 512
      if bitsOf h 15 0 ≠ 0 ∨ bitsOf h 63 48 ≠ 0 ∨ bs.length < off + 8 + 8 * nw ∨
          leNat ((bs.drop (off + 8)).take (8 * nw)) / 2 ^ (bitsOf h 47 32 / 8) ≠ 0 then none
      else (fmRecords bs n (off + 8 + 8 * ceilDiv (bitsOf h 47 32) 512)).map (fun rs => (bitsOf h 31 16, bitsOf h 47 32) :: rs)

/-- What a publication's checks find: a reason of R371, or what is to be written. -/
inductive PubCheck where
  | wait (f : LFault)
  /-- Host pages of the staging bytes are to be translated (R467). -/
  | ask (ps : List PageReq)
  | reject (reason : Nat)
  | ok (h : StageHdr) (code fm : List Byte) (records : Nat)

/-- Bytes of a section body. -/
def State.stagePart (s : State) (p : Pub) (q : Nat × Nat) : Chk (List Byte) :=
  if q.2 = 0 then .ok [] else if 2 ^ 40 ≤ q.1 then .fault ⟨.limit, 2, 0, 0, 0⟩ else s.stage p q.1 q.2

/-- The checks of a publication, in the order of its reasons (R371). -/
def State.pubCheck (s : State) (p : Pub) : PubCheck :=
  let fail (f : LFault) (reason : Nat) : PubCheck := if f.code = .page then .wait f else .reject reason
  if offOf p.addr ≠ 0 then .reject 1
  else match s.stage p 0 64 with
  | .fault f => fail f 1
  | .miss ps => .ask ps
  | .ok hb => match stageHdr hb with
    | none => .reject 1
    | some h =>
      match s.stage p 0x40 h.codelen, s.stagePart p h.fm, s.stagePart p h.bu, s.stagePart p h.ci with
      | .ok code, .ok fm, .ok bu, .ok ci =>
        match walkClauses code (h.codelen / 16 + 1) 0 with
        | none => .reject 2
        | some hs =>
          let ents := enters code hs
          let bud (e : Nat × Nat × Nat) : Bool := (List.range (bu.length / 8)).any (fun k =>
            leNat ((bu.drop (8 * k)).take 8) == e.1 * 2 ^ 16 + e.2.1 * 2 ^ 32)
          if ci ≠ clauseIndex (hs.map (·.1)) then .reject 2
          else if hs.any (fun q => (clauseWords q).any (fun k =>
              match decodeBytes q.2.cls.toNat k.2 ((code.drop k.1).take 8) with
              | .ok _ => false
              | .error _ => true)) then .reject 3
          else if bu.length % 8 ≠ 0 ∨ !ents.all bud then .reject 4
          else match fmRecords fm (fm.length / 8 + 1) 0 with
            | none => .reject 5
            | some rs =>
              if !ents.all (fun e => rs.any (fun r => r.1 == e.1)) then .reject 5
              else match s.btHeader p.ctx with
                | .ok (_, _, _, mc) => if h.mod < mc then .ok h code fm rs.length else .reject 6
                | .error _ => .reject 6
      | .fault f, _, _, _ => fail f 1
      | .ok _, .fault f, _, _ => fail f 5
      | .ok _, .ok _, .fault f, _ => fail f 4
      | .ok _, .ok _, .ok _, .fault f => fail f 2
      | .miss ps, _, _, _ => .ask ps
      | .ok _, .miss ps, _, _ => .ask ps
      | .ok _, .ok _, .miss ps, _ => .ask ps
      | .ok _, .ok _, .ok _, .miss ps => .ask ps

/-- The words of an absent descriptor of a context's table, and their physical address; none where there is none or its KIND is
not 0 (R371). -/
def State.freeDesc (s : State) (c : CtxId) (seg : Nat) : Option (Nat × Nat × Nat × Nat) :=
  match s.readDesc c (BitVec.ofNat 24 seg) with
  | .ok _ => none
  | .error f =>
    if f.code = .segment ∧ f.reason = 4 then
      let root := (s.ctx c).root.toNat
      let tk := bitsOf root 11 0
      let e := s.hbmWord (bitsOf root 51 15 * 0x8000 + 8 * bitsOf seg 23 12) tk
      let pa := bitsOf e 51 17 * 0x20000 + 32 * bitsOf seg 11 0
      some (pa, s.hbmWord pa tk, s.hbmWord (pa + 8) tk, s.hbmWord (pa + 24) tk)
    else none

/-- The places of a new code segment's bytes: under the table base and key that stand in its absent descriptor. -/
def State.codeLocs (s : State) (c : CtxId) (base okey n : Nat) : Option (List Loc) :=
  (List.range n).mapM (fun i => match s.walkPage (s.tkey c) base i 0 with
    | .ok e => if bitAt e.2 2 ∨ !s.keyLive okey then none else some (.hbm (bitsOf e.2 51 8 * 256 + i % 0x10000) okey 0)
    | .error _ => none)

/-- The publication of checked code as a segment (R219, R285, R371): the code, its digest, its frame maps, its descriptor. -/
def State.seal (s : State) (p : Pub) (h : StageHdr) (code fm : List Byte) (records seg : Nat) (d : Nat × Nat × Nat × Nat)
    (locs : List Loc) : State :=
  let c := p.ctx
  let tk := s.tkey c
  let block := Config.freeFrameBlock seg
  let word (i : Nat) : List Loc := (List.range 8).map (fun k => Loc.hbm (d.1 + 8 * i + k) tk 2)
  let s1 := s.write (wrs locs code)
  let s2 := s1.modCtx c (fun k => { k with digests := k.digests.filter (fun q => q.1 != seg) ++
    [(seg, shake256 code)] })
  let s3 := (s2.deviceWrite c (s.ctx c).fmseg block (8 + fm.length) (records + leNat fm * 2 ^ 64)).deviceWrite c (s.ctx c).fmseg
    (8 * seg) 8 block
  let w0 := 5 * 2 ^ 60 + 2 ^ 59 + 2 ^ 57 + bitsOf d.2.1 47 36 * 2 ^ 36
  let w1 := bitsOf d.2.2.1 63 50 * 2 ^ 50 + (h.codelen - 1)
  let s4 := s3.write (wrs (word 1) (natLE 8 w1) ++ wrs (word 2) (natLE 8 h.mod) ++ wrs (word 3) (natLE 8 d.2.2.2))
  (s4.write (wrs (word 0) (natLE 8 w0))).completeFut p.fut (BitVec.ofNat 64 (seg * 2 ^ 40))

/-- PUBLISH_CHECK: the die controller checks, copies and seals published code (R371). -/
def execPublishCheck (id : Nat) (s : State) : Host.Outcome State Fault Refusal :=
  match s.pubs.find? (fun p => p.id == id) with
  | none => .next s
  | some p =>
    let done : State := { s with pubs := s.pubs.filter (fun q => q.id != id) }
    match s.pubCheck p with
    | .wait f => .next (s.report "page" p.ctx [id, f.addr.toNat, f.reason])
    | .ask ps => .next (s.queueWalks 0 (coreDie (s.panel p.panel).core) ps)
    | .reject n => .next (done.completeFut p.fut (BitVec.ofNat 64 (5 + n * 256)))
    | .ok h code fm records =>
      let lo := (s.ctx p.ctx).publo.toNat
      let hi := (s.ctx p.ctx).pubhi.toNat
      match ((List.range (hi + 1 - lo)).map (· + lo)).findSome? (fun n =>
          (s.freeDesc p.ctx n).bind (fun d => (s.codeLocs p.ctx d.2.2.2 (bitsOf d.2.1 47 36) h.codelen).map (fun ls => (n, d, ls)))) with
      | none => .next (done.completeFut p.fut 6)
      | some (n, d, ls) => .next (done.seal p h code fm records n d ls)

end Sys2Proof.Machine
end

