-- ==== Sys2Proof/Machine/Issue.lean ====
section
/-! DEFINITION. The issue stage (R167 to R177): clause headers (R181), breakpoints (R477), the choice of a weft and of up to two
paths (R170, R171), and where each slot is charged (R422, R481). -/
namespace Sys2Proof.Machine

/-! ### The slot (R169, R170, R173) -/

/-- A slot of a core begins (R170), at a TIME no earlier than any before (R367, R470): fixed-latency results that it can read complete
their instructions (R174, R175), and the core may see more of what others have written (R134). -/
def State.beginSlot (s : State) (core : Nat) : State :=
  let t := s.time + Config.freeTick s.fresh
  let k := s.core core
  let s1 := (s.modCore core (fun c => { c with slot := c.slot + 1, slotAt := t })).catchUp core
  { s1 with
    time := t
    fresh := s.fresh + 1
    wefts := s1.wefts.map (fun w => if w.core = core then w.endFixed (k.slot + 1) k.picks else w) }

/-- The wefts of a core whose panels run, in the order of their slots. -/
def State.coreWefts (s : State) (core : Nat) : List Nat :=
  (List.range 16).filterMap (fun k =>
    (s.wefts.find? (fun w => w.core == core && w.slotNo == k && (s.panel w.panel).life == .running)).map (fun w => w.id))

/-- Whether a weft may start a slot for the debugger's part (R478, R479). -/
def Weft.runs (w : Weft) : Bool := !w.halted || w.step == 1

/-! ### Breakpoints (R475, R477) -/

/-- Whether a breakpoint entry fires for lanes of a weft at a word or header (R475, R477). -/
def bpFires (e : BitVec 128) (pweft : Nat) (a : DWord) (lanes : List Nat) : Bool :=
  let x := e.toNat
  bitAt x 0 && bitsOf x 127 104 == (segOf a).toNat && bitsOf x 103 64 == (offOf a).toNat &&
    (bitsOf x 15 8 == 0xFF || bitsOf x 15 8 == pweft) && lanes.any (fun i => bitAt x (32 + i))

/-- The indexes of the breakpoints that fire; none without a debugger, or at a word where the weft stopped (R475, R479). -/
def State.bpHits (s : State) (w : Weft) (a : DWord) (lanes : List Nat) : List Nat :=
  let c := s.ctx (s.panel w.panel).ctx
  if !c.debug || w.skipAt.contains a then []
  else (List.range 8).filter (fun k => bpFires (c.bps.getD k 0) w.pweft a lanes)
/-- Whether a breakpoint of a weft's context only traces (R475). -/
def State.bpTraces (s : State) (w : Weft) (k : Nat) : Bool := bitAt ((s.ctx (s.panel w.panel).ctx).bps.getD k 0).toNat 1
/-- Whether a breakpoint of a weft's context halts every weft (R475). -/
def State.bpAll (s : State) (w : Weft) (k : Nat) : Bool := bitAt ((s.ctx (s.panel w.panel).ctx).bps.getD k 0).toNat 2

/-- A weft is debug-halted (R478). -/
def Weft.halt (w : Weft) : Weft := { w with halted := true, step := 0 }
/-- A weft, or every weft of its context, is debug-halted (R477). -/
def State.haltWefts (s : State) (wid : Nat) (all : Bool) : State :=
  let c := (s.panel (s.weft wid).panel).ctx
  { s with wefts := s.wefts.map (fun w => if w.id = wid ∨ (all ∧ (s.panel w.panel).ctx = c) then w.halt else w) }

/-- What the breakpoints at a path's word do to its slot. -/
inductive BpOutcome where
  /-- The slot goes on; records of tracing breakpoints are emitted. -/
  | on (s : State)
  /-- The weft is halted. -/
  | stop (s : State)
  /-- The slot is held until an entry of the FIFO frees (R472). -/
  | full

/-- The breakpoints that fire for a path, at its word or header, beside the other path of the slot: a record for each that traces,
one record for those that halt (R477). -/
def State.breakAt (s : State) (wid : Nat) (a : DWord) (l1 : List Nat) (a2 : DWord) (l2 : List Nat) : BpOutcome :=
  let w := s.weft wid
  let hits := s.bpHits w a l1
  let tr := hits.filter (s.bpTraces w)
  let st := hits.filter (fun k => !s.bpTraces w k)
  if Config.traceEntries < (s.core w.core).trace.length + tr.length + (if st.isEmpty then 0 else 1) then .full
  else
    let rc (y : State) (k : Nat) : State := y.emit wid 3 k (maskOf l1) a (maskOf l2) a2 0
    let s1 := tr.foldl rc s
    match st with
    | [] => .on s1
    | k :: _ => .stop ((rc s1 k).haltWefts wid (st.any (s.bpAll w)))

/-! ### Finding the clause of a lane (R388, R445) -/

/-- Lanes take a fault at their PC, at which they stay in the position given. -/
def State.faultAt (s : State) (wid : Nat) (lanes : List Nat) (pc : DWord) (pos : Pos) (f : LFault) : State :=
  (s.faultLanes wid pc 0 .fetch (lanes.map (fun i => (i, f)))).modWeft wid (fun w =>
    { w with lanes := w.lanes.mapIdx (fun i l => if lanes.contains i ∧ l.pc = pc then { l with pos := pos } else l) })

/-- The position of a lane returned to a word (R388): at a header, inside the clause of the nearest header at or below it, or the
fault that it takes. -/
def State.clauseAt (s : State) (core : Nat) (c : CtxId) (pc : DWord) : Except LFault Pos :=
  let seg := segOf pc
  let off := (offOf pc).toNat
  match s.descOf core c seg with
  | .error _ => .error (illFault .header pc)
  | .ok d =>
    if d.kind ≠ 5 ∨ off % 8 ≠ 0 then .error (illFault .header pc)
    else if d.limit < off + 7 then .error ⟨.limit, 1, pc, 0, 0⟩
    else if ((s.core core).residOf c seg).isNone then .error ⟨.overlay, 0, pc, 0, 0⟩
    else match (List.range 17).find? (fun k => decide (8 * k ≤ off) && fld (s.fetchWord core c seg (off - 8 * k)) 58 6 == 0x3F) with
      | none => .error (illFault .header pc)
      | some k =>
        if k = 0 then .ok .header
        else if (fld (s.fetchWord core c seg (off - 8 * k)) 54 4).toNat + 1 < k then .error (illFault .header pc)
        else .ok (.inside (BitVec.ofNat 40 (off - 8 * k)))

/-- Whether a lane may issue: it is active, and no fault waits for it. -/
def Lane.free (l : Lane) : Bool := l.st == .active && l.trap.isEmpty

/-- The lanes of a weft that may issue and meet a test, grouped by PC and mode (R171). -/
def Weft.groups (w : Weft) (test : Lane → Bool) : List (DWord × Bool × List Nat) :=
  (List.range 32).foldl (fun gs i =>
    let l := w.lane i
    if l.free && test l then
      if gs.any (fun g => g.1 == l.pc && g.2.1 == l.sys) then
        gs.map (fun g => if g.1 == l.pc && g.2.1 == l.sys then (g.1, g.2.1, g.2.2 ++ [i]) else g)
      else gs ++ [(l.pc, l.sys, [i])]
    else gs) []

/-- The lanes that have returned to a word find their clauses (R388). -/
def State.findClauses (s : State) (wid : Nat) : State :=
  let w := s.weft wid
  let c := (s.panel w.panel).ctx
  (w.groups (fun l => l.pos == .resume)).foldl (fun y g =>
    match y.clauseAt w.core c g.1 with
    | .error f => y.faultAt wid g.2.2 g.1 .resume f
    | .ok p => y.modWeft wid (fun x => { x with lanes := x.lanes.mapIdx (fun i l =>
        if g.2.2.contains i then { l with pos := p } else l) })) s

/-- Whether a lane stands inside a clause. -/
def Lane.inClause (l : Lane) : Bool :=
  match l.pos with
  | .inside _ => true
  | .header | .resume | .launch | .ending => false

/-- Lanes inside a clause whose segment has left the I-pad take OVERLAY, and read the header again after it (R445). -/
def State.lostClauses (s : State) (wid : Nat) : State :=
  let w := s.weft wid
  let c := (s.panel w.panel).ctx
  (w.groups Lane.inClause).foldl (fun y g =>
    if ((y.core w.core).residOf c (segOf g.1)).isSome then y
    else y.faultAt wid g.2.2 g.1 .resume ⟨.overlay, 0, g.1, 0, 0⟩) s

/-! ### Headers (R181, R197) -/

/-- The check of the header that a lane stands at (R181, R197, R284). -/
def State.headerOf (s : State) (w : Weft) (lane : Nat) : Chk Header :=
  let l := w.lane lane
  let p := s.panel w.panel
  let seg := segOf l.pc
  let off := (offOf l.pc).toNat
  let launch := l.pc == p.launch.entry && l.fb == 0x20
  (if launch then s.checkFetch (s.reqOf w.id lane) l.pc else .ok ()).bind fun _ =>
    match s.descOf w.core p.ctx seg with
    | .error _ => .fault (illFault .header l.pc)
    | .ok d =>
      if d.kind ≠ 5 ∨ off % 8 ≠ 0 then .fault (illFault .header l.pc)
      else if d.limit < off + 7 then .fault ⟨.limit, 1, l.pc, 0, 0⟩
      else if ((s.core w.core).residOf p.ctx seg).isNone then .fault ⟨.overlay, 0, l.pc, 0, 0⟩
      else match decodeHeader (s.fetchWord w.core p.ctx seg off) with
        | none => .fault (illFault .header l.pc)
        | some h =>
          let w0 := s.fetchWord w.core p.ctx seg (off + 8)
          if d.limit < off + 8 * (h.count.toNat + 2) - 1 then .fault ⟨.limit, 1, l.pc, 0, 0⟩
          else if launch && !(fld w0 58 6 == 0x24 && fld w0 44 6 == 0) then .fault (illFault .entry l.pc)
          else .ok h

/-- A lane passes a header, and stands at the clause's first word. -/
def Lane.passHeader (l : Lane) : Lane := { l with pos := .inside (offOf l.pc), pc := mkAddr (segOf l.pc) (offOf l.pc + 8) }

/-- A lane executes the WAIT of a header with REJ (R172, R181): it arrives past the header, or is held at it. -/
def Weft.rejoinLane (w : Weft) (j lane : Nat) : Weft :=
  let m := w.mask j
  if m.1.getLsbD lane && m.2.getLsbD lane then w.park [lane] (.heldWait j)
  else ((w.modLane lane Lane.passHeader).waitLane j lane).2

/-- Whether a lane is parked at a WAIT. -/
def LaneSt.atWait : LaneSt → Bool
  | .parked (.rejoin _) => true
  | .parked (.heldWait _) => true
  | .parked (.fault _) | .parked (.bind _) | .parked (.push _ _) | .parked (.barrier _ _ _) | .parked .nwait | .parked .held
  | .parked .node | .parked .hold | .parked (.step _) | .parked .spill | .parked (.walk _) => false
  | .active | .exited | .stopped _ => false

/-- Lanes released from a WAIT in a slot issue from the next on (R169, R172). -/
def Weft.delayReleased (w old : Weft) (expected : LaneMask) (slot : Nat) : Weft :=
  { w with lanes := w.lanes.mapIdx (fun i l =>
      if l.st == .active && ((old.lane i).st.atWait || expected.getLsbD i) then { l with pause := max l.pause (slot + 1) } else l) }

/-- Lanes pass a header: its WAIT, if it has REJ (R181). -/
def State.passHeader (s : State) (wid : Nat) (h : Header) (lanes : List Nat) (slot : Nat) : State :=
  s.modWeft wid (fun w =>
    if h.rej then
      let exp := (w.mask h.rjm.toNat).1 &&& maskOf lanes
      (lanes.foldl (fun x i => x.rejoinLane h.rjm.toNat i) w).delayReleased w exp slot
    else lanes.foldl (fun x i => x.modLane i Lane.passHeader) w)

/-- The lanes of a group at a header reach it: breakpoints, the header's checks, and its WAIT (R181, R477). -/
def State.reachHeader (s : State) (wid : Nat) (g : DWord × Bool × List Nat) (slot : Nat) : State :=
  let w := s.weft wid
  if !w.runs then s
  else
    let q := sortLanes (fun i => s.headerOf w i) g.2.2
    let who := whoFor w.core wid
    let s1 := if q.2.2.isEmpty then s.takeWalks who else s.askPages who w.core q.2.2
    let go := (q.1.map (·.1)) ++ (q.2.1.map (·.1))
    if go.isEmpty then s1
    else match s1.breakAt wid g.1 go 0 [] with
      | .full => s1
      | .stop s2 => s2
      | .on s2 =>
        let s3 := q.2.1.foldl (fun y f => y.faultAt wid [f.1] g.1 .header f.2) s2
        match q.1 with
        | [] => s3
        | (_, h) :: _ => s3.passHeader wid h (q.1.map (·.1)) slot

/-- Lanes at headers reach them. -/
def State.headers (s : State) (wid slot : Nat) : State :=
  ((s.weft wid).groups (fun l => l.pos == .header)).foldl (fun y g => y.reachHeader wid g slot) s

/-- Whether a lane parked so can take a fault that waits for it (R330): not in a fault subgroup, nor while its word goes on. -/
def Park.takesFault : Park → Bool
  | .rejoin _ | .heldWait _ | .bind _ | .push _ _ | .barrier _ _ _ | .nwait | .held | .node | .hold => true
  | .fault _ | .spill | .walk _ | .step _ => false
/-- Whether a lane can take a fault that waits for it. -/
def Lane.takesFault (l : Lane) : Bool :=
  match l.st with
  | .active => true
  | .parked p => p.takesFault
  | .exited | .stopped _ => false

/-- What a weft does before its slot: an SW wait that has ended, fault subgroups and faults waiting for delivery, ends of stopped lanes that
waited, root link records not yet written, and headers (R77, R175, R181, R284, R330, R405). -/
def State.prepare (s : State) (slot wid : Nat) : State :=
  let w := s.weft wid
  if !w.runs then s
  else
    let s1 := if w.flagsClear then s.modWeft wid (fun x => { x with swWait := false }) else s
    let s0 := (List.range 4).foldl (fun y k => if ((y.weft wid).subs.getD k Sub.free).status = 1 then y.deliverSub wid k else y) s1
    let s2 := (List.range 32).foldl (fun y i => if ((y.weft wid).lane i).takesFault then y.deliverPending wid i else y) (s0.endLanes wid)
    let s3 := (List.range 32).foldl (fun y i =>
      if ((y.weft wid).lane i).st == .active && ((y.weft wid).lane i).pos == .launch then y.rootLink wid i else y) s2
    if (s3.weft wid).swWait then s3 else ((s3.findClauses wid).lostClauses wid).headers wid slot

/-! ### Paths (R171, R173, R175) -/

/-- A path: its word, the header of the word's clause, its mode and its lanes. -/
structure Path where
  pc    : DWord
  hdr   : Off
  sys   : Bool
  lanes : List Nat
  deriving DecidableEq, Repr

/-- The paths of a weft: its lanes past a header, by PC and mode. -/
def Weft.paths (w : Weft) : List Path :=
  (w.groups Lane.inClause).map (fun g =>
    ⟨g.1, match (w.lane (g.2.2.headD 0)).pos with
      | .inside h => h
      | .header | .resume | .launch | .ending => 0, g.2.1, g.2.2⟩)

/-- Whether the header condition of a path's word holds: for a clause's first word, every flag of the WAIT mask is 0 (R175). -/
def State.flagsMet (s : State) (w : Weft) (p : Path) : Bool :=
  if offOf p.pc = p.hdr + 8 then
    match decodeHeader (s.fetchWord w.core (s.panel w.panel).ctx (segOf p.pc) p.hdr.toNat) with
    | some h => (List.range 12).all (fun k => !h.wait.getLsbD k || w.flag (k + 1) == 0)
    | none => true
  else true
/-- Whether a path's word meets its DIST, and no `pause` keeps a lane of it (R173, R281). -/
def State.distMet (s : State) (w : Weft) (p : Path) (slot : Nat) : Bool :=
  let d := max 1 (fld (s.fetchWord w.core (s.panel w.panel).ctx (segOf p.pc) (offOf p.pc).toNat) 55 3).toNat
  p.lanes.all (fun i =>
    let l := w.lane i
    decide (l.pause ≤ slot) && (match l.last with
      | some t => decide (t + d ≤ slot)
      | none => true))
/-- The paths of a weft that can issue in a slot (R171). -/
def State.readyPaths (s : State) (w : Weft) (slot : Nat) : List Path :=
  if !w.runs || w.swWait then []
  else w.paths.filter (fun p => s.flagsMet w p && s.distMet w p slot)

/-- Whether a code address is lower: the offset decides first (R166). -/
def pcLt (a b : DWord) : Bool := decide (offOf a < offOf b) || (offOf a == offOf b && decide (segOf a < segOf b))
/-- Whether a path ranks before another (R171). -/
def Path.before (a b : Path) : Bool :=
  decide (b.lanes.length < a.lanes.length) || (b.lanes.length == a.lanes.length && pcLt a.pc b.pc)
/-- The first of paths by rank. -/
def bestPath (ps : List Path) : Option Path :=
  ps.foldl (fun b p => match b with
    | none => some p
    | some q => if p.before q then some p else some q) none

/-- Whether a weft is inside a clause: a path of it stands past a clause's first word (R175). -/
def Weft.clauseOpen (w : Weft) : Bool := w.paths.any (fun p => offOf p.pc != p.hdr + 8)

/-- The slots of wefts in the order of the round robin after one (R170). -/
def roundRobin (last : Nat) : List Nat := (List.range 16).map (fun k => (last + 1 + k) % 16)

/-- The weft that gets a slot (R170): one inside a clause, the last to issue before others; else the next eligible one. -/
def State.chooseWeft (s : State) (core slot : Nat) : Option Weft :=
  let k := s.core core
  let ws := (s.coreWefts core).map s.weft
  let at_ (n : Nat) : Option Weft := ws.find? (fun w => w.slotNo == n && !(s.readyPaths w slot).isEmpty)
  match (k.lastWeft :: roundRobin k.lastWeft).findSome? (fun n => (at_ n).filter Weft.clauseOpen) with
  | some w => some w
  | none => (roundRobin k.lastWeft).findSome? at_

/-! ### Where a slot goes (R177, R422, R481) -/

/-- A slot charged to a leaf of a weft's context. -/
def State.charge (s : State) (w : Weft) (leaf : Nat) : State :=
  let c := (s.panel w.panel).ctx
  (s.modCount c 0 (· + 1)).modCount c leaf (· + 1)

/-- Whether a lane of a weft is fault-parked (R177): in a fault subgroup, in a handler, waiting for a spill, or stopped. -/
def Lane.faultParked (l : Lane) : Bool :=
  match l.st with
  | .parked (.fault _) => true
  | .parked .spill => true
  | .stopped _ => true
  | .parked (.bind _) | .parked (.push _ _) | .parked (.rejoin _) | .parked (.heldWait _) | .parked (.barrier _ _ _)
  | .parked .nwait | .parked .held | .parked .node | .parked .hold | .parked (.step _) | .parked (.walk _) | .active => l.sys
  | .exited => false
/-- The barrier record that a parked lane waits on. -/
def Lane.onBarrier (l : Lane) : Option Nat :=
  match l.st with
  | .parked (.barrier i _ _) => some i
  | .parked (.fault _) | .parked (.bind _) | .parked (.push _ _) | .parked (.rejoin _) | .parked (.heldWait _) | .parked .nwait
  | .parked .held | .parked .node | .parked .hold | .parked (.step _) | .parked .spill | .parked (.walk _) => none
  | .active | .exited | .stopped _ => none
/-- Whether a lane is parked at a WAIT, on a binding entry, or on a message-queue push (R177); a wait for a free waiter node is a
structural stall (R42). -/
def Lane.onRejoin (l : Lane) : Bool :=
  match l.st with
  | .parked (.rejoin _) | .parked (.heldWait _) | .parked (.bind _) | .parked (.push _ _) => true
  | .parked (.fault _) | .parked (.barrier _ _ _) | .parked .nwait | .parked .held | .parked .node | .parked .hold | .parked (.step _)
  | .parked .spill | .parked (.walk _) => false
  | .active | .exited | .stopped _ => false

/-- The leaf of a weft that does not issue in a slot (R177, R481). -/
def State.leafOf? (s : State) (w : Weft) (slot : Nat) : Nat :=
  let ready := !(s.readyPaths w slot).isEmpty
  if w.lanes.any Lane.faultParked && !ready then 4
  else if !w.runs then 5
  else if ready then 11
  else if w.lanes.any (fun l => l.onBarrier.isSome) then 6
  else if w.lanes.any Lane.onRejoin then 7
  else if w.swWait || w.paths.any (fun p => !s.flagsMet w p) then 8
  else if w.paths.any (fun p => !s.distMet w p slot) then 9
  else if w.lanes.any (fun l => l.trap.any (fun f => f.1.code == .overlay)) then 10
  else 12

/-- The barrier of a record of a panel. -/
def Panel.barName (p : Panel) (idx : Nat) : BarrierName :=
  let sc := p.launch.scope
  if idx = 0 then .panel p.id else .reed sc (nodeOf sc p.core) (idx - 1) p.ctx

/-- Whether a phase on which a weft waits expects a debug-halted weft, whose panel has not arrived (R422). -/
def State.haltExpected (s : State) (w : Weft) : Bool :=
  w.lanes.any (fun l => match l.onBarrier with
    | none => false
    | some idx => (s.barMembers ((s.panel w.panel).barName idx)).any (fun q =>
        !memberArrived idx q && q.2.any (fun x => x.halted)))

/-- A weft that does not issue in a slot is charged, and its hang counter advances where R422 says so. -/
def State.chargeIdle (s : State) (slot picks wid : Nat) (leaf : Option Nat) : State :=
  let w := s.weft wid
  if w.liveLanes.isEmpty then s
  else
    let k := leaf.getD (s.leafOf? w slot)
    let counts := k == 6 && !s.haltExpected w || k == 7 || k == 8 || k == 11 || k == 12
    let s1 := s.charge w k
    if counts then s1.modWeft wid (fun x => { x with hang := x.hang + picks }) else s1

/-! ### ISSUE_SLOT (R170) -/

/-- The words of a slot, the lower PC first (R132), each naming the other path (R471). -/
def slotWords (wid slot : Nat) (a : Path) : Option Path → List SlotWord
  | none => [⟨wid, maskOf a.lanes, a.pc, a.hdr, slot, 0, 0, none⟩]
  | some b =>
    let x : SlotWord := ⟨wid, maskOf a.lanes, a.pc, a.hdr, slot, b.pc, maskOf b.lanes, none⟩
    let y : SlotWord := ⟨wid, maskOf b.lanes, b.pc, b.hdr, slot, a.pc, maskOf a.lanes, none⟩
    if pcLt b.pc a.pc then [y, x] else [x, y]

/-- The chosen weft issues its slot: the words are chosen, and the charge waits in STRUCT.RES until a word issues. -/
def State.issueWords (s : State) (w : Weft) (slot : Nat) (a : Path) (b : Option Path) : State :=
  let s1 := (s.charge w 12).modWeft w.id (fun x => { x with
    step := if x.step = 1 then 2 else x.step
    skipAt := [] })
  { s1.modCore w.core (fun c => { c with lastWeft := w.slotNo }) with slot := slotWords w.id slot a b, issuing := some (w.id, slot) }

/-- The leaf of a weft whose chosen words did not issue (R177, R358). -/
def Weft.stuckLeaf (w : Weft) : Nat :=
  if w.lanes.any Lane.faultParked && !w.lanes.any Lane.free then 4
  else if w.lanes.any (fun l => l.onBarrier.isSome) then 6
  else if w.lanes.any Lane.onRejoin then 7
  else 12

/-- The words of the last slot have been performed: where none issued, the slot moves from STRUCT.RES to its leaf, and the weft's hang
counter advances where R422 says so (R177). -/
def State.settleSlot (s : State) : State :=
  match s.issuing with
  | none => s
  | some (wid, slot) =>
    let w := s.weft wid
    let s0 : State := { s with issuing := none }
    if w.liveLanes.isEmpty || w.lanes.any (fun l => l.last == some slot) then s0
    else
      let c := (s.panel w.panel).ctx
      let k := w.stuckLeaf
      let s1 := (s0.modCount c 12 (· - 1)).modCount c k (· + 1)
      if k == 6 && !s.haltExpected w || k == 7 || k == 12 then
        s1.modWeft wid (fun x => { x with hang := x.hang + (s.core w.core).picks })
      else s1

/-- The breakpoints of the words of a slot, the lower PC first; a halting one stops the slot (R477). -/
def State.slotBreaks (s : State) (wid : Nat) : List SlotWord → BpOutcome
  | [] => .on s
  | x :: xs =>
    match s.breakAt wid x.pc (lanesOf x.lanes) x.pc2 (lanesOf x.lanes2) with
    | .on s1 => s1.slotBreaks wid xs
    | .stop s1 => .stop s1
    | .full => .full

/-- The slot of the weft that gets it. -/
def State.issueWeft (s : State) (w : Weft) (slot picks : Nat) : State :=
  let ready := s.readyPaths w slot
  match bestPath ready with
  | none => s
  | some a =>
    let b := bestPath (ready.filter (· != a))
    match s.slotBreaks w.id (slotWords w.id slot a b) with
    | .on s1 => s1.issueWords w slot a b
    | .stop s1 => s1.chargeIdle slot picks w.id (some 5)
    | .full => s.chargeIdle slot picks w.id (some 5)

/-- The lanes of a weft held before a slot try their words again after it (R348). -/
def Weft.retryHeld (w : Weft) (held : List Nat) : Weft :=
  { w with lanes := w.lanes.mapIdx (fun i l => if held.contains i ∧ l.st = .parked .held then { l with st := .active } else l) }

/-- A weft halts by a step or a halt command, with its HALT record; it waits while the FIFO is full (R472, R479). -/
def State.haltNow (s : State) (wid : Nat) : State :=
  if s.traceRoom (s.weft wid).core then (s.emit wid 4 0 0 0 0 0 0).modWeft wid Weft.halt
  else s.modWeft wid (fun w => if w.step = 2 then w else { w with step := 3 })
/-- The halts of a core that wait for their HALT records. -/
def State.haltRecords (s : State) (core : Nat) : State :=
  (s.coreWefts core).foldl (fun y wid => if 2 ≤ (y.weft wid).step then y.haltNow wid else y) s

/-- ISSUE_SLOT: a slot of a core begins (R170). Its words are performed by the steps that follow. A throttled die withholds slots
(R487). -/
def execIssueSlot (core : Nat) (s : State) : Host.Outcome State Fault Refusal :=
  if !s.slot.isEmpty then .next s
  else
    let held (w : Weft) : List Nat := (List.range 32).filter (fun i => (w.lane i).st == .parked .held)
    let s1 := (s.beginSlot core).haltRecords core
    let slot := (s1.core core).slot
    let picks := (s1.core core).picks
    let ws := s1.coreWefts core
    let waiting := ws.map (fun w => (w, held (s1.weft w)))
    let retry (y : State) : State := waiting.foldl (fun z q => z.modWeft q.1 (fun w => w.retryHeld q.2)) y
    let s2 := ws.foldl (fun y w => y.prepare slot w) s1
    if (s2.die (coreDie core)).throttled && Config.freePick s.fresh 0 then
      .next (retry (ws.foldl (fun y w => y.chargeIdle slot picks w (some 12)) s2))
    else match s2.chooseWeft core slot with
      | none => .next (retry (ws.foldl (fun y w => y.chargeIdle slot picks w none) s2))
      | some w =>
        let s3 := (ws.filter (· != w.id)).foldl (fun y v => y.chargeIdle slot picks v none) s2
        .next (retry (s3.issueWeft w slot picks))

end Sys2Proof.Machine
end

