-- ==== Sys2Proof/Machine/Net.lean ====
section
/-! DEFINITION. The network engine (R423 to R439) and the words that use it (R366): posts, packets, acknowledgements, completion
counters. -/
namespace Sys2Proof.Machine

/-! ### Work requests (R429, R430) -/

/-- A work request's fields (R429). -/
structure Wreq where
  rinc : Nat
  sinc : Nat
  rctr : DWord
  sctr : DWord
  dst  : DWord
  src  : DWord
  len  : Nat
  epi  : Nat
  pkt  : Nat
  mode : Nat
  deriving DecidableEq, Repr

/-- The request in 64 bytes. -/
def Wreq.ofNat (x : Nat) : Wreq :=
  ⟨bitsOf x 383 352, bitsOf x 351 320, BitVec.ofNat 64 (bitsOf x 319 256), BitVec.ofNat 64 (bitsOf x 255 192),
   BitVec.ofNat 64 (bitsOf x 191 128), BitVec.ofNat 64 (bitsOf x 127 64), bitsOf x 63 32, bitsOf x 31 16, bitsOf x 11 10,
   bitsOf x 9 8⟩
/-- The bytes, or codes under DS, of one packet (R429, R431). -/
def Wreq.packet (w : Wreq) (ds : Bool) : Nat := if ds then 1024 * 2 ^ w.pkt / 2 else 1024 * 2 ^ w.pkt
/-- Whether a request is ILLEGAL, FIELD (R430). -/
def wreqBad (x : Nat) (ds : Bool) : Bool :=
  let w := Wreq.ofNat x
  bitsOf x 511 384 != 0 || bitsOf x 15 12 != 0 || w.pkt == 3 || bitsOf x 7 0 != 1 || w.len == 0 ||
    (w.rctr != 0 && decide (2 ≤ w.mode)) || (w.mode == 3 && decide (w.packet ds < w.len))
/-- The request of a post. -/
def NetPost.req (p : NetPost) : Wreq := Wreq.ofNat (leNat p.wr)

/-- An endpoint's entry (R427). -/
def State.endpoint (s : State) (c : CtxId) (epi : Nat) : Nat := (sget (0 : Endpoint) (s.ctx c).endpoints epi).toNat
/-- MODES allows a mode, and the entry is valid. -/
def epAllows (e mode : Nat) : Bool := bitAt e 0 && bitAt e (312 + mode)

/-! ### The delta stream form (R230) -/

/-- The items of a sequence of codes, after an optional code before them: a delta that fits in four bits, else an escape and the code in
two items, low nibble first. -/
def deltaItems : Option Nat → List Nat → List Nat
  | _, [] => []
  | prev, c :: cs =>
    let d : Int := c - (prev.getD 0 : Nat)
    (if prev.isSome && decide (-7 ≤ d) && decide (d ≤ 7) then [(d % 16).toNat] else [8, c % 16, c / 16 % 16]) ++ deltaItems (some c) cs

/-- Items in bytes, the first in bits 3:0; a lone last item is followed by a pad item. -/
def packItems : List Nat → List Byte
  | [] => []
  | [a] => [BitVec.ofNat 8 a]
  | a :: b :: r => BitVec.ofNat 8 (a + 16 * b) :: packItems r

/-- A stream of codes in the delta stream form, restarted at its first code. -/
def deltaEncode (cs : List Byte) : List Byte := packItems (deltaItems none (cs.map BitVec.toNat))

/-- The items of bytes. -/
def unpackItems (bs : List Byte) : List Nat := bs.flatMap (fun b => [b.toNat % 16, b.toNat / 16])

/-- At most `n` codes from items, after a code: an escape is taken in any position. -/
def deltaCodes : Nat → Nat → List Nat → List Nat
  | 0, _, _ => []
  | n + 1, _, 8 :: lo :: hi :: r => (lo + 16 * hi) :: deltaCodes n (lo + 16 * hi) r
  | n + 1, prev, d :: r =>
    let c := (prev + (if 8 ≤ d then d + 240 else d)) % 256
    if d = 8 then [] else c :: deltaCodes n c r
  | _ + 1, _, [] => []

/-- The codes of a stream of `n` codes; a pad item is ignored. -/
def deltaDecode (n : Nat) (bs : List Byte) : List Byte := (deltaCodes n 0 (unpackItems bs)).map (BitVec.ofNat 8)

/-- The bytes, or codes under DS, that a packet carries of its message: those of a whole packet, or the rest (R431). -/
def packetSpan (p : Packet) : Nat :=
  min (([512, 1024, 2048, 4096].find? (fun n => ceilDiv p.len n == p.count)).getD p.len) (p.len - p.off)

/-- The bytes that a packet places: under DS, the codes of its stream (R230, R355). -/
def packetPayload (p : Packet) : List Byte := if p.ds then deltaDecode (packetSpan p) p.bytes else p.bytes

/-- The bytes of its message that a packet in flight stands for. -/
def InFlight.span (x : InFlight) : Nat := if x.pkt.ds then packetSpan x.pkt else x.pkt.bytes.length

/-! ### npost (R366) -/

/-- `npost`: one post for each lane, under one future (R366). -/
def execNpost (c : Common) (f : EF) (s : State) : Host.Outcome State Fault Refusal :=
  engineWord (Instr.npost c f).view f .post (fun x i => x.pz true f.a i)
    (fun x r i z => .post f.q.toNat ⟨z.nextId, x.p.id, x.w.id, i, x.sys, x.p.ctx, [], x.addr f.a i, f.swz.toNat, f.ds, efBarrier f, r,
      0, 0, none, false, false, none⟩) s

/-- The checks of a post at its acceptance (R366, R430): its request's bytes, and its source's descriptor, number and offset. -/
def State.postChecks (s : State) (wid : Nat) (e : SqEntry) (p : NetPost) : Chk (List (Byte × Bool) × Desc × Seg × Nat) :=
  let r := s.reqOf wid e.lane
  match s.resolve r (segOf p.addr) (offOf p.addr).toNat with
  | .error f => .fault (f.at p.addr)
  | .ok (d0, _, _) =>
    if d0.kind ≠ kPad then .fault ⟨.rights, 1, p.addr, 0, 0⟩
    else (s.check r .load p.addr 0 64 64).bind fun q =>
      let bs := q.2.2.2.map (fun l => s.laneByte wid l)
      let x := leNat (bs.map (·.1))
      let w := Wreq.ofNat x
      if bs.any (·.2) then .ok (bs, d0, 0, 0)
      else if wreqBad x p.ds then .fault (illFault .field p.addr)
      else if !epAllows (s.endpoint r.ctx w.epi) w.mode then .fault ⟨.rights, 2, p.addr, 0, 0⟩
      else match s.checkTo r .load w.src 0 w.len 1 false with
        | .error f => .fault f
        | .ok k =>
          if w.sctr = 0 then .ok (bs, k.1, k.2.1, k.2.2)
          else (s.check { r with now := true } .atomic w.sctr 0 8 8).map (fun _ => (bs, k.1, k.2.1, k.2.2))

/-- A request's bytes with its source address replaced. -/
def setSrc (bs : List Byte) (a : DWord) : List Byte := bs.take 8 ++ natLE 8 a.toNat ++ bs.drop 16

/-- The head of a weft's store queue is a post: it is accepted, a release at `.pod` and a commit point, or waits, or fails (R142, R148). -/
def State.acceptPost (s : State) (wid : Nat) (e : SqEntry) (q : Nat) (p : NetPost) : State :=
  let w := s.weft wid
  let pn := s.panel w.panel
  let core := w.core
  if p.cancel then (s.endCmd wid e p.fut true).stepOut wid e.track
  else if Config.netQueuePosts ≤ ((s.core core).netQ.getD q []).length then s
  else match s.postChecks wid e p with
  | .fault f => s.refuseCmd wid e p.fut f
  | .miss ps => s.askPages (whoFor core wid) core ps
  | .ok (bs, d, seg, off) =>
    if bs.any (·.2) then
      (((s.endCmd wid e p.fut).modCtx pn.ctx (fun c => { c with cir := setCir 16 c.cir })).modLane wid e.lane (fun l =>
        { l with pc := e.pc, pos := .inside e.hdr })).stopLane wid e.lane ⟨.none, 0, 0, 0, 0⟩ |>.stepOut wid e.track
    else
      let rq := Wreq.ofNat (leNat (bs.map (·.1)))
      let bd := boardEnd pn d off rq.len p.swz p.id false
      if Config.sboardEntries < (s.core core).board.length + bd.length || !pn.pendFits p.bar rq.len then s
      else
        let p1 : NetPost := { p with wr := setSrc (bs.map (·.1)) (absEnd rq.src seg off), src := some (d, seg, off) }
        s.atCommit pn.id (fun y => y.headWaits w e .pod) (fun y =>
          (((((y.spread core .pod).dropSq wid e.id).doneIf wid e.track).addPend pn p.bar rq.len).modCore core (fun k => { k with
            board := k.board ++ bd
            netQ := k.netQ.modify q (fun ps => ps ++ [p1]) })).stepOut wid e.track)

/-! ### Ending a post (R351, R435) -/

/-- The scoreboard entries of a command are released, on whichever core they are (R123, R124). -/
def State.dropBoard (s : State) (id : Nat) : State :=
  { s with cores := s.cores.map (fun c => (c.1, { c.2 with board := c.2.board.filter (fun b => b.cmd != id) })) }

/-- A post ends: its scoreboard entry, its staged bytes (R93), the bytes of its barrier never acknowledged, its part of the future. -/
def State.endPost (s : State) (core q : Nat) (p : NetPost) (fault : Nat) (cancelled : Bool) : State :=
  let s0 : State := { s with pdcs := s.pdcs.map (fun d => { d with unacked := d.unacked.filter (fun x => x.post != p.id) }) }
  let s1 := ((s0.modCore core (fun k => { k with netQ := k.netQ.modify q (fun ps => ps.filter (fun x => x.id != p.id)) })).dropBoard
    p.id).modPend p.panel p.bar (fun n => n - (p.req.len - p.acked))
  match p.fut with
  | some r => s1.endPart r p.acked fault cancelled
  | none => s1

/-- A post of a queue replaced. -/
def State.putPost (s : State) (core q : Nat) (p : NetPost) : State :=
  s.modCore core (fun k => { k with netQ := k.netQ.modify q (fun ps => ps.map (fun x => if x.id = p.id then p else x)) })

/-- The request of a post's accesses. -/
def State.postReq (s : State) (core : Nat) (p : NetPost) : Req :=
  let pn := s.panel p.panel
  let l := (s.weft p.weft).lane p.lane
  { ctx := p.ctx, core := if s.panels.any (fun x => x.id == p.panel) then pn.core else core, panel := p.panel, sys := p.sys,
    sseg := l.sseg, fb := l.fb.toNat, who := whoFor (whoNet (coreDie core)) p.id }

/-- An atomic add of 64 bits at a place that lands from an engine, of an operation of a panel or of none; it waits while a REPLAY panel's pad
does not admit it (R149). -/
def State.landAdd (s : State) (pid id : Nat) (ls : List Loc) (n : Nat) : Option State :=
  if (s.padHolds pid ls).isSome then none
  else some (s.landAll pid (wrs ls (natLE 8 ((s.leAt ls + n) % 2 ^ 64))) id)

/-- An acknowledged post completes once its SCTR add has been made (R435, R438). -/
def State.finishPost (s : State) (core q : Nat) (p : NetPost) : State :=
  let w := p.req
  if w.sctr = 0 ∨ w.mode = 3 then s.endPost core q p 0 p.cancel
  else if !s.panels.any (fun x => x.id == p.panel) || p.stall.isSome then s
  else match s.check { s.postReq core p with now := true } .atomic w.sctr 0 8 8 false with
    | .miss ps => s.queueWalks (s.postReq core p).who (coreDie core) ps
    | .fault f =>
      if f.code = .page then
        (s.putPost core q { p with stall := some f }).report "page" p.ctx [core, 4 + q, f.addr.toNat, f.reason]
      else s.endPost core q p f.code.code p.cancel
    | .ok k => match s.landAdd p.panel p.id k.2.2.2 w.sinc with
      | none => s
      | some s1 => s1.endPost core q p 0 p.cancel

/-- Whether some packet of a post is in flight. -/
def State.inFlight (s : State) (p : NetPost) : Bool := s.pdcs.any (fun d => d.unacked.any (fun x => x.post == p.id))

/-- The posts of a queue that have come to their end do so: acknowledged wholly, or cancelled with nothing in flight (R353, R435,
R438). -/
def State.settlePosts (s : State) (core q : Nat) : State :=
  ((s.core core).netQ.getD q []).foldl (fun y p =>
    if p.done && p.acked == p.req.len then y.finishPost core q p
    else if p.cancel && !y.inFlight p then y.endPost core q p 0 true
    else y) s

/-! ### Sending (R425, R426, R431) -/

/-- A PDC that is idle: no packet unacknowledged and no post pending (R426). -/
def State.pdcIdle (s : State) (d : Pdc) : Bool :=
  d.unacked.isEmpty && !s.cores.any (fun c => coreDie c.1 == d.die && c.2.netQ.any (fun q => q.any (fun p =>
    p.ctx == d.ctx && p.req.epi == d.epi)))

/-- The PDC of a context and an endpoint, opened where none is open (R426): none while every PDC of the die is in use. -/
def State.openPdc (s : State) (die : Nat) (c : CtxId) (epi : Nat) : Option (State × Pdc) :=
  match s.pdcs.find? (fun d => d.die == die && d.ctx == c && d.epi == epi) with
  | some d => some (s, d)
  | none =>
    let new : Pdc := ⟨s.nextId, die, c, epi, Config.freePsn (2 * s.nextId), []⟩
    let mine := s.pdcs.filter (fun d => d.die == die)
    let add (y : State) : State × Pdc := ({ y with pdcs := y.pdcs ++ [new], nextId := y.nextId + 1 }, new)
    if mine.length < Config.pdcsPerDie then some (add s)
    else match mine.find? s.pdcIdle with
      | some d => some (add { s with pdcs := s.pdcs.filter (fun x => x.id != d.id) })
      | none => none

/-- A PDC changed. -/
def State.modPdc (s : State) (id : Nat) (g : Pdc → Pdc) : State := { s with pdcs := s.pdcs.map (fun d => if d.id = id then g d else d) }

/-- A packet of a post (R431). -/
def NetPost.packetOf (p : NetPost) (e : Nat) (pdc : Pdc) (bs : List (Byte × Bool)) : Packet :=
  let w := p.req
  ⟨pdc.id, bitsOf e 383 360, bitsOf e 359 348, BitVec.ofNat 2 w.mode, pdc.psn, w.dst, w.len, w.rctr, BitVec.ofNat 32 w.rinc,
   ceilDiv w.len (w.packet p.ds), p.id, p.sent, p.ds, bs.any (·.2), if p.ds then deltaEncode (bs.map (·.1)) else bs.map (·.1)⟩

/-- The largest window of packets in flight (R424). -/
def nsccWindow : Nat := 512

/-- The source of a post: as found at its acceptance, or checked again over the rest of its range after a stall or a save (R28, R33). -/
def State.postEnd (s : State) (r : Req) (p : NetPost) : Except LFault (Desc × Seg × Nat) :=
  match p.src with
  | some e => .ok e
  | none => s.endOf r .load p.req.src p.sent p.req.len

/-- The next packet of a post is sent (R425). A UUD post completes with it (R435). -/
def State.sendPacket (s : State) (core q : Nat) (p : NetPost) : State :=
  let w := p.req
  let die := coreDie core
  let e := s.endpoint p.ctx w.epi
  match s.openPdc die p.ctx w.epi with
  | none => s
  | some (s0, pdc) =>
    if nsccWindow ≤ pdc.unacked.length then s
    else
      let r := s0.postReq core p
      let n := min (w.packet p.ds) (w.len - p.sent)
      let fails (f : LFault) : State :=
        if f.code = .page then
          ((s0.putPost core q { p with stall := some f, src := none }).report "page" p.ctx [core, 4 + q, f.addr.toNat, f.reason]).takeWalks r.who
        else (s0.endPost core q p f.code.code false).takeWalks r.who
      match s0.postEnd r p with
      | .error f => fails f
      | .ok end_ =>
      match s0.endLocs r .load end_ p.sent n with
      | .miss ps => s0.queueWalks r.who die ps
      | .fault f => fails f
      | .ok ls =>
        let src := ls.map (Loc.swz p.swz)
        if src.any (s0.tileBusy s0.mwWrites) then s else
        let pk := p.packetOf e pdc (src.map (fun l => s0.coreByte r.core p.panel l))
        let last := p.sent + n == w.len
        let uud := w.mode == 3
        let p1 : NetPost := { p with sent := p.sent + n, done := last, acked := if uud then p.acked + n else p.acked, src := some end_ }
        let s1 := (((s0.touch r.core p.ctx src).allocAll src).putPost core q p1).modPdc pdc.id (fun d => { d with
          psn := d.psn + 1
          unacked := if uud then d.unacked else d.unacked ++ [⟨pdc.psn, pk, p.id, 0⟩] })
        let s2 : State := { s1 with wire := s1.wire ++ [.packet die pk] }
        let s3 := if last then s2.dropBoard p.id else s2
        let s4 := if uud then s3.modPend p.panel p.bar (fun k => k - n) else s3
        (s4.takeWalks r.who).settlePosts core q

/-- NET_PACKET_SEND: the oldest post of a queue that has packets left sends its next one (R425); none of a panel that is being
pre-empted or is saved (R438). -/
def execNetPacketSend (core queue : Nat) (s : State) : Host.Outcome State Fault Refusal :=
  let s1 := s.settlePosts core queue
  match ((s1.core core).netQ.getD queue []).find? (fun p => !p.done) with
  | none => .next s1
  | some p =>
    let ready := s1.panels.any (fun x => x.id == p.panel && x.life != .halting)
    if p.cancel || p.stall.isSome || !ready then .next s1 else .next (s1.sendPacket core queue p)

/-! ### Acknowledgements (R433, R434) -/

/-- Whether an acknowledgement shows a PSN as received. -/
def ackShows (a : NetAck) (x : Word) : Bool :=
  let d := (x - a.cack).toNat
  d == 0 || decide (2 ^ 31 ≤ d) || (decide (d ≤ 64) && a.sack.getLsbD (d - 1))
/-- How many PSNs above one an acknowledgement shows as received. -/
def ackAbove (a : NetAck) (x : Word) : Nat :=
  ((List.range 64).filter (fun k => a.sack.getLsbD k && (let d := (a.cack + 1 + BitVec.ofNat 32 k - x).toNat
    decide (0 < d) && decide (d < 2 ^ 31)))).length
/-- Whether a packet in flight is to be sent again on an acknowledgement (R434). -/
def resend (a : NetAck) (reord : Nat) (high x : Word) : Bool :=
  !ackShows a x && (decide (reord ≤ ackAbove a x) || ackShows a high)

/-- The queue of a core that holds a post. -/
def State.postAt (s : State) (id : Nat) : Option (Nat × Nat × NetPost) :=
  s.cores.findSome? (fun c => (c.2.netQ.zipIdx).findSome? (fun q => (q.1.find? (fun p => p.id == id)).map (fun p => (c.1, q.2, p))))

/-- A packet of a post is acknowledged (R359, R435). -/
def State.ackPacket (s : State) (x : InFlight) : State :=
  match s.postAt x.post with
  | none => s
  | some (core, q, p) =>
    let n := x.span
    (s.putPost core q { p with acked := p.acked + n }).modPend p.panel p.bar (fun k => k - n)

/-- NET_ACK_RECEIVE: packets are acknowledged, others sent again; a negative acknowledgement ends its post (R433 to R435). -/
def execNetAckReceive (die : Nat) (a : NetAck) (s : State) : Host.Outcome State Fault Refusal :=
  match s.pdcs.find? (fun d => d.id == a.pdc && d.die == die) with
  | none => .next s
  | some d =>
    match a.nack with
    | some (psn, code) =>
      let hit := d.unacked.filter (fun x => x.psn == psn)
      let s1 := s.modPdc d.id (fun z => { z with unacked := z.unacked.filter (fun x => x.psn != psn) })
      .next (hit.foldl (fun y x => match y.postAt x.post with
        | some (core, q, p) => y.endPost core q p code false
        | none => y) s1)
    | none =>
      let got := d.unacked.filter (fun x => ackShows a x.psn)
      let left := d.unacked.filter (fun x => !ackShows a x.psn)
      let reord := bitsOf (s.endpoint d.ctx d.epi) 319 316
      let again := left.filter (fun x => resend a reord (d.psn - 1) x.psn)
      let s1 := got.foldl (fun y x => y.ackPacket x) (s.modPdc d.id (fun z => { z with unacked := left }))
      let s2 : State := { s1 with wire := s1.wire ++ again.map (fun x => .packet die x.pkt) }
      .next ((got.map (·.post)).eraseDups.foldl (fun y id => match y.postAt id with
        | some (core, q, _) => y.settlePosts core q
        | none => y) s2)

/-- NET_RTO_EXPIRY: a packet is sent again (R434); one of a cancelled post is abandoned when RTO has passed twice (R438). -/
def execNetRtoExpiry (die pdc : Nat) (psn : Word) (s : State) : Host.Outcome State Fault Refusal :=
  match (s.pdcs.find? (fun d => d.id == pdc && d.die == die)).bind (fun d => d.unacked.find? (fun x => x.psn == psn)) with
  | none => .next s
  | some x =>
    let gone := match s.postAt x.post with
      | some (_, _, p) => p.cancel && decide (1 ≤ x.tries)
      | none => decide (1 ≤ x.tries)
    if gone then
      let s1 := s.modPdc pdc (fun z => { z with unacked := z.unacked.filter (fun y => y.psn != psn) })
      .next (match s1.postAt x.post with
        | some (core, q, _) => s1.settlePosts core q
        | none => s1)
    else
      let s1 := s.modPdc pdc (fun z => { z with unacked := z.unacked.map (fun y => if y.psn = psn then { y with tries := y.tries + 1 } else y) })
      .next { s1 with wire := s1.wire ++ [.packet die x.pkt] }

/-- PDC_IDLE_TIMEOUT: an idle PDC closes (R426). -/
def execPdcIdleTimeout (die pdc : Nat) (s : State) : Host.Outcome State Fault Refusal :=
  match s.pdcs.find? (fun d => d.id == pdc && d.die == die) with
  | none => .next s
  | some d => if s.pdcIdle d then .next { s with pdcs := s.pdcs.filter (fun x => x.id != pdc) } else .next s

/-! ### Receiving (R432, R435, R437) -/

/-- The receive side of a peer's PDC. -/
def State.rxPdc (s : State) (die peer : Nat) : RxPdc := (s.rxPdcs.find? (fun d => d.die == die && d.peer == peer)).getD ⟨die, peer, [], []⟩
/-- The receive side replaced. -/
def State.putRx (s : State) (d : RxPdc) : State :=
  { s with rxPdcs := s.rxPdcs.filter (fun x => !(x.die == d.die && x.peer == d.peer)) ++ [d] }
/-- CACK: the highest PSN at or below which every PSN is received (R433). -/
def rxCackFrom (seen : List Word) : Nat → Word → Word
  | 0, x => x
  | n + 1, x => if seen.contains (x + 1) then rxCackFrom seen n (x + 1) else x
/-- CACK of a receive side. -/
def rxCack (d : RxPdc) : Word := rxCackFrom d.seen d.seen.length (Config.freePsn (2 * d.peer + 1) - 1)
/-- SACK of a receive side (R433). -/
def rxSack (d : RxPdc) : DWord :=
  BitVec.ofNat 64 (ofBits 64 (fun k => d.seen.contains (rxCack d + 1 + BitVec.ofNat 32 k)))
/-- An acknowledgement goes out (R433). -/
def State.sendAck (s : State) (d : RxPdc) (nack : Option (Word × Nat)) : State :=
  { s with wire := s.wire ++ [.ack d.die ⟨d.peer, rxCack d, rxSack d, nack⟩] }

/-- The request of a placement: no lane and no core stands behind it. -/
def rxReq (die : Nat) (c : CtxId) : Req :=
  { ctx := c, core := 1024 + die, panel := 0, sys := false, sseg := 0, fb := 0, who := whoNet die, now := true }
/-- The check of a placement's address: a contextual number has no lane to stand for; the other reserved numbers name nothing (R9). -/
def State.rxCheck (s : State) (r : Req) (cls : Cls) (a : DWord) (off size align : Nat) : Chk (List Loc) :=
  if 0xFFFFFA ≤ (segOf a).toNat then .fault ⟨.rights, 1, a, 0, 0⟩
  else (s.check r cls a off size align false).map (fun q => q.2.2.2)

/-- A packet's bytes land, its PSN is recorded, and RINC is added where its message is placed (R432, R435, R437): none while a
REPLAY panel's pad waits (R149). What lands is performed throughout the package before the PSN is recorded, and before the add. -/
def State.placePacket (s : State) (p : Packet) (d : RxPdc) (r : Req) (ls : List Loc) : Option State :=
  if (s.padHolds 0 ls).isSome then none
  else
    let s1 := s.landAll 0 (wrs ls (packetPayload p) p.poison)
    let ordered := p.mode.toNat < 2
    let n := sget 0 d.msgs p.msg + 1
    let d1 : RxPdc := if ordered then { d with seen := d.seen ++ [p.psn], msgs := sput 0 d.msgs p.msg n } else d
    let s2 := s1.putRx d1
    let s3 := if ordered ∧ n = p.count ∧ p.rctr ≠ 0 then
        (match s2.rxCheck r .atomic p.rctr 0 8 8 with
          | .ok ks => (s2.landAdd 0 0 ks p.rinc.toNat).getD s2
          | .fault _ => s2
          | .miss _ => s2)
      else s2
    some (if p.mode = 3 then s3 else s3.sendAck d1 none)

/-- NET_PACKET_RECEIVE (R432, R437). -/
def execNetPacketReceive (die : Nat) (p : Packet) (s : State) : Host.Outcome State Fault Refusal :=
  let d := s.rxPdc die p.peer
  if p.mode.toNat < 2 ∧ d.seen.contains p.psn then .next (s.sendAck d none)
  else match (Config.pidContext p.jobid p.pid).bind (fun c => (s.ctxs.find? (fun x => x.id == c)).map (fun x => x.id)) with
    | none => .next (s.sendAck d (some (p.psn, FaultCode.rights.code)))
    | some c =>
      let r := rxReq die c
      if p.mode = 1 ∧ p.psn ≠ rxCack d + 1 then .next (s.sendAck d none)
      else match s.rxCheck r .store p.dst p.off (packetPayload p).length 1 with
        | .miss ps => .next (s.queueWalks r.who die ps)
        | .fault f =>
          if f.code = .page then .next (s.report "page" c [die, f.addr.toNat, f.reason])
          else .next (s.sendAck d (some (p.psn, f.code.code)))
        | .ok ls =>
          match (if p.rctr = 0 then Chk.ok [] else s.rxCheck r .atomic p.rctr 0 8 8) with
          | .miss ps => .next (s.queueWalks r.who die ps)
          | .fault f =>
            if f.code = .page then .next (s.report "page" c [die, f.addr.toNat, f.reason])
            else .next (s.sendAck d (some (p.psn, f.code.code)))
          | .ok _ => .next ((s.placePacket p d r ls).getD s)

/-! ### nwait (R366) -/

/-- `nwait`: held until the word is at least the operand, unsigned (R366). -/
def execNwait (c : Common) (f : EF) (s : State) : Host.Outcome State Fault Refusal :=
  runWord (Instr.nwait c f).view false (fun x s1 =>
    let i := x.agent
    let others := x.lanes.filter (· != i)
    if x.pz true f.a i || x.pz true f.b i then .part others (fun _ y => y) [] [i]
    else if x.awaits then .hold id
    else match s1.check (s1.reqOf x.w.id i) .load (x.addr f.a i) 0 8 8 with
      | .miss ps => .hold (fun y => y.askPages (whoFor x.w.core x.w.id) x.w.core ps)
      | .fault g => .part others (fun _ y => y) [(i, g)] []
      | .ok q =>
        let bs := q.2.2.2.map (fun l => s1.laneByte x.w.id l)
        if bs.any (·.2) then .part others (fun _ y => y) [] [i]
        else if (x.rd true f.b i).toNat ≤ leNat (bs.map (·.1)) then .go id
        else .stay (fun y => y.modWeft x.w.id (fun w => w.park x.lanes .nwait))) s

/-- NWAIT_RECHECK: the held lanes of a weft read their word again (R366). -/
def execNwaitRecheck (weft : Nat) (s : State) : Host.Outcome State Fault Refusal :=
  .next (s.modWeft weft (fun w => w.unpark (fun p => p == .nwait)))

end Sys2Proof.Machine
end

