-- ==== Sys2Proof/Machine/Place.lean ====
section
/-! DEFINITION. Placement: the scheduler's copies of context records (R10, R60, R411), which core fits a panel or a group (R357,
R376 to R378), the tiles spilled for it, and a panel's start state (R375). -/
namespace Sys2Proof.Machine

/-! ### Contexts (R10, R60, R411) -/

/-- The fields of a context record, taken into the scheduler's copy (R411). -/
def Ctx.ofRecord (c : Ctx) (x : Nat) : Ctx :=
  { c with
    root := BitVec.ofNat 64 x
    btseg := BitVec.ofNat 24 (bitsOf x 127 104)
    ord := (List.range 8).map (fun k => BitVec.ofNat 32 (x / 2 ^ (128 + 32 * k)))
    fmseg := BitVec.ofNat 24 (bitsOf x 447 424)
    trapv := BitVec.ofNat 24 (bitsOf x 511 488)
    tag := BitVec.ofNat 12 (bitsOf x 555 544)
    func := bitsOf x 563 560
    prio := bitsOf x 573 568
    cir := BitVec.ofNat 64 (x / 2 ^ 576)
    pubhi := BitVec.ofNat 24 (bitsOf x 663 640)
    publo := BitVec.ofNat 24 (bitsOf x 703 680)
    wdog := bitsOf x 735 704
    sbcnt := min 32768 (bitsOf x 831 768) }

/-- A context that the scheduler takes up: its root and save segment are those of the scheduler's context table, the rest comes from
its context record (R411). -/
def State.ensureCtx (s : State) (c : CtxId) : State :=
  if s.ctxs.any (fun x => x.id == c) then s
  else
    let s1 : State := { s with ctxs := s.ctxs ++ [{ Ctx.nil c with
      root := Config.contextRoot c.toNat
      saveSeg := Config.contextSave c.toNat }] }
    match s1.deviceRead c (s1.ctx c).saveSeg 0 0x68 with
    | .ok x => s1.modCtx c (fun k => k.ofRecord x)
    | .error _ => s1

/-- The root of a context loaded again, at a context switch (R10). -/
def State.loadRoot (s : State) (c : CtxId) : State :=
  match s.deviceRead c (s.ctx c).saveSeg 0 8 with
  | .ok x => s.modCtx c (fun k => { k with root := BitVec.ofNat 64 x })
  | .error _ => s

/-! ### What a core has free (R376) -/

/-- What is allotted to a panel on a core. -/
structure Allot where
  core  : Nat
  wmask : BitVec 16
  rblk  : Nat
  padb  : Nat
  amask : BitVec 8
  pmask : BitVec 4
  deriving DecidableEq, Repr

/-- The lowest run of `n` free units below a limit. -/
def firstRun (n limit : Nat) (free : Nat → Bool) : Option Nat :=
  (List.range (limit + 1 - n)).find? (fun lo => (List.range n).all (fun k => free (lo + k)))

/-- The resident panels of a core but for some that go. -/
def State.panelsOn (s : State) (going : List Nat) (core : Nat) : List Panel :=
  s.panels.filter (fun p => p.core == core && !going.contains p.id)

/-- The register blocks of a launch's panel. -/
def Launch.blocks (l : Launch) : Nat := l.nwefts * (l.bud + 1)

/-- Whether the scheduler may place panels on a core: not while it is absent, its quad is drained, or its die is tripped or its
controller restarts (R458, R459, R462, R487). -/
def State.coreOpen (s : State) (core : Nat) : Bool :=
  let d := s.die (coreDie core)
  !(s.core core).absent && !d.tripped && !d.restarting && !d.drained.contains (coreQuad core)

/-- Whether the route tags of a launch are free for its context in the node of a core (R357). -/
def State.tagsFree (s : State) (going : List Nat) (l : Launch) (core : Nat) : Bool :=
  let sc := l.scope
  sc == .none || sc == .pod || s.panels.all (fun q =>
    going.contains q.id || q.ctx == l.ctx || q.launch.bscope != l.bscope || nodeOf sc q.core != nodeOf sc core ||
      q.launch.btags &&& l.btags == 0)

/-- What a panel of a launch is allotted on a core, once some panels have gone (R376): the lowest free slots, blocks, pad and tiles,
but for banned tiles and for those taken first; none on a core chosen for another launch (R377). -/
def State.allot (s : State) (going : List Nat) (l : Launch) (core : Nat) (ban first : List Nat) : Option Allot :=
  if !s.coreOpen core || !s.tagsFree going l core || s.aims.any (fun a => a.1 != l.id && a.2.contains core) then none
  else
    let ps := s.panelsOn going core
    let slots := ((List.range 16).filter (fun k => ps.all (fun p => !p.wmask.getLsbD k))).take l.nwefts
    let ranked (ts : List Nat) : List Nat := ts.filter (fun t => first.contains t) ++ ts.filter (fun t => !first.contains t)
    let acc := (ranked ((List.range 8).filter (fun t => !ban.contains t && ps.all (fun p => !p.amask.getLsbD t)))).take l.acct
    let part := (ranked (((List.range 4).filter (fun t => !ban.contains (8 + t) && ps.all (fun p => !p.pmask.getLsbD t))).map
      (8 + ·))).take l.partt
    if slots.length < l.nwefts ∨ acc.length < l.acct ∨ part.length < l.partt then none
    else
      (firstRun l.blocks Config.regBlocks (fun b => ps.all (fun p =>
        decide (b < p.rblk) || decide (p.rblk + p.launch.blocks ≤ b)))).bind fun r =>
      (firstRun l.padu (Config.padBytes / 0x4000) (fun u => ps.all (fun p =>
        decide (u < p.padb) || decide (p.padb + p.launch.padu ≤ u)))).map fun q =>
      ⟨core, BitVec.ofNat 16 (maskOf slots).toNat, r, q, BitVec.ofNat 8 (maskOf acc).toNat,
        BitVec.ofNat 4 (maskOf (part.map (· - 8))).toNat⟩

/-- The physical tiles of an allotment, in the order of their names. -/
def Allot.tiles (a : Allot) : List Nat :=
  (List.range 8).filter (fun t => a.amask.getLsbD t) ++ ((List.range 4).filter (fun t => a.pmask.getLsbD t)).map (8 + ·)

/-! ### Seats (R376 to R378) -/

/-- The outcome of a search for cores. -/
inductive Seat where
  | seated (as : List Allot)
  /-- A tile's spill waits for the pager (R376). -/
  | wait
  | no

/-- The tile of an allotment that is held in place for a saved panel of the context, and is not kept for the panel itself (R376). -/
def State.heldTile (s : State) (c : CtxId) (core : Nat) (keep : List Nat) (a : Allot) : Option Nat :=
  a.tiles.find? (fun t => !keep.contains t && (match (s.core core).homes.getD t none with
    | some h => h.1 == c
    | none => false))

/-- A panel's allotment on a core, its held tiles spilled (R376); a tile whose spill fails, or is declined, is not allotted. -/
def State.tryCore (s : State) (l : Launch) (core : Nat) (keep : List Nat) : Nat → List Nat → State × Seat
  | 0, _ => (s, .no)
  | n + 1, ban =>
    match s.allot [] l core ban keep with
    | none => (s, .no)
    | some a => match s.heldTile l.ctx core keep a with
      | none => (s, .seated [a])
      | some t => match s.spillTile core t with
        | .ok s1 => s1.tryCore l core keep n ban
        | .page f => (s.report "page" l.ctx [core, t, f.addr.toNat, f.reason], .wait)
        | .fail => (s.report "spill failed" l.ctx [core, t]).tryCore l core keep n (t :: ban)

/-- Members of a placement seated on cores, in ascending order; each names the tiles of a core that it keeps. -/
def State.seatSet (s : State) (l : Launch) : List (Nat → List Nat) → List Nat → List Allot → State × Seat
  | [], _, as => (s, .seated as)
  | _ :: _, [], _ => (s, .no)
  | w :: ws, c :: cs, as =>
    match s.tryCore l c (w c) 26 (s.core c).declined with
    | (s1, .seated a) => s1.seatSet l ws cs (as ++ a)
    | (s1, .no) => s1.seatSet l (w :: ws) cs as
    | (s1, .wait) => (s1, .wait)

/-- The first set of cores on which the members of a placement fit (R377, R378). -/
def State.seatSets (s : State) (l : Launch) (ws : List (Nat → List Nat)) : List (List Nat) → State × Seat
  | [] => (s, .no)
  | cs :: rest =>
    let fit := cs.filter (fun c => (s.allot [] l c [] []).isSome)
    if fit.length < ws.length then s.seatSets l ws rest
    else match s.seatSet l ws fit [] with
      | (s1, .seated as) => (s1, .seated as)
      | (s1, .wait) => (s1, .wait)
      | (s1, .no) => s1.seatSets l ws rest

/-- Every core of the package, in die, quad and core order. -/
def allCores : List Nat :=
  (List.range Config.dies).flatMap (fun d => (List.range (Config.quads * Config.coresPerQuad)).map (fun k => d * 256 + k))

/-- The sets of cores on which a launch's panels may be placed: single cores, or quads for groups (R377, R378). -/
def Launch.sets (l : Launch) : List (List Nat) :=
  let cs := allCores.filter (fun c => l.anydie || coreDie c == l.die)
  if l.qgrp = 0 then cs.map (fun c => [c])
  else (cs.filter (fun c => coreIdx c == 0)).map (fun c => [c, c + 1, c + 2, c + 3])

/-- No core has been used. -/
def noneUsed : Nat := 0xFFFF
/-- The key of the core that a die's scheduler last used at a priority (R377). -/
def Launch.lastKey (l : Launch) : Nat := l.die * 64 + l.prio
/-- The sets in the order of the search: after the core last used at the launch's priority (R377). -/
def State.searchSets (s : State) (l : Launch) : List (List Nat) :=
  let last := sget noneUsed s.lastCore l.lastKey
  let after (cs : List Nat) : Bool := decide (last < cs.headD 0)
  l.sets.filter after ++ l.sets.filter (fun cs => !after cs)

/-! ### Panels to be pre-empted for a placement (R377, R378) -/

/-- Whether a panel is chosen for pre-emption before another (R377): of lower priority, or placed later. -/
def Panel.soonerThan (a b : Panel) : Bool :=
  decide (a.launch.prio < b.launch.prio) || (a.launch.prio == b.launch.prio && decide (b.order < a.order))
/-- Panels in the order of choice. -/
def choiceOrder (ps : List Panel) : List Panel :=
  ps.foldr (fun p acc => acc.takeWhile (fun q => q.soonerThan p) ++ p :: acc.dropWhile (fun q => q.soonerThan p)) []

/-- The resident members of a panel's placement group (R378, R402): itself where it has none. -/
def State.groupOf (s : State) (p : Panel) : List Panel :=
  s.panels.filter (fun q => q.id == p.id || (decide (0 < p.launch.qgrp) && q.launch.id == p.launch.id &&
    q.index / (p.launch.qgrp + 1) == p.index / (p.launch.qgrp + 1)))

/-- Whether a panel can be pre-empted: a save block is free for each member of its group (R418). -/
def State.savable (s : State) (p : Panel) : Bool :=
  (s.groupOf p).all (fun q => q.launch.replay || q.life == .halting || (s.freeBlock q.ctx).isSome)

/-- The fewest panels of lower priority on a core, in the order of choice, whose going would let a panel of a launch fit; none whose save has
been abandoned (R418). -/
def State.coreVictims (s : State) (l : Launch) (core : Nat) : Option (List Panel) :=
  let vs := choiceOrder (s.panels.filter (fun p =>
    p.core == core && decide (p.launch.prio < l.prio) && p.life != .ending && !p.spared && s.savable p))
  ((List.range (vs.length + 1)).find? (fun k => (s.allot ((vs.take k).map (·.id)) l core [] []).isSome)).map (fun k => vs.take k)

/-- The panels whose pre-emption lets `n` panels of a launch be placed, on the lowest-numbered set of cores, and those cores. A set on
which nothing need go is one where a spill has failed. -/
def State.victims (s : State) (l : Launch) (n : Nat) : Option (List Nat × List Panel) :=
  l.sets.findSome? (fun cs =>
    let vs : List (Nat × List Panel) := (cs.filterMap (fun c => (s.coreVictims l c).map (fun ps => (c, ps)))).take n
    let ps := vs.flatMap (·.2)
    if vs.length < n ∨ ps.isEmpty then none else some (vs.map (·.1), ps))

/-! ### The start of a panel (R284, R373 to R375) -/

/-- Seed (R273). -/
def seedOf (a i : Nat) : DWord := BitVec.ofNat 64 (a % 2 ^ 32 * 2 ^ 32 + (0x9E3779B9 ^^^ (0x0101 * i)))

/-- A lane at the start of its panel (R375). -/
def Lane.start (l : Launch) (idx weft i : Nat) : Lane where
  pc := l.entry
  pos := .header
  st := .active
  sys := false
  sseg := BitVec.ofNat 24 (l.sseg0.toNat + 32 * (l.nwefts * idx + weft) + i)
  fb := 0x20
  sp := 0x20
  mtop := 0
  rstate := seedOf 1 i
  last := none
  pause := 0
  hh := none
  arrived := List.replicate 9 none
  trap := []
  shadow := none
  unb := none
  back := none

/-- A weft at the start of its panel (R375). -/
def Weft.start (l : Launch) (idx id panel weft slot core : Nat) : Weft where
  id := id
  panel := panel
  pweft := weft
  slotNo := slot
  core := core
  lanes := (List.range 32).map (Lane.start l idx weft)
  regs := (l.args.zipIdx).foldl (fun m q => sput 0 m (keyS q.2) q.1.1) []
  poison := ((l.args.zipIdx).filter (fun q => q.1.2)).map (fun q => keyS q.2)
  pend := []
  tracks := []
  flags := List.replicate 13 0
  masks := List.replicate 16 (0, 0)
  handles := List.replicate 16 none
  sq := []
  loads := []
  subs := List.replicate 4 Sub.free
  nodes := List.replicate 4 none
  hang := 0
  swWait := false
  halted := false
  step := 0
  skipAt := []

/-- The current phase of a barrier of route tag `t` by one of its members' records: the next one where the completion is decided (R357,
R359). -/
def Panel.tagPhase (p : Panel) (t : Nat) : Nat := p.phase (1 + t) + b2n (p.bars.getD (1 + t) BarRec.nil).decided

/-- The barrier records of a panel that joins the barriers of its tags in a node (R357): at the phase of their members, 0 where
they have none. -/
def State.joinBars (s : State) (l : Launch) (core : Nat) : List BarRec :=
  ⟨true, 0, 0, 0, false⟩ :: (List.range 8).map (fun t =>
    if l.btags.getLsbD t then
      let ms := s.barMembers (.reed l.scope (nodeOf l.scope core) t l.ctx)
      ⟨true, match ms with
        | [] => 0
        | q :: _ => q.1.tagPhase t, 0, 0, false⟩
    else BarRec.nil)

/-- The k-th weft slot of an allotment. -/
def slotOf (wmask : BitVec 16) (k : Nat) : Nat := (nthSet wmask.toNat 16 k).getD 0

/-- The pad share of an allotment is cleared (R91). -/
def State.clearShare (s : State) (a : Allot) (padu : Nat) : State :=
  if padu = 0 then s
  else s.write (wrs ((List.range (0x4000 * padu)).map (fun i => Loc.chip (padPa a.core (0x4000 * a.padb + i)) false))
    (List.replicate (0x4000 * padu) 0))

/-- A new panel of a launch, in what it has been allotted: the start state of R375, its first commit point if it runs under REPLAY,
and its root link records (R284). -/
def State.startPanel (s : State) (l : Launch) (idx : Nat) (a : Allot) : State :=
  let s0 := s.loadRoot l.ctx
  let pid := s0.nextId
  let block := if l.replay then s0.freeBlock l.ctx else none
  let s1 := match block with
    | some k => s0.markBlock l.ctx k true
    | none => s0
  let s2 := a.tiles.foldl (fun y t => if (y.tag a.core t).owner = l.ctx then y.zeroTile a.core t 0 else y) (s1.clearShare a l.padu)
  let ws := (List.range l.nwefts).map (fun k => Weft.start l idx (pid + 1 + k) pid k (slotOf a.wmask k) a.core)
  let p : Panel :=
    { id := pid
      launch := l
      index := idx
      core := a.core
      wmask := a.wmask
      rblk := a.rblk
      padb := a.padb
      amask := a.amask
      pmask := a.pmask
      order := pid
      life := .running
      bars := s2.joinBars l a.core
      held := []
      ckpt := none
      attempt := 0
      inOpen := false
      block := block
      spared := false }
  let s3 : State := { s2 with
    panels := s2.panels ++ [p]
    wefts := s2.wefts ++ ws
    nextId := pid + 1 + l.nwefts
    lastCore := sput noneUsed s2.lastCore l.lastKey a.core }
  (ws.foldl (fun y w => (List.range 32).foldl (fun z i => z.rootLink w.id i) y) s3).checkpoint pid

end Sys2Proof.Machine
end

