-- ==== Sys2Proof/Machine/Task.lean ====
section
/-! DEFINITION. Task queues and dependency counters (R360 to R365, R380 to R382): the words, their steps at the home, releases,
service and stealing. -/
namespace Sys2Proof.Machine

/-- QFULL with a reason: 1 FULL, 2 MALFORMED, 3 NOPOOL (R363). -/
def qfull (reason : Nat) (a : DWord) : LFault := ⟨.qfull, reason, a, 0, 0⟩

/-! ### Queues (R360) -/

/-- A task queue's header fields (R360). -/
structure TaskQ where
  log2n : Nat
  log2h : Nat
  tail  : Nat
  head  : Nat
  duet  : Nat
  dueh  : Nat
  free  : Nat
  deriving DecidableEq, Repr

/-- The header in two words. -/
def TaskQ.ofWords (w0 w1 : Nat) : TaskQ :=
  ⟨bitsOf w0 55 52, bitsOf w0 51 48, bitsOf w0 31 16, bitsOf w0 15 0, bitsOf w1 47 32, bitsOf w1 31 16, bitsOf w1 15 0⟩
/-- The header as a number of 16 bytes. -/
def TaskQ.word (q : TaskQ) : Nat :=
  2 ^ 56 + q.log2n * 2 ^ 52 + q.log2h * 2 ^ 48 + q.tail * 2 ^ 16 + q.head
  + (q.duet * 2 ^ 32 + q.dueh * 2 ^ 16 + q.free) * 2 ^ 64
/-- Records in the ring. -/
def TaskQ.occ (q : TaskQ) : Nat := (q.tail + 65536 - q.head) % 65536
/-- The offset of ring index `j`. -/
def TaskQ.ring (q : TaskQ) (j : Nat) : Nat := 0x40 + 64 * (j % 2 ^ q.log2n)
/-- The offset of pool record `k`. -/
def TaskQ.pool (q : TaskQ) (k : Nat) : Nat := 0x40 + 64 * 2 ^ q.log2n + 64 * k
/-- No pool record. -/
def noRec : Nat := 0xFFFF
/-- Whether the header is malformed in a segment of a limit (R360). -/
def tqBad (w0 w1 limit : Nat) : Bool :=
  bitsOf w0 63 56 != 1 || bitsOf w0 47 32 != 0 || bitsOf w1 63 48 != 0 || bitsOf w0 55 52 == 0 ||
    decide (limit + 1 < 64 * (1 + 2 ^ bitsOf w0 55 52 + (if bitsOf w0 51 48 = 0 then 0 else 2 ^ bitsOf w0 51 48)))

/-- The header of a queue of a context, read by the device; none where it is malformed: of a segment too short for it, or with a reserved
byte set (R360). -/
def State.tq (s : State) (c : CtxId) (seg : Seg) : Except LFault (Option TaskQ) :=
  match s.deviceLocs c .dequeue seg 0 64 with
  | .error f => if f.code = .limit then .ok none else .error f
  | .ok (d, ls) =>
    let w0 := s.leAt (ls.take 8)
    let w1 := s.leAt ((ls.drop 8).take 8)
    .ok (if d.kind ≠ 8 ∨ s.leAt (ls.drop 16) ≠ 0 ∨ tqBad w0 w1 d.limit then none else some (TaskQ.ofWords w0 w1))
/-- A well-formed queue's header. -/
def State.tq? (s : State) (c : CtxId) (seg : Seg) : Option TaskQ :=
  match s.tq c seg with
  | .ok q => q
  | .error _ => none
/-- A header written. -/
def State.putTq (s : State) (c : CtxId) (seg : Seg) (q : TaskQ) : State := s.deviceWrite c seg 0 16 q.word

/-- The bytes of a record of a queue. -/
def State.recAt (s : State) (c : CtxId) (seg : Seg) (off : Nat) : Except LFault (List (Byte × Bool)) :=
  match s.deviceLocs c .enqueue seg off 64 with
  | .ok (_, ls) => .ok (s.read ls)
  | .error f => .error f
/-- A record written. -/
def State.putRec (s : State) (c : CtxId) (seg : Seg) (off : Nat) (bs : List (Byte × Bool)) : State :=
  match s.deviceLocs c .enqueue seg off 64 with
  | .ok (_, ls) => s.write ((ls.zip bs).map (fun q => ⟨q.1, q.2.1, q.2.2⟩))
  | .error _ => s
/-- A record's number. -/
def recNat (bs : List (Byte × Bool)) : Nat := leNat (bs.map (·.1))
/-- The KIND of a record (R361). -/
def recKind (bs : List (Byte × Bool)) : Nat := bitsOf (recNat bs) 127 126
/-- The NEXT of a record (R361). -/
def recNext (bs : List (Byte × Bool)) : Nat := bitsOf (recNat bs) 111 96
/-- A record with its NEXT. -/
def withNext (bs : List (Byte × Bool)) (k : Nat) : List (Byte × Bool) :=
  bs.take 12 ++ (natLE 2 k).map (fun b => (b, false)) ++ bs.drop 14

/-! ### Steps of a queue (R364, R365) -/

/-- One due record moves into the ring, and returns to FREE (R364). -/
def State.dueOne (s : State) (c : CtxId) (seg : Seg) : Option State :=
  match s.tq? c seg with
  | none => none
  | some q =>
    if q.dueh = noRec ∨ q.occ = 2 ^ q.log2n then none
    else match s.recAt c seg (q.pool q.dueh), s.recAt c seg (q.ring q.tail) with
      | .ok r, .ok _ =>
        let nx := recNext r
        let s1 := (s.putRec c seg (q.ring q.tail) r).putRec c seg (q.pool q.dueh) (withNext r q.free)
        some (s1.putTq c seg { q with
          tail := (q.tail + 1) % 65536
          free := q.dueh
          dueh := nx
          duet := if nx = noRec then noRec else q.duet })
      | .ok _, .error _ => none
      | .error _, _ => none

/-- A served requester's registers (R365): written with the future's completion; until then a read finds the old or the new. -/
def State.giveRec (s : State) (d : Deq) (bs : List (Byte × Bool)) : State :=
  let word (k : Nat) : List (Byte × Bool) := (bs.drop (4 * k)).take 4
  let keys := (List.range 16).map (fun k => (keyV d.lane (d.d + k), k))
  let vals := keys.map (fun q => (q.1, BitVec.ofNat 64 (recNat (word q.2))))
  let pz := (keys.filter (fun q => (word q.2).any (·.2))).map (·.1)
  let s1 := s.modBoth d.weft (fun w => w.addTracked d.op vals pz)
  let s2 := s1.modFut d.fut (fun f => { f with left := f.left - 1, bytes := f.bytes ||| 2 ^ d.lane })
  let s3 : State := { s2 with deqs := s2.deqs.filter (fun e => !(e.fut == d.fut && e.lane == d.lane)) }
  match s3.futOf d.fut with
  | some f => if f.left = 0 then s3.endDeq d 0 else s3
  | none => s3

/-- The requester that a queue serves next (R365). -/
def State.nextDeq (s : State) (c : CtxId) (seg : Seg) : Option Deq := s.deqs.find? (fun d => d.ctx == c && d.seg == seg)

/-- The record at HEAD goes to the next requester. -/
def State.serveOne (s : State) (c : CtxId) (seg : Seg) : Option State :=
  match s.tq? c seg, s.nextDeq c seg with
  | some q, some d =>
    if q.occ = 0 then none
    else match s.recAt c seg (q.ring q.head) with
      | .ok bs => some ((s.putTq c seg { q with head := (q.head + 1) % 65536 }).giveRec d bs)
      | .error _ => none
  | some _, none => none
  | none, _ => none

/-- A step of a queue: due records move while there is room, and requesters are served while there are records (R364, R365). -/
def State.queueStep (s : State) (c : CtxId) (seg : Seg) : Nat → State
  | 0 => s
  | n + 1 =>
    match s.dueOne c seg with
    | some s1 => s1.queueStep c seg n
    | none => match s.serveOne c seg with
      | some s1 => s1.queueStep c seg n
      | none => s

/-- No step of a queue moves more records. -/
def stepFuel : Nat := 2 ^ 18

/-- The last record of a pool chain, and whether the chain ends (R364). -/
def State.chainEnd (s : State) (c : CtxId) (seg : Seg) (q : TaskQ) : Nat → Nat → Option Nat
  | 0, _ => none
  | n + 1, k =>
    match s.recAt c seg (q.pool k) with
    | .error _ => none
    | .ok r => if recNext r = noRec then some k else s.chainEnd c seg q n (recNext r)

/-! ### Counters (R362, R364) -/

/-- A dependency counter's fields. -/
structure Counter where
  qseg  : Nat
  list  : Nat
  count : Nat
  deriving DecidableEq, Repr
/-- The counter in a word. -/
def Counter.ofNat (x : Nat) : Counter := ⟨bitsOf x 63 40, bitsOf x 39 24, bitsOf x 23 0⟩
/-- The word of a counter. -/
def Counter.word (k : Counter) : Nat := k.qseg * 2 ^ 40 + k.list * 2 ^ 24 + k.count

/-- A release of a counter's list (R364): appended to the due list of its queue; where the queue is not well-formed, or fails R26,
nothing moves and the address is reported. -/
def State.release (s : State) (r : Req) (a : DWord) (seg : Seg) (off : Nat) (k : Counter) : State :=
  if k.list = noRec then s
  else
    let qs : Seg := BitVec.ofNat 24 k.qseg
    let bad := s.report "counter release" r.ctx [a.toNat]
    match s.checkTo r .enqueue (mkAddr qs 0) 0 64 64, s.tq? r.ctx qs with
    | .ok _, some q =>
      match s.chainEnd r.ctx qs q (2 ^ q.log2h) k.list with
      | none => bad
      | some last =>
        let s1 := if q.dueh = noRec then s
          else match s.recAt r.ctx qs (q.pool q.duet) with
            | .ok t => s.putRec r.ctx qs (q.pool q.duet) (withNext t k.list)
            | .error _ => s
        let s2 := s1.putTq r.ctx qs { q with dueh := if q.dueh = noRec then k.list else q.dueh, duet := last }
        (s2.deviceWrite r.ctx seg off 8 ({ k with list := noRec } : Counter).word).queueStep r.ctx qs stepFuel
    | .ok _, none => bad
    | .error _, _ => bad

/-- A lane's request as a home checks it (R380): by the descriptor in the table, of which no core's copy stands beside it. -/
def Req.atHome (r : Req) : Req := { r with core := 1024 + coreDie r.core, now := true }

/-- The counter word at an address, checked in a class (R362). -/
def State.counterAt (s : State) (r : Req) (cls : Cls) (a : DWord) : Except LFault (Seg × Nat × Counter) :=
  match s.checkTo r cls a 0 8 8 with
  | .error f => .error f
  | .ok (_, seg, off) =>
    match s.deviceLocs r.ctx cls seg off 8 with
    | .error f => .error (f.ofCls cls)
    | .ok (_, ls) => .ok (seg, off, Counter.ofNat (s.leAt ls))

/-- `dcadd` at a counter: the old COUNT, and the state (R362). -/
def State.dcaddStep (s : State) (r : Req) (a : DWord) (b : Word) : Except LFault (Nat × State) :=
  match s.counterAt r .counterAdd a with
  | .error f => .error f
  | .ok (seg, off, k) =>
    let n := (k.count + b.toNat) % 2 ^ 24
    let k1 := { k with count := n }
    let s1 := s.deviceWrite r.ctx seg off 8 k1.word
    .ok (k.count, if n = 0 ∧ k.count ≠ 0 then s1.release r a seg off k1 else s1)

/-- `dcinit` at a counter (R362). -/
def State.dcinitStep (s : State) (r : Req) (a b : DWord) : Except LFault State :=
  match s.counterAt r .counterSet a with
  | .error f => .error f
  | .ok (seg, off, k) =>
    let k1 : Counter := { k with
      qseg := if k.list = noRec then bitsOf b.toNat 63 40 else k.qseg
      count := bitsOf b.toNat 23 0 }
    let s1 := s.deviceWrite r.ctx seg off 8 k1.word
    .ok (if k1.count = 0 then s1.release r a seg off k1 else s1)

/-- A record enters a queue's ring (R363). -/
def State.ringPut (s : State) (r : Req) (a : DWord) (seg : Seg) (bs : List Byte) : Except LFault State :=
  match s.tq r.ctx seg with
  | .error f => .error (f.ofCls .enqueue)
  | .ok none => .error (qfull 2 a)
  | .ok (some q) =>
    if q.occ = 2 ^ q.log2n then .error (qfull 1 a)
    else match s.recAt r.ctx seg (q.ring q.tail) with
      | .error f => .error (f.ofCls .enqueue)
      | .ok _ => .ok (((s.putRec r.ctx seg (q.ring q.tail) (bs.map (fun b => (b, false)))).putTq r.ctx seg
          { q with tail := (q.tail + 1) % 65536 }).queueStep r.ctx seg stepFuel)

/-- `enq` of a lane (R363): into a queue, or attached to a counter. -/
def State.enqStep (s : State) (r : Req) (a : DWord) (bs : List Byte) : Except LFault State :=
  let kind := bitsOf (leNat bs) 127 126
  if kind = 0 ∨ kind = 3 then .error (qfull 2 a)
  else match s.resolve r (segOf a) (offOf a).toNat with
  | .error f => .error (f.at a)
  | .ok (d, seg, _) =>
    if d.kind = 8 then
      match s.checkTo r .enqueue a 0 64 64 with
      | .error f => .error f
      | .ok _ => s.ringPut r a seg bs
    else if d.kind = 9 then
      match s.counterAt r .counterAdd a with
      | .error f => .error f
      | .ok (cseg, coff, k) =>
        let qs : Seg := BitVec.ofNat 24 k.qseg
        match s.checkTo r .enqueue (mkAddr qs 0) 0 64 64 with
        | .error f => .error f
        | .ok _ =>
          if k.count = 0 then s.ringPut r a qs bs
          else match s.tq r.ctx qs with
            | .error f => .error (f.ofCls .enqueue)
            | .ok none => .error (qfull 2 a)
            | .ok (some q) =>
              if q.free = noRec then .error (qfull 3 a)
              else match s.recAt r.ctx qs (q.pool q.free) with
                | .error f => .error (f.ofCls .enqueue)
                | .ok old =>
                  let rc := withNext (bs.map (fun b => (b, false))) k.list
                  .ok (((s.putRec r.ctx qs (q.pool q.free) rc).putTq r.ctx qs { q with free := recNext old }).deviceWrite
                    r.ctx cseg coff 8 ({ k with list := q.free } : Counter).word)
    else .error ⟨.rights, 1, a, 0, 0⟩

/-! ### The words (R362, R363, R365) -/

/-- A word whose lanes each take their step at a home from the store queue, and wait for it (R363, R380). -/
def stepWord (v : View) (pz : IC → Nat → Bool) (op : IC → Nat → State → SqOp × List Nat) (s : State) :
    Host.Outcome State Fault Refusal :=
  runWord v false (fun x _ =>
    .part (x.lanes.filter (fun i => !pz x i)) (fun y s2 =>
      y.lanes.foldl (fun z i =>
        let q := op y i z
        let z1 := ((z.addParts y.w.id y.track 1).modWeft y.w.id (fun w => (w.addUnknown z.nextId q.2).park [i] (.step y.track)))
        ({ z1 with nextId := z.nextId + 1 } : State).enqueue y.w.id i y.track y.sys y.pc y.hdr q.1) s2) []
      (x.lanes.filter (pz x))) s

/-- `enq` (R363): a lane whose record or address is poisoned stops. -/
def execEnq (c : Common) (f : EF) (s : State) : Host.Outcome State Fault Refusal :=
  stepWord (Instr.enq c f).view (fun x i => x.pz true f.a i || (x.group f.b i).any (·.2))
    (fun x i _ => (.enq (x.addr f.a i) ((x.group f.b i).map (·.1)), [])) s
/-- `dcinit` (R362). -/
def execDcinit (c : Common) (f : EF) (s : State) : Host.Outcome State Fault Refusal :=
  stepWord (Instr.dcinit c f).view (fun x i => x.pz true f.a i || x.pz true f.b i)
    (fun x i _ => (.dcinit (x.addr f.a i) (x.rd true f.b i), [])) s
/-- `dcadd`: its result is the old COUNT (R362). -/
def execDcadd (c : Common) (f : EF) (s : State) : Host.Outcome State Fault Refusal :=
  stepWord (Instr.dcadd c f).view (fun x i => x.pz true f.a i || x.pz false f.b i)
    (fun x i z => (.dcadd (x.addr f.a i) ((x.rd false f.b i).setWidth 32) z.nextId, destKeys false f.d i)) s

/-- `deq`: every lane becomes a requester under one future (R365); the word waits for the walks of its lanes' pages together. -/
def execDeq (c : Common) (f : EF) (s : State) : Host.Outcome State Fault Refusal :=
  runWord (Instr.deq c f).view false (fun x s1 =>
    let q := sortLanes (fun i => (s1.check (s1.reqOf x.w.id i) .dequeue (x.addr f.a i) 0 64 64).map (fun r => r.2.1))
      (x.lanes.filter (fun i => !x.pz true f.a i))
    if s1.futureHeld x f.h.toNat .deq || x.awaits then .hold id
    else if !q.2.2.isEmpty then .hold (fun y => y.askPages (whoFor x.w.core x.w.id) x.w.core q.2.2)
    else if !q.1.isEmpty && s1.commitWaits x.p.id then .hold (fun y => y.openCommit x.p.id)
    else
      .part (q.1.map (·.1)) (fun y s2 => s2.committed y.p.id (fun s3 =>
        let m := s3.makeFuture y f.h.toNat .deq q.1.length
        match m.2 with
        | none => m.1
        | some r =>
          let dn := match f.d with
            | .v n => n.toNat
            | .s _ => 0
            | .zero => 0
            | .lane => 0
          let s4 : State := { m.1 with deqs := m.1.deqs ++ q.1.map (fun a =>
            ⟨y.track, y.w.id, y.p.id, a.1, a.2, y.p.ctx, r, dn⟩) }
          ((q.1.map (·.2)).eraseDups).foldl (fun z seg => z.queueStep y.p.ctx seg stepFuel) s4)) q.2.1
        (x.lanes.filter (fun i => x.pz true f.a i))) s

/-! ### The step at the home (R363, R380) -/

/-- A step at a home has been taken: the entry leaves the queue, its part of the word ends, and its lane goes on. -/
def State.stepDone (s : State) (wid : Nat) (e : SqEntry) : State :=
  ((s.dropSq wid e.id).doneIf wid e.track).modLane wid e.lane (fun l =>
    if l.st = .parked (.step e.track) then { l with st := .active } else l)

/-- A step at a home found a fault: nothing of it has changed, and the fault is taken at the word (R363). -/
def State.stepFault (s : State) (wid : Nat) (e : SqEntry) (f : LFault) : State :=
  (s.stepDone wid e).faultLanes wid e.pc e.hdr .load [(e.lane, f)]

/-- The result of a `dcadd` is written. -/
def State.stepValue (s : State) (wid id : Nat) (old : Nat) : State :=
  let v : DWord := BitVec.ofNat 64 (wrapNat 32 (toSigned 24 old))
  s.modBoth wid (fun w => (w.fillPend id (fun _ => (v, false))).complete id)

/-- A result of an instruction that a fault has taken back. -/
def State.stepLost (s : State) (wid id : Nat) : State :=
  s.modBoth wid (fun w => { w with pend := w.pend.filter (fun p => p.op != some id) })

/-- A task step at its home, a release at `.pkg` (R146): where it finds a fault, nothing of it has changed. -/
def State.taskStep (s0 : State) (wid : Nat) (e : SqEntry) : State :=
  let r := (s0.reqOf wid e.lane).atHome
  let s := s0.spread (s0.weft wid).core .pkg
  match e.op with
  | .enq a bs =>
    match s.enqStep r a bs with
    | .ok s1 => s1.stepDone wid e
    | .error f => s.stepFault wid e f
  | .dcinit a b =>
    match s.dcinitStep r a b with
    | .ok s1 => s1.stepDone wid e
    | .error f => s.stepFault wid e f
  | .dcadd a b id =>
    match s.dcaddStep r a b with
    | .ok q => (q.2.stepValue wid id q.1).stepDone wid e
    | .error f => (s.stepLost wid id).stepFault wid e f
  | .store _ _ | .atomic _ _ _ _ _ _ _ | .fence _ | .push _ | .discard _ | .cut _ _ _ | .graft _ | .tile _ | .await | .copy _ _
  | .post _ _ => s0

/-! ### Stealing (R381, R382) -/

/-- Whether no weft of a core has issued in the last 256 cycles (R381). -/
def State.idleCore (s : State) (core : Nat) : Bool :=
  let k := s.core core
  (s.wefts.filter (fun w => w.core == core)).all (fun w => w.lanes.all (fun l => match l.last with
    | some n => decide (256 ≤ (k.slot - n) * k.picks)
    | none => true))

/-- The queues that a die's steal tables list (R381). -/
def State.listed (s : State) (die : Nat) : List (CtxId × Seg) :=
  s.ctxs.flatMap (fun c => (c.steal.filter (fun e => e.1 == die && e.2.2 != 0)).map (fun e => (c.id, e.2.2)))

/-- The saturated queue with the highest occupancy; ties go to the lower segment number (R381, R382). -/
def State.saturated (s : State) (die : Nat) : Option (CtxId × Seg × TaskQ) :=
  let qs := (s.listed die).filterMap (fun e => match s.tq? e.1 e.2 with
    | some q => if max 4 (2 ^ (q.log2n - 1)) ≤ q.occ ∧ (s.nextDeq e.1 e.2).isNone then some (e.1, e.2, q) else none
    | none => none)
  qs.foldl (fun b e => match b with
    | none => some e
    | some z => if z.2.2.occ < e.2.2.occ ∨ (z.2.2.occ = e.2.2.occ ∧ e.2.1 < z.2.1) then some e else b) none

/-- The requesters that a steal serves, in order (R382): outside the home quad, the home die first, cores in turn, lanes
ascending. -/
def State.thieves (s : State) (die : Nat) (c : CtxId) (d : Desc) : List Deq :=
  let able := s.deqs.filter (fun e =>
    e.ctx == c && (s.listed die).contains (c, e.seg) && (match s.tq? c e.seg with
      | some q => q.occ == 0
      | none => false) && s.idleCore (s.weft e.weft).core)
  let coreOfD (e : Deq) : Nat := (s.weft e.weft).core
  let ranked := (List.range 512).flatMap (fun k => able.filter (fun e => (s.weft e.weft).slotNo * 32 + e.lane == k))
  let cores := ((List.range 1024).filter (fun k => able.any (fun e => coreOfD e == k)))
  let pick (ks : List Nat) : List Deq :=
    (List.range able.length).flatMap (fun n => ks.filterMap (fun k => (ranked.filter (fun e => coreOfD e == k))[n]?))
  let here := cores.filter (fun k => coreDie k == d.hdie && coreQuad k != d.hquad)
  let far := if bitAt d.kspec 0 then cores.filter (fun k => coreDie k != d.hdie) else []
  pick here ++ pick far

/-- A record taken from a queue's tail goes to a requester. -/
def State.stealOne (s : State) (c : CtxId) (seg : Seg) (d : Deq) : State :=
  match s.tq? c seg with
  | none => s
  | some q =>
    if q.occ = 0 then s
    else
      let t := (q.tail + 65535) % 65536
      match s.recAt c seg (q.ring t) with
      | .error _ => s
      | .ok bs => (s.putTq c seg { q with tail := t }).giveRec d bs

/-- STEAL_STEP: a die scheduler moves records of its fullest saturated queue to idle requesters, each in a step of its own of the queue's
order (R364, R382). -/
def execStealStep (die : Nat) (s : State) : Host.Outcome State Fault Refusal :=
  if !s.schedules die then .next s
  else match s.saturated die with
  | none => .next s
  | some (c, seg, q) =>
    match s.readDesc c seg with
    | .error _ => .next s
    | .ok d =>
      let ts := (s.thieves die c d).take (q.occ / 2)
      .next (ts.foldl (fun y t => (y.stealOne c seg t).queueStep c seg stepFuel) s)

end Sys2Proof.Machine
end

