-- ==== Sys2Proof/Machine/MemEvents.lean ====
section
/-! DEFINITION. What happens to accesses after their words have issued: completions (R175, R305), entries leaving the store queue
(R132, R133, R137, R147, R448), atomics at their home (R140), window and remote accesses (R82, R104 to R107, R459), walks (R71 to
R74) and the pager (R77 to R81). -/
namespace Sys2Proof.Machine

/-! ### Completions (R175, R305) -/

/-- Whether an operation of a weft is a unit's result that has only to be written. -/
def State.unitResult (s : State) (w : Weft) (id : Nat) : Bool :=
  w.pend.any (fun p => p.op == some id && p.known) && !w.loads.any (fun l => l.id == id) &&
    !s.deqs.any (fun d => d.weft == w.id && d.op == id)

/-- UNIT_RESULT_COMPLETE: a flag-tracked unit's result is written, and its part of the flag ends (R175). -/
def execUnitResultComplete (weft id : Nat) (s : State) : Host.Outcome State Fault Refusal :=
  if s.unitResult (s.weft weft) id then .next ((s.modBoth weft (fun w => w.complete id)).partDone weft id) else .next s

/-- A load whose bytes are taken returns them: its registers are written and its part of the flag ends (R305); a search that follows it
ends with it (R316). -/
def State.endLoad (s : State) (wid : Nat) (ld : LoadRec) : State :=
  ((s.endLookup wid ld).modBoth wid (fun w => { (w.complete ld.id) with loads := w.loads.filter (fun x => x.id != ld.id) })).partDone wid
    ld.track

/-- A load of a weft returns, if its bytes are taken. -/
def State.endReady (s : State) (wid id : Nat) : State :=
  match (s.weft wid).loads.find? (fun l => l.id == id && l.wait == .ready) with
  | some ld => s.endLoad wid ld
  | none => s

/-- MEMORY_ACCESS_COMPLETE: a load, atomic or pop returns its data (R305); a load held by the scoreboard first takes it or is sent on its
way (R122), and one that is satisfied late takes it now (R134). -/
def execMemoryAccessComplete (weft id : Nat) (s : State) : Host.Outcome State Fault Refusal :=
  match (s.weft weft).loads.find? (fun l => l.id == id) with
  | none => .next s
  | some ld =>
    match ld.wait with
    | .ready => .next (s.endLoad weft ld)
    | .board => .next (if s.loadClear (s.weft weft) ld then (s.startLoad weft ld).endReady weft id else s)
    | .late => .next ((s.takeLoad weft id).endReady weft id)
    | .window | .home | .queue => .next s

/-! ### Entries leaving the store queue -/

/-- Whether bytes that an entry writes wait: an older load of the weft reads one, or the scoreboard holds one (R122, R132). -/
def State.bytesWait (s : State) (w : Weft) (e : SqEntry) (ls : List Loc) : Bool :=
  w.loads.any (fun l => decide (l.id < e.id) && l.open_ && locsMeet l.locs ls) || s.boardBlocks w.core ls true

/-- The 64-byte line of a byte (R448). -/
def Loc.line : Loc → Loc
  | .hbm pa k _ => .hbm (pa / 64) k 0
  | .chip pa _ => .chip (pa / 64) false
  | .zero => .zero
  | .host f a => .host f (a / 64)
  | .remote n r p k o => .remote n r p k (o / 64)

/-- Lines of the interval store buffer that a panel's held stores take, with more writes (R448). -/
def heldLines (h : List (Nat × SqEntry)) (ws : List Wr) : Nat :=
  (((h.flatMap (fun q => q.2.op.writes)) ++ ws).map (fun w => w.loc.line)).eraseDups.length

/-- Whether a panel's store finds room in its core's interval store buffer (R448). -/
def State.holdFits (s : State) (p : Panel) (ws : List Wr) : Bool :=
  decide (((s.panels.filter (fun q => q.core == p.core && q.id != p.id)).foldl (fun n q => n + heldLines q.held []) 0) +
    heldLines p.held ws ≤ Config.heldEntries)

/-- An entry goes from its queue to the interval store buffer (R147). -/
def State.holdEntry (s : State) (wid : Nat) (e : SqEntry) (pid : Nat) : State :=
  (s.dropSq wid e.id).modPanel pid (fun p => { p with held := p.held ++ [(wid, e)] })

/-- A plain store leaves the queue: performed, or held by a REPLAY panel; without room for it the panel reaches a commit point (R133,
R147, R448). -/
def State.plainStore (s : State) (wid : Nat) (p : Panel) (e : SqEntry) (ws : List Wr) : State :=
  if !p.launch.replay || ws.all (fun w => p.ownByte w.loc) then (s.dropSq wid e.id).performStore wid e ws
  else if s.holdFits p ws then s.holdEntry wid e p.id
  else s.atCommit p.id (fun _ => false) (fun y => (y.dropSq wid e.id).performStore wid e ws)

/-- The narrowest scope whose node holds two cores (R4). -/
def nodeScope (a b : Nat) : Scope :=
  if a = b then .core
  else if nodeOf .quad a = nodeOf .quad b then .quad
  else if nodeOf .die a = nodeOf .die b then .die
  else .pkg

/-- The scope at which a push is a release (R120): that of the node that holds the sender and the target of its send slot. -/
def State.pushScope (s : State) (core msg : Nat) : Scope :=
  match (s.core core).mqIn.find? (fun m => m.id == msg) with
  | some m => nodeScope core (mqsCore (s.mqs core m.slot))
  | none => .core

/-- A step of a lane that reads the frames and images of CUT or GRAFT is a commit point, behind which the lane's and its core's earlier
accesses stand (R50, R137, R148). -/
def State.skeinStep (s : State) (wid : Nat) (e : SqEntry) (f : State → State) : State :=
  let w := s.weft wid
  if (s.panel w.panel).launch.replay && s.beamBusy w.panel then s
  else if s.commitWaits w.panel then s.openCommit w.panel
  else if s.headWaits w e .pkg then s
  else f s

/-- The head of a store queue leaves it; other cores may see what it writes later (R134, log entry 17). -/
def State.headOut (s : State) (wid : Nat) (e : SqEntry) : State :=
  let w := s.weft wid
  let p := s.panel w.panel
  let who := whoFor w.core wid
  match e.op with
  | .store ws rel =>
    if s.bytesWait w e (ws.map (·.loc)) then s
    else if Scope.core.rank < rel.rank then
      s.atCommit p.id (fun y => y.headWaits w e rel) (fun y => ((y.spread w.core rel).dropSq wid e.id).performStore wid e ws)
    else if rel = .core ∧ s.headWaits w e rel then s
    else s.plainStore wid p e ws
  | .fence sc =>
    if Scope.core.rank < sc.rank then
      s.atCommit p.id (fun y => y.headWaits w e sc) (fun y => ((y.spread w.core sc).dropSq wid e.id).doneIf wid e.track)
    else if s.headWaits w e sc then s
    else (s.dropSq wid e.id).doneIf wid e.track
  | .push m =>
    let sc := s.pushScope w.core m
    if s.headWaits w e sc then s else ((s.spread w.core sc).dropSq wid e.id).doneIf wid e.track
  | .discard ps =>
    if p.launch.replay then s.holdEntry wid e p.id else ((s.dropSq wid e.id).discardPages p.ctx ps).doneIf wid e.track
  | .copy q c => s.acceptCopy wid e q c
  | .post q k => s.acceptPost wid e q k
  | .enq _ _ | .dcinit _ _ | .dcadd _ _ _ => s.atCommit p.id (fun y => y.headWaits w e .pkg) (fun y => y.taskStep wid e)
  | .cut t k b => s.skeinStep wid e (fun s =>
    match s.cutLane wid e t k b with
    | .ok f => (f ((s.dropSq wid e.id).doneIf wid e.track)).takeWalks who
    | .fault f => (((s.dropSq wid e.id).doneIf wid e.track).faultLanes wid e.pc e.hdr .skeinCreate [(e.lane, f)]).takeWalks who
    | .miss ps => s.askPages who w.core ps)
  | .graft k => s.skeinStep wid e (fun s =>
    match s.graftLane wid e k with
    | .ok (some f) => (f (s.dropSq wid e.id)).takeWalks who
    | .ok none => s
    | .fault f => ((s.dropSq wid e.id).faultLanes wid e.pc e.hdr .skeinUse [(e.lane, f)]).takeWalks who
    | .miss ps => s.askPages who w.core ps)
  | .atomic _ _ _ _ _ _ _ | .tile _ | .await => s

/-- STORE_PERFORM: the entry at the head of a weft's store queue leaves it and performs at the core (R133, R137). -/
def execStorePerform (weft : Nat) (s : State) : Host.Outcome State Fault Refusal :=
  match (s.weft weft).sq.head? with
  | none => .next s
  | some e => .next (s.headOut weft e)

/-! ### Atomics (R140, R310) -/

/-- The new bytes of an atomic's location (R310). -/
def atomBytes (op : AtomOp) (n old : Nat) (b d : DWord) : List Byte := natLE n (op.new (8 * n) old b.toNat d.toNat)

/-- An atomic's old value returns to its load. -/
def State.atomDone (s : State) (wid ld : Nat) (old : List (Byte × Bool)) : State :=
  match (s.weft wid).loads.find? (fun l => l.id == ld) with
  | none => s
  | some l => s.modBoth wid (fun w => w.putLoad { l with
      wait := .ready
      bytes := (l.bytes.zip old).map (fun q => (q.1.1, some q.2)) })

/-- The read-modify-write of an atomic at its home, as one step (R140, R149); `id`: the entry's number. -/
def State.atomHome (s : State) (wid id : Nat) (op : AtomOp) (ls : List Loc) (b d : DWord) (pz : Bool) (ld : Nat) : State :=
  let w := s.weft wid
  let old := s.read ls
  (s.landBy w.panel w.core (wrs ls (atomBytes op ls.length (s.leAt ls) b d) (pz || old.any (·.2))) 0 id).atomDone wid ld old

/-- An atomic to another package leaves the queue (R82). -/
def State.atomAway (s : State) (wid : Nat) (e : SqEntry) (op : AtomOp) (ls : List Loc) (b d : DWord) (ld : Nat) : State :=
  let s1 := s.modWeft wid (fun w => { w with loads := w.loads.map (fun l => if l.id = ld then { l with wait := .home } else l) })
  { s1 with
    rems := s1.rems ++ [⟨s1.nextId, (s.weft wid).core, wid, some ld, e.lane, e.addr, .atomic, wrs ls (List.replicate ls.length 0),
      e.track, e.pc, e.hdr, some (op, b, d)⟩]
    nextId := s1.nextId + 1 }

/-- A load or atomic that returns no data: its results and its part of the flag are given up. -/
def State.loadLost (s : State) (wid ld : Nat) : State :=
  (s.modBoth wid (fun w => { w with
    loads := w.loads.filter (fun x => x.id != ld)
    pend := w.pend.filter (fun p => p.op != some ld) })).dropLookups

/-- An atomic of a page that has become DEAD changes nothing, and its lane takes PAGE, DEADWRITE (R86). -/
def State.atomDead (s : State) (wid : Nat) (e : SqEntry) (ld : Nat) : State :=
  (((s.dropSq wid e.id).loadLost wid ld).doneIf wid e.track).faultLanes wid e.pc e.hdr .atomic [(e.lane, pageFault 2 e.addr)]

/-- An atomic at the head of a store queue is performed at its home. -/
def State.atomOut (s : State) (wid : Nat) (e : SqEntry) (op : AtomOp) (ls : List Loc) (b d : DWord) (pz : Bool) (ld : Nat) (rel : Scope) :
    State :=
  let core := (s.weft wid).core
  let y := ((s.forceLate core wid e.id ls).spread core rel).dropSq wid e.id
  if ls.any Loc.isRemote then y.atomAway wid e op ls b d ld else y.atomHome wid e.id op ls b d pz ld

/-- ATOMIC_AT_HOME: the atomic at the head of a weft's store queue is performed at the home of its location, after every earlier
entry; one of a REPLAY panel is a commit point (R140, R148). -/
def execAtomicAtHome (weft : Nat) (s : State) : Host.Outcome State Fault Refusal :=
  let w := s.weft weft
  match w.sq.head? with
  | none => .next s
  | some e =>
    match e.op with
    | .atomic op ls b d pz ld rel =>
      let waits (y : State) : Bool :=
        y.bytesWait w e ls || (rel != .none && y.headWaits w e rel) || y.winBusy w.core ls || (y.padHolds w.panel ls).isSome
      if ls.contains .zero then .next (s.atomDead weft e ld)
      else .next (s.atCommit w.panel waits (fun y => y.atomOut weft e op ls b d pz ld rel))
    | .store _ _ | .fence _ | .push _ | .discard _ | .enq _ _ | .dcinit _ _ | .dcadd _ _ _ | .cut _ _ _ | .graft _ | .tile _
    | .await | .copy _ _ | .post _ _ => .next s

/-! ### Window accesses (R104 to R107) -/

/-- Whether a place lies in a quad that has become absent (R459). -/
def State.absentAt (s : State) (l : Loc) : Bool :=
  match l with
  | .chip pa _ => (s.core (coreOfPa pa)).absent
  | .hbm _ _ _ | .zero | .host _ _ | .remote _ _ _ _ _ => false

/-- A load with its bytes from a window: of an absent quad they are poisoned (R459). -/
def State.winTaken (s : State) (w : Weft) (ld : LoadRec) : LoadRec :=
  let t := s.taken w ld
  { t with bytes := t.bytes.map (fun q => if s.absentAt q.1 then (q.1, some (0, true)) else q) }

/-- WINDOW_ACCESS: a window access arrives at its structure, those of one core in their order (R104). It waits while a matrix word
writes the tile (R107), or while a REPLAY panel's pad does not admit it (R149). -/
def execWindowAccess (id : Nat) (s : State) : Host.Outcome State Fault Refusal :=
  match s.wins.find? (fun a => a.id == id) with
  | none => .next s
  | some a =>
    let ls := a.bytes.map (·.loc)
    let w := s.weft a.weft
    if (s.wins.find? (fun q => q.core == a.core)) != some a || ls.any (s.tileBusy s.mwWrites) || (s.padHolds w.panel ls).isSome then .next s
    else
      let s1 : State := { s with wins := s.wins.filter (fun q => q.id != id) }
      match a.load with
      | some l =>
        match w.loads.find? (fun x => x.id == l) with
        | none => .next s1
        | some ld => .next (s1.modBoth a.weft (fun x => x.putLoad (s1.winTaken w ld)))
      | none => .next ((s1.landBy w.panel a.core (a.bytes.filter (fun b => !s.absentAt b.loc)) 0 id).doneIf a.weft a.track)

/-! ### Remote accesses (R82) -/

/-- A remote access that its home does not resolve: its lane takes PAGE, REMOTE, and enters a fault subgroup (R75, R82). -/
def State.remoteFault (s : State) (a : RemAcc) : State :=
  let s1 := match a.load with
    | some l => s.loadLost a.weft l
    | none => s
  (s1.doneIf a.weft a.track).faultLanes a.weft a.pc a.hdr a.cls [(a.lane, pageFault 5 a.addr)]

/-- A remote access performed at its home. -/
def State.remotePerform (s : State) (a : RemAcc) : State :=
  let ls := a.bytes.map (·.loc)
  match a.load, a.atom with
  | some l, some (op, b, d) =>
    (s.write (wrs ls (atomBytes op ls.length (s.leAt ls) b d))).atomDone a.weft l (s.read ls)
  | some l, none =>
    let w := s.weft a.weft
    match w.loads.find? (fun x => x.id == l) with
    | none => s
    | some ld => s.modBoth a.weft (fun x => x.putLoad (s.taken w ld))
  | none, _ => (s.write a.bytes).doneIf a.weft a.track

/-! ### Accesses by other packages (R82) -/

/-- The requester of an access by another package: the remote walks of its home die's walker (R71). -/
def InRem.who (q : InRem) : Nat := whoFor (whoRemote (homeDie q.root)) q.id
/-- The page of a byte of it, its tables under the key index that it names; context 0 stands for no context. -/
def InRem.page (q : InRem) (i : Nat) : PageReq := (0, BitVec.ofNat 24 q.okey, (q.off + i) / pageSize q.pgsz, q.pgsz, q.root)

/-- The place of a byte of it: by an ended walk, or its page is missing. -/
def State.inboundLoc (s : State) (q : InRem) (i : Nat) : Chk Loc :=
  let p := q.page i
  match s.walks.find? (fun w => w.isFor p.1 p.2.1 p.2.2.1 p.2.2.2.1 p.2.2.2.2 && w.result.isSome && w.reqs.contains q.who) with
  | none => .miss [p]
  | some w =>
    if w.result ≠ some 0 then .fault (pageFault (w.result.getD 0))
    else match s.walkPage q.okey q.root (q.off + i) q.pgsz with
      | .error r => .fault (pageFault r)
      | .ok e =>
        if bitAt e.2 2 then (if q.store.isSome || q.atom.isSome then .fault (pageFault 2) else .ok .zero)
        else if !s.keyLive q.okey then .fault (pageFault 6)
        else .ok (.hbm (bitsOf e.2 51 8 * 256 + (q.off + i) % pageSize q.pgsz) q.okey 2)

/-- The places of its first bytes. -/
def State.inboundLocs (s : State) (q : InRem) : Nat → Chk (List Loc)
  | 0 => .ok []
  | n + 1 =>
    match s.inboundLocs q n, s.inboundLoc q n with
    | .ok ls, .ok l => .ok (ls ++ [l])
    | .ok _, .fault f => .fault f
    | .ok _, .miss p => .miss p
    | .fault f, _ => .fault f
    | .miss a, .miss b => .miss (a ++ b.filter (fun x => !a.contains x))
    | .miss a, .ok _ | .miss a, .fault _ => .miss a

/-- It is performed here; its data, or an atomic's old value, leave. -/
def State.inboundDone (s : State) (q : InRem) (ls : List Loc) : State :=
  match q.store, q.atom with
  | some bs, _ => s.landBy 0 noCore (wrs ls bs)
  | none, some (op, b, d) =>
    let s1 := s.landAll 0 (wrs ls (atomBytes op ls.length (s.leAt ls) b d) ((s.read ls).any (·.2)))
    { s1 with wire := s1.wire ++ [.remoteData (ls.map s.byteAt)] }
  | none, none =>
    let s1 := s.allocAll ls
    { s1 with wire := s1.wire ++ [.remoteData (ls.map s.byteAt)] }

/-- An access by another package is translated by this one's walker, waits for its pager, or performs (R71, R82). -/
def State.inboundStep (s : State) (q : InRem) : State :=
  match s.inboundLocs q q.len with
  | .miss ps => s.queueWalks q.who (homeDie q.root) ps
  | .fault f =>
    (({ s with inRems := s.inRems.map (fun x => if x.id = q.id then { x with held := true } else x) } : State).report "remote page" 0
      [q.id, q.root, q.pgsz, q.okey, q.off, f.reason]).takeWalks q.who
  | .ok ls => (({ s with inRems := s.inRems.filter (fun x => x.id != q.id) } : State).inboundDone q ls).takeWalks q.who

/-- An access by another package arrives. -/
def State.inboundIn (s : State) (q : InRem) : State :=
  ({ s with inRems := s.inRems ++ [q], nextId := s.nextId + 1 } : State).inboundStep q

/-- The atomics in the order of R310. -/
def AtomOp.all : List AtomOp := [.add, .min, .max, .and, .or, .xor, .exch, .cas]

/-- REMOTE_ACCESS: a remote access arrives at its home (R82): one of another package here, or one of this package at another, those
of one core in their order. -/
def execRemoteAccess (r : RemoteReq) (s : State) : Host.Outcome State Fault Refusal :=
  match r with
  | .inbound root pgsz okey off store len =>
    .next (s.inboundIn ⟨s.nextId, root, pgsz, okey, off, store, none, (store.map List.length).getD len, false⟩)
  | .inboundAtomic root pgsz okey off op size b d =>
    match AtomOp.all[op]? with
    | none => .next s
    | some o =>
      if size ≠ 4 ∧ size ≠ 8 then .next s
      else .next (s.inboundIn ⟨s.nextId, root, pgsz, okey, off, none, some (o, BitVec.ofNat 64 b, BitVec.ofNat 64 d), size, false⟩)
  | .outbound id resolved =>
    match s.rems.find? (fun a => a.id == id) with
    | none => .next s
    | some a =>
      if (s.rems.find? (fun q => q.core == a.core)) != some a then .next s
      else
        let s1 : State := { s with rems := s.rems.filter (fun q => q.id != id) }
        .next (if resolved then s1.remotePerform a else s1.remoteFault a)

/-! ### The walker (R71 to R74) -/

/-- Reserved walk slots of a requester, and the most that it may hold (R71). -/
def slotsOf (who : Nat) : Nat × Nat :=
  if who < 1024 then (2, 8) else if who < 8192 then (16, 48) else (32, 96)
/-- Slots of the shared pool (R71). -/
def sharedSlots : Nat := 160

/-- The requester that a walk's slot counts for: the first of those attached to it. -/
def Walk.holder (w : Walk) : Nat := whoOf (w.reqs.headD 0)

/-- The walks granted to a requester of a die. -/
def State.walksHeld (s : State) (die who : Nat) : Nat :=
  (s.walks.filter (fun w => w.die == die && w.granted && w.result.isNone && w.holder == who)).length

/-- The requesters of a die with a walk that has no slot and fewer slots than their cap, in their order. -/
def State.walkWaiters (s : State) (die : Nat) : List Nat :=
  let ws := ((s.walks.filter (fun w => w.die == die && !w.granted && w.result.isNone)).map Walk.holder).eraseDups
  ws.filter (fun k => decide (s.walksHeld die k < (slotsOf k).2))

/-- A slot for a requester's oldest walk. -/
def State.grantTo (s : State) (die who : Nat) : State :=
  match s.walks.find? (fun w => w.die == die && !w.granted && w.result.isNone && w.holder == who) with
  | none => s
  | some w => { s with walks := s.walks.map (fun x => if x.id = w.id then { x with granted := true } else x) }

/-- Slots of the shared pool in use on a die. -/
def State.sharedUsed (s : State) (die : Nat) : Nat :=
  (((s.walks.filter (fun w => w.die == die && w.granted && w.result.isNone)).map Walk.holder).eraseDups).foldl (fun n k =>
    n + (s.walksHeld die k - (slotsOf k).1)) 0

/-- WALK_SLOT_GRANT: requesters below their reserved slots take one each, and one shared slot goes to the next requester in turn
(R71, R73). -/
def execWalkSlotGrant (die : Nat) (s : State) : Host.Outcome State Fault Refusal :=
  let s1 := (s.walkWaiters die).foldl (fun y k => if y.walksHeld die k < (slotsOf k).1 then y.grantTo die k else y) s
  let ws := s1.walkWaiters die
  let from_ := (s1.die die).walkNext
  let turn := ws.filter (fun k => decide (from_ ≤ k))
  let best (ks : List Nat) : Option Nat := ks.find? (fun k => ks.all (fun j => decide (k ≤ j)))
  match if turn.isEmpty then best ws else best turn with
  | none => .next s1
  | some k =>
    if sharedSlots ≤ s1.sharedUsed die then .next s1
    else .next ((s1.grantTo die k).modDie die (fun d => { d with walkNext := k + 1 }))

/-- One table read by a die's walker: a non-leaf entry may stand in its cache (R69). -/
def State.walkerStep (s : State) (die tkey pa : Nat) (leaf : Bool) (align : Nat) : Except Nat Nat :=
  match if leaf then none else (s.die die).walkCache.find? (fun l => l.pa == pa && l.key == tkey) with
  | some l => if !s.keyLive tkey then .error 6 else if pteBad l.entry leaf align then .error 3 else .ok l.entry
  | none => s.walkStep tkey pa leaf align

/-- A walker's cache with the non-leaf entries of a walk for a segment, the newest kept (R69). -/
def DieSt.keepNodes (d : DieSt) (key : Nat) (user : CtxId × Seg) (ns : List (Nat × Nat)) : DieSt :=
  { d with walkCache := (ns.foldl (fun c n =>
      if c.any (fun l => l.pa == n.1 && l.key == key) then
        c.map (fun l => if l.pa = n.1 ∧ l.key = key ∧ !l.users.contains user then { l with users := user :: l.users } else l)
      else ⟨n.1, key, n.2, [user]⟩ :: c) d.walkCache).take Config.walkEntries }

/-- The page of an ended walk enters a core's page cache, and its descriptor the descriptor cache (R32, R69). -/
def State.cachePage (s : State) (w : Walk) (leaf core : Nat) : State :=
  let n : PageLine := ⟨w.ctx, w.seg, w.page, w.pgsz, w.base, BitVec.ofNat 64 leaf⟩
  (s.cacheDesc core w.ctx w.seg).modCore core (fun c => { c with
    tlbPage := addWay (fun e => e.page % pageSets == w.page % pageSets) n (c.tlbPage.filter (· != n)) })

/-- The key index of a walk's tables: an access by another package names it. -/
def State.walkKey (s : State) (w : Walk) : Nat := if w.ctx = 0 then w.seg.toNat else s.tkey w.ctx

/-- What an ended walk sets going: lanes that waited for it are chosen for their word again (R74), and accesses by other packages go
on (R82). -/
def State.walkWakes (s : State) (w : Walk) : State :=
  let words := (s.lates.filter (fun q => w.reqs.contains (whoFor (s.weft q.weft).core q.track))).map (fun q =>
    (⟨q.weft, q.lanes, q.pc, q.hdr, q.slot, 0, 0, some q⟩ : SlotWord))
  (s.inRems.filter (fun q => w.reqs.contains q.who)).foldl (fun y q => y.inboundStep q) { s with slot := s.slot ++ words }

/-- WALK_COMPLETE: a walk with a slot ends, and all its requesters get its result at once (R67, R72); the pages that wait behind it at its
cores enter their miss queues (R74). -/
def execWalkComplete (die id : Nat) (s : State) : Host.Outcome State Fault Refusal :=
  match s.walks.find? (fun w => w.id == id && w.die == die && w.granted && w.result.isNone) with
  | none => .next s
  | some w =>
    let k := s.walkKey w
    let off := w.page * pageSize w.pgsz
    let cores := ((w.reqs.map whoOf).filter (fun c => decide (c < 1024))).eraseDups
    let r := walkWith (s.walkerStep die k) w.base off w.pgsz
    let s1 : State := s.modDie die (fun d => d.keepNodes k (w.ctx, w.seg) (walkNodes (s.walkerStep die k) w.base off w.pgsz))
    let s2 : State := match r with
      | .ok e => cores.foldl (fun y c => y.cachePage w e.2 c) s1
      | .error _ => s1
    let end_ (x : Walk) : Walk := { x with granted := false, result := some (match r with
      | .ok _ => 0
      | .error n => n) }
    let s3 : State := { s2 with walks := s2.walks.map (fun x => if x.id = id then end_ x else x) }
    .next (cores.foldl (fun y c => y.enterMisses c (y.core c).missRest.length) (s3.walkWakes w))

/-! ### The pager (R77 to R81, R409, R418) -/

/-- A subgroup that the die controller holds (R413). -/
def Weft.heldSub (w : Weft) (k : Nat) : Bool := (w.subs.getD k Sub.free).status == 3

/-- The first post of a queue that is stalled. -/
def State.stalledPost (s : State) (core q : Nat) : Option NetPost := ((s.core core).netQ.getD q []).find? (fun p => p.stall.isSome)

/-- Whether lanes are parked for the spill of a tile. -/
def Park.isSpill : Park → Bool
  | .spill => true
  | .fault _ | .bind _ | .push _ _ | .rejoin _ | .heldWait _ | .barrier _ _ _ | .nwait | .held | .node | .hold | .step _ | .walk _ => false

/-- The lanes of a weft that wait in `rett` for a spill execute it again (R409). -/
def Weft.retrySpills (w : Weft) : Weft :=
  let go (l : Lane) : Lane := match l.st with
    | .parked p => if p.isSpill && l.trap.isEmpty then { l with st := .active } else l
    | .active | .exited | .stopped _ => l
  { w with lanes := w.lanes.map go }

/-- PAGER_RESOLVE: a pager has resolved the faults of a subgroup or a command, which goes on (R77, R79, R81, R82). -/
def execPagerResolve (t : PagerTarget) (s : State) : Host.Outcome State Fault Refusal :=
  match t with
  | .sub w k => .next (s.modBoth w (fun x => if x.heldSub k then x.releaseSub k else x))
  | .copy core q => .next (s.modCore core (fun c => { c with copyQ := c.copyQ.modify q (fun cs => match cs with
      | c0 :: r => { c0 with stall := none } :: r
      | [] => []) }))
  | .matrix core id => .next (s.modMWord core id (fun m => { m with stall := none }))
  | .post core q => match s.stalledPost core q with
    | some p => .next (s.putPost core q { p with stall := none })
    | none => .next s
  | .packet _ _ | .place _ _ => .next s
  | .remote id =>
    let clear (q : InRem) : InRem := { q with held := false }
    match s.inRems.find? (fun q => q.id == id && q.held) with
    | some q => .next (({ s with inRems := s.inRems.map (fun x => if x.id = id then clear x else x) } : State).inboundStep (clear q))
    | none => .next s
  | .save pid => .next { s with wefts := s.wefts.map (fun w => if w.panel = pid then w.retrySpills else w) }

/-- A lane that waits in `rett` for a spill that the pager declined: its frame is popped and its ACCOWN is declined (R401, R407,
R409). -/
def State.spillDeclined (s : State) (wid lane : Nat) : State :=
  let l := (s.weft wid).lane lane
  let x := icOf s ⟨wid, 0, l.pc, 0, 0, 0, 0, none⟩
  match s.frameAt (s.reqNow wid lane) wid l.fb.toNat, s.localWords wid lane l.fb.toNat 0 8 with
  | .ok fr, .ok ws =>
    let back := s.popTrap wid lane l.fb.toNat fr (ws.drop 4)
    back.declineTrap x lane FaultCode.accown.code (bitsOf (ws.getD 1 0) 15 8) (BitVec.ofNat 64 (ws.getD 0 0))
      (bitsOf (ws.getD 3 0) 9 0)
  | .ok _, .miss _ | .ok _, .fault _ | .miss _, _ | .fault _, _ => s.stopLane wid lane ⟨.accown, 0, 0, 0, 0⟩

/-- A save is abandoned (R418): the halt of a panel and of its group is lifted, and the failure is reported. -/
def State.liftHalt (s : State) (pid : Nat) : State :=
  let p := s.panel pid
  ((s.groupOf p).foldl (fun y q => y.modPanel q.id (fun z => { z with
    life := if z.life = .halting then .running else z.life
    spared := true })) s).report
    "save" p.ctx [pid]

/-- PAGER_DECLINE: a pager declines (R77, R80, R82, R376, R401, R409, R418). -/
def execPagerDecline (t : PagerTarget) (s : State) : Host.Outcome State Fault Refusal :=
  match t with
  | .sub w k => if (s.weft w).heldSub k then .next (s.declineSub w k) else .next s
  | .copy core q => match ((s.core core).copyQ.getD q []).head? with
    | some c => if c.stall.isSome then .next (s.retireCopy core q c FaultCode.page.code false) else .next s
    | none => .next s
  | .matrix core id => match s.mword core id with
    | some m => match m.stall with
      | some f => .next ((s.modMWord core id (fun q => { q with stall := none, ended := true })).mwRaise m f)
      | none => .next s
    | none => .next s
  | .post core q => match s.stalledPost core q with
    | some p => .next (s.endPost core q p FaultCode.page.code false)
    | none => .next s
  | .packet _ _ => .next s
  | .place core tile => .next (s.modCore core (fun c => { c with declined := if c.declined.contains tile then c.declined else tile :: c.declined }))
  | .remote id =>
    match s.inRems.find? (fun q => q.id == id && q.held) with
    | some q => .next (({ s with
        inRems := s.inRems.filter (fun x => x.id != id)
        wire := s.wire ++ [.remoteRefused id] } : State).takeWalks q.who)
    | none => .next s
  | .save pid =>
    let ls := (s.weftsOf pid).flatMap (fun w => ((List.range 32).filter (fun i =>
      (w.lane i).st == .parked .spill && (w.lane i).trap.isEmpty)).map (fun i => (w.id, i)))
    let s1 := ls.foldl (fun y q => y.spillDeclined q.1 q.2) s
    if (s1.panel pid).life = .halting then .next (s1.liftHalt pid) else .next s1

end Sys2Proof.Machine
end

