-- ==== Sys2Proof/Machine/Preempt.lean ====
section
/-! DEFINITION. Pre-emption, saving and resumption of panels (R402, R416 to R421), and watchdogs (R422). -/
namespace Sys2Proof.Machine

/-! ### The request (R402, R416) -/

/-- A panel halts: no slot, step, sector or packet of it starts, and its pending DEQs complete with the lanes served so far (R416). Its
sectors wait at no pad any longer (R149). -/
def State.haltPanel (s : State) (pid : Nat) : State :=
  let s0 := s.modPanel pid (fun p => { p with life := if p.life = .running then .halting else p.life })
  let core := (s.panel pid).core
  let s1 := s0.modCore core (fun c => { c with
    copyQ := c.copyQ.map (fun q => q.map (fun k => if k.panel = pid then { k with waits := none } else k))
    morder := c.morder.map (fun m => if m.panel = pid then { m with waits := none } else m) })
  (s1.deqs.filter (fun d => d.panel == pid)).foldl (fun y d => if y.deqs.contains d then y.endDeq d 0 else y) s1

/-- A panel and its placement group halt (R402). -/
def State.haltGroup (s : State) (p : Panel) : State := (s.groupOf p).foldl (fun y q => y.haltPanel q.id) s

/-- PREEMPT_REQUEST: a running panel, with its group, is halted, if a save block is free for it (R416, R418). -/
def execPreemptRequest (panel : Nat) (s : State) : Host.Outcome State Fault Refusal :=
  let p := s.panel panel
  .next (if p.life = .running ∧ s.savable p = true then s.haltGroup p else s)

/-! ### Before the save (R44, R299, R306, R418) -/

/-- The accepted copies of a panel with their queues. -/
def State.copiesOf (s : State) (p : Panel) : List (Nat × CopyCmd) :=
  ((s.core p.core).copyQ.zipIdx).flatMap (fun q => (q.1.filter (fun c => c.panel == p.id)).map (fun c => (q.2, c)))
/-- The posts of a panel. -/
def State.postsOf (s : State) (p : Panel) : List NetPost := (s.core p.core).netQ.flatten.filter (fun q => q.panel == p.id)

/-- Whether the halted commands of a panel hold places of its core's pad by their scoreboard entries (R122, R416). -/
def State.ownBoard (s : State) (p : Panel) (ls : List Loc) (store : Bool) : Bool :=
  let ids := (s.copiesOf p).map (fun q => q.2.id) ++ (s.postsOf p).map (fun q => q.id)
  (s.core p.core).board.any (fun b => ids.contains b.cmd && (b.dst || store) && ls.any (fun l =>
    match l.ownPad p.core with
    | some o => decide (b.lo ≤ o) && decide (o ≤ b.hi)
    | none => false))

/-- Whether a load can take its bytes only after halted commands of its panel, or after entries of its queue that wait for them. -/
def State.loadHeld (s : State) (p : Panel) (w : Weft) (l : LoadRec) : Bool :=
  l.wait == .queue || (l.wait == .board && !s.loadClear w l && (s.ownBoard p l.locs false || !w.sq.isEmpty))

/-- Whether the head of a store queue can leave it only after halted commands or matrix words of its panel (R122, R137, R346, R416). -/
def State.headHeld (s : State) (p : Panel) (w : Weft) (e : SqEntry) : Bool :=
  let lane := w.loads.any (fun l => decide (l.id < e.id) && l.wait != .queue && l.lane == e.lane && s.loadHeld p w l) ||
    (s.core w.core).morder.any (fun m => m.weft == w.id && m.lane == e.lane && decide (m.id < e.id))
  let own := !(s.copiesOf p).isEmpty || !(s.postsOf p).isEmpty
  let beam := p.launch.replay && s.beamBusy p.id
  match e.op with
  | .store ws rel => s.ownBoard p (ws.map (·.loc)) true || (rel != .none && lane) || beam
  | .atomic _ ls _ _ _ _ rel => s.ownBoard p ls true || (rel != .none && lane) || beam
  | .tile _ => true
  | .copy _ _ | .post _ _ => (own && decide (s.headOut w.id e = s)) || lane || beam
  | .fence _ | .push _ | .enq _ _ | .dcinit _ _ | .dcadd _ _ _ => lane || beam
  | .discard _ | .cut _ _ _ | .graft _ | .await => false

/-- Whether a halted panel's loads have completed and its store queues have drained (R152, R306), but for entries and loads that wait for
its own halted commands and matrix words, which are saved with them. -/
def State.quiet (s : State) (p : Panel) : Bool :=
  !s.credits.any (fun k => k.panel == p.id) && (s.copiesOf p).all (fun c => !c.2.cancel) && (s.weftsOf p.id).all (fun w =>
    (match w.sq.head? with
      | none => true
      | some e => s.headHeld p w e) &&
    w.loads.all (s.loadHeld p w) && !s.lates.any (fun q => q.weft == w.id) && !s.slot.any (fun q => q.weft == w.id) &&
    !(s.core p.core).mqIn.any (fun m => m.weft == w.id) && !s.wins.any (fun a => a.weft == w.id) &&
    !s.rems.any (fun a => a.weft == w.id))

/-- A CUT or GRAFT that has not completed is abandoned: its lane executes the word again (R299). -/
def State.abandon (s : State) (wid : Nat) (e : SqEntry) : State :=
  match e.op with
  | .cut _ _ _ | .graft _ =>
    ((s.dropSq wid e.id).doneIf wid e.track).modLane wid e.lane (fun l => { l with pc := e.pc, pos := .inside e.hdr, st := .active })
  | .store _ _ | .atomic _ _ _ _ _ _ _ | .fence _ | .push _ | .discard _ | .enq _ _ | .dcinit _ _ | .dcadd _ _ _ | .tile _
  | .await | .copy _ _ | .post _ _ => s

/-- A waiter node leaves its entry's list (R44). -/
def State.unlinkNode (s : State) (c : CtxId) (w : Weft) (k : Nat) : State :=
  match w.nodes.getD k none with
  | none => s
  | some n =>
    let id := nodeId w.core w.slotNo k
    let eb := s.ebase c
    let s1 := match s.entryAt c eb n.entry with
      | .ok x => if x.wnode = some id then s.putEntry c eb n.entry { x with wnode := n.next } else s
      | .error _ => s
    let skip (z : WNode) : WNode := if z.next = some id then { z with next := n.next } else z
    { s1 with wefts := s1.wefts.map (fun v => { v with nodes := v.nodes.mapIdx (fun j q =>
        if v.id = w.id ∧ j = k then none else q.map skip) }) }

/-- Lanes that are saved as lanes that execute their word again (R44, R306). -/
def Park.again : Park → Bool
  | .bind _ | .node | .push _ _ | .hold | .held | .spill => true
  | .fault _ | .rejoin _ | .heldWait _ | .barrier _ _ _ | .nwait | .step _ | .walk _ => false

/-- The lanes and subgroups of a weft as they are saved (R413): a subgroup whose fault has not been delivered is not kept. -/
def Weft.forSave (w : Weft) : Weft :=
  (List.range 4).foldl (fun x k => if (x.subs.getD k Sub.free).status = 1 then x.releaseSub k else x) (w.unpark Park.again)

/-- The results of a weft's units are written (R262, R303, R416). -/
def State.settleUnits (s : State) (wid : Nat) : State :=
  let s1 := ((s.weft wid).pend.filterMap (fun p => p.op)).foldl (fun y id =>
    if y.unitResult (y.weft wid) id then (y.modBoth wid (fun w => w.complete id)).partDone wid id else y) s
  s1.modWeft wid (fun w => (w.endFixed ((s1.core w.core).slot + 64) 1).settled ((s1.core w.core).slot + 64) 1)

/-- A halted panel brought to the state that is saved. -/
def State.calm (s : State) (p : Panel) : State :=
  (s.weftsOf p.id).foldl (fun y w =>
    let y1 := w.sq.foldl (fun z e => z.abandon w.id e) y
    let y2 := (List.range 4).foldl (fun z k => z.unlinkNode p.ctx (z.weft w.id) k) y1
    (y2.settleUnits w.id).modWeft w.id Weft.forSave) s

/-! ### The save block (R412 to R415, R418) -/

/-- The physical tiles of a panel by name: accumulators, then partials. -/
def Panel.allTiles (p : Panel) : List Nat := (Allot.mk p.core p.wmask p.rblk p.padb p.amask p.pmask).tiles

/-- The handle of a weft that names a future; 0 where none does. -/
def Weft.handleOf (w : Weft) (r : Option FutRef) : Nat :=
  match r with
  | some _ => (w.handles.findIdx? (fun h => h == r)).getD 0
  | none => 0

/-- Bytes with zeros up to a length. -/
def padTo (n : Nat) (bs : List Byte) : List Byte := bs ++ List.replicate (n - bs.length) 0

/-- The command records of a panel (R414). -/
def State.commandImages (s : State) (p : Panel) : List Byte :=
  let k := s.core p.core
  (k.copyQ.zipIdx).flatMap (fun q => (q.1.zipIdx).flatMap (fun c =>
    if c.1.panel = p.id then c.1.image q.2 c.2 ((s.weft c.1.weft).handleOf c.1.fut) else [])) ++
  k.netQ.flatMap (fun q => (q.zipIdx).flatMap (fun c =>
    if c.1.panel = p.id then c.1.image c.2 ((s.weft c.1.weft).handleOf c.1.fut) else []))

/-- The matrix word records of a panel (R415). -/
def State.wordImages (s : State) (p : Panel) : List Byte :=
  ((s.core p.core).morder.zipIdx).flatMap (fun m =>
    if m.1.panel = p.id then
      m.1.image (s.fetchWord p.core p.ctx (segOf m.1.pc) (offOf m.1.pc).toNat) (s.weft m.1.weft).pweft m.2
    else [])

/-- What is written of a panel into its save block (R412). -/
def State.saveParts (s : State) (p : Panel) : List (Nat × List Byte) :=
  let ws := s.weftsOf p.id
  s.imageParts p ws ++ [(0x40000, p.header (p.allTiles.map (fun t => (t, false))))] ++
    (List.range 9).map (fun i => (0x40040 + 16 * i, p.barImage ws i)) ++
    [(0x40100, padTo 0x800 (s.commandImages p)), (0x40900, padTo 0x200 (s.wordImages p))]

/-- A block for each panel of a group: its own, or the lowest free ones of its context (R418). -/
def State.pickBlocks (s : State) : List Panel → List (Panel × Nat) → Option (List (Panel × Nat))
  | [], acc => some acc
  | p :: ps, acc =>
    match p.block with
    | some k => s.pickBlocks ps (acc ++ [(p, k)])
    | none =>
      match (List.range (s.ctx p.ctx).sbcnt).find? (fun k =>
          !acc.any (fun q => q.1.ctx == p.ctx && q.2 == k) && !s.blockUsed p.ctx k) with
      | some k => s.pickBlocks ps (acc ++ [(p, k)])
      | none => none

/-- The blocks of a group written. -/
def State.writeBlocks (s : State) : List (Panel × Nat) → Except LFault State
  | [] => .ok s
  | (p, k) :: ps =>
    match s.writeParts p.ctx k (s.saveParts p) with
    | .ok s1 => s1.writeBlocks ps
    | .error f => .error f

/-- Whether bytes of a core's pad lie in a panel's share, by structure offset. -/
def Panel.inShare (p : Panel) (core off len : Nat) : Bool :=
  core == p.core && decide (0x4000 * p.padb ≤ off) && decide (off + len ≤ 0x4000 * (p.padb + p.launch.padu))

/-- The beam slots that a panel's context filled from the share of the panel or of a partner (R345). -/
def State.beamsOf (s : State) (p : Panel) : List (Nat × Macro) :=
  ((s.core p.core).beams.zipIdx).filterMap (fun m =>
    if m.1.valid && m.1.ctx == p.ctx && (s.groupOf p).any (fun g => g.inShare m.1.core m.1.off m.1.len) then some (m.2, m.1) else none)

/-- The record that the scheduler keeps of a saved panel. -/
def State.savedOf (s : State) (p : Panel) (k : Nat) : Saved where
  id := p.id
  panel := { p with block := some k, life := .running }
  block := k
  wefts := s.weftsOf p.id
  copies := (s.copiesOf p).map (fun q => (q.1, { q.2 with ends := none, waits := none }))
  words := ((s.core p.core).morder.filter (fun m => m.panel == p.id)).map (fun m => { m with src := none, waits := none, moved := 0 })
  tiles := p.allTiles.map (fun t => (t, false))
  tags := p.allTiles.map (fun t => if (s.tag p.core t).owner = p.ctx then s.tag p.core t else TileTag.reset)
  beams := s.beamsOf p
  padPz := s.padPoison p

/-- The residencies of a context leave a core with its last panel (R91). -/
def State.dropResid (s : State) (core : Nat) (c : CtxId) : State :=
  if s.panels.any (fun p => p.core == core && p.ctx == c) then s
  else s.modCore core (fun k => { k with resid := k.resid.filter (fun e => e.ctx != c) })

/-- A panel leaves its core: its wefts, its commands, their scoreboard entries, its matrix words and its walks. -/
def State.leaveCore (s : State) (p : Panel) : State :=
  let gone := (s.copiesOf p).map (fun q => q.2.id) ++ (s.postsOf p).map (fun q => q.id)
  let s0 := (s.weftsOf p.id).foldl (fun y w => y.quitWalks p.core (whoFor p.core w.id)) s
  let s1 := s0.modCore p.core (fun k => { k with
    copyQ := k.copyQ.map (fun q => q.filter (fun c => c.panel != p.id))
    board := k.board.filter (fun b => !gone.contains b.cmd)
    morder := k.morder.filter (fun m => m.panel != p.id) })
  ({ s1 with
    panels := s1.panels.filter (fun q => q.id != p.id)
    wefts := s1.wefts.filter (fun w => w.panel != p.id) } : State).dropResid p.core p.ctx

/-- The spill homes of a saved panel's tiles are recorded: they are held in place (R92, R418). -/
def State.holdTiles (s : State) (p : Panel) (k : Nat) : State :=
  (p.allTiles.zipIdx).foldl (fun y q =>
    if (y.tag p.core q.1).owner = p.ctx then
      y.modCore p.core (fun c => { c with homes := c.homes.set q.1 (some (p.ctx, k,
        if q.2 < p.launch.acct then q.2 else q.2 - p.launch.acct)) })
    else y) s

/-- A panel whose block has been written is saved; what its core has performed is performed throughout (R152). -/
def State.finishSave (s : State) (p : Panel) (k : Nat) : State :=
  let v := s.savedOf p k
  let s1 := (((s.holdTiles p k).markBlock p.ctx k true).spread p.core .pod).leaveCore p
  { s1 with saved := s1.saved ++ [v] }

/-- The save of a halted group (R418): REPLAY panels reach their commit points (R148), and loads and stores end; a write that meets PAGE
waits for the pager, and one that fails otherwise, or the want of a block, lifts the halt. -/
def State.saveGroup (s : State) (pid : Nat) (ps : List Panel) : State :=
  if ps.any (fun p => s.commitWaits p.id) then ps.foldl (fun y p => if y.commitWaits p.id then y.openCommit p.id else y) s
  else if !ps.all (fun p => s.quiet p) then s
  else
    let s1 := ps.foldl (fun y p => y.calm p) s
    match s1.pickBlocks (ps.map (fun p => s1.panel p.id)) [] with
    | none => s.liftHalt pid
    | some ks => match s1.writeBlocks ks with
      | .error f => if f.code = .page then s.report "page" (s.panel pid).ctx [pid, f.addr.toNat, f.reason] else s.liftHalt pid
      | .ok s2 => ks.foldl (fun y q => y.finishSave q.1 q.2) s2

/-- PANEL_SAVE: a halted panel is saved, with its group (R402, R418). -/
def execPanelSave (panel : Nat) (s : State) : Host.Outcome State Fault Refusal :=
  let ps := s.groupOf (s.panel panel)
  .next (if !ps.isEmpty && ps.all (fun p => p.life == .halting && !(s.die (coreDie p.core)).tripped) then s.saveGroup panel ps else s)

/-! ### Reading a save block back (R413, R419) -/

/-- A number at an offset of bytes. -/
def numAt (bs : List Byte) (off n : Nat) : Nat := leNat ((bs.drop off).take n)

/-- A handle from its reference (R350). -/
def handleAt (bs : List Byte) (off : Nat) : Option FutRef :=
  if numAt bs off 8 = 0 then none else some (FutRef.ofWord (BitVec.ofNat 64 (numAt bs off 8)))

/-- A lane with its record restored (R413). -/
def Lane.restored (l : Lane) (bs : List Byte) (i : Nat) : Lane :=
  let at_ (off n : Nat) : Nat := numAt bs (64 * i + off) n
  let pc : DWord := BitVec.ofNat 64 (at_ 0 8)
  let fr := at_ 8 16
  { l with
    pc := pc
    pos := if pc = l.pc then l.pos else .resume
    sys := bitAt (at_ 0x28 8) 2
    sseg := BitVec.ofNat 24 (fr / 2 ^ 104)
    fb := BitVec.ofNat 40 (fr / 2 ^ 64)
    sp := BitVec.ofNat 40 (fr / 2 ^ 24)
    mtop := BitVec.ofNat 24 fr
    rstate := BitVec.ofNat 64 (at_ 0x18 8)
    hh := handleAt bs (64 * i + 0x20)
    last := none
    pause := 0 }

/-- A weft with its images restored (R413). -/
def Weft.restored (w : Weft) (alloc : Nat) (regs rc lanes : List Byte) : Weft :=
  let v (i n : Nat) : Nat := numAt regs (128 * n + 4 * i) 4
  let vs := (List.range 32).flatMap (fun i => (List.range alloc).filterMap (fun n =>
    if v i n = 0 then none else some (keyV i n, (BitVec.ofNat 64 (v i n) : DWord))))
  let ss := (List.range 64).filterMap (fun n =>
    if numAt rc (8 * n) 8 = 0 then none else some (keyS n, (BitVec.ofNat 64 (numAt rc (8 * n) 8) : DWord)))
  { w with
    regs := vs ++ ss
    masks := (List.range 16).map (fun j => (BitVec.ofNat 32 (numAt rc (0x200 + 8 * j) 4), BitVec.ofNat 32 (numAt rc (0x204 + 8 * j) 4)))
    handles := (List.range 16).map (fun h => handleAt rc (0x280 + 8 * h))
    flags := 0 :: (List.range 12).map (fun n => numAt rc (0x300 + n) 1)
    lanes := w.lanes.mapIdx (fun i l => l.restored lanes i) }

/-- A saved weft read back from its block. -/
def State.readWeft (s : State) (v : Saved) (w : Weft) : Except LFault Weft :=
  let c := v.panel.ctx
  let n := v.panel.launch.bud + 1
  match s.readPart c v.block (2048 * (w.pweft * n)) (2048 * n), s.readPart c v.block (0x41000 + 1024 * w.pweft) 0x320,
      s.readPart c v.block (0x45000 + 2048 * w.pweft) 2048 with
  | .ok regs, .ok rc, .ok lanes => .ok (w.restored (16 * n) regs rc lanes)
  | .error f, _, _ => .error f
  | .ok _, .error f, _ => .error f
  | .ok _, .ok _, .error f => .error f

/-! ### Tiles of a resumed panel (R409, R419, R420) -/

/-- The number of a tile among the tiles of its kind. -/
def Saved.kindIdx (v : Saved) (j : Nat) : Nat := if j < v.panel.launch.acct then j else j - v.panel.launch.acct
/-- Whether the j-th tile of a saved panel is still held for it on the saved core. -/
def State.stillHeld (s : State) (v : Saved) (j : Nat) : Bool :=
  (s.core v.panel.core).homes.getD (v.tiles.getD j (0, false)).1 none == some (v.panel.ctx, v.block, v.kindIdx j)

/-- The bytes of the j-th tile of a saved panel: held on the saved core, in its spill home, or zeros where the context never owned it
(R419). -/
def State.tileData (s : State) (v : Saved) (j : Nat) : Except LFault (List (Byte × Bool)) :=
  let t := (v.tiles.getD j (0, false)).1
  if s.stillHeld v j then .ok (s.read (tileLocs v.panel.core t 0 (tileSize t)))
  else if (v.tiles.getD j (0, false)).2 then
    let off := blockBase v.block + (if t < 8 then 0x100000 + 0x8000 * v.kindIdx j else 0x140000 + 0x10000 * v.kindIdx j)
    match s.deviceLocs v.panel.ctx .load (s.ctx v.panel.ctx).saveSeg off (tileSize t) with
    | .ok q => .ok (s.read q.2)
    | .error f => .error f
  else .ok (List.replicate (tileSize t) (0, false))

/-- The foreign owners of target tiles are spilled first (R409, R419). -/
def State.spillTargets (s : State) (c : CtxId) (core : Nat) : List Nat → State × Seat
  | [] => (s, .seated [])
  | t :: ts =>
    let o := (s.tag core t).owner
    if o = 0 ∨ o = c then s.spillTargets c core ts
    else if (s.core core).declined.contains t then (s.report "spill failed" c [core, t], .no)
    else match s.spillTile core t with
      | .ok s1 => s1.spillTargets c core ts
      | .page f => (s.report "page" c [core, t, f.addr.toNat, f.reason], .wait)
      | .fail => (s.report "spill failed" c [core, t], .no)

/-- A resumed panel's tiles filled, its sources zeroed (R419). -/
def State.fillTiles (s : State) (v : Saved) (a : Allot) (data : List (List (Byte × Bool))) : State :=
  let js := List.range v.tiles.length
  let s1 := js.foldl (fun y j =>
    if s.stillHeld v j then
      let t := (v.tiles.getD j (0, false)).1
      (y.zeroTile v.panel.core t 0).modCore v.panel.core (fun k => { k with homes := k.homes.set t none })
    else y) s
  (a.tiles.zipIdx).foldl (fun y q =>
    let z := y.write (((tileLocs a.core q.1 0 (tileSize q.1)).zip (data.getD q.2 [])).map (fun b => ⟨b.1, b.2.1, b.2.2⟩))
    (z.modTag a.core q.1 (fun _ => { v.tags.getD q.2 TileTag.reset with owner := v.panel.ctx })).modCore a.core (fun k =>
      { k with homes := k.homes.set q.1 none })) s1

/-! ### A resumed panel's own places (R419) -/

/-- A place in a panel's old pad share or tiles, where the panel now has it. -/
def relocLoc (p q : Panel) (l : Loc) : Loc :=
  match l with
  | .chip pa win =>
    let base := padPa p.core (0x4000 * p.padb)
    if base ≤ pa ∧ pa < base + 0x4000 * p.launch.padu then .chip (padPa q.core (0x4000 * q.padb) + (pa - base)) win
    else match p.allTiles.findIdx? (fun t => decide (tilePa p.core t ≤ pa) && decide (pa < tilePa p.core t + tileSize t)) with
      | some j => .chip (tilePa q.core (q.allTiles.getD j 0) + (pa - tilePa p.core (p.allTiles.getD j 0))) win
      | none => l
  | .hbm _ _ _ | .zero | .host _ _ | .remote _ _ _ _ _ => l

/-- A weft on its new core and slot. -/
def Weft.moved (w : Weft) (p q : Panel) : Weft := { w.reloc (relocLoc p q) with core := q.core, slotNo := slotOf q.wmask w.pweft }

/-! ### Barriers of a resumed panel (R357, R415) -/

/-- Whether a panel that resumes on a core leaves the node of its route tags. -/
def Panel.leavesNode (p : Panel) (core : Nat) : Bool :=
  let sc := p.launch.scope
  (sc == .quad || sc == .die) && nodeOf sc p.core != nodeOf sc core

/-- The barrier records of a resumed panel (R357): in a new node, at the phase of its members, the pending bytes carried over. -/
def State.resumeBars (s : State) (p : Panel) (core : Nat) : List BarRec :=
  if p.leavesNode core then
    p.bars.mapIdx (fun i b =>
      if i = 0 ∨ b.member = false then b
      else
        let ms := (s.barMembers (.reed p.launch.scope (nodeOf p.launch.scope core) (i - 1) p.ctx)).filter (fun q => q.1.id != p.id)
        { b with decided := false, phase := match ms with
            | [] => b.phase
            | q :: _ => q.1.tagPhase (i - 1) })
  else p.bars

/-- A lane of a panel that has left its node has not arrived at the route tags' barriers there, and executes its barrier word
again; and the counted instruction that this takes back (R357). -/
def Lane.newNode (l : Lane) : Lane × Nat :=
  let l1 := { l with arrived := l.arrived.mapIdx (fun i a => if i = 0 then a else none) }
  match l.st with
  | .parked (.barrier i _ track) =>
    if i = 0 then (l1, 0)
    else if track = 0 then ({ l1 with st := .active }, 0)
    else ({ l1 with st := .active, pc := l.pc - 8, pos := .resume }, track)
  | .parked (.fault _) | .parked (.bind _) | .parked (.push _ _) | .parked (.rejoin _) | .parked (.heldWait _) | .parked .nwait
  | .parked .held | .parked .node | .parked .hold | .parked (.step _) | .parked .spill | .parked (.walk _) | .active | .exited | .stopped _ => (l1, 0)

/-- A weft of a panel that has left its node. -/
def Weft.newNode (w : Weft) : Weft :=
  let ls := w.lanes.map Lane.newNode
  ((ls.map (·.2)).filter (· != 0)).foldl (fun x t => x.partDone t) { w with lanes := ls.map (·.1) }

/-! ### Resumption (R419) -/

/-- The scoreboard entries of a requeued copy, from its progress on (R124). -/
def State.copyBoard (s : State) (q : Panel) (c : CopyCmd) : List BoardEntry :=
  if c.fence.isSome ∨ c.len ≤ c.prog then []
  else
    let r := { s.copyReq q.core c with panel := q.id }
    let one (cls : Cls) (a : DWord) (dst : Bool) : List BoardEntry :=
      match s.checkTo r cls a c.prog (c.len - c.prog) 1 false with
      | .ok (d, _, off) => boardEnd q d off (c.len - c.prog) c.swz c.id dst
      | .error _ => []
    one .load c.src false ++ one .store c.dst true

/-- The scoreboard entry of a requeued post (R124). -/
def State.postBoard (s : State) (q : Panel) (p : NetPost) : List BoardEntry :=
  if p.done then []
  else match s.checkTo (s.postReq q.core p) .load p.req.src p.sent (p.req.len - p.sent) 1 false with
    | .ok (d, _, off) => boardEnd q d off (p.req.len - p.sent) p.swz p.id false
    | .error _ => []

/-- A saved panel as it resumes in an allotment. -/
def State.resumedPanel (s : State) (v : Saved) (a : Allot) : Panel :=
  { v.panel with
    core := a.core
    wmask := a.wmask
    rblk := a.rblk
    padb := a.padb
    amask := a.amask
    pmask := a.pmask
    order := s.nextId
    life := .running
    bars := s.resumeBars v.panel a.core
    block := if v.panel.launch.replay then some v.block else none }

/-- A saved panel put on its new core: pad, wefts, tiles, commands and matrix words (R419). -/
def State.putResumed (s : State) (cores : List (Nat × Nat)) (v : Saved) (a : Allot) (ws : List Weft) (pad : List Byte)
    (data : List (List (Byte × Bool))) : State :=
  let p := v.panel
  let q := s.resumedPanel v a
  let dest (c : Nat) : Nat := ((cores.find? (fun z => z.1 == c)).map (·.2)).getD c
  let s1 := (s.clearShare a p.launch.padu).write ((pad.zipIdx).map (fun b =>
    ⟨Loc.chip (padPa a.core (0x4000 * a.padb + b.2)) false, b.1, v.padPz.contains (b.2 / 8 * 8)⟩))
  let s2 := s1.fillTiles v a data
  let ws1 := ws.map (fun w => if p.leavesNode a.core then (w.moved p q).newNode else w.moved p q)
  let s3 : State := { s2 with
    panels := s2.panels ++ [q]
    wefts := s2.wefts ++ ws1
    saved := s2.saved.filter (fun z => z.id != v.id)
    nextId := s2.nextId + 1
    lastCore := sput noneUsed s2.lastCore p.launch.lastKey a.core }
  let posts := (s3.core p.core).netQ.map (fun z => z.filter (fun k => k.panel == p.id))
  let s4 := s3.modCore p.core (fun k => { k with netQ := k.netQ.map (fun z => z.filter (fun x => x.panel != p.id)) })
  let copies := v.copies.filter (fun c => !c.2.cancel)
  let words := v.words.map (fun m => { m with issuer := dest m.issuer, members := m.members.map dest })
  let s5 := s4.modCore a.core (fun k => { k with
    copyQ := k.copyQ.mapIdx (fun i z => z ++ (copies.filter (fun c => c.1 == i)).map (·.2))
    netQ := k.netQ.mapIdx (fun i z => z ++ (posts.getD i []).map (fun x => { x with src := none }))
    morder := k.morder ++ words })
  let bd := copies.flatMap (fun c => s5.copyBoard q c.2) ++ posts.flatten.flatMap (fun k => s5.postBoard q k)
  let s6 := s5.modCore a.core (fun k => { k with board := k.board ++ bd })
  copies.foldl (fun y c => match c.2.stall with
    | some f => y.report "page" p.ctx [a.core, c.1, f.addr.toNat, f.reason]
    | none => y) s6

/-- The beam slots of a resumed panel refilled from the shares that they record; one that is STALE is left unfilled (R345). -/
def State.refillBeams (s : State) (vs : List (Saved × Allot)) (v : Saved) (a : Allot) : State :=
  v.beams.foldl (fun y m =>
    match vs.find? (fun z => z.1.panel.inShare m.2.core m.2.off m.2.len) with
    | none => y.modCore a.core (fun k => { k with beams := k.beams.set m.1 { m.2 with lost := true } })
    | some (g, b) =>
      let rel := m.2.off - 0x4000 * g.panel.padb
      let new : Macro :=
        if m.2.stale then { m.2 with lost := true, core := b.core, off := 0x4000 * b.padb + rel }
        else
          let z := y.loadMacro (y.panel g.id) m.2.ety m.2.shape m.2.swz rel m.2.idx
          { m.2 with bits := z.1, sums := z.2.1, poison := z.2.2, core := b.core, off := 0x4000 * b.padb + rel, lost := false }
      y.modCore a.core (fun k => { k with beams := k.beams.set m.1 new })) s

/-- The last steps of a resumption: the block is freed, or a REPLAY panel takes its first checkpoint there, and the placement is
reported (R418, R419, R447). -/
def State.endResume (s : State) (v : Saved) (a : Allot) : State :=
  let s1 := if v.panel.launch.replay then s.checkpoint v.id else s.markBlock v.panel.ctx v.block false
  s1.report "placed" v.panel.ctx [v.panel.index, a.core]

/-- What is read back for a saved panel: wefts, pad image and tiles. -/
def State.readSaved (s : State) (v : Saved) : Except LFault (List Weft × List Byte × List (List (Byte × Bool))) :=
  match v.wefts.mapM (s.readWeft v), s.readPart v.panel.ctx v.block 0x80000 (0x4000 * v.panel.launch.padu),
      (List.range v.tiles.length).mapM (s.tileData v) with
  | .ok ws, .ok pad, .ok data => .ok (ws, pad, data)
  | .error f, _, _ => .error f
  | .ok _, .error f, _ => .error f
  | .ok _, .ok _, .error f => .error f

/-- A saved group resumes in its allotments (R402, R419): foreign tiles are spilled, images read; then every member is restored. -/
def State.resumeIn (s : State) (vs : List Saved) (as : List Allot) : State × Seat :=
  let c := (vs.headD ⟨0, Panel.nil, 0, [], [], [], [], [], [], []⟩).panel.ctx
  let s0 := s.loadRoot c
  let spilled := (vs.zip as).foldl (fun (y : State × Seat) z => match y.2 with
    | .seated _ => y.1.spillTargets c z.2.core z.2.tiles
    | .wait => y
    | .no => y) (s0, .seated [])
  match spilled.2 with
  | .wait => (spilled.1, .wait)
  | .no => (spilled.1, .no)
  | .seated _ =>
    let s1 := spilled.1
    match vs.mapM s1.readSaved with
    | .error f =>
      if f.code = .page then (s1.report "page" c [f.addr.toNat, f.reason], .wait)
      else (s1.report "resume failed" c [f.code.code, f.addr.toNat], .no)
    | .ok ims =>
      let cores := (vs.zip as).map (fun z => (z.1.panel.core, z.2.core))
      let s2 := ((vs.zip as).zip ims).foldl (fun y z => y.putResumed cores z.1.1 z.1.2 z.2.1 z.2.2.1 z.2.2.2) s1
      let s3 := (vs.zip as).foldl (fun y z => y.refillBeams (vs.zip as) z.1 z.2) s2
      ((vs.zip as).foldl (fun y z => y.endResume z.1 z.2) s3, .seated as)

/-- The saved members of a saved panel's group, by panel index; none while a member is resident (R402). -/
def State.savedGroup (s : State) (v : Saved) : List Saved :=
  let l := v.panel.launch
  let same (p : Panel) : Bool := decide (0 < l.qgrp) && p.launch.id == l.id && p.index / (l.qgrp + 1) == v.panel.index / (l.qgrp + 1)
  if s.panels.any same then []
  else
    let vs := s.saved.filter (fun z => z.id == v.id || same z.panel)
    vs.foldr (fun z acc => acc.takeWhile (fun q => decide (q.panel.index < z.panel.index)) ++
      z :: acc.dropWhile (fun q => decide (q.panel.index < z.panel.index))) []

/-- The tiles of a core that a saved panel takes first: those still held for it there (R376). -/
def State.keptTiles (s : State) (v : Saved) (core : Nat) : List Nat :=
  if core = v.panel.core then
    ((List.range v.tiles.length).filter (s.stillHeld v)).map (fun j => (v.tiles.getD j (0, false)).1)
  else []

/-- The turn of a saved group: resumed on the first cores of some sets that fit, in the node that it left where some there do (R357, R377,
R419); the state, and whether it waits or does not fit. -/
def State.turnResume (s : State) (sets : List (List Nat)) (vs : List Saved) : State × Seat :=
  match vs with
  | [] => (s, .no)
  | v :: _ =>
    let l := v.panel.launch
    let near (cs : List Nat) : Bool := !v.panel.leavesNode (cs.headD 0)
    match s.seatSets l (vs.map (fun z => s.keptTiles z)) (sets.filter near ++ sets.filter (fun cs => !near cs)) with
    | (s1, .seated as) => s1.resumeIn vs as
    | (s1, .wait) => (s1, .wait)
    | (s1, .no) => (s1, .no)

/-- PANEL_RESUME: a saved panel, with its group, resumes on cores that fit (R402, R419). -/
def execPanelResume (saved : Nat) (s : State) : Host.Outcome State Fault Refusal :=
  match s.saved.find? (fun v => v.id == saved) with
  | none => .next s
  | some v => .next (s.turnResume (s.searchSets v.panel.launch) (s.savedGroup v)).1

/-! ### Gang switches (R421) -/

/-- GANG_SWITCH: at the instant of a switch the outgoing gang's panels are halted, and the incoming gang's saved panels resume where
they fit (R421). -/
def execGangSwitch (gang : Nat) (s : State) : Host.Outcome State Fault Refusal :=
  match s.gangs[gang]? with
  | none => .next s
  | some g =>
    if s.time < g.at_.toNat then .next s
    else
      let s1 : State := { s with gangs := s.gangs.eraseIdx gang }
      let s2 := (s1.panels.filter (fun p => p.launch.gang == g.out && p.life == .running)).foldl (fun y p =>
        if (y.panel p.id).life = .running ∧ y.savable p = true then y.haltGroup p else y) s1
      .next ((s2.saved.filter (fun v => v.panel.launch.gang == g.inc)).foldl (fun y v =>
        if y.saved.any (fun z => z.id == v.id) then (y.turnResume (y.searchSets v.panel.launch) (y.savedGroup v)).1 else y) s2)

/-! ### Watchdogs (R422) -/

/-- HANG_WATCHDOG: a weft whose hang counter has reached the period is reported with its PCs and its stall, and the counter clears
(R422). -/
def execHangWatchdog (weft : Nat) (s : State) : Host.Outcome State Fault Refusal :=
  let w := s.weft weft
  let p := s.panel w.panel
  let k := s.ctx p.ctx
  if k.wdog = 0 ∨ w.hang < 1024 * k.wdog ∨ !s.hasWeft weft then .next s
  else
    let pcs := w.liveLanes.map (fun i => (w.lane i).pc.toNat)
    .next (((s.modWeft weft (fun x => { x with hang := 0 })).report "watchdog" p.ctx ([p.index, w.pweft, s.leafOf? w (s.core w.core).slot] ++ pcs)).event
      k.func 4 0 p.ctx p.index (pcs.headD 0) 0)

end Sys2Proof.Machine
end

