-- ==== Sys2Proof/Machine/Sched.lean ====
section
/-! DEFINITION. The die scheduler (R372 to R379): taking launch records, placing panels and ending them. -/
namespace Sys2Proof.Machine

/-! ### Launch records (R372 to R374) -/

/-- A launch queue that the scheduler may take from: a well-formed task queue of its context whose home is the die (R372). -/
def State.lqQueue (s : State) (die : Nat) (c : CtxId) (seg : Seg) : Option TaskQ :=
  match s.readDesc c seg with
  | .ok d => if d.kind = 8 ∧ d.r = true ∧ d.hdie = die then s.tq? c seg else none
  | .error _ => none

/-- The fields of a launch record (R373). -/
def Launch.ofRecord (c : CtxId) (die : Nat) (seg : Seg) (id x : Nat) (args : List (DWord × Bool)) : Launch where
  id := id
  ctx := c
  die := die
  lq := seg.toNat
  gang := bitsOf x 383 368
  prio := bitsOf x 367 362
  wefts := bitsOf x 361 358
  bud := bitsOf x 357 354
  padu := bitsOf x 353 348
  acct := bitsOf x 347 344
  partt := bitsOf x 343 341
  bscope := bitsOf x 340 338
  btags := BitVec.ofNat 8 (bitsOf x 337 330)
  qgrp := bitsOf x 323 322
  anydie := bitAt x 321
  replay := bitAt x 320
  sseg0 := BitVec.ofNat 24 (bitsOf x 319 296)
  panels := bitsOf x 287 256
  done := BitVec.ofNat 64 (bitsOf x 255 192)
  argp := BitVec.ofNat 64 (bitsOf x 191 128)
  entry := BitVec.ofNat 64 (bitsOf x 63 0)
  user := BitVec.ofNat 32 (bitsOf x 95 64)
  args := args
  next := 0
  ended := 0

/-- Whether a field of a launch record is out of range: reason FIELD (R374). -/
def Launch.fieldBad (l : Launch) : Bool :=
  l.panels == 0 || decide (32 < l.padu) || decide (8 < l.acct) || decide (4 < l.partt) || decide (128 < l.blocks) ||
    l.bscope == 1 || l.bscope == 2 || l.bscope == 7 || (l.btags != 0) != (l.bscope != 0)

/-- The argument words of a launch, read once at the take (R374, R375): the fault of the block's check, or the host pages whose
translations are asked for first (R467). -/
def State.launchArgs (s : State) (die : Nat) (c : CtxId) (argp : DWord) : Chk (List (DWord × Bool)) :=
  if argp = 0 then .ok (List.replicate 8 (0, false))
  else if 0xFFFFFA ≤ (segOf argp).toNat then .fault ⟨.rights, 1, argp, 0, 0⟩
  else (s.check { rxReq die c with sys := false } .load argp 0 64 64 false).map fun q =>
    let bs := s.read q.2.2.2
    (List.range 8).map (fun k =>
      let w := (bs.drop (8 * k)).take 8
      (BitVec.ofNat 64 (leNat (w.map (·.1))), w.any (·.2)))

/-- The reason for which a launch record is refused (R374), with its argument words where they pass; 0 for none. -/
def launchRefusal (c : CtxId) (die x : Nat) (args : Option (List (DWord × Bool))) : Nat :=
  let l := Launch.ofRecord c die 0 0 x []
  if bitsOf x 127 126 ≠ 1 then 1
  else if bitsOf x 511 384 ≠ 0 ∨ bitsOf x 329 324 ≠ 0 ∨ bitsOf x 295 288 ≠ 0 ∨ bitsOf x 125 112 ≠ 0 then 2
  else if l.fieldBad then 3
  else if args.isNone then 4
  else if 0xFFFFEF < l.sseg0.toNat + 32 * l.nwefts * l.panels - 1 then 5
  else 0

/-- A taken record becomes a launch, or is refused and reported (R374, R468). -/
def State.takeLaunch (s : State) (die : Nat) (c : CtxId) (seg : Seg) (x : Nat) (args : Option (List (DWord × Bool))) : State :=
  let reason := launchRefusal c die x args
  if reason ≠ 0 then (s.report "launch refused" c [die, reason]).event (s.ctx c).func 2 reason c 0 0 0
  else
    { s with launches := s.launches ++ [Launch.ofRecord c die seg s.nextId x (args.getD [])], nextId := s.nextId + 1 }

/-- Whether a launch taken earlier from a queue still has unplaced panels, pre-empted ones among them (R372, R377). -/
def State.queueBusy (s : State) (die : Nat) (c : CtxId) (seg : Seg) : Bool :=
  s.launches.any (fun l => l.ctx == c && l.die == die && l.lq == seg.toNat &&
    (decide (l.next < l.panels) || s.saved.any (fun v => v.panel.launch.id == l.id)))

/-- The first entry in turn from which a record can be taken; entries whose queue fails are passed over and reported (R372). A record whose
arguments lie in host pages not yet translated is left until they are. -/
def State.takeFrom (s : State) (die : Nat) : List Nat → State
  | [] => s
  | e :: es =>
    let k := die * 16 + e
    match lookupKey k s.lqTab with
    | none => s.takeFrom die es
    | some (c, seg) =>
      let bad : State := ({ s with lqBad := s.lqBad ++ [k] } : State).report "launch queue" c [die, e]
      if s.lqBad.contains k || s.queueBusy die c seg then s.takeFrom die es
      else match s.lqQueue die c seg with
        | none => bad.takeFrom die es
        | some q =>
          if q.occ = 0 then s.takeFrom die es
          else match s.recAt c seg (q.ring q.head) with
            | .error _ => bad.takeFrom die es
            | .ok bs =>
              let x := recNat bs
              let take (args : Option (List (DWord × Bool))) : State :=
                ((((s.putTq c seg { q with head := (q.head + 1) % 65536 }).queueStep c seg stepFuel).takeLaunch die c seg x args).takeAts
                  die).modDie die (fun d => { d with lqNext := (e + 1) % 16 })
              if launchRefusal c die x none < 4 then take none
              else match s.launchArgs die c (BitVec.ofNat 64 (bitsOf x 191 128)) with
                | .ok args => take (some args)
                | .fault _ => take none
                | .miss ps => s.queueWalks (whoNet die) die ps

/-- LAUNCH_TAKE: the scheduler takes the record at the head of a launch queue, in round robin (R372, R374). -/
def execLaunchTake (die : Nat) (s : State) : Host.Outcome State Fault Refusal :=
  .next (if s.schedules die then s.takeFrom die ((List.range 16).map (fun k => ((s.die die).lqNext + k) % 16)) else s)

/-! ### Placement (R377, R378) -/

/-- Launches in descending priority, those of equal priority in their turn (R377). -/
def byPrio (ls : List Launch) : List Launch :=
  ls.foldr (fun l acc => acc.takeWhile (fun q => decide (l.prio < q.prio)) ++ l :: acc.dropWhile (fun q => decide (l.prio < q.prio))) []

/-- A launch has had its turn. -/
def State.rotate (s : State) (id : Nat) : State :=
  { s with launches := s.launches.filter (fun l => l.id != id) ++ s.launches.filter (fun l => l.id == id) }

/-- The panel indexes that a launch places next: one, or a group's (R377, R378). -/
def Launch.nextIndexes (l : Launch) : List Nat :=
  (List.range (min (l.qgrp + 1) (l.panels - l.next))).map (l.next + ·)

/-- Whether a save block is free for each of `n` REPLAY panels of a launch (R447). -/
def State.blocksFor (s : State) (l : Launch) (n : Nat) : Bool :=
  !l.replay || decide (n ≤ (((List.range (s.ctx l.ctx).sbcnt).filter (fun k => !s.blockUsed l.ctx k)).take n).length)

/-- The turn of a launch's next new panel or group, on the first of some sets of cores that fit. -/
def State.turnNew (s : State) (sets : List (List Nat)) (l : Launch) : State × Seat :=
  let idx := l.nextIndexes
  if !s.blocksFor l idx.length then (s, .no)
  else match s.seatSets l (idx.map (fun _ _ => [])) sets with
    | (s1, .seated as) =>
      let s2 := (idx.zip as).foldl (fun y z => y.startPanel l z.1 z.2) s1
      ({ s2 with launches := s2.launches.map (fun q => if q.id = l.id then { q with next := q.next + idx.length } else q) }, .seated as)
    | (s1, .wait) => (s1, .wait)
    | (s1, .no) => (s1, .no)

/-- The saved group of a launch that resumes next: pre-empted panels come first (R377). -/
def State.nextSaved (s : State) (l : Launch) : List Saved :=
  match s.saved.find? (fun v => v.panel.launch.id == l.id && !(s.savedGroup v).isEmpty) with
  | some v => s.savedGroup v
  | none => []

/-- A search for cores has ended: spills that a pager declined, and saves that were abandoned, count no longer (R376, R418). -/
def State.endSearch (s : State) : State :=
  { s with
    cores := if s.cores.any (fun c => !c.2.declined.isEmpty) then s.cores.map (fun c => (c.1, { c.2 with declined := [] })) else s.cores
    panels := s.panels.map (fun p => { p with spared := false }) }

/-- A launch's next panels placed on some sets of cores: pre-empted ones first (R377). -/
def State.turnOn (s : State) (l : Launch) (sets : List (List Nat)) (vs : List Saved) : State × Seat :=
  if vs.isEmpty then s.turnNew sets l else s.turnResume sets vs

/-- The cores chosen for a launch are chosen no longer. -/
def State.dropAim (s : State) (id : Nat) : State := { s with aims := s.aims.filter (fun a => a.1 != id) }

/-- Panels of lower priority are pre-empted for a launch, on cores that are kept for it (R377, R378). -/
def State.preemptFor (s : State) (l : Launch) (q : List Nat × List Panel) : State :=
  q.2.foldl (fun y p => if (y.panel p.id).life = .running then y.haltGroup p else y) { s with aims := s.aims ++ [(l.id, q.1)] }

/-- A scheduler's turn: the first launch of which a panel or group is placed, or waits for panels of lower priority that are
pre-empted for it, on whose cores it is then placed; one that fits nowhere is passed over (R377, R378). -/
def State.placeTurn (s : State) : List Launch → State
  | [] => s
  | l :: ls =>
    let vs := s.nextSaved l
    let n := if vs.isEmpty then l.nextIndexes.length else vs.length
    if n = 0 then s.placeTurn ls
    else match s.aims.find? (fun a => a.1 == l.id) with
    | some (_, cs) =>
      if s.panels.any (fun p => cs.contains p.core && p.life == .halting) then s
      else match s.turnOn l [cs] vs with
        | (s1, .seated _) => ((s1.dropAim l.id).rotate l.id).endSearch
        | (s1, .wait) => s1
        | (s1, .no) => s1.dropAim l.id
    | none =>
      match s.turnOn l (s.searchSets l) vs with
      | (s1, .seated _) => (s1.rotate l.id).endSearch
      | (s1, .wait) => s1
      | (s1, .no) =>
        if vs.isEmpty && !s.blocksFor l n then s1.placeTurn ls
        else match s1.victims l n with
        | none => s1.endSearch.placeTurn ls
        | some q => s1.preemptFor l q

/-- PANEL_PLACE: the scheduler places one panel or group, or pre-empts for it (R376 to R378). -/
def execPanelPlace (die : Nat) (s : State) : Host.Outcome State Fault Refusal :=
  .next (if s.schedules die then s.placeTurn (byPrio (s.launches.filter (fun l => l.die == die))) else s)

/-! ### The end of a panel (R379, R446) -/

/-- Whether everything of a panel has retired: store queues, loads and stores on their way, credits, copies, posts and matrix words. -/
def State.retired (s : State) (p : Panel) : Bool :=
  (s.weftsOf p.id).all (fun w => w.sq.isEmpty && w.loads.isEmpty && !s.lates.any (fun q => q.weft == w.id) && !s.wins.any (fun a => a.weft == w.id) &&
    !s.rems.any (fun a => a.weft == w.id) && !s.cores.any (fun k => k.2.morder.any (fun m => m.weft == w.id))) &&
  !s.credits.any (fun k => k.panel == p.id) && s.cores.all (fun k => k.2.copyQ.all (fun q => q.all (fun c => c.panel != p.id)) &&
    k.2.netQ.all (fun q => q.all (fun c => c.panel != p.id)) && k.2.morder.all (fun m => m.panel != p.id))

/-- The `dcadd` of −1 on DONE, as an access of the panel's lowest lane, and a release at `.pkg` (R379). -/
def State.doneAdd (s : State) (p : Panel) : State :=
  if p.launch.done = 0 then s
  else
    let w := ((s.weftsOf p.id).find? (fun x => x.pweft == 0)).getD Weft.nil
    match (s.spread p.core .pkg).dcaddStep (s.reqNow w.id 0).atHome p.launch.done 0xFFFFFFFF with
    | .ok q => q.2
    | .error f => s.report "done" p.ctx [p.index, f.code.code, f.reason, p.launch.done.toNat]

/-- The futures of ended wefts' handles that nothing names any more are freed (R349). -/
def State.sweepWefts (s : State) (ws : List Weft) : State :=
  (ws.flatMap (fun w => w.handles ++ w.lanes.map (fun l => l.hh))).foldl (fun y h => match h with
    | some r => y.sweepFut r
    | none => y) s

/-- A panel has ended, and its launch with the last one: CIR is read, and reported where bits 18 to 16 are set (R446). -/
def State.countEnd (s : State) (p : Panel) : State :=
  let s1 : State := { s with launches := s.launches.map (fun l => if l.id = p.launch.id then { l with ended := l.ended + 1 } else l) }
  if s1.launches.any (fun l => l.id == p.launch.id && l.ended == l.panels) then
    let c := s1.ctx p.ctx
    let s2 : State := { s1 with launches := s1.launches.filter (fun l => l.id != p.launch.id) }
    if bitsOf c.cir.toNat 18 16 ≠ 0 then
      (s2.report "launch end" p.ctx [p.launch.entry.toNat, c.cir.toNat]).event c.func 1 0 p.ctx p.index c.cir.toNat 0
    else s2
  else s1

/-- What an ended panel held is free again: slots, blocks, pad and tiles, which keep their tags, and its save block (R379, R447). -/
def State.freePanel (s : State) (p : Panel) : State :=
  let ws := s.weftsOf p.id
  let s1 := match p.block with
    | some k => s.markBlock p.ctx k false
    | none => s
  ((s1.leaveCore p).sweepWefts ws).countEnd p

/-- PANEL_END: a panel whose lanes have all exited ends, once everything of it has retired; its end is a commit point (R379). -/
def execPanelEnd (panel : Nat) (s : State) : Host.Outcome State Fault Refusal :=
  let p := s.panel panel
  if !s.panels.any (fun q => q.id == panel) || !s.panelExited panel || p.life == .halting then .next s
  else
    let s1 := (s.deqs.filter (fun d => d.panel == panel)).foldl (fun y d => if y.deqs.contains d then y.endDeq d 0 else y)
      (s.modPanel panel (fun q => { q with life := .ending }))
    if s1.commitWaits panel || s1.credits.any (fun k => k.panel == panel && p.launch.replay && s1.creditWaits k) then
      .next (if s1.beamBusy panel then s1 else s1.openCommit panel)
    else if !s1.retired p then .next s1
    else .next ((s1.doneAdd p).freePanel p)

end Sys2Proof.Machine
end

