-- ==== Sys2Proof/Machine/Reliab.lean ====
section
/-! DEFINITION. Reliability and containment: commit points and rollbacks (R447 to R453), errors (R440, R445), tiles of other functions
(R455), function-level resets (R456), repair (R458 to R462) and owner keys (R88, R428). -/
namespace Sys2Proof.Machine

/-! ### Commit points and rollbacks (R449 to R452) -/

/-- Whether a store-queue entry that comes to leave its queue is a commit point (R148). -/
def SqOp.commits : SqOp → Bool
  | .store _ rel | .fence rel => decide (Scope.core.rank < rel.rank)
  | .atomic _ _ _ _ _ _ _ | .push _ | .enq _ _ | .dcinit _ _ | .dcadd _ _ _ | .cut _ _ _ | .graft _ | .post _ _ => true
  | .discard _ | .tile _ | .await | .copy _ _ => false

/-- Whether a REPLAY panel has come to a commit point (R148): it is pre-empted or its last lane has exited, a committing operation is the
next of a store queue, or its commit point has begun. -/
def State.commitDue (s : State) (p : Panel) : Bool :=
  p.life != .running || s.panelExited p.id || p.inOpen || (s.weftsOf p.id).any (fun w => (w.sq.head?.map (fun e => e.op.commits)).getD false)

/-- COMMIT_POINT: a REPLAY panel that has come to a commit point, and whose beam words have completed, drains its held stores, and takes
its checkpoint; what waits at its pad is let in (R148, R149, R449). The committing instruction performs after it. -/
def execCommitPoint (panel : Nat) (s : State) : Host.Outcome State Fault Refusal :=
  let p := s.panel panel
  .next (if p.launch.replay && s.commitDue p && !s.beamBusy panel then s.openCommit panel else s)

/-- Own-pad copies of a panel that were issued since its checkpoint, or that its restored store queues hold again, are cancelled
(R150, R451). -/
def State.cancelSince (s : State) (p : Panel) (k : Ckpt) : State :=
  let again := k.wefts.flatMap (fun w => w.sq.filterMap (fun e => e.op.copyId.map (·.2)))
  (s.copiesOf p).foldl (fun y q =>
    if k.mark ≤ q.2.id ∨ again.contains q.2.id then
      let y1 := (y.modCore p.core (fun c => { c with
        copyQ := c.copyQ.map (fun z => z.filter (fun x => x.id != q.2.id))
        board := c.board.filter (fun b => b.cmd != q.2.id) })).modPend p.id q.2.bar (fun n => n - (q.2.len - q.2.prog))
      match q.2.fut with
      | some r => if k.mark ≤ q.2.id then y1.endPart r q.2.prog 0 true else y1
      | none => y1
    else y) s

/-- The `bload`, `bclr` and `align` words that a panel issued since its checkpoint are abandoned, and the beam slots that they wrote
are STALE (R451). -/
def State.abandonBeam (s : State) (p : Panel) (k : Ckpt) : State :=
  let mine (m : MWord) : Bool := decide (k.mark ≤ m.id) && (s.weft m.weft).panel == p.id && !m.kind.commits
  let s1 := s.cores.foldl (fun y c => (c.2.morder.filter mine).foldl (fun z m =>
    if m.f.gm = 0 then z
    else z.modPanel m.panel (fun q => { q with bars := q.bars.modify 0 (fun r => { r with words := r.words - 1 }) })) y) s
  { s1 with cores := s1.cores.map (fun c =>
      let slots := (c.2.morder.filter mine).flatMap MWord.beamW
      (c.1, { c.2 with
        beams := c.2.beams.mapIdx (fun i b => if slots.contains i then { b with stale := true } else b)
        morder := c.2.morder.filter (fun m => !mine m) })) }

/-- Whether a lane stands at an issued word for its walks (R74). -/
def Park.onWalk : Park → Bool
  | .walk _ => true
  | .fault _ | .bind _ | .push _ _ | .rejoin _ | .heldWait _ | .barrier _ _ _ | .nwait | .held | .node | .hold | .step _ | .spill => false

/-- A weft of a checkpoint as it is restored: lanes that stood in waiter nodes, at their walks, or were held, execute their words
again; an issued word of which lanes still wait for walks, counts them no longer. -/
def Weft.fromCkpt (w : Weft) (lates : List Late) : Weft :=
  let w1 := (lates.filter (fun q => q.weft == w.id)).foldl (fun x q => (lanesOf q.lanes).foldl (fun y _ => y.partDone q.track) x) w
  { w1.unpark (fun p => p.again || p.onWalk) with
    nodes := List.replicate 4 none
    sq := w1.sq.filter (fun e => e.op != .await)
    lanes := (w1.unpark (fun p => p.again || p.onWalk)).lanes.map (fun l => { l with shadow := none }) }

/-- What a panel has sent out since its checkpoint, other than its queued commands, is given up (R451): walks, loads on their way, credits
of POPs. -/
def State.dropSince (s : State) (p : Panel) (k : Ckpt) : State :=
  let mine (wid : Nat) : Bool := (s.weft wid).panel == p.id
  let s1 := ((s.weftsOf p.id).map (fun w => w.id) ++ (s.lates.filter (fun q => mine q.weft)).map (fun q => q.track)).foldl (fun y t =>
    y.quitWalks p.core (whoFor p.core t)) s
  { s1 with
    lates := s1.lates.filter (fun q => !mine q.weft)
    slot := s1.slot.filter (fun q => !mine q.weft)
    wins := s1.wins.filter (fun a => !(mine a.weft && a.load.isSome && decide (k.mark ≤ a.id)))
    rems := s1.rems.filter (fun a => !(mine a.weft && a.load.isSome && decide (k.mark ≤ a.id)))
    credits := s1.credits.filter (fun c => !(c.panel == p.id && decide (k.mark ≤ c.id))) }

/-- The rollback of a panel to its last commit point (R451). -/
def State.rollbackTo (s : State) (p : Panel) (k : Ckpt) : State :=
  let s1 := (s.weftsOf p.id).foldl (fun y w => (List.range 4).foldl (fun z i => z.unlinkNode p.ctx (z.weft w.id) i) y) s
  let s2 := (((s1.modPanel p.id (fun q => { q with held := [] })).dropSince p k).cancelSince p k).abandonBeam p k
  let old := s2.weftsOf p.id
  let s3 : State := { s2 with wefts := s2.wefts.map (fun w => match k.wefts.find? (fun z => z.id == w.id) with
    | some z => { z.fromCkpt s.lates with halted := w.halted, step := w.step, skipAt := w.skipAt, hang := w.hang }
    | none => w) }
  let s4 := s3.write ((k.pad.zipIdx).map (fun b =>
    ⟨Loc.chip (padPa p.core (0x4000 * p.padb + b.2)) false, b.1, k.padPz.contains (b.2 / 8 * 8)⟩))
  ((s4.dropLookups).sweepWefts old).modPanel p.id (fun q => { q with attempt := q.attempt + 1, inOpen := false })

/-- A rollback whose checkpoint cannot be read: every lane stops with code 0, and the held stores are discarded (R452). -/
def State.rollbackFail (s : State) (p : Panel) : State :=
  let s1 := (s.modPanel p.id (fun q => { q with held := [] })).modCtx p.ctx (fun c => { c with cir := setCir 16 c.cir })
  (s.weftsOf p.id).foldl (fun y w => w.liveLanes.foldl (fun z i => z.stopLane w.id i ⟨.none, 0, 0, 0, 0⟩) y) s1

/-- The CIR bit of a rollback (R450). -/
def rollbackBit : RollbackCause → Nat
  | .ecc => 16
  | .beam => 17
  | .shadow _ _ => 18

/-- The shadow check of a result (R276): sign, biased exponent field, and fraction bits 22:17, of the main unit's result and of the shadow
unit's, in a lane whose shadow exponent field lies in 1 to 254. -/
def shadowFails (main formed : Word) : Bool :=
  let em := bitsOf main.toNat 30 23
  let es := bitsOf formed.toNat 30 23
  let fm := bitsOf main.toNat 22 17
  let fs := bitsOf formed.toNat 22 17
  decide (1 ≤ es) && decide (es ≤ 254) && (main.getLsbD 31 != formed.getLsbD 31 || decide (em + 1 < es) || decide (es + 1 < em) ||
    (em == es && (decide (fm + 2 < fs) || decide (fs + 2 < fm))))

/-- A lane's result has failed the shadow check: the lane takes SHADOW, with the PC of the checked word, before it issues again
(R277). -/
def State.shadowTrap (s : State) (wid lane : Nat) : State :=
  s.modLane wid lane (fun l => match l.st, l.shadow with
    | .exited, _ => l
    | .active, some q | .parked _, some q | .stopped _, some q =>
      { l with shadow := none, trap := l.trap ++ [(⟨.shadow, 0, 0, 0, 0⟩, q.1)] }
    | .active, none | .parked _, none | .stopped _, none => l)

/-- Whether what the shadow unit forms for a lane's newest word fails its check: one of the checked forms, not yet followed by
another (R276, R277). -/
def State.shadowBad (s : State) (wid lane : Nat) (formed : Word) : Bool :=
  match ((s.weft wid).lane lane).shadow with
  | some q => shadowFails q.2 formed
  | none => false

/-- Whether an event in a panel rolls it back (R450). -/
def Panel.rollsBack (p : Panel) : Bool := p.launch.replay && decide (p.attempt < 3) && p.ckpt.isSome

/-- ROLLBACK: a REPLAY panel whose attempt number is below 3 returns to its last commit point; at attempt 3 the event acts as it would
outside REPLAY (R450 to R452). -/
def execRollback (panel : Nat) (cause : RollbackCause) (s : State) : Host.Outcome State Fault Refusal :=
  let p := s.panel panel
  if p.rollsBack then
    match p.ckpt with
    | none => .next s
    | some k =>
      .next (if k.valid then (s.rollbackTo p k).modCtx p.ctx (fun c => { c with cir := setCir (rollbackBit cause) c.cir })
        else s.rollbackFail p)
  else match cause with
    | .ecc => .next s
    | .beam => .next s
    | .shadow w l => .next (if (s.weft w).panel = panel then s.shadowTrap w l else s)

/-! ### Errors (R440, R445) -/

/-- A granule becomes poisoned (R440). -/
def State.poisonAt (s : State) (g : Nat) : State :=
  if s.mem.poison.contains g then s else { s with mem := { s.mem with poison := g :: s.mem.poison } }

/-- An error found in a panel's own storage: a rollback, or poison (R440, R450). -/
def State.eccIn (s : State) (p : Panel) (f : State → State) : State :=
  if p.rollsBack then { s with agenda := .rollback p.id .ecc :: s.agenda } else f s

/-- The sector in the staging buffer of a queue's running command is poisoned, and lands so (R440, R441). -/
def State.poisonSector (s : State) (core q : Nat) : State :=
  match ((s.core core).copyQ.getD q []).head? with
  | none => s
  | some c =>
    if c.fence.isSome || c.cancel || c.stall.isSome || (s.panel c.panel).life == .halting then s
    else match (s.cmdEnds (s.copyReq core c) c).toOption.map (fun e =>
        s.endLocs (s.copyReq core c) .store (e.dd, e.dseg, e.doff) c.prog c.sector) with
      | none => s
      | some (.fault _) => s
      | some (.miss _) => s
      | some (.ok ls) =>
        let s1 := s.landSector core q c
        let landed := !((s1.core core).copyQ.getD q []).any (fun x => x.id == c.id && x.prog == c.prog)
        if landed then ((ls.map (Loc.swz c.swz)).filterMap (fun l => (granule l).map (·.1))).foldl (fun y g => y.poisonAt g) s1 else s1

/-- ECC_ERROR: a corrected error is counted; an uncorrectable one poisons its granule, drops the residency of an I-pad word's segment,
or rolls a REPLAY panel back (R440, R445, R450). Also what no code sees: a failed shadow check and a beam mismatch (R277, R339). -/
def execEccError (e : EccTarget) (s : State) : Host.Outcome State Fault Refusal :=
  match e with
  | .corrected => .next (s.report "corrected" 0 [])
  | .hbmLine pa => .next (if pa < hbmEnd then s.poisonAt (pa / 64 * 64) else s)
  | .padWord core off =>
    if Config.padBytes ≤ off then .next s
    else
      let go (y : State) : State := y.poisonAt (padPa core off / 8 * 8)
      match s.padOwner core off with
      | some p => .next (s.eccIn p go)
      | none => .next (go s)
  | .reg weft lane n =>
    let k := keyV lane n
    if s.hasWeft weft && decide (lane < 32) && decide (n < (s.panel (s.weft weft).panel).alloc) then
      .next (s.eccIn (s.panel (s.weft weft).panel) (fun y => y.modWeft weft (fun w =>
        { w with poison := if w.poison.contains k then w.poison else k :: w.poison })))
    else .next s
  | .accElem core tile elem => .next (if tile < 8 ∧ elem < 0x2000 then s.poisonAt (tilePa core tile + 4 * elem) else s)
  | .partElem core tile elem => .next (if tile < 4 ∧ elem < 0x2000 then s.poisonAt (tilePa core (8 + tile) + 8 * elem) else s)
  | .staging core queue => .next (s.poisonSector core queue)
  | .ipad core off => .next (s.modCore core (fun k => { k with resid := k.resid.filter (fun r => !(decide (r.off ≤ off) &&
      decide (off < r.off + r.len))) }))
  | .checkpoint panel => .next (s.modPanel panel (fun p => { p with ckpt := p.ckpt.map (fun k => { k with valid := false }) }))
  | .shadow weft lane formed =>
    let p := s.panel (s.weft weft).panel
    if !s.hasWeft weft || !s.shadowBad weft lane formed then .next s
    else if p.rollsBack then .next { s with agenda := .rollback p.id (.shadow weft lane) :: s.agenda }
    else .next (s.shadowTrap weft lane)
  | .beam core id =>
    match s.mword core id with
    | some m => .next (if m.started && !m.ended && !m.beamR.isEmpty then s.modMWord core id (fun q => { q with err := true }) else s)
    | none => .next s

/-! ### Tiles of another function (R455) -/

/-- A tile of another function is spilled to its owner's home, zeroed and retagged for a context; then what waited for it goes on, or is
declined where the spill fails (R409, R455). -/
def State.takeTile (s : State) (core t : Nat) (c : CtxId) (go decline : State → State) : State :=
  match s.spillTile core t with
  | .ok s1 => go (s1.zeroTile core t c)
  | .page f => s.report "page" c [core, t, f.addr.toNat, f.reason]
  | .fail => decline s

/-- The lanes of a weft that wait for a tile of another function. -/
def Weft.tileWaiters (w : Weft) : List (Nat × LFault) :=
  (List.range 32).filterMap (fun i => match (w.lane i).trap.head? with
    | some f => if (w.lane i).st == .parked .spill && f.1.code == .accown then some (i, f.1) else none
    | none => none)

/-- CROSS_FUNCTION_ACCOWN: the die controller serves a suspended matrix word, or the parked lanes of a weft, that met a tile of another
function, or a word of whose weft no lane is left to take the fault (R330, R455); it waits while the controller restarts (R462). -/
def execCrossFunctionAccown (id : Nat) (s : State) : Host.Outcome State Fault Refusal :=
  match s.cores.find? (fun k => k.2.morder.any (fun m => m.id == id && m.susp)) with
  | some k =>
    match s.mword k.1 id with
    | none => .next s
    | some m =>
      match (s.mwTouches k.1 m).find? (fun t => (s.tag k.1 t).owner != 0 && (s.tag k.1 t).owner != m.ctx) with
      | none => .next (s.modMWord k.1 id (fun q => { q with susp := false }))
      | some t =>
        let o := (s.tag k.1 t).owner
        if ((s.ctx o).func = (s.ctx m.ctx).func ∧ (s.weft m.weft).takers ≠ []) ∨ (s.die (coreDie k.1)).restarting = true then .next s
        else .next (s.takeTile k.1 t m.ctx (fun y => y.modMWord k.1 id (fun q => { q with susp := false })) (fun y =>
          (y.modMWord k.1 id (fun q => { q with susp := false, ended := true })).stopLane m.weft m.lane
            ⟨.accown, 0, 0, t + o.toNat * 256, BitVec.ofNat 64 k.1⟩))
  | none =>
    let w := s.weft id
    if (s.die (coreDie w.core)).restarting then .next s
    else .next (w.tileWaiters.foldl (fun y q =>
      let core := bitsOf q.2.extra.toNat 9 0
      let c := (s.panel w.panel).ctx
      let free (z : State) : State := z.modLane id q.1 (fun l => { l with st := .active, trap := l.trap.drop 1 })
      if (y.tag core (q.2.info % 16)).owner = c then free y
      else y.takeTile core (q.2.info % 16) c free (fun z => z.stopLane id q.1 q.2)) s)

/-! ### Owner keys (R88, R428) -/

/-- The association keys bound to a key index are erased; the PDCs that use them close, and their posts end with FAULT, RIGHTS
(R428). -/
def State.eraseKeys (s : State) (key : Nat) : State :=
  let sas := (s.assoc.filter (fun a => a.2 == key)).map (·.1)
  let uses (c : CtxId) (epi : Nat) : Bool :=
    let sa := bitsOf (s.endpoint c epi) 335 320
    sa != 0 && sas.contains sa
  let s1 := s.cores.foldl (fun y k => (k.2.netQ.zipIdx).foldl (fun z q => (q.1.filter (fun p => uses p.ctx p.req.epi)).foldl (fun a p =>
    a.endPost k.1 q.2 p FaultCode.rights.code false) z) y) s
  { s1 with
    assoc := s1.assoc.filter (fun a => a.2 != key)
    pdcs := s1.pdcs.filter (fun d => !uses d.ctx d.epi) }

/-- KEY_CREATE: an EMPTY slot becomes LIVE with a new key; in any other state the command fails and is reported (R88). -/
def execKeyCreate (key : Nat) (s : State) : Host.Outcome State Fault Refusal :=
  let k := s.key key
  .next (if key < 4096 ∧ k.1 = .empty then { s with keys := sput (.empty, 0) s.keys key (.live, k.2 + 1) }
    else s.report "key create failed" 0 [key])

/-- KEY_DESTROY: a LIVE slot becomes DRAINING (R88). -/
def execKeyDestroy (key : Nat) (s : State) : Host.Outcome State Fault Refusal :=
  let k := s.key key
  .next (if k.1 = .live then ({ s with keys := sput (.empty, 0) s.keys key (.draining, k.2) } : State).eraseKeys key else s)

/-- Whether a place is reached under a key index. -/
def Loc.underKey (key : Nat) : Loc → Bool
  | .hbm _ k _ => k == key
  | .chip _ _ | .zero | .host _ _ | .remote _ _ _ _ _ => false

/-- Whether requests tagged with a key index have not drained. -/
def State.keyBusy (s : State) (key : Nat) : Bool :=
  s.wefts.any (fun w => w.sq.any (fun e => e.op.writes.any (fun q => q.loc.underKey key) || e.op.atomLocs.any (Loc.underKey key)) ||
    w.loads.any (fun l => l.wait != .ready && l.bytes.any (fun b => b.1.underKey key))) ||
  s.panels.any (fun p => p.held.any (fun h => h.2.op.writes.any (fun q => q.loc.underKey key))) ||
  s.wins.any (fun a => a.bytes.any (fun q => q.loc.underKey key))

/-- A key index overwritten in the base dies: its slot is EMPTY, and its lines leave the die stores without write-back (R88). -/
def State.voidKey (s : State) (key : Nat) : State :=
  let s1 := s.dropLines (fun l => l.okey == key)
  { s1 with
    keys := sput (.empty, 0) s1.keys key (.empty, (s1.key key).2 + 1)
    stale := s1.stale.filter (fun e => e.okey != key) }

/-- KEY_DRAIN_COMPLETE: a DRAINING slot whose requests have drained becomes EMPTY, and its key is overwritten (R88). -/
def execKeyDrainComplete (key : Nat) (s : State) : Host.Outcome State Fault Refusal :=
  .next (if (s.key key).1 = .draining ∧ s.keyBusy key = false then s.voidKey key else s)

/-! ### Function-level reset (R456, R469) -/

/-- The entries that handlers of a panel's lanes were to bind: their context is torn down, so they are bound FAILED (R52). -/
def State.failBinds (s : State) (c : CtxId) (ws : List Weft) : State :=
  ws.foldl (fun y w => w.lanes.foldl (fun z l => z.failLane c l) y) s

/-- The panels of some contexts are discarded without a save, with what of them is on its way (R456). -/
def State.discardPanels (s : State) (mine : CtxId → Bool) : State :=
  let ps := s.panels.filter (fun p => mine p.ctx)
  let ids := (s.wefts.filter (fun w => mine (s.panel w.panel).ctx)).map (fun w => w.id)
  let s0 := (s.saved.filter (fun v => mine v.panel.ctx)).foldl (fun y v => y.failBinds v.panel.ctx v.wefts)
    (ps.foldl (fun y p => y.failBinds p.ctx (y.weftsOf p.id)) s)
  let sq := (s0.lates.filter (fun q => ids.contains q.weft)).foldl (fun y q =>
    y.quitWalks (y.weft q.weft).core (whoFor (y.weft q.weft).core q.track)) s0
  let s1 := ps.foldl (fun y p => (y.clearShare ⟨p.core, 0, 0, p.padb, 0, 0⟩ p.launch.padu).leaveCore p) sq
  { s1 with
    lates := s1.lates.filter (fun q => !ids.contains q.weft)
    slot := s1.slot.filter (fun q => !ids.contains q.weft)
    credits := s1.credits.filter (fun c => !ps.any (fun p => p.id == c.panel))
    wins := s1.wins.filter (fun a => !ids.contains a.weft)
    rems := s1.rems.filter (fun a => !ids.contains a.weft)
    saved := s1.saved.filter (fun v => !mine v.panel.ctx)
    launches := s1.launches.filter (fun l => !mine l.ctx) }

/-- The structures of a core cleared of some contexts (R456): commands, residencies, caches, send slots, and tiles with their spill
homes. -/
def State.clearCore (s : State) (mine : CtxId → Bool) (core : Nat) : State :=
  let k := s.core core
  let posts := (k.netQ.flatten.filter (fun p => mine p.ctx)).map (fun p => p.id)
  let res := k.resid.filter (fun e => mine e.ctx)
  let s1 := res.foldl (fun y e => y.write (wrs ((List.range e.len).map (fun i => Loc.chip (coreBlock core + ipadOff + e.off + i) false))
    (List.replicate e.len 0))) s
  let s2 := s1.modCore core (fun c => { c with
    mqs := c.mqs.map (fun x => if mine (mqsCtx x) && x.getLsbD 63 then 0 else x)
    mqIn := c.mqIn.filter (fun m => s.hasWeft m.weft)
    resid := c.resid.filter (fun e => !mine e.ctx)
    tlbDesc := c.tlbDesc.filter (fun e => !mine e.1)
    tlbPage := c.tlbPage.filter (fun e => !mine e.1)
    board := c.board.filter (fun b => !posts.contains b.cmd)
    netQ := c.netQ.map (fun q => q.filter (fun p => !mine p.ctx))
    morder := c.morder.filter (fun m => !mine m.ctx)
    homes := c.homes.map (fun h => h.filter (fun z => !mine z.1)) })
  (List.range 12).foldl (fun y t =>
    let o := (y.tag core t).owner
    if o ≠ 0 ∧ mine o = true then y.zeroTile core t 0 else y) s2

/-- The reset of one function (R456, R469): the host's registers of it return to their reset values and vector 1 is sent. -/
def State.resetFn (s : State) (n : Nat) : State :=
  let mine (c : CtxId) : Bool := s.ctxs.any (fun x => x.id == c && x.func == n)
  let cs := s.ctxs.filter (fun x => x.func == n)
  let s1 := s.discardPanels mine
  let s2 := s1.cores.foldl (fun y k => y.clearCore mine k.1) s1
  let keys := cs.flatMap (fun c => [c.tag.toNat, bitsOf c.root.toNat 11 0])
  let s3 := keys.foldl (fun y k => if (y.key k).1 = .empty then y else (y.voidKey k).eraseKeys k) s2
  let s4 : State := { s3 with
    futs := s3.futs.map (fun f => if f.2.used && mine f.2.ctx then (f.1, { Fut.free with gen := (f.2.gen + 1) % 2 ^ 32 }) else f)
    deqs := s3.deqs.filter (fun d => !mine d.ctx)
    pubs := s3.pubs.filter (fun p => !mine p.ctx)
    shoots := s3.shoots.filter (fun k => !mine k.ctx)
    walks := s3.walks.filter (fun w => !mine w.ctx)
    pdcs := s3.pdcs.filter (fun d => !mine d.ctx)
    atsWait := s3.atsWait.filter (fun a => a.2.2.1 != n)
    lqTab := s3.lqTab.filter (fun e => !mine e.2.1)
    lqBad := s3.lqBad.filter (fun k => match lookupKey k s3.lqTab with
      | some e => !mine e.1
      | none => true)
    ctxs := s3.ctxs.filter (fun c => c.func != n) }
  { s4.modFn n (fun _ => Fn.reset) with hostOut := s4.hostOut ++ [.msix n 1] }

/-- FUNCTION_LEVEL_RESET: a virtual function's panels, tiles, keys and tables are cleared; that of function 0 resets every function
(R456, R469). -/
def execFunctionLevelReset (fn : Nat) (s : State) : Host.Outcome State Fault Refusal :=
  if s.boot ≠ 7 ∨ 16 ≤ fn then .next s
  else if fn = 0 then .next ((List.range 16).foldl (fun y n => y.resetFn n) s)
  else .next (s.resetFn fn)

/-! ### Repair in service (R458 to R462) -/

/-- The cores of a quad. -/
def quadCores (die quad : Nat) : List Nat := (List.range 4).map (fun c => coreOf die quad c)

/-- The tiles of a core spilled to their homes and unowned (R458); none where a spill waits for the pager. -/
def State.emptyTiles (s : State) (core : Nat) : List Nat → Option State
  | [] => some s
  | t :: ts =>
    if (s.tag core t).owner = 0 then s.emptyTiles core ts
    else match s.spillTile core t with
      | .ok s1 => (s1.zeroTile core t 0).emptyTiles core ts
      | .page _ => none
      | .fail => ((s.report "spill failed" (s.tag core t).owner [core, t]).zeroTile core t 0).emptyTiles core ts

/-- A core of a drained quad cleared: I-pad, beam stores and shuttle buffer (R458). -/
def State.clearBeam (s : State) (core : Nat) : State :=
  s.modCore core (fun k => { k with resid := [], beams := List.replicate 16 Macro.reset, shuttle := 0 })

/-- QUAD_DRAIN: nothing more is placed on the quad; its panels are halted for a save; once they have gone, its tiles are spilled and its
structures cleared (R458). -/
def execQuadDrain (die quad : Nat) (s : State) : Host.Outcome State Fault Refusal :=
  let s1 := s.modDie die (fun d => { d with drained := if d.drained.contains quad then d.drained else d.drained ++ [quad] })
  let ps := s1.panels.filter (fun p => (quadCores die quad).contains p.core)
  if !ps.isEmpty then
    .next (ps.foldl (fun y p => if (y.panel p.id).life = .running ∧ y.savable p = true then y.haltGroup p else y) s1)
  else
    let go (acc : Option State) (c : Nat) : Option State :=
      acc.bind (fun y => (y.emptyTiles c (List.range 12)).map (fun z => z.clearBeam c))
    match (quadCores die quad).foldl go (some s1) with
    | some s2 => .next (s2.report "quad drained" 0 [die, quad])
    | none => .next (s1.report "page" 0 [die, quad])

/-- Whether a quad is drained and holds no context (R458). -/
def State.quadEmpty (s : State) (die quad : Nat) : Bool :=
  (s.die die).drained.contains quad && !s.panels.any (fun p => (quadCores die quad).contains p.core) &&
    (quadCores die quad).all (fun c => (List.range 12).all (fun t => (s.tag c t).owner == 0))

/-- Good healds of a map. -/
def goodCount (g : BitVec 16) : Nat := ((List.range 16).filter (fun i => g.getLsbD i)).length

/-- A quad's cores get heald maps, and the quad returns to service (R459); a core with fewer than 8 good healds is disabled (R167). -/
def State.quadBack (s : State) (die quad : Nat) (good : List (BitVec 16)) : State :=
  ((good.zipIdx).foldl (fun y g => y.modCore (coreOf die quad g.2) (fun k =>
    { k with good := g.1, absent := decide (goodCount g.1 < 8) })) s).modDie die (fun d =>
    { d with drained := d.drained.filter (· != quad) })

/-- A failed quad is replaced by a spare; without one the logical quad becomes absent (R459). -/
def State.quadReplace (s : State) (die quad : Nat) (good : List (BitVec 16)) : State :=
  if 0 < (s.die die).spares then (s.quadBack die quad good).modDie die (fun d => { d with spares := d.spares - 1 })
  else ((quadCores die quad).foldl (fun y c => y.modCore c (fun k => { k with absent := true })) s).modDie die (fun d =>
    { d with quads := d.quads - 1, drained := d.drained.filter (· != quad) })

/-- QUAD_REPAIR: a drained quad returns with new heald maps, is replaced by a spare, or becomes absent (R168, R459); reported as an event
of kind 7. -/
def execQuadRepair (die quad : Nat) (r : RepairResult) (s : State) : Host.Outcome State Fault Refusal :=
  if !s.quadEmpty die quad then .next s
  else
    let s1 := match r with
      | .refuse a b c d =>
        if [a, b, c, d].all (fun g => decide (8 ≤ goodCount g)) then s.quadBack die quad [a, b, c, d]
        else s.quadReplace die quad (List.replicate 4 CoreSt.reset.good)
      | .replace a b c d => s.quadReplace die quad [a, b, c, d]
    .next ((s1.report "quad repair" 0 [die, quad]).event 0 7 0 0 0 0 0)

/-- HBM_ROW_SPARE: a row's addresses are redirected to a spare row that holds a copy of it (R461); no byte changes. -/
def execHbmRowSpare (stack row : Nat) (s : State) : Host.Outcome State Fault Refusal :=
  .next (if s.mem.rows.contains (stack, row) then s else { s with mem := { s.mem with rows := s.mem.rows ++ [(stack, row)] } })

/-- FIRMWARE_UPDATE: a signed image is installed and the die's controller restarts, one die at a time; a failed image leaves the old
firmware running and is reported (R462, R488). -/
def execFirmwareUpdate (die : Nat) (signed : Bool) (s : State) : Host.Outcome State Fault Refusal :=
  if s.dies.any (fun d => d.restarting) then .next s
  else if signed then
    .next { s.modDie die (fun d => { d with restarting := true, firmware := s.nextId }) with nextId := s.nextId + 1 }
  else .next ((s.report "firmware" 0 [die]).event 0 7 0 0 0 0 0)

/-- FIRMWARE_RESTART_END: the die's controller runs again (R462). -/
def execFirmwareRestartEnd (die : Nat) (s : State) : Host.Outcome State Fault Refusal :=
  .next (s.modDie die (fun d => { d with restarting := false }))

end Sys2Proof.Machine
end

