-- ==== Sys2Proof/Machine/HostEv.lean ====
section
/-! DEFINITION. The host link (R463 to R468): BAR0 registers, the doorbell, the event ring, the aperture and address translation. -/
namespace Sys2Proof.Machine

/-- Whether a function's BARs take accesses: after bring-up, and for a virtual function that SR-IOV has enabled (R464, R488). -/
def State.barOpen (s : State) (fn : Nat) : Bool := s.boot == 7 && decide (fn < 16) && (fn == 0 || Config.vfEnabled fn)

/-! ### The doorbell (R466) -/

/-- A doorbell fault: nothing changes but for the event (R466, R468). -/
def State.doorbellFault (s : State) (fn : Nat) (v : DWord) : State := s.event fn 6 0 0 0 v.toNat 0

/-- A write of LQDB: TAIL of a live launch-queue entry of the function takes the value, if the ring holds as many records (R466). -/
def State.doorbell (s : State) (fn : Nat) (v : DWord) : State :=
  let die := bitsOf v.toNat 21 20
  let tail := bitsOf v.toNat 15 0
  match lookupKey (die * 16 + bitsOf v.toNat 19 16) s.lqTab with
  | none => s.doorbellFault fn v
  | some (c, seg) =>
    match s.lqQueue die c seg with
    | none => s.doorbellFault fn v
    | some q =>
      if (s.ctx c).func ≠ fn ∨ bitsOf v.toNat 63 22 ≠ 0 ∨ 2 ^ q.log2n < (tail + 65536 - q.head) % 65536 then s.doorbellFault fn v
      else (s.putTq c seg { q with tail := tail }).queueStep c seg stepFuel

/-- LAUNCH_DOORBELL (R466). -/
def execLaunchDoorbell (fn : Nat) (value : DWord) (s : State) : Host.Outcome State Fault Refusal :=
  .next (if s.barOpen fn then s.doorbell fn value else s)

/-! ### The event ring (R468) -/

/-- Held records enter the ring while it has room (R468). -/
def State.releaseHeld (s : State) (fn : Nat) : Nat → State
  | 0 => s
  | n + 1 => match (s.fn fn).held with
    | [] => s
    | r :: rs =>
      if (s.fn fn).room then ((s.modFn fn (fun f => { f with held := rs })).putEvent fn r).releaseHeld fn n else s

/-- Whether EVCTL holds a value: reserved bits 0, and LOG2E 0 or 7 to 16 (R464). -/
def evCtlOk (v : DWord) : Bool :=
  bitsOf v.toNat 31 5 == 0 && (bitsOf v.toNat 4 0 == 0 || (decide (7 ≤ bitsOf v.toNat 4 0) && decide (bitsOf v.toNat 4 0 ≤ 16)))

/-- A write of EVCTL lets held records go (R468). -/
def State.putEvCtl (s : State) (fn : Nat) (v : DWord) : State :=
  if evCtlOk v then (s.modFn fn (fun f => { f with evCtl := v })).releaseHeld fn Config.heldEvents else s

/-- EVCTL_WRITE (R464, R468). -/
def execEvctlWrite (fn : Nat) (value : DWord) (s : State) : Host.Outcome State Fault Refusal :=
  .next (if s.barOpen fn then s.putEvCtl fn value else s)

/-! ### APSEG and the other registers (R464) -/

/-- A write of a function's APSEG by function 0: reserved bits must be 0, and the context must belong to the function (R464). -/
def State.putApseg (s : State) (fn : Nat) (v : DWord) : State :=
  let c : CtxId := BitVec.ofNat 16 (bitsOf v.toNat 15 0)
  let s1 := s.ensureCtx c
  if bitsOf v.toNat 39 16 ≠ 0 then s
  else if segOf v = 0 then s.modFn fn (fun f => { f with apseg := v })
  else if (s1.ctx c).func = fn then s1.modFn fn (fun f => { f with apseg := v })
  else s1

/-- APSEG_WRITE: function 0 writes the APSEG of a function (R464). -/
def execApsegWrite (fn : Nat) (value : DWord) (s : State) : Host.Outcome State Fault Refusal :=
  .next (if s.barOpen 0 && s.barOpen fn then s.putApseg fn value else s)

/-- An aligned 8-byte write of BAR0 (R464): a write of any other offset, or of a register that is read-only, is dropped. -/
def State.bar0 (s : State) (fn off : Nat) (v : DWord) : State :=
  if off = 0x0000 then s.doorbell fn v
  else if off = 0x0008 then (if bitsOf v.toNat 11 0 = 0 then s.modFn fn (fun f => { f with evBase := v }) else s)
  else if off = 0x0010 then s.putEvCtl fn v
  else if fn = 0 ∧ off = 0x0028 then s.putApseg 0 v
  else if fn = 0 ∧ off % 0x1000 = 0x28 ∧ s.barOpen (off / 0x1000) = true then s.putApseg (off / 0x1000) v
  else s

/-- BAR0_WRITE (R464). -/
def execBar0Write (fn off : Nat) (value : DWord) (s : State) : Host.Outcome State Fault Refusal :=
  .next (if s.barOpen fn then s.bar0 fn off value else s)

/-! ### The aperture (R465) -/

/-- The bytes that an access of BAR2 reaches, checked as a store or load of the aperture's context in system mode (R465, R466: the host
writes launch records into task queues), or its fault with the address. -/
def State.aperture (s : State) (fn : Nat) (cls : Cls) (off len : Nat) : Except (LFault × CtxId) (List Loc) :=
  let v := (s.fn fn).apseg
  let c : CtxId := BitVec.ofNat 16 (bitsOf v.toNat 15 0)
  let a := mkAddr (segOf v) (BitVec.ofNat 40 off)
  if segOf v ≠ 0 ∧ (s.ctx c).func ≠ fn then .error (⟨.rights, 3, a, 0, 0⟩, c)
  else match s.rxCheck { rxReq 0 c with sys := true } cls (mkAddr (segOf v) 0) off len 1 with
    | .fault f => .error ({ f with addr := a }, c)
    | .miss _ => .error (pageFault 1 a, c)
    | .ok ls => if ls.all (fun l => match l with
        | .hbm _ _ _ | .zero => true
        | .chip _ _ | .host _ _ | .remote _ _ _ _ _ => false) then .ok ls else .error (⟨.rights, 1, a, 0, 0⟩, c)

/-- An aperture fault (R465, R468). -/
def State.apertureFault (s : State) (fn : Nat) (f : LFault × CtxId) : State := s.event fn 5 f.1.reason f.2 0 0 f.1.addr.toNat

/-- Whether an access lies in the 4 GiB of BAR2 (R463). -/
def inBar2 (off len : Nat) : Bool := decide (0 < len) && decide (off + len ≤ 2 ^ 32)

/-- HOST_APERTURE_WRITE: a store, performed throughout the package; one that fails is dropped, and reported (R465). -/
def execHostApertureWrite (fn off : Nat) (bytes : List Byte) (s : State) : Host.Outcome State Fault Refusal :=
  if s.barOpen fn && inBar2 off bytes.length then
    match s.aperture fn .store off bytes.length with
    | .ok ls => .next (s.landAll 0 (wrs ls bytes))
    | .error f => .next (s.apertureFault fn f)
  else .next s

/-- HOST_APERTURE_READ: a load; one that fails returns all ones, and is reported (R465); until the BARs open a read returns 0
(R488). -/
def execHostApertureRead (fn off len : Nat) (s : State) : Host.Outcome State Fault Refusal :=
  let done (y : State) (bs : List Byte) : State := { y with hostOut := y.hostOut ++ [.readDone fn bs] }
  if !inBar2 off len then .next s
  else if s.boot ≠ 7 then .next (done s (List.replicate len 0))
  else if s.barOpen fn then
    match s.aperture fn .load off len with
    | .ok ls => .next (done s (ls.map s.byteAt))
    | .error f => .next (done (s.apertureFault fn f) (List.replicate len 0xFF))
  else .next s

/-! ### Address translation (R467) -/

/-- Entries of a die's translation cache (R463). -/
def atsEntries : Nat := 2048

/-- ATS_TRANSLATION_RESPONSE: the page enters the die's translation cache; a refusal stays until a requester has taken it (R467). -/
def execAtsTranslationResponse (id : Nat) (page : Option Nat) (s : State) : Host.Outcome State Fault Refusal :=
  match s.atsWait.find? (fun e => e.1 == id) with
  | none => .next s
  | some (_, die, fn, p) =>
    .next (({ s with atsWait := s.atsWait.filter (fun e => e.1 != id) } : State).modDie die (fun d =>
      { d with ats := ((fn, p, page) :: d.ats.filter (fun e => !(e.1 == fn && e.2.1 == p))).take atsEntries }))

/-- Whether a place lies in a granted page of host memory for a function. -/
def Loc.inHost (fn page : Nat) : Loc → Bool
  | .host f a => f == fn && a / 4096 == page
  | .hbm _ _ _ | .chip _ _ | .zero | .remote _ _ _ _ _ => false

/-- Whether an access checked against an entry of a die's translation cache has not been sent (R467). -/
def State.hostPending (s : State) (die fn page : Nat) : Bool :=
  (s.wefts.filter (fun w => coreDie w.core == die)).any (fun w =>
    w.sq.any (fun e => e.op.writes.any (fun x => x.loc.inHost fn page) || e.op.atomLocs.any (fun l => l.inHost fn page)) ||
    w.loads.any (fun l => l.bytes.any (fun b => b.2.isNone && b.1.inHost fn page))) ||
  s.wins.any (fun a => coreDie a.core == die && a.bytes.any (fun x => x.loc.inHost fn page)) ||
  (s.panels.filter (fun p => coreDie p.core == die)).any (fun p =>
    p.held.any (fun e => e.2.op.writes.any (fun x => x.loc.inHost fn page)))

/-- ATS_INVALIDATION: it completes once every access checked against the entries of the page has been sent (R467). -/
def execAtsInvalidation (die page : Nat) (s : State) : Host.Outcome State Fault Refusal :=
  let es := (s.die die).ats.filter (fun e => e.2.1 == page)
  if es.any (fun e => match e.2.2 with
      | some g => s.hostPending die e.1 g
      | none => false) then .next s
  else
    let s1 := s.modDie die (fun d => { d with ats := d.ats.filter (fun e => e.2.1 != page) })
    .next { s1 with hostOut := s1.hostOut ++ [.atsDone die page] }

end Sys2Proof.Machine
end

