-- ==== Sys2Proof/Machine/Power.lean ====
section
/-! DEFINITION. Time input (R470), power and temperature (R487), cold reset (R488) and attestation (R489). -/
namespace Sys2Proof.Machine

/-! ### Time input (R470) -/

/-- PTP_MESSAGE: the time unit follows the master: TIME is slewed towards it, and never moves backwards (R470). -/
def execPtpMessage (master : Nat) (s : State) : Host.Outcome State Fault Refusal :=
  .next { s with
    time := s.time + min (Config.freeTick s.fresh) (master - s.time)
    fresh := s.fresh + 1
    holdover := false }

/-- HOLDOVER_REPORT: one second without messages is reported, and TIME runs on the oscillator (R470). -/
def execHoldoverReport (s : State) : Host.Outcome State Fault Refusal := .next (({ s with holdover := true } : State).report "holdover" 0 [])

/-! ### Power and temperature (R487) -/

/-- THERMAL_THROTTLE: the die's controller withholds issue slots and delays treadle steps (R487). -/
def execThermalThrottle (die : Nat) (s : State) : Host.Outcome State Fault Refusal :=
  .next (s.modDie die (fun d => { d with throttled := true }))

/-- THROTTLE_RELEASE (R487). -/
def execThrottleRelease (die : Nat) (s : State) : Host.Outcome State Fault Refusal :=
  .next (s.modDie die (fun d => { d with throttled := false }))

/-- Every lane of a panel that has neither exited nor stopped stops with code 0 (R408, R487). -/
def State.stopPanel (s : State) (pid : Nat) : State :=
  (s.weftsOf pid).foldl (fun y w => w.liveLanes.foldl (fun z i => match (w.lane i).st with
    | .stopped _ => z
    | .active | .parked _ | .exited => z.stopLane w.id i ⟨.none, 0, 0, 0, 0⟩) y) s

/-- THERMAL_TRIP: the die's panels are halted without a save and every lane of them stops; the trip is reported, and the die stays halted
until cold reset (R487). -/
def execThermalTrip (die : Nat) (s : State) : Host.Outcome State Fault Refusal :=
  if Config.dies ≤ die then .next s
  else
    let ps := s.panels.filter (fun p => coreDie p.core == die)
    let s1 := s.modDie die (fun d => { d with tripped := true })
    let s2 := ps.foldl (fun y p => (y.haltPanel p.id).stopPanel p.id) s1
    .next ((s2.report "thermal trip" 0 [die]).event 0 7 0 0 0 0 0)

/-! ### Cold reset (R488) -/

/-- A core after bring-up: cleared; its heald map and absence come from the fuses and the test (R167, R488). -/
def CoreSt.cold (k : CoreSt) : CoreSt := { CoreSt.reset with good := k.good, absent := k.absent }

/-- A die after bring-up: its quad map and firmware come from the fuses and the boot flash (R488). -/
def DieSt.cold (d : DieSt) : DieSt := { DieSt.reset with spares := d.spares, quads := d.quads, firmware := d.firmware }

/-- Memory after bring-up: every on-chip structure cleared; HBM lines keep what was last written, under keys that are gone (R88, R488),
and the recorded row spares stand (R461). -/
def MemSt.cold (m : MemSt) : MemSt :=
  { m with bytes := m.bytes.filter (fun e => decide (e.1 < hbmEnd)), poison := m.poison.filter (fun g => decide (g < hbmEnd)) }

/-- The package after bring-up: as after reset, but for the fuses, HBM, what has left the package, and every key slot EMPTY (R488). -/
def State.cold (s : State) : State :=
  { State.reset with
    mem := s.mem.cold
    cores := s.cores.foldl (fun m c => sput CoreSt.reset m c.1 c.2.cold) []
    keys := s.keys.map (fun k => (k.1, (KeySt.empty, k.2.2 + 1)))
    wire := s.wire
    hostOut := s.hostOut
    dies := s.dies.map DieSt.cold
    reports := s.reports
    fresh := s.fresh
    nextId := s.nextId }

/-- The package whose bring-up ends at a step that fails, by the row of R488. -/
def State.bootFailed (s : State) (f : BootFail) : State :=
  match f with
  | .fuses die => { s.modDie die (fun d => { d with tripped := true }) with boot := 0 }
  | .firmware => { s with boot := 1 }
  | .hbm stack => { s.report "stack" 0 [stack] with boot := 2 }
  | .quad die quad => { s.quadReplace die quad (List.replicate 4 CoreSt.reset.good) with boot := 3 }
  | .random => { s with boot := 4 }
  | .hostLink => { s with boot := 5 }

/-- COLD_RESET: the bring-up sequence to its end, or to the step that fails, which ends it at once (R488). -/
def execColdReset (fail : Option BootFail) (s : State) : Host.Outcome State Fault Refusal :=
  match fail with
  | none => .next s.cold
  | some f => .next (s.cold.bootFailed f)

/-! ### Attestation (R489) -/

/-- Bytes 0 to 0x17F of a report (R489). -/
def State.attestBody (s : State) (nonce : List Byte) : List Byte :=
  ([0x4E, 0x58, 0x41, 0x54, 0x54, 0x00, 0x00, 0x01] : List Byte) ++ nonce ++ natLE 8 s.time ++
    (List.range 4).flatMap (fun d => (List.range 64).map (Config.firmwareDigest (s.die d).firmware)) ++
    natLE 8 (s.feat 0 - (s.core 0).picks * 2 ^ 24) ++
    (List.range 4).map (fun d => BitVec.ofNat 8 (s.die d).quads) ++ List.replicate 68 0

/-- Bytes of an ML-DSA-65 signature in a report (R489). -/
def sigBytes : Nat := 3309
/-- A report: its body and the signature over its digest (R489). -/
def State.attestReport (s : State) (nonce : List Byte) : List Byte :=
  s.attestBody nonce ++ (List.range sigBytes).map (Config.signatureByte (shake256 (s.attestBody nonce)))

/-- ATTESTATION_REQUEST: D0's controller writes the report into host memory of function 0 and raises an event; the request waits while a
controller restarts (R489). -/
def execAttestationRequest (bus : Nat) (nonce : List Byte) (s : State) : Host.Outcome State Fault Refusal :=
  if s.boot ≠ 7 ∨ nonce.length ≠ 32 ∨ s.dies.any (fun d => d.restarting) = true then .next s
  else
    let r := s.attestReport nonce
    .next ((s.write (wrs ((List.range r.length).map (fun i => Loc.host 0 (bus + i))) r)).event 0 7 0 0 0 0 0)

end Sys2Proof.Machine
end

