-- ==== Sys2Proof/Machine/Debug.lean ====
section
/-! DEFINITION. The trace ring (R473) and the debugger (R475 to R480). -/
namespace Sys2Proof.Machine

/-! ### The trace ring (R473) -/

/-- TRACE_RING_WRITE: system software names a context's ring (R473). -/
def execTraceRingWrite (ctx : CtxId) (seg : Seg) (s : State) : Host.Outcome State Fault Refusal :=
  .next ((s.ensureCtx ctx).modCtx ctx (fun c => { c with ring := seg }))

/-- The header of a context's trace ring: LOG2R and TAIL; none where there is no ring, or a malformed one (R473). -/
def State.ringHeader (s : State) (c : CtxId) : Option (Nat × Nat) :=
  if (s.ctx c).ring = 0 then none
  else match s.deviceLocs c .store (s.ctx c).ring 0 16 with
    | .error _ => none
    | .ok (d, ls) =>
      let w0 := s.leAt (ls.take 8)
      let r := bitsOf w0 4 0
      if d.kind ≠ 1 ∨ d.sysOnly = false ∨ bitsOf w0 63 56 ≠ 1 ∨ bitsOf w0 55 5 ≠ 0 ∨ r < 4 ∨ 20 < r then none
      else some (r, s.leAt (ls.drop 8))

/-- A record written into a context's ring, over the oldest; then TAIL; it is discarded where the ring does not take it (R473). -/
def State.putTrace (s : State) (c : CtxId) (rc : List Byte) : State :=
  match s.ringHeader c with
  | none => s
  | some (r, tail) =>
    match s.deviceLocs c .store (s.ctx c).ring (0x40 + 64 * (tail % 2 ^ r)) 64 with
    | .error _ => s
    | .ok (_, ls) => (s.write (wrs ls rc)).deviceWrite c (s.ctx c).ring 8 8 ((tail + 1) % 2 ^ 64)

/-- TRACE_RING_MOVE: the oldest record of a core's FIFO moves into the ring of its context (R473). -/
def execTraceRingMove (core : Nat) (s : State) : Host.Outcome State Fault Refusal :=
  match (s.core core).trace with
  | [] => .next s
  | rc :: rs =>
    if (s.die (coreDie core)).restarting then .next s
    else .next ((s.modCore core (fun k => { k with trace := rs })).putTrace (BitVec.ofNat 16 (bitsOf (leNat rc) 415 400)) rc)

/-! ### Attaching, halting and resuming (R475, R478, R479) -/

/-- Every weft of a context, resident or saved, changed: the halt state is kept by CTX, PANEL and PWEFT (R478). -/
def State.modCtxWefts (s : State) (c : CtxId) (f : Weft → Weft) : State :=
  { s with
    wefts := s.wefts.map (fun w => if (s.panel w.panel).ctx = c then f w else w)
    saved := s.saved.map (fun v => if v.panel.ctx = c then { v with wefts := v.wefts.map f } else v) }
/-- A weft, resident or saved, changed. -/
def State.modHeld (s : State) (wid : Nat) (f : Weft → Weft) : State :=
  { s with
    wefts := s.wefts.map (fun w => if w.id = wid then f w else w)
    saved := s.saved.map (fun v => { v with wefts := v.wefts.map (fun w => if w.id = wid then f w else w) }) }

/-- The words at which the paths of a weft stopped (R479). -/
def Weft.stops (w : Weft) : List DWord := ((w.lanes.filter (fun l => l.st != .exited)).map (fun l => l.pc)).eraseDups

/-- A halted weft resumes: no breakpoint fires at the words where it stopped in its next slot (R479). -/
def Weft.resumed (w : Weft) : Weft := if w.halted then { w with halted := false, step := 0, skipAt := w.stops } else { w with step := 0 }
/-- A halted weft issues one slot, then halts again (R479). -/
def Weft.stepped (w : Weft) : Weft := if w.halted then { w with step := 1, skipAt := w.stops } else w
/-- A weft halts at its next slot boundary (R479). -/
def Weft.haltSoon (w : Weft) : Weft := if w.halted then w else { w with step := 3 }

/-- DEBUG_ATTACH (R475). -/
def execDebugAttach (ctx : CtxId) (s : State) : Host.Outcome State Fault Refusal :=
  .next ((s.ensureCtx ctx).modCtx ctx (fun c => { c with debug := true }))

/-- DEBUG_DETACH: every halted weft of the context resumes (R479). -/
def execDebugDetach (ctx : CtxId) (s : State) : Host.Outcome State Fault Refusal :=
  .next ((s.modCtx ctx (fun c => { c with debug := false })).modCtxWefts ctx Weft.resumed)

/-- DEBUG_RESUME (R479). -/
def execDebugResume (weft : Nat) (s : State) : Host.Outcome State Fault Refusal := .next (s.modHeld weft Weft.resumed)

/-- DEBUG_STEP (R479). -/
def execDebugStep (weft : Nat) (s : State) : Host.Outcome State Fault Refusal := .next (s.modHeld weft Weft.stepped)

/-- The context of a weft, resident or saved. -/
def State.weftCtx (s : State) (wid : Nat) : CtxId :=
  match s.saved.find? (fun v => v.wefts.any (fun w => w.id == wid)) with
  | some v => v.panel.ctx
  | none => (s.panel (s.weft wid).panel).ctx

/-- DEBUG_HALT: a weft, or every weft of a context to which a debugger is attached, halts at its next slot boundary (R479). -/
def execDebugHalt (t : HaltTarget) (s : State) : Host.Outcome State Fault Refusal :=
  match t with
  | .weft w => .next (if (s.ctx (s.weftCtx w)).debug then s.modHeld w Weft.haltSoon else s)
  | .context c => .next (if (s.ctx c).debug then s.modCtxWefts c Weft.haltSoon else s)

/-- The snapshot of a weft of a panel: its weft record and lane records (R413, R478). -/
def Panel.snapshot (p : Panel) (w : Weft) : List Byte := w.image ++ w.lanes.flatMap p.laneImage

/-- DEBUG_SNAPSHOT: a halted weft's records go to the debugger (R478). -/
def execDebugSnapshot (weft : Nat) (s : State) : Host.Outcome State Fault Refusal :=
  let w := s.weft weft
  let p := s.panel w.panel
  .next (if s.hasWeft weft && w.halted && w.step == 0 then s.report "snapshot" p.ctx ((p.snapshot w).map BitVec.toNat)
    else match s.saved.findSome? (fun v => (v.wefts.find? (fun x => x.id == weft && x.halted)).map (fun x => (v.panel, x))) with
      | some (q, x) => s.report "snapshot" q.ctx ((q.snapshot x).map BitVec.toNat)
      | none => s)

/-! ### Breakpoint and watchpoint entries (R475) -/

/-- Whether an entry sets a reserved bit (R475). -/
def bpReserved (watch : Bool) (e : BitVec 128) : Bool :=
  let x := e.toNat
  if watch then bitsOf x 63 40 != 0 || bitsOf x 19 8 != 0 || bitsOf x 3 1 != 0 else bitsOf x 31 16 != 0 || bitsOf x 7 3 != 0

/-- BREAKPOINT_WRITE: an entry with a reserved bit set is refused and does not take effect (R475). -/
def execBreakpointWrite (ctx : CtxId) (watch : Bool) (index : Nat) (entry : BitVec 128) (s : State) :
    Host.Outcome State Fault Refusal :=
  if bpReserved watch entry then .next s
  else .next ((s.ensureCtx ctx).modCtx ctx (fun c =>
    if watch then { c with wps := c.wps.set index entry } else { c with bps := c.bps.set index entry }))

end Sys2Proof.Machine
end

