-- ==== Sys2Proof/Machine/Software.lean ====
section
/-! DEFINITION. What system software does through the die controllers: stopped lanes (R290, R408) and the tables that it writes (R367,
R372, R381, R421, R427, R428). -/
namespace Sys2Proof.Machine

/-! ### Stopped lanes (R290, R408) -/

/-- Whether a lane is stopped and not being ended: system software may release it (R408). -/
def Lane.releasable (l : Lane) : Bool := l.isStopped && l.pos != .ending

/-- LANE_RELEASE: a stopped lane executes its word again, inside the word's clause, or waits again for what it was parked on (R330, R388,
R408). -/
def execLaneRelease (weft lane : Nat) (s : State) : Host.Outcome State Fault Refusal :=
  let l := (s.weft weft).lane lane
  .next (if l.releasable then
      (s.modLane weft lane (fun x => { x with st := (x.back.map LaneSt.parked).getD .active, back := none,
                                              pos := if x.pos = .launch then .launch else .resume })).wakeLane weft lane false
    else s)

/-- LANE_RELEASE_AT_PC: a stopped lane reaches a clause header; another PC raises ILLEGAL, HEADER, when the lane is due to issue (R408). An
UNBOUND that it was to take is given up: its entry is bound FAILED, at a commit point (R50, R52). -/
def execLaneReleaseAtPc (weft lane : Nat) (pc : DWord) (s : State) : Host.Outcome State Fault Refusal :=
  let l := (s.weft weft).lane lane
  let go (y : State) : State :=
    (y.modLane weft lane (fun x => { x with st := .active, back := none, pos := .header, pc := pc })).wakeLane weft lane false
  .next (if !l.releasable then s
    else if l.trap.any (fun q => q.1.code == .unbound) then
      s.atCommit (s.weft weft).panel (fun _ => false) (fun y => go (y.dropUnbound weft lane))
    else go s)

/-- LANE_END (R290, R408). -/
def execLaneEnd (weft lane : Nat) (s : State) : Host.Outcome State Fault Refusal :=
  let w := s.weft weft
  .next (if (w.lane lane).isStopped && !w.inSub lane then s.endLane weft lane else s)

/-! ### Tables (R367, R372, R381, R421, R427, R428) -/

/-- LAUNCH_QUEUE_TABLE_WRITE: an entry of a die's launch-queue table is written or emptied, and served again (R372). -/
def execLaunchQueueTableWrite (die entry : Nat) (v : Option (CtxId × Seg)) (s : State) : Host.Outcome State Fault Refusal :=
  if Config.dies ≤ die ∨ 16 ≤ entry then .next s
  else
    let k := die * 16 + entry
    let s1 : State := { s with lqBad := s.lqBad.filter (· != k), lqTab := s.lqTab.filter (fun e => e.1 != k) }
    match v with
    | none => .next s1
    | some (c, seg) => .next { s1.ensureCtx c with lqTab := s1.lqTab ++ [(k, c, seg)] }

/-- STEAL_TABLE_WRITE: one of the 64 task-queue numbers of a context in a die's scheduler; number 0 names no queue (R381). -/
def execStealTableWrite (ctx : CtxId) (die index : Nat) (seg : Seg) (s : State) : Host.Outcome State Fault Refusal :=
  if Config.dies ≤ die ∨ 64 ≤ index then .next s
  else .next ((s.ensureCtx ctx).modCtx ctx (fun c =>
    { c with steal := c.steal.filter (fun e => !(e.1 == die && e.2.1 == index)) ++ (if seg = 0 then [] else [(die, index, seg)]) }))

/-- ENDPOINT_WRITE: an entry of a context's endpoint table, the same on all four dies; its reserved bits must be 0 (R427). -/
def execEndpointWrite (ctx : CtxId) (index : Nat) (entry : BitVec 512) (s : State) : Host.Outcome State Fault Refusal :=
  if 4096 ≤ index ∨ bitsOf entry.toNat 295 1 ≠ 0 then .next s
  else .next ((s.ensureCtx ctx).modCtx ctx (fun c => { c with endpoints := sput 0 c.endpoints index entry }))

/-- ASSOCIATION_KEY_WRITE: a security association's key is bound to a key index (R428); association 0 stands for none (R427). -/
def execAssociationKeyWrite (sa okey : Nat) (s : State) : Host.Outcome State Fault Refusal :=
  .next (if sa = 0 ∨ 65536 ≤ sa ∨ 4096 ≤ okey then s else { s with assoc := s.assoc.filter (fun a => a.1 != sa) ++ [(sa, okey)] })

/-- GANG_INSTANT_WRITE: the next switch instant of an outgoing gang, with the incoming one (R421). -/
def execGangInstantWrite (out inc : Nat) (at_ : DWord) (s : State) : Host.Outcome State Fault Refusal :=
  .next { s with gangs := s.gangs.filter (fun g => g.out != out) ++ [⟨out, inc, at_⟩] }

/-- PNODE_WRITE: the package's pod node (R367). -/
def execPnodeWrite (node : BitVec 6) (s : State) : Host.Outcome State Fault Refusal := .next { s with pnode := node }

end Sys2Proof.Machine
end

