-- ==== Sys2Proof/Machine/Agenda.lean ====
section
/-! DEFINITION. Which agent moves when the agenda names none: every agent of the package that has something to do takes its turn. -/
namespace Sys2Proof.Machine

/-! ### What the agents of the package can do -/

/-- A weft's operations that can end: its units' results, its loads, the head of its store queue, its lanes' timers. -/
def Weft.turns (w : Weft) : List Instr :=
  (w.pend.filterMap (fun p => p.op.map (fun o => Instr.unitResultComplete w.id o))) ++
  (w.loads.map (fun l => Instr.memoryAccessComplete w.id l.id)) ++
  (if w.sq.isEmpty then [] else [.storePerform w.id, .atomicAtHome w.id]) ++
  (if w.lanes.any (fun l => l.st == .parked .nwait) then [.nwaitRecheck w.id] else []) ++
  (if w.lanes.any (fun l => match l.st with
      | .parked (.push _ r) => r
      | .parked (.fault _) | .parked (.bind _) | .parked (.rejoin _) | .parked (.heldWait _) | .parked (.barrier _ _ _)
      | .parked .nwait | .parked .held | .parked .node | .parked .hold | .parked (.step _) | .parked .spill | .parked (.walk _) | .active | .exited
      | .stopped _ => false) then [.pushRetryTimeout w.id] else []) ++
  (if w.tileWaiters.isEmpty then [] else [.crossFunctionAccown w.id])

/-- A core's engines: its copy and post queues, its matrix words, its message queues and its trace FIFO. -/
def CoreSt.turns (k : CoreSt) (core : Nat) : List Instr :=
  (k.copyQ.zipIdx.flatMap (fun q => if q.1.isEmpty then [] else [Instr.copySectorLand core q.2])) ++
  (k.netQ.zipIdx.flatMap (fun q => if q.1.isEmpty then [] else [Instr.netPacketSend core q.2])) ++
  (k.morder.flatMap (fun m => [Instr.matrixWordStart core m.id, .treadleStepEnd core m.id, .matrixWordComplete core m.id] ++
    (if m.susp then [.crossFunctionAccown m.id] else []))) ++
  (k.mqIn.map (fun m => Instr.mqEntryArrival core m.slot)) ++
  (if k.trace.isEmpty then [] else [.traceRingMove core])

/-- A panel: its barriers, its end, its save. -/
def State.panelTurns (s : State) (p : Panel) : List Instr :=
  (p.bars.zipIdx.flatMap (fun b => if b.1.member then [Instr.barrierComplete (p.barName b.2)] else [])) ++
  (if s.panelExited p.id then [.panelEnd p.id] else []) ++
  (if p.life = .halting then [.panelSave p.id] else []) ++
  (if p.launch.replay && s.commitDue p then [.commitPoint p.id] else [])

/-- A die: its walker and its scheduler. -/
def State.dieTurns (s : State) (die : Nat) : List Instr :=
  (if s.walks.any (fun w => w.die == die && !w.granted) then [Instr.walkSlotGrant die] else []) ++
  ((s.walks.filter (fun w => w.die == die && w.granted && w.result.isNone)).map (fun w => Instr.walkComplete die w.id)) ++
  (if s.lqTab.any (fun e => e.1 / 16 == die) then [.launchTake die] else []) ++
  (if s.launches.any (fun l => l.die == die) then [.panelPlace die] else []) ++
  (if s.ctxs.any (fun c => c.steal.any (fun e => e.1 == die)) then [.stealStep die] else [])

/-- What no weft, core, panel or die has of its own: accesses and messages on their way, publications, shootdowns, keys, gangs. -/
def State.wayTurns (s : State) : List Instr :=
  (s.wins.map (fun a => Instr.windowAccess a.id)) ++
  (s.rems.map (fun a => Instr.remoteAccess (.outbound a.id (Config.nodeAnswers a.id s.fresh)))) ++
  (s.credits.map (fun c => Instr.mqCreditReturn c.id)) ++
  (s.pubs.map (fun p => Instr.publishCheck p.id)) ++
  (s.shoots.map (fun k => Instr.shootdownComplete k.id)) ++
  ((s.keys.filter (fun k => k.2.1 == .draining)).map (fun k => Instr.keyDrainComplete k.1)) ++
  (s.gangs.zipIdx.flatMap (fun g => if g.1.at_.toNat ≤ s.time then [Instr.gangSwitch g.2] else []))

/-- The slots of the cores that hold wefts, and the wefts' watchdogs. -/
def State.slotTurns (s : State) : List Instr :=
  (((s.wefts.map (fun w => w.core)).eraseDups).map Instr.issueSlot) ++
  ((s.wefts.filter (fun w => decide (1024 ≤ w.hang))).map (fun w => Instr.hangWatchdog w.id))

/-- The steps that the agents of the package can take. -/
def State.turns (s : State) : List Instr :=
  s.slotTurns ++ s.wefts.flatMap Weft.turns ++ s.cores.flatMap (fun c => c.2.turns c.1) ++ s.panels.flatMap s.panelTurns ++
    (List.range Config.dies).flatMap s.dieTurns ++ s.wayTurns

/-- The step taken when neither a chosen word nor the agenda names one: the agents in turn. -/
def State.defaultStep (s : State) : Instr := s.turns.getD (s.turn % s.turns.length) (.launchTake 0)

/-- The next step and the state without it: the head of the agenda, else an agent's turn. -/
def State.nextStep (s : State) : Instr × State :=
  let z := s.settleSlot
  match z.agenda with
  | i :: is => (i, { z with agenda := is })
  | [] => (z.defaultStep, { z with turn := z.turn + 1 })

end Sys2Proof.Machine
end

