-- ==== Sys2Proof/Machine/Cross.lean ====
section
/-! DEFINITION. Cross-lane instructions (R300 to R303): exchanges, votes, reductions and scans over the members that each lane's
mask names. -/
namespace Sys2Proof.Machine

/-- The same reads with only completed instructions' results (R300). -/
def IC.settledOnly (x : IC) : IC := { x with w := { x.w with pend := x.w.pend.filter (fun p => p.op.isNone) } }

/-- The mask of a lane (R300). -/
def IC.maskOf (x : IC) (c : Opnd) (i : Nat) : LaneMask := BitVec.ofNat 32 (x.rd false c i).toNat

/-- The value that a member lane contributes (R300): the identity when it has exited. -/
def IC.contrib (x : IC) (w64 : Bool) (a : Opnd) (ident : DWord) (j : Nat) : DWord :=
  if (x.w.lane j).st = .exited then ident
  else if x.lanes.contains j then x.rd w64 a j
  else x.settledOnly.rd w64 a j

/-- Whether the value that a member contributes is poisoned. -/
def IC.contribPz (x : IC) (w64 : Bool) (a : Opnd) (j : Nat) : Bool :=
  if (x.w.lane j).st = .exited then false
  else if x.lanes.contains j then x.pz w64 a j
  else x.settledOnly.pz w64 a j

/-- The members of a lane's mask, ascending. -/
def IC.members (x : IC) (c : Opnd) (i : Nat) : List Nat := lanesOf (x.maskOf c i)

/-- A cross-lane word (R300): lanes outside their own mask take MEMBER; each other lane's value is written by the unit (R303).
`used`: a poisoned value is consumed (R442); an exchange only moves it (R441).
-/
def crossWord (v : View) (f : V3) (used : Bool) (pz : IC → Nat → Bool) (g : IC → Nat → DWord) (s : State) : Host.Outcome State Fault Refusal :=
  runWord v false (fun x _ =>
    let pass := x.lanes.filter (fun i => (x.maskOf f.c i).getLsbD i)
    let bad := x.lanes.filter (fun i => !(x.maskOf f.c i).getLsbD i)
    .part pass (fun y s1 =>
      let s2 := s1.tracked y (wordWrites f.ty.is64 f.d y.lanes (g y)) (wordPz f.ty.is64 f.d y.lanes (pz y))
      if used then s2.consume y (y.lanes.filter (pz y)) else s2) (bad.map (fun i => (i, ⟨.member, 0, 0, 0, 0⟩))) []) s

/-- The group size of an exchange (R301). -/
def groupSize (b : Nat) : Nat :=
  let g := bitsOf b 7 5
  if 1 ≤ g ∧ g ≤ 5 then 2 ^ g else 32

/-- The source lane of an exchange (R301). -/
def sourceLane (sub b i : Nat) : Nat :=
  let g := groupSize b
  let base := i - i % g
  let c := b % 32 % g
  match sub with
  | 0 => base + c
  | 1 => base + (i - base + c) % g
  | 2 => i ^^^ c
  | _ => base + (c + g - (i - base)) % g

/-- The value of an exchange in a lane (R301). -/
def IC.exchange (x : IC) (sub : Nat) (f : V3) (i : Nat) : DWord :=
  let j := sourceLane sub (x.nat32 f.b i) i
  if (x.maskOf f.c i).getLsbD j then x.contrib f.ty.is64 f.a 0 j else x.rd f.ty.is64 f.a i

/-- Whether the value of an exchange is poisoned in a lane. -/
def IC.exchangePz (x : IC) (sub : Nat) (f : V3) (i : Nat) : Bool :=
  let j := sourceLane sub (x.nat32 f.b i) i
  x.pz false f.b i || x.pz false f.c i ||
    (if (x.maskOf f.c i).getLsbD j then x.contribPz f.ty.is64 f.a j else x.pz f.ty.is64 f.a i)

/-- An exchange word. -/
def xlWord (v : View) (sub : Nat) (f : V3) (s : State) : Host.Outcome State Fault Refusal :=
  crossWord v f false (fun x i => x.exchangePz sub f i) (fun x i => x.exchange sub f i) s

/-- Whether a member's value or the mask of a lane is poisoned. -/
def IC.membersPz (x : IC) (f : V3) (i : Nat) : Bool :=
  x.pz false f.c i || (x.members f.c i).any (fun j => x.contribPz f.ty.is64 f.a j)

/-- A vote word: the value of a lane from its members' values (R302). -/
def voteWord (v : View) (f : V3) (ident : DWord) (g : List (Nat × DWord) → DWord) (s : State) : Host.Outcome State Fault Refusal :=
  crossWord v f true (fun x i => x.membersPz f i)
    (fun x i => g ((x.members f.c i).map (fun j => (j, x.contrib f.ty.is64 f.a ident j)))) s

/-- The members' values combined in ascending lane order; the identity when there are none (R302). -/
def combine (ident : DWord) (op : DWord → DWord → DWord) : List DWord → DWord
  | [] => ident
  | v :: vs => vs.foldl op v

/-- The combining operation of a type: its identity, and the operation with a lane's NaN origin (R302). -/
structure Comb where
  ident : DWord
  op    : NanCtx → DWord → DWord → DWord

/-- The addition of a type (R302). -/
def combAdd (t : Ty) : Comb :=
  if t = .f32 then ⟨0x80000000, fun c a b => fnFpAdd .f32 (FEnv.plain c) a b⟩ else ⟨0, fun _ a b => fnAdd t false a b⟩
/-- The minimum of a type. -/
def combMin (t : Ty) : Comb :=
  if t = .f32 then ⟨0x7F800000, fun _ a b => fnFpMin .f32 a b⟩ else ⟨narrowInt t false (intMaxVal t), fun _ a b => fnMin t a b⟩
/-- The maximum of a type. -/
def combMax (t : Ty) : Comb :=
  if t = .f32 then ⟨0xFF800000, fun _ a b => fnFpMax .f32 a b⟩ else ⟨narrowInt t false (intMinVal t), fun _ a b => fnMax t a b⟩
/-- AND. -/
def combAnd (t : Ty) : Comb := ⟨trunc t.width (2 ^ 64 - 1), fun _ a b => a &&& b⟩
/-- OR. -/
def combOr : Comb := ⟨0, fun _ a b => a ||| b⟩
/-- XOR. -/
def combXor : Comb := ⟨0, fun _ a b => a ^^^ b⟩

/-- A reduction over the members that a lane's test keeps (R302). -/
def redWord (v : View) (f : V3) (m : Comb) (keep : Nat → Nat → Bool) (s : State) : Host.Outcome State Fault Refusal :=
  crossWord v f true
    (fun x i => x.pz false f.c i || ((x.members f.c i).filter (keep i)).any (fun j => x.contribPz f.ty.is64 f.a j))
    (fun x i => combine m.ident (m.op (x.nan i))
      (((x.members f.c i).filter (keep i)).map (fun j => x.contrib f.ty.is64 f.a m.ident j))) s

/-- The members that a scan combines in a lane (R302). -/
def scanKeep (ex : Bool) (i j : Nat) : Bool := if ex then j < i else j ≤ i

/-- `xl.get` (R301). -/
def execXlGet (c : Common) (f : V3) (s : State) : Host.Outcome State Fault Refusal := xlWord (Instr.xlGet c f).view 0 f s
/-- `xl.rot` (R301). -/
def execXlRot (c : Common) (f : V3) (s : State) : Host.Outcome State Fault Refusal := xlWord (Instr.xlRot c f).view 1 f s
/-- `xl.xor` (R301). -/
def execXlXor (c : Common) (f : V3) (s : State) : Host.Outcome State Fault Refusal := xlWord (Instr.xlXor c f).view 2 f s
/-- `xl.rev` (R301). -/
def execXlRev (c : Common) (f : V3) (s : State) : Host.Outcome State Fault Refusal := xlWord (Instr.xlRev c f).view 3 f s
/-- `vote.all`: 1 when every member's value is not 0 (R302). -/
def execVoteAll (c : Common) (f : V3) (s : State) : Host.Outcome State Fault Refusal :=
  voteWord (Instr.voteAll c f).view f 1 (fun vs => BitVec.ofNat 64 (b2n (vs.all (fun v => v.2 != 0)))) s
/-- `vote.any`: 1 when some member's value is not 0 (R302). -/
def execVoteAny (c : Common) (f : V3) (s : State) : Host.Outcome State Fault Refusal :=
  voteWord (Instr.voteAny c f).view f 0 (fun vs => BitVec.ofNat 64 (b2n (vs.any (fun v => v.2 != 0)))) s
/-- `vote.eq`: 1 when every member that has not exited has the same value (R302). -/
def execVoteEq (c : Common) (f : V3) (s : State) : Host.Outcome State Fault Refusal :=
  crossWord (Instr.voteEq c f).view f true (fun x i => x.membersPz f i) (fun x i =>
    let vs := ((x.members f.c i).filter (fun j => (x.w.lane j).st != .exited)).map (fun j => x.contrib f.ty.is64 f.a 0 j)
    BitVec.ofNat 64 (b2n (vs.all (fun v => some v == vs.head?)))) s
/-- `vote.ballot`: bit j for each member j whose value is not 0 (R302). -/
def execVoteBallot (c : Common) (f : V3) (s : State) : Host.Outcome State Fault Refusal :=
  voteWord (Instr.voteBallot c f).view f 0
    (fun vs => (maskOf ((vs.filter (fun v => v.2 != 0)).map (·.1))).setWidth 64) s
/-- `red.add` (R302). -/
def execRedAdd (c : Common) (f : V3) (s : State) : Host.Outcome State Fault Refusal :=
  redWord (Instr.redAdd c f).view f (combAdd f.ty) (fun _ _ => true) s
/-- `red.min` (R302). -/
def execRedMin (c : Common) (f : V3) (s : State) : Host.Outcome State Fault Refusal :=
  redWord (Instr.redMin c f).view f (combMin f.ty) (fun _ _ => true) s
/-- `red.max` (R302). -/
def execRedMax (c : Common) (f : V3) (s : State) : Host.Outcome State Fault Refusal :=
  redWord (Instr.redMax c f).view f (combMax f.ty) (fun _ _ => true) s
/-- `red.and` (R302). -/
def execRedAnd (c : Common) (f : V3) (s : State) : Host.Outcome State Fault Refusal :=
  redWord (Instr.redAnd c f).view f (combAnd f.ty) (fun _ _ => true) s
/-- `red.or` (R302). -/
def execRedOr (c : Common) (f : V3) (s : State) : Host.Outcome State Fault Refusal :=
  redWord (Instr.redOr c f).view f combOr (fun _ _ => true) s
/-- `red.xor` (R302). -/
def execRedXor (c : Common) (f : V3) (s : State) : Host.Outcome State Fault Refusal :=
  redWord (Instr.redXor c f).view f combXor (fun _ _ => true) s
/-- `scan.add` (R302). -/
def execScanAdd (c : Common) (ex : Bool) (f : V3) (s : State) : Host.Outcome State Fault Refusal :=
  redWord (Instr.scanAdd c ex f).view f (combAdd f.ty) (scanKeep ex) s
/-- `scan.min` (R302). -/
def execScanMin (c : Common) (ex : Bool) (f : V3) (s : State) : Host.Outcome State Fault Refusal :=
  redWord (Instr.scanMin c ex f).view f (combMin f.ty) (scanKeep ex) s
/-- `scan.max` (R302). -/
def execScanMax (c : Common) (ex : Bool) (f : V3) (s : State) : Host.Outcome State Fault Refusal :=
  redWord (Instr.scanMax c ex f).view f (combMax f.ty) (scanKeep ex) s
/-- `scan.or` (R302). -/
def execScanOr (c : Common) (ex : Bool) (f : V3) (s : State) : Host.Outcome State Fault Refusal :=
  redWord (Instr.scanOr c ex f).view f combOr (scanKeep ex) s

end Sys2Proof.Machine
end

