-- ==== Sys2Proof/Machine/SpecialFn.lean ====
section
/-! DEFINITION. The special functions (R272): the exact function value, rounded once to FP32. rcp, rsqrt and sqrt are exact
to the last bit by integer division and square root with a sticky bit; the others are evaluated in fixed point with 320
fraction bits, far beyond the closest that a value of these functions at an FP32 argument comes to a tie. -/
namespace Sys2Proof.Machine

/-- The integer square root, by bits: `n` bits remain to be tried. -/
def isqrtBits (x : Nat) : Nat → Nat → Nat
  | 0, r => r
  | n + 1, r => isqrtBits x n (if (r + 2 ^ n) * (r + 2 ^ n) ≤ x then r + 2 ^ n else r)
/-- The integer square root. -/
def isqrt (x : Nat) : Nat := isqrtBits x (Nat.log2 x / 2 + 1) 0

/-- A quotient with a sticky bit below it. -/
def stickyDiv (a b : Nat) : Nat := 2 * (a / b) + b2n (a % b != 0)
/-- A square root with a sticky bit below it. -/
def stickySqrt (x : Nat) : Nat := 2 * isqrt x + b2n (isqrt x * isqrt x != x)

/-- 1/a. -/
def rcpVal : FVal → FVal
  | .nan => .nan
  | .inf n => .fin n 0 0
  | .fin n m e => if m = 0 then .inf n else .fin n (stickyDiv (2 ^ 80) m) (-81 - e)
/-- √a; −0 for −0. -/
def sqrtVal : FVal → FVal
  | .nan => .nan
  | .inf n => if n then .nan else .inf n
  | .fin n m e =>
    if m = 0 then .fin n 0 0
    else if n then .nan
    else if e % 2 = 0 then .fin false (stickySqrt (m * 2 ^ 80)) (e / 2 - 41)
    else .fin false (stickySqrt (m * 2 ^ 81)) ((e - 1) / 2 - 41)
/-- 1/√a; −∞ for −0. -/
def rsqrtVal : FVal → FVal
  | .nan => .nan
  | .inf n => if n then .nan else .fin false 0 0
  | .fin n m e =>
    if m = 0 then .inf n
    else if n then .nan
    else
      -- 1/√(m 2^e) = √(2^k / m) 2^(-(e + k)/2) for a k of the parity of e
      let k : Nat := if e % 2 = 0 then 200 else 201
      let q := 2 ^ k / m
      let r := isqrt q
      .fin false (2 * r + b2n (r * r * m != 2 ^ k)) (-(e + k) / 2 - 1)

/-- Fraction bits of the fixed-point evaluations. -/
def fxBits : Nat := 320
/-- 1.0 in fixed point. -/
def fxOne : Nat := 2 ^ fxBits
/-- π in 2^-576. -/
def fxPi : Nat := 777011372277319379760551044304721576357570401468367401332419668993315513568219913966833707518867750421784718580603851674214073316207047471152231174804351472944300570330135323
/-- ln 2 in 2^-576. -/
def fxLn2Long : Nat := 171436370447841751810397033449194206923863603888853761105325500776960719192244778072115017417183862947462110757002900991935266221463676335241802912555763396667947900633540805
/-- ln 2 in fixed point. -/
def fxLn2 : Nat := fxLn2Long / 2 ^ (576 - fxBits)

/-- A power series: the next term is the last times `x`, divided by `d k`, with the sign flipped when `alt`. -/
def fxSeries (x : Int) (d : Nat → Nat) (alt : Bool) : Nat → Nat → Int → Int
  | 0, _, _ => 0
  | n + 1, k, t =>
    let t' := t * x / (fxOne : Int) / (d k : Int)
    t + fxSeries x d alt n (k + 1) (if alt then -t' else t')

/-- e^x for 0 ≤ x < 1 in fixed point. -/
def fxExp (x : Int) : Int := fxSeries x (fun k => k + 1) false 80 0 fxOne
/-- sin x for |x| < 1 in fixed point. -/
def fxSin (x : Int) : Int := fxSeries (x * x / (fxOne : Int)) (fun k => (2 * k + 2) * (2 * k + 3)) true 40 0 x
/-- cos x for |x| < 1 in fixed point. -/
def fxCos (x : Int) : Int := fxSeries (x * x / (fxOne : Int)) (fun k => (2 * k + 1) * (2 * k + 2)) true 40 0 fxOne

/-- The sum of z^(2k+1)/(2k+1): the inverse hyperbolic tangent of a z at most 1/3. -/
def fxAtanh (z2 : Int) : Nat → Nat → Int → Int
  | 0, _, _ => 0
  | n + 1, k, t => t / (k : Int) + fxAtanh z2 n (k + 2) (t * z2 / (fxOne : Int))

/-- A finite value in fixed point with `p` fraction bits, rounded down. -/
def toFx (p : Nat) (m : Nat) (e : Int) : Nat := if -(p : Int) ≤ e then m * 2 ^ (e + p).toNat else m / 2 ^ (-(e + p)).toNat

/-- A non-exact fixed-point result as a value, with a sticky bit. -/
def fromFx (neg : Bool) (x : Nat) : FVal := .fin neg (2 * x + 1) (-(fxBits : Int) - 1)

/-- 2^a, 1.0 for zero. -/
def exp2Val : FVal → FVal
  | .nan => .nan
  | .inf n => if n then .fin false 0 0 else .inf false
  | .fin n m e =>
    if m = 0 then .fin false 1 0
    else if 10 ≤ e + Nat.log2 m then (if n then .fin false 1 (-400) else .fin false 1 400)
    else
      let x : Int := if n then -(toFx fxBits m e : Int) else toFx fxBits m e
      let k := x / (fxOne : Int)
      let f := x % (fxOne : Int)
      if f = 0 then .fin false 1 k
      else .fin false (2 * (fxExp (f * (fxLn2 : Int) / (fxOne : Int))).toNat + 1) (k - fxBits - 1)

/-- log₂ a; +0 for 1.0. -/
def log2Val : FVal → FVal
  | .nan => .nan
  | .inf n => if n then .nan else .inf false
  | .fin n m e =>
    if m = 0 then .inf true
    else if n then .nan
    else
      let l := Nat.log2 m
      let k := e + l
      if m = 2 ^ l then .fin (k < 0) k.natAbs 0
      else
        let x : Int := (m * fxOne / 2 ^ l : Nat)
        let z := (x - (fxOne : Int)) * (fxOne : Int) / (x + (fxOne : Int))
        let y := 2 * fxAtanh (z * z / (fxOne : Int)) 110 1 z
        let r := k * (fxOne : Int) + y * (fxOne : Int) / (fxLn2 : Int)
        fromFx (r < 0) r.natAbs

/-- The quadrant and remainder of a finite magnitude: |a| = (4j + q) π/2 + r with |r| ≤ π/4, in fixed point. -/
def reducePi (m : Nat) (e : Int) : Nat × Int :=
  -- with 576 fraction bits below an argument of at most 128 bits
  let x : Nat := toFx fxBits m e
  let half : Nat := fxPi / 2
  let big : Nat := x * 2 ^ (576 - fxBits)
  let k := (2 * big + half) / (2 * half)
  -- π is known to 2^-576, and k is below 2^129
  (k % 4, ((big : Int) - (k : Int) * (half : Int)) / (2 ^ (576 - fxBits) : Nat))

/-- sin a, with a in radians. -/
def sinVal : FVal → FVal
  | .nan => .nan
  | .inf _ => .nan
  | .fin n m e =>
    if m = 0 then .fin n 0 0
    else if e + Nat.log2 m < -100 then .fin n m e
    else
      let (q, r) := reducePi m e
      let y : Int := match q with
        | 0 => fxSin r
        | 1 => fxCos r
        | 2 => -fxSin r
        | _ => -fxCos r
      fromFx (n ^^ (y < 0)) y.natAbs
/-- cos a, with a in radians. -/
def cosVal : FVal → FVal
  | .nan => .nan
  | .inf _ => .nan
  | .fin _ m e =>
    if m = 0 ∨ e + Nat.log2 m < -100 then .fin false 1 0
    else
      let (q, r) := reducePi m e
      let y : Int := match q with
        | 0 => fxCos r
        | 1 => -fxSin r
        | 2 => -fxCos r
        | _ => fxSin r
      fromFx (y < 0) y.natAbs
/-- tanh a. -/
def tanhVal : FVal → FVal
  | .nan => .nan
  | .inf n => .fin n 1 0
  | .fin n m e =>
    if m = 0 then .fin n 0 0
    else if 5 ≤ e + Nat.log2 m then .fin n 1 0
    else if e + Nat.log2 m < -100 then .fin n m e
    else
      -- with y = 2|a| = k ln 2 + r: tanh |a| = (e^y - 1) / (e^y + 1)
      let y := toFx fxBits (2 * m) e
      let k := y / fxLn2
      let t := (fxExp ((y % fxLn2 : Nat) : Int)).toNat * 2 ^ k
      fromFx n ((t - fxOne) * fxOne / (t + fxOne))

/-- A special function of an FP32 pattern (R272). -/
def fnSpecial (g : FVal → FVal) (c : NanCtx) (a : DWord) : DWord :=
  let x := elemAt 32 a.toNat 0
  trunc 32 (if fmtF32.isNaN x then fmtF32.quiet x else fmtF32.round .rne false 0 c (g (fmtF32.val x)))

end Sys2Proof.Machine
end

