-- ==== Sys2Proof/Machine/FloatOps.lean ====
section
/-! DEFINITION. Floating instructions (R259 to R275): each active lane's rounded value (R262), and the rounding streams. -/
namespace Sys2Proof.Machine

/-- The latency of the FP32 FMA unit and of the conversion unit (R174, R261). -/
def latFp : Nat := 8

/-- The elements that a word of the type rounds (R264). -/
def floatElems (t : Ty) : Nat := if t = .bf16x2 then 2 else 1
/-- The 8-bit format of a type (R269, R271). -/
def narrowFmt (t : Ty) : Fmt := if t = .e5m2 then fmtE5m2 else fmtE4m3
/-- The FP32 pattern of a VI immediate (R265). -/
def fimm (i : BitVec 22) : DWord := (i.setWidth 64) <<< 10

/-- The rounding streams of a word's lanes after it (R274). -/
def State.setStreams (s : State) (x : IC) (next : Nat → DWord) : State :=
  s.modWeft x.w.id (fun w => { w with lanes := w.lanes.mapIdx (fun i l =>
    if x.lanes.contains i then { l with rstate := next i } else l) })

/-- The results that the shadow unit checks: the word's PC and each lane's main result (R276). -/
def State.setShadow (s : State) (x : IC) (g : Nat → DWord) : State :=
  s.modWeft x.w.id (fun w => { w with lanes := w.lanes.mapIdx (fun i l =>
    if x.lanes.contains i then { l with shadow := some (x.pc, (g i).setWidth 32) } else l) })

/-- A rounding word, whose results the shadow unit checks where `chk` says (R276): under `.rs` each lane draws `n` words of its stream (R274). -/
def floatWord (v : View) (lat : Option Nat) (d64 : Bool) (d : Opnd) (rnd : Rnd) (sat : Bool) (n : Nat) (chk : Bool)
    (pz : IC → Nat → Bool)    (g : IC → Nat → FEnv → DWord) (s : State) : Host.Outcome State Fault Refusal :=
  simpleWord v (fun x s1 =>
    let draw (i : Nat) : List Nat × DWord :=
      if rnd = .rs then rdraw n (x.w.lane i).rstate else ([], (x.w.lane i).rstate)
    let val (i : Nat) : DWord := g x i ⟨rnd, sat, (draw i).1, x.nan i⟩
    let vs := wordWrites d64 d x.lanes val
    let ps := wordPz d64 d x.lanes (pz x)
    let s2 := match lat with
      | some l => s1.fixed x l vs ps
      | none => s1.tracked x vs ps
    let s3 := s2.setStreams x (fun i => (draw i).2)
    (if chk then s3.setShadow x val else s3).consume x (x.lanes.filter (pz x))) s

/-- a + b (R264). -/
def execFpAdd (c : Common) (f : V3) (s : State) : Host.Outcome State Fault Refusal :=
  floatWord (Instr.fpAdd c f).view (some latFp) false f.d f.rnd f.sat (floatElems f.ty) (f.ty == .f32)
    (fun x i => x.pz false f.a i || x.pz false f.b i)
    (fun x i e => fnFpAdd f.ty e (x.rd false f.a i) (x.rd false f.b i)) s

/-- a − b (R264). -/
def execFpSub (c : Common) (f : V3) (s : State) : Host.Outcome State Fault Refusal :=
  floatWord (Instr.fpSub c f).view (some latFp) false f.d f.rnd f.sat (floatElems f.ty) (f.ty == .f32)
    (fun x i => x.pz false f.a i || x.pz false f.b i)
    (fun x i e => fnFpSub f.ty e (x.rd false f.a i) (x.rd false f.b i)) s

/-- a × b (R264). -/
def execFpMul (c : Common) (f : V3) (s : State) : Host.Outcome State Fault Refusal :=
  floatWord (Instr.fpMul c f).view (some latFp) false f.d f.rnd f.sat (floatElems f.ty) (f.ty == .f32)
    (fun x i => x.pz false f.a i || x.pz false f.b i)
    (fun x i e => fnFpMul f.ty e (x.rd false f.a i) (x.rd false f.b i)) s

/-- a × b + c, rounded once (R264). -/
def execFma (c : Common) (f : V3) (s : State) : Host.Outcome State Fault Refusal :=
  floatWord (Instr.fma c f).view (some latFp) false f.d f.rnd f.sat (floatElems f.ty) (f.ty == .f32)
    (fun x i => x.pz false f.a i || x.pz false f.b i || x.pz false f.c i)
    (fun x i e => fnFma f.ty e (x.rd false f.a i) (x.rd false f.b i) (x.rd false f.c i)) s

/-- The smaller (R264). -/
def execFpMin (c : Common) (f : V3) (s : State) : Host.Outcome State Fault Refusal :=
  valueWord (Instr.fpMin c f).view (some latFp) false f.d (fun x i => x.pz false f.a i || x.pz false f.b i)
    (fun x i => fnFpMin f.ty (x.rd false f.a i) (x.rd false f.b i)) s

/-- The larger (R264). -/
def execFpMax (c : Common) (f : V3) (s : State) : Host.Outcome State Fault Refusal :=
  valueWord (Instr.fpMax c f).view (some latFp) false f.d (fun x i => x.pz false f.a i || x.pz false f.b i)
    (fun x i => fnFpMax f.ty (x.rd false f.a i) (x.rd false f.b i)) s

/-- |a| (R264). -/
def execFpAbs (c : Common) (f : V3) (s : State) : Host.Outcome State Fault Refusal :=
  valueWord (Instr.fpAbs c f).view (some latFp) false f.d (fun x i => x.pz false f.a i)
    (fun x i => fnFpAbs f.ty (x.rd false f.a i)) s

/-- −a (R264). -/
def execFpNeg (c : Common) (f : V3) (s : State) : Host.Outcome State Fault Refusal :=
  valueWord (Instr.fpNeg c f).view (some latFp) false f.d (fun x i => x.pz false f.a i)
    (fun x i => fnFpNeg f.ty (x.rd false f.a i)) s

/-- 1 when a = b, else 0 (R266). -/
def execFpSeteq (c : Common) (f : V3) (s : State) : Host.Outcome State Fault Refusal :=
  valueWord (Instr.fpSeteq c f).view (some latFp) false f.d (fun x i => x.pz false f.a i || x.pz false f.b i)
    (fun x i => fnFpSet .eq (x.rd false f.a i) (x.rd false f.b i)) s

/-- 1 when a ≠ b, else 0 (R266). -/
def execFpSetne (c : Common) (f : V3) (s : State) : Host.Outcome State Fault Refusal :=
  valueWord (Instr.fpSetne c f).view (some latFp) false f.d (fun x i => x.pz false f.a i || x.pz false f.b i)
    (fun x i => fnFpSet .ne (x.rd false f.a i) (x.rd false f.b i)) s

/-- 1 when a < b, else 0 (R266). -/
def execFpSetlt (c : Common) (f : V3) (s : State) : Host.Outcome State Fault Refusal :=
  valueWord (Instr.fpSetlt c f).view (some latFp) false f.d (fun x i => x.pz false f.a i || x.pz false f.b i)
    (fun x i => fnFpSet .lt (x.rd false f.a i) (x.rd false f.b i)) s

/-- 1 when a ≤ b, else 0 (R266). -/
def execFpSetle (c : Common) (f : V3) (s : State) : Host.Outcome State Fault Refusal :=
  valueWord (Instr.fpSetle c f).view (some latFp) false f.d (fun x i => x.pz false f.a i || x.pz false f.b i)
    (fun x i => fnFpSet .le (x.rd false f.a i) (x.rd false f.b i)) s

/-- 1 when a > b, else 0 (R266). -/
def execFpSetgt (c : Common) (f : V3) (s : State) : Host.Outcome State Fault Refusal :=
  valueWord (Instr.fpSetgt c f).view (some latFp) false f.d (fun x i => x.pz false f.a i || x.pz false f.b i)
    (fun x i => fnFpSet .gt (x.rd false f.a i) (x.rd false f.b i)) s

/-- 1 when a ≥ b, else 0 (R266). -/
def execFpSetge (c : Common) (f : V3) (s : State) : Host.Outcome State Fault Refusal :=
  valueWord (Instr.fpSetge c f).view (some latFp) false f.d (fun x i => x.pz false f.a i || x.pz false f.b i)
    (fun x i => fnFpSet .ge (x.rd false f.a i) (x.rd false f.b i)) s

/-- 1 when a or b is a NaN, else 0 (R266). -/
def execSetnan (c : Common) (f : V3) (s : State) : Host.Outcome State Fault Refusal :=
  valueWord (Instr.setnan c f).view (some latFp) false f.d (fun x i => x.pz false f.a i || x.pz false f.b i)
    (fun x i => fnSetnan (x.rd false f.a i) (x.rd false f.b i)) s

/-- A value converted between types (R267). -/
def execCvt (c : Common) (f : CvtF) (s : State) : Host.Outcome State Fault Refusal :=
  floatWord (Instr.cvt c f).view (some latFp) f.td.is64 f.d f.rnd f.sat 1 false
    (fun x i => x.pz f.ts.is64 f.a i)
    (fun x i e => fnCvt f.td f.ts e (x.rd f.ts.is64 f.a i)) s

/-- a rounded to an integral value (R268). -/
def execFrnd (c : Common) (f : V3) (s : State) : Host.Outcome State Fault Refusal :=
  floatWord (Instr.frnd c f).view (some latFp) false f.d f.rnd false 1 false
    (fun x i => x.pz false f.a i)
    (fun x i e => fnFrnd e (x.rd false f.a i)) s

/-- 1 / a (R272). -/
def execRcp (c : Common) (f : V3) (s : State) : Host.Outcome State Fault Refusal :=
  valueWord (Instr.rcp c f).view none false f.d (fun x i => x.pz false f.a i)
    (fun x i => fnSpecial rcpVal (x.nan i) (x.rd false f.a i)) s

/-- 1 / √a (R272). -/
def execRsqrt (c : Common) (f : V3) (s : State) : Host.Outcome State Fault Refusal :=
  valueWord (Instr.rsqrt c f).view none false f.d (fun x i => x.pz false f.a i)
    (fun x i => fnSpecial rsqrtVal (x.nan i) (x.rd false f.a i)) s

/-- √a (R272). -/
def execSqrt (c : Common) (f : V3) (s : State) : Host.Outcome State Fault Refusal :=
  valueWord (Instr.sqrt c f).view none false f.d (fun x i => x.pz false f.a i)
    (fun x i => fnSpecial sqrtVal (x.nan i) (x.rd false f.a i)) s

/-- 2^a (R272). -/
def execExp2 (c : Common) (f : V3) (s : State) : Host.Outcome State Fault Refusal :=
  valueWord (Instr.exp2 c f).view none false f.d (fun x i => x.pz false f.a i)
    (fun x i => fnSpecial exp2Val (x.nan i) (x.rd false f.a i)) s

/-- log₂ a (R272). -/
def execLog2 (c : Common) (f : V3) (s : State) : Host.Outcome State Fault Refusal :=
  valueWord (Instr.log2 c f).view none false f.d (fun x i => x.pz false f.a i)
    (fun x i => fnSpecial log2Val (x.nan i) (x.rd false f.a i)) s

/-- sin a (R272). -/
def execSin (c : Common) (f : V3) (s : State) : Host.Outcome State Fault Refusal :=
  valueWord (Instr.sin c f).view none false f.d (fun x i => x.pz false f.a i)
    (fun x i => fnSpecial sinVal (x.nan i) (x.rd false f.a i)) s

/-- cos a (R272). -/
def execCos (c : Common) (f : V3) (s : State) : Host.Outcome State Fault Refusal :=
  valueWord (Instr.cos c f).view none false f.d (fun x i => x.pz false f.a i)
    (fun x i => fnSpecial cosVal (x.nan i) (x.rd false f.a i)) s

/-- tanh a (R272). -/
def execTanh (c : Common) (f : V3) (s : State) : Host.Outcome State Fault Refusal :=
  valueWord (Instr.tanh c f).view none false f.d (fun x i => x.pz false f.a i)
    (fun x i => fnSpecial tanhVal (x.nan i) (x.rd false f.a i)) s

/-- Two values rounded into a bf16x2 (R269). -/
def execPack2 (c : Common) (f : V3) (s : State) : Host.Outcome State Fault Refusal :=
  floatWord (Instr.pack2 c f).view (some latFp) false f.d f.rnd f.sat 2 false
    (fun x i => x.pz false f.a i || x.pz false f.b i)
    (fun x i e => fnPack2 e (x.rd false f.a i) (x.rd false f.b i)) s

/-- Element 0 of a bf16x2 widened (R269). -/
def execUnpklo (c : Common) (f : V3) (s : State) : Host.Outcome State Fault Refusal :=
  valueWord (Instr.unpklo c f).view (some latFp) false f.d (fun x i => x.pz false f.a i)
    (fun x i => fnUnpk 0 (x.nan i) (x.rd false f.a i)) s

/-- Element 1 of a bf16x2 widened (R269). -/
def execUnpkhi (c : Common) (f : V3) (s : State) : Host.Outcome State Fault Refusal :=
  valueWord (Instr.unpkhi c f).view (some latFp) false f.d (fun x i => x.pz false f.a i)
    (fun x i => fnUnpk 1 (x.nan i) (x.rd false f.a i)) s

/-- Four BF16 elements rounded into 8-bit floats (R269). -/
def execPack4 (c : Common) (f : V3) (s : State) : Host.Outcome State Fault Refusal :=
  floatWord (Instr.pack4 c f).view (some latFp) false f.d f.rnd f.sat 4 false
    (fun x i => x.pz false f.a i || x.pz false f.b i)
    (fun x i e => fnPack4 (narrowFmt f.ty) e (x.rd false f.a i) (x.rd false f.b i)) s

/-- Bytes 0 and 1 widened to a bf16x2 (R269). -/
def execUnpk8lo (c : Common) (f : V3) (s : State) : Host.Outcome State Fault Refusal :=
  valueWord (Instr.unpk8lo c f).view (some latFp) false f.d (fun x i => x.pz false f.a i)
    (fun x i => fnUnpk8 (narrowFmt f.ty) 0 (x.nan i) (x.rd false f.a i)) s

/-- Bytes 2 and 3 widened to a bf16x2 (R269). -/
def execUnpk8hi (c : Common) (f : V3) (s : State) : Host.Outcome State Fault Refusal :=
  valueWord (Instr.unpk8hi c f).view (some latFp) false f.d (fun x i => x.pz false f.a i)
    (fun x i => fnUnpk8 (narrowFmt f.ty) 2 (x.nan i) (x.rd false f.a i)) s

/-- The E5M3 code of a (R270). -/
def execSclenc (c : Common) (f : V3) (s : State) : Host.Outcome State Fault Refusal :=
  floatWord (Instr.sclenc c f).view (some latFp) false f.d f.rnd false 1 false
    (fun x i => x.pz false f.a i)
    (fun x i e => fnSclenc e (x.rd false f.a i)) s

/-- The value of an E5M3 code (R270). -/
def execScldec (c : Common) (f : V3) (s : State) : Host.Outcome State Fault Refusal :=
  valueWord (Instr.scldec c f).view (some latFp) false f.d (fun x i => x.pz false f.a i)
    (fun x i => fnScldec (x.nan i) (x.rd false f.a i)) s

/-- a + IMM × 2^10 as a pattern (R265). -/
def execFpAddi (c : Common) (f : VI) (s : State) : Host.Outcome State Fault Refusal :=
  floatWord (Instr.fpAddi c f).view (some latFp) false f.d .rne false 1 true (fun x i => x.pz false f.a i)
    (fun x i e => fnFpAdd .f32 e (x.rd false f.a i) (fimm f.imm)) s

/-- a × IMM × 2^10 as a pattern (R265). -/
def execFpMuli (c : Common) (f : VI) (s : State) : Host.Outcome State Fault Refusal :=
  floatWord (Instr.fpMuli c f).view (some latFp) false f.d .rne false 1 true (fun x i => x.pz false f.a i)
    (fun x i e => fnFpMul .f32 e (x.rd false f.a i) (fimm f.imm)) s

/-- The pattern IMM × 2^10 (R265). -/
def execFpMovi (c : Common) (f : VI) (s : State) : Host.Outcome State Fault Refusal :=
  valueWord (Instr.fpMovi c f).view (some latFp) false f.d (fun _ _ => false) (fun _ _ => fimm f.imm) s

/-- The rounding stream, seeded when a is not 0, and stepped (R275). -/
def execRnd (c : Common) (f : V3) (s : State) : Host.Outcome State Fault Refusal :=
  simpleWord (Instr.rnd c f).view (fun x s1 =>
    let next (i : Nat) : DWord :=
      let a := x.nat32 f.a i
      rstep (if a = 0 then (x.w.lane i).rstate else rseed a i)
    let s2 := s1.tracked x (wordWrites false f.d x.lanes (fun i => next i >>> 32)) (wordPz false f.d x.lanes (fun i => x.pz false f.a i))
    (s2.setStreams x next).consume x (x.lanes.filter (fun i => x.pz false f.a i))) s

/-- A two-term dot product plus c (R271). -/
def execDot2 (c : Common) (f : V3) (s : State) : Host.Outcome State Fault Refusal :=
  floatWord (Instr.dot2 c f).view (some latFp) false f.d f.rnd false 1 true
    (fun x i => x.pz false f.a i || x.pz false f.b i || x.pz false f.c i)
    (fun x i e => fnDot2 e (x.rd false f.a i) (x.rd false f.b i) (x.rd false f.c i)) s

/-- A four-term dot product plus c (R271). -/
def execDot4 (c : Common) (f : V3) (s : State) : Host.Outcome State Fault Refusal :=
  floatWord (Instr.dot4 c f).view (some latFp) false f.d f.rnd false 1 true
    (fun x i => x.pz false f.a i || x.pz false f.b i || x.pz false f.c i)
    (fun x i e => fnDot4 (narrowFmt f.ty) e (x.rd false f.a i) (x.rd false f.b i) (x.rd false f.c i)) s

end Sys2Proof.Machine
end

