-- ==== Sys2Proof/Machine/Dispatch.lean ====
section
/-! DEFINITION. Which meaning each step has: one arm for each row of spec/opcode_table.json. -/
namespace Sys2Proof.Machine

def exec (i : Instr) (s : State) : Host.Outcome State Fault Refusal :=
  match i with
  | .intAdd c f => Sys2Proof.Machine.execIntAdd c f s
  | .intSub c f => Sys2Proof.Machine.execIntSub c f s
  | .intMul c f => Sys2Proof.Machine.execIntMul c f s
  | .mulhi c f => Sys2Proof.Machine.execMulhi c f s
  | .mad c f => Sys2Proof.Machine.execMad c f s
  | .intMin c f => Sys2Proof.Machine.execIntMin c f s
  | .intMax c f => Sys2Proof.Machine.execIntMax c f s
  | .intAbs c f => Sys2Proof.Machine.execIntAbs c f s
  | .intNeg c f => Sys2Proof.Machine.execIntNeg c f s
  | .sad c f => Sys2Proof.Machine.execSad c f s
  | .addi c f => Sys2Proof.Machine.execAddi c f s
  | .muli c f => Sys2Proof.Machine.execMuli c f s
  | .movi c f => Sys2Proof.Machine.execMovi c f s
  | .movhi c f => Sys2Proof.Machine.execMovhi c f s
  | .andi c f => Sys2Proof.Machine.execAndi c f s
  | .ori c f => Sys2Proof.Machine.execOri c f s
  | .xori c f => Sys2Proof.Machine.execXori c f s
  | .shli c f => Sys2Proof.Machine.execShli c f s
  | .shri c f => Sys2Proof.Machine.execShri c f s
  | .srai c f => Sys2Proof.Machine.execSrai c f s
  | .and c f => Sys2Proof.Machine.execAnd c f s
  | .or c f => Sys2Proof.Machine.execOr c f s
  | .xor c f => Sys2Proof.Machine.execXor c f s
  | .andn c f => Sys2Proof.Machine.execAndn c f s
  | .orn c f => Sys2Proof.Machine.execOrn c f s
  | .not c f => Sys2Proof.Machine.execNot c f s
  | .bsel c f => Sys2Proof.Machine.execBsel c f s
  | .shl c f => Sys2Proof.Machine.execShl c f s
  | .shr c f => Sys2Proof.Machine.execShr c f s
  | .sra c f => Sys2Proof.Machine.execSra c f s
  | .rotl c f => Sys2Proof.Machine.execRotl c f s
  | .rotr c f => Sys2Proof.Machine.execRotr c f s
  | .fsh c f => Sys2Proof.Machine.execFsh c f s
  | .intSeteq c f => Sys2Proof.Machine.execIntSeteq c f s
  | .intSetne c f => Sys2Proof.Machine.execIntSetne c f s
  | .intSetlt c f => Sys2Proof.Machine.execIntSetlt c f s
  | .intSetle c f => Sys2Proof.Machine.execIntSetle c f s
  | .intSetgt c f => Sys2Proof.Machine.execIntSetgt c f s
  | .intSetge c f => Sys2Proof.Machine.execIntSetge c f s
  | .sel c f => Sys2Proof.Machine.execSel c f s
  | .popc c f => Sys2Proof.Machine.execPopc c f s
  | .clz c f => Sys2Proof.Machine.execClz c f s
  | .ctz c f => Sys2Proof.Machine.execCtz c f s
  | .brev c f => Sys2Proof.Machine.execBrev c f s
  | .bfe c f => Sys2Proof.Machine.execBfe c f s
  | .bfi c f => Sys2Proof.Machine.execBfi c f s
  | .segof c f => Sys2Proof.Machine.execSegof c f s
  | .offof c f => Sys2Proof.Machine.execOffof c f s
  | .mkaddr c f => Sys2Proof.Machine.execMkaddr c f s
  | .addoff c f => Sys2Proof.Machine.execAddoff c f s
  | .absaddr c f => Sys2Proof.Machine.execAbsaddr c f s
  | .addoffi c f => Sys2Proof.Machine.execAddoffi c f s
  | .segrd c f => Sys2Proof.Machine.execSegrd c f s
  | .bmm c f => Sys2Proof.Machine.execBmm c f s
  | .bmmt c f => Sys2Proof.Machine.execBmmt c f s
  | .bmmx c f => Sys2Proof.Machine.execBmmx c f s
  | .spread c f => Sys2Proof.Machine.execSpread c f s
  | .gather c f => Sys2Proof.Machine.execGather c f s
  | .bperm c f => Sys2Proof.Machine.execBperm c f s
  | .bgat c f => Sys2Proof.Machine.execBgat c f s
  | .bswap c f => Sys2Proof.Machine.execBswap c f s
  | .mulw c f => Sys2Proof.Machine.execMulw c f s
  | .madw c f => Sys2Proof.Machine.execMadw c f s
  | .mov c f => Sys2Proof.Machine.execMov c f s
  | .rdactive c f => Sys2Proof.Machine.execRdactive c f s
  | .addsat c f => Sys2Proof.Machine.execAddsat c f s
  | .subsat c f => Sys2Proof.Machine.execSubsat c f s
  | .packs c f => Sys2Proof.Machine.execPacks c f s
  | .packn c f => Sys2Proof.Machine.execPackn c f s
  | .fpAdd c f => Sys2Proof.Machine.execFpAdd c f s
  | .fpSub c f => Sys2Proof.Machine.execFpSub c f s
  | .fpMul c f => Sys2Proof.Machine.execFpMul c f s
  | .fma c f => Sys2Proof.Machine.execFma c f s
  | .fpMin c f => Sys2Proof.Machine.execFpMin c f s
  | .fpMax c f => Sys2Proof.Machine.execFpMax c f s
  | .fpAbs c f => Sys2Proof.Machine.execFpAbs c f s
  | .fpNeg c f => Sys2Proof.Machine.execFpNeg c f s
  | .fpSeteq c f => Sys2Proof.Machine.execFpSeteq c f s
  | .fpSetne c f => Sys2Proof.Machine.execFpSetne c f s
  | .fpSetlt c f => Sys2Proof.Machine.execFpSetlt c f s
  | .fpSetle c f => Sys2Proof.Machine.execFpSetle c f s
  | .fpSetgt c f => Sys2Proof.Machine.execFpSetgt c f s
  | .fpSetge c f => Sys2Proof.Machine.execFpSetge c f s
  | .setnan c f => Sys2Proof.Machine.execSetnan c f s
  | .cvt c f => Sys2Proof.Machine.execCvt c f s
  | .frnd c f => Sys2Proof.Machine.execFrnd c f s
  | .rcp c f => Sys2Proof.Machine.execRcp c f s
  | .rsqrt c f => Sys2Proof.Machine.execRsqrt c f s
  | .sqrt c f => Sys2Proof.Machine.execSqrt c f s
  | .exp2 c f => Sys2Proof.Machine.execExp2 c f s
  | .log2 c f => Sys2Proof.Machine.execLog2 c f s
  | .sin c f => Sys2Proof.Machine.execSin c f s
  | .cos c f => Sys2Proof.Machine.execCos c f s
  | .tanh c f => Sys2Proof.Machine.execTanh c f s
  | .pack2 c f => Sys2Proof.Machine.execPack2 c f s
  | .unpklo c f => Sys2Proof.Machine.execUnpklo c f s
  | .unpkhi c f => Sys2Proof.Machine.execUnpkhi c f s
  | .pack4 c f => Sys2Proof.Machine.execPack4 c f s
  | .unpk8lo c f => Sys2Proof.Machine.execUnpk8lo c f s
  | .unpk8hi c f => Sys2Proof.Machine.execUnpk8hi c f s
  | .sclenc c f => Sys2Proof.Machine.execSclenc c f s
  | .scldec c f => Sys2Proof.Machine.execScldec c f s
  | .fpAddi c f => Sys2Proof.Machine.execFpAddi c f s
  | .fpMuli c f => Sys2Proof.Machine.execFpMuli c f s
  | .fpMovi c f => Sys2Proof.Machine.execFpMovi c f s
  | .rnd c f => Sys2Proof.Machine.execRnd c f s
  | .dot2 c f => Sys2Proof.Machine.execDot2 c f s
  | .dot4 c f => Sys2Proof.Machine.execDot4 c f s
  | .xlGet c f => Sys2Proof.Machine.execXlGet c f s
  | .xlRot c f => Sys2Proof.Machine.execXlRot c f s
  | .xlXor c f => Sys2Proof.Machine.execXlXor c f s
  | .xlRev c f => Sys2Proof.Machine.execXlRev c f s
  | .voteAll c f => Sys2Proof.Machine.execVoteAll c f s
  | .voteAny c f => Sys2Proof.Machine.execVoteAny c f s
  | .voteEq c f => Sys2Proof.Machine.execVoteEq c f s
  | .voteBallot c f => Sys2Proof.Machine.execVoteBallot c f s
  | .redAdd c f => Sys2Proof.Machine.execRedAdd c f s
  | .redMin c f => Sys2Proof.Machine.execRedMin c f s
  | .redMax c f => Sys2Proof.Machine.execRedMax c f s
  | .redAnd c f => Sys2Proof.Machine.execRedAnd c f s
  | .redOr c f => Sys2Proof.Machine.execRedOr c f s
  | .redXor c f => Sys2Proof.Machine.execRedXor c f s
  | .scanAdd c ex f => Sys2Proof.Machine.execScanAdd c ex f s
  | .scanMin c ex f => Sys2Proof.Machine.execScanMin c ex f s
  | .scanMax c ex f => Sys2Proof.Machine.execScanMax c ex f s
  | .scanOr c ex f => Sys2Proof.Machine.execScanOr c ex f s
  | .bra c f => Sys2Proof.Machine.execBra c f s
  | .brz c f => Sys2Proof.Machine.execBrz c f s
  | .brnz c f => Sys2Proof.Machine.execBrnz c f s
  | .brind c f => Sys2Proof.Machine.execBrind c f s
  | .join c f => Sys2Proof.Machine.execJoin c f s
  | .joinX c f => Sys2Proof.Machine.execJoinX c f s
  | .wait c f => Sys2Proof.Machine.execWait c f s
  | .call c f => Sys2Proof.Machine.execCall c f s
  | .callSym c f => Sys2Proof.Machine.execCallSym c f s
  | .callInd c f => Sys2Proof.Machine.execCallInd c f s
  | .ret c f => Sys2Proof.Machine.execRet c f s
  | .exit c f => Sys2Proof.Machine.execExit c f s
  | .enter c bud size => Sys2Proof.Machine.execEnter c bud size s
  | .leave c size => Sys2Proof.Machine.execLeave c size s
  | .mark c f => Sys2Proof.Machine.execMark c f s
  | .cut c f => Sys2Proof.Machine.execCut c f s
  | .graft c f => Sys2Proof.Machine.execGraft c f s
  | .drop c f => Sys2Proof.Machine.execDrop c f s
  | .prefi c f => Sys2Proof.Machine.execPrefi c f s
  | .nop c f => Sys2Proof.Machine.execNop c f s
  | .pause c f => Sys2Proof.Machine.execPause c f s
  | .ld c f => Sys2Proof.Machine.execLd c f s
  | .lds c f => Sys2Proof.Machine.execLds c f s
  | .st c f => Sys2Proof.Machine.execSt c f s
  | .sts c f => Sys2Proof.Machine.execSts c f s
  | .atomAdd c f => Sys2Proof.Machine.execAtomAdd c f s
  | .atomMin c f => Sys2Proof.Machine.execAtomMin c f s
  | .atomMax c f => Sys2Proof.Machine.execAtomMax c f s
  | .atomAnd c f => Sys2Proof.Machine.execAtomAnd c f s
  | .atomOr c f => Sys2Proof.Machine.execAtomOr c f s
  | .atomXor c f => Sys2Proof.Machine.execAtomXor c f s
  | .atomExch c f => Sys2Proof.Machine.execAtomExch c f s
  | .cas c f => Sys2Proof.Machine.execCas c f s
  | .fence c f => Sys2Proof.Machine.execFence c f s
  | .bind c f => Sys2Proof.Machine.execBind c f s
  | .unbind c f => Sys2Proof.Machine.execUnbind c f s
  | .lookup c f => Sys2Proof.Machine.execLookup c f s
  | .push c f => Sys2Proof.Machine.execPush c f s
  | .pop c f => Sys2Proof.Machine.execPop c f s
  | .pref c f => Sys2Proof.Machine.execPref c f s
  | .discard c f => Sys2Proof.Machine.execDiscard c f s
  | .bload c f => Sys2Proof.Machine.execBload c f s
  | .bclr c f => Sys2Proof.Machine.execBclr c f s
  | .mmaW c f => Sys2Proof.Machine.execMmaW c f s
  | .mmaQ c f => Sys2Proof.Machine.execMmaQ c f s
  | .mmaS c f => Sys2Proof.Machine.execMmaS c f s
  | .align c f => Sys2Proof.Machine.execAlign c f s
  | .sacc c f => Sys2Proof.Machine.execSacc c f s
  | .tld c f => Sys2Proof.Machine.execTld c f s
  | .tst c f => Sys2Proof.Machine.execTst c f s
  | .tzero c f => Sys2Proof.Machine.execTzero c f s
  | .pld c f => Sys2Proof.Machine.execPld c f s
  | .pst c f => Sys2Proof.Machine.execPst c f s
  | .pzero c f => Sys2Proof.Machine.execPzero c f s
  | .copy c f => Sys2Proof.Machine.execCopy c f s
  | .qfence c f => Sys2Proof.Machine.execQfence c f s
  | .ftest c f => Sys2Proof.Machine.execFtest c f s
  | .fwait c f => Sys2Proof.Machine.execFwait c f s
  | .fcancel c f => Sys2Proof.Machine.execFcancel c f s
  | .hget c f => Sys2Proof.Machine.execHget c f s
  | .hgetRef c f => Sys2Proof.Machine.execHgetRef c f s
  | .hput c f => Sys2Proof.Machine.execHput c f s
  | .arrive c f => Sys2Proof.Machine.execArrive c f s
  | .bwait c f => Sys2Proof.Machine.execBwait c f s
  | .bsync c f => Sys2Proof.Machine.execBsync c f s
  | .enq c f => Sys2Proof.Machine.execEnq c f s
  | .deq c f => Sys2Proof.Machine.execDeq c f s
  | .dcinit c f => Sys2Proof.Machine.execDcinit c f s
  | .dcadd c f => Sys2Proof.Machine.execDcadd c f s
  | .npost c f => Sys2Proof.Machine.execNpost c f s
  | .nwait c f => Sys2Proof.Machine.execNwait c f s
  | .sysr c f => Sys2Proof.Machine.execSysr c f s
  | .sysw c f => Sys2Proof.Machine.execSysw c f s
  | .xinvSeg c f => Sys2Proof.Machine.execXinvSeg c f s
  | .xinvPages c f => Sys2Proof.Machine.execXinvPages c f s
  | .xinvCtx c f => Sys2Proof.Machine.execXinvCtx c f s
  | .shootdownComplete id => Sys2Proof.Machine.execShootdownComplete id s
  | .trace c f => Sys2Proof.Machine.execTrace c f s
  | .trap c f => Sys2Proof.Machine.execTrap c f s
  | .rett c f => Sys2Proof.Machine.execRett c f s
  | .publish c f => Sys2Proof.Machine.execPublish c f s
  | .chkerr c f => Sys2Proof.Machine.execChkerr c f s
  | .brk c f => Sys2Proof.Machine.execBrk c f s
  | .issueSlot core => Sys2Proof.Machine.execIssueSlot core s
  | .unitResultComplete weft id => Sys2Proof.Machine.execUnitResultComplete weft id s
  | .memoryAccessComplete weft id => Sys2Proof.Machine.execMemoryAccessComplete weft id s
  | .storePerform weft => Sys2Proof.Machine.execStorePerform weft s
  | .atomicAtHome weft => Sys2Proof.Machine.execAtomicAtHome weft s
  | .windowAccess id => Sys2Proof.Machine.execWindowAccess id s
  | .remoteAccess r => Sys2Proof.Machine.execRemoteAccess r s
  | .walkSlotGrant die => Sys2Proof.Machine.execWalkSlotGrant die s
  | .walkComplete die id => Sys2Proof.Machine.execWalkComplete die id s
  | .pagerResolve t => Sys2Proof.Machine.execPagerResolve t s
  | .pagerDecline t => Sys2Proof.Machine.execPagerDecline t s
  | .copySectorLand core queue => Sys2Proof.Machine.execCopySectorLand core queue s
  | .mqEntryArrival core slot => Sys2Proof.Machine.execMqEntryArrival core slot s
  | .mqCreditReturn id => Sys2Proof.Machine.execMqCreditReturn id s
  | .pushRetryTimeout weft => Sys2Proof.Machine.execPushRetryTimeout weft s
  | .matrixWordStart core id => Sys2Proof.Machine.execMatrixWordStart core id s
  | .treadleStepEnd core id => Sys2Proof.Machine.execTreadleStepEnd core id s
  | .matrixWordComplete core id => Sys2Proof.Machine.execMatrixWordComplete core id s
  | .barrierComplete b => Sys2Proof.Machine.execBarrierComplete b s
  | .launchTake die => Sys2Proof.Machine.execLaunchTake die s
  | .panelPlace die => Sys2Proof.Machine.execPanelPlace die s
  | .panelEnd panel => Sys2Proof.Machine.execPanelEnd panel s
  | .stealStep die => Sys2Proof.Machine.execStealStep die s
  | .preemptRequest panel => Sys2Proof.Machine.execPreemptRequest panel s
  | .panelSave panel => Sys2Proof.Machine.execPanelSave panel s
  | .panelResume saved => Sys2Proof.Machine.execPanelResume saved s
  | .gangSwitch gang => Sys2Proof.Machine.execGangSwitch gang s
  | .hangWatchdog weft => Sys2Proof.Machine.execHangWatchdog weft s
  | .commitPoint panel => Sys2Proof.Machine.execCommitPoint panel s
  | .rollback panel cause => Sys2Proof.Machine.execRollback panel cause s
  | .eccError e => Sys2Proof.Machine.execEccError e s
  | .crossFunctionAccown id => Sys2Proof.Machine.execCrossFunctionAccown id s
  | .functionLevelReset fn => Sys2Proof.Machine.execFunctionLevelReset fn s
  | .quadDrain die quad => Sys2Proof.Machine.execQuadDrain die quad s
  | .quadRepair die quad r => Sys2Proof.Machine.execQuadRepair die quad r s
  | .hbmRowSpare stack row => Sys2Proof.Machine.execHbmRowSpare stack row s
  | .firmwareUpdate die signed => Sys2Proof.Machine.execFirmwareUpdate die signed s
  | .keyCreate key => Sys2Proof.Machine.execKeyCreate key s
  | .keyDestroy key => Sys2Proof.Machine.execKeyDestroy key s
  | .keyDrainComplete key => Sys2Proof.Machine.execKeyDrainComplete key s
  | .launchDoorbell fn value => Sys2Proof.Machine.execLaunchDoorbell fn value s
  | .apsegWrite fn value => Sys2Proof.Machine.execApsegWrite fn value s
  | .evctlWrite fn value => Sys2Proof.Machine.execEvctlWrite fn value s
  | .bar0Write fn off value => Sys2Proof.Machine.execBar0Write fn off value s
  | .hostApertureWrite fn off bytes => Sys2Proof.Machine.execHostApertureWrite fn off bytes s
  | .hostApertureRead fn off len => Sys2Proof.Machine.execHostApertureRead fn off len s
  | .atsTranslationResponse id page => Sys2Proof.Machine.execAtsTranslationResponse id page s
  | .atsInvalidation die page => Sys2Proof.Machine.execAtsInvalidation die page s
  | .netPacketSend core queue => Sys2Proof.Machine.execNetPacketSend core queue s
  | .netPacketReceive die p => Sys2Proof.Machine.execNetPacketReceive die p s
  | .netAckReceive die a => Sys2Proof.Machine.execNetAckReceive die a s
  | .netRtoExpiry die pdc psn => Sys2Proof.Machine.execNetRtoExpiry die pdc psn s
  | .pdcIdleTimeout die pdc => Sys2Proof.Machine.execPdcIdleTimeout die pdc s
  | .nwaitRecheck weft => Sys2Proof.Machine.execNwaitRecheck weft s
  | .ptpMessage master => Sys2Proof.Machine.execPtpMessage master s
  | .holdoverReport => Sys2Proof.Machine.execHoldoverReport s
  | .thermalThrottle die => Sys2Proof.Machine.execThermalThrottle die s
  | .thermalTrip die => Sys2Proof.Machine.execThermalTrip die s
  | .coldReset fail => Sys2Proof.Machine.execColdReset fail s
  | .attestationRequest bus nonce => Sys2Proof.Machine.execAttestationRequest bus nonce s
  | .publishCheck id => Sys2Proof.Machine.execPublishCheck id s
  | .traceRingMove core => Sys2Proof.Machine.execTraceRingMove core s
  | .debugAttach ctx => Sys2Proof.Machine.execDebugAttach ctx s
  | .debugDetach ctx => Sys2Proof.Machine.execDebugDetach ctx s
  | .debugResume weft => Sys2Proof.Machine.execDebugResume weft s
  | .debugStep weft => Sys2Proof.Machine.execDebugStep weft s
  | .debugHalt t => Sys2Proof.Machine.execDebugHalt t s
  | .debugSnapshot weft => Sys2Proof.Machine.execDebugSnapshot weft s
  | .breakpointWrite ctx watch index entry => Sys2Proof.Machine.execBreakpointWrite ctx watch index entry s
  | .laneRelease weft lane => Sys2Proof.Machine.execLaneRelease weft lane s
  | .laneReleaseAtPc weft lane pc => Sys2Proof.Machine.execLaneReleaseAtPc weft lane pc s
  | .laneEnd weft lane => Sys2Proof.Machine.execLaneEnd weft lane s
  | .launchQueueTableWrite die entry v => Sys2Proof.Machine.execLaunchQueueTableWrite die entry v s
  | .stealTableWrite ctx die index seg => Sys2Proof.Machine.execStealTableWrite ctx die index seg s
  | .endpointWrite ctx index entry => Sys2Proof.Machine.execEndpointWrite ctx index entry s
  | .associationKeyWrite sa okey => Sys2Proof.Machine.execAssociationKeyWrite sa okey s
  | .gangInstantWrite out inc at_ => Sys2Proof.Machine.execGangInstantWrite out inc at_ s
  | .pnodeWrite node => Sys2Proof.Machine.execPnodeWrite node s
  | .firmwareRestartEnd die => Sys2Proof.Machine.execFirmwareRestartEnd die s
  | .throttleRelease die => Sys2Proof.Machine.execThrottleRelease die s
  | .traceRingWrite ctx seg => Sys2Proof.Machine.execTraceRingWrite ctx seg s

end Sys2Proof.Machine
end

