-- ==== Sys2Proof/Machine/Fetch.lean ====
section
/-! DEFINITION. The word that the issue stage has chosen (R170): its bytes from the I-pad (R103), its check under R197, and the
placing of a word where the next step fetches. -/
namespace Sys2Proof.Machine

/-- A write of XINV by its OPC, bits 63:60 of the value (R70). -/
def xinvName (c : Common) (f : SF) (v : DWord) : Instr :=
  match bitsOf v.toNat 63 60 with
  | 1 => .xinvSeg c f
  | 2 => .xinvPages c f
  | 3 => .xinvCtx c f
  | _ => .sysw c f

/-- A decoded word under the name of its row: `sysw` of XINV is one of three rows by the value it writes (R70). -/
def rowOf (i : Instr) (v : Opnd → DWord) : Instr :=
  match i with
  | .sysw c f => if f.sreg = .xinv then xinvName c f (v f.a) else i
  | _ => i

/-- The instruction of the word at an offset of the clause whose header is at another (R178, R180, R197). -/
def State.wordAt (s : State) (core : Nat) (c : CtxId) (seg : Seg) (hdr off : Off) : Except Illegal Instr :=
  match decodeHeader (s.fetchWord core c seg hdr.toNat) with
  | none => .error .header
  | some h => decodeBytes h.cls.toNat (off.toNat == hdr.toNat + 8 * (h.count.toNat + 1))
      (natLE 8 (s.fetchWord core c seg off.toNat).toNat)

/-- The instruction that a chosen word decodes to, under the name of its row. -/
def State.chosen (s : State) (sw : SlotWord) : Except Illegal Instr :=
  let w := s.weft sw.weft
  match s.wordAt w.core (s.panel w.panel).ctx (segOf sw.pc) sw.hdr (offOf sw.pc) with
  | .error e => .error e
  | .ok i =>
    let s1 := s.ready sw
    let x := icOf s1 sw
    .ok (rowOf i (fun o => x.rd true o x.agent))

/-- Whether the word at a PC has a matrix major (R195). -/
def State.matrixAt (s : State) (core : Nat) (c : CtxId) (pc : DWord) : Bool :=
  let op := (fld (s.fetchWord core c (segOf pc) (offOf pc).toNat) 58 6).toNat
  decide (0x38 ≤ op ∧ op ≤ 0x3B)

/-- The checks of R197 that follow that of the fields. -/
def afterField : Illegal → Bool
  | .type | .shape | .operand => true
  | .major | .sub | .place | .field | .header | .entry | .frame => false

/-- The first check that a word fails on a core: GM without the core's own bit is a FIELD failure (R189, R197). -/
def State.firstFail (s : State) (core : Nat) (c : CtxId) (pc : DWord) (e : Illegal) : Illegal :=
  if afterField e && gmBadWord (coreIdx core) (s.fetchWord core c (segOf pc) (offOf pc).toNat) then .field else e

/-- A word that fails its check: its lanes take ILLEGAL with the check's reason, the agent alone at a matrix word (R197, R198). -/
def State.illegalWord (s : State) (sw : SlotWord) (e : Illegal) : State :=
  let x := icOf s sw
  if x.lanes.isEmpty then s
  else s.refuse x (e != .header && s.matrixAt x.w.core x.p.ctx sw.pc) .fetch (illFault (s.firstFail x.w.core x.p.ctx sw.pc e) sw.pc)

/-! ### Placing a word where the next step fetches it -/

/-- A lane at a word of a clause whose header is at offset 0. -/
def Lane.at0 : Lane := ⟨mkAddr 1 8, .inside 0, .active, false, 2, 0x20, 0x20, 0, 1, none, 0, none, List.replicate 9 none, [], none, none, none⟩
/-- The weft of a placed word: lane 0 is active, the others have exited. -/
def Weft.at0 (id : Nat) : Weft :=
  { Weft.nil with
    id := id
    panel := id
    lanes := Lane.at0 :: List.replicate 31 { Lane.at0 with st := .exited }
    flags := List.replicate 13 0
    masks := List.replicate 16 (0, 0)
    handles := List.replicate 16 none
    subs := List.replicate 4 Sub.free
    nodes := List.replicate 4 none }
/-- The panel of a placed word, on core 0. -/
def Panel.at0 (id : Nat) : Panel :=
  { Panel.nil with
    id := id
    launch := { Launch.nil with ctx := 1, bud := 15, padu := 1, acct := 1, partt := 1, panels := 1, bscope := 0 }
    wmask := 1
    amask := 1
    pmask := 1
    life := .running
    bars := List.replicate 9 BarRec.nil }
/-- A clause of one word: its header and the word (R178, R179). -/
def oneWord (w : DWord) : List Byte :=
  natLE 8 ((0x3F * 2 ^ 58) + classOf (fld w 58 6).toNat % 8 * 2 ^ 51) ++ natLE 8 w.toNat

/-- The state with one clause resident in core 0's I-pad (R91), a lane of a new panel at its only word, and that word chosen by
the issue stage. -/
def State.placeWord (s : State) (w : DWord) : State :=
  let id := s.nextId
  let bytes := ((oneWord w).zipIdx).foldl (fun m bi => sput 0 m (coreBlock 0 + ipadOff + bi.2) bi.1) s.mem.bytes
  let s1 := s.modCore 0 (fun c => { c with resid := ⟨1, 1, 0, 16, 0⟩ :: c.resid })
  { s1 with
    mem := { s1.mem with bytes := bytes }
    panels := s1.panels ++ [Panel.at0 id]
    wefts := s1.wefts ++ [Weft.at0 id]
    nextId := id + 1
    slot := [⟨id, 1, mkAddr 1 8, 0, (s.core 0).slot + 1, 0, 0, none⟩]
    cur := none }

end Sys2Proof.Machine
end

