-- ==== Sys2Proof/Machine/Step.lean ====
section
/-! DEFINITION. One step of the machine: a word that the issue stage has chosen, else the next step of the agenda. -/
namespace Sys2Proof.Machine

/-- One step: a chosen word is fetched, checked and performed by its lanes (R103, R197); else the next step of the agenda, or
the default one. -/
def step (s : State) : Host.Outcome State Fault Refusal :=
  match s.slot with
  | sw :: rest =>
    match s.chosen sw with
    | .ok i => exec i { s with slot := rest, cur := some sw }
    | .error e => .next (({ s with slot := rest } : State).illegalWord sw e)
  | [] => exec s.nextStep.1 s.nextStep.2

/-- The state with an instruction word placed where `step` fetches its next one. -/
def State.withFetchWord (s : State) (_nbits w : Nat) : State := s.placeWord (BitVec.ofNat 64 w)

end Sys2Proof.Machine
end

