-- ==== Sys2Proof/Safety.lean ====
section
/-! DEFINITION. What counts as a well-formed state and a safe run, and the terms that claims about the meanings use: when a word is
due, what a word that has issued leaves of its weft and of the rest of the state. -/
namespace Sys2Proof.Machine

/-- Memory in its canonical form: addresses strictly rising, no byte listed that equals what an unlisted address reads as; the
same of the tags of HBM data units. -/
def MemSt.wf (m : MemSt) : Bool :=
  smapOk 0 m.bytes && smapOk 0 m.host && smapOk 0 m.remote && smapOk (0, 0, 0) m.tags

/-- The state's memory is in its canonical form. -/
def State.Inv (s : State) : Prop := s.mem.wf = true

/-- A step that goes on: no instruction stops the machine (R403: faults are next states). -/
def Goes (o : Host.Outcome State Fault Refusal) : Prop := ∃ s, o = .next s

/-! ### A word that is due -/

/-- The word of `sw` is the one to be performed in `s`, `x` is what it reads with, and every check of the issue stage passes
(R197, R198): it has not issued yet (R74), some lane is active at it, a gang that it names holds its core (R189), its registers lie in the allocation (R176), a privileged form is in SYSTEM mode (R193), its
flag has room (R175), and no matrix word that a commit point must wait for is outstanding (R449). -/
structure Due (s : State) (sw : SlotWord) (x : IC) (v : View) (sysOnly : Bool) : Prop where
  cur    : s.cur = some sw
  fresh  : sw.late = none
  reads  : x = icOf (s.ready sw) sw
  active : x.lanes ≠ []
  gang   : v.gmBad (coreIdx x.w.core) = false
  budget : v.overBudget x.p.alloc = false
  mode   : sysOnly = true → x.sys = true
  flag   : x.flagFull v.common = false
  beam   : x.p.launch.replay = true → viewCommits v = true → (s.ready sw).beamBusy x.p.id = false

/-! ### Registers with their pending results -/

/-- The newest value of a register: a pending result's, else the register's (R174, R175). -/
def newestIn (regs : List (Nat × DWord)) (k : Nat) : List Pend → DWord
  | [] => sget 0 regs k
  | p :: ps => match lookupKey k p.vals with
    | some v => v
    | none => newestIn regs k ps

/-- Whether the newest value of a register is poisoned (R440). -/
def markedIn (poison : List Nat) (k : Nat) : List Pend → Bool
  | [] => poison.contains k
  | p :: ps => match lookupKey k p.vals with
    | some _ => p.pz.contains k
    | none => markedIn poison k ps

/-- The newest value of a register of a weft. -/
def Weft.newest (w : Weft) (k : Nat) : DWord := newestIn w.regs k w.pend
/-- Whether the newest value of a register of a weft is poisoned. -/
def Weft.marked (w : Weft) (k : Nat) : Bool := markedIn w.poison k w.pend

/-! ### What a word leaves alone -/

/-- A weft without what counts its instructions. -/
def Weft.uncounted (w : Weft) : Weft := { w with tracks := [], flags := [] }

/-- A weft without lanes, registers and counts: its store queue, loads, masks, handles, subgroups, waiter nodes and debug state. -/
def Weft.apart (w : Weft) : Weft :=
  { w with lanes := [], regs := [], poison := [], pend := [], tracks := [], flags := [], swWait := false, hang := 0 }

/-- A panel without the mark of its open interval and the counts of its checkpoint. -/
def Panel.apart (p : Panel) : Panel :=
  { p with inOpen := false, ckpt := p.ckpt.map (fun k => { k with wefts := k.wefts.map Weft.uncounted }) }

/-- A context without its counters and its error register, which every issue and every consumption of poison change (R442, R481). -/
def Ctx.apart (c : Ctx) : Ctx := { c with counters := [], cir := 0 }

/-- A saved panel without the counts of its wefts. -/
def Saved.apart (v : Saved) : Saved := { v with wefts := v.wefts.map Weft.uncounted }

/-- The state without its wefts and without what the issue of any word counts: memory, cores with their caches, queues, tiles and
macros, panels, contexts, futures, keys, launches, walks, network, functions and dies. -/
def State.apart (s : State) : State :=
  { s with wefts := [], panels := s.panels.map Panel.apart, ctxs := s.ctxs.map Ctx.apart, saved := s.saved.map Saved.apart,
           reports := [], nextId := 0, fresh := 0, cur := none }

/-- Nothing more happens to a lane. -/
def noMore : Nat → Lane → Lane := fun _ l => l

/-- A lane that has issued the word of `x`: its slot history, its PC past the word, its place in the clause (R173, R181). -/
def IC.passed (x : IC) (s : State) (i : Nat) : Lane :=
  { x.w.lane i with last := some x.slot, pc := x.pc + 8, pos := s.nextPos x, shadow := none }

/-- From `s`, in which it read with `x`, a word has issued and written registers: in `t` its lanes stand after it, changed as `after`
says, and the others are as they were; the registers of `vs` hold their values and all others keep theirs; its flag counts its result,
where it has one, until that is readable (R175, R182); every other weft, memory and everything else is as it was. -/
structure Wrote (s t : State) (x : IC) (c : Common) (after : Nat → Lane → Lane) (vs : List (Nat × DWord))
    (pz : List Nat) : Prop where
  lanes  : ∀ i, (t.weft x.w.id).lane i = if i ∈ x.lanes then after i (x.passed s i) else x.w.lane i
  regs   : ∀ k, (t.weft x.w.id).newest k = (lookupKey k vs).getD (x.w.newest k)
  poison : ∀ k, (t.weft x.w.id).marked k = if (lookupKey k vs).isSome then pz.contains k else x.w.marked k
  flags  : (t.weft x.w.id).flags = if vs ≠ [] ∧ c.flag ≠ 0 then x.w.flags.modify c.flag.toNat (· + 1) else x.w.flags
  weft   : (t.weft x.w.id).apart = x.w.apart
  others : ∀ w, w ≠ x.w.id → t.weft w = s.weft w
  mem    : t.mem = s.mem
  apart  : t.apart = s.apart

/-! ### Words that write a value in each lane -/

/-- Whenever `i` is due, it completes: `exec` answers the next state in which each of its lanes has its value (`f`) and poison (`pz`)
at destination `d` of width 64 (`w64`) or 32, written as R99 and R183 place it, and nothing else has changed. -/
def Writes (i : Instr) (w64 : Bool) (d : Opnd) (pz : IC → Nat → Bool) (f : IC → Nat → DWord) : Prop :=
  ∀ s sw x, Due s sw x i.view false → ∃ t, exec i s = .next t ∧
    Wrote (s.ready sw) t x i.view.common noMore (wordWrites w64 d x.lanes (f x)) (wordPz w64 d x.lanes (pz x))

/-- The same of a word that may draw from the rounding streams of its lanes: `next` is a lane's stream after it (R273, R274). `chk`: the
shadow unit checks its results, which a lane keeps for that with the word's PC (R276, R277). -/
def WritesDrawing (i : Instr) (chk w64 : Bool) (d : Opnd) (pz : IC → Nat → Bool) (next f : IC → Nat → DWord) : Prop :=
  ∀ s sw x, Due s sw x i.view false → ∃ t, exec i s = .next t ∧
    Wrote (s.ready sw) t x i.view.common
      (fun k l => { l with rstate := next x k, shadow := if chk then some (x.pc, (f x k).setWidth 32) else none }) (wordWrites w64 d x.lanes (f x))
      (wordPz w64 d x.lanes (pz x))

/-- A word of one source. -/
def Writes1 (i : Instr) (d64 : Bool) (d : Opnd) (a64 : Bool) (a : Opnd) (g : DWord → DWord) : Prop :=
  Writes i d64 d (fun x k => x.pz a64 a k) (fun x k => g (x.rd a64 a k))
/-- A word of two sources: its result is poisoned when either is (R441). -/
def Writes2 (i : Instr) (d64 : Bool) (d : Opnd) (a64 : Bool) (a : Opnd) (b64 : Bool) (b : Opnd) (g : DWord → DWord → DWord) : Prop :=
  Writes i d64 d (fun x k => x.pz a64 a k || x.pz b64 b k) (fun x k => g (x.rd a64 a k) (x.rd b64 b k))
/-- A word of three sources. -/
def Writes3 (i : Instr) (d64 : Bool) (d : Opnd) (a64 : Bool) (a : Opnd) (b64 : Bool) (b : Opnd) (c64 : Bool) (c : Opnd)
    (g : DWord → DWord → DWord → DWord) : Prop :=
  Writes i d64 d (fun x k => x.pz a64 a k || x.pz b64 b k || x.pz c64 c k)
    (fun x k => g (x.rd a64 a k) (x.rd b64 b k) (x.rd c64 c k))

/-! ### Words whose lanes are checked one by one -/

/-- A word of which every active lane passes its own checks: `exec` answers a next state, in which the word has written as `Wrote`
says. -/
def Completes (i : Instr) (s : State) (sw : SlotWord) (x : IC) (after : Nat → Lane → Lane) (vs : List (Nat × DWord))
    (pz : List Nat) : Prop :=
  ∃ u, exec i s = .next u ∧ Wrote (s.ready sw) u x i.view.common after vs pz

/-- A word that moves its lanes and writes no register: under `pre`, each lane stands where `after` puts it. -/
def Moves (i : Instr) (pre : State → IC → Prop) (after : State → IC → Nat → Lane → Lane) : Prop :=
  ∀ s sw x, Due s sw x i.view false → pre (s.ready sw) x → Completes i s sw x (after (s.ready sw) x) [] []

/-- A word that changes its lanes and nothing else: each stands where `after` puts it. -/
def Steps (i : Instr) (after : IC → Nat → Lane → Lane) : Prop :=
  ∀ s sw x, Due s sw x i.view false → ∃ t, exec i s = .next t ∧ Wrote (s.ready sw) t x i.view.common (after x) [] []

/-- From `s`, in which it read with `x`, a word has just issued, in `u`: its lanes stand after it, its flag counts it, its own part has not
ended (R175, R305), SW makes its weft wait; registers, pending results, memory and everything else are as they were. -/
structure Issued (s u : State) (x : IC) (c : Common) : Prop where
  lanes  : ∀ i, (u.weft x.w.id).lane i = if i ∈ x.lanes then x.passed s i else x.w.lane i
  track  : (u.weft x.w.id).tracks = ⟨x.track, c.flag.toNat, 1, []⟩ :: x.w.tracks
  flags  : (u.weft x.w.id).flags = if c.flag = 0 then x.w.flags else x.w.flags.modify c.flag.toNat (· + 1)
  waits  : (u.weft x.w.id).swWait = (x.w.swWait || c.sw)
  rest   : { u.weft x.w.id with lanes := [], tracks := [], flags := [], swWait := false, hang := 0 } =
    { x.w with lanes := [], tracks := [], flags := [], swWait := false, hang := 0 }
  others : ∀ w, w ≠ x.w.id → u.weft w = s.weft w
  mem    : u.mem = s.mem
  apart  : u.apart = s.apart

/-- Whenever `i` is due and `pre` holds, it completes: it issues, has the effect `act`, and its own part ends. -/
def Performs (i : Instr) (sysOnly : Bool) (pre : State → IC → Prop) (act : IC → State → State) : Prop :=
  ∀ s sw x, Due s sw x i.view sysOnly → pre (s.ready sw) x → ∃ u, Issued (s.ready sw) u x i.view.common ∧
    exec i s = .next ((act x u).partDone x.w.id x.track)

/-- The effects of a word's lanes in ascending order. -/
def IC.each (x : IC) (f : Nat → State → State) (u : State) : State := x.lanes.foldl (fun y k => f k y) u

/-- Mask `j` after its sets have become E and A: released when they are equal and not empty (R172). -/
def maskAfter (e a : LaneMask) : LaneMask × LaneMask := if e = a ∧ e ≠ 0 then (e, 0) else (e, a)

/-- From `s`, a rejoin word on mask `j` has issued, in `t`: the sets became `e` and `a`, the lanes `arrived` wait; when that releases the
mask, every lane waiting at it goes on; nothing else has changed. -/
structure Rejoined (s t : State) (x : IC) (j : Nat) (e a arrived : LaneMask) : Prop where
  mask   : (t.weft x.w.id).mask j = maskAfter e a
  masks  : ∀ k, k ≠ j → (t.weft x.w.id).mask k = x.w.mask k
  lanes  : ∀ i,
    let l := if i ∈ x.lanes then x.passed s i else x.w.lane i
    let l := if arrived.getLsbD i then { l with st := .parked (.rejoin j) } else l
    (t.weft x.w.id).lane i = if e = a ∧ e ≠ 0 then l.unpark (Park.onMask j) else l
  regs   : ∀ k, (t.weft x.w.id).newest k = x.w.newest k ∧ (t.weft x.w.id).marked k = x.w.marked k
  flags  : (t.weft x.w.id).flags = x.w.flags
  weft   : { (t.weft x.w.id).apart with masks := [] } = { x.w.apart with masks := [] }
  others : ∀ w, w ≠ x.w.id → t.weft w = s.weft w
  mem    : t.mem = s.mem
  apart  : t.apart = s.apart

/-! ### Cross-lane words -/

/-- Whether lane `j` is a member for lane `i` (R300). -/
def IC.inMask (x : IC) (c : Opnd) (i j : Nat) : Bool := (x.rd false c i).getLsbD j

/-- The members' values for lane `i` in ascending order, of the members that `keep` keeps; `ident` for an exited one (R300, R302). -/
def IC.memberVals (x : IC) (f : V3) (ident : DWord) (i : Nat) (keep : Nat → Bool) : List DWord :=
  ((List.range 32).filter (fun j => x.inMask f.c i j && keep j)).map (x.contrib f.ty.is64 f.a ident)

/-- Whether the mask or a value that lane `i` combines is poisoned (R441). -/
def IC.memberMarked (x : IC) (f : V3) (i : Nat) (keep : Nat → Bool) : Bool :=
  x.pz false f.c i || ((List.range 32).filter (fun j => x.inMask f.c i j && keep j)).any (x.contribPz f.ty.is64 f.a)

/-- A cross-lane word each of whose lanes lies in its own mask completes: flag-tracked, it writes `g` in each lane (R300, R303). -/
def Crosses (i : Instr) (f : V3) (pz : IC → Nat → Bool) (g : IC → Nat → DWord) : Prop :=
  ∀ s sw x, Due s sw x i.view false → (∀ k ∈ x.lanes, x.inMask f.c k k = true) →
    Completes i s sw x noMore (wordWrites f.ty.is64 f.d x.lanes (g x)) (wordPz f.ty.is64 f.d x.lanes (pz x))

/-! ### Places -/

/-- A byte of memory proper: no register reached through a window, no sign byte of a partial word (R102), not the zeros of a dead page. -/
def Loc.plain : Loc → Bool
  | .chip pa _ => !isReg pa && !(isPart pa && decide (6 ≤ blockOff pa % 8))
  | .hbm _ _ _ => true
  | .zero => false
  | .host _ _ => true
  | .remote _ _ _ _ _ => true

/-- Two places no write of one of which changes the other: other bytes, and of HBM under other keys other data units (R87). -/
def Apart : Loc → Loc → Prop
  | .hbm p k _, .hbm q j _ => p ≠ q ∧ (k = j ∨ p / 64 ≠ q / 64)
  | .chip p _, .chip q _ => p ≠ q
  | .hbm p _ _, .chip q _ => p / 64 ≠ q / 64
  | .chip p _, .hbm q _ _ => p / 64 ≠ q / 64
  | .host _ a, .host _ b => a ≠ b
  | .remote n r _ _ o, .remote m u _ _ v => remoteKey n r o ≠ remoteKey m u v
  | _, _ => True

/-- Two places that no access takes for one under two keys (R87): HBM bytes of one data unit lie under one key index, and no byte of HBM
beside one of a core structure. -/
def Alike : Loc → Loc → Prop
  | .hbm p k _, .hbm q j _ => k = j ∨ p / 64 ≠ q / 64
  | .hbm p _ _, .chip q _ => p / 64 ≠ q / 64
  | .chip p _, .hbm q _ _ => p / 64 ≠ q / 64
  | _, _ => True

/-- The die stores hold no line whose leaving them would change what a place reads (R87, R125): of an HBM place, one line at most of its
data unit, under its own key index, and dirty or as the arrays hold it; none that names a byte of a core structure. -/
def State.settledAt (s : State) : Loc → Prop
  | .hbm p k _ => (s.mem.lines.filter (fun l => l.unit == p / 64)).length ≤ 1 ∧ ∀ l ∈ s.mem.lines, l.unit = p / 64 → l.okey = k ∧
      (l.dirty = true ∨ ∀ i < 64, l.bytes.getD i 0 = s.dramByte (64 * l.unit + i) k)
  | .chip p _ => ∀ l ∈ s.mem.lines, l.unit ≠ p / 64
  | .zero => True
  | .host _ _ => True
  | .remote _ _ _ _ _ => True

/-! ### Forms and numbers -/

/-- The forms that R195 gives a word of format V3: its types, and whether `.sat` may be set. -/
def FormsV3 (mk : Common → V3 → Instr) (tys : List Ty) (sat : Bool) : Prop :=
  ∀ c f, (mk c f).wellFormed = true → f.ty ∈ tys ∧ (f.sat = true → sat = true)
/-- The types that R195 gives a word of format VI. -/
def FormsVI (mk : Common → VI → Instr) (tys : List Ty) : Prop := ∀ c f, (mk c f).wellFormed = true → f.ty ∈ tys

/-- The integer that a register value of an integer type holds: two's complement for i types, binary for n types (R225). -/
def IntOf (t : Ty) (v : DWord) : Int :=
  match t with
  | .i32 => (v.setWidth 32).toInt
  | .n32 => (v.setWidth 32).toNat
  | .i64 => v.toInt
  | .n64 => v.toNat
  | .b32 | .b64 | .i16 | .n16 | .i8 | .n8 | .f32 | .f16 | .bf16 | .e4m3 | .e5m2 | .bf16x2 => 0
/-- The ends of an integer type's range (R225). -/
def numLo (t : Ty) : Int := if t = .i32 then -2 ^ 31 else if t = .i64 then -2 ^ 63 else 0
/-- The upper end. -/
def numHi (t : Ty) : Int :=
  if t = .i32 then 2 ^ 31 - 1 else if t = .n32 then 2 ^ 32 - 1 else if t = .i64 then 2 ^ 63 - 1 else 2 ^ 64 - 1
/-- A result in a register: the nearer end of the range with `.sat`, else modulo 2^W (R240). -/
def Fit (t : Ty) (sat : Bool) (r : Int) : DWord :=
  BitVec.ofInt 64 ((if sat then max (numLo t) (min r (numHi t)) else r) % 2 ^ t.width)
/-- A pattern cut to the type's width. -/
def Cut (t : Ty) (v : DWord) : DWord := if t.is64 then v else (v.setWidth 32).setWidth 64

/-- The integer that element `k` of width `w` of a packed register holds, signed or not (R246). -/
def Elem (signed : Bool) (w k : Nat) (v : DWord) : Int :=
  if signed then (v.extractLsb' (w * k) w).toInt else (v.extractLsb' (w * k) w).toNat

/-! ### Floating values -/

/-- Element `k` of width `w` of a register value, as a pattern (R222). -/
def patAt (w k : Nat) (v : DWord) : Nat := (v.extractLsb' (w * k) w).toNat

/-- The elements of a word of type f32 or bf16x2: their width, number and format (R222, R264). -/
def fpWidth (t : Ty) : Nat := if t = .bf16x2 then 16 else 32
/-- The number of elements. -/
def fpCount (t : Ty) : Nat := if t = .bf16x2 then 2 else 1
/-- The format. -/
def fpFmt (t : Ty) : Fmt := if t = .bf16x2 then fmtBf16 else fmtF32

/-- The random words that a word rounding `n` elements draws from a lane's stream: each draw steps the stream and takes bits 63:48
(R273, R274). -/
def drawn (n : Nat) (s : DWord) : List Nat := (List.range n).map (fun k => ((rstep^[k + 1]) s).toNat / 2 ^ 48)

/-- What a rounding word rounds with in a lane: mode, saturation, the words drawn, and the lane and PC of its NaNs (R232, R234). -/
def roundEnv (rnd : Rnd) (sat : Bool) (n : Nat) (x : IC) (k : Nat) : FEnv :=
  ⟨rnd, sat, if rnd = .rs then drawn n (x.w.lane k).rstate else [], ⟨k, foldOf x.pc⟩⟩
/-- A lane's stream after a word that rounds `n` elements. -/
def streamAfter (rnd : Rnd) (n : Nat) (x : IC) (k : Nat) : DWord :=
  if rnd = .rs then (rstep^[n]) (x.w.lane k).rstate else (x.w.lane k).rstate

/-- The result of an operation on elements of one format: the first NaN operand, quieted, else the exact result rounded (R233,
R234). -/
def rounded (f : Fmt) (v : FEnv) (k : Nat) (xs : List Nat) (exact : FVal) : Nat :=
  match xs.find? f.isNaN with
  | some n => f.quiet n
  | none => f.round v.mode v.sat (v.rws.getD k 0) v.ctx exact

/-- The order of two FP32 values that are no NaN: an integer that rises with the value, 0 for both zeros. -/
def fpOrder (v : DWord) : Int :=
  if v.getLsbD 31 then -((v.extractLsb' 0 31).toNat : Int) else (v.extractLsb' 0 31).toNat
/-- Whether a value is an FP32 NaN (R224). -/
def fpNaN (v : DWord) : Bool := decide (0x7F800000 < (v.extractLsb' 0 31).toNat)
/-- The register value of an integer of a type: extended to 32 bits, or 64 for a 64-bit type (R222). -/
def IntReads (t : Ty) (v : DWord) (r : Int) : Prop := v = BitVec.ofInt 64 (r % 2 ^ t.width)

end Sys2Proof.Machine
end

