-- ==== Sys2Proof/Certificates/Slice0/Obligations.lean ====
section
/-! DEFINITION. The statements for the provers, one per group of the manual's rules. -/
open Sys2Proof Sys2Proof.Machine

/-! ### Integer, address and bit words -/

/-- R244: the ten functions of major 0x00, computed exactly on signed or unsigned values, wrapped modulo 2^W or, with `.sat` where the
table allows it, clamped to the type's range. R245: the widening products of major 0x0B into 64 bits. -/
def Obligations.IntegerArithmetic : Prop :=
  ((let t := [Ty.i32, .n32, .i64, .n64]
   FormsV3 .intAdd t true ∧ FormsV3 .intSub t true ∧ FormsV3 .intMul t false ∧ FormsV3 .mulhi t false ∧ FormsV3 .mad t true ∧
   FormsV3 .intMin t false ∧ FormsV3 .intMax t false ∧ FormsV3 .intAbs t false ∧ FormsV3 .intNeg t false ∧ FormsV3 .sad t false) ∧
  ∀ c (f : V3), f.ty ∈ [Ty.i32, .n32, .i64, .n64] →
    let n := IntOf f.ty
    let w := f.ty.is64
    Writes2 (.intAdd c f) w f.d w f.a w f.b (fun a b => Fit f.ty f.sat (n a + n b)) ∧
    Writes2 (.intSub c f) w f.d w f.a w f.b (fun a b => Fit f.ty f.sat (n a - n b)) ∧
    Writes2 (.intMul c f) w f.d w f.a w f.b (fun a b => Fit f.ty false (n a * n b)) ∧
    Writes2 (.mulhi c f) w f.d w f.a w f.b (fun a b => Fit f.ty false ((n a * n b).fdiv (2 ^ f.ty.width))) ∧
    Writes3 (.mad c f) w f.d w f.a w f.b w f.c (fun a b k => Fit f.ty f.sat (n a * n b + n k)) ∧
    Writes2 (.intMin c f) w f.d w f.a w f.b (fun a b => Fit f.ty false (if n a ≤ n b then n a else n b)) ∧
    Writes2 (.intMax c f) w f.d w f.a w f.b (fun a b => Fit f.ty false (if n a ≤ n b then n b else n a)) ∧
    Writes1 (.intAbs c f) w f.d w f.a (fun a => Fit f.ty false (if 0 ≤ n a then n a else - n a)) ∧
    Writes1 (.intNeg c f) w f.d w f.a (fun a => Fit f.ty false (- n a)) ∧
    Writes3 (.sad c f) w f.d w f.a w f.b w f.c
      (fun a b k => Fit f.ty false ((if n b ≤ n a then n a - n b else n b - n a) + n k))) ∧
  ((FormsV3 .mulw [Ty.i32, .n32] false ∧ FormsV3 .madw [Ty.i32, .n32] false) ∧
  ∀ c (f : V3), f.ty ∈ [Ty.i32, .n32] →
    Writes2 (.mulw c f) true f.d false f.a false f.b (fun a b => BitVec.ofInt 64 (IntOf f.ty a * IntOf f.ty b)) ∧
    Writes3 (.madw c f) true f.d false f.a false f.b true f.c
      (fun a b k => BitVec.ofInt 64 (IntOf f.ty a * IntOf f.ty b + (if f.ty = .i32 then k.toInt else k.toNat))))

/-- R247: immediates and constants, the immediate sign-extended for i types and zero-extended for b types. -/
def Obligations.ImmediateWords : Prop :=
  (FormsVI .addi [Ty.i32, .i64] ∧ FormsVI .muli [Ty.i32, .i64] ∧ FormsVI .movi [Ty.b32, .b64] ∧ FormsVI .movhi [Ty.b32, .b64] ∧
   FormsVI .andi [Ty.b32, .b64] ∧ FormsVI .ori [Ty.b32, .b64] ∧ FormsVI .xori [Ty.b32, .b64] ∧ FormsVI .shli [Ty.b32, .b64] ∧
   FormsVI .shri [Ty.b32, .b64] ∧ FormsVI .srai [Ty.b32, .b64] ∧
   ∀ c (f : VI), ((Instr.shli c f).wellFormed = true ∨ (Instr.shri c f).wellFormed = true ∨ (Instr.srai c f).wellFormed = true) →
     f.imm.toNat < f.ty.width) ∧
  (∀ c (f : VI), f.ty ∈ [Ty.i32, .i64] → let w := f.ty.is64
    Writes1 (.addi c f) w f.d w f.a (fun a => Fit f.ty false (IntOf f.ty a + f.imm.toInt)) ∧
    Writes1 (.muli c f) w f.d w f.a (fun a => Fit f.ty false (IntOf f.ty a * f.imm.toInt))) ∧
  ∀ c (f : VI), f.ty ∈ [Ty.b32, .b64] → let w := f.ty.is64
    let imm : DWord := f.imm.setWidth 64
    Writes (.movi c f) w f.d (fun _ _ => false) (fun _ _ => imm) ∧
    Writes1 (.movhi c f) w f.d w f.a (fun a =>
      if w then (f.imm ++ a.extractLsb' 0 42 : BitVec 64) else (f.imm ++ a.extractLsb' 0 10 : BitVec 32).setWidth 64) ∧
    Writes1 (.andi c f) w f.d w f.a (fun a => a &&& imm) ∧
    Writes1 (.ori c f) w f.d w f.a (fun a => a ||| imm) ∧
    Writes1 (.xori c f) w f.d w f.a (fun a => a ^^^ imm) ∧
    (f.imm.toNat < f.ty.width →
      Writes1 (.shli c f) w f.d w f.a (fun a => Cut f.ty (a <<< f.imm.toNat)) ∧
      Writes1 (.shri c f) w f.d w f.a (fun a => a >>> f.imm.toNat) ∧
      Writes1 (.srai c f) w f.d w f.a (fun a =>
        if w then a.sshiftRight f.imm.toNat else ((a.setWidth 32).sshiftRight f.imm.toNat).setWidth 64))

/-- R248: the logic words of major 0x02. R249: shifts and rotates by the unsigned 32-bit amount in B, or in C for `fsh`. -/
def Obligations.LogicAndShiftWords : Prop :=
  ((let t := [Ty.b32, .b64]
   FormsV3 .and t false ∧ FormsV3 .or t false ∧ FormsV3 .xor t false ∧ FormsV3 .andn t false ∧ FormsV3 .orn t false ∧
   FormsV3 .not t false ∧ FormsV3 .bsel t false) ∧
  ∀ c (f : V3), f.ty ∈ [Ty.b32, .b64] → let w := f.ty.is64
    Writes2 (.and c f) w f.d w f.a w f.b (fun a b => a &&& b) ∧
    Writes2 (.or c f) w f.d w f.a w f.b (fun a b => a ||| b) ∧
    Writes2 (.xor c f) w f.d w f.a w f.b (fun a b => a ^^^ b) ∧
    Writes2 (.andn c f) w f.d w f.a w f.b (fun a b => a &&& ~~~ b) ∧
    Writes2 (.orn c f) w f.d w f.a w f.b (fun a b => Cut f.ty (a ||| ~~~ b)) ∧
    Writes1 (.not c f) w f.d w f.a (fun a => Cut f.ty (~~~ a)) ∧
    Writes3 (.bsel c f) w f.d w f.a w f.b w f.c (fun a b k => (k &&& a) ||| (~~~ k &&& b))) ∧
  ((let t := [Ty.b32, .b64]
   FormsV3 .shl t false ∧ FormsV3 .shr t false ∧ FormsV3 .sra t false ∧ FormsV3 .rotl t false ∧ FormsV3 .rotr t false ∧
   FormsV3 .fsh t false) ∧
  ∀ c (f : V3), f.ty ∈ [Ty.b32, .b64] → let w := f.ty.is64
    Writes2 (.shl c f) w f.d w f.a false f.b (fun a b => if f.ty.width ≤ b.toNat then 0 else Cut f.ty (a <<< b.toNat)) ∧
    Writes2 (.shr c f) w f.d w f.a false f.b (fun a b => if f.ty.width ≤ b.toNat then 0 else a >>> b.toNat) ∧
    Writes2 (.sra c f) w f.d w f.a false f.b (fun a b =>
      if w then a.sshiftRight b.toNat else ((a.setWidth 32).sshiftRight b.toNat).setWidth 64) ∧
    Writes2 (.rotl c f) w f.d w f.a false f.b (fun a b =>
      if w then a.rotateLeft b.toNat else ((a.setWidth 32).rotateLeft b.toNat).setWidth 64) ∧
    Writes2 (.rotr c f) w f.d w f.a false f.b (fun a b =>
      if w then a.rotateRight b.toNat else ((a.setWidth 32).rotateRight b.toNat).setWidth 64) ∧
    Writes3 (.fsh c f) w f.d w f.a w f.b false f.c (fun a b k =>
      if w then ((a ++ b : BitVec 128) >>> (k.toNat % 64)).setWidth 64
      else (((a.setWidth 32 ++ b.setWidth 32 : BitVec 64) >>> (k.toNat % 32)).setWidth 32).setWidth 64))

/-- R250: counts and bit fields, said bit by bit. The field of `bfe` and `bfi` is the bits p to min(p + n, W) − 1. -/
def Obligations.BitFieldWords : Prop :=
  (let t := [Ty.b32, .b64]
   FormsV3 .popc t false ∧ FormsV3 .clz t false ∧ FormsV3 .ctz t false ∧ FormsV3 .brev t false ∧ FormsV3 .bfe t false ∧
   FormsV3 .bfi t false ∧ ∀ c (f : V3), (Instr.bfe c f).wellFormed = true → f.b = .v 0) ∧
  ∀ c (f : V3), f.ty ∈ [Ty.b32, .b64] → let w := f.ty.is64
    let W := f.ty.width
    (Writes1 (.popc c f) false f.d w f.a (fun a => BitVec.ofNat 64 ((List.range W).countP (fun j => a.getLsbD j)))) ∧
    (∃ g : DWord → DWord, Writes1 (.clz c f) false f.d w f.a g ∧ ∀ a, (g a).toNat ≤ W ∧
      (∀ j, W - (g a).toNat ≤ j → j < W → a.getLsbD j = false) ∧ ((g a).toNat < W → a.getLsbD (W - 1 - (g a).toNat) = true)) ∧
    (∃ g : DWord → DWord, Writes1 (.ctz c f) false f.d w f.a g ∧ ∀ a, (g a).toNat ≤ W ∧
      (∀ j, j < (g a).toNat → a.getLsbD j = false) ∧ ((g a).toNat < W → a.getLsbD (g a).toNat = true)) ∧
    (∃ g : DWord → DWord, Writes1 (.brev c f) w f.d w f.a g ∧ ∀ a j,
      (g a).getLsbD j = (decide (j < W) && a.getLsbD (W - 1 - j))) ∧
    (∃ g : DWord → DWord → DWord, Writes2 (.bfe c f) w f.d w f.a false f.c g ∧ ∀ a k j,
      let p := (k.extractLsb' 0 8).toNat
      let n := (k.extractLsb' 8 8).toNat
      (g a k).getLsbD j = (decide (j < n ∧ p + j < W) && a.getLsbD (p + j))) ∧
    (∃ g : DWord → DWord → DWord → DWord, Writes3 (.bfi c f) w f.d w f.a w f.b false f.c g ∧ ∀ a b k j,
      let p := (k.extractLsb' 0 8).toNat
      let n := (k.extractLsb' 8 8).toNat
      (g a b k).getLsbD j = (decide (j < W) && if p ≤ j ∧ j < p + n then b.getLsbD (j - p) else a.getLsbD j))

/-- R251: the set words write a 32-bit 1 or 0; `sel` chooses by a 32-bit condition. -/
def Obligations.CompareAndSelect : Prop :=
  (let t := [Ty.i32, .n32, .i64, .n64]
   FormsV3 .intSeteq t false ∧ FormsV3 .intSetne t false ∧ FormsV3 .intSetlt t false ∧ FormsV3 .intSetle t false ∧
   FormsV3 .intSetgt t false ∧ FormsV3 .intSetge t false ∧ FormsV3 .sel [Ty.b32, .b64] false) ∧
  (∀ c (f : V3), f.ty ∈ [Ty.i32, .n32, .i64, .n64] → let w := f.ty.is64
    let n := IntOf f.ty
    Writes2 (.intSeteq c f) false f.d w f.a w f.b (fun a b => if n a = n b then 1 else 0) ∧
    Writes2 (.intSetne c f) false f.d w f.a w f.b (fun a b => if n a ≠ n b then 1 else 0) ∧
    Writes2 (.intSetlt c f) false f.d w f.a w f.b (fun a b => if n a < n b then 1 else 0) ∧
    Writes2 (.intSetle c f) false f.d w f.a w f.b (fun a b => if n a ≤ n b then 1 else 0) ∧
    Writes2 (.intSetgt c f) false f.d w f.a w f.b (fun a b => if n a > n b then 1 else 0) ∧
    Writes2 (.intSetge c f) false f.d w f.a w f.b (fun a b => if n a ≥ n b then 1 else 0)) ∧
  ∀ c (f : V3), f.ty ∈ [Ty.b32, .b64] → let w := f.ty.is64
    Writes3 (.sel c f) w f.d w f.a w f.b false f.c (fun a b k => if k ≠ 0 then a else b)

/-- R252, R253 and the first half of R254: the two-part address split and joined with no access check, `absaddr` by the executing lane's
stack segment and FB, `addoffi` by the immediate. -/
def Obligations.AddressWords : Prop :=
  (FormsV3 .segof [Ty.b64] false ∧ FormsV3 .offof [Ty.b64] false ∧ FormsV3 .mkaddr [Ty.b64] false ∧ FormsV3 .addoff [Ty.b64] false ∧
   FormsV3 .absaddr [Ty.b64] false ∧ FormsVI .addoffi [Ty.b64]) ∧
  (∀ c (f : V3),
    Writes1 (.segof c f) true f.d true f.a (fun a => (a.extractLsb' 40 24).setWidth 64) ∧
    Writes1 (.offof c f) true f.d true f.a (fun a => (a.extractLsb' 0 40).setWidth 64) ∧
    Writes2 (.mkaddr c f) true f.d true f.a true f.b (fun a b => (a.extractLsb' 0 24 ++ b.extractLsb' 0 40 : BitVec 64)) ∧
    Writes2 (.addoff c f) true f.d true f.a true f.b (fun a b =>
      (a.extractLsb' 40 24 ++ (a.extractLsb' 0 40 + b.extractLsb' 0 40) : BitVec 64)) ∧
    Writes (.absaddr c f) true f.d (fun x k => x.pz true f.a k) (fun x k =>
      let a := x.rd true f.a k
      let l := x.w.lane k
      if a.extractLsb' 40 24 = 0xFFFFFF#24 then (l.sseg ++ (l.fb + a.extractLsb' 0 40) : BitVec 64)
      else if a.extractLsb' 40 24 = 0xFFFFFE#24 then (l.sseg ++ a.extractLsb' 0 40 : BitVec 64)
      else a)) ∧
  ∀ c (f : VI), Writes1 (.addoffi c f) true f.d true f.a (fun a =>
    (a.extractLsb' 40 24 ++ (a.extractLsb' 0 40 + f.imm.signExtend 40) : BitVec 64))

/-- R255, R256: bit matrices over GF(2), deposit and gather, said bit by bit. -/
def Obligations.MatrixAndDepositWords : Prop :=
  (FormsV3 .bmm [Ty.b64] false ∧ FormsV3 .bmmt [Ty.b64] false ∧ FormsV3 .bmmx [Ty.b64] false ∧ FormsV3 .spread [Ty.b32, .b64] false ∧
   FormsV3 .gather [Ty.b32, .b64] false) ∧
  (∀ c (f : V3),
    (∃ g : DWord → DWord → DWord, Writes2 (.bmm c f) true f.d true f.a true f.b g ∧ ∀ a b, ∀ r < 8, ∀ k < 8,
      (g a b).getLsbD (8 * r + k) = decide ((List.range 8).countP (fun m => a.getLsbD (8 * r + m) && b.getLsbD (8 * m + k)) % 2 = 1)) ∧
    (∃ g : DWord → DWord → DWord, Writes2 (.bmmt c f) true f.d true f.a true f.b g ∧ ∀ a b, ∀ r < 8, ∀ k < 8,
      (g a b).getLsbD (8 * r + k) = decide ((List.range 8).countP (fun m => a.getLsbD (8 * r + m) && b.getLsbD (8 * k + m)) % 2 = 1)) ∧
    (∃ g : DWord → DWord → DWord → DWord, Writes3 (.bmmx c f) true f.d true f.a true f.b true f.c g ∧ ∀ a b y, ∀ r < 8, ∀ k < 8,
      (g a b y).getLsbD (8 * r + k) = (y.getLsbD (8 * r + k) ^^
        decide ((List.range 8).countP (fun m => a.getLsbD (8 * r + m) && b.getLsbD (8 * m + k)) % 2 = 1)))) ∧
  ∀ c (f : V3), f.ty ∈ [Ty.b32, .b64] → let w := f.ty.is64
    let W := f.ty.width
    (∃ g : DWord → DWord → DWord, Writes2 (.spread c f) w f.d w f.a w f.b g ∧ ∀ a b j,
      (g a b).getLsbD j = (decide (j < W) && b.getLsbD j && a.getLsbD ((List.range j).countP (fun i => b.getLsbD i)))) ∧
    (∃ g : DWord → DWord → DWord, Writes2 (.gather c f) w f.d w f.a w f.b g ∧ ∀ a b,
      (∀ q < W, b.getLsbD q = true → (g a b).getLsbD ((List.range q).countP (fun i => b.getLsbD i)) = a.getLsbD q) ∧
      ∀ k, (List.range W).countP (fun i => b.getLsbD i) ≤ k → (g a b).getLsbD k = false)

/-- R257: the permutation from a table of six scalars, the byte gather and the byte swap. R258: `mov` copies a register, its poison with it; `rdactive` writes the mask of the lanes that execute the word. -/
def Obligations.PermuteAndMoveWords : Prop :=
  ((FormsV3 .bperm [Ty.b64] false ∧ FormsV3 .bgat [Ty.b32] false ∧ FormsV3 .bswap [Ty.b32, .b64] false ∧
   (∀ c (f : V3), (Instr.bperm c f).wellFormed = true → ∃ n, f.b = .s n ∧ n.toNat ≤ 58)) ∧
  (∀ c (f : V3) (n : BitVec 6), f.b = .s n → n.toNat ≤ 58 →
    ∃ g : DWord → List DWord → DWord,
      Writes (.bperm c f) true f.d
        (fun x k => x.pz true f.a k || (List.range 6).any (fun j => x.pzKey (keyS (n.toNat + j))))
        (fun x k => g (x.rd true f.a k) ((List.range 6).map (fun j => x.key (keyS (n.toNat + j))))) ∧
      ∀ a s0 s1 s2 s3 s4 s5, ∀ j < 64,
        (g a [s0, s1, s2, s3, s4, s5]).getLsbD j =
          a.getLsbD ((s5 ++ s4 ++ s3 ++ s2 ++ s1 ++ s0 : BitVec 384).extractLsb' (6 * j) 6).toNat) ∧
  (∀ c (f : V3), ∃ g : DWord → DWord → DWord → DWord, Writes3 (.bgat c f) false f.d false f.a false f.b false f.c g ∧
    ∀ a b k, ∀ j < 4, ∀ i < 8,
      let pool : BitVec 64 := b.setWidth 32 ++ a.setWidth 32
      let e := (k.extractLsb' (8 * j) 3).toNat
      (g a b k).getLsbD (8 * j + i) =
        if k.extractLsb' (8 * j + 3) 2 = 0#2 then pool.getLsbD (8 * e + i)
        else if k.extractLsb' (8 * j + 3) 2 = 1#2 then pool.getLsbD (8 * e + 7 - i)
        else if k.extractLsb' (8 * j + 3) 2 = 2#2 then false
        else pool.getLsbD (8 * e + 7)) ∧
  ∀ c (f : V3), f.ty ∈ [Ty.b32, .b64] → ∃ g : DWord → DWord, Writes1 (.bswap c f) f.ty.is64 f.d f.ty.is64 f.a g ∧
    ∀ a j, j < f.ty.width / 8 → ∀ i < 8, (g a).getLsbD (8 * j + i) = a.getLsbD (8 * (f.ty.width / 8 - 1 - j) + i)) ∧
  ((FormsV3 .mov [Ty.b32, .b64] false ∧ FormsV3 .rdactive [Ty.b32] false) ∧
  ∀ c (f : V3),
    Writes1 (.mov c f) f.ty.is64 f.d f.ty.is64 f.a (fun a => a) ∧
    ∃ g : List Nat → DWord, Writes (.rdactive c f) false f.d (fun _ _ => false) (fun x _ => g x.lanes) ∧
      ∀ ls i, (g ls).getLsbD i = decide (i < 32 ∧ i ∈ ls))

/-- R246: packed elements, every element result clamped to its type's range. -/
def Obligations.PackedWords : Prop :=
  (let t := [Ty.i8, .n8, .i16, .n16]
   FormsV3 .addsat (t ++ [.i32, .n32]) false ∧ FormsV3 .subsat (t ++ [.i32, .n32]) false ∧ FormsV3 .packs t false ∧
   FormsV3 .packn t false) ∧
  ∀ c (f : V3), ∀ q ∈ [(Ty.i8, true, 8), (.n8, false, 8), (.i16, true, 16), (.n16, false, 16), (.i32, true, 32), (.n32, false, 32)],
    f.ty = q.1 →
    let sg := q.2.1
    let w := q.2.2
    let lo : Int := if sg then -2 ^ (w - 1) else 0
    let hi : Int := if sg then 2 ^ (w - 1) - 1 else 2 ^ w - 1
    let clamp := fun r : Int => max lo (min r hi)
    (∃ g : DWord → DWord → DWord, Writes2 (.addsat c f) false f.d false f.a false f.b g ∧
      ∀ a b, ∀ k < 32 / w, Elem sg w k (g a b) = clamp (Elem sg w k a + Elem sg w k b)) ∧
    (∃ g : DWord → DWord → DWord, Writes2 (.subsat c f) false f.d false f.a false f.b g ∧
      ∀ a b, ∀ k < 32 / w, Elem sg w k (g a b) = clamp (Elem sg w k a - Elem sg w k b)) ∧
    (w < 32 → ∀ src : Bool, ∃ g : DWord → DWord → DWord,
      Writes2 (if src then .packs c f else .packn c f) false f.d false f.a false f.b g ∧
      ∀ a b, ∀ k < 16 / w, Elem sg w k (g a b) = clamp (Elem src (2 * w) k a) ∧
        Elem sg w (16 / w + k) (g a b) = clamp (Elem src (2 * w) k b))

/-! ### Floating words -/

/-- R264: the arithmetic of f32 and of both elements of bf16x2: the exact result rounded once under the mode, the first NaN operand
quieted; `min`, `max` with NaNs propagated and −0 below +0; `abs` and `neg` change only the sign bit. R265: FP32 immediates, whose pattern is IMM << 10. -/
def Obligations.FloatingArithmetic : Prop :=
  ((let t := [Ty.f32, .bf16x2]
   FormsV3 .fpAdd t true ∧ FormsV3 .fpSub t true ∧ FormsV3 .fpMul t true ∧ FormsV3 .fma t true ∧ FormsV3 .fpMin t false ∧
   FormsV3 .fpMax t false ∧ FormsV3 .fpAbs t false ∧ FormsV3 .fpNeg t false) ∧
  ∀ c (f : V3), f.ty ∈ [Ty.f32, .bf16x2] →
    let n := fpCount f.ty
    let at_ := patAt (fpWidth f.ty)
    let F := fpFmt f.ty
    let env := roundEnv f.rnd f.sat n
    let next := streamAfter f.rnd n
    let pz2 := fun (x : IC) k => x.pz false f.a k || x.pz false f.b k
    (∀ q ∈ [(Instr.fpAdd c f, fun (m : Rnd) (u v : FVal) => u.add m v), (.fpSub c f, fun m u v => u.add m v.negate),
        (.fpMul c f, fun _ u v => u.mul v)],
      ∃ g : FEnv → DWord → DWord → DWord,
        WritesDrawing q.1 (decide (f.ty = .f32)) false f.d pz2 next (fun x k => g (env x k) (x.rd false f.a k) (x.rd false f.b k)) ∧
        ∀ e a b, ∀ k < n, at_ k (g e a b) =
          rounded F e k [at_ k a, at_ k b] (q.2 e.mode (F.val (at_ k a)) (F.val (at_ k b)))) ∧
    (∃ g : FEnv → DWord → DWord → DWord → DWord,
      WritesDrawing (.fma c f) (decide (f.ty = .f32)) false f.d (fun x k => pz2 x k || x.pz false f.c k) next
        (fun x k => g (env x k) (x.rd false f.a k) (x.rd false f.b k) (x.rd false f.c k)) ∧
      ∀ e a b y, ∀ k < n, at_ k (g e a b y) = rounded F e k [at_ k a, at_ k b, at_ k y]
        (((F.val (at_ k a)).mul (F.val (at_ k b))).add e.mode (F.val (at_ k y)))) ∧
    (∃ g : DWord → DWord → DWord, Writes2 (.fpMin c f) false f.d false f.a false f.b g ∧ ∀ a b, ∀ k < n,
      at_ k (g a b) = if F.isNaN (at_ k a) then F.quiet (at_ k a) else if F.isNaN (at_ k b) then F.quiet (at_ k b)
        else if F.key (at_ k b) < F.key (at_ k a) then at_ k b else at_ k a) ∧
    (∃ g : DWord → DWord → DWord, Writes2 (.fpMax c f) false f.d false f.a false f.b g ∧ ∀ a b, ∀ k < n,
      at_ k (g a b) = if F.isNaN (at_ k a) then F.quiet (at_ k a) else if F.isNaN (at_ k b) then F.quiet (at_ k b)
        else if F.key (at_ k a) < F.key (at_ k b) then at_ k b else at_ k a) ∧
    (∃ g : DWord → DWord, Writes1 (.fpAbs c f) false f.d false f.a g ∧ ∀ a i, (g a).getLsbD i =
      (decide (i < 32 ∧ (i + 1) % fpWidth f.ty ≠ 0) && a.getLsbD i)) ∧
    ∃ g : DWord → DWord, Writes1 (.fpNeg c f) false f.d false f.a g ∧ ∀ a i, (g a).getLsbD i =
      (decide (i < 32) && (a.getLsbD i ^^ decide ((i + 1) % fpWidth f.ty = 0)))) ∧
  ((FormsVI .fpAddi [Ty.f32] ∧ FormsVI .fpMuli [Ty.f32] ∧ FormsVI .fpMovi [Ty.f32]) ∧
  ∀ c (f : VI),
    let k : Nat := f.imm.toNat * 1024
    let F := fmtF32
    let env := fun (x : IC) i => roundEnv .rne false 1 x i
    let same := fun (x : IC) i => (x.w.lane i).rstate
    (∃ g : FEnv → DWord → DWord, WritesDrawing (.fpAddi c f) true false f.d (fun x i => x.pz false f.a i) same
      (fun x i => g (env x i) (x.rd false f.a i)) ∧
      ∀ e a, e.mode = .rne → e.sat = false →
        (g e a).toNat = rounded F e 0 [patAt 32 0 a, k] ((F.val (patAt 32 0 a)).add .rne (F.val k))) ∧
    (∃ g : FEnv → DWord → DWord, WritesDrawing (.fpMuli c f) true false f.d (fun x i => x.pz false f.a i) same
      (fun x i => g (env x i) (x.rd false f.a i)) ∧
      ∀ e a, e.mode = .rne → e.sat = false →
        (g e a).toNat = rounded F e 0 [patAt 32 0 a, k] ((F.val (patAt 32 0 a)).mul (F.val k))) ∧
    Writes (.fpMovi c f) false f.d (fun _ _ => false) (fun _ _ => BitVec.ofNat 64 k))

/-- R266: FP32 compares: −0 equals +0; with a NaN only `setne` gives 1; `setnan` tells a NaN. -/
def Obligations.FloatingCompares : Prop :=
  (let t := [Ty.f32]
   FormsV3 .fpSeteq t false ∧ FormsV3 .fpSetne t false ∧ FormsV3 .fpSetlt t false ∧ FormsV3 .fpSetle t false ∧
   FormsV3 .fpSetgt t false ∧ FormsV3 .fpSetge t false ∧ FormsV3 .setnan t false) ∧
  (∀ c (f : V3), ∀ i ∈ [Instr.fpSeteq c f, .fpSetne c f, .fpSetlt c f, .fpSetle c f, .fpSetgt c f, .fpSetge c f, .setnan c f],
    i.wellFormed = true → f.c = .v 0) ∧
  ∀ c (f : V3),
    let set := fun (r : Int → Int → Prop) [∀ u v, Decidable (r u v)] (a b : DWord) =>
      if fpNaN a = false ∧ fpNaN b = false ∧ r (fpOrder a) (fpOrder b) then (1 : DWord) else 0
    Writes2 (.fpSeteq c f) false f.d false f.a false f.b (set (· = ·)) ∧
    Writes2 (.fpSetne c f) false f.d false f.a false f.b
      (fun a b => if fpNaN a = false ∧ fpNaN b = false ∧ fpOrder a = fpOrder b then 0 else 1) ∧
    Writes2 (.fpSetlt c f) false f.d false f.a false f.b (set (· < ·)) ∧
    Writes2 (.fpSetle c f) false f.d false f.a false f.b (set (· ≤ ·)) ∧
    Writes2 (.fpSetgt c f) false f.d false f.a false f.b (set (· > ·)) ∧
    Writes2 (.fpSetge c f) false f.d false f.a false f.b (set (· ≥ ·)) ∧
    Writes2 (.setnan c f) false f.d false f.a false f.b (fun a b => if fpNaN a = true ∨ fpNaN b = true then 1 else 0)

/-- R267, R268: conversion between types, with the nearer end of an integer type outside its range and 0 for a NaN; rounding to an
integral value. -/
def Obligations.ConversionWords : Prop :=
  (∀ c (f : CvtF),
    ∃ g : FEnv → DWord → DWord,
      WritesDrawing (.cvt c f) false f.td.is64 f.d (fun x k => x.pz f.ts.is64 f.a k) (streamAfter f.rnd 1)
        (fun x k => g (roundEnv f.rnd f.sat 1 x k) (x.rd f.ts.is64 f.a k)) ∧
      ∀ e a, let x := patAt (elemBits f.ts) 0 a
        match fmtOf f.ts, fmtOf f.td with
        | some F, some G => (g e a).toNat = if F.isNaN x then nanConvert F G x else G.round e.mode e.sat (e.rws.getD 0 0) e.ctx (F.val x)
        | some F, none => match F.val x with
          | .nan => g e a = 0
          | .inf neg => IntReads f.td (g e a) (if neg then intMinVal f.td else intMaxVal f.td)
          | .fin neg m k => IntReads f.td (g e a)
              (clampInt f.td ((if neg then -1 else 1) * (roundAt e.mode (e.rws.getD 0 0) neg m k 0 : Int)))
        | none, some G => (g e a).toNat = G.round e.mode e.sat (e.rws.getD 0 0) e.ctx (.fin (intVal f.ts x < 0) (intVal f.ts x).natAbs 0)
        | none, none => IntReads f.td (g e a) (clampInt f.td (intVal f.ts x))) ∧
  ∀ c (f : V3),
    ∃ g : FEnv → DWord → DWord,
      WritesDrawing (.frnd c f) false false f.d (fun x k => x.pz false f.a k) (streamAfter f.rnd 1)
        (fun x k => g (roundEnv f.rnd false 1 x k) (x.rd false f.a k)) ∧
      ∀ e a, let x := patAt 32 0 a
        match fmtF32.val x with
        | .nan => (g e a).toNat = fmtF32.quiet x
        | .inf _ => (g e a).toNat = x
        | .fin neg m k => if m = 0 ∨ 0 ≤ k then (g e a).toNat = x
          else (g e a).toNat = fmtF32.round .rne false 0 e.ctx (.fin neg (roundAt e.mode (e.rws.getD 0 0) neg m k 0) 0)

/-- R269: packing rounds each value to its narrow format, in element order; unpacking is exact; NaNs convert by the table of R233. -/
def Obligations.PackingWords : Prop :=
  ∀ c (f : V3),
    let conv := fun (F G : Fmt) (e : FEnv) (k x : Nat) =>
      if F.isNaN x then nanConvert F G x else G.round e.mode e.sat (e.rws.getD k 0) e.ctx (F.val x)
    let pz2 := fun (x : IC) k => x.pz false f.a k || x.pz false f.b k
    let N := if f.ty = .e5m2 then fmtE5m2 else fmtE4m3
    (∃ g : FEnv → DWord → DWord → DWord,
      WritesDrawing (.pack2 c f) false false f.d pz2 (streamAfter f.rnd 2)
        (fun x k => g (roundEnv f.rnd f.sat 2 x k) (x.rd false f.a k) (x.rd false f.b k)) ∧
      ∀ e a b, patAt 16 0 (g e a b) = conv fmtF32 fmtBf16 e 0 (patAt 32 0 a) ∧
        patAt 16 1 (g e a b) = conv fmtF32 fmtBf16 e 1 (patAt 32 0 b)) ∧
    (∃ g : FEnv → DWord → DWord → DWord,
      WritesDrawing (.pack4 c f) false false f.d pz2 (streamAfter f.rnd 4)
        (fun x k => g (roundEnv f.rnd f.sat 4 x k) (x.rd false f.a k) (x.rd false f.b k)) ∧
      ∀ e a b, ∀ k < 2, patAt 8 k (g e a b) = conv fmtBf16 N e k (patAt 16 k a) ∧
        patAt 8 (2 + k) (g e a b) = conv fmtBf16 N e (2 + k) (patAt 16 k b)) ∧
    (∀ q ∈ [(Instr.unpklo c f, 0), (.unpkhi c f, 1)], ∃ g : FEnv → DWord → DWord,
      Writes q.1 false f.d (fun x k => x.pz false f.a k) (fun x k => g (roundEnv .rne false 1 x k) (x.rd false f.a k)) ∧
      ∀ e a, e.mode = .rne → e.sat = false → (g e a).toNat = conv fmtBf16 fmtF32 e 0 (patAt 16 q.2 a)) ∧
    ∀ q ∈ [(Instr.unpk8lo c f, 0), (.unpk8hi c f, 2)], ∃ g : FEnv → DWord → DWord,
      Writes q.1 false f.d (fun x k => x.pz false f.a k) (fun x k => g (roundEnv .rne false 1 x k) (x.rd false f.a k)) ∧
      ∀ e a, e.mode = .rne → e.sat = false → ∀ k < 2, patAt 16 k (g e a) = conv N fmtBf16 e 0 (patAt 8 (q.2 + k) a)

/-- R270 with R229: E5M3 scales. `sclenc` gives 0xFF for a negative value, a NaN, an infinity or an overflow and 0 for both zeros;
`scldec` gives (8 + m) × 2^(e − 18), or m × 2^(−17) for e = 0, exactly, and the origin NaN of the lane and PC for 0xFF. -/
def Obligations.ScaleWords : Prop :=
  ∀ c (f : V3),
    (∃ g : FEnv → DWord → DWord,
      WritesDrawing (.sclenc c f) false false f.d (fun x k => x.pz false f.a k) (streamAfter f.rnd 1)
        (fun x k => g (roundEnv f.rnd false 1 x k) (x.rd false f.a k)) ∧
      ∀ e a, e.sat = false → let x := patAt 32 0 a
        match fmtF32.val x with
        | .nan => g e a = 0xFF
        | .inf _ => g e a = 0xFF
        | .fin neg m k => (m = 0 → g e a = 0) ∧ (m ≠ 0 → neg = true → g e a = 0xFF) ∧
          (m ≠ 0 → neg = false → (g e a).toNat = min 0xFF (fmtE5m3.roundMag e.mode (e.rws.getD 0 0) false m k))) ∧
    ∃ g : Nat → Nat → DWord → DWord,
      Writes (.scldec c f) false f.d (fun x k => x.pz false f.a k) (fun x k => g k (foldOf x.pc) (x.rd false f.a k)) ∧
      ∀ lane < 32, ∀ fold a, let m := patAt 3 0 a
        let e := (a.extractLsb' 3 5).toNat
        if e = 31 ∧ m = 7 then (g lane fold a).toNat = 0x7FC00000 + lane * 2 ^ 17 + fold % 2 ^ 17
        else ∃ (u : Nat) (k : Int), fmtF32.val (g lane fold a).toNat = .fin false u k ∧
          (u : ℚ) * 2 ^ k = if e = 0 then (m : ℚ) * 2 ^ (-17 : ℤ) else ((8 + m : ℕ) : ℚ) * 2 ^ ((e : ℤ) - 18)

/-- R271: the dot products: one exact sum of the products and the addend, rounded once to FP32 under the mode. -/
def Obligations.DotProducts : Prop :=
  ∀ c (f : V3),
    let pz3 := fun (x : IC) k => x.pz false f.a k || x.pz false f.b k || x.pz false f.c k
    let N := if f.ty = .e5m2 then fmtE5m2 else fmtE4m3
    ∀ q ∈ [(Instr.dot2 c f, fmtBf16, 16, 2), (.dot4 c f, N, 8, 4)],
      ∃ g : FEnv → DWord → DWord → DWord → DWord,
        WritesDrawing q.1 true false f.d pz3 (streamAfter f.rnd 1)
          (fun x k => g (roundEnv f.rnd false 1 x k) (x.rd false f.a k) (x.rd false f.b k) (x.rd false f.c k)) ∧
        ∀ e a b y,
          let F : Fmt := q.2.1
          let at_ := patAt q.2.2.1
          let n : Nat := q.2.2.2
          let es := (List.range n).map (fun k => at_ k a) ++ (List.range n).map (fun k => at_ k b)
          let term := fun k => (F.val (at_ k a)).mul (F.val (at_ k b))
          (g e a b y).toNat = match es.find? F.isNaN with
            | some z => nanConvert F fmtF32 z
            | none => if fmtF32.isNaN (patAt 32 0 y) then fmtF32.quiet (patAt 32 0 y)
              else fmtF32.round e.mode e.sat (e.rws.getD 0 0) e.ctx
                ((((List.range n).tail.map term) ++ [fmtF32.val (patAt 32 0 y)]).foldl (fun u v => u.add e.mode v) (term 0))

/-- R272: the special functions are flag-tracked; a NaN is returned quieted, and the special arguments give the results of the table
(patterns of FP32; `o` is the origin NaN of the lane and PC, R232). -/
def Obligations.SpecialFunctions : Prop :=
  ∀ c (f : V3), ∀ q ∈
    [(Instr.rcp c f, fun (_ : Nat) => [(0x00000000, 0x7F800000), (0x80000000, 0xFF800000), (0x7F800000, 0), (0xFF800000, 0x80000000)]),
     (.rsqrt c f, fun o => [(0x00000000, 0x7F800000), (0x80000000, 0xFF800000), (0x7F800000, 0), (0xFF800000, o), (0xBF800000, o)]),
     (.sqrt c f, fun o => [(0x00000000, 0), (0x80000000, 0x80000000), (0x7F800000, 0x7F800000), (0xFF800000, o), (0xBF800000, o)]),
     (.exp2 c f, fun _ => [(0xFF800000, 0), (0x7F800000, 0x7F800000), (0x00000000, 0x3F800000), (0x80000000, 0x3F800000)]),
     (.log2 c f, fun o => [(0x00000000, 0xFF800000), (0x80000000, 0xFF800000), (0x7F800000, 0x7F800000), (0x3F800000, 0),
       (0xFF800000, o), (0xBF800000, o)]),
     (.sin c f, fun o => [(0x00000000, 0), (0x80000000, 0x80000000), (0x7F800000, o), (0xFF800000, o)]),
     (.cos c f, fun o => [(0x00000000, 0x3F800000), (0x80000000, 0x3F800000), (0x7F800000, o), (0xFF800000, o)]),
     (.tanh c f, fun _ => [(0x00000000, 0), (0x80000000, 0x80000000), (0x7F800000, 0x3F800000), (0xFF800000, 0xBF800000)])],
    ∃ g : Nat → Nat → DWord → DWord,
      Writes q.1 false f.d (fun x k => x.pz false f.a k) (fun x k => g k (foldOf x.pc) (x.rd false f.a k)) ∧
      ∀ lane < 32, ∀ fold,
        (∀ r ∈ q.2 (0x7FC00000 + lane * 2 ^ 17 + fold % 2 ^ 17), (g lane fold (BitVec.ofNat 64 r.1)).toNat = r.2) ∧
        ∀ a, fpNaN a = true → (g lane fold a).toNat = (patAt 32 0 a) ||| 2 ^ 22

/-- R275 with R273: `rnd` seeds the lane's stream when its operand is not 0, steps it, and writes its high half, flag-tracked. -/
def Obligations.RoundingStream : Prop :=
  FormsV3 .rnd [Ty.b32] false ∧
  ∀ c (f : V3),
    let step := fun (s : DWord) =>
      let s1 := s ^^^ (s <<< 13)
      let s2 := s1 ^^^ (s1 >>> 7)
      s2 ^^^ (s2 <<< 17)
    let next := fun (x : IC) (k : Nat) =>
      let a := x.rd false f.a k
      step (if a = 0 then (x.w.lane k).rstate else (a <<< 32) ||| (0x9E3779B9 ^^^ (0x0101 * BitVec.ofNat 64 k)))
    WritesDrawing (.rnd c f) false false f.d (fun x k => x.pz false f.a k) next (fun x k => next x k >>> 32)

/-! ### Cross-lane words -/

/-- R301 with the values of R300: each lane takes the value of a source lane of its group, or its own when that lane is not in its mask. -/
def Obligations.ExchangeWords : Prop :=
  (let t := [Ty.b32, .b64]
   FormsV3 .xlGet t false ∧ FormsV3 .xlRot t false ∧ FormsV3 .xlXor t false ∧ FormsV3 .xlRev t false) ∧
  (∀ (x : IC) w64 a ident j, x.contrib w64 a ident j =
    if (x.w.lane j).st = .exited then ident
    else if j ∈ x.lanes then x.rd w64 a j
    else { x with w := { x.w with pend := x.w.pend.filter (fun p => p.op.isNone) } }.rd w64 a j) ∧
  ∀ c (f : V3), ∀ q ∈
    [(Instr.xlGet c f, fun (_ base _ n : Nat) => (base + n : Nat)), (.xlRot c f, fun i base g n => base + (i - base + n) % g),
     (.xlXor c f, fun i _ _ n => i ^^^ n), (.xlRev c f, fun i base g n => base + (((n : Int) - (i - base : Nat)) % (g : Int)).toNat)],
    let from_ := fun (x : IC) (i : Nat) =>
      let b := x.rd false f.b i
      let e := (b.extractLsb' 5 3).toNat
      let g := if 1 ≤ e ∧ e ≤ 5 then 2 ^ e else 32
      q.2 i (i - i % g) g ((b.extractLsb' 0 5).toNat % g)
    Crosses q.1 f
      (fun x i => x.pz false f.b i || x.pz false f.c i ||
        if x.inMask f.c i (from_ x i) then x.contribPz f.ty.is64 f.a (from_ x i) else x.pz f.ty.is64 f.a i)
      (fun x i => if x.inMask f.c i (from_ x i) then x.contrib f.ty.is64 f.a 0 (from_ x i) else x.rd f.ty.is64 f.a i)

/-- R302, votes: over the members that each lane's mask names. R300: an active lane outside its own mask takes MEMBER; the lanes that pass proceed as in `Crosses`. -/
def Obligations.VotesAndMembers : Prop :=
  ((FormsV3 .voteAll [Ty.b32] false ∧ FormsV3 .voteAny [Ty.b32] false ∧ FormsV3 .voteEq [Ty.b32, .b64] false ∧
   FormsV3 .voteBallot [Ty.b32] false) ∧
  ∀ c (f : V3),
    let marked := fun (x : IC) i => x.memberMarked f i (fun _ => true)
    let truth := fun (i : Instr) (p : IC → Nat → Prop) => ∃ g : IC → Nat → DWord, Crosses i f marked g ∧
      ∀ x k, (p x k → g x k = 1) ∧ (¬ p x k → g x k = 0)
    truth (.voteAll c f) (fun x i => ∀ j < 32, x.inMask f.c i j = true → x.contrib f.ty.is64 f.a 1 j ≠ 0) ∧
    truth (.voteAny c f) (fun x i => ∃ j < 32, x.inMask f.c i j = true ∧ x.contrib f.ty.is64 f.a 0 j ≠ 0) ∧
    truth (.voteEq c f) (fun x i => ∀ j < 32, ∀ k < 32,
      let live := fun m => x.inMask f.c i m = true ∧ (x.w.lane m).st ≠ .exited
      live j → live k → x.contrib f.ty.is64 f.a 0 j = x.contrib f.ty.is64 f.a 0 k) ∧
    ∃ g : IC → Nat → DWord, Crosses (.voteBallot c f) f marked g ∧ ∀ x i j,
      (g x i).getLsbD j = decide (j < 32 ∧ x.inMask f.c i j = true ∧ x.contrib f.ty.is64 f.a 0 j ≠ 0)) ∧
  (∀ c ex (f : V3), ∀ i ∈
    [Instr.xlGet c f, .xlRot c f, .xlXor c f, .xlRev c f, .voteAll c f, .voteAny c f, .voteEq c f, .voteBallot c f, .redAdd c f,
     .redMin c f, .redMax c f, .redAnd c f, .redOr c f, .redXor c f, .scanAdd c ex f, .scanMin c ex f, .scanMax c ex f, .scanOr c ex f],
    ∀ s sw x, Due s sw x i.view false →
      let base := (s.ready sw).atWord x
      let pass := x.lanes.filter (fun k => x.inMask f.c k k)
      let bad := (x.lanes.filter (fun k => !x.inMask f.c k k)).map (fun k => (k, LFault.mk .member 0 0 0 0))
      ∃ u, exec i s = .next (u.faultLanes x.w.id x.pc x.hdr .load bad) ∧
        (pass = [] → u = base) ∧
        (pass ≠ [] → ∃ g pz, Wrote base u { x with w := base.weft x.w.id, lanes := pass } i.view.common noMore
          (wordWrites f.ty.is64 f.d pass g) pz))

/-- R302, reductions and scans: the members' values combined in ascending lane order. Integer sums wrap; FP32 sums round each partial sum
to nearest even; an exited member gives the identity, and so does an empty set of members. -/
def Obligations.ReduceAndScanWords : Prop :=
  (let n := [Ty.i32, .n32, .i64, .n64, .f32]
   let b := [Ty.b32, .b64]
   FormsV3 .redAdd n false ∧ FormsV3 .redMin n false ∧ FormsV3 .redMax n false ∧ FormsV3 .redAnd b false ∧ FormsV3 .redOr b false ∧
   FormsV3 .redXor b false ∧
   ∀ ex, FormsV3 (.scanAdd · ex ·) [Ty.i32, .n32, .f32] false ∧ FormsV3 (.scanMin · ex ·) [Ty.i32, .n32, .f32] false ∧
     FormsV3 (.scanMax · ex ·) [Ty.i32, .n32, .f32] false ∧ FormsV3 (.scanOr · ex ·) [Ty.b32] false) ∧
  ∀ c ex (f : V3),
    let fp := decide (f.ty = .f32)
    let n := IntOf f.ty
    let F := fmtF32
    let order := fun (below : DWord → DWord → Bool) (a b : DWord) =>
      if F.isNaN (patAt 32 0 a) then BitVec.ofNat 64 (F.quiet (patAt 32 0 a))
      else if F.isNaN (patAt 32 0 b) then BitVec.ofNat 64 (F.quiet (patAt 32 0 b)) else if below b a then b else a
    let add := fun (x : IC) (i : Nat) (a b : DWord) =>
      if fp then BitVec.ofNat 64 (rounded F ⟨.rne, false, [], ⟨i, foldOf x.pc⟩⟩ 0 [patAt 32 0 a, patAt 32 0 b]
        ((F.val (patAt 32 0 a)).add .rne (F.val (patAt 32 0 b))))
      else Fit f.ty false (n a + n b)
    let min_ := fun (a b : DWord) =>
      if fp then order (fun u v => decide (F.key (patAt 32 0 u) < F.key (patAt 32 0 v))) a b
      else Fit f.ty false (if n a ≤ n b then n a else n b)
    let max_ := fun (a b : DWord) =>
      if fp then order (fun u v => decide (F.key (patAt 32 0 v) < F.key (patAt 32 0 u))) a b
      else Fit f.ty false (if n a ≤ n b then n b else n a)
    let fold := fun (id : DWord) (op : DWord → DWord → DWord) (vs : List DWord) => match vs with
      | [] => id
      | v :: rest => rest.foldl op v
    let all := fun (_ _ : Nat) => true
    let below := fun (i j : Nat) => if ex then decide (j < i) else decide (j ≤ i)
    let word := fun (i : Instr) (keep : Nat → Nat → Bool) (id : DWord) (op : IC → Nat → DWord → DWord → DWord) =>
      Crosses i f (fun x k => x.memberMarked f k (keep k)) (fun x k => fold id (op x k) (x.memberVals f id k (keep k)))
    let zero : DWord := if fp then 0x80000000 else 0
    let least : DWord := if fp then 0xFF800000 else Fit f.ty false (numLo f.ty)
    let most : DWord := if fp then 0x7F800000 else Fit f.ty false (numHi f.ty)
    (f.ty ∈ [Ty.i32, .n32, .i64, .n64, .f32] →
      word (.redAdd c f) all zero add ∧ word (.redMin c f) all most (fun _ _ => min_) ∧ word (.redMax c f) all least (fun _ _ => max_) ∧
      word (.scanAdd c ex f) below zero add ∧ word (.scanMin c ex f) below most (fun _ _ => min_) ∧
      word (.scanMax c ex f) below least (fun _ _ => max_)) ∧
    (f.ty ∈ [Ty.b32, .b64] →
      word (.redAnd c f) all (Cut f.ty (BitVec.allOnes 64)) (fun _ _ a b => a &&& b) ∧
      word (.redOr c f) all 0 (fun _ _ a b => a ||| b) ∧ word (.redXor c f) all 0 (fun _ _ a b => a ^^^ b) ∧
      word (.scanOr c ex f) below 0 (fun _ _ a b => a ||| b))

/-! ### Control words -/

/-- R279: each active lane that branches stands at the header at its target, which it has checked in the Fetch class; the others fall
through. R281: `nop` has no effect; `pause` keeps its lanes from issuing for IMM16 cycles after its slot. R292: `prefi` changes nothing that a
program sees and never faults. -/
def Obligations.BranchAndIdleWords : Prop :=
  (∀ c (f : CF),
    let at_ := fun (x : IC) (off : Nat) => mkAddr (segOf x.pc) (BitVec.ofNat 40 off)
    let may := fun (s : State) (x : IC) (k off : Nat) => s.checkFetch (s.reqOf x.w.id k) (at_ x off) = .ok ()
    let go := fun (x : IC) (off : Nat) (l : Lane) => { l with pc := at_ x off, pos := .header }
    Moves (.bra c f) (fun s x => ∀ k ∈ x.lanes, may s x k f.imm.toNat) (fun _ x _ => go x f.imm.toNat) ∧
    Moves (.brz c f) (fun s x => ∀ k ∈ x.lanes, x.pz false f.a k = false ∧ (x.rd false f.a k = 0 → may s x k f.imm.toNat))
      (fun _ x k l => if x.rd false f.a k = 0 then go x f.imm.toNat l else l) ∧
    Moves (.brnz c f) (fun s x => ∀ k ∈ x.lanes, x.pz false f.a k = false ∧ (x.rd false f.a k ≠ 0 → may s x k f.imm.toNat))
      (fun _ x k l => if x.rd false f.a k = 0 then l else go x f.imm.toNat l) ∧
    Moves (.brind c f) (fun s x => ∀ k ∈ x.lanes, x.pz false f.a k = false ∧ may s x k (x.rd false f.a k).toNat)
      (fun _ x k => go x (x.rd false f.a k).toNat)) ∧
  (∀ c (f : CF),
    Steps (.nop c f) (fun _ => noMore) ∧
    Steps (.pause c f) (fun x _ l => { l with pause := x.slot + 1 + (f.imm.toNat + x.picks - 1) / x.picks }) ∧
    Moves (.prefi c f) (fun _ x => ∀ k ∈ x.lanes, x.pz true f.a k = false) (fun _ _ => noMore))

/-- R24 to R27: an access is checked in the order of R26, for a number that is no contextual one: the number, the descriptor, the mode,
the kind and the right that its class needs (R24, R25), a window onto another function (R454), the alignment, the offset, the LIMIT, a
watchpoint; the descriptor is the core's (R32), of an access that waits for its walks the one of its first check (R33). R30: a target is checked in the Fetch class with a size and an alignment of 8 bytes, and lies in a segment resident in the I-pad, else
OVERLAY. -/
def Obligations.AccessChecks : Prop :=
  (∀ (s : State) (r : Req) (cls : Cls) (a : DWord) (disp : Int) (size align : Nat),
    let seg := (segOf a).toNat
    let off : Int := (offOf a).toNat + disp
    let res := s.checkTo r cls a disp size align
    (seg = 0 → res = .error ⟨.segment, 1, a, 0, 0⟩) ∧
    (0xFFFFF0 ≤ seg → seg ≤ 0xFFFFF9 → res = .error ⟨.segment, 2, a, 0, 0⟩) ∧
    (seg = 0xFFFFFA → r.sys = false → res = .error ⟨.priv, 0, a, 0, 0⟩) ∧
    (0 < seg → seg < 0xFFFFF0 →
      (∀ f, s.descFor r (segOf a) = .error f → res = .error (f.at a)) ∧
      ∀ d, s.descFor r (segOf a) = .ok d → 1 ≤ d.kind → d.kind ≤ 11 →
        let kind : Bool := match cls with
          | .load => r.sys || decide (d.kind ≠ 10)
          | .store => r.sys || decide (d.kind ∈ [1, 2, 3, 4, 6])
          | .atomic => decide (d.kind ∈ [1, 2, 3, 6] ∨ d.kind = 4 ∧ d.kspec % 8 = 1)
          | .fetch => decide (d.kind = 5)
          | .enqueue | .dequeue => decide (d.kind = 8)
          | .counterSet | .counterAdd => decide (d.kind = 9)
          | .skeinCreate | .skeinUse | .skeinFree => decide (d.kind = 7)
          | .name => decide (d.kind = 11)
        let right : Bool := match cls with
          | .load | .dequeue | .skeinUse | .name => d.r
          | .store | .enqueue | .counterSet | .skeinCreate | .skeinFree => d.w
          | .atomic | .counterAdd => d.a
          | .fetch => d.x
        res =
          if d.sysOnly = true ∧ r.sys = false then .error ⟨.priv, 0, a, 0, 0⟩
          else if kind = false then .error ⟨.rights, 1, a, 0, 0⟩
          else if right = false then .error ⟨.rights, 2, a, 0, 0⟩
          else if s.foreignWindow r d off.toNat size = true then .error ⟨.rights, 3, a, 0, 0⟩
          else if ¬ (align : Int) ∣ off then .error ⟨.align, 0, a, 0, 0⟩
          else if off < 0 ∨ 2 ^ 40 ≤ off then .error ⟨.limit, 2, a, 0, 0⟩
          else if (d.limit : Int) < off + size - 1 then .error ⟨.limit, 1, a, 0, 0⟩
          else if s.watched r cls (segOf a) off.toNat size = true then .error ⟨.watch, 0, a, 0, 0⟩
          else .ok (d, segOf a, off.toNat))) ∧
  (∀ (s : State) (r : Req) (t : DWord),
    (∀ e, s.check r .fetch t 0 8 8 = .fault e → s.checkFetch r t = .fault e) ∧
    (∀ p, s.check r .fetch t 0 8 8 = .miss p → s.checkFetch r t = .miss p) ∧
    (∀ q, s.check r .fetch t 0 8 8 = .ok q → s.checkFetch r t =
      if ∃ e ∈ (s.core r.core).resid, e.ctx = r.ctx ∧ e.seg = segOf t then .ok () else .fault ⟨.overlay, 0, t, 0, 0⟩) ∧
    ∀ d, 0 < (segOf t).toNat → (segOf t).toNat < 0xFFFFF0 → s.descFor r (segOf t) = .ok d → d.kind = 5 → d.x = true →
      (d.sysOnly = true → r.sys = true) →
      (¬ 8 ∣ (offOf t).toNat → s.checkFetch r t = .fault ⟨.align, 0, t, 0, 0⟩) ∧
      (8 ∣ (offOf t).toNat → d.limit < (offOf t).toNat + 7 → s.checkFetch r t = .fault ⟨.limit, 1, t, 0, 0⟩))

/-- R172, R280: `join` and `join.x` change the expected and arrived sets by the active lanes; at `wait` the lanes in E arrive and wait,
and the others proceed; A = E with E not empty releases every lane waiting at the mask, which is active again. A lane in both sets is held at
the word. -/
def Obligations.RejoinWords : Prop :=
  (∀ (l : Lane) j, l.st = .parked (.rejoin j) ∨ l.st = .parked (.heldWait j) → l.back = none →
    l.unpark (Park.onMask j) = { l with st := .active }) ∧
  ∀ c (f : CF) s sw x,
    let j := f.jm.toNat
    let e := (x.w.mask j).1
    let a := (x.w.mask j).2
    let m := maskOf x.lanes
    j < x.w.masks.length →
    (Due s sw x (Instr.join c f).view false →
      ∃ t, exec (.join c f) s = .next t ∧ Rejoined (s.ready sw) t x j (e ||| m) a 0) ∧
    (Due s sw x (Instr.joinX c f).view false →
      ∃ t, exec (.joinX c f) s = .next t ∧ Rejoined (s.ready sw) t x j (e &&& ~~~ m) (a &&& ~~~ m) 0) ∧
    (Due s sw x (Instr.wait c f).view false → e &&& a &&& m = 0 →
      ∃ u, exec (.wait c f) s = .next u ∧
        ((e &&& m ≠ 0 → Rejoined (s.ready sw) u x j e (a ||| (e &&& m)) (e &&& m)) ∧
         (e &&& m = 0 → Wrote (s.ready sw) u x c noMore [] []))) ∧
    (Due s sw x (Instr.wait c f).view false → m &&& ~~~ (e &&& a) = 0 →
      exec (.wait c f) s = .next (((s.ready sw).atWord x).modWeft x.w.id (fun w => w.park x.lanes (.heldWait j))))

/-- R286: `enter` and `leave` set SP = FB + size and MTOP = 0; `enter` first checks the bytes of the locals up to the LIMIT step, and
none when the size is 0. R293: `mark` writes a 16-byte record with the token SSEG : SP at SP and the token to wB, and moves SP and
MTOP. -/
def Obligations.FrameWords : Prop :=
  (∀ c (bud : BitVec 4) (size : BitVec 16),
    Moves (.enter c bud size)
      (fun s x => size = 0 ∨ ∀ k ∈ x.lanes,
        ∃ q, s.checkTo (s.reqOf x.w.id k) .store (mkAddr segSTK (x.w.lane k).fb) 0 size.toNat 1 false = .ok q)
      (fun _ _ _ l => { l with sp := l.fb + size.setWidth 40, mtop := 0 }) ∧
    Steps (.leave c size) (fun _ _ l => { l with sp := l.fb + size.setWidth 40, mtop := 0 })) ∧
  ∀ c (f : CF) (q : Nat → Desc × Seg × Nat × List Loc),
    let token := fun (x : IC) k => mkAddr (x.w.lane k).sseg (x.w.lane k).sp
    Performs (.mark c f) false
      (fun s x => x.awaits = false ∧ ∀ k ∈ x.lanes, s.check (s.reqOf x.w.id k) .store (mkAddr segSTK (x.w.lane k).sp) 0 16 8 = .ok (q k))
      (fun x => x.each (fun k y =>
        ((y.enqueue x.w.id k 0 x.sys x.pc x.hdr (.store (wrs (q k).2.2.2 (natLE 8 (token x k).toNat ++ natLE 8 0)) .none)).fixed x 4
          (destWrites true f.b k (token x k))).modLane x.w.id k (fun l =>
            { l with sp := (x.w.lane k).sp + 16, mtop := ((x.w.lane k).sp + 16).setWidth 24 ||| 1 })))

/-- R287, R288: each lane of a call whose checks pass writes its link record through the store queue and stands at the procedure's
header with FB = SP = SP + 0x20 and MTOP = 0. -/
def Obligations.CallWords : Prop :=
  ∀ c (f : CF) (q : Nat → Nat × Nat × List Loc),
    let link := fun (x : IC) (k : Nat) (t : DWord) (hold : Option Nat) =>
      let l := x.w.lane k
      ({ ret := mkAddr (segOf x.pc) (offOf x.pc + 8), cseg := (segOf t).toNat, entry := (offOf t).toNat % 2 ^ 16,
         fsize := (q k).2.1, bud := (q k).1 / 16 - 1, mkd := l.mtop != 0, savfb := mkAddr l.sseg l.fb, ent := hold.getD 0, smtop := 0,
         tf := 0, hv := hold.isSome } : Frame)
    let call := fun (x : IC) (t : Nat → DWord) (hold : Option Nat) => x.each (fun k y =>
      ((y.enqueue x.w.id k 0 x.sys x.pc x.hdr (.store (wrs (q k).2.2 (natLE 32 (link x k (t k) hold).word)) .none)).modLane x.w.id k
        (fun l => { l with fb := (x.w.lane k).sp + 0x20, sp := (x.w.lane k).sp + 0x20, mtop := 0, pc := t k, pos := .header })))
    let near := fun (x : IC) (_ : Nat) => mkAddr (segOf x.pc) (f.imm.setWidth 40)
    Performs (.call c f) false (fun s x => x.awaits = false ∧ ∀ k ∈ x.lanes, s.callChecks x k (near x k) = .ok (q k))
      (fun x => call x (near x) none) ∧
    Performs (.callInd c f) false
      (fun s x => x.awaits = false ∧ ∀ k ∈ x.lanes, x.pz true f.a k = false ∧ s.callChecks x k (x.rd true f.a k) = .ok (q k))
      (fun x => call x (x.rd true f.a) none) ∧
    ∀ s sw x e eb nb b, Due s sw x (Instr.callSym c f).view false →
      let r := s.ready sw
      let t := mkAddr (BitVec.ofNat 24 b.seg) 0
      x.awaits = false → r.commitWaits x.p.id = false →
      r.slotToEntry x.p.ctx (r.moduleOf x.w.core x.p.ctx (segOf x.pc)) f.imm.toNat = .ok (e, eb, nb) →
      r.entryAt x.p.ctx eb e = .ok b → b.state = 2 → b.rights / 2 % 2 = 1 → b.hold + x.lanes.length ≤ 0xFFFF →
      (∀ k ∈ x.lanes, r.callChecks x k t = .ok (q k)) →
      ∃ u, Issued r u x c ∧ exec (.callSym c f) s = .next ((u.committed x.p.id (fun v =>
        call x (fun _ => t) (some e) ((v.holdUp x.p.ctx e x.lanes.length).getD v))).partDone x.w.id x.track)

/-- R288, steps 2 to 5, in order: the target in the Fetch class, its header, its `enter`, the budget, the bytes of the link record. R283: the layout of the link record. R290: the walk goes from a frame to the one its SAVFB names only while that lies in the lane's stack segment, at least 0x20, and at
least 0x20 bytes lower; it ends at the root. A record whose read faults or waits ends it with that. -/
def Obligations.CallRecords : Prop :=
  (∀ (s : State) (x : IC) k (t : DWord),
    let r := s.reqOf x.w.id k
    let hdr := s.fetchWord r.core r.ctx (segOf t) (offOf t).toNat
    let word := s.fetchWord r.core r.ctx (segOf t) ((offOf t).toNat + 8)
    let enter := word.extractLsb' 58 6 = 0x24#6 ∧ word.extractLsb' 44 6 = 0#6
    let budget := 16 * ((word.extractLsb' 16 4).toNat + 1)
    (∀ e, s.checkFetch r t = .fault e → s.callChecks x k t = .fault e) ∧
    (s.checkFetch r t = .ok () →
      (decodeHeader hdr = none → s.callChecks x k t = .fault ⟨.illegal, 8, t, 0, 0⟩) ∧
      (∀ h, decodeHeader hdr = some h →
        (¬ enter → s.callChecks x k t = .fault ⟨.illegal, 9, t, 0, 0⟩) ∧
        (enter → x.p.alloc < budget → s.callChecks x k t = .fault ⟨.budget, 0, t, 0, 0⟩) ∧
        (enter → budget ≤ x.p.alloc →
          (∀ e, s.check r .store (mkAddr segSTK (x.w.lane k).sp) 0 0x20 8 = .fault e → s.callChecks x k t = .fault e) ∧
          ∀ q, s.check r .store (mkAddr segSTK (x.w.lane k).sp) 0 0x20 8 = .ok q →
            s.callChecks x k t = .ok (budget, (word.extractLsb' 0 13).toNat, q.2.2.2))))) ∧
  (∀ f : Frame, f.cseg < 2 ^ 24 → f.entry < 2 ^ 16 → f.fsize < 2 ^ 13 → f.bud < 2 ^ 4 → f.ent < 2 ^ 32 → f.smtop < 2 ^ 24 → f.tf < 4 →
    let n := fun (hi lo : Nat) => f.word / 2 ^ lo % 2 ^ (hi - lo + 1)
    f.word < 2 ^ 256 ∧ Frame.ofNat f.word = f ∧
    n 255 255 = f.hv.toNat ∧ n 254 253 = f.tf ∧ n 252 248 = 0 ∧ n 247 224 = f.smtop ∧ n 223 192 = f.ent ∧ n 191 128 = f.savfb.toNat ∧
    n 127 104 = f.cseg ∧ n 103 88 = f.entry ∧ n 87 75 = f.fsize ∧ n 74 71 = f.bud ∧ n 70 65 = 0 ∧ n 64 64 = f.mkd.toNat ∧
    n 63 0 = f.ret.toNat) ∧
  (∀ (s : State) (r : Req) w n fb,
    (∀ e, s.frameAt r w fb = .fault e → s.framesFrom r w (n + 1) fb = .fault e) ∧
    (∀ p, s.frameAt r w fb = .miss p → s.framesFrom r w (n + 1) fb = .miss p) ∧
    ∀ f, s.frameAt r w fb = .ok f →
      let next := (offOf f.savfb).toNat
      let on := segOf f.ret ≠ 0 ∧ segOf f.savfb = r.sseg ∧ 0x20 ≤ next ∧ next + 0x20 ≤ fb
      (¬ on → s.framesFrom r w (n + 1) fb = .ok [(fb, f)]) ∧
      (on → ∀ fs, s.framesFrom r w n next = .ok fs → s.framesFrom r w (n + 1) fb = .ok ((fb, f) :: fs)))

/-- R289, R290: `ret` of lanes whose frames lie above a root goes to the return address with the caller's frame, dropping the frame, its
mark record and its hold; `exit`, and `ret` from a root frame, give back the holds of the frames walked and end the lane. -/
def Obligations.ReturnWords : Prop :=
  (∀ c (f : CF) (l : Nat → Frame),
    let top := fun (x : IC) k => (x.w.lane k).fb.toNat
    let held := fun (x : IC) => x.lanes.any (fun k => (l k).hv)
    Performs (.ret c f) false
      (fun s x => x.awaits = false ∧ (held x = true → s.commitWaits x.p.id = false) ∧ ∀ k ∈ x.lanes,
        s.frameAt (s.reqOf x.w.id k) x.w.id (top x k) = .ok (l k) ∧ segOf (l k).ret ≠ 0 ∧
        s.checkFetch (s.reqOf x.w.id k) (l k).ret = .ok () ∧ s.entryPage x.p.ctx (if (l k).hv then [(l k).ent] else []) = none)
      (fun x u =>
        let go := x.each (fun k y => (if (l k).hv then y.holdDown x.p.ctx (l k).ent else y).modLane x.w.id k (fun z =>
          { z with sp := (x.w.lane k).fb - 0x20 - (if (l k).mkd then 16 else 0), fb := offOf (l k).savfb, mtop := 0,
                   pc := (l k).ret, pos := .header }))
        if held x then u.committed x.p.id go else go u)) ∧
  (∀ (word : Instr) c f, word = .exit c f ∨ word = .ret c f → ∀ fs : Nat → List (Nat × Frame),
    let top := fun (x : IC) k => (x.w.lane k).fb.toNat
    let held := fun (x : IC) => x.lanes.any (fun k => (fs k).any (fun q => q.2.hv))
    Performs word false
      (fun s x => x.awaits = false ∧ (held x = true → s.commitWaits x.p.id = false) ∧ ∀ k ∈ x.lanes,
        s.framesFrom (s.reqOf x.w.id k) x.w.id (frameFuel (top x k)) (top x k) = .ok (fs k) ∧
        s.entryPage x.p.ctx (heldEntries (fs k)) = none ∧
        (word = .ret c f → ∃ l, s.frameAt (s.reqOf x.w.id k) x.w.id (top x k) = .ok l ∧ segOf l.ret = 0))
      (fun x u =>
        let go := x.each (fun k y =>
          ((fs k).foldl (fun z q => if q.2.hv then z.holdDown x.p.ctx q.2.ent else z) y).exitLane x.w.id k)
        if held x then u.committed x.p.id go else go u)) ∧
  ∀ (s : State) w k, s.hasWeft w = true → k < (s.weft w).lanes.length → (((s.exitLane w k).weft w).lane k).st = .exited

/-- R296, R297: `cut` and `graft` take the lanes' places in the store queue and the lanes wait. R298: `drop` of a sealed skein starts its
dropping, or frees it when no graft of it runs. -/
def Obligations.SkeinWords : Prop :=
  ∀ c (f : CF),
    Performs (.cut c f) false (fun _ x => x.awaits = false ∧ ∀ k ∈ x.lanes, x.pz true f.a k = false ∧ x.pz true f.b k = false)
      (fun x => x.each (fun k y =>
        ((y.addParts x.w.id x.track 1).enqueue x.w.id k x.track x.sys x.pc x.hdr
          (.cut (x.rd true f.a k) (x.rd true f.b k) f.b.code.toNat)).modWeft x.w.id (fun w => w.park [k] (.step x.track)))) ∧
    Performs (.graft c f) false (fun _ x => x.awaits = false ∧ ∀ k ∈ x.lanes, x.pz true f.a k = false)
      (fun x => x.each (fun k y =>
        (y.enqueue x.w.id k 0 x.sys x.pc x.hdr (.graft (x.rd true f.a k))).modWeft x.w.id (fun w => w.park [k] (.step x.track)))) ∧
    ∀ q : Nat → Nat × List Loc, ∀ h : Nat → SkHdr, ∀ img : Nat → List Byte,
      Performs (.drop c f) false
        (fun s x => x.awaits = false ∧ s.commitWaits x.p.id = false ∧ ∀ k ∈ x.lanes, x.pz true f.a k = false ∧
          s.skHeader (s.reqOf x.w.id k) x.w.id .skeinFree (x.rd true f.a k) = .ok (q k) ∧
          skCheck (q k).1 x.p.ctx (x.rd true f.a k) = .ok (h k) ∧
          (if (h k).gip ≠ 0 then img k = [] else
            ∃ z, s.check (s.reqOf x.w.id k) .skeinFree (mkAddr (segOf (x.rd true f.a k)) 0x40) 0 (h k).bytes 1 = .ok z ∧
              img k = z.2.2.2.map (fun l => (s.laneByte x.w.id l).1)) ∧
          s.entryPage x.p.ctx ((imageHolds (img k) (h k)).map (·.1)) = none)
        (fun x u => u.committed x.p.id (x.each (fun k y =>
          let now := SkHdr.ofNat (y.leAt (q k).2)
          if now.state < 2 then y
          else if now.gip = 0 then y.freeSkein x.p.ctx now (img k) (q k).2
          else (y.write (wrs ((q k).2.take 8) (natLE 8 (({ now with state := 3 } : SkHdr).word)))).addParts x.w.id x.track 1)))

/-! ### Memory words -/

/-- R307, R308, R309: `ld` in each lane, and `lds` once for the lowest lane, issue a load of the checked bytes at A + DISP × width into the
registers of the table of R307; `lds` writes an sN once or a vN of every lane. What `issueLoad` does is the second part: the load is
recorded with its lane, its bytes and its registers, its registers are pending, no register or store changes, and every byte of memory
reads as before. R305, R307, R308: a load that has taken its bytes writes them, little-endian and zero-extended, to its registers, and it and
its part of the flag end; nothing else changes. Its bytes come from the newest older store of its weft's queue that writes them, else as its
core reads them (R132). -/
def Obligations.LoadWords : Prop :=
  ((∀ c (f : MF) (q : Nat → Desc × Seg × Nat × List Loc),
    let off := f.disp.toInt * (f.size.bytes : Int)
    let acq := decide (f.ord = .acq ∨ f.ord = .ar)
    let may := fun (s : State) (x : IC) k => x.pz true f.a k = false ∧
      s.check (s.reqOf x.w.id k) .load (x.rd true f.a k) off f.size.bytes f.size.bytes = .ok (q k)
    Performs (.ld c f) false (fun s x => x.awaits = false ∧ ∀ k ∈ x.lanes, may s x k)
      (fun x => x.each (fun k y => y.issueLoad x k (x.rd true f.a k) (q k).2.2.2 (loadDsts f.size f.d k) acq)) ∧
    Performs (.lds c f) false (fun s x => x.awaits = false ∧ may s x x.agent)
      (fun x y => y.issueLoad x x.agent (x.rd true f.a x.agent) (q x.agent).2.2.2
        (match f.d with
          | .v _ => x.lanes.flatMap (loadDsts f.size f.d)
          | .s _ => loadDsts f.size f.d x.agent
          | .zero | .lane => []) acq)) ∧
  (∀ lane (n : BitVec 8) (m : BitVec 6),
    let v := fun k => keyV lane (n.toNat + k)
    loadDsts .b8 (.v n) lane = [(v 0, 0, 1)] ∧ loadDsts .b16 (.v n) lane = [(v 0, 0, 2)] ∧ loadDsts .b32 (.v n) lane = [(v 0, 0, 4)] ∧
    loadDsts .b64 (.v n) lane = [(v 0, 4, 4), (v 1, 0, 4)] ∧
    loadDsts .b128 (.v n) lane = [(v 0, 4, 4), (v 1, 0, 4), (v 2, 12, 4), (v 3, 8, 4)] ∧
    loadDsts .b32 (.s m) lane = [(keyS m.toNat, 0, 4)] ∧ loadDsts .b64 (.s m) lane = [(keyS m.toNat, 0, 8)] ∧
    loadDsts .b128 (.s m) lane = [(keyS m.toNat, 0, 8), (keyS (m.toNat + 1), 8, 8)] ∧ ∀ z, loadDsts z .zero lane = []) ∧
  ∀ (y : State) (x : IC) k a ls dst acq, y.hasWeft x.w.id = true → (∀ l ∈ (y.weft x.w.id).loads, l.id < y.nextId) →
    ((y.weft x.w.id).loads.map (fun l => l.id)).Nodup →
    let t := y.issueLoad x k a ls dst acq
    (∀ w, w ≠ x.w.id → t.weft w = y.weft w) ∧ (t.weft x.w.id).regs = (y.weft x.w.id).regs ∧
    (t.weft x.w.id).poison = (y.weft x.w.id).poison ∧ (t.weft x.w.id).sq = (y.weft x.w.id).sq ∧
    (∀ r ∈ dst.map (·.1), ∃ p ∈ (t.weft x.w.id).pend, p.op = some y.nextId ∧ hasKey p.vals r = true) ∧
    (∃ ld, ld.id = y.nextId ∧ ld.track = x.track ∧ ld.lane = k ∧ ld.dst = dst ∧ ld.acq = acq ∧ ld.locs = ls ∧
      (t.weft x.w.id).loads.getLast? = some ld ∧
      (t.weft x.w.id).loads.map (fun l => (l.id, l.lane, l.dst, l.locs)) =
        ((y.weft x.w.id).loads ++ [ld]).map (fun l => (l.id, l.lane, l.dst, l.locs))) ∧
    (∀ l ∈ (y.weft x.w.id).loads, (l.wait = .late → locsMeet l.locs ls = false) → l ∈ (t.weft x.w.id).loads) ∧
    ∀ l, l.plain = true → y.settledAt l → (∀ m ∈ ls, Alike l m) →
      (∀ e ∈ (y.weft x.w.id).loads, e.wait = .late → ∀ m ∈ e.locs, Alike l m) → t.byteAt l = y.byteAt l) ∧
  ((∀ (s : State) w id (ld : LoadRec) (p : Pend), s.hasWeft w = true → (s.weft w).loads.find? (fun l => l.id == id) = some ld →
    ld.wait = .ready → (∀ q ∈ s.futs, q.2.kind ≠ .lookup w id) →
    (s.weft w).pend.find? (fun p => p.op == some id) = some p → (p.vals.map (·.1)).Nodup → risesFrom 0 (s.weft w).regs →
    ∃ t, exec (.memoryAccessComplete w id) s = .next t ∧ t.mem = s.mem ∧ (∀ v, v ≠ w → t.weft v = s.weft v) ∧
      (∀ k, sget 0 (t.weft w).regs k = (lookupKey k p.vals).getD (sget 0 (s.weft w).regs k)) ∧
      (∀ k, (t.weft w).newest k = (s.weft w).newest k) ∧ (t.weft w).lanes = (s.weft w).lanes ∧
      (t.weft w).loads = (s.weft w).loads.filter (fun l => l.id != id)) ∧
  (∀ (ld : LoadRec) key first n, ld.dst.find? (fun d => d.1 == key) = some (key, first, n) →
    let bs := ((ld.bytes.drop first).take n).map (fun b => b.2.getD (0, false))
    ld.value key = (BitVec.ofNat 64 (leNat (bs.map (·.1))), bs.any (·.2))) ∧
  ∀ (s : State) (w : Weft) (ld : LoadRec), s.taken w ld = { ld with wait := .ready, bytes := ld.bytes.map (fun b => (b.1, match b.2 with
    | some v => some v
    | none => some (s.queueByte w (w.sq.filter (fun e => e.id < ld.id)) b.1))) })

/-- R307, R308, R309: `st` in each lane in ascending order, and `sts` once for the lowest lane, put the low bytes of B into the weft's
store queue for the checked bytes at A + DISP × width; memory does not change before the store performs. -/
def Obligations.StoreWords : Prop :=
  ∀ c (f : MF) (q : Nat → Desc × Seg × Nat × List Loc),
    let off := f.disp.toInt * (f.size.bytes : Int)
    let data := fun (x : IC) k =>
      (match f.size with
        | .b8 => natLE 1 (x.rd false f.b k).toNat
        | .b16 => natLE 2 (x.rd false f.b k).toNat
        | .b32 => natLE 4 (x.rd false f.b k).toNat
        | .b64 => natLE 8 (x.rd true f.b k).toNat
        | .b128 => natLE 8 (x.rd true f.b k).toNat ++ natLE 8 (x.rd true (secondHalf f.b) k).toNat)
    let rel := if f.ord = .rel ∨ f.ord = .ar then f.scope else .none
    let may := fun (s : State) (x : IC) k => x.pz true f.a k = false ∧
      s.check (s.reqOf x.w.id k) .store (x.rd true f.a k) off f.size.bytes f.size.bytes = .ok (q k)
    let put := fun (x : IC) k (y : State) =>
      ((y.touch x.w.core (y.panel x.w.panel).ctx (q k).2.2.2).addParts x.w.id x.track 1).enqueue x.w.id k x.track x.sys x.pc x.hdr
        (.store (wrs (q k).2.2.2 (data x k) (x.storePz f.size f.b k)) rel) (x.rd true f.a k)
    (∀ k, (q k).2.2.2.length = f.size.bytes) →
    Performs (.st c f) false (fun s x => x.awaits = false ∧ ∀ k ∈ x.lanes, may s x k) (fun x => x.each (put x)) ∧
    Performs (.sts c f) false (fun s x => x.awaits = false ∧ may s x x.agent) (fun x => put x x.agent)

/-- R310: each lane's atomic of the checked bytes at A + DISP × width enters the store queue in ascending lane order with its operands;
its old value returns to D as a load's does. R310, R140: the value that an atomic leaves, for its width: sums wrap, `min` and `max` are signed, `cas` writes b when old = d. At its
home the old bytes are read and the new ones written in one step, and the old value returns. -/
def Obligations.AtomicWords : Prop :=
  (∀ c (f : MF) (q : Nat → Desc × Seg × Nat × List Loc),
    ∀ o ∈ [(Instr.atomAdd c f, AtomOp.add), (.atomMin c f, .min), (.atomMax c f, .max), (.atomAnd c f, .and), (.atomOr c f, .or),
      (.atomXor c f, .xor), (.atomExch c f, .exch), (.cas c f, .cas)],
      let w64 := f.size == .b64
      let off := f.disp.toInt * (f.size.bytes : Int)
      Performs o.1 false
        (fun s x => x.awaits = false ∧ ∀ k ∈ x.lanes, x.pz true f.a k = false ∧
          s.check (s.reqOf x.w.id k) .atomic (x.rd true f.a k) off f.size.bytes f.size.bytes = .ok (q k) ∧
          ((q k).1.kind = 2 → o.2.hostOk = true))
        (fun x => x.each (fun k y =>
          let dst := loadDsts f.size f.d k
          let d := if o.2 = .cas then x.rd w64 f.d k else 0
          let pz := x.pz w64 f.b k || (decide (o.2 = .cas) && x.pz w64 f.d k)
          let ld : LoadRec := ⟨y.nextId, x.track, k, .queue, decide (f.ord = .acq ∨ f.ord = .ar), x.rd true f.a k, x.pc, x.hdr,
            (q k).2.2.2.map (fun l => (l, none)), dst⟩
          let y1 := (y.touch x.w.core (y.panel x.w.panel).ctx (q k).2.2.2).modWeft x.w.id (fun w =>
            (({ w with loads := w.loads ++ [ld] } : Weft).addUnknown y.nextId (dst.map (·.1))).addParts x.track 1)
          ({ y1 with nextId := y.nextId + 1 } : State).enqueue x.w.id k x.track x.sys x.pc x.hdr
            (.atomic o.2 (q k).2.2.2 (x.rd w64 f.b k) d pz y.nextId (if f.ord = .rel ∨ f.ord = .ar then f.scope else .none)) (x.rd true f.a k)))) ∧
  ((∀ w ∈ [32, 64], ∀ old b d : Nat, old < 2 ^ w → b < 2 ^ w → d < 2 ^ w →
    let sg := fun v : Nat => (BitVec.ofNat w v).toInt
    AtomOp.add.new w old b d = (old + b) % 2 ^ w ∧ AtomOp.min.new w old b d = (if sg b < sg old then b else old) ∧
    AtomOp.max.new w old b d = (if sg old < sg b then b else old) ∧ AtomOp.and.new w old b d = old &&& b ∧
    AtomOp.or.new w old b d = old ||| b ∧ AtomOp.xor.new w old b d = old ^^^ b ∧ AtomOp.exch.new w old b d = b ∧
    AtomOp.cas.new w old b d = (if old = d then b else old)) ∧
  ∀ (s : State) w e rest op ls b d pz ld rel, s.hasWeft w = true → (s.weft w).sq = e :: rest → e.op = .atomic op ls b d pz ld rel →
    (s.panel (s.weft w).panel).launch.replay = false → s.bytesWait (s.weft w) e ls = false →
    (rel ≠ .none → s.headWaits (s.weft w) e rel = false) →
    s.winBusy (s.weft w).core ls = false → (∀ l ∈ ls, l.isRemote = false ∧ l ≠ .zero) →
    (∀ p ∈ s.padsOf (s.weft w).panel ls, p.launch.replay = false) →
    let y := ((s.forceLate (s.weft w).core w e.id ls).spread (s.weft w).core rel).dropSq w e.id
    exec (.atomicAtHome w) s = .next ((y.writeBy (s.weft w).core (wrs ls (natLE ls.length
      (op.new (8 * ls.length) (y.leAt ls) b.toNat d.toNat)) (pz || (y.read ls).any (·.2)))).atomDone w ld (y.read ls)))

/-- R133, R104: STORE_PERFORM takes the store at the head of a weft's queue out of it and writes its bytes, or sends them to another
core's structure (a window) or another package; its part of the flag falls. Loads of the core that were issued before it and are not yet
satisfied take its bytes first (`forceLate`), and where there are none that changes nothing. A write is seen where it is made and nowhere
else: for a list of bytes at places apart from one another, each place reads its byte afterwards, and every place apart from all of them reads
as before; the writing core sees an HBM byte that it wrote as memory holds it. -/
def Obligations.StorePerforms : Prop :=
  (∀ (s : State) w e rest ws, s.hasWeft w = true → (s.weft w).sq = e :: rest → e.op = .store ws .none →
    (s.panel (s.weft w).panel).launch.replay = false → s.bytesWait (s.weft w) e (ws.map (·.loc)) = false →
    let core := (s.weft w).core
    let ls := ws.map (·.loc)
    let y := (s.dropSq w e.id).forceLate core w e.id ls
    let away := ls.any Loc.isWin = true ∨ y.winBusy core ls = true
    (¬ away → ls.any Loc.isRemote = false → exec (.storePerform w) s = .next ((y.writeBy core ws).doneIf w e.track)) ∧
    (away → ∃ a : WinAcc, a.bytes = ws ∧ a.load = none ∧ a.core = core ∧ a.weft = w ∧
      exec (.storePerform w) s = .next (({ y with wins := y.wins ++ [a], nextId := y.nextId + 1 } : State).doneIf w e.track)) ∧
    (¬ away → ls.any Loc.isRemote = true → ∃ a : RemAcc, a.bytes = ws ∧ a.load = none ∧ a.core = core ∧ a.weft = w ∧ a.addr = e.addr ∧
      exec (.storePerform w) s = .next (({ y with rems := y.rems ++ [a], nextId := y.nextId + 1 } : State).doneIf w e.track)) ∧
    ((∀ v ∈ s.wefts, v.core = core → ∀ l ∈ v.loads, l.wait = .late ∨ l.wait = .board → locsMeet l.locs ls = false) →
      y = s.dropSq w e.id)) ∧
  (∀ (s : State) core src (ws : List Wr), s.mem.wf = true →
    (∀ w ∈ ws, w.loc.plain = true ∧ s.settledAt w.loc) → ws.Pairwise (fun u v => Apart u.loc v.loc) →
    let t := s.writeBy core ws src
    (∀ w ∈ ws, t.byteAt w.loc = w.b) ∧
    (∀ l, l.plain = true → s.settledAt l → (∀ w ∈ ws, Apart w.loc l) → t.byteAt l = s.byteAt l) ∧
    ∀ w ∈ ws, ∀ pa k c, w.loc = .hbm pa k c → t.staleAt core (pa / 32) k = none)

/-- R311, R320, R321: `fence` takes its place in the store queue, except at `.ln`, where its flag falls at once; `pref` reads the bytes of its
range that it may read into the die stores, and that changes no byte (R126); `discard` queues the pages of its range that become dead. -/
def Obligations.FenceAndRangeWords : Prop :=
  (∀ c (f : MF),
    Performs (.fence c f) false (fun _ x => x.awaits = false) (fun x => x.each (fun k y =>
      if f.scope = .ln then y
      else (y.addParts x.w.id x.track 1).enqueue x.w.id k x.track x.sys x.pc x.hdr (.fence f.scope))) ∧
    Performs (.pref c f) false
      (fun _ x => x.awaits = false ∧ ∀ k ∈ x.lanes, x.pz true f.a k = false ∧ x.pz false f.b k = false)
      (fun x => x.each (fun k y => y.prefLane x k (x.rd true f.a k) f.disp.toInt (x.rd false f.b k).toNat)) ∧
    ∀ ps : Nat → List (Seg × Nat × Nat × Nat × Nat),
      Performs (.discard c f) false
        (fun s x => x.awaits = false ∧ ∀ k ∈ x.lanes, x.pz true f.a k = false ∧ x.pz true f.b k = false ∧
          s.discardCheck x k (x.rd true f.a k) f.disp.toInt ((x.rd true f.b k).toNat % 2 ^ 40) = .ok (ps k))
        (fun x => x.each (fun k y =>
          (y.addParts x.w.id x.track 1).enqueue x.w.id k x.track x.sys x.pc x.hdr (.discard (ps k)) (x.rd true f.a k)))) ∧
  (∀ (y : State) (x : IC) k a disp len, len = 0 ∨ (∀ q, y.check (y.reqOf x.w.id k) .load a disp (min len 0x100000) 1 ≠ .ok q) →
    y.prefLane x k a disp len = y) ∧
  (∀ (y : State) (x : IC) k a disp len q, len ≠ 0 → y.check (y.reqOf x.w.id k) .load a disp (min len 0x100000) 1 = .ok q →
    y.prefLane x k a disp len = y.allocAll q.2.2.2) ∧
  ∀ (y : State) (ls : List Loc), ∃ m, y.allocAll ls = { y with mem := m } ∧ m.poison = y.mem.poison ∧
    ∀ l, l.plain = true → y.settledAt l → (∀ e ∈ ls, Alike l e) → ({ y with mem := m } : State).byteAt l = y.byteAt l

/-! ### Binding and queue words -/

/-- R53, R56: what a BIND and an UNBIND do to an entry, by its state; the first component is the entry as written, none where it is
unchanged, and the second the value of the future, none while it is pending. R312 to R316, R45: `bind` and `unbind` perform their step of the entry order for the lowest lane and complete a future in the handle
that DISP names; `lookup` makes one, pending, and reads the stored name as a load of the lane, with which the search ends and completes it; `segrd` writes the segment of a BOUND slot to each lane. -/
def Obligations.BindingWords : Prop :=
  (∀ (s : State) c eb e lo hi x, s.entryWords c eb e = .ok (lo, hi) → BEntry.parse lo hi = some x →
    let q := (x.cseq + 1) % 2 ^ 16
    let value := fun (status cseq : Nat) => BitVec.ofNat 64 (status + cseq % 2 ^ 16 * 2 ^ 16)
    let free := { x with state := 0, rights := 0, seg := 0, cseq := q }
    (∀ b, let want := b / 2 ^ 8 % 2 ^ 16
      let st := b / 2 ^ 61 % 8
      let seg := b / 2 ^ 24 % 2 ^ 24
      let reason := b / 2 ^ 48 % 2 ^ 8
      let bad := (st ≠ 2 ∧ st ≠ 4) ∨ b / 2 ^ 56 % 2 = 1 ∨ b % 2 ^ 8 ≠ 0
      let target := 0 < seg ∧ seg < 0xFFFFF0
      let y : BEntry :=
        { state := if ¬ bad ∧ st = 2 ∧ target then 2 else 4
          rights := if ¬ bad ∧ st = 2 ∧ target then b / 2 ^ 57 % 16 else 0
          reason := if bad then 5 else if st = 2 then (if target then 0 else 8)
            else if (1 ≤ reason ∧ reason ≤ 8) ∨ 0x80 ≤ reason then reason else 5
          seg := if ¬ bad ∧ st = 2 ∧ target then seg else 0
          cseq := q, hold := x.hold, wnode := none }
      s.bindEntry c eb e b =
        if (x.state = 0 ∨ x.state = 1) ∧ x.cseq = want then ((s.putEntry c eb e y).releaseWaiters c e, value 0 q)
        else (s, value 2 x.cseq)) ∧
    (x.state = 0 → s.unbindEntry c eb e = (s, some (value 0 x.cseq))) ∧
    (x.state = 1 → s.unbindEntry c eb e = (s, some (value 1 x.cseq))) ∧
    (x.state = 2 → x.hold = 0 → s.unbindEntry c eb e = (s.putEntry c eb e free, some (value 0 q))) ∧
    (x.state = 2 → x.hold ≠ 0 → s.unbindEntry c eb e = (s.putEntry c eb e { x with state := 3 }, none)) ∧
    (x.state = 3 → s.unbindEntry c eb e = (s, none)) ∧
    (x.state = 4 → s.unbindEntry c eb e = (s.putEntry c eb e { x with state := 0, reason := 0, cseq := q }, some (value 0 q)))) ∧
  ((∀ c (f : MF) e eb,
    let h := f.disp.toNat % 16
    let rel := fun (x : IC) => (bindOutcome (x.rd true f.b x.agent).toNat).1 = 2
    let target := fun (s : State) (x : IC) => s.selectEntry x (x.rd true f.a x.agent).toNat = .ok (e, eb) ∧
      (∃ z, s.entryWords x.p.ctx eb e = .ok z) ∧ s.commitWaits x.p.id = false ∧ x.awaits = false ∧ x.pz true f.a x.agent = false
    Performs (.bind c f) false
      (fun s x => target s x ∧ s.futureHeld x h .bind = false ∧ x.pz true f.b x.agent = false ∧
        (rel x → s.releaseWaits x .pkg = false))
      (fun x u =>
        let y := if rel x then u.spread x.w.core .pkg else u
        y.malformedAt x eb e (y.committed x.p.id (fun z =>
          let q := z.bindEntry x.p.ctx eb e (x.rd true f.b x.agent).toNat
          let m := q.1.makeFuture x h .bind 0
          m.1.finish m.2 q.2))) ∧
    Performs (.unbind c f) false
      (fun s x => target s x ∧ s.futureHeld x h (.unbind 0) = false)
      (fun x y => y.malformedAt x eb e (y.committed x.p.id (fun z =>
        let m := z.makeFuture x h (.unbind e) 0
        let q := m.1.unbindEntry x.p.ctx eb e
        match q.2 with
        | some v => q.1.finish m.2 v
        | none => q.1))) ∧
    ∀ (q : Desc × Seg × Nat × List Loc),
      Performs (.lookup c f) false
        (fun s x => s.futureHeld x h (.lookup x.w.id 0) = false ∧ x.awaits = false ∧ x.pz true f.a x.agent = false ∧
          s.check (s.reqOf x.w.id x.agent) .load (x.rd true f.a x.agent) 0 64 8 = .ok q)
        (fun x y =>
          let m := y.makeFuture x h (.lookup x.w.id y.nextId) 0
          m.1.issueLoad { x with track := 0 } x.agent (x.rd true f.a x.agent) q.2.2.2 [] false)) ∧
  (∀ (s : State) w id (ld : LoadRec) (k : Nat) (u : Fut), s.hasWeft w = true →
    (s.weft w).loads.find? (fun l => l.id == id) = some ld → ld.wait = .ready →
    s.futs.filter (fun q => q.2.used && q.2.value.isNone && q.2.kind == .lookup w id) = [(k, u)] →
    let v := s.lookupValue (s.reqOf w ld.lane) w (ld.bytes.map (fun b => (b.2.getD (0, false)).1))
    exec (.memoryAccessComplete w id) s = .next (((s.completeFut
      ⟨u.ctx, k / Config.futuresPerDie, k % Config.futuresPerDie, u.gen⟩ v).modBoth w (fun z =>
        { z.complete id with loads := z.loads.filter (fun l => l.id != id) })).partDone w ld.track)) ∧
  ∀ c (f : VI) s sw x e eb nb b, Due s sw x (Instr.segrd c f).view false →
    let r := s.ready sw
    x.awaits = false →
    r.slotToEntry x.p.ctx (r.moduleOf x.w.core x.p.ctx (segOf x.pc)) (f.imm.toNat % 2 ^ 16) = .ok (e, eb, nb) →
    r.entryAt x.p.ctx eb e = .ok b → b.state = 2 →
    ∃ t, exec (.segrd c f) s = .next t ∧
      Wrote r t x c noMore (wordWrites true f.d x.lanes (fun _ => mkAddr (BitVec.ofNat 24 b.seg) 0)) [])

/-- R117, R318: `push` with enough credits in a live slot of the context takes one credit for each lane and sends each lane's group of
sixteen registers, in ascending order. R319: `pop` serves its lanes in ascending order; the third part is one pop: an empty or malformed
queue gives nothing, and otherwise the entry at HEAD is taken and HEAD rises by one. R117 to R119: an entry that arrives at a live queue of its context with room is written at TAIL, which rises by one; at a share that no
panel of the context holds it is refused, and its lane waits at the push. A credit return adds to FREE of the sender's live slot, and the
parked pushes that it lets go on execute again, once the pop that frees the entry has completed. The retry timeout lets the refused lanes of a weft execute their push again. -/
def Obligations.MessageQueues : Prop :=
  ((∀ c (f : MF),
    let n := f.disp.toNat % 16
    Performs (.push c f) false
      (fun s x => x.awaits = false ∧ (s.mqs x.w.core n).getLsbD 63 = true ∧ mqsCtx (s.mqs x.w.core n) = x.p.ctx ∧
        x.lanes.length ≤ mqsFree (s.mqs x.w.core n) ∧ (x.p.launch.replay = true → x.w.sq = []) ∧ s.commitWaits x.p.id = false)
      (fun x u => (u.committed x.p.id (x.each (fun k y => y.sendEntry x k n f.b))).wakePush x.w.core n)) ∧
  (∀ c (f : MF) (off : Nat → Nat),
    Performs (.pop c f) false
      (fun s x => x.w.sq = [] ∧ x.awaits = false ∧ ∀ k ∈ x.lanes, x.pz true f.a k = false ∧
        s.popCheck (s.reqOf x.w.id k) (x.rd true f.a k) = .ok (off k) ∧ s.popBlocked x.p (off k) x.lanes.length = false)
      (fun x => x.each (fun k y => y.popLane x k f.d f.b (x.rd true f.a k) (off k)))) ∧
  (∀ (s : State) r a d sg o, s.resolve r (segOf a) (offOf a).toNat = .ok (d, sg, o) →
    (d.kind ≠ kPad → s.popCheck r a = .fault ⟨.rights, 1, a, 0, 0⟩) ∧
    (d.kind = kPad → ∀ q, s.check r .atomic a 0 8 64 = .ok q → s.popCheck r a = .ok q.2.2.1)) ∧
  (∀ (s : State) (p : Panel) off,
    let base := padPa p.core (0x4000 * p.padb)
    let h0 := s.padWord (base + off)
    let bad := mqBad h0 (s.padWord (base + off + 8)) off (0x4000 * p.launch.padu)
    let head := h0 % 2 ^ 16
    let slot := base + off + 64 + 64 * (head % 2 ^ (h0 / 2 ^ 52 % 16))
    (bad = true → s.popOne p off = (s.report "message queue malformed" p.ctx [p.core, off], none)) ∧
    (bad = false → h0 / 2 ^ 16 % 2 ^ 16 = head → s.popOne p off = (s, none)) ∧
    (bad = false → h0 / 2 ^ 16 % 2 ^ 16 ≠ head → s.popOne p off =
      (s.putPadWord (base + off) (h0 - head + (head + 1) % 2 ^ 16),
       some ((List.range 64).map (fun i => (s.chipByte (slot + i), s.pzAt (.chip (slot + i) false))), h0 / 2 ^ 32 % 2 ^ 14)))) ∧
  ∀ (y : State) (x : IC) k n b, ∃ m : MqMsg, m.slot = n ∧ m.weft = x.w.id ∧ m.lane = k ∧ m.bytes = x.group b k ∧
    let t := y.sendEntry x k n b
    t.mem = y.mem ∧ (risesFrom 0 y.cores → x.w.core < 1024 → n < ((y.core x.w.core).mqs).length →
      (t.core x.w.core).mqIn = (y.core x.w.core).mqIn ++ [m] ∧
      mqsFree (t.mqs x.w.core n) = (mqsFree (y.mqs x.w.core n) - 1) % 2 ^ 13)) ∧
  ((∀ (s : State) core slot (m : MqMsg), (s.core core).mqIn.find? (fun m => m.slot == slot) = some m →
    (s.weft m.weft).sq.any (fun e => e.op == .push m.id) = false →
    let q := s.mqs core slot
    let s1 := s.modCore core (fun c => { c with mqIn := c.mqIn.filter (fun z => z.id != m.id) })
    (s.padOwner (mqsCore q) (mqsOff q) = none → exec (.mqEntryArrival core slot) s = .next (s1.refusePush core m)) ∧
    ∀ p, s.padOwner (mqsCore q) (mqsOff q) = some p →
      (p.ctx ≠ mqsCtx q → exec (.mqEntryArrival core slot) s = .next (s1.refusePush core m)) ∧
      (p.ctx = mqsCtx q → p.launch.replay = false → exec (.mqEntryArrival core slot) s = .next (s1.landEntry p (mqsOff q) m))) ∧
  (∀ (s : State) (p : Panel) off (m : MqMsg),
    let base := padPa p.core 0 + off
    let h0 := s.padWord base
    let n := 2 ^ (h0 / 2 ^ 52 % 16)
    let tail := h0 / 2 ^ 16 % 2 ^ 16
    mqBad h0 (s.padWord (base + 8)) (off - 0x4000 * p.padb) (0x4000 * p.launch.padu) = false →
    (tail + 2 ^ 16 - h0 % 2 ^ 16) % 2 ^ 16 ≠ n →
    s.landEntry p off m = ((s.write ((m.bytes.zipIdx).map (fun q => ⟨Loc.chip (base + 64 + 64 * (tail % n) + q.2) false, q.1.1, q.1.2⟩))).putPadWord
      base (h0 - tail * 2 ^ 16 + (tail + 1) % 2 ^ 16 * 2 ^ 16))) ∧
  (∀ (s : State) id (k : Credit) p, s.credits.find? (fun k => k.id == id && !s.creditWaits k) = some k →
    let core := coreOf (k.sender / 2 ^ 12 % 4) (k.sender / 2 ^ 6 % 64) (k.sender / 2 ^ 4 % 4)
    let n := k.sender % 16
    let q := s.mqs core n
    q.getLsbD 63 = true → s.panels.find? (fun p => p.id == k.panel) = some p → p.ctx = mqsCtx q →
    exec (.mqCreditReturn id) s = .next
      ((({ s with credits := s.credits.filter (fun z => !(z.id == id && z.pa == k.pa)) } : State).setFree core n
        (min 4096 (mqsFree q + k.count))).wakePush core n)) ∧
  ∀ (s : State) w, s.hasWeft w = true →
    ∃ t, exec (.pushRetryTimeout w) s = .next t ∧ t.mem = s.mem ∧ (∀ v, v ≠ w → t.weft v = s.weft v) ∧
      ∀ i, ((s.weft w).lane i).back = none →
        (∀ n, ((s.weft w).lane i).st = .parked (.push n true) → (t.weft w).lane i = { (s.weft w).lane i with st := .active }) ∧
        ((∀ n, ((s.weft w).lane i).st ≠ .parked (.push n true)) → (t.weft w).lane i = (s.weft w).lane i))

/-! ### Completions, windows, remote accesses and walks -/

/-- R175, R305: the completion of a flag-tracked unit's result writes it to its registers, whose newest values stay; one part of a counted
instruction less, and its flag falls with the last. R104 to R107, R82: a window access of a core's turn writes its bytes where it arrives, or takes the bytes it reads; a remote access
performs at its home, or its lane takes PAGE, reason 5 (REMOTE), when the home does not resolve; an access by another package is translated by
this one's walker, held for the pager where that fails, and performed here under the key that it names, its data sent back. -/
def Obligations.CompletionsAndWindows : Prop :=
  ((∀ (s : State) w id (p : Pend), s.unitResult (s.weft w) id = true → s.hasWeft w = true →
    (s.weft w).pend.find? (fun p => p.op == some id) = some p → (p.vals.map (·.1)).Nodup → risesFrom 0 (s.weft w).regs →
    ∃ t, exec (.unitResultComplete w id) s = .next t ∧ t.mem = s.mem ∧ (∀ v, v ≠ w → t.weft v = s.weft v) ∧
      (∀ k, sget 0 (t.weft w).regs k = (lookupKey k p.vals).getD (sget 0 (s.weft w).regs k)) ∧
      (∀ k, (t.weft w).newest k = (s.weft w).newest k) ∧ (t.weft w).lanes = (s.weft w).lanes ∧
      (t.weft w).flags = ((s.weft w).partDone id).flags) ∧
  ∀ (w : Weft) (t : Track), w.tracks.find? (fun x => x.id == t.id) = some t →
    (t.left ≤ 1 → (w.partDone t.id).flags = (if t.flag = 0 then w.flags else w.flags.modify t.flag (· - 1)) ∧
      (w.partDone t.id).tracks = w.tracks.eraseP (fun x => x.id == t.id)) ∧
    (1 < t.left → (w.partDone t.id).flags = w.flags ∧
      (w.partDone t.id).tracks = w.tracks.map (fun x => if x.id = t.id then { x with left := x.left - 1 } else x))) ∧
  ((∀ (s : State) id (a : WinAcc), s.wins.find? (fun q => q.id == id) = some a → s.wins.find? (fun q => q.core == a.core) = some a →
    (∀ b ∈ a.bytes, s.tileBusy s.mwWrites b.loc = false ∧ s.absentAt b.loc = false) →
    s.padHolds (s.weft a.weft).panel (a.bytes.map (·.loc)) = none →
    let s1 : State := { s with wins := s.wins.filter (fun q => q.id != id) }
    (a.load = none → exec (.windowAccess id) s = .next ((s1.landBy (s.weft a.weft).panel a.core a.bytes 0 id).doneIf a.weft a.track)) ∧
    ∀ l ld, a.load = some l → (s.weft a.weft).loads.find? (fun x => x.id == l) = some ld →
      exec (.windowAccess id) s = .next (s1.modBoth a.weft (fun w => w.putLoad (s1.winTaken (s.weft a.weft) ld)))) ∧
  (∀ (s : State) pid core ws src id, (s.panel pid).launch.replay = false →
    (∀ p ∈ s.padsOf pid (ws.map (·.loc)), p.launch.replay = false) → s.landBy pid core ws src id = s.writeBy core ws src) ∧
  (∀ (s : State) id (a : RemAcc), s.rems.find? (fun q => q.id == id) = some a → s.rems.find? (fun q => q.core == a.core) = some a →
    let ls := a.bytes.map (·.loc)
    let s1 : State := { s with rems := s.rems.filter (fun q => q.id != id) }
    (a.load = none → exec (.remoteAccess (.outbound id true)) s = .next ((s1.write a.bytes).doneIf a.weft a.track)) ∧
    (∀ l op b d, a.load = some l → a.atom = some (op, b, d) → exec (.remoteAccess (.outbound id true)) s = .next
      ((s1.write (wrs ls (natLE ls.length (op.new (8 * ls.length) (s1.leAt ls) b.toNat d.toNat)))).atomDone a.weft l (s1.read ls))) ∧
    (∀ l ld, a.load = some l → a.atom = none → (s.weft a.weft).loads.find? (fun x => x.id == l) = some ld →
      exec (.remoteAccess (.outbound id true)) s = .next (s1.modBoth a.weft (fun w => w.putLoad (s1.taken (s.weft a.weft) ld)))) ∧
    (a.load = none → exec (.remoteAccess (.outbound id false)) s =
      .next ((s1.doneIf a.weft a.track).faultLanes a.weft a.pc a.hdr a.cls [(a.lane, ⟨.page, 5, a.addr, 0, a.addr >>> 16 <<< 16⟩)]))) ∧
  (∀ (s : State) root pgsz okey off (store : Option (List Byte)) n,
    let q : InRem := ⟨s.nextId, root, pgsz, okey, off, store, none, (store.map List.length).getD n, false⟩
    exec (.remoteAccess (.inbound root pgsz okey off store n)) s =
      .next (({ s with inRems := s.inRems ++ [q], nextId := s.nextId + 1 } : State).inboundStep q)) ∧
  ∀ (s : State) (q : InRem),
    (∀ ps, s.inboundLocs q q.len = .miss ps → s.inboundStep q = s.queueWalks q.who (homeDie q.root) ps) ∧
    (∀ f, s.inboundLocs q q.len = .fault f → (s.inboundStep q).mem = s.mem ∧
      (s.inboundStep q).inRems = s.inRems.map (fun z => if z.id = q.id then { z with held := true } else z)) ∧
    ∀ ls, s.inboundLocs q q.len = .ok ls →
      let y : State := { s with inRems := s.inRems.filter (fun z => z.id != q.id) }
      (∀ bs, q.store = some bs → s.inboundStep q = (y.landBy 0 noCore (wrs ls bs)).takeWalks q.who) ∧
      (q.store = none → q.atom = none → s.inboundStep q =
        ({ y.allocAll ls with wire := y.wire ++ [.remoteData (ls.map s.byteAt)] } : State).takeWalks q.who))

/-- R67, R69, R71, R72, R74: a granted walk ends with the reason of its failure, which its requesters then take, the lanes that waited for it
being chosen for their word again, or its page enters the page cache of every core that asked; it reads a non-leaf entry from the walker's
cache where that holds it; a slot is granted to the oldest walk of a requester that holds none. R64 to R68: a walk reads one entry at each level from the base down, the entry of the page's size class being the leaf; the reasons
of PAGE are 6 for a key that is not live, 4 for an uncorrectable read, 1 for an absent entry and 3 for a malformed one. R76, R77: when a pager resolves a subgroup that the die controller holds, its lanes execute their word again; when it declines, every
lane of it stops with PAGE and the reason of its page. A stalled copy, matrix word or post goes on when its pager resolves it. -/
def Obligations.WalksAndPagers : Prop :=
  (((∀ (s : State) die id (w : Walk), s.walks.find? (fun w => w.id == id && w.die == die && w.granted && w.result.isNone) = some w →
    (∀ q ∈ s.inRems, q.who ∉ w.reqs) →
    let res := walkWith (s.walkerStep die (s.walkKey w)) w.base (w.page * pageSize w.pgsz) w.pgsz
    (∀ r, res = .error r → ∃ t, exec (.walkComplete die id) s = .next t ∧ t.mem = s.mem ∧ t.wefts = s.wefts ∧
      (∃ x ∈ t.walks, x.id = id ∧ x.reqs = w.reqs ∧ x.result = some r) ∧
      ∀ q ∈ s.lates, whoFor (s.weft q.weft).core q.track ∈ w.reqs → ∃ z ∈ t.slot, z.weft = q.weft ∧ z.pc = q.pc ∧ z.late = some q) ∧
    ∀ e core, res = .ok e → core ∈ w.reqs.map whoOf → core < 1024 → risesFrom 0 s.cores →
      ∃ t, exec (.walkComplete die id) s = .next t ∧ t.mem = s.mem ∧ t.wefts = s.wefts ∧
        ∃ l ∈ (t.core core).tlbPage, l.ctx = w.ctx ∧ l.seg = w.seg ∧ l.page = w.page ∧ l.pgsz = w.pgsz ∧ l.base = w.base ∧
          l.leaf = BitVec.ofNat 64 e.2) ∧
  (∀ (s : State) die key pa leaf align,
    let line := (s.die die).walkCache.find? (fun l => l.pa == pa && l.key == key)
    (leaf = true ∨ line = none → s.walkerStep die key pa leaf align = s.walkStep key pa leaf align) ∧
    ∀ l, leaf = false → line = some l → s.walkerStep die key pa leaf align =
      if s.keyLive key = false then .error 6 else if pteBad l.entry leaf align = true then .error 3 else .ok l.entry) ∧
  ∀ (s : State) die who (w : Walk), s.walkWaiters die = [who] → s.walksHeld die who = 0 →
    s.walks.find? (fun w => w.die == die && !w.granted && w.result.isNone && w.holder == who) = some w →
    ∃ t, exec (.walkSlotGrant die) s = .next t ∧ t.mem = s.mem ∧ t.wefts = s.wefts ∧ t.cores = s.cores ∧
      (∃ x ∈ t.walks, x.id = w.id ∧ x.granted = true) ∧
      t.walks.map (fun x => { x with granted := false }) = s.walks.map (fun x => { x with granted := false })) ∧
  ((∀ (s : State) tkey pa leaf align,
    let e := s.hbmWord pa tkey
    s.walkStep tkey pa leaf align =
      if s.keyLive tkey = false then .error 6 else if s.tableErr pa = true then .error 4 else if e % 2 = 0 then .error 1
      else if pteBad e leaf align = true then .error 3 else .ok e) ∧
  ∀ (s : State) tkey base off e2 e1 e0,
    let p2 := base + 8 * (off / 2 ^ 30 % 2 ^ 10)
    let p1 := e2 / 2 ^ 8 % 2 ^ 44 * 2 ^ 8 + 8 * (off / 2 ^ 21 % 2 ^ 9)
    let p0 := e1 / 2 ^ 8 % 2 ^ 44 * 2 ^ 8 + 8 * (off / 2 ^ 16 % 2 ^ 5)
    (s.walkStep tkey p2 true (2 ^ 30) = .ok e2 → s.walkPage tkey base off 2 = .ok (p2, e2)) ∧
    (s.walkStep tkey p2 false 0x1000 = .ok e2 → s.walkStep tkey p1 true (2 ^ 21) = .ok e1 → s.walkPage tkey base off 1 = .ok (p1, e1)) ∧
    (s.walkStep tkey p2 false 0x1000 = .ok e2 → s.walkStep tkey p1 false 0x100 = .ok e1 → s.walkStep tkey p0 true (2 ^ 16) = .ok e0 →
      s.walkPage tkey base off 0 = .ok (p0, e0)) ∧
    ∀ r, (s.walkStep tkey p2 true (2 ^ 30) = .error r → s.walkPage tkey base off 2 = .error r) ∧
      (s.walkStep tkey p2 false 0x1000 = .error r → s.walkPage tkey base off 1 = .error r ∧ s.walkPage tkey base off 0 = .error r) ∧
      (s.walkStep tkey p2 false 0x1000 = .ok e2 → s.walkStep tkey p1 true (2 ^ 21) = .error r → s.walkPage tkey base off 1 = .error r) ∧
      (s.walkStep tkey p2 false 0x1000 = .ok e2 → s.walkStep tkey p1 false 0x100 = .error r → s.walkPage tkey base off 0 = .error r))) ∧
  ((∀ (s : State) w k, s.hasWeft w = true → (s.weft w).heldSub k = true →
    (∃ t, exec (.pagerResolve (.sub w k)) s = .next t ∧ t.mem = s.mem ∧ (∀ v, v ≠ w → t.weft v = s.weft v) ∧
      ((t.weft w).subs = (s.weft w).subs.set k Sub.free) ∧
      ∀ i, ((s.weft w).lane i).back = none → (t.weft w).lane i = if ((s.weft w).lane i).st = .parked (.fault k) then { (s.weft w).lane i with st := .active }
        else (s.weft w).lane i) ∧
    (∃ t, exec (.pagerDecline (.sub w k)) s = .next t ∧
      ∀ i < (s.weft w).lanes.length, ((s.weft w).subs.getD k Sub.free).lanes.getLsbD i = true → i < 32 →
        ((s.weft w).lane i).trap = [] → ((s.weft w).lane i).pos ≠ .ending →
        ∃ f, ((t.weft w).lane i).st = .stopped f ∧ f.code = .page)) ∧
  ∀ (s : State) core q (c : CopyCmd) rest, (s.core core).copyQ[q]? = some (c :: rest) → risesFrom 0 s.cores →
    ∃ t, exec (.pagerResolve (.copy core q)) s = .next t ∧ t.mem = s.mem ∧ t.wefts = s.wefts ∧
      (t.core core).copyQ = (s.core core).copyQ.set q ({ c with stall := none } :: rest))

/-! ### Matrix words -/

/-- R326, R329, R330: a matrix word whose checks pass on its agent issues and enters the matrix order of every member of its gang, a
commit point of a REPLAY panel but for `bload`, `bclr` and `align` (R331); its flag then counts one part for each member. The third part
says what a word without a gang leaves in the order. -/
def Obligations.MatrixWords : Prop :=
  (∀ c (f : XF), ∀ q ∈
    [(Instr.bload c f, MKind.bload, true, false), (.bclr c f, .bclr, false, false), (.mmaW c f, .mmaW, true, false),
     (.mmaQ c f, .mmaQ, true, false), (.mmaS c f, .mmaS, true, true), (.align c f, .align, true, false), (.sacc c f, .sacc, false, true),
     (.tld c f, .tld, true, false), (.tst c f, .tst, true, false), (.tzero c f, .tzero, false, false), (.pld c f, .pld, true, false),
     (.pst c f, .pst, true, false), (.pzero c f, .pzero, false, false)],
    let a := fun (x : IC) => if q.2.2.1 then x.addr f.a x.agent else 0
    let b := fun (x : IC) => if q.2.2.2 then x.addr f.b x.agent else 0
    ∀ (a1 : DWord × Option (Desc × Seg × Nat)) (members : List Panel),
      Performs q.1 false
        (fun s x => (∀ n ∈ accNames q.2.1 f, n < x.p.launch.acct) ∧ (∀ n ∈ partNames q.2.1 f, n < x.p.launch.partt) ∧
          (q.2.2.1 = true → x.pz true f.a x.agent = false) ∧ (q.2.2.2 = true → x.pz true f.b x.agent = false) ∧ x.awaits = false ∧
          (gangCores x.w.core f.gm).map (s.partner x.p) = members.map some ∧
          (q.2.1 = .align → s.descWaits x (a x) members = false) ∧
          s.matCheck x q.2.1 f (a x) (b x) members = .ok a1 ∧
          (q.2.1 ∉ [MKind.bload, .bclr, .align] → s.commitWaits x.p.id = false))
        (fun x y => if q.2.1 ∈ [MKind.bload, .bclr, .align] then y.queueMat x q.2.1 f a1 (b x) members
          else y.committed x.p.id (fun z => z.queueMat x q.2.1 f a1 (b x) members))) ∧
  (∀ (s : State) x f a b parts n,
    let r := s.reqOf x.w.id x.agent
    let bits := f.ety.bits
    let kb := shapeK f.ety f.shape / 32
    (s.padCheck r .load a n 64 = .ok () ↔
      (∃ d seg off, s.resolve r (segOf a) (offOf a).toNat = .ok (d, seg, off) ∧ d.kind = kPad) ∧ ∃ q, s.check r .load a 0 n 64 = .ok q) ∧
    ((∃ v, s.matCheck x .bload f a b parts = .ok v) ↔ s.padCheck r .load a (shapeN f.shape * kb * (4 * bits)) 64 = .ok ()) ∧
    ((∃ v, s.matCheck x .mmaW f a b parts = .ok v) ↔ s.padCheck r .load a (shapeM f.shape * kb * (4 * bits)) 64 = .ok ())) ∧
  ∀ (s : State) (x : IC) k (f : XF) a b, f.gm = 0 → risesFrom 0 s.cores → x.p.core < 1024 →
    let t := s.queueMat x k f a b [x.p]
    t.mem = s.mem ∧ t.panels = s.panels ∧ (∀ n, n ≠ x.p.core → t.core n = s.core n) ∧
    ∃ w : MWord, (t.core x.p.core).morder = (s.core x.p.core).morder ++ [w] ∧
      w.kind = k ∧ w.f = f ∧ w.aval = a.1 ∧ w.src = a.2 ∧ w.bval = b ∧ w.ctx = x.p.ctx ∧ w.panel = x.p.id ∧ w.weft = x.w.id ∧ w.track = x.track ∧
      w.pc = x.pc ∧ w.step = 0 ∧ w.started = false ∧ w.ended = false ∧ w.susp = false

/-- R326, R340, R344, R328: the word that no earlier one holds back starts; a word that has started takes its steps one at a time, once every
tile that the step touches is unowned or its context's; a word whose steps have ended leaves the order, and its part of its flag falls.
`bclr`, `tzero` and `bload` are followed through a step. -/
def Obligations.MatrixSteps : Prop :=
  (∀ (s : State) core id (m : MWord), s.mword core id = some m →
    (m.kind ≠ .bload → s.mwReady core m = true →
      exec (.matrixWordStart core id) s = .next (s.mwStart core id) ∧
      (risesFrom 0 s.cores → core < 1024 → ∃ q, (s.mwStart core id).mword core id = some q ∧ q.started = true)) ∧
    (m.kind = .bload → (∀ k ∈ m.members, ∃ q, s.mword k id = some q ∧ s.mwReady k q = true) →
      exec (.matrixWordStart core id) s = .next (m.members.foldl (fun y k => y.mwStart k id) s)) ∧
    (s.mwSteppable core m = true → (∀ t ∈ s.mwTouches core m, (s.tag core t).owner = 0 ∨ (s.tag core t).owner = m.ctx) →
      exec (.treadleStepEnd core id) s = .next ((s.claim core m.ctx (s.mwTouches core m)).mwStep core m)) ∧
    (m.started = true → m.susp = false → m.stall = none → (m.ended = true ∨ s.mwSteps core m ≤ m.step) →
      exec (.matrixWordComplete core id) s = .next (s.mwEnd core m))) ∧
  (∀ (s : State) core (m : MWord), s.mword core m.id = some m → risesFrom 0 s.cores → core < 1024 → s.Inv →
    (m.kind = .bclr → let t := s.mwStep core m
      t.mem = s.mem ∧ (t.core core).beams = (s.core core).beams.set m.f.bs.toNat Macro.reset ∧
      ∃ q, t.mword core m.id = some q ∧ q.step = m.step + 1) ∧
    (m.kind = .bload → m.members = [core] → let t := s.mwStep core m
      t.mem = s.mem ∧ (∃ q, t.mword core m.id = some q ∧ q.step = m.step + 1) ∧
      (∀ i, i ≠ m.f.bs.toNat + m.step → (t.core core).beams[i]? = (s.core core).beams[i]?) ∧
      (m.f.bs.toNat + m.step < (s.core core).beams.length → ∃ mac, (t.core core).beams[m.f.bs.toNat + m.step]? = some mac ∧
        mac.ctx = m.ctx ∧ mac.ety = m.f.ety ∧ mac.shape = m.f.shape ∧ mac.valid = true)) ∧
    (m.kind = .tzero → ∀ tile, (s.panel m.panel).accTile m.f.td.toNat = some tile → tile < 8 →
      ∀ i < 0x8000, ((s.mwStep core m).read (tileLocs core tile i 1)).map (·.1) = [0])) ∧
  (∀ (s : State) core (m : MWord), m.f.gm = 0 → m.kind.queued = false → risesFrom 0 s.cores → core < 1024 →
    let t := s.mwEnd core m
    t.mem = s.mem ∧ (t.core core).morder = (s.core core).morder.filter (fun q => q.id != m.id) ∧
    (t.weft m.weft).flags = ((s.weft m.weft).partDone m.track).flags) ∧
  -- R228: ALIGN's block exponent is the largest element exponent, and each mantissa is the nearest integer, ties to even
  ∀ xs : List Nat, (∀ v ∈ xs, v < 2 ^ 16 ∧ v / 2 ^ 7 % 2 ^ 8 ≠ 255) → xs ≠ [] →
    let ex := fun v : Nat => if v / 2 ^ 7 % 2 ^ 8 = 0 then 1 else v / 2 ^ 7 % 2 ^ 8
    let sig := fun v : Nat => v % 2 ^ 7 + if v / 2 ^ 7 % 2 ^ 8 = 0 then 0 else 128
    let e := (alignBlock xs).1
    (∀ v ∈ xs, ex v ≤ e) ∧ (∃ v ∈ xs, ex v = e) ∧ (alignBlock xs).2.length = xs.length ∧
    ∀ j (h : j < xs.length), ∃ mag : Nat,
      (alignBlock xs).2[j]? = some (if xs[j] < 2 ^ 15 then (mag : Int) else -mag) ∧
      let d := 2 ^ (e - ex xs[j])
      let want := sig xs[j] * 128
      2 * (mag * d) ≤ 2 * want + d ∧ 2 * want ≤ 2 * (mag * d) + d ∧ ((2 * (mag * d) = 2 * want + d ∨ 2 * want = 2 * (mag * d) + d) → mag % 2 = 0)

/-! ### Engines, futures and barriers -/

/-- R349 to R354, R143, R356: each lane of a `copy` takes its place in the store queue with its command, under one new future, and waits
for its acceptance; `qfence` enters a fence that names the earlier commands of the masked queues. `ftest`, `hget` and `hget.ref` write
what their handle names; `fwait` passes when the future is complete; `hput` names the future of a reference of its own context;
`fcancel` cancels, its flag falling when the future is complete. R79, R80, R123, R129, R353, R143: one sector of the command at the head of a copy queue lands, up to the next 32-byte boundary of its
destination, at most what is left, the landings before it performed throughout the package; with its last byte the command retires. A
cancelled command ends where it stands; a queue fence leaves when the commands that it names have retired. A command takes the descriptors
that its acceptance found, or, after a stall, checks the rest of its ranges again (R28, R33). -/
def Obligations.EnginesAndFutures : Prop :=
  (∀ c (f : EF),
    let h := f.h.toNat
    let hnd := fun (x : IC) => x.w.handle x.sys x.agent h
    Performs (.copy c f) false
      (fun s x => (f.bar = true → x.p.isMember f.scope f.tag.toNat = true) ∧ x.awaits = false ∧ s.futureHeld x h .copy = false ∧
        ∀ k ∈ x.lanes, x.pz true f.d k = false ∧ x.pz true f.a k = false ∧ x.pz false f.b k = false)
      (fun x y =>
        let m := y.makeFuture x h .copy x.lanes.length
        x.each (fun k z =>
          let cmd : CopyCmd := ⟨z.nextId, x.p.id, x.w.id, k, x.sys, x.addr f.d k, x.addr f.a k, x.nat32 f.b k, 0, f.swz.toNat, f.ds,
            if f.bar then some (f.scope, f.tag.toNat) else none, m.2, none, none, false, none, none⟩
          (((z.addParts x.w.id x.track 1).enqueue x.w.id k x.track x.sys x.pc x.hdr (.copy f.q.toNat cmd)).modWeft x.w.id
            (fun w => w.park [k] (.step x.track)))) m.1) ∧
    Performs (.qfence c f) false (fun _ _ => True)
      (fun x y =>
        let ids := ((y.copyIds x.w.core).filter (fun q => q.1 != f.q.toNat && f.h.getLsbD q.1)).map (·.2)
        if f.h = 0 then y
        else (y.addParts x.w.id x.track 1).enqueue x.w.id x.agent x.track x.sys x.pc x.hdr (.copy f.q.toNat
          ⟨y.nextId, x.p.id, x.w.id, x.agent, x.sys, 0, 0, f.h.toNat, 0, 0, false, none, none, some ids, none, false, none, none⟩)) ∧
    (∀ s sw x, Due s sw x (Instr.ftest c f).view false → ∃ t v, exec (.ftest c f) s = .next t ∧
      Wrote (s.ready sw) t x { c with flag := 0 } noMore (wordWrites false f.d x.lanes (fun _ => v)) [] ∧
      (s.pending (hnd x) = true → v = 0) ∧ (s.pending (hnd x) = false → v = 1)) ∧
    (∀ s sw x, Due s sw x (Instr.fwait c f).view false → s.pending (hnd x) = false →
      ∃ t, exec (.fwait c f) s = .next t ∧ Wrote (s.ready sw) t x c noMore [] []) ∧
    (∀ s sw x, Due s sw x (Instr.fwait c f).view false → s.pending (hnd x) = true →
      exec (.fwait c f) s = .next ((s.ready sw).modWeft x.w.id (fun w => w.park x.lanes .held))) ∧
    (∀ s sw x, Due s sw x (Instr.hget c f).view false → s.pending (hnd x) = false → ∃ t v, exec (.hget c f) s = .next t ∧
      Wrote (s.ready sw) t x { c with flag := 0 } noMore (wordWrites true f.d x.lanes (fun _ => v)) [] ∧
      ((hnd x).bind s.futOf = none → v = 0xFF) ∧ ∀ u w, (hnd x).bind s.futOf = some u → u.value = some w → v = w) ∧
    (∀ s sw x, Due s sw x (Instr.hgetRef c f).view false → ∃ t, exec (.hgetRef c f) s = .next t ∧
      Wrote (s.ready sw) t x { c with flag := 0 } noMore (wordWrites true f.d x.lanes (fun _ => match hnd x with
        | some r => BitVec.ofNat 64 (r.ctx.toNat * 2 ^ 48 + r.die * 2 ^ 46 + r.index * 2 ^ 32 + r.gen)
        | none => 0)) []) ∧
    Performs (.hput c f) false (fun s x => s.pending (hnd x) = false ∧ x.pz true f.a x.agent = false)
      (fun x y =>
        let a := x.rd true f.a x.agent
        let r : FutRef := ⟨a.extractLsb' 48 16, (a.extractLsb' 46 2).toNat, (a.extractLsb' 32 14).toNat, (a.extractLsb' 0 32).toNat⟩
        y.setHandle x.w.id x.sys x.agent h (if r.ctx = x.p.ctx ∧ (y.futOf r).isSome then some r else none)) ∧
    -- the cancel of a pending UNBIND changes its entry, and so is a commit point (R50)
    let unbinds := fun (s : State) (x : IC) => ∃ u e, (hnd x).bind s.futOf = some u ∧ u.value = none ∧ u.kind = .unbind e
    let cancels := fun (x : IC) (y : State) => match hnd x with
      | none => y
      | some r =>
        let z := y.cancelFut r
        if z.pending (some r) then (z.addParts x.w.id x.track 1).modFut r (fun u => { u with waiters := u.waiters ++ [(x.w.id, x.track)] })
        else z
    Performs (.fcancel c f) false (fun s x => ¬ unbinds s x) cancels ∧
    Performs (.fcancel c f) false (fun s x => unbinds s x ∧ s.commitWaits x.p.id = false) (fun x y => y.committed x.p.id (cancels x))) ∧
  ((∀ (s : State) core q (c : CopyCmd) rest, (s.core core).copyQ.getD q [] = c :: rest →
    (∀ k ∈ c :: rest, k.cancel = false) →
    (∀ ids, c.fence = some ids → exec (.copySectorLand core q) s =
      .next (if s.fenceOpen core ids then s else s.retireCopy core q c 0 false)) ∧
    ∀ e ls ld, c.fence = none → c.stall = none → (s.panel c.panel).life ≠ .halting →
      let r := s.copyReq core c
      let n := min (32 - ((offOf c.dst).toNat + c.prog) % 32) (c.len - c.prog)
      let src := ls.map (Loc.swz c.swz)
      let dst := ld.map (Loc.swz c.swz)
      s.cmdEnds r c = .ok e →
      s.endLocs r .load (e.sd, e.sseg, e.soff) c.prog n = .ok ls → s.endLocs r .store (e.dd, e.dseg, e.doff) c.prog n = .ok ld →
      (∀ l ∈ src ++ dst, s.tileBusy s.mwWrites l = false) → s.padsOf c.panel dst = [] →
      let y := ((s.touch core r.ctx (src ++ dst)).allocAll src).spreadCmd c.id
      ∃ t, exec (.copySectorLand core q) s = .next t ∧
        t.mem = (y.writeBy noCore ((dst.zip (src.map (s.coreByte core c.panel))).map (fun z => ⟨z.1, z.2.1, z.2.2⟩)) c.id).mem ∧
        (risesFrom 0 s.cores → core < 1024 →
          (c.prog + n ≠ c.len → ∀ k ∈ (t.core core).copyQ.getD q [], k.id = c.id → k.prog = c.prog + n) ∧
          (c.prog + n = c.len → (∀ k ∈ (t.core core).copyQ.getD q [], k.id ≠ c.id) ∧ ∀ b ∈ (t.core core).board, b.cmd ≠ c.id))) ∧
  (∀ (s : State) core q (c : CopyCmd), ((s.core core).copyQ.getD q []).find? (fun k => k.cancel && k.fence.isNone) = some c →
    exec (.copySectorLand core q) s = .next (s.retireCopy core q c 0 true)) ∧
  (∀ (s : State) r (c : CopyCmd),
    (∀ e, c.ends = some e → s.cmdEnds r c = .ok e) ∧
    ∀ a b, c.ends = none → s.endOf r .load c.src c.prog c.len = .ok a → s.endOf r .store c.dst c.prog c.len = .ok b →
      s.cmdEnds r c = .ok ⟨a.1, a.2.1, a.2.2, b.1, b.2.1, b.2.2⟩) ∧
  -- R351: what a part that ends does to its future, and the value of the last one
  ∀ (s : State) (r : FutRef) (u : Fut) bytes fault cancelled, s.futOf r = some u → u.value = none → risesFrom 0 s.futs →
    (1 < u.left → (s.endPart r bytes fault cancelled).futOf r =
      some { u with left := u.left - 1, bytes := u.bytes + bytes, fault := if u.fault = 0 then fault else u.fault }) ∧
    (u.left ≤ 1 → s.named r = true → ∃ v, (s.endPart r bytes fault cancelled).futOf r = some v ∧
      let first := if u.fault = 0 then fault else u.fault
      let status := if cancelled then 3 else if first ≠ 0 then 4 else 0
      v.value = some (BitVec.ofNat 64 (status + first * 2 ^ 8 + (u.bytes + bytes) % 2 ^ 40 * 2 ^ 24))))

/-- R358, R161, R163: each lane arrives at most once in a phase; `arrive` goes on, `bsync` waits for the phase, its flag counting a part
for each lane; `bwait` passes once the phase at which its lanes arrived has ended. A word of a panel that is no member takes MEMBER. A
phase's completion is decided once every lane of every member that has not exited has arrived and no counted byte or word is outstanding
(R359): what is counted from then on counts in the next phase. At the completion each member goes to its next phase, what any member saw is
performed throughout the barrier's node, and the lanes that wait for the old phase go on. -/
def Obligations.Barriers : Prop :=
  (∀ c (f : EF),
    let idx := if f.scope = .core then 0 else 1 + f.tag.toNat
    let member := fun (x : IC) => x.p.isMember f.scope f.tag.toNat
    let fresh := fun (x : IC) => ∀ k ∈ x.lanes, (x.w.lane k).arrived.getD idx none ≠ some (x.p.phase idx)
    let held := fun (s : State) (x : IC) => (∃ l ∈ x.w.loads, l.wait ≠ .ready ∧ l.lane ∈ x.lanes) ∨ x.w.sq ≠ [] ∨
      (∃ m ∈ (s.core x.w.core).morder, m.weft = x.w.id ∧ m.lane ∈ x.lanes) ∨
      (Scope.core.rank < f.scope.rank ∧ (s.storesOut x.w.core = true ∨ s.commitWaits x.p.id = true))
    let commits := fun (x : IC) (go : State → State) (y : State) => if Scope.core.rank < f.scope.rank then y.committed x.p.id go else go y
    let arrived := fun (x : IC) (w : Weft) =>
      x.lanes.foldl (fun z k => z.modLane k (fun l => { l with arrived := l.arrived.set idx (some (x.p.phase idx)) })) w
    Performs (.arrive c f) false (fun s x => member x = true ∧ fresh x ∧ ¬ held s x)
      (fun x => commits x (fun z => (z.spread x.w.core f.scope).modWeft x.w.id (arrived x))) ∧
    Performs (.bsync c f) false (fun s x => member x = true ∧ fresh x ∧ ¬ held s x)
      (fun x => commits x (fun z => (((z.spread x.w.core f.scope).modWeft x.w.id (arrived x)).addParts x.w.id x.track
        x.lanes.length).modWeft x.w.id (fun w => w.park x.lanes (.barrier idx (x.p.phase idx) x.track)))) ∧
    (∀ s sw x, Due s sw x (Instr.bwait c f).view false → member x = true → fresh x →
      Completes (.bwait c f) s sw x noMore [] []) ∧
    ∀ i ∈ [Instr.arrive c f, .bsync c f, .bwait c f], ∀ s sw x, Due s sw x i.view false → member x = false →
      exec i s = .next ((s.ready sw).faultLanes x.w.id x.pc x.hdr .load (x.lanes.map (fun k => (k, ⟨.member, 0, 0, 0, 0⟩))))) ∧
  (∀ (s : State) (b : BarrierName),
    let marks := (s.barMembers b).filter (fun q => (q.1.bars.getD (recIdx b) BarRec.nil).decided)
    (marks = [] → exec (.barrierComplete b) s = .next (s.decideBar b) ∧ (s.phaseDone b = false → s.decideBar b = s) ∧
      (s.phaseDone b = true → (∀ p ∈ s.panels, p.id ∈ (s.barMembers b).map (fun q => q.1.id) → recIdx b < p.bars.length →
          ∃ q ∈ (s.decideBar b).panels, q.id = p.id ∧ q = { p with bars := p.bars.modify (recIdx b) (fun r => { r with decided := true }) } ∧
            (q.bars.getD (recIdx b) BarRec.nil).decided = true) ∧
        (s.decideBar b).mem = s.mem ∧ (s.decideBar b).wefts = s.wefts ∧ (s.decideBar b).cores = s.cores)) ∧
    (marks ≠ [] → (∀ q ∈ marks, q.1.launch.replay = false) →
      exec (.barrierComplete b) s = .next (marks.foldl (fun y q => y.nextPhase (recIdx b) q)
        (marks.foldl (fun y q => y.spread q.1.core (barScope b)) s)))) ∧
  ∀ (s : State) idx (q : Panel × List Weft),
    let n := q.1.phase idx
    let t := s.nextPhase idx q
    t.mem = s.mem ∧ t.cores = s.cores ∧
    (∀ p ∈ s.panels, p.id = q.1.id → (s.panel p.id).bars.length > idx → (t.panel p.id).phase idx = n + 1) ∧
    (∀ w, s.hasWeft w = true → (∀ v ∈ q.2, v.id ≠ w) → (t.weft w).lanes = (s.weft w).lanes) ∧
    ∀ v ∈ q.2, s.hasWeft v.id = true → ∀ i, (t.weft v.id).lane i =
      ((s.weft v.id).lane i).unpark (fun p => match p with
        | .barrier j m _ => j == idx && m == n
        | _ => false)

/-! ### Tasks and network -/

/-- R363, R365, R362, R366: each lane of `enq`, `dcinit`, `dcadd` takes its step at the home from the store queue and waits for it; `dcadd`
makes its destination pending. Each lane of a `deq` becomes a requester under one new future, and its queue then serves. Each lane of an
`npost` takes its place in the store queue with its post and waits for the acceptance; `nwait` passes when the word that its agent reads is
at least its operand, unsigned, and otherwise its lanes wait at it. -/
def Obligations.TaskAndPostWords : Prop :=
  ∀ c (f : EF),
    let h := f.h.toNat
    let park := fun (x : IC) (k : Nat) (z : State) => z.modWeft x.w.id (fun w => w.park [k] (.step x.track))
    let step := fun (x : IC) (k : Nat) (op : SqOp) (ks : List Nat) (z : State) =>
      let z1 := (z.addParts x.w.id x.track 1).modWeft x.w.id (fun w => (w.addUnknown z.nextId ks).park [k] (.step x.track))
      ({ z1 with nextId := z.nextId + 1 } : State).enqueue x.w.id k x.track x.sys x.pc x.hdr op
    Performs (.enq c f) false
      (fun _ x => ∀ k ∈ x.lanes, x.pz true f.a k = false ∧ ∀ b ∈ x.group f.b k, b.2 = false)
      (fun x => x.each (fun k => step x k (.enq (x.addr f.a k) ((x.group f.b k).map (·.1))) [])) ∧
    Performs (.dcinit c f) false
      (fun _ x => ∀ k ∈ x.lanes, x.pz true f.a k = false ∧ x.pz true f.b k = false)
      (fun x => x.each (fun k => step x k (.dcinit (x.addr f.a k) (x.rd true f.b k)) [])) ∧
    Performs (.dcadd c f) false
      (fun _ x => ∀ k ∈ x.lanes, x.pz true f.a k = false ∧ x.pz false f.b k = false)
      (fun x => x.each (fun k z => step x k (.dcadd (x.addr f.a k) ((x.rd false f.b k).setWidth 32) z.nextId) (destKeys false f.d k) z)) ∧
    (∀ q : Nat → Desc × Seg × Nat × List Loc,
      Performs (.deq c f) false
        (fun s x => s.futureHeld x h .deq = false ∧ x.awaits = false ∧ s.commitWaits x.p.id = false ∧
          ∀ k ∈ x.lanes, x.pz true f.a k = false ∧
            s.check (s.reqOf x.w.id k) .dequeue (x.addr f.a k) 0 64 64 = .ok (q k))
        (fun x y => y.committed x.p.id (fun z =>
          let m := z.makeFuture x h .deq x.lanes.length
          match m.2 with
          | none => m.1
          | some r =>
            let d := match f.d with
              | .v n => n.toNat
              | _ => 0
            let z1 : State := { m.1 with deqs := m.1.deqs ++ x.lanes.map (fun k => ⟨x.track, x.w.id, x.p.id, k, (q k).2.1, x.p.ctx, r, d⟩) }
            ((x.lanes.map (fun k => (q k).2.1)).eraseDups).foldl (fun u seg => u.queueStep x.p.ctx seg stepFuel) z1))) ∧
    Performs (.npost c f) false
      (fun s x => (f.bar = true → x.p.isMember f.scope f.tag.toNat = true) ∧ x.awaits = false ∧ s.futureHeld x h .post = false ∧
        ∀ k ∈ x.lanes, x.pz true f.a k = false)
      (fun x y =>
        let m := y.makeFuture x h .post x.lanes.length
        x.each (fun k z =>
          let post : NetPost := ⟨z.nextId, x.p.id, x.w.id, k, x.sys, x.p.ctx, [], x.addr f.a k, f.swz.toNat, f.ds,
            if f.bar then some (f.scope, f.tag.toNat) else none, m.2, 0, 0, none, false, false, none⟩
          park x k ((z.addParts x.w.id x.track 1).enqueue x.w.id k x.track x.sys x.pc x.hdr (.post f.q.toNat post))) m.1) ∧
    ∀ s sw x (q : Desc × Seg × Nat × List Loc), Due s sw x (Instr.nwait c f).view false →
      let r := s.ready sw
      let i := x.agent
      let bs := q.2.2.2.map (fun l => r.laneByte x.w.id l)
      x.pz true f.a i = false → x.pz true f.b i = false → x.awaits = false →
      r.check (r.reqOf x.w.id i) .load (x.addr f.a i) 0 8 8 = .ok q → (∀ b ∈ bs, b.2 = false) →
      ((x.rd true f.b i).toNat ≤ leNat (bs.map (·.1)) → ∃ t, exec (.nwait c f) s = .next t ∧ Wrote r t x c noMore [] []) ∧
      (leNat (bs.map (·.1)) < (x.rd true f.b i).toNat →
        exec (.nwait c f) s = .next ((r.atWord x).modWeft x.w.id (fun w => w.park x.lanes .nwait)))

/-- R362 to R365, R382: the steps at a counter and a queue. `dcinit` sets COUNT, and QSEG when LIST is empty; `dcadd` adds modulo 2^24 and
answers the old COUNT; a COUNT that becomes 0 releases the list. A record enters the ring at TAIL, or QFULL says that the ring is full
or the header malformed, as one with a set bit in its reserved bytes is (R360). The record at HEAD goes to the oldest requester. A die
scheduler steals from its fullest saturated queue, each record in a step of the queue's order. -/
def Obligations.QueueAndCounterSteps : Prop :=
  (∀ (s : State) (r : Req) a (seg : Seg) off (k : Counter),
    let put := fun (n : Counter) => s.deviceWrite r.ctx seg off 8 (n.qseg * 2 ^ 40 + n.list * 2 ^ 24 + n.count)
    (∀ b : Word, s.counterAt r .counterAdd a = .ok (seg, off, k) →
      let n : Counter := { k with count := (k.count + b.toNat) % 2 ^ 24 }
      s.dcaddStep r a b = .ok (k.count, if n.count = 0 ∧ k.count ≠ 0 then (put n).release r a seg off n else put n)) ∧
    (∀ b : DWord, s.counterAt r .counterSet a = .ok (seg, off, k) →
      let n : Counter := ⟨if k.list = 0xFFFF then (b.extractLsb' 40 24).toNat else k.qseg, k.list, (b.extractLsb' 0 24).toNat⟩
      s.dcinitStep r a b = .ok (if n.count = 0 then (put n).release r a seg off n else put n)) ∧
    ∀ n : Counter, n.list = 0xFFFF → s.release r a seg off n = s) ∧
  (∀ (s : State) c seg d (ls : List Loc), s.deviceLocs c .dequeue seg 0 64 = .ok (d, ls) → s.leAt (ls.drop 16) ≠ 0 → s.tq c seg = .ok none) ∧
  (∀ (s : State) (r : Req) a seg (bs : List Byte),
    (s.tq r.ctx seg = .ok none → s.ringPut r a seg bs = .error ⟨.qfull, 2, a, 0, 0⟩) ∧
    ∀ q, s.tq r.ctx seg = .ok (some q) →
      let n := 2 ^ q.log2n
      let slot := 0x40 + 64 * (q.tail % n)
      ((q.tail + 65536 - q.head) % 65536 = n → s.ringPut r a seg bs = .error ⟨.qfull, 1, a, 0, 0⟩) ∧
      ((q.tail + 65536 - q.head) % 65536 ≠ n → ∀ old, s.recAt r.ctx seg slot = .ok old →
        s.ringPut r a seg bs = .ok (((s.putRec r.ctx seg slot (bs.map (fun b => (b, false)))).putTq r.ctx seg
          { q with tail := (q.tail + 1) % 65536 }).queueStep r.ctx seg stepFuel))) ∧
  (∀ (s : State) c seg q d bs, s.tq? c seg = some q → s.deqs.find? (fun e => e.ctx == c && e.seg == seg) = some d →
    (q.tail + 65536 - q.head) % 65536 ≠ 0 → s.recAt c seg (0x40 + 64 * (q.head % 2 ^ q.log2n)) = .ok bs →
    s.serveOne c seg = some ((s.putTq c seg { q with head := (q.head + 1) % 65536 }).giveRec d bs)) ∧
  ∀ (s : State) die c seg (q : TaskQ) (d : Desc), s.schedules die = true → s.saturated die = some (c, seg, q) → s.readDesc c seg = .ok d →
    exec (.stealStep die) s =
      .next (((s.thieves die c d).take (q.occ / 2)).foldl (fun y t => (y.stealOne c seg t).queueStep c seg stepFuel) s)

/-- R425, R431: the oldest post of a queue sends its next packet, its bytes, its offset and its PSN in it; under DS the bytes travel in the
delta stream form (R230, R355). R433 to R435: an
acknowledgement takes the packets that it shows off the PDC and sends others again; a negative one ends the post of its packet; an
expired packet is sent again, or given up after the second time when its post was cancelled; an idle PDC closes (R426). R432, R437: a
packet received twice is only acknowledged; of an unknown process it is refused; else its bytes are written and its PSN recorded. -/
def Obligations.NetworkEvents : Prop :=
  (∀ (s : State) core q (p : NetPost) rest s0 (pdc : Pdc) end_ ls,
    let w := p.req
    let src := ls.map (Loc.swz p.swz)
    let bytes := src.map (fun l => (s0.coreByte (s0.postReq core p).core p.panel l).1)
    let n := min (w.packet p.ds) (w.len - p.sent)
    (s.core core).netQ.getD q [] = p :: rest → (∀ z ∈ p :: rest, z.done = false ∧ z.cancel = false) → p.stall = none →
    (∃ pn ∈ s.panels, pn.id = p.panel ∧ pn.life ≠ .halting) → w.mode ≠ 3 → p.acked ≠ w.len →
    s.openPdc (coreDie core) p.ctx w.epi = some (s0, pdc) → pdc.unacked.length < 512 →
    s0.postEnd (s0.postReq core p) p = .ok end_ → s0.endLocs (s0.postReq core p) .load end_ p.sent n = .ok ls →
    (∀ l ∈ src, s0.tileBusy s0.mwWrites l = false) →
    risesFrom 0 s.cores → core < 1024 →
    ∃ t pk, exec (.netPacketSend core q) s = .next t ∧ t.mem = (s0.allocAll src).mem ∧ t.wire = s.wire ++ [.packet (coreDie core) pk] ∧
      pk.psn = pdc.psn ∧ pk.dst = w.dst ∧ pk.off = p.sent ∧ pk.peer = pdc.id ∧ pk.rctr = w.rctr ∧
      pk.bytes = (if p.ds then deltaEncode bytes else bytes) ∧
      (∀ z ∈ (t.core core).netQ.getD q [], z.id = p.id → z.sent = p.sent + n ∧ z.done = decide (p.sent + n = w.len)) ∧
      ∃ d ∈ t.pdcs, d.id = pdc.id ∧ d.psn = pdc.psn + 1 ∧ ∃ u ∈ d.unacked, u.psn = pdc.psn ∧ u.pkt = pk ∧ u.post = p.id) ∧
  -- R230: a stream decodes to the codes that it encodes; the codes 0x78, 0x79, 0x76, 0x60, 0x60 give the spec's five bytes
  (∀ cs : List Byte, deltaDecode cs.length (deltaEncode cs) = cs) ∧
  (∀ (a b : Byte) cs, let d : Int := b.toNat - a.toNat
    deltaItems (some a.toNat) ((b :: cs).map BitVec.toNat) = (if -7 ≤ d ∧ d ≤ 7 then [(BitVec.ofInt 4 d).toNat]
      else [8, (b.extractLsb' 0 4).toNat, (b.extractLsb' 4 4).toNat]) ++ deltaItems (some b.toNat) (cs.map BitVec.toNat)) ∧
  deltaEncode [0x78#8, 0x79#8, 0x76#8, 0x60#8, 0x60#8] = [0x88#8, 0x17#8, 0x8D#8, 0x60#8, 0x00#8] ∧
  (∀ p : Packet, packetPayload p = if p.ds then deltaDecode (packetSpan p) p.bytes else p.bytes) ∧
  (∀ (s : State) die (a : NetAck) (d : Pdc), s.pdcs.find? (fun d => d.id == a.pdc && d.die == die) = some d →
    let reord := bitsOf (s.endpoint d.ctx d.epi) 319 316
    let left := d.unacked.filter (fun u => !ackShows a u.psn)
    -- the packets of the posts that end with it are not kept (R93)
    let kept := fun (keep : Pdc → List InFlight) (ended : List Nat) => s.pdcs.map (fun z =>
      { z with unacked := (if z.id = d.id then keep z else z.unacked).filter (fun u => !ended.contains u.post) })
    (a.nack = none → ∃ t ended, exec (.netAckReceive die a) s = .next t ∧ t.pdcs = kept (fun _ => left) ended ∧
      (∀ i ∈ ended, ∃ c ∈ s.cores, ∃ q ∈ c.2.netQ, ∃ p ∈ q, p.id = i ∧ (p.done = true ∨ p.cancel = true)) ∧
      t.wire = s.wire ++ (left.filter (fun u => resend a reord (d.psn - 1) u.psn)).map (fun u => .packet die u.pkt)) ∧
    ∀ psn code, a.nack = some (psn, code) → ∃ t ended, exec (.netAckReceive die a) s = .next t ∧ t.wire = s.wire ∧ t.mem = s.mem ∧
      t.pdcs = kept (fun z => z.unacked.filter (fun u => u.psn != psn)) ended ∧
      ∀ i, i ∈ ended ↔ (s.postAt i).isSome = true ∧ ∃ u ∈ d.unacked, u.psn = psn ∧ u.post = i) ∧
  (∀ (a : NetAck) (v : Word), ackShows a v = true ↔ (v - a.cack = 0 ∨ 2 ^ 31 ≤ (v - a.cack).toNat ∨
    ∃ k, k < 64 ∧ v = a.cack + 1 + BitVec.ofNat 32 k ∧ a.sack.getLsbD k = true)) ∧
  (∀ (s : State) die pdc psn (d : Pdc) (u : InFlight), s.pdcs.find? (fun d => d.id == pdc && d.die == die) = some d →
    d.unacked.find? (fun u => u.psn == psn) = some u →
    let gone := (u.tries ≠ 0 ∧ ∀ at_, s.postAt u.post = some at_ → at_.2.2.cancel = true)
    (¬ gone → exec (.netRtoExpiry die pdc psn) s = .next { s with
      pdcs := s.pdcs.map (fun z => if z.id = pdc then
        { z with unacked := z.unacked.map (fun y => if y.psn = psn then { y with tries := y.tries + 1 } else y) } else z),
      wire := s.wire ++ [.packet die u.pkt] }) ∧
    (gone → s.postAt u.post = none → exec (.netRtoExpiry die pdc psn) s = .next { s with
      pdcs := s.pdcs.map (fun z => if z.id = pdc then { z with unacked := z.unacked.filter (fun y => y.psn != psn) } else z) })) ∧
  (∀ (s : State) die pdc (d : Pdc), s.pdcs.find? (fun d => d.id == pdc && d.die == die) = some d →
    exec (.pdcIdleTimeout die pdc) s = .next (if s.pdcIdle d then { s with pdcs := s.pdcs.filter (fun z => z.id != pdc) } else s)) ∧
  (∀ (s : State) die (p : Packet),
    let d := s.rxPdc die p.peer
    let ack := fun (z : RxPdc) (k : Option (Word × Nat)) => s.wire ++ [.ack z.die ⟨z.peer, rxCack z, rxSack z, k⟩]
    (p.mode.toNat < 2 → d.seen.contains p.psn = true → exec (.netPacketReceive die p) s = .next { s with wire := ack d none }) ∧
    ((p.mode.toNat < 2 → d.seen.contains p.psn = false) → Config.pidContext p.jobid p.pid = none →
      exec (.netPacketReceive die p) s = .next { s with wire := ack d (some (p.psn, FaultCode.rights.code)) }) ∧
    ∀ c ls, (p.mode.toNat < 2 → d.seen.contains p.psn = false) → Config.pidContext p.jobid p.pid = some c →
      (∃ x ∈ s.ctxs, x.id = c) → (p.mode = 1 → p.psn = rxCack d + 1) → p.rctr = 0 →
      let bytes := packetPayload p
      s.rxCheck (rxReq die c) .store p.dst p.off bytes.length 1 = .ok ls → s.padsOf 0 ls = [] →
      ∃ t, exec (.netPacketReceive die p) s = .next t ∧ t.mem = (s.write (wrs ls bytes p.poison)).mem ∧
        t.wefts = (s.write (wrs ls bytes p.poison)).wefts ∧
        (p.mode.toNat < 2 → (t.rxPdc die p.peer).seen = d.seen ++ [p.psn]) ∧ (p.mode ≠ 3 → ∃ k, t.wire = s.wire ++ [.ack d.die k])) ∧
  ∀ (s : State) w, s.hasWeft w = true → ∃ t, exec (.nwaitRecheck w) s = .next t ∧ t.mem = s.mem ∧ (∀ v, v ≠ w → t.weft v = s.weft v) ∧
    ∀ i, (t.weft w).lane i = ((s.weft w).lane i).unpark (fun p => p == .nwait)

/-! ### System words and traps -/

/-- R367, R70, R368, R369, R370, R371: `sysr` writes the register's value in each lane; `sysw` gives it the agent's value, and a value with a
reserved bit set raises ILLEGAL, FIELD; a write of XINV starts a shootdown, which completes once every earlier access has performed; `trace`
and `brk` emit their records; `chkerr` reads CIR and clears bits 18:0; `publish` makes its future and hands the staging address over. -/
def Obligations.SystemWords : Prop :=
  (∀ c (f : SF),
    let val := fun (s : State) (x : IC) (lane : Nat) =>
      let k := s.core x.w.core
      let q := s.ctx x.p.ctx
      match f.sreg with
      | .hmap => k.good.toNat + k.gcnt * 2 ^ 16
      | .picks => k.picks
      | .laneid => lane
      | .weftid => x.p.index * 2 ^ 32 + x.w.pweft * 2 ^ 4 + x.w.slotNo
      | .core => s.pnode.toNat * 2 ^ 40 + x.w.core
      | .ctxid => x.p.ctx.toNat
      | .owner => q.func * 2 ^ 16 + q.tag.toNat
      | .cir => q.cir.toNat
      | .time => s.time
      | .feat => x.w.core * 2 ^ 48 + Config.hbmUnits * 2 ^ 40 + (s.die (coreDie x.w.core)).quads * 2 ^ 32 + k.picks * 2 ^ 24 + Config.isaLevel
      | .trapv => q.trapv.toNat * 2 ^ 40
      | .prio => q.prio
      | .xinva => k.xinva.toNat
      | .xinv => 0
      | .mqs n => (k.mqs.getD n.toNat 0).toNat
    let a := fun (x : IC) => x.rd true f.a x.agent
    (∀ s sw x, Due s sw x (Instr.sysr c f).view (!f.sreg.readable) → ∃ t, exec (.sysr c f) s = .next t ∧
      Wrote (s.ready sw) t x c noMore (wordWrites true f.d x.lanes (fun k => BitVec.ofNat 64 (val s x k))) []) ∧
    (∀ i ∈ [Instr.sysw c f, .xinvSeg c f, .xinvPages c f, .xinvCtx c f],
      Performs i true (fun _ x => x.pz true f.a x.agent = false ∧ sysBad f.sreg (a x).toNat = false)
        (fun x y => match f.sreg with
          | .ctxid => y.renameCtx x.p.ctx ((a x).setWidth 16)
          | .owner => y.modCtx x.p.ctx (fun q => { q with func := ((a x).extractLsb' 16 4).toNat, tag := (a x).extractLsb' 0 12 })
          | .cir => y.modCtx x.p.ctx (fun q => { q with cir := a x })
          | .trapv => y.modCtx x.p.ctx (fun q => { q with trapv := (a x).extractLsb' 40 24 })
          | .prio => y.modCtx x.p.ctx (fun q => { q with prio := (a x).toNat })
          | .xinva => y.modCore x.w.core (fun k => { k with xinva := a x })
          | .mqs n => (y.modCore x.w.core (fun k => { k with mqs := k.mqs.set n.toNat (a x) })).slotWritten x.w.core n.toNat
          | .xinv =>
            let at_ := (y.core x.w.core).xinva
            let k : Shoot := ⟨y.nextId, ((a x).extractLsb' 60 4).toNat, (a x).extractLsb' 32 16, segOf at_, (offOf at_).toNat,
              ((a x).extractLsb' 0 20).toNat, x.w.id, x.track⟩
            (({ y with shoots := y.shoots ++ [k], nextId := y.nextId + 1 } : State).shoot k).addParts x.w.id x.track 1
          | _ => y) ∧
      ∀ s sw x, Due s sw x i.view true → x.pz true f.a x.agent = false → sysBad f.sreg (a x).toNat = true →
        exec i s = .next ((s.ready sw).faultLanes x.w.id x.pc x.hdr .load (x.lanes.map (fun k => (k, illFault .field x.pc))))) ∧
    Performs (.trace c f) false (fun _ x => x.pz true f.a x.agent = false)
      (fun x y => y.emit x.w.id 1 f.imm.toNat (maskOf x.lanes) x.pc x.lanes2 x.pc2 (a x)) ∧
    (∀ s sw x, Due s sw x (Instr.brk c f).view false → (s.ctx x.p.ctx).debug = false →
      ∃ t, exec (.brk c f) s = .next t ∧ Wrote (s.ready sw) t x c noMore [] []) ∧
    Performs (.brk c f) false (fun s x => (s.ctx x.p.ctx).debug = true ∧ (s.core x.w.core).trace.length < 64)
      (fun x y => (y.emit x.w.id 2 f.imm.toNat (maskOf x.lanes) x.pc x.lanes2 x.pc2 0).modWeft x.w.id (fun w => { w with halted := true })) ∧
    (∀ s sw x, Due s sw x (Instr.chkerr c f).view false → x.w.loads = [] → (∀ k ∈ s.cores, ∀ m ∈ k.2.morder, m.weft ≠ x.w.id) →
      (∃ q ∈ s.ctxs, q.id = x.p.ctx) →
      let v := (s.ctx x.p.ctx).cir
      ∃ t, exec (.chkerr c f) s = .next t ∧ Wrote (s.ready sw) t x c noMore (wordWrites true f.d x.lanes (fun _ => v)) [] ∧
        (t.ctx x.p.ctx).cir = v >>> 19 <<< 19) ∧
    ∀ q : Desc × Seg × Nat × List Loc,
      Performs (.publish c f) false
        (fun s x => x.pz true f.a x.agent = false ∧ x.awaits = false ∧ s.futureHeld x (f.imm.toNat % 16) .publish = false ∧ x.w.sq = [] ∧
          s.storesOut x.w.core = false ∧ s.check (s.reqOf x.w.id x.agent) .load (x.addr f.a x.agent) 0 64 8 = .ok q)
        (fun x y =>
          let m := (y.takeWalks (whoFor x.w.core x.w.id)).makeFuture x (f.imm.toNat % 16) .publish 0
          match m.2 with
          | none => m.1
          | some r => { m.1 with
              pubs := m.1.pubs ++ [⟨m.1.nextId, x.p.ctx, r, absEnd (x.addr f.a x.agent) q.2.1 q.2.2.1, x.sys, x.p.id⟩]
              nextId := m.1.nextId + 1 })) ∧
  (∀ (s : State) id (k : Shoot), s.shoots.find? (fun k => k.id == id) = some k → s.shootWaits k = false →
    exec (.shootdownComplete id) s = .next (((({ s with shoots := s.shoots.filter (fun q => q.id != id) } : State).shoot k).recheck
      k).partDone k.weft k.track)) ∧
  (∀ (s : State) (k : Shoot) core, (s.shoot k).mem = s.mem ∧ (s.shoot k).wefts = s.wefts ∧
    ((s.shoot k).core core).tlbDesc = (s.core core).tlbDesc.filter (fun e => !(e.1 == k.ctx && (k.opc == 3 || k.opc == 1 && e.2.1 == k.seg))) ∧
    ((s.shoot k).core core).tlbPage = (s.core core).tlbPage.filter (fun e => !(e.ctx == k.ctx && (k.opc == 3 || e.seg == k.seg &&
      (k.opc == 1 || decide (k.off / pageSize e.pgsz ≤ e.page ∧ e.page < k.off / pageSize e.pgsz + k.npg))))) ∧
    (∀ d ∈ (s.shoot k).dies, ∀ l ∈ d.walkCache, ∀ u ∈ l.users, u.1 = k.ctx → k.opc ≠ 3 ∧ u.2 ≠ k.seg) ∧
    (∀ w ∈ (s.shoot k).walks, w.result.isSome = true → w.ctx = k.ctx → k.opc ≠ 3)) ∧
  ∀ (s : State) id (p : Pub), s.pubs.find? (fun p => p.id == id) = some p →
    let done : State := { s with pubs := s.pubs.filter (fun q => q.id != id) }
    (∀ n, s.pubCheck p = .reject n → exec (.publishCheck id) s = .next (done.completeFut p.fut (BitVec.ofNat 64 (5 + n * 256)))) ∧
    (∀ ps, s.pubCheck p = .ask ps → exec (.publishCheck id) s = .next (s.queueWalks 0 (coreDie (s.panel p.panel).core) ps)) ∧
    (∀ g, s.pubCheck p = .wait g → exec (.publishCheck id) s = .next (s.report "page" p.ctx [id, g.addr.toNat, g.reason])) ∧
    ∀ h code fm records, s.pubCheck p = .ok h code fm records →
      let free := fun n => (s.freeDesc p.ctx n).bind (fun d =>
        (s.codeLocs p.ctx d.2.2.2 (bitsOf d.2.1 47 36) h.codelen).map (fun ls => (n, d, ls)))
      let lo := (s.ctx p.ctx).publo.toNat
      let hi := (s.ctx p.ctx).pubhi.toNat
      ((∀ n, lo ≤ n → n ≤ hi → free n = none) → exec (.publishCheck id) s = .next (done.completeFut p.fut 6)) ∧
      ∀ n d ls, lo ≤ n → n ≤ hi → free n = some (n, d, ls) → (∀ m, lo ≤ m → m < n → free m = none) →
        exec (.publishCheck id) s = .next (done.seal p h code fm records n d ls)

/-- R370, R385, R403, R405, R406, R388, R407: a trap is delivered to each lane of `trap`; a fault whose trap-table entry names a handler that
can be entered puts the lane at the handler in SYSTEM mode, its frame 0x20 above the stack pointer, the link record, the trap locals and
v0 to v7 stored through the store queue; with entry 0 the lane stops with its fault. `rett` pops the frame of each lane: v0 to v7, the
frame registers, USER mode and the PC come back; a lane that waited for something when it took the fault of a matrix word waits again. -/
def Obligations.TrapsAndReturn : Prop :=
  (∀ c (f : SF),
    Performs (.trap c f) false (fun _ _ => True)
      (fun x => x.each (fun k y => y.deliver x.w.id k ⟨.trap, 0, 0, f.imm.toNat, 0⟩ x.pc)) ∧
    Performs (.rett c f) true (fun s x => ∀ k ∈ x.lanes, s.pending (x.w.lane k).hh = false)
      (fun x => x.each (fun k y => y.rettLane x k))) ∧
  (∀ (s : State) w k (f : LFault) pc, s.hasWeft w = true → k < (s.weft w).lanes.length →
    let l := (s.weft w).lane k
    let c := (s.panel (s.weft w).panel).ctx
    let e := s.trapEntry c (if f.code = .trap then 0x100 + 8 * f.info else 8 * f.code.code)
    l.sys = false → f.code ≠ .page → f.code ≠ .overlay → f.code ≠ .accown → (∀ z ∈ (s.weft w).sq, z.awaits k 0 = false) →
    (e = (0, false) → s.deliver w k f pc = s.stopLane w k f) ∧
    ∀ bud fsize q, e.1 ≠ 0 → s.procAt { s.reqNow w k with sys := true } e.1 true = .ok (bud, fsize) → bud ≤ (s.panel (s.weft w).panel).alloc →
      s.check { s.reqNow w k with sys := true, fb := 0 } .store (mkAddr segSTK l.sp) 0 0x60 8 = .ok q →
      let t := s.deliver w k f pc
      t.mem = s.mem ∧ (∀ v, v ≠ w → t.weft v = s.weft v) ∧ (∀ i, i ≠ k → (t.weft w).lane i = (s.weft w).lane i) ∧
      (t.weft w).regs = (s.weft w).regs ∧
      (t.weft w).lane k = { l with
        fb := l.sp + 0x20, sp := l.sp + 0x20, mtop := 0, sys := true, pc := e.1, pos := .header, hh := none, st := .active } ∧
      ∃ bytes id, (t.weft w).sq = (s.weft w).sq ++ [id] ∧ id.lane = k ∧ id.op = .store (wrs q.2.2.2 bytes) .none ∧
        let link : Frame :=
          { ret := l.pc
            cseg := (segOf e.1).toNat
            entry := (offOf e.1).toNat % 2 ^ 16
            fsize := fsize
            bud := bud / 16 - 1
            mkd := false
            savfb := mkAddr l.sseg l.fb
            ent := 0
            smtop := l.mtop.toNat
            tf := 2
            hv := false }
        bytes.take 32 = natLE 32 link.word ∧ (bytes.drop 32).take 8 = natLE 8 f.addr.toNat ∧
        (bytes.drop 40).take 8 = natLE 8 (f.code.code + f.reason % 2 ^ 8 * 2 ^ 8 + k * 2 ^ 16 + f.info % 2 ^ 32 * 2 ^ 32) ∧
        (bytes.drop 48).take 8 = natLE 8 pc.toNat) ∧
  ∀ (s : State) w k fb (f : Frame) (sv : List Nat), s.hasWeft w = true → k < (s.weft w).lanes.length → risesFrom 0 (s.weft w).regs →
    let l := (s.weft w).lane k
    let t := s.popTrap w k fb f sv
    t.mem = s.mem ∧ (∀ v, v ≠ w → t.weft v = s.weft v) ∧
    (t.weft w).lane k = { l with
      sp := BitVec.ofNat 40 fb - 0x20, fb := offOf f.savfb, mtop := BitVec.ofNat 24 f.smtop, sys := false, pc := f.ret, pos := .resume,
      st := (l.back.map LaneSt.parked).getD .active, hh := none, back := none, unb := if f.tf = 1 then none else l.unb } ∧
    ∀ n < 8, sget 0 (t.weft w).regs (keyV k n) = BitVec.ofNat 64 (sv.getD (n / 2) 0 / 2 ^ (32 * (n % 2)) % 2 ^ 32)

/-! ### Scheduling and pre-emption -/

/-- R372 to R375, R377, R379: the record at the head of the launch queue whose turn it is is taken, and becomes a launch or is refused; the
launch first in priority has its next panels placed on the cores found for them, where no cores are kept for it yet; a panel whose lanes have all exited and of which everything
has retired adds −1 to DONE and frees what it held. What a lane starts with. -/
def Obligations.LaunchesAndPanels : Prop :=
  (∀ (s : State) die c seg (q : TaskQ) bs,
    let e := (s.die die).lqNext % 16
    s.schedules die = true → lookupKey (die * 16 + e) s.lqTab = some (c, seg) → s.lqBad.contains (die * 16 + e) = false →
    s.queueBusy die c seg = false → s.lqQueue die c seg = some q → q.occ ≠ 0 → s.recAt c seg (q.ring q.head) = .ok bs →
    let x := recNat bs
    let taken := fun (args : Option (List (DWord × Bool))) =>
      ((((s.putTq c seg { q with head := (q.head + 1) % 65536 }).queueStep c seg stepFuel).takeLaunch die c seg x args).takeAts die).modDie die
        (fun d => { d with lqNext := (e + 1) % 16 })
    let argp : DWord := BitVec.ofNat 64 (x / 2 ^ 128 % 2 ^ 64)
    (launchRefusal c die x none < 4 → exec (.launchTake die) s = .next (taken none)) ∧
    (4 ≤ launchRefusal c die x none →
      (∀ args, s.launchArgs die c argp = .ok args → exec (.launchTake die) s = .next (taken (some args))) ∧
      (∀ f, s.launchArgs die c argp = .fault f → exec (.launchTake die) s = .next (taken none)) ∧
      ∀ ps, s.launchArgs die c argp = .miss ps → exec (.launchTake die) s = .next (s.queueWalks (whoNet die) die ps))) ∧
  (∀ (s : State) die c seg x (args : Option (List (DWord × Bool))),
    let reason := launchRefusal c die x args
    (reason ≠ 0 → s.takeLaunch die c seg x args = (s.report "launch refused" c [die, reason]).event (s.ctx c).func 2 reason c 0 0 0) ∧
    (reason = 0 → ∃ l : Launch, s.takeLaunch die c seg x args = { s with launches := s.launches ++ [l], nextId := s.nextId + 1 } ∧
      some l.args = args ∧ l.id = s.nextId ∧ l.ctx = c ∧ l.next = 0 ∧ l.ended = 0 ∧ l.entry = BitVec.ofNat 64 (x % 2 ^ 64) ∧ l.panels = x / 2 ^ 256 % 2 ^ 32 ∧
      l.done = BitVec.ofNat 64 (x / 2 ^ 192 % 2 ^ 64) ∧ l.prio = x / 2 ^ 362 % 2 ^ 6 ∧ l.replay = decide (x / 2 ^ 320 % 2 = 1)) ∧
    (x / 2 ^ 126 % 4 ≠ 1 → reason = 1) ∧
    (x / 2 ^ 126 % 4 = 1 → (x / 2 ^ 384 % 2 ^ 128 ≠ 0 ∨ x / 2 ^ 324 % 2 ^ 6 ≠ 0 ∨ x / 2 ^ 288 % 2 ^ 8 ≠ 0 ∨ x / 2 ^ 112 % 2 ^ 14 ≠ 0) →
      reason = 2) ∧
    (args = none → reason ≠ 0 ∧ reason ≤ 4)) ∧
  (∀ (s : State) die (l : Launch) rest s1 as, s.schedules die = true → byPrio (s.launches.filter (fun l => l.die == die)) = l :: rest →
    (∀ a ∈ s.aims, a.1 ≠ l.id) → s.nextSaved l = [] → l.next < l.panels → s.blocksFor l l.nextIndexes.length = true →
    s.seatSets l (l.nextIndexes.map (fun _ _ => [])) (s.searchSets l) = (s1, .seated as) →
    exec (.panelPlace die) s = .next (
      let s2 := (l.nextIndexes.zip as).foldl (fun y z => y.startPanel l z.1 z.2) s1
      (({ s2 with launches := s2.launches.map (fun q =>
          if q.id = l.id then { q with next := q.next + l.nextIndexes.length } else q) } : State).rotate l.id).endSearch)) ∧
  (∀ (s : State) p, (∃ q ∈ s.panels, q.id = p) → s.panelExited p = true → (s.panel p).life ≠ .halting →
    (∀ d ∈ s.deqs, d.panel ≠ p) →
    let s1 := s.modPanel p (fun q => { q with life := .ending })
    s1.commitWaits p = false → s1.retired (s.panel p) = true → exec (.panelEnd p) s = .next ((s1.doneAdd (s.panel p)).freePanel (s.panel p))) ∧
  ∀ (l : Launch) idx weft i,
    let x := Lane.start l idx weft i
    x.pc = l.entry ∧ x.pos = .header ∧ x.st = .active ∧ x.sys = false ∧ x.fb = 0x20 ∧ x.sp = 0x20 ∧ x.mtop = 0 ∧
    x.sseg = BitVec.ofNat 24 (l.sseg0.toNat + 32 * (l.nwefts * idx + weft) + i) ∧
    ∀ p w n k, (Weft.start l idx p w weft n k).masks = List.replicate 16 (0, 0) ∧
      (Weft.start l idx p w weft n k).handles = List.replicate 16 none ∧ (Weft.start l idx p w weft n k).sq = []

/-- R169 to R171: a slot of a core: its counter and the time go on, and the flags of the fixed-latency words whose results are readable by
then fall (R175, R182); the weft that is chosen has a path that can issue, and gives the slot to its
best path, with most lanes, then the lowest PC, and to the best of its other paths beside it. A core without a running weft only counts. -/
def Obligations.IssueSlots : Prop :=
  (∀ (s : State) core, s.slot = [] → s.coreWefts core = [] → exec (.issueSlot core) s = .next (s.beginSlot core)) ∧
  (∀ (s : State) core, risesFrom 0 s.cores → core < 1024 →
    ((s.beginSlot core).core core).slot = (s.core core).slot + 1 ∧ (s.beginSlot core).time = s.time + Config.freeTick s.fresh ∧
    (s.beginSlot core).mem = s.mem ∧ (s.beginSlot core).wefts = s.wefts.map (fun w =>
      if w.core = core then w.endFixed ((s.core core).slot + 1) (s.core core).picks else w)) ∧
  (∀ (w : Weft) slot picks, (w.endFixed slot picks).lanes = w.lanes ∧ (w.endFixed slot picks).regs = w.regs ∧
    (w.endFixed slot picks).sq = w.sq) ∧
  (∀ (s : State) core w a, s.slot = [] →
    let s1 := (s.beginSlot core).haltRecords core
    let n := (s1.core core).slot
    let s2 := (s1.coreWefts core).foldl (fun y v => y.prepare n v) s1
    (s2.die (coreDie core)).throttled = false → s2.chooseWeft core n = some w → bestPath (s2.readyPaths w n) = some a →
    (∀ c ∈ s2.ctxs, c.debug = false) → (∀ k ∈ s2.cores, k.2.trace.length ≤ 64) →
    ∃ t, exec (.issueSlot core) s = .next t ∧ t.mem = s2.mem ∧
      t.slot = slotWords w.id n a (bestPath ((s2.readyPaths w n).filter (· != a)))) ∧
  (∀ (s : State) core n,
    let ws := (s.coreWefts core).map s.weft
    (∀ w, s.chooseWeft core n = some w → w ∈ ws ∧ s.readyPaths w n ≠ []) ∧
    (s.chooseWeft core n = none → ∀ w ∈ ws, w.slotNo < 16 → s.readyPaths w n = [])) ∧
  ∀ ps : List Path, (bestPath ps = none ↔ ps = []) ∧ ∀ a, bestPath ps = some a → a ∈ ps ∧ ∀ b ∈ ps, b.lanes.length ≤ a.lanes.length ∧
    (b.lanes.length = a.lanes.length → pcLt b.pc a.pc = false)

/-- R402, R416, R418, R419, R421, R422: a running panel that can be saved halts with its group; a halted group whose loads and stores have
ended is written into its save blocks and leaves its cores; a saved group resumes where it fits; a gang's switch comes at its instant; the
watchdog reports a weft whose hang counter has reached the period. -/
def Obligations.PreemptionEvents : Prop :=
  (∀ (s : State) p, (s.panel p).life = .running → s.savable (s.panel p) = true →
    exec (.preemptRequest p) s = .next ((s.groupOf (s.panel p)).foldl (fun y q => y.haltPanel q.id) s)) ∧
  (∀ (s : State) p, (∀ d ∈ s.deqs, d.panel ≠ p) →
    s.haltPanel p = (s.modPanel p (fun q => { q with life := if q.life = .running then .halting else q.life })).modCore (s.panel p).core
      (fun c => { c with
        copyQ := c.copyQ.map (fun q => q.map (fun k => if k.panel = p then { k with waits := none } else k))
        morder := c.morder.map (fun m => if m.panel = p then { m with waits := none } else m) })) ∧
  (∀ (s : State) p ks t,
    let ps := s.groupOf (s.panel p)
    let s1 := ps.foldl (fun y q => y.calm q) s
    ps ≠ [] → (∀ q ∈ ps, q.life = .halting ∧ (s.die (coreDie q.core)).tripped = false ∧ s.commitWaits q.id = false ∧ s.quiet q = true) →
    s1.pickBlocks (ps.map (fun q => s1.panel q.id)) [] = some ks → s1.writeBlocks ks = .ok t →
    exec (.panelSave p) s = .next (ks.foldl (fun y q => y.finishSave q.1 q.2) t)) ∧
  (∀ (s : State) id (v : Saved), s.saved.find? (fun v => v.id == id) = some v →
    exec (.panelResume id) s = .next (s.turnResume (s.searchSets v.panel.launch) (s.savedGroup v)).1) ∧
  (∀ (s : State) cores v a ws pad data,
    let t := s.putResumed cores v a ws pad data
    t.saved = s.saved.filter (fun z => z.id != v.id) ∧ ∃ q : Panel, t.panels = s.panels ++ [q] ∧ q.id = v.panel.id ∧ q.core = a.core ∧
      q.wmask = a.wmask ∧ q.padb = a.padb ∧ q.life = .running ∧ q.index = v.panel.index) ∧
  (∀ (s : State) g (x : Gang), s.gangs[g]? = some x → x.at_.toNat ≤ s.time →
    (∀ p ∈ s.panels, p.launch.gang = x.out → p.life ≠ .running) → (∀ v ∈ s.saved, v.panel.launch.gang ≠ x.inc) →
    exec (.gangSwitch g) s = .next { s with gangs := s.gangs.eraseIdx g }) ∧
  ∀ (s : State) w, s.hasWeft w = true →
    let v := s.weft w
    let p := s.panel v.panel
    let k := s.ctx p.ctx
    let pcs := v.liveLanes.map (fun i => (v.lane i).pc.toNat)
    k.wdog ≠ 0 → 1024 * k.wdog ≤ v.hang → exec (.hangWatchdog w) s =
      .next (((s.modWeft w (fun x => { x with hang := 0 })).report "watchdog" p.ctx
        ([p.index, v.pweft, s.leafOf? v (s.core v.core).slot] ++ pcs)).event k.func 4 0 p.ctx p.index (pcs.headD 0) 0)

/-! ### Reliability -/

/-- R449 to R452, R440, R445, R277, R339, R455: a commit point drains the held stores and takes the checkpoint; a rollback below attempt 3
returns each weft to it and counts the attempt; each error poisons its granule, drops a residency, spoils a checkpoint, makes the next
step of a beam word fail its check, or rolls the panel back; a result that fails the shadow check makes its lane take SHADOW; a tile of another function is spilled, zeroed and retagged for what waits. -/
def Obligations.ErrorsAndRollback : Prop :=
  (∀ (s : State) p, (s.panel p).launch.replay = true → s.beamBusy p = false →
    let due := (s.panel p).life ≠ .running ∨ s.panelExited (s.panel p).id = true ∨ (s.panel p).inOpen = true ∨
      ∃ w ∈ s.weftsOf (s.panel p).id, ∃ e, w.sq.head? = some e ∧ e.op.commits = true
    (due → exec (.commitPoint p) s = .next (((s.drainHeld p).checkpoint p).modPanel p (fun x => { x with inOpen := true }))) ∧
    (¬ due → exec (.commitPoint p) s = .next s)) ∧
  (∀ (s : State) p cause (k : Ckpt), (s.panel p).launch.replay = true → (s.panel p).attempt < 3 → (s.panel p).ckpt = some k →
    let bit := match cause with
      | .ecc => 16
      | .beam => 17
      | .shadow _ _ => 18
    (k.valid = true → exec (.rollback p cause) s = .next ((s.rollbackTo (s.panel p) k).modCtx (s.panel p).ctx (fun c =>
      { c with cir := setCir bit c.cir }))) ∧
    (k.valid = false → exec (.rollback p cause) s = .next (s.rollbackFail (s.panel p)))) ∧
  (∀ (s : State) w l, (s.panel (s.weft w).panel).attempt = 3 → exec (.rollback (s.weft w).panel (.shadow w l)) s = .next (s.shadowTrap w l)) ∧
  (∀ (s : State) (p : Panel) (k : Ckpt) z, (∃ q ∈ s.panels, q.id = p.id) → s.hasWeft z = true →
    let t := s.rollbackTo p k
    (t.panel p.id).attempt = (s.panel p.id).attempt + 1 ∧ (t.panel p.id).held = [] ∧
    ∀ v, k.wefts.find? (fun x => x.id == z) = some v → (t.weft z).regs = v.regs ∧ (t.weft z).masks = v.masks ∧
      (t.weft z).sq = v.sq.filter (fun e => e.op != .await) ∧ (t.weft z).handles = v.handles ∧
      (s.futs = [] → (∀ q ∈ s.lates, q.weft ≠ z) → (t.weft z).flags = v.flags)) ∧
  (∀ s : State,
    let poison := fun (g : Nat) => ({ s with mem := { s.mem with poison := g :: s.mem.poison } } : State)
    let rolls := fun (p : Panel) => p.launch.replay = true ∧ p.attempt < 3 ∧ p.ckpt.isSome = true
    (exec (.eccError .corrected) s = .next (s.report "corrected" 0 [])) ∧
    (∀ pa, pa < hbmEnd → s.mem.poison.contains (pa / 64 * 64) = false → exec (.eccError (.hbmLine pa)) s = .next (poison (pa / 64 * 64))) ∧
    (∀ core off, off < Config.padBytes → s.padOwner core off = none → s.mem.poison.contains (padPa core off / 8 * 8) = false →
      exec (.eccError (.padWord core off)) s = .next (poison (padPa core off / 8 * 8))) ∧
    (∀ core off p, off < Config.padBytes → s.padOwner core off = some p → rolls p →
      exec (.eccError (.padWord core off)) s = .next { s with agenda := .rollback p.id .ecc :: s.agenda }) ∧
    (∀ w lane n, s.hasWeft w = true → lane < 32 → n < (s.panel (s.weft w).panel).alloc → ¬ rolls (s.panel (s.weft w).panel) →
      ∃ t, exec (.eccError (.reg w lane n)) s = .next t ∧ (t.weft w).poison.contains (keyV lane n) = true ∧ t.mem = s.mem) ∧
    (∀ core tile e, tile < 8 → e < 0x2000 → s.mem.poison.contains (tilePa core tile + 4 * e) = false →
      exec (.eccError (.accElem core tile e)) s = .next (poison (tilePa core tile + 4 * e))) ∧
    (∀ core tile e, tile < 4 → e < 0x2000 → s.mem.poison.contains (tilePa core (8 + tile) + 8 * e) = false →
      exec (.eccError (.partElem core tile e)) s = .next (poison (tilePa core (8 + tile) + 8 * e))) ∧
    (∀ core off, exec (.eccError (.ipad core off)) s = .next (s.modCore core (fun k =>
      { k with resid := k.resid.filter (fun r => !decide (r.off ≤ off ∧ off < r.off + r.len)) }))) ∧
    (∀ p, exec (.eccError (.checkpoint p)) s = .next (s.modPanel p (fun q =>
      { q with ckpt := q.ckpt.map (fun k => { k with valid := false }) }))) ∧
    (∀ core q, exec (.eccError (.staging core q)) s = .next (s.poisonSector core q)) ∧
    (∀ w l formed, s.hasWeft w = true →
      (s.shadowBad w l formed = false → exec (.eccError (.shadow w l formed)) s = .next s) ∧
      (s.shadowBad w l formed = true → ¬ rolls (s.panel (s.weft w).panel) →
        exec (.eccError (.shadow w l formed)) s = .next (s.shadowTrap w l)) ∧
      (s.shadowBad w l formed = true → rolls (s.panel (s.weft w).panel) → exec (.eccError (.shadow w l formed)) s =
        .next { s with agenda := .rollback (s.panel (s.weft w).panel).id (.shadow w l) :: s.agenda })) ∧
    (∀ core id (m : MWord), s.mword core id = some m → m.started = true → m.ended = false → m.beamR ≠ [] →
      exec (.eccError (.beam core id)) s = .next (s.modMWord core id (fun q => { q with err := true })))) ∧
  -- R276, R277: the shadow check of a lane's newest word, where it is one of the checked forms; the lane takes SHADOW with that word's PC
  (∀ (s : State) w l (formed : Word), s.shadowBad w l formed = true ↔ ∃ q, ((s.weft w).lane l).shadow = some q ∧
    let em : Int := (q.2.extractLsb' 23 8).toNat
    let es : Int := (formed.extractLsb' 23 8).toNat
    let fm : Int := (q.2.extractLsb' 17 6).toNat
    let fs : Int := (formed.extractLsb' 17 6).toNat
    1 ≤ es ∧ es ≤ 254 ∧ (q.2.getLsbD 31 ≠ formed.getLsbD 31 ∨ 1 < em - es ∨ 1 < es - em ∨ em = es ∧ (2 < fm - fs ∨ 2 < fs - fm))) ∧
  (∀ (s : State) w l q, s.hasWeft w = true → l < (s.weft w).lanes.length → ((s.weft w).lane l).st ≠ .exited →
    ((s.weft w).lane l).shadow = some q →
    ((s.shadowTrap w l).weft w).lane l = { (s.weft w).lane l with
      shadow := none, trap := ((s.weft w).lane l).trap ++ [(⟨.shadow, 0, 0, 0, 0⟩, q.1)] }) ∧
  (∀ (s : State) core id (m : MWord) t s1, s.cores.find? (fun k => k.2.morder.any (fun m => m.id == id && m.susp)) = some (core, s.core core) →
    s.mword core id = some m → (s.mwTouches core m).find? (fun t => (s.tag core t).owner != 0 && (s.tag core t).owner != m.ctx) = some t →
    (s.ctx (s.tag core t).owner).func ≠ (s.ctx m.ctx).func → (s.die (coreDie core)).restarting = false → s.spillTile core t = .ok s1 →
    exec (.crossFunctionAccown id) s = .next ((s1.zeroTile core t m.ctx).modMWord core id (fun q => { q with susp := false })))

/-- R456, R469, R458, R459, R461, R462, R88: a function-level reset removes the function's contexts and panels, resets its host registers and
sends vector 1; a quad is drained, repaired or replaced; a row is spared; a controller restarts with new firmware; and the life of a
key slot. -/
def Obligations.ServiceEvents : Prop :=
  (∀ (s : State) n, s.boot = 7 → 0 < n → n < 16 → ∃ t, exec (.functionLevelReset n) s = .next t ∧
    t.ctxs = s.ctxs.filter (fun c => c.func != n) ∧ t.hostOut = s.hostOut ++ [.msix n 1] ∧
    (∀ p ∈ t.panels, ∀ c ∈ s.ctxs, c.func = n → c.id ≠ p.ctx) ∧ (∀ l ∈ t.launches, ∀ c ∈ s.ctxs, c.func = n → c.id ≠ l.ctx)) ∧
  (∀ s : State, s.boot = 7 → exec (.functionLevelReset 0) s = .next ((List.range 16).foldl (fun y n => y.resetFn n) s)) ∧
  (∀ (s : State) die quad, (∀ p ∈ s.panels, p.core ∉ quadCores die quad) → (∀ c ∈ quadCores die quad, ∀ t < 12, (s.tag c t).owner = 0) →
    ∃ t, exec (.quadDrain die quad) s = .next t ∧ t.mem = s.mem ∧ t.panels = s.panels ∧
      (die < s.dies.length → (t.die die).drained.contains quad = true) ∧
      ∀ c ∈ quadCores die quad, risesFrom 0 s.cores → c < 1024 → (t.core c).resid = [] ∧ (t.core c).beams = List.replicate 16 Macro.reset) ∧
  (∀ (s : State) die quad ps, ps = s.panels.filter (fun p => (quadCores die quad).contains p.core) → ps ≠ [] →
    (∀ p ∈ ps, (s.panel p.id).life ≠ .running) → exec (.quadDrain die quad) s = .next (s.modDie die (fun d =>
      { d with drained := if d.drained.contains quad then d.drained else d.drained ++ [quad] }))) ∧
  (∀ (s : State) die quad a b c d, s.quadEmpty die quad = true →
    let done := fun (t : State) => exec (.quadRepair die quad (.refuse a b c d)) s =
      .next ((t.report "quad repair" 0 [die, quad]).event 0 7 0 0 0 0 0)
    let swap := fun (t : State) => exec (.quadRepair die quad (.replace a b c d)) s =
      .next ((t.report "quad repair" 0 [die, quad]).event 0 7 0 0 0 0 0)
    ((∀ g ∈ [a, b, c, d], 8 ≤ goodCount g) → done (s.quadBack die quad [a, b, c, d])) ∧
    (0 < (s.die die).spares → swap ((s.quadBack die quad [a, b, c, d]).modDie die (fun z => { z with spares := z.spares - 1 }))) ∧
    (∀ j g, [a, b, c, d][j]? = some g → goodCount g < 8 → risesFrom 0 s.cores → coreOf die quad 0 + 3 < 1024 →
      ((s.quadBack die quad [a, b, c, d]).core (coreOf die quad j)).absent = true) ∧
    ((s.die die).spares = 0 → swap (((quadCores die quad).foldl (fun y k => y.modCore k (fun z => { z with absent := true })) s).modDie die
      (fun z => { z with quads := z.quads - 1, drained := z.drained.filter (· != quad) })))) ∧
  (∀ (s : State) stack row, s.mem.rows.contains (stack, row) = false →
    exec (.hbmRowSpare stack row) s = .next { s with mem := { s.mem with rows := s.mem.rows ++ [(stack, row)] } }) ∧
  (∀ (s : State) die, (∀ d ∈ s.dies, d.restarting = false) →
    exec (.firmwareUpdate die true) s =
      .next { s.modDie die (fun d => { d with restarting := true, firmware := s.nextId }) with nextId := s.nextId + 1 } ∧
    exec (.firmwareUpdate die false) s = .next ((s.report "firmware" 0 [die]).event 0 7 0 0 0 0 0)) ∧
  (∀ (s : State) die, exec (.firmwareRestartEnd die) s = .next (s.modDie die (fun d => { d with restarting := false }))) ∧
  ∀ (s : State) key,
    let k := s.key key
    (key < 4096 → k.1 = .empty → exec (.keyCreate key) s = .next { s with keys := sput (.empty, 0) s.keys key (.live, k.2 + 1) }) ∧
    (k.1 ≠ .empty → exec (.keyCreate key) s = .next (s.report "key create failed" 0 [key])) ∧
    (k.1 = .live → exec (.keyDestroy key) s =
      .next (({ s with keys := sput (.empty, 0) s.keys key (.draining, k.2) } : State).eraseKeys key)) ∧
    (k.1 = .draining → s.keyBusy key = false →
      ∃ t, exec (.keyDrainComplete key) s = .next t ∧ t.keys = sput (.empty, 0) s.keys key (.empty, k.2 + 1) ∧
        t.mem.lines = s.mem.lines.filter (fun l => l.okey != key) ∧ t.mem.bytes = s.mem.bytes ∧ t.mem.tags = s.mem.tags ∧
        t.cores = s.cores ∧ t.wefts = s.wefts)

/-! ### Host, power and debug -/

/-- R463 to R468: the doorbell moves TAIL of a live launch-queue entry; EVCTL lets held records go; function 0 writes APSEG; a write of BAR0
acts as the register at its offset; an aperture write stores its bytes and a read returns them, or the fault is an event and the read
returns all ones; a translation response enters its die's cache and an invalidation empties it of the page. R470, R487 to R489: TIME is slewed towards the master and never moves back; a die is throttled and released; a trip stops the die's lanes;
cold reset leaves every on-chip structure cleared and every key slot EMPTY, and a step that fails ends the sequence; a report is written
into host memory. -/
def Obligations.HostAndPowerEvents : Prop :=
  ((∀ (s : State) fn (v : DWord) c seg (q : TaskQ),
    let tail := v.toNat % 2 ^ 16
    s.barOpen fn = true → lookupKey (v.toNat / 2 ^ 20 % 4 * 16 + v.toNat / 2 ^ 16 % 16) s.lqTab = some (c, seg) →
    s.lqQueue (v.toNat / 2 ^ 20 % 4) c seg = some q →
    ((s.ctx c).func = fn → v.toNat / 2 ^ 22 = 0 → (tail + 65536 - q.head) % 65536 ≤ 2 ^ q.log2n →
      exec (.launchDoorbell fn v) s = .next ((s.putTq c seg { q with tail := tail }).queueStep c seg stepFuel)) ∧
    ((s.ctx c).func ≠ fn → exec (.launchDoorbell fn v) s = .next (s.event fn 6 0 0 0 v.toNat 0))) ∧
  (∀ (s : State) fn (v : DWord), s.barOpen fn = true → v.toNat / 2 ^ 5 % 2 ^ 27 = 0 →
    (v.toNat % 2 ^ 5 = 0 ∨ 7 ≤ v.toNat % 2 ^ 5 ∧ v.toNat % 2 ^ 5 ≤ 16) →
    exec (.evctlWrite fn v) s = .next ((s.modFn fn (fun f => { f with evCtl := v })).releaseHeld fn Config.heldEvents)) ∧
  (∀ (s : State) fn (v : DWord), s.barOpen 0 = true → s.barOpen fn = true → v.toNat / 2 ^ 16 % 2 ^ 24 = 0 →
    (segOf v = 0 → exec (.apsegWrite fn v) s = .next (s.modFn fn (fun f => { f with apseg := v }))) ∧
    (segOf v ≠ 0 → (∃ c ∈ s.ctxs, c.id = v.setWidth 16) → (s.ctx (v.setWidth 16)).func = fn →
      exec (.apsegWrite fn v) s = .next (s.modFn fn (fun f => { f with apseg := v })))) ∧
  (∀ (s : State) fn off (v : DWord), s.barOpen fn = true →
    (off = 0 → exec (.bar0Write fn off v) s = exec (.launchDoorbell fn v) s) ∧
    (off = 8 → v.toNat % 2 ^ 12 = 0 → exec (.bar0Write fn off v) s = .next (s.modFn fn (fun f => { f with evBase := v }))) ∧
    (off = 0x10 → exec (.bar0Write fn off v) s = exec (.evctlWrite fn v) s) ∧
    (fn = 0 → off = 0x28 → exec (.bar0Write fn off v) s = exec (.apsegWrite 0 v) s)) ∧
  (∀ (s : State) fn off (bs : List Byte), s.barOpen fn = true → 0 < bs.length → off + bs.length ≤ 2 ^ 32 →
    (∀ ls, s.aperture fn .store off bs.length = .ok ls → exec (.hostApertureWrite fn off bs) s = .next (s.landAll 0 (wrs ls bs))) ∧
    ∀ f c, s.aperture fn .store off bs.length = .error (f, c) →
      exec (.hostApertureWrite fn off bs) s = .next (s.event fn 5 f.reason c 0 0 f.addr.toNat)) ∧
  (∀ (s : State) fn off n, 0 < n → off + n ≤ 2 ^ 32 →
    (s.boot ≠ 7 → exec (.hostApertureRead fn off n) s =
      .next { s with hostOut := s.hostOut ++ [.readDone fn (List.replicate n 0)] }) ∧
    (s.barOpen fn = true → (∀ ls, s.aperture fn .load off n = .ok ls → exec (.hostApertureRead fn off n) s =
        .next { s with hostOut := s.hostOut ++ [.readDone fn (ls.map s.byteAt)] }) ∧
      ∀ f c, s.aperture fn .load off n = .error (f, c) →
        let t := s.event fn 5 f.reason c 0 0 f.addr.toNat
        exec (.hostApertureRead fn off n) s = .next { t with hostOut := t.hostOut ++ [.readDone fn (List.replicate n 0xFF)] })) ∧
  (∀ (s : State) id page die fn p, s.atsWait.find? (fun e => e.1 == id) = some (id, die, fn, p) →
    exec (.atsTranslationResponse id page) s = .next (({ s with atsWait := s.atsWait.filter (fun e => e.1 != id) } : State).modDie die (fun d =>
      { d with ats := ((fn, p, page) :: d.ats.filter (fun e => !(e.1 == fn && e.2.1 == p))).take 2048 }))) ∧
  (∀ (s : State) die page, (∀ e ∈ (s.die die).ats, e.2.1 = page → ∀ g, e.2.2 = some g → s.hostPending die e.1 g = false) →
    exec (.atsInvalidation die page) s = .next
      { s.modDie die (fun d => { d with ats := d.ats.filter (fun e => e.2.1 != page) }) with hostOut := s.hostOut ++ [.atsDone die page] }) ∧
  -- R468: a record enters the ring at EVTAIL, which rises by one, and vector 0 is sent
  ∀ (s : State) n kind reason c panel data addr,
    let f := s.fn n
    (f.ring = 0 → s.event n kind reason c panel data addr = s) ∧
    (f.ring ≠ 0 → f.held = [] → (f.evTail + 2 ^ 32 - f.evCtl.toNat / 2 ^ 32) % 2 ^ 32 < f.ring → n < s.fns.length → f.evDrops = 0 →
      let t := s.event n kind reason c panel data addr
      (t.fn n).evTail = (f.evTail + 1) % 2 ^ 32 ∧ t.hostOut = s.hostOut ++ [.msix n 0] ∧
      t.mem = (s.write (wrs ((List.range 32).map (fun i => Loc.host n (f.evBase.toNat + 32 * (f.evTail % f.ring) + i)))
        (natLE 32 (kind % 2 ^ 8 + reason % 2 ^ 8 * 2 ^ 8 + c.toNat * 2 ^ 16 + panel % 2 ^ 32 * 2 ^ 32 + data % 2 ^ 64 * 2 ^ 64 +
          addr % 2 ^ 64 * 2 ^ 128 + s.time % 2 ^ 64 * 2 ^ 192)))).mem)) ∧
  ((∀ (s : State) master, exec (.ptpMessage master) s = .next
    { s with time := s.time + min (Config.freeTick s.fresh) (master - s.time), fresh := s.fresh + 1, holdover := false }) ∧
  (∀ s : State, exec .holdoverReport s = .next (({ s with holdover := true } : State).report "holdover" 0 [])) ∧
  (∀ (s : State) die, exec (.thermalThrottle die) s = .next (s.modDie die (fun d => { d with throttled := true })) ∧
    exec (.throttleRelease die) s = .next (s.modDie die (fun d => { d with throttled := false }))) ∧
  (∀ (s : State) die, die < 4 → ∃ t, exec (.thermalTrip die) s = .next t ∧ (die < s.dies.length → (t.die die).tripped = true) ∧
    ∀ w, s.hasWeft w = true → (∃ p ∈ s.panels, p.id = (s.weft w).panel ∧ coreDie p.core = die) →
      ∀ i < 32, i < (s.weft w).lanes.length → ((t.weft w).lane i).st ≠ .active ∧ ∀ k, ((t.weft w).lane i).st ≠ .parked k) ∧
  (∀ s : State, ∃ t, exec (.coldReset none) s = .next t ∧ t.panels = [] ∧ t.wefts = [] ∧ t.ctxs = [] ∧ t.futs = [] ∧ t.launches = [] ∧
    t.saved = [] ∧ t.lqTab = [] ∧ t.walks = [] ∧ t.fns = State.reset.fns ∧
    t.boot = State.reset.boot ∧ t.time = State.reset.time ∧ (∀ k ∈ t.keys, k.2.1 = .empty) ∧ (∀ e ∈ t.mem.bytes, e.1 < hbmEnd) ∧
    t.mem.host = s.mem.host ∧ ∀ f, exec (.coldReset (some f)) s = .next (t.bootFailed f)) ∧
  ∀ (s : State) bus (nonce : List Byte), s.boot = 7 → nonce.length = 32 → (∀ d ∈ s.dies, d.restarting = false) →
    let r := s.attestReport nonce
    exec (.attestationRequest bus nonce) s =
      .next ((s.write (wrs ((List.range r.length).map (fun i => Loc.host 0 (bus + i))) r)).event 0 7 0 0 0 0 0) ∧
    (r.drop 8).take 32 = nonce ∧ (r.drop 40).take 8 = natLE 8 s.time)

/-- R408, R290, R473, R475, R478, R479, R367, R372, R381, R421, R427, R428: a stopped lane is released, sent to a PC, or ended; the oldest trace
record moves into its context's ring; a debugger attaches, detaches, halts, steps, resumes and reads wefts, and writes entries; system software
writes its tables. -/
def Obligations.SoftwareAndDebugEvents : Prop :=
  (∀ (s : State) w k, ((s.weft w).lane k).isStopped = true →
    let l := (s.weft w).lane k
    let c := (s.panel (s.weft w).panel).ctx
    let at_ := fun pc (y : State) => (y.modLane w k (fun x => { x with st := .active, back := none, pos := .header, pc := pc })).wakeLane w k false
    (l.pos ≠ .ending →
      -- what the lane was parked on it waits for again (R330)
      (exec (.laneRelease w k) s = .next ((s.modLane w k (fun x =>
        { x with st := (x.back.map LaneSt.parked).getD .active, back := none,
                 pos := if x.pos = .launch then .launch else .resume })).wakeLane w k false)) ∧
      ((∀ q ∈ l.trap, q.1.code ≠ .unbound) → ∀ pc, exec (.laneReleaseAtPc w k pc) s = .next (at_ pc s)) ∧
      ((∃ q ∈ l.trap, q.1.code = .unbound) → (s.panel (s.weft w).panel).launch.replay = false →
        ∀ pc, exec (.laneReleaseAtPc w k pc) s = .next (at_ pc (s.dropUnbound w k)))) ∧
    ((s.weft w).inSub k = false →
      let go := fun (y : State) fs => ((y.failLane c l).wakeLane w k true).exitFrames w k c fs
      let kept := s.modLane w k (fun x => { x with st := l.st, pos := .ending })
      let walk := s.framesFrom (s.reqNow w k) w (frameFuel l.fb.toNat) l.fb.toNat
      (∀ fs, walk = .ok fs → heldEntries fs = [] → l.binds = [] → exec (.laneEnd w k) s = .next (go s fs)) ∧
      (∀ fs, walk = .ok fs → s.entryPage c (heldEntries fs ++ l.binds.map (·.1)) = none →
        heldEntries fs ++ l.binds.map (·.1) ≠ [] → (s.panel (s.weft w).panel).launch.replay = false →
        exec (.laneEnd w k) s = .next (go kept fs)) ∧
      ∀ f, walk = .fault f → f.code ≠ .page →
        exec (.laneEnd w k) s = .next (s.report "end refused" c [w, k, f.addr.toNat]))) ∧
  (∀ (s : State) core rc rest, (s.core core).trace = rc :: rest → (s.die (coreDie core)).restarting = false →
    exec (.traceRingMove core) s = .next ((s.modCore core (fun k => { k with trace := rest })).putTrace
      (BitVec.ofNat 16 (leNat rc / 2 ^ 400)) rc)) ∧
  (∀ (s : State) c (rc : List Byte) r tail q, s.ringHeader c = some (r, tail) →
    s.deviceLocs c .store (s.ctx c).ring (0x40 + 64 * (tail % 2 ^ r)) 64 = .ok q →
    s.putTrace c rc = (s.write (wrs q.2 rc)).deviceWrite c (s.ctx c).ring 8 8 ((tail + 1) % 2 ^ 64)) ∧
  (∀ (s : State) c, (∃ x ∈ s.ctxs, x.id = c) →
    (∀ seg, exec (.traceRingWrite c seg) s = .next (s.modCtx c (fun k => { k with ring := seg }))) ∧
    exec (.debugAttach c) s = .next (s.modCtx c (fun k => { k with debug := true })) ∧
    (∀ watch i (e : BitVec 128), bpReserved watch e = false → exec (.breakpointWrite c watch i e) s = .next (s.modCtx c (fun k =>
      if watch then { k with wps := k.wps.set i e } else { k with bps := k.bps.set i e }))) ∧
    (∀ die i seg, die < 4 → i < 64 → exec (.stealTableWrite c die i seg) s = .next (s.modCtx c (fun k =>
      { k with steal := k.steal.filter (fun e => !(e.1 == die && e.2.1 == i)) ++ if seg = 0 then [] else [(die, i, seg)] }))) ∧
    (∀ i (e : BitVec 512), i < 4096 → e.toNat / 2 % 2 ^ 295 = 0 → exec (.endpointWrite c i e) s = .next (s.modCtx c (fun k =>
      { k with endpoints := sput 0 k.endpoints i e }))) ∧
    ∀ die e seg, die < 4 → e < 16 → exec (.launchQueueTableWrite die e (some (c, seg))) s = .next { s with
      lqBad := s.lqBad.filter (· != die * 16 + e),
      lqTab := s.lqTab.filter (fun z => z.1 != die * 16 + e) ++ [(die * 16 + e, c, seg)] }) ∧
  (∀ (s : State) w c,
    let each := fun (g : Weft → Weft) => exec (.debugResume w) s = .next (s.modHeld w g)
    each (fun v => if v.halted then { v with halted := false, step := 0, skipAt := v.stops } else { v with step := 0 }) ∧
    exec (.debugStep w) s = .next (s.modHeld w (fun v => if v.halted then { v with step := 1, skipAt := v.stops } else v)) ∧
    exec (.debugDetach c) s = .next ((s.modCtx c (fun k => { k with debug := false })).modCtxWefts c Weft.resumed) ∧
    ((s.ctx (s.weftCtx w)).debug = true → exec (.debugHalt (.weft w)) s =
      .next (s.modHeld w (fun v => if v.halted then v else { v with step := 3 }))) ∧
    ((s.ctx c).debug = true → exec (.debugHalt (.context c)) s =
      .next (s.modCtxWefts c (fun v => if v.halted then v else { v with step := 3 }))) ∧
    (s.hasWeft w = true → (s.weft w).halted = true → (s.weft w).step = 0 → exec (.debugSnapshot w) s =
      .next (s.report "snapshot" (s.panel (s.weft w).panel).ctx (((s.panel (s.weft w).panel).snapshot (s.weft w)).map BitVec.toNat)))) ∧
  ∀ s : State,
    (∀ die e, die < 4 → e < 16 → exec (.launchQueueTableWrite die e none) s = .next { s with
      lqBad := s.lqBad.filter (· != die * 16 + e), lqTab := s.lqTab.filter (fun z => z.1 != die * 16 + e) }) ∧
    (∀ sa key, 0 < sa → sa < 65536 → key < 4096 →
      exec (.associationKeyWrite sa key) s = .next { s with assoc := s.assoc.filter (fun a => a.1 != sa) ++ [(sa, key)] }) ∧
    (∀ out inc at_, exec (.gangInstantWrite out inc at_) s = .next { s with gangs := s.gangs.filter (fun g => g.out != out) ++ [⟨out, inc, at_⟩] }) ∧
    ∀ node, exec (.pnodeWrite node) s = .next { s with pnode := node }

/-! ### The whole machine -/

/-- R103, R178, R180, R197, R198: a chosen word is read at its PC and decoded under the class of its clause's header, as the clause's last
word or not; the step is `exec` of the instruction it decodes to, a write of XINV under the name of its OPC (R70), and a word that fails a
check is turned away with the check's reason. With no chosen word the last slot is charged to its leaf (R177), then the agenda's head runs,
else an agent of the package takes its turn (the model's choice of an order, log entry 15). No step stops the machine (R403). -/
def Obligations.StepRuns : Prop :=
  (∀ (s : State) sw rest h,
    let w := s.weft sw.weft
    let word := fun (o : Off) => s.fetchWord w.core (s.panel w.panel).ctx (segOf sw.pc) o.toNat
    let s1 : State := { s with slot := rest, cur := some sw }
    s.slot = sw :: rest → decodeHeader (word sw.hdr) = some h →
    let dec := decodeWord h.cls.toNat ((offOf sw.pc).toNat == sw.hdr.toNat + 8 * (h.count.toNat + 1)) (word (offOf sw.pc))
    (∀ i, dec = .ok i → (∀ c f, i = .sysw c f → f.sreg ≠ .xinv) → step s = exec i s1) ∧
    (∀ c f, dec = .ok (.sysw c f) → f.sreg = .xinv →
      let x := icOf (s.ready sw) sw
      let opc := (x.rd true f.a x.agent).toNat / 2 ^ 60
      (opc = 1 → step s = exec (.xinvSeg c f) s1) ∧ (opc = 2 → step s = exec (.xinvPages c f) s1) ∧
      (opc = 3 → step s = exec (.xinvCtx c f) s1) ∧ (opc = 0 ∨ 3 < opc → step s = exec (.sysw c f) s1)) ∧
    ∀ e, dec = .error e → step s = .next (({ s with slot := rest } : State).illegalWord sw e)) ∧
  (∀ (s : State) i is, s.slot = [] → s.agenda = i :: is → step s = exec i { s.settleSlot with agenda := is }) ∧
  (∀ s : State, s.slot = [] → s.agenda = [] → let z := s.settleSlot
    ∃ i, (i ∈ z.turns ∨ z.turns = [] ∧ i = .launchTake 0) ∧ step s = exec i { z with turn := z.turn + 1 }) ∧
  ∀ s : State, Goes (step s)

/-- R182 to R195: words written out from their encodings decode to the instructions they stand for. -/
def Obligations.DecodedWords : Prop :=
  decodeTableWord 64 0x050030020130C0E0 = some (.movhi ⟨2, false, 0⟩ ⟨.b32, .v 4, .v 4, 0x30C0E0⟩) ∧
  decodeTableWord 64 0x680C200020160300 = some (.xlXor ⟨0, false, 3⟩ ⟨.b32, .rne, false, .v 4, .v 5, .s 1, .s 0⟩) ∧
  decodeTableWord 64 0x8000100180000240 = some (.brz ⟨0, false, 0⟩ ⟨0, .v 3, .v 0, 0x240⟩) ∧
  decodeTableWord 64 0xC00404D010180000 = some (.ld ⟨0, false, 1⟩ ⟨.b32, .quad, .acq, .v 2, .v 6, .v 0, 0⟩) ∧
  decodeTableWord 64 0xD410000000004003 = some (.push ⟨0, false, 4⟩ ⟨.b8, .none, .plain, .v 0, .v 0, .v 32, 3⟩) ∧
  decodeTableWord 64 0xE40C06C800001000 = some (.mmaW ⟨0, false, 3⟩ ⟨.bfp8, 0x19, 0, 0, 0, 0, 0, .v 8, .v 0⟩) ∧
  decodeTableWord 64 0xF00404CAA020140C =
    some (.copy ⟨0, false, 1⟩ ⟨1, 3, 0, .pkg, 2, true, false, .v 8, .v 10, .v 12⟩) ∧
  decodeTableWord 64 0xF410600000080D01 = some (.dcadd ⟨0, false, 4⟩ ⟨0, 0, 0, .none, 0, false, false, .v 2, .v 6, .s 1⟩) ∧
  decodeTableWord 64 0xF804000183000000 = some (.sysr ⟨0, false, 1⟩ ⟨.picks, .s 6, .v 0, 0⟩)

/-- R488, R88, R323, R459, R470, R463: after a cold reset no panel, weft, context, future, launch or residency exists; every key slot is
EMPTY; every tile has OWNER 0 and every macro is clear; the time unit is in holdover; the dies run with their 36 quads and 2 spares, and
BAR0 is open. The model's choices (log entries 1, 7, 9): memory reads 0, TIME is 0, every heald is good. -/
def Obligations.ResetState : Prop :=
  let s := State.reset
  s.Inv ∧ s.panels = [] ∧ s.wefts = [] ∧ s.ctxs = [] ∧ s.futs = [] ∧ s.launches = [] ∧ s.saved = [] ∧ s.walks = [] ∧ s.lqTab = [] ∧
  (∀ k, (s.key k).1 = .empty) ∧
  (∀ core t, t < 12 → (s.tag core t).owner = 0) ∧
  (∀ core, (s.core core).beams = List.replicate 16 Macro.reset ∧ (s.core core).resid = [] ∧ (s.core core).tlbDesc = [] ∧
    (s.core core).tlbPage = [] ∧ (s.core core).morder = [] ∧ (s.core core).xinva = 0 ∧ ∀ q < 4, (s.core core).copyQ[q]? = some []) ∧
  s.holdover = true ∧
  (∀ n < 4, (s.die n).quads = 36 ∧ (s.die n).spares = 2 ∧ (s.die n).tripped = false ∧ (s.die n).restarting = false) ∧
  s.barOpen 0 = true ∧ (∀ n < 16, (s.fn n).evBase = 0 ∧ (s.fn n).evCtl = 0 ∧ (s.fn n).evTail = 0 ∧ (s.fn n).apseg = 0) ∧
  (∀ pa, s.byteAt (.hbm pa 0 0) = 0) ∧ s.time = 0 ∧ ∀ core, (s.core core).good = 0xFFFF

/-- Every step, from any state, keeps memory in its canonical form: equal memories are equal data. -/
def Obligations.StepKeepsInv : Prop := ∀ s t : State, s.Inv → step s = .next t → t.Inv

/-- R182 to R195: every well-formed instruction with a word decodes from the word that encodes it, under its own class, to itself; a
write of XINV under the name `sysw` (R70). Every word that decodes is the encoding of the well-formed instruction it decodes to. -/
def Obligations.EncodingRoundTrip : Prop :=
  (∀ i : Instr, i.wellFormed = true → i.view ≠ .event →
    let named := match i with
      | .xinvSeg c f | .xinvPages c f | .xinvCtx c f => Instr.sysw c f
      | _ => i
    ∃ w, encode i = some w ∧ decodeWord i.cls true w = .ok named ∧ decodeTableWord 64 w.toNat = some named) ∧
  ∀ cls last w i, decodeWord cls last w = .ok i → i.wellFormed = true ∧ encode i = some w

/-- R179, R180, R195, R197, R182: a header is exactly a word with MARK 0x3F, its reserved bits 0, CLASS below 6 and RJM 0 unless REJ is set;
a word of a reserved major raises MAJOR, of a SUB not listed SUB, in a clause of another class or as an E word that is not last PLACE, and one
with FLAG 13 to 15 FIELD. -/
def Obligations.ReservedEncodings : Prop :=
  (∀ (w : DWord) (h : Header), decodeHeader w = some h ↔
    w.extractLsb' 58 6 = 0x3F ∧ w.extractLsb' 54 4 = h.count ∧ w.extractLsb' 51 3 = h.cls ∧ w.extractLsb' 39 12 = h.wait ∧
    w.getLsbD 38 = h.rej ∧ w.extractLsb' 34 4 = h.rjm ∧ w.extractLsb' 0 34 = 0 ∧ h.cls.toNat < 6 ∧ (h.rej = false → h.rjm = 0)) ∧
  ∀ cls last (w : DWord),
    let op := w.toNat / 2 ^ 58
    let sub := w.toNat / 2 ^ 44 % 64
    let listed := [(0x00, 10), (0x01, 10), (0x02, 7), (0x03, 6), (0x04, 7), (0x05, 6), (0x06, 5), (0x07, 2), (0x08, 3), (0x09, 2), (0x0A, 3),
      (0x0B, 2), (0x0C, 2), (0x0D, 4), (0x10, 8), (0x11, 7), (0x12, 2), (0x13, 8), (0x14, 3), (0x15, 3), (0x16, 2), (0x17, 3), (0x18, 1),
      (0x19, 2), (0x1A, 4), (0x1B, 4), (0x1C, 6), (0x1D, 4), (0x20, 3), (0x21, 3), (0x22, 3), (0x23, 2), (0x24, 2), (0x25, 4), (0x26, 1),
      (0x27, 1), (0x28, 2), (0x29, 0), (0x30, 2), (0x31, 2), (0x32, 8), (0x33, 1), (0x34, 3), (0x35, 2), (0x36, 2), (0x37, 0), (0x38, 2),
      (0x39, 3), (0x3A, 2), (0x3B, 6), (0x3C, 7), (0x3D, 9), (0x3E, 8)]
    let own := if op < 0x20 then 0 else if op < 0x38 then 1 else if op < 0x3C then 2 else if op < 0x3E then 3 else 5
    let endsClause := (op, sub) ∈ [(0x20, 0), (0x20, 1), (0x20, 2), (0x21, 2), (0x22, 0), (0x22, 1), (0x22, 2), (0x23, 0), (0x23, 1),
      (0x25, 1), (0x25, 2), (0x27, 0), (0x28, 1), (0x3E, 3), (0x3E, 4), (0x3E, 7)]
    let placed := (0x20 ≤ op ∧ op < 0x30 ∨ cls = own) ∧ (endsClause → last = true)
    (op ∈ [0x0E, 0x0F, 0x1E, 0x1F, 0x2A, 0x2B, 0x2C, 0x2D, 0x2E, 0x2F, 0x3F] → decodeWord cls last w = .error .major) ∧
    ∀ n, (op, n) ∈ listed → (n ≤ sub → decodeWord cls last w = .error .sub) ∧ (sub < n →
      (¬ placed → decodeWord cls last w = .error .place) ∧
      (placed → (∃ e, decodeWord cls last w = .error e ∧ e ∈ [Illegal.field, .type, .shape, .operand]) ∨ ∃ i, decodeWord cls last w = .ok i) ∧
      (placed → 13 ≤ w.toNat / 2 ^ 50 % 16 → decodeWord cls last w = .error .field))

/-- R197, R198, R176, R189, R193, R175, R330: a gang mask without its core's own bit raises ILLEGAL FIELD on the agent, a word whose
registers pass its weft's allocation BUDGET, and a system-only one in program mode PRIV, on every active lane of the path, a matrix word's
on its agent alone, and it does not issue; a word that would raise its flag above 63 is held. -/
def Obligations.IssueChecks : Prop :=
  ∀ i : Instr, i.view ≠ .event → ∀ s sw x, s.cur = some sw → sw.late = none → x = icOf (s.ready sw) sw → x.lanes ≠ [] →
    let t := s.ready sw
    let sysOnly := (∃ c f, i = .rett c f ∨ i = .sysw c f ∨ i = .xinvSeg c f ∨ i = .xinvPages c f ∨ i = .xinvCtx c f) ∨
      ∃ c f, i = .sysr c f ∧ f.sreg ∉ [SReg.hmap, .picks, .laneid, .weftid, .core, .cir, .time, .feat]
    let matrix := ∃ op sub c f, i.view = .fX op sub c f
    let own := coreIdx x.w.core
    let onAgent := fun (f : LFault) => exec i s = .next ((t.passBy x (x.lanes.filter (fun k => k != x.agent))).faultLanes x.w.id x.pc x.hdr
      .load [(x.agent, f)])
    let raises := fun (code : FaultCode) =>
      (¬ matrix → exec i s = .next (t.faultLanes x.w.id x.pc x.hdr .load (x.lanes.map (fun k => (k, (⟨code, 0, 0, 0, 0⟩ : LFault)))))) ∧
      (matrix → onAgent ⟨code, 0, 0, 0, 0⟩)
    (i.view.gmBad own = true → onAgent (illFault .field x.pc)) ∧
    (i.view.gmBad own = false → i.view.overBudget x.p.alloc = true → raises .budget) ∧
    (i.view.gmBad own = false → i.view.overBudget x.p.alloc = false → sysOnly → x.sys = false → raises .priv) ∧
    (i.view.gmBad own = false → i.view.overBudget x.p.alloc = false → (sysOnly → x.sys = true) → i.view.common.flag ≠ 0 →
      63 ≤ x.w.flag i.view.common.flag.toNat → exec i s = .next (t.holdWord x))
end

