-- ==== Sys2Proof/Laws/Maps.lean ====
section
/-! SUPPORT. Laws of the sparse maps that memory, cores, futures and keys are held in: reading after a write, and the canonical
form kept by a write. -/
namespace Sys2Proof.Machine

variable {α : Type} [DecidableEq α]

theorem risesFrom_mono {β : Type} {lo hi : Nat} (h : hi ≤ lo) {m : List (Nat × β)} (r : risesFrom lo m) : risesFrom hi m := by
  cases m with
  | nil => trivial
  | cons p m => exact ⟨by have := r.1; omega, r.2⟩

theorem smapFrom_rises {d : α} {lo : Nat} {m : List (Nat × α)} (h : smapFrom d lo m = true) : risesFrom lo m := by
  induction m generalizing lo with
  | nil => trivial
  | cons p m ih =>
    simp only [smapFrom, Bool.and_eq_true, decide_eq_true_eq] at h
    exact ⟨h.1.1, ih h.2⟩

theorem smapFrom_mono {d : α} {lo hi : Nat} (h : hi ≤ lo) {m : List (Nat × α)} (r : smapFrom d lo m = true) :
    smapFrom d hi m = true := by
  cases m with
  | nil => rfl
  | cons p m =>
    simp only [smapFrom, Bool.and_eq_true, decide_eq_true_eq] at r ⊢
    exact ⟨⟨by omega, r.1.2⟩, r.2⟩

omit [DecidableEq α] in
/-- Below the first key of a rising map nothing is listed. -/
theorem sget_below {d : α} {lo i : Nat} {m : List (Nat × α)} (r : risesFrom lo m) (h : i < lo) : sget d m i = d := by
  cases m with
  | nil => rfl
  | cons p m =>
    have := r.1
    simp only [sget]
    rw [if_pos (by omega)]

/-- A written map reads the new value at its key and the old values elsewhere. -/
theorem sget_sput {d : α} {lo : Nat} {m : List (Nat × α)} (r : risesFrom lo m) (i j : Nat) (v : α) :
    sget d (sput d m i v) j = if j = i then v else sget d m j := by
  induction m generalizing lo with
  | nil =>
    unfold sput
    by_cases hv : v = d
    · rw [if_pos hv]
      by_cases hj : j = i
      · rw [if_pos hj, hv]; rfl
      · rw [if_neg hj]
    · rw [if_neg hv]
      simp only [sget]
      by_cases hj : j = i
      · subst hj; simp
      · rw [if_neg hj]
        simp
  | cons p m ih =>
    obtain ⟨k, x⟩ := p
    have hm := r.2
    unfold sput
    by_cases hik : i < k
    · rw [if_pos hik]
      by_cases hv : v = d
      · rw [if_pos hv]
        by_cases hj : j = i
        · rw [if_pos hj]; subst hj; simp only [sget]; rw [if_pos hik, hv]
        · rw [if_neg hj]
      · rw [if_neg hv]
        simp only [sget]
        by_cases hj : j = i
        · subst hj; simp
        · rw [if_neg hj]
          by_cases hlt : j < i
          · rw [if_pos hlt, if_pos (by omega)]
          · rw [if_neg hlt]
    · rw [if_neg hik]
      by_cases hki : i = k
      · rw [if_pos hki]
        by_cases hv : v = d
        · rw [if_pos hv]
          by_cases hj : j = i
          · rw [if_pos hj, hv]; exact sget_below hm (by omega)
          · rw [if_neg hj]
            simp only [sget]
            by_cases hlt : j < k
            · rw [if_pos hlt]; exact sget_below hm (by omega)
            · rw [if_neg hlt, if_neg (by omega)]
        · rw [if_neg hv]
          simp only [sget]
          by_cases hj : j = i
          · rw [if_pos hj, if_neg (by omega), if_pos (by omega)]
          · rw [if_neg hj]
            by_cases hlt : j < k
            · rw [if_pos hlt, if_pos hlt]
            · rw [if_neg hlt, if_neg (by omega), if_neg hlt, if_neg (by omega)]
      · rw [if_neg hki]
        simp only [sget]
        by_cases hj : j = i
        · subst hj
          rw [if_neg hik, if_neg hki, ih hm, if_pos rfl]
          simp
        · rw [if_neg hj]
          by_cases hlt : j < k
          · rw [if_pos hlt, if_pos hlt]
          · rw [if_neg hlt, if_neg hlt]
            by_cases hjk : j = k
            · rw [if_pos hjk, if_pos hjk]
            · rw [if_neg hjk, if_neg hjk, ih hm, if_neg hj]

/-- A write keeps the canonical form. -/
theorem smapFrom_sput {d : α} {lo : Nat} {m : List (Nat × α)} (h : smapFrom d lo m = true) {i : Nat} (hi : lo ≤ i) (v : α) :
    smapFrom d lo (sput d m i v) = true := by
  induction m generalizing lo with
  | nil =>
    unfold sput
    split
    · rfl
    · simp [smapFrom, *]
  | cons p m ih =>
    obtain ⟨k, x⟩ := p
    simp only [smapFrom, Bool.and_eq_true, decide_eq_true_eq] at h
    obtain ⟨⟨h1, h2⟩, h3⟩ := h
    unfold sput
    by_cases hik : i < k
    · rw [if_pos hik]
      split
      · simp [smapFrom, h1, h2, h3]
      · simp [smapFrom, *]
    · rw [if_neg hik]
      by_cases hki : i = k
      · rw [if_pos hki]
        split
        · exact smapFrom_mono (by omega) h3
        · simp [smapFrom, *]
      · rw [if_neg hki]
        have := ih h3 (show k + 1 ≤ i by omega)
        simp [smapFrom, h1, h2, this]

/-- A write keeps the canonical form. -/
theorem smapOk_sput {d : α} {m : List (Nat × α)} (h : smapOk d m = true) (i : Nat) (v : α) : smapOk d (sput d m i v) = true :=
  smapFrom_sput h (Nat.zero_le i) v

/-- A write keeps the keys rising. -/
theorem risesFrom_sput {d : α} {lo : Nat} {m : List (Nat × α)} (h : risesFrom lo m) {i : Nat} (hi : lo ≤ i) (v : α) :
    risesFrom lo (sput d m i v) := by
  induction m generalizing lo with
  | nil =>
    unfold sput
    split
    · trivial
    · exact ⟨hi, trivial⟩
  | cons p m ih =>
    obtain ⟨k, x⟩ := p
    obtain ⟨h1, h3⟩ := h
    unfold sput
    by_cases hik : i < k
    · rw [if_pos hik]
      split
      · exact ⟨h1, h3⟩
      · exact ⟨hi, by omega, h3⟩
    · rw [if_neg hik]
      by_cases hki : i = k
      · rw [if_pos hki]
        split
        · exact risesFrom_mono (by omega) h3
        · exact ⟨h1, h3⟩
      · rw [if_neg hki]
        exact ⟨h1, ih h3 (by omega)⟩

/-- Changing the values of a map keeps its keys rising. -/
theorem risesFrom_map {β γ : Type} (f : Nat × β → γ) {lo : Nat} {m : List (Nat × β)} (h : risesFrom lo m) :
    risesFrom lo (m.map (fun p => (p.1, f p))) := by
  induction m generalizing lo with
  | nil => trivial
  | cons p m ih => exact ⟨h.1, ih h.2⟩

/-- Two canonical maps that read alike are equal (equal memories are equal data). -/
theorem smapFrom_ext {d : α} {lo : Nat} {m n : List (Nat × α)} (hm : smapFrom d lo m = true) (hn : smapFrom d lo n = true)
    (h : ∀ i, sget d m i = sget d n i) : m = n := by
  induction m generalizing lo n with
  | nil =>
    cases n with
    | nil => rfl
    | cons q n =>
      simp only [smapFrom, Bool.and_eq_true, decide_eq_true_eq] at hn
      have := h q.1
      simp [sget] at this
      exact absurd this.symm hn.1.2
  | cons p m ih =>
    simp only [smapFrom, Bool.and_eq_true, decide_eq_true_eq] at hm
    cases n with
    | nil =>
      have := h p.1
      simp [sget] at this
      exact absurd this hm.1.2
    | cons q n =>
      simp only [smapFrom, Bool.and_eq_true, decide_eq_true_eq] at hn
      have hk : p.1 = q.1 := by
        rcases Nat.lt_trichotomy p.1 q.1 with hlt | heq | hgt
        · have := h p.1
          simp [sget, hlt] at this
          exact absurd this hm.1.2
        · exact heq
        · have := h q.1
          simp [sget, hgt] at this
          exact absurd this.symm hn.1.2
      have hv : p.2 = q.2 := by
        have := h p.1
        simpa [sget, hk] using this
      have hr : m = n := by
        refine ih hm.2 (hk ▸ hn.2) (fun i => ?_)
        by_cases hi : i ≤ p.1
        · rw [sget_below (smapFrom_rises hm.2) (by omega), sget_below (smapFrom_rises hn.2) (by omega)]
        · have := h i
          simp only [sget] at this
          rw [if_neg (by omega), if_neg (by omega), if_neg (by omega), if_neg (by omega)] at this
          exact this
      rw [hr, Prod.ext hk hv]

end Sys2Proof.Machine
end

