-- ==== Sys2Proof/Laws/State.lean ====
section
/-! SUPPORT. What each update of the state leaves alone: one lemma per field and update, so that no proof unfolds a record
update; and how a lookup reads after an update. -/
namespace Sys2Proof.Machine


/-! ### `modCore` -/

@[simp] theorem modCore_mem (s : State) (c : Nat) (f : CoreSt → CoreSt) : (s.modCore c f).mem = s.mem := rfl
@[simp] theorem modCore_panels (s : State) (c : Nat) (f : CoreSt → CoreSt) : (s.modCore c f).panels = s.panels := rfl
@[simp] theorem modCore_wefts (s : State) (c : Nat) (f : CoreSt → CoreSt) : (s.modCore c f).wefts = s.wefts := rfl
@[simp] theorem modCore_ctxs (s : State) (c : Nat) (f : CoreSt → CoreSt) : (s.modCore c f).ctxs = s.ctxs := rfl
@[simp] theorem modCore_futs (s : State) (c : Nat) (f : CoreSt → CoreSt) : (s.modCore c f).futs = s.futs := rfl
@[simp] theorem modCore_deqs (s : State) (c : Nat) (f : CoreSt → CoreSt) : (s.modCore c f).deqs = s.deqs := rfl
@[simp] theorem modCore_pubs (s : State) (c : Nat) (f : CoreSt → CoreSt) : (s.modCore c f).pubs = s.pubs := rfl
@[simp] theorem modCore_shoots (s : State) (c : Nat) (f : CoreSt → CoreSt) : (s.modCore c f).shoots = s.shoots := rfl
@[simp] theorem modCore_keys (s : State) (c : Nat) (f : CoreSt → CoreSt) : (s.modCore c f).keys = s.keys := rfl
@[simp] theorem modCore_assoc (s : State) (c : Nat) (f : CoreSt → CoreSt) : (s.modCore c f).assoc = s.assoc := rfl
@[simp] theorem modCore_lqTab (s : State) (c : Nat) (f : CoreSt → CoreSt) : (s.modCore c f).lqTab = s.lqTab := rfl
@[simp] theorem modCore_lqBad (s : State) (c : Nat) (f : CoreSt → CoreSt) : (s.modCore c f).lqBad = s.lqBad := rfl
@[simp] theorem modCore_launches (s : State) (c : Nat) (f : CoreSt → CoreSt) : (s.modCore c f).launches = s.launches := rfl
@[simp] theorem modCore_aims (s : State) (c : Nat) (f : CoreSt → CoreSt) : (s.modCore c f).aims = s.aims := rfl
@[simp] theorem modCore_saved (s : State) (c : Nat) (f : CoreSt → CoreSt) : (s.modCore c f).saved = s.saved := rfl
@[simp] theorem modCore_lastCore (s : State) (c : Nat) (f : CoreSt → CoreSt) : (s.modCore c f).lastCore = s.lastCore := rfl
@[simp] theorem modCore_walks (s : State) (c : Nat) (f : CoreSt → CoreSt) : (s.modCore c f).walks = s.walks := rfl
@[simp] theorem modCore_wins (s : State) (c : Nat) (f : CoreSt → CoreSt) : (s.modCore c f).wins = s.wins := rfl
@[simp] theorem modCore_rems (s : State) (c : Nat) (f : CoreSt → CoreSt) : (s.modCore c f).rems = s.rems := rfl
@[simp] theorem modCore_inRems (s : State) (c : Nat) (f : CoreSt → CoreSt) : (s.modCore c f).inRems = s.inRems := rfl
@[simp] theorem modCore_stale (s : State) (c : Nat) (f : CoreSt → CoreSt) : (s.modCore c f).stale = s.stale := rfl
@[simp] theorem modCore_lates (s : State) (c : Nat) (f : CoreSt → CoreSt) : (s.modCore c f).lates = s.lates := rfl
@[simp] theorem modCore_credits (s : State) (c : Nat) (f : CoreSt → CoreSt) : (s.modCore c f).credits = s.credits := rfl
@[simp] theorem modCore_pdcs (s : State) (c : Nat) (f : CoreSt → CoreSt) : (s.modCore c f).pdcs = s.pdcs := rfl
@[simp] theorem modCore_rxPdcs (s : State) (c : Nat) (f : CoreSt → CoreSt) : (s.modCore c f).rxPdcs = s.rxPdcs := rfl
@[simp] theorem modCore_wire (s : State) (c : Nat) (f : CoreSt → CoreSt) : (s.modCore c f).wire = s.wire := rfl
@[simp] theorem modCore_gangs (s : State) (c : Nat) (f : CoreSt → CoreSt) : (s.modCore c f).gangs = s.gangs := rfl
@[simp] theorem modCore_fns (s : State) (c : Nat) (f : CoreSt → CoreSt) : (s.modCore c f).fns = s.fns := rfl
@[simp] theorem modCore_hostOut (s : State) (c : Nat) (f : CoreSt → CoreSt) : (s.modCore c f).hostOut = s.hostOut := rfl
@[simp] theorem modCore_atsWait (s : State) (c : Nat) (f : CoreSt → CoreSt) : (s.modCore c f).atsWait = s.atsWait := rfl
@[simp] theorem modCore_dies (s : State) (c : Nat) (f : CoreSt → CoreSt) : (s.modCore c f).dies = s.dies := rfl
@[simp] theorem modCore_pnode (s : State) (c : Nat) (f : CoreSt → CoreSt) : (s.modCore c f).pnode = s.pnode := rfl
@[simp] theorem modCore_holdover (s : State) (c : Nat) (f : CoreSt → CoreSt) : (s.modCore c f).holdover = s.holdover := rfl
@[simp] theorem modCore_boot (s : State) (c : Nat) (f : CoreSt → CoreSt) : (s.modCore c f).boot = s.boot := rfl
@[simp] theorem modCore_reports (s : State) (c : Nat) (f : CoreSt → CoreSt) : (s.modCore c f).reports = s.reports := rfl
@[simp] theorem modCore_time (s : State) (c : Nat) (f : CoreSt → CoreSt) : (s.modCore c f).time = s.time := rfl
@[simp] theorem modCore_fresh (s : State) (c : Nat) (f : CoreSt → CoreSt) : (s.modCore c f).fresh = s.fresh := rfl
@[simp] theorem modCore_nextId (s : State) (c : Nat) (f : CoreSt → CoreSt) : (s.modCore c f).nextId = s.nextId := rfl
@[simp] theorem modCore_agenda (s : State) (c : Nat) (f : CoreSt → CoreSt) : (s.modCore c f).agenda = s.agenda := rfl
@[simp] theorem modCore_turn (s : State) (c : Nat) (f : CoreSt → CoreSt) : (s.modCore c f).turn = s.turn := rfl
@[simp] theorem modCore_slot (s : State) (c : Nat) (f : CoreSt → CoreSt) : (s.modCore c f).slot = s.slot := rfl
@[simp] theorem modCore_cur (s : State) (c : Nat) (f : CoreSt → CoreSt) : (s.modCore c f).cur = s.cur := rfl
@[simp] theorem modCore_issuing (s : State) (c : Nat) (f : CoreSt → CoreSt) : (s.modCore c f).issuing = s.issuing := rfl

/-! ### `modWeft` -/

@[simp] theorem modWeft_mem (s : State) (w : Nat) (f : Weft → Weft) : (s.modWeft w f).mem = s.mem := rfl
@[simp] theorem modWeft_cores (s : State) (w : Nat) (f : Weft → Weft) : (s.modWeft w f).cores = s.cores := rfl
@[simp] theorem modWeft_panels (s : State) (w : Nat) (f : Weft → Weft) : (s.modWeft w f).panels = s.panels := rfl
@[simp] theorem modWeft_ctxs (s : State) (w : Nat) (f : Weft → Weft) : (s.modWeft w f).ctxs = s.ctxs := rfl
@[simp] theorem modWeft_futs (s : State) (w : Nat) (f : Weft → Weft) : (s.modWeft w f).futs = s.futs := rfl
@[simp] theorem modWeft_deqs (s : State) (w : Nat) (f : Weft → Weft) : (s.modWeft w f).deqs = s.deqs := rfl
@[simp] theorem modWeft_pubs (s : State) (w : Nat) (f : Weft → Weft) : (s.modWeft w f).pubs = s.pubs := rfl
@[simp] theorem modWeft_shoots (s : State) (w : Nat) (f : Weft → Weft) : (s.modWeft w f).shoots = s.shoots := rfl
@[simp] theorem modWeft_keys (s : State) (w : Nat) (f : Weft → Weft) : (s.modWeft w f).keys = s.keys := rfl
@[simp] theorem modWeft_assoc (s : State) (w : Nat) (f : Weft → Weft) : (s.modWeft w f).assoc = s.assoc := rfl
@[simp] theorem modWeft_lqTab (s : State) (w : Nat) (f : Weft → Weft) : (s.modWeft w f).lqTab = s.lqTab := rfl
@[simp] theorem modWeft_lqBad (s : State) (w : Nat) (f : Weft → Weft) : (s.modWeft w f).lqBad = s.lqBad := rfl
@[simp] theorem modWeft_launches (s : State) (w : Nat) (f : Weft → Weft) : (s.modWeft w f).launches = s.launches := rfl
@[simp] theorem modWeft_aims (s : State) (w : Nat) (f : Weft → Weft) : (s.modWeft w f).aims = s.aims := rfl
@[simp] theorem modWeft_saved (s : State) (w : Nat) (f : Weft → Weft) : (s.modWeft w f).saved = s.saved := rfl
@[simp] theorem modWeft_lastCore (s : State) (w : Nat) (f : Weft → Weft) : (s.modWeft w f).lastCore = s.lastCore := rfl
@[simp] theorem modWeft_walks (s : State) (w : Nat) (f : Weft → Weft) : (s.modWeft w f).walks = s.walks := rfl
@[simp] theorem modWeft_wins (s : State) (w : Nat) (f : Weft → Weft) : (s.modWeft w f).wins = s.wins := rfl
@[simp] theorem modWeft_rems (s : State) (w : Nat) (f : Weft → Weft) : (s.modWeft w f).rems = s.rems := rfl
@[simp] theorem modWeft_inRems (s : State) (w : Nat) (f : Weft → Weft) : (s.modWeft w f).inRems = s.inRems := rfl
@[simp] theorem modWeft_stale (s : State) (w : Nat) (f : Weft → Weft) : (s.modWeft w f).stale = s.stale := rfl
@[simp] theorem modWeft_lates (s : State) (w : Nat) (f : Weft → Weft) : (s.modWeft w f).lates = s.lates := rfl
@[simp] theorem modWeft_credits (s : State) (w : Nat) (f : Weft → Weft) : (s.modWeft w f).credits = s.credits := rfl
@[simp] theorem modWeft_pdcs (s : State) (w : Nat) (f : Weft → Weft) : (s.modWeft w f).pdcs = s.pdcs := rfl
@[simp] theorem modWeft_rxPdcs (s : State) (w : Nat) (f : Weft → Weft) : (s.modWeft w f).rxPdcs = s.rxPdcs := rfl
@[simp] theorem modWeft_wire (s : State) (w : Nat) (f : Weft → Weft) : (s.modWeft w f).wire = s.wire := rfl
@[simp] theorem modWeft_gangs (s : State) (w : Nat) (f : Weft → Weft) : (s.modWeft w f).gangs = s.gangs := rfl
@[simp] theorem modWeft_fns (s : State) (w : Nat) (f : Weft → Weft) : (s.modWeft w f).fns = s.fns := rfl
@[simp] theorem modWeft_hostOut (s : State) (w : Nat) (f : Weft → Weft) : (s.modWeft w f).hostOut = s.hostOut := rfl
@[simp] theorem modWeft_atsWait (s : State) (w : Nat) (f : Weft → Weft) : (s.modWeft w f).atsWait = s.atsWait := rfl
@[simp] theorem modWeft_dies (s : State) (w : Nat) (f : Weft → Weft) : (s.modWeft w f).dies = s.dies := rfl
@[simp] theorem modWeft_pnode (s : State) (w : Nat) (f : Weft → Weft) : (s.modWeft w f).pnode = s.pnode := rfl
@[simp] theorem modWeft_holdover (s : State) (w : Nat) (f : Weft → Weft) : (s.modWeft w f).holdover = s.holdover := rfl
@[simp] theorem modWeft_boot (s : State) (w : Nat) (f : Weft → Weft) : (s.modWeft w f).boot = s.boot := rfl
@[simp] theorem modWeft_reports (s : State) (w : Nat) (f : Weft → Weft) : (s.modWeft w f).reports = s.reports := rfl
@[simp] theorem modWeft_time (s : State) (w : Nat) (f : Weft → Weft) : (s.modWeft w f).time = s.time := rfl
@[simp] theorem modWeft_fresh (s : State) (w : Nat) (f : Weft → Weft) : (s.modWeft w f).fresh = s.fresh := rfl
@[simp] theorem modWeft_nextId (s : State) (w : Nat) (f : Weft → Weft) : (s.modWeft w f).nextId = s.nextId := rfl
@[simp] theorem modWeft_agenda (s : State) (w : Nat) (f : Weft → Weft) : (s.modWeft w f).agenda = s.agenda := rfl
@[simp] theorem modWeft_turn (s : State) (w : Nat) (f : Weft → Weft) : (s.modWeft w f).turn = s.turn := rfl
@[simp] theorem modWeft_slot (s : State) (w : Nat) (f : Weft → Weft) : (s.modWeft w f).slot = s.slot := rfl
@[simp] theorem modWeft_cur (s : State) (w : Nat) (f : Weft → Weft) : (s.modWeft w f).cur = s.cur := rfl
@[simp] theorem modWeft_issuing (s : State) (w : Nat) (f : Weft → Weft) : (s.modWeft w f).issuing = s.issuing := rfl

/-! ### `modPanel` -/

@[simp] theorem modPanel_mem (s : State) (p : Nat) (f : Panel → Panel) : (s.modPanel p f).mem = s.mem := rfl
@[simp] theorem modPanel_cores (s : State) (p : Nat) (f : Panel → Panel) : (s.modPanel p f).cores = s.cores := rfl
@[simp] theorem modPanel_wefts (s : State) (p : Nat) (f : Panel → Panel) : (s.modPanel p f).wefts = s.wefts := rfl
@[simp] theorem modPanel_ctxs (s : State) (p : Nat) (f : Panel → Panel) : (s.modPanel p f).ctxs = s.ctxs := rfl
@[simp] theorem modPanel_futs (s : State) (p : Nat) (f : Panel → Panel) : (s.modPanel p f).futs = s.futs := rfl
@[simp] theorem modPanel_deqs (s : State) (p : Nat) (f : Panel → Panel) : (s.modPanel p f).deqs = s.deqs := rfl
@[simp] theorem modPanel_pubs (s : State) (p : Nat) (f : Panel → Panel) : (s.modPanel p f).pubs = s.pubs := rfl
@[simp] theorem modPanel_shoots (s : State) (p : Nat) (f : Panel → Panel) : (s.modPanel p f).shoots = s.shoots := rfl
@[simp] theorem modPanel_keys (s : State) (p : Nat) (f : Panel → Panel) : (s.modPanel p f).keys = s.keys := rfl
@[simp] theorem modPanel_assoc (s : State) (p : Nat) (f : Panel → Panel) : (s.modPanel p f).assoc = s.assoc := rfl
@[simp] theorem modPanel_lqTab (s : State) (p : Nat) (f : Panel → Panel) : (s.modPanel p f).lqTab = s.lqTab := rfl
@[simp] theorem modPanel_lqBad (s : State) (p : Nat) (f : Panel → Panel) : (s.modPanel p f).lqBad = s.lqBad := rfl
@[simp] theorem modPanel_launches (s : State) (p : Nat) (f : Panel → Panel) : (s.modPanel p f).launches = s.launches := rfl
@[simp] theorem modPanel_aims (s : State) (p : Nat) (f : Panel → Panel) : (s.modPanel p f).aims = s.aims := rfl
@[simp] theorem modPanel_saved (s : State) (p : Nat) (f : Panel → Panel) : (s.modPanel p f).saved = s.saved := rfl
@[simp] theorem modPanel_lastCore (s : State) (p : Nat) (f : Panel → Panel) : (s.modPanel p f).lastCore = s.lastCore := rfl
@[simp] theorem modPanel_walks (s : State) (p : Nat) (f : Panel → Panel) : (s.modPanel p f).walks = s.walks := rfl
@[simp] theorem modPanel_wins (s : State) (p : Nat) (f : Panel → Panel) : (s.modPanel p f).wins = s.wins := rfl
@[simp] theorem modPanel_rems (s : State) (p : Nat) (f : Panel → Panel) : (s.modPanel p f).rems = s.rems := rfl
@[simp] theorem modPanel_inRems (s : State) (p : Nat) (f : Panel → Panel) : (s.modPanel p f).inRems = s.inRems := rfl
@[simp] theorem modPanel_stale (s : State) (p : Nat) (f : Panel → Panel) : (s.modPanel p f).stale = s.stale := rfl
@[simp] theorem modPanel_lates (s : State) (p : Nat) (f : Panel → Panel) : (s.modPanel p f).lates = s.lates := rfl
@[simp] theorem modPanel_credits (s : State) (p : Nat) (f : Panel → Panel) : (s.modPanel p f).credits = s.credits := rfl
@[simp] theorem modPanel_pdcs (s : State) (p : Nat) (f : Panel → Panel) : (s.modPanel p f).pdcs = s.pdcs := rfl
@[simp] theorem modPanel_rxPdcs (s : State) (p : Nat) (f : Panel → Panel) : (s.modPanel p f).rxPdcs = s.rxPdcs := rfl
@[simp] theorem modPanel_wire (s : State) (p : Nat) (f : Panel → Panel) : (s.modPanel p f).wire = s.wire := rfl
@[simp] theorem modPanel_gangs (s : State) (p : Nat) (f : Panel → Panel) : (s.modPanel p f).gangs = s.gangs := rfl
@[simp] theorem modPanel_fns (s : State) (p : Nat) (f : Panel → Panel) : (s.modPanel p f).fns = s.fns := rfl
@[simp] theorem modPanel_hostOut (s : State) (p : Nat) (f : Panel → Panel) : (s.modPanel p f).hostOut = s.hostOut := rfl
@[simp] theorem modPanel_atsWait (s : State) (p : Nat) (f : Panel → Panel) : (s.modPanel p f).atsWait = s.atsWait := rfl
@[simp] theorem modPanel_dies (s : State) (p : Nat) (f : Panel → Panel) : (s.modPanel p f).dies = s.dies := rfl
@[simp] theorem modPanel_pnode (s : State) (p : Nat) (f : Panel → Panel) : (s.modPanel p f).pnode = s.pnode := rfl
@[simp] theorem modPanel_holdover (s : State) (p : Nat) (f : Panel → Panel) : (s.modPanel p f).holdover = s.holdover := rfl
@[simp] theorem modPanel_boot (s : State) (p : Nat) (f : Panel → Panel) : (s.modPanel p f).boot = s.boot := rfl
@[simp] theorem modPanel_reports (s : State) (p : Nat) (f : Panel → Panel) : (s.modPanel p f).reports = s.reports := rfl
@[simp] theorem modPanel_time (s : State) (p : Nat) (f : Panel → Panel) : (s.modPanel p f).time = s.time := rfl
@[simp] theorem modPanel_fresh (s : State) (p : Nat) (f : Panel → Panel) : (s.modPanel p f).fresh = s.fresh := rfl
@[simp] theorem modPanel_nextId (s : State) (p : Nat) (f : Panel → Panel) : (s.modPanel p f).nextId = s.nextId := rfl
@[simp] theorem modPanel_agenda (s : State) (p : Nat) (f : Panel → Panel) : (s.modPanel p f).agenda = s.agenda := rfl
@[simp] theorem modPanel_turn (s : State) (p : Nat) (f : Panel → Panel) : (s.modPanel p f).turn = s.turn := rfl
@[simp] theorem modPanel_slot (s : State) (p : Nat) (f : Panel → Panel) : (s.modPanel p f).slot = s.slot := rfl
@[simp] theorem modPanel_cur (s : State) (p : Nat) (f : Panel → Panel) : (s.modPanel p f).cur = s.cur := rfl
@[simp] theorem modPanel_issuing (s : State) (p : Nat) (f : Panel → Panel) : (s.modPanel p f).issuing = s.issuing := rfl

/-! ### `modCtx` -/

@[simp] theorem modCtx_mem (s : State) (c : CtxId) (f : Ctx → Ctx) : (s.modCtx c f).mem = s.mem := rfl
@[simp] theorem modCtx_cores (s : State) (c : CtxId) (f : Ctx → Ctx) : (s.modCtx c f).cores = s.cores := rfl
@[simp] theorem modCtx_panels (s : State) (c : CtxId) (f : Ctx → Ctx) : (s.modCtx c f).panels = s.panels := rfl
@[simp] theorem modCtx_wefts (s : State) (c : CtxId) (f : Ctx → Ctx) : (s.modCtx c f).wefts = s.wefts := rfl
@[simp] theorem modCtx_futs (s : State) (c : CtxId) (f : Ctx → Ctx) : (s.modCtx c f).futs = s.futs := rfl
@[simp] theorem modCtx_deqs (s : State) (c : CtxId) (f : Ctx → Ctx) : (s.modCtx c f).deqs = s.deqs := rfl
@[simp] theorem modCtx_pubs (s : State) (c : CtxId) (f : Ctx → Ctx) : (s.modCtx c f).pubs = s.pubs := rfl
@[simp] theorem modCtx_shoots (s : State) (c : CtxId) (f : Ctx → Ctx) : (s.modCtx c f).shoots = s.shoots := rfl
@[simp] theorem modCtx_keys (s : State) (c : CtxId) (f : Ctx → Ctx) : (s.modCtx c f).keys = s.keys := rfl
@[simp] theorem modCtx_assoc (s : State) (c : CtxId) (f : Ctx → Ctx) : (s.modCtx c f).assoc = s.assoc := rfl
@[simp] theorem modCtx_lqTab (s : State) (c : CtxId) (f : Ctx → Ctx) : (s.modCtx c f).lqTab = s.lqTab := rfl
@[simp] theorem modCtx_lqBad (s : State) (c : CtxId) (f : Ctx → Ctx) : (s.modCtx c f).lqBad = s.lqBad := rfl
@[simp] theorem modCtx_launches (s : State) (c : CtxId) (f : Ctx → Ctx) : (s.modCtx c f).launches = s.launches := rfl
@[simp] theorem modCtx_aims (s : State) (c : CtxId) (f : Ctx → Ctx) : (s.modCtx c f).aims = s.aims := rfl
@[simp] theorem modCtx_saved (s : State) (c : CtxId) (f : Ctx → Ctx) : (s.modCtx c f).saved = s.saved := rfl
@[simp] theorem modCtx_lastCore (s : State) (c : CtxId) (f : Ctx → Ctx) : (s.modCtx c f).lastCore = s.lastCore := rfl
@[simp] theorem modCtx_walks (s : State) (c : CtxId) (f : Ctx → Ctx) : (s.modCtx c f).walks = s.walks := rfl
@[simp] theorem modCtx_wins (s : State) (c : CtxId) (f : Ctx → Ctx) : (s.modCtx c f).wins = s.wins := rfl
@[simp] theorem modCtx_rems (s : State) (c : CtxId) (f : Ctx → Ctx) : (s.modCtx c f).rems = s.rems := rfl
@[simp] theorem modCtx_inRems (s : State) (c : CtxId) (f : Ctx → Ctx) : (s.modCtx c f).inRems = s.inRems := rfl
@[simp] theorem modCtx_stale (s : State) (c : CtxId) (f : Ctx → Ctx) : (s.modCtx c f).stale = s.stale := rfl
@[simp] theorem modCtx_lates (s : State) (c : CtxId) (f : Ctx → Ctx) : (s.modCtx c f).lates = s.lates := rfl
@[simp] theorem modCtx_credits (s : State) (c : CtxId) (f : Ctx → Ctx) : (s.modCtx c f).credits = s.credits := rfl
@[simp] theorem modCtx_pdcs (s : State) (c : CtxId) (f : Ctx → Ctx) : (s.modCtx c f).pdcs = s.pdcs := rfl
@[simp] theorem modCtx_rxPdcs (s : State) (c : CtxId) (f : Ctx → Ctx) : (s.modCtx c f).rxPdcs = s.rxPdcs := rfl
@[simp] theorem modCtx_wire (s : State) (c : CtxId) (f : Ctx → Ctx) : (s.modCtx c f).wire = s.wire := rfl
@[simp] theorem modCtx_gangs (s : State) (c : CtxId) (f : Ctx → Ctx) : (s.modCtx c f).gangs = s.gangs := rfl
@[simp] theorem modCtx_fns (s : State) (c : CtxId) (f : Ctx → Ctx) : (s.modCtx c f).fns = s.fns := rfl
@[simp] theorem modCtx_hostOut (s : State) (c : CtxId) (f : Ctx → Ctx) : (s.modCtx c f).hostOut = s.hostOut := rfl
@[simp] theorem modCtx_atsWait (s : State) (c : CtxId) (f : Ctx → Ctx) : (s.modCtx c f).atsWait = s.atsWait := rfl
@[simp] theorem modCtx_dies (s : State) (c : CtxId) (f : Ctx → Ctx) : (s.modCtx c f).dies = s.dies := rfl
@[simp] theorem modCtx_pnode (s : State) (c : CtxId) (f : Ctx → Ctx) : (s.modCtx c f).pnode = s.pnode := rfl
@[simp] theorem modCtx_holdover (s : State) (c : CtxId) (f : Ctx → Ctx) : (s.modCtx c f).holdover = s.holdover := rfl
@[simp] theorem modCtx_boot (s : State) (c : CtxId) (f : Ctx → Ctx) : (s.modCtx c f).boot = s.boot := rfl
@[simp] theorem modCtx_reports (s : State) (c : CtxId) (f : Ctx → Ctx) : (s.modCtx c f).reports = s.reports := rfl
@[simp] theorem modCtx_time (s : State) (c : CtxId) (f : Ctx → Ctx) : (s.modCtx c f).time = s.time := rfl
@[simp] theorem modCtx_fresh (s : State) (c : CtxId) (f : Ctx → Ctx) : (s.modCtx c f).fresh = s.fresh := rfl
@[simp] theorem modCtx_nextId (s : State) (c : CtxId) (f : Ctx → Ctx) : (s.modCtx c f).nextId = s.nextId := rfl
@[simp] theorem modCtx_agenda (s : State) (c : CtxId) (f : Ctx → Ctx) : (s.modCtx c f).agenda = s.agenda := rfl
@[simp] theorem modCtx_turn (s : State) (c : CtxId) (f : Ctx → Ctx) : (s.modCtx c f).turn = s.turn := rfl
@[simp] theorem modCtx_slot (s : State) (c : CtxId) (f : Ctx → Ctx) : (s.modCtx c f).slot = s.slot := rfl
@[simp] theorem modCtx_cur (s : State) (c : CtxId) (f : Ctx → Ctx) : (s.modCtx c f).cur = s.cur := rfl
@[simp] theorem modCtx_issuing (s : State) (c : CtxId) (f : Ctx → Ctx) : (s.modCtx c f).issuing = s.issuing := rfl

/-! ### `modDie` -/

@[simp] theorem modDie_mem (s : State) (d : Nat) (f : DieSt → DieSt) : (s.modDie d f).mem = s.mem := rfl
@[simp] theorem modDie_cores (s : State) (d : Nat) (f : DieSt → DieSt) : (s.modDie d f).cores = s.cores := rfl
@[simp] theorem modDie_panels (s : State) (d : Nat) (f : DieSt → DieSt) : (s.modDie d f).panels = s.panels := rfl
@[simp] theorem modDie_wefts (s : State) (d : Nat) (f : DieSt → DieSt) : (s.modDie d f).wefts = s.wefts := rfl
@[simp] theorem modDie_ctxs (s : State) (d : Nat) (f : DieSt → DieSt) : (s.modDie d f).ctxs = s.ctxs := rfl
@[simp] theorem modDie_futs (s : State) (d : Nat) (f : DieSt → DieSt) : (s.modDie d f).futs = s.futs := rfl
@[simp] theorem modDie_deqs (s : State) (d : Nat) (f : DieSt → DieSt) : (s.modDie d f).deqs = s.deqs := rfl
@[simp] theorem modDie_pubs (s : State) (d : Nat) (f : DieSt → DieSt) : (s.modDie d f).pubs = s.pubs := rfl
@[simp] theorem modDie_shoots (s : State) (d : Nat) (f : DieSt → DieSt) : (s.modDie d f).shoots = s.shoots := rfl
@[simp] theorem modDie_keys (s : State) (d : Nat) (f : DieSt → DieSt) : (s.modDie d f).keys = s.keys := rfl
@[simp] theorem modDie_assoc (s : State) (d : Nat) (f : DieSt → DieSt) : (s.modDie d f).assoc = s.assoc := rfl
@[simp] theorem modDie_lqTab (s : State) (d : Nat) (f : DieSt → DieSt) : (s.modDie d f).lqTab = s.lqTab := rfl
@[simp] theorem modDie_lqBad (s : State) (d : Nat) (f : DieSt → DieSt) : (s.modDie d f).lqBad = s.lqBad := rfl
@[simp] theorem modDie_launches (s : State) (d : Nat) (f : DieSt → DieSt) : (s.modDie d f).launches = s.launches := rfl
@[simp] theorem modDie_aims (s : State) (d : Nat) (f : DieSt → DieSt) : (s.modDie d f).aims = s.aims := rfl
@[simp] theorem modDie_saved (s : State) (d : Nat) (f : DieSt → DieSt) : (s.modDie d f).saved = s.saved := rfl
@[simp] theorem modDie_lastCore (s : State) (d : Nat) (f : DieSt → DieSt) : (s.modDie d f).lastCore = s.lastCore := rfl
@[simp] theorem modDie_walks (s : State) (d : Nat) (f : DieSt → DieSt) : (s.modDie d f).walks = s.walks := rfl
@[simp] theorem modDie_wins (s : State) (d : Nat) (f : DieSt → DieSt) : (s.modDie d f).wins = s.wins := rfl
@[simp] theorem modDie_rems (s : State) (d : Nat) (f : DieSt → DieSt) : (s.modDie d f).rems = s.rems := rfl
@[simp] theorem modDie_inRems (s : State) (d : Nat) (f : DieSt → DieSt) : (s.modDie d f).inRems = s.inRems := rfl
@[simp] theorem modDie_stale (s : State) (d : Nat) (f : DieSt → DieSt) : (s.modDie d f).stale = s.stale := rfl
@[simp] theorem modDie_lates (s : State) (d : Nat) (f : DieSt → DieSt) : (s.modDie d f).lates = s.lates := rfl
@[simp] theorem modDie_credits (s : State) (d : Nat) (f : DieSt → DieSt) : (s.modDie d f).credits = s.credits := rfl
@[simp] theorem modDie_pdcs (s : State) (d : Nat) (f : DieSt → DieSt) : (s.modDie d f).pdcs = s.pdcs := rfl
@[simp] theorem modDie_rxPdcs (s : State) (d : Nat) (f : DieSt → DieSt) : (s.modDie d f).rxPdcs = s.rxPdcs := rfl
@[simp] theorem modDie_wire (s : State) (d : Nat) (f : DieSt → DieSt) : (s.modDie d f).wire = s.wire := rfl
@[simp] theorem modDie_gangs (s : State) (d : Nat) (f : DieSt → DieSt) : (s.modDie d f).gangs = s.gangs := rfl
@[simp] theorem modDie_fns (s : State) (d : Nat) (f : DieSt → DieSt) : (s.modDie d f).fns = s.fns := rfl
@[simp] theorem modDie_hostOut (s : State) (d : Nat) (f : DieSt → DieSt) : (s.modDie d f).hostOut = s.hostOut := rfl
@[simp] theorem modDie_atsWait (s : State) (d : Nat) (f : DieSt → DieSt) : (s.modDie d f).atsWait = s.atsWait := rfl
@[simp] theorem modDie_pnode (s : State) (d : Nat) (f : DieSt → DieSt) : (s.modDie d f).pnode = s.pnode := rfl
@[simp] theorem modDie_holdover (s : State) (d : Nat) (f : DieSt → DieSt) : (s.modDie d f).holdover = s.holdover := rfl
@[simp] theorem modDie_boot (s : State) (d : Nat) (f : DieSt → DieSt) : (s.modDie d f).boot = s.boot := rfl
@[simp] theorem modDie_reports (s : State) (d : Nat) (f : DieSt → DieSt) : (s.modDie d f).reports = s.reports := rfl
@[simp] theorem modDie_time (s : State) (d : Nat) (f : DieSt → DieSt) : (s.modDie d f).time = s.time := rfl
@[simp] theorem modDie_fresh (s : State) (d : Nat) (f : DieSt → DieSt) : (s.modDie d f).fresh = s.fresh := rfl
@[simp] theorem modDie_nextId (s : State) (d : Nat) (f : DieSt → DieSt) : (s.modDie d f).nextId = s.nextId := rfl
@[simp] theorem modDie_agenda (s : State) (d : Nat) (f : DieSt → DieSt) : (s.modDie d f).agenda = s.agenda := rfl
@[simp] theorem modDie_turn (s : State) (d : Nat) (f : DieSt → DieSt) : (s.modDie d f).turn = s.turn := rfl
@[simp] theorem modDie_slot (s : State) (d : Nat) (f : DieSt → DieSt) : (s.modDie d f).slot = s.slot := rfl
@[simp] theorem modDie_cur (s : State) (d : Nat) (f : DieSt → DieSt) : (s.modDie d f).cur = s.cur := rfl
@[simp] theorem modDie_issuing (s : State) (d : Nat) (f : DieSt → DieSt) : (s.modDie d f).issuing = s.issuing := rfl

/-! ### `modFn` -/

@[simp] theorem modFn_mem (s : State) (n : Nat) (f : Fn → Fn) : (s.modFn n f).mem = s.mem := rfl
@[simp] theorem modFn_cores (s : State) (n : Nat) (f : Fn → Fn) : (s.modFn n f).cores = s.cores := rfl
@[simp] theorem modFn_panels (s : State) (n : Nat) (f : Fn → Fn) : (s.modFn n f).panels = s.panels := rfl
@[simp] theorem modFn_wefts (s : State) (n : Nat) (f : Fn → Fn) : (s.modFn n f).wefts = s.wefts := rfl
@[simp] theorem modFn_ctxs (s : State) (n : Nat) (f : Fn → Fn) : (s.modFn n f).ctxs = s.ctxs := rfl
@[simp] theorem modFn_futs (s : State) (n : Nat) (f : Fn → Fn) : (s.modFn n f).futs = s.futs := rfl
@[simp] theorem modFn_deqs (s : State) (n : Nat) (f : Fn → Fn) : (s.modFn n f).deqs = s.deqs := rfl
@[simp] theorem modFn_pubs (s : State) (n : Nat) (f : Fn → Fn) : (s.modFn n f).pubs = s.pubs := rfl
@[simp] theorem modFn_shoots (s : State) (n : Nat) (f : Fn → Fn) : (s.modFn n f).shoots = s.shoots := rfl
@[simp] theorem modFn_keys (s : State) (n : Nat) (f : Fn → Fn) : (s.modFn n f).keys = s.keys := rfl
@[simp] theorem modFn_assoc (s : State) (n : Nat) (f : Fn → Fn) : (s.modFn n f).assoc = s.assoc := rfl
@[simp] theorem modFn_lqTab (s : State) (n : Nat) (f : Fn → Fn) : (s.modFn n f).lqTab = s.lqTab := rfl
@[simp] theorem modFn_lqBad (s : State) (n : Nat) (f : Fn → Fn) : (s.modFn n f).lqBad = s.lqBad := rfl
@[simp] theorem modFn_launches (s : State) (n : Nat) (f : Fn → Fn) : (s.modFn n f).launches = s.launches := rfl
@[simp] theorem modFn_aims (s : State) (n : Nat) (f : Fn → Fn) : (s.modFn n f).aims = s.aims := rfl
@[simp] theorem modFn_saved (s : State) (n : Nat) (f : Fn → Fn) : (s.modFn n f).saved = s.saved := rfl
@[simp] theorem modFn_lastCore (s : State) (n : Nat) (f : Fn → Fn) : (s.modFn n f).lastCore = s.lastCore := rfl
@[simp] theorem modFn_walks (s : State) (n : Nat) (f : Fn → Fn) : (s.modFn n f).walks = s.walks := rfl
@[simp] theorem modFn_wins (s : State) (n : Nat) (f : Fn → Fn) : (s.modFn n f).wins = s.wins := rfl
@[simp] theorem modFn_rems (s : State) (n : Nat) (f : Fn → Fn) : (s.modFn n f).rems = s.rems := rfl
@[simp] theorem modFn_inRems (s : State) (n : Nat) (f : Fn → Fn) : (s.modFn n f).inRems = s.inRems := rfl
@[simp] theorem modFn_stale (s : State) (n : Nat) (f : Fn → Fn) : (s.modFn n f).stale = s.stale := rfl
@[simp] theorem modFn_lates (s : State) (n : Nat) (f : Fn → Fn) : (s.modFn n f).lates = s.lates := rfl
@[simp] theorem modFn_credits (s : State) (n : Nat) (f : Fn → Fn) : (s.modFn n f).credits = s.credits := rfl
@[simp] theorem modFn_pdcs (s : State) (n : Nat) (f : Fn → Fn) : (s.modFn n f).pdcs = s.pdcs := rfl
@[simp] theorem modFn_rxPdcs (s : State) (n : Nat) (f : Fn → Fn) : (s.modFn n f).rxPdcs = s.rxPdcs := rfl
@[simp] theorem modFn_wire (s : State) (n : Nat) (f : Fn → Fn) : (s.modFn n f).wire = s.wire := rfl
@[simp] theorem modFn_gangs (s : State) (n : Nat) (f : Fn → Fn) : (s.modFn n f).gangs = s.gangs := rfl
@[simp] theorem modFn_hostOut (s : State) (n : Nat) (f : Fn → Fn) : (s.modFn n f).hostOut = s.hostOut := rfl
@[simp] theorem modFn_atsWait (s : State) (n : Nat) (f : Fn → Fn) : (s.modFn n f).atsWait = s.atsWait := rfl
@[simp] theorem modFn_dies (s : State) (n : Nat) (f : Fn → Fn) : (s.modFn n f).dies = s.dies := rfl
@[simp] theorem modFn_pnode (s : State) (n : Nat) (f : Fn → Fn) : (s.modFn n f).pnode = s.pnode := rfl
@[simp] theorem modFn_holdover (s : State) (n : Nat) (f : Fn → Fn) : (s.modFn n f).holdover = s.holdover := rfl
@[simp] theorem modFn_boot (s : State) (n : Nat) (f : Fn → Fn) : (s.modFn n f).boot = s.boot := rfl
@[simp] theorem modFn_reports (s : State) (n : Nat) (f : Fn → Fn) : (s.modFn n f).reports = s.reports := rfl
@[simp] theorem modFn_time (s : State) (n : Nat) (f : Fn → Fn) : (s.modFn n f).time = s.time := rfl
@[simp] theorem modFn_fresh (s : State) (n : Nat) (f : Fn → Fn) : (s.modFn n f).fresh = s.fresh := rfl
@[simp] theorem modFn_nextId (s : State) (n : Nat) (f : Fn → Fn) : (s.modFn n f).nextId = s.nextId := rfl
@[simp] theorem modFn_agenda (s : State) (n : Nat) (f : Fn → Fn) : (s.modFn n f).agenda = s.agenda := rfl
@[simp] theorem modFn_turn (s : State) (n : Nat) (f : Fn → Fn) : (s.modFn n f).turn = s.turn := rfl
@[simp] theorem modFn_slot (s : State) (n : Nat) (f : Fn → Fn) : (s.modFn n f).slot = s.slot := rfl
@[simp] theorem modFn_cur (s : State) (n : Nat) (f : Fn → Fn) : (s.modFn n f).cur = s.cur := rfl
@[simp] theorem modFn_issuing (s : State) (n : Nat) (f : Fn → Fn) : (s.modFn n f).issuing = s.issuing := rfl

/-! ### `modLane` -/

@[simp] theorem modLane_mem (s : State) (w i : Nat) (f : Lane → Lane) : (s.modLane w i f).mem = s.mem := rfl
@[simp] theorem modLane_cores (s : State) (w i : Nat) (f : Lane → Lane) : (s.modLane w i f).cores = s.cores := rfl
@[simp] theorem modLane_panels (s : State) (w i : Nat) (f : Lane → Lane) : (s.modLane w i f).panels = s.panels := rfl
@[simp] theorem modLane_ctxs (s : State) (w i : Nat) (f : Lane → Lane) : (s.modLane w i f).ctxs = s.ctxs := rfl
@[simp] theorem modLane_futs (s : State) (w i : Nat) (f : Lane → Lane) : (s.modLane w i f).futs = s.futs := rfl
@[simp] theorem modLane_deqs (s : State) (w i : Nat) (f : Lane → Lane) : (s.modLane w i f).deqs = s.deqs := rfl
@[simp] theorem modLane_pubs (s : State) (w i : Nat) (f : Lane → Lane) : (s.modLane w i f).pubs = s.pubs := rfl
@[simp] theorem modLane_shoots (s : State) (w i : Nat) (f : Lane → Lane) : (s.modLane w i f).shoots = s.shoots := rfl
@[simp] theorem modLane_keys (s : State) (w i : Nat) (f : Lane → Lane) : (s.modLane w i f).keys = s.keys := rfl
@[simp] theorem modLane_assoc (s : State) (w i : Nat) (f : Lane → Lane) : (s.modLane w i f).assoc = s.assoc := rfl
@[simp] theorem modLane_lqTab (s : State) (w i : Nat) (f : Lane → Lane) : (s.modLane w i f).lqTab = s.lqTab := rfl
@[simp] theorem modLane_lqBad (s : State) (w i : Nat) (f : Lane → Lane) : (s.modLane w i f).lqBad = s.lqBad := rfl
@[simp] theorem modLane_launches (s : State) (w i : Nat) (f : Lane → Lane) : (s.modLane w i f).launches = s.launches := rfl
@[simp] theorem modLane_aims (s : State) (w i : Nat) (f : Lane → Lane) : (s.modLane w i f).aims = s.aims := rfl
@[simp] theorem modLane_saved (s : State) (w i : Nat) (f : Lane → Lane) : (s.modLane w i f).saved = s.saved := rfl
@[simp] theorem modLane_lastCore (s : State) (w i : Nat) (f : Lane → Lane) : (s.modLane w i f).lastCore = s.lastCore := rfl
@[simp] theorem modLane_walks (s : State) (w i : Nat) (f : Lane → Lane) : (s.modLane w i f).walks = s.walks := rfl
@[simp] theorem modLane_wins (s : State) (w i : Nat) (f : Lane → Lane) : (s.modLane w i f).wins = s.wins := rfl
@[simp] theorem modLane_rems (s : State) (w i : Nat) (f : Lane → Lane) : (s.modLane w i f).rems = s.rems := rfl
@[simp] theorem modLane_inRems (s : State) (w i : Nat) (f : Lane → Lane) : (s.modLane w i f).inRems = s.inRems := rfl
@[simp] theorem modLane_stale (s : State) (w i : Nat) (f : Lane → Lane) : (s.modLane w i f).stale = s.stale := rfl
@[simp] theorem modLane_lates (s : State) (w i : Nat) (f : Lane → Lane) : (s.modLane w i f).lates = s.lates := rfl
@[simp] theorem modLane_credits (s : State) (w i : Nat) (f : Lane → Lane) : (s.modLane w i f).credits = s.credits := rfl
@[simp] theorem modLane_pdcs (s : State) (w i : Nat) (f : Lane → Lane) : (s.modLane w i f).pdcs = s.pdcs := rfl
@[simp] theorem modLane_rxPdcs (s : State) (w i : Nat) (f : Lane → Lane) : (s.modLane w i f).rxPdcs = s.rxPdcs := rfl
@[simp] theorem modLane_wire (s : State) (w i : Nat) (f : Lane → Lane) : (s.modLane w i f).wire = s.wire := rfl
@[simp] theorem modLane_gangs (s : State) (w i : Nat) (f : Lane → Lane) : (s.modLane w i f).gangs = s.gangs := rfl
@[simp] theorem modLane_fns (s : State) (w i : Nat) (f : Lane → Lane) : (s.modLane w i f).fns = s.fns := rfl
@[simp] theorem modLane_hostOut (s : State) (w i : Nat) (f : Lane → Lane) : (s.modLane w i f).hostOut = s.hostOut := rfl
@[simp] theorem modLane_atsWait (s : State) (w i : Nat) (f : Lane → Lane) : (s.modLane w i f).atsWait = s.atsWait := rfl
@[simp] theorem modLane_dies (s : State) (w i : Nat) (f : Lane → Lane) : (s.modLane w i f).dies = s.dies := rfl
@[simp] theorem modLane_pnode (s : State) (w i : Nat) (f : Lane → Lane) : (s.modLane w i f).pnode = s.pnode := rfl
@[simp] theorem modLane_holdover (s : State) (w i : Nat) (f : Lane → Lane) : (s.modLane w i f).holdover = s.holdover := rfl
@[simp] theorem modLane_boot (s : State) (w i : Nat) (f : Lane → Lane) : (s.modLane w i f).boot = s.boot := rfl
@[simp] theorem modLane_reports (s : State) (w i : Nat) (f : Lane → Lane) : (s.modLane w i f).reports = s.reports := rfl
@[simp] theorem modLane_time (s : State) (w i : Nat) (f : Lane → Lane) : (s.modLane w i f).time = s.time := rfl
@[simp] theorem modLane_fresh (s : State) (w i : Nat) (f : Lane → Lane) : (s.modLane w i f).fresh = s.fresh := rfl
@[simp] theorem modLane_nextId (s : State) (w i : Nat) (f : Lane → Lane) : (s.modLane w i f).nextId = s.nextId := rfl
@[simp] theorem modLane_agenda (s : State) (w i : Nat) (f : Lane → Lane) : (s.modLane w i f).agenda = s.agenda := rfl
@[simp] theorem modLane_turn (s : State) (w i : Nat) (f : Lane → Lane) : (s.modLane w i f).turn = s.turn := rfl
@[simp] theorem modLane_slot (s : State) (w i : Nat) (f : Lane → Lane) : (s.modLane w i f).slot = s.slot := rfl
@[simp] theorem modLane_cur (s : State) (w i : Nat) (f : Lane → Lane) : (s.modLane w i f).cur = s.cur := rfl
@[simp] theorem modLane_issuing (s : State) (w i : Nat) (f : Lane → Lane) : (s.modLane w i f).issuing = s.issuing := rfl

/-! ### `modCount` -/

@[simp] theorem modCount_mem (s : State) (c : CtxId) (n : Nat) (f : Nat → Nat) : (s.modCount c n f).mem = s.mem := rfl
@[simp] theorem modCount_cores (s : State) (c : CtxId) (n : Nat) (f : Nat → Nat) : (s.modCount c n f).cores = s.cores := rfl
@[simp] theorem modCount_panels (s : State) (c : CtxId) (n : Nat) (f : Nat → Nat) : (s.modCount c n f).panels = s.panels := rfl
@[simp] theorem modCount_wefts (s : State) (c : CtxId) (n : Nat) (f : Nat → Nat) : (s.modCount c n f).wefts = s.wefts := rfl
@[simp] theorem modCount_futs (s : State) (c : CtxId) (n : Nat) (f : Nat → Nat) : (s.modCount c n f).futs = s.futs := rfl
@[simp] theorem modCount_deqs (s : State) (c : CtxId) (n : Nat) (f : Nat → Nat) : (s.modCount c n f).deqs = s.deqs := rfl
@[simp] theorem modCount_pubs (s : State) (c : CtxId) (n : Nat) (f : Nat → Nat) : (s.modCount c n f).pubs = s.pubs := rfl
@[simp] theorem modCount_shoots (s : State) (c : CtxId) (n : Nat) (f : Nat → Nat) : (s.modCount c n f).shoots = s.shoots := rfl
@[simp] theorem modCount_keys (s : State) (c : CtxId) (n : Nat) (f : Nat → Nat) : (s.modCount c n f).keys = s.keys := rfl
@[simp] theorem modCount_assoc (s : State) (c : CtxId) (n : Nat) (f : Nat → Nat) : (s.modCount c n f).assoc = s.assoc := rfl
@[simp] theorem modCount_lqTab (s : State) (c : CtxId) (n : Nat) (f : Nat → Nat) : (s.modCount c n f).lqTab = s.lqTab := rfl
@[simp] theorem modCount_lqBad (s : State) (c : CtxId) (n : Nat) (f : Nat → Nat) : (s.modCount c n f).lqBad = s.lqBad := rfl
@[simp] theorem modCount_launches (s : State) (c : CtxId) (n : Nat) (f : Nat → Nat) : (s.modCount c n f).launches = s.launches := rfl
@[simp] theorem modCount_aims (s : State) (c : CtxId) (n : Nat) (f : Nat → Nat) : (s.modCount c n f).aims = s.aims := rfl
@[simp] theorem modCount_saved (s : State) (c : CtxId) (n : Nat) (f : Nat → Nat) : (s.modCount c n f).saved = s.saved := rfl
@[simp] theorem modCount_lastCore (s : State) (c : CtxId) (n : Nat) (f : Nat → Nat) : (s.modCount c n f).lastCore = s.lastCore := rfl
@[simp] theorem modCount_walks (s : State) (c : CtxId) (n : Nat) (f : Nat → Nat) : (s.modCount c n f).walks = s.walks := rfl
@[simp] theorem modCount_wins (s : State) (c : CtxId) (n : Nat) (f : Nat → Nat) : (s.modCount c n f).wins = s.wins := rfl
@[simp] theorem modCount_rems (s : State) (c : CtxId) (n : Nat) (f : Nat → Nat) : (s.modCount c n f).rems = s.rems := rfl
@[simp] theorem modCount_inRems (s : State) (c : CtxId) (n : Nat) (f : Nat → Nat) : (s.modCount c n f).inRems = s.inRems := rfl
@[simp] theorem modCount_stale (s : State) (c : CtxId) (n : Nat) (f : Nat → Nat) : (s.modCount c n f).stale = s.stale := rfl
@[simp] theorem modCount_lates (s : State) (c : CtxId) (n : Nat) (f : Nat → Nat) : (s.modCount c n f).lates = s.lates := rfl
@[simp] theorem modCount_credits (s : State) (c : CtxId) (n : Nat) (f : Nat → Nat) : (s.modCount c n f).credits = s.credits := rfl
@[simp] theorem modCount_pdcs (s : State) (c : CtxId) (n : Nat) (f : Nat → Nat) : (s.modCount c n f).pdcs = s.pdcs := rfl
@[simp] theorem modCount_rxPdcs (s : State) (c : CtxId) (n : Nat) (f : Nat → Nat) : (s.modCount c n f).rxPdcs = s.rxPdcs := rfl
@[simp] theorem modCount_wire (s : State) (c : CtxId) (n : Nat) (f : Nat → Nat) : (s.modCount c n f).wire = s.wire := rfl
@[simp] theorem modCount_gangs (s : State) (c : CtxId) (n : Nat) (f : Nat → Nat) : (s.modCount c n f).gangs = s.gangs := rfl
@[simp] theorem modCount_fns (s : State) (c : CtxId) (n : Nat) (f : Nat → Nat) : (s.modCount c n f).fns = s.fns := rfl
@[simp] theorem modCount_hostOut (s : State) (c : CtxId) (n : Nat) (f : Nat → Nat) : (s.modCount c n f).hostOut = s.hostOut := rfl
@[simp] theorem modCount_atsWait (s : State) (c : CtxId) (n : Nat) (f : Nat → Nat) : (s.modCount c n f).atsWait = s.atsWait := rfl
@[simp] theorem modCount_dies (s : State) (c : CtxId) (n : Nat) (f : Nat → Nat) : (s.modCount c n f).dies = s.dies := rfl
@[simp] theorem modCount_pnode (s : State) (c : CtxId) (n : Nat) (f : Nat → Nat) : (s.modCount c n f).pnode = s.pnode := rfl
@[simp] theorem modCount_holdover (s : State) (c : CtxId) (n : Nat) (f : Nat → Nat) : (s.modCount c n f).holdover = s.holdover := rfl
@[simp] theorem modCount_boot (s : State) (c : CtxId) (n : Nat) (f : Nat → Nat) : (s.modCount c n f).boot = s.boot := rfl
@[simp] theorem modCount_reports (s : State) (c : CtxId) (n : Nat) (f : Nat → Nat) : (s.modCount c n f).reports = s.reports := rfl
@[simp] theorem modCount_time (s : State) (c : CtxId) (n : Nat) (f : Nat → Nat) : (s.modCount c n f).time = s.time := rfl
@[simp] theorem modCount_fresh (s : State) (c : CtxId) (n : Nat) (f : Nat → Nat) : (s.modCount c n f).fresh = s.fresh := rfl
@[simp] theorem modCount_nextId (s : State) (c : CtxId) (n : Nat) (f : Nat → Nat) : (s.modCount c n f).nextId = s.nextId := rfl
@[simp] theorem modCount_agenda (s : State) (c : CtxId) (n : Nat) (f : Nat → Nat) : (s.modCount c n f).agenda = s.agenda := rfl
@[simp] theorem modCount_turn (s : State) (c : CtxId) (n : Nat) (f : Nat → Nat) : (s.modCount c n f).turn = s.turn := rfl
@[simp] theorem modCount_slot (s : State) (c : CtxId) (n : Nat) (f : Nat → Nat) : (s.modCount c n f).slot = s.slot := rfl
@[simp] theorem modCount_cur (s : State) (c : CtxId) (n : Nat) (f : Nat → Nat) : (s.modCount c n f).cur = s.cur := rfl
@[simp] theorem modCount_issuing (s : State) (c : CtxId) (n : Nat) (f : Nat → Nat) : (s.modCount c n f).issuing = s.issuing := rfl

/-! ### `report` -/

@[simp] theorem report_mem (s : State) (n : String) (c : CtxId) (l : List Nat) : (s.report n c l).mem = s.mem := rfl
@[simp] theorem report_cores (s : State) (n : String) (c : CtxId) (l : List Nat) : (s.report n c l).cores = s.cores := rfl
@[simp] theorem report_panels (s : State) (n : String) (c : CtxId) (l : List Nat) : (s.report n c l).panels = s.panels := rfl
@[simp] theorem report_wefts (s : State) (n : String) (c : CtxId) (l : List Nat) : (s.report n c l).wefts = s.wefts := rfl
@[simp] theorem report_ctxs (s : State) (n : String) (c : CtxId) (l : List Nat) : (s.report n c l).ctxs = s.ctxs := rfl
@[simp] theorem report_futs (s : State) (n : String) (c : CtxId) (l : List Nat) : (s.report n c l).futs = s.futs := rfl
@[simp] theorem report_deqs (s : State) (n : String) (c : CtxId) (l : List Nat) : (s.report n c l).deqs = s.deqs := rfl
@[simp] theorem report_pubs (s : State) (n : String) (c : CtxId) (l : List Nat) : (s.report n c l).pubs = s.pubs := rfl
@[simp] theorem report_shoots (s : State) (n : String) (c : CtxId) (l : List Nat) : (s.report n c l).shoots = s.shoots := rfl
@[simp] theorem report_keys (s : State) (n : String) (c : CtxId) (l : List Nat) : (s.report n c l).keys = s.keys := rfl
@[simp] theorem report_assoc (s : State) (n : String) (c : CtxId) (l : List Nat) : (s.report n c l).assoc = s.assoc := rfl
@[simp] theorem report_lqTab (s : State) (n : String) (c : CtxId) (l : List Nat) : (s.report n c l).lqTab = s.lqTab := rfl
@[simp] theorem report_lqBad (s : State) (n : String) (c : CtxId) (l : List Nat) : (s.report n c l).lqBad = s.lqBad := rfl
@[simp] theorem report_launches (s : State) (n : String) (c : CtxId) (l : List Nat) : (s.report n c l).launches = s.launches := rfl
@[simp] theorem report_aims (s : State) (n : String) (c : CtxId) (l : List Nat) : (s.report n c l).aims = s.aims := rfl
@[simp] theorem report_saved (s : State) (n : String) (c : CtxId) (l : List Nat) : (s.report n c l).saved = s.saved := rfl
@[simp] theorem report_lastCore (s : State) (n : String) (c : CtxId) (l : List Nat) : (s.report n c l).lastCore = s.lastCore := rfl
@[simp] theorem report_walks (s : State) (n : String) (c : CtxId) (l : List Nat) : (s.report n c l).walks = s.walks := rfl
@[simp] theorem report_wins (s : State) (n : String) (c : CtxId) (l : List Nat) : (s.report n c l).wins = s.wins := rfl
@[simp] theorem report_rems (s : State) (n : String) (c : CtxId) (l : List Nat) : (s.report n c l).rems = s.rems := rfl
@[simp] theorem report_inRems (s : State) (n : String) (c : CtxId) (l : List Nat) : (s.report n c l).inRems = s.inRems := rfl
@[simp] theorem report_stale (s : State) (n : String) (c : CtxId) (l : List Nat) : (s.report n c l).stale = s.stale := rfl
@[simp] theorem report_lates (s : State) (n : String) (c : CtxId) (l : List Nat) : (s.report n c l).lates = s.lates := rfl
@[simp] theorem report_credits (s : State) (n : String) (c : CtxId) (l : List Nat) : (s.report n c l).credits = s.credits := rfl
@[simp] theorem report_pdcs (s : State) (n : String) (c : CtxId) (l : List Nat) : (s.report n c l).pdcs = s.pdcs := rfl
@[simp] theorem report_rxPdcs (s : State) (n : String) (c : CtxId) (l : List Nat) : (s.report n c l).rxPdcs = s.rxPdcs := rfl
@[simp] theorem report_wire (s : State) (n : String) (c : CtxId) (l : List Nat) : (s.report n c l).wire = s.wire := rfl
@[simp] theorem report_gangs (s : State) (n : String) (c : CtxId) (l : List Nat) : (s.report n c l).gangs = s.gangs := rfl
@[simp] theorem report_fns (s : State) (n : String) (c : CtxId) (l : List Nat) : (s.report n c l).fns = s.fns := rfl
@[simp] theorem report_hostOut (s : State) (n : String) (c : CtxId) (l : List Nat) : (s.report n c l).hostOut = s.hostOut := rfl
@[simp] theorem report_atsWait (s : State) (n : String) (c : CtxId) (l : List Nat) : (s.report n c l).atsWait = s.atsWait := rfl
@[simp] theorem report_dies (s : State) (n : String) (c : CtxId) (l : List Nat) : (s.report n c l).dies = s.dies := rfl
@[simp] theorem report_pnode (s : State) (n : String) (c : CtxId) (l : List Nat) : (s.report n c l).pnode = s.pnode := rfl
@[simp] theorem report_holdover (s : State) (n : String) (c : CtxId) (l : List Nat) : (s.report n c l).holdover = s.holdover := rfl
@[simp] theorem report_boot (s : State) (n : String) (c : CtxId) (l : List Nat) : (s.report n c l).boot = s.boot := rfl
@[simp] theorem report_time (s : State) (n : String) (c : CtxId) (l : List Nat) : (s.report n c l).time = s.time := rfl
@[simp] theorem report_fresh (s : State) (n : String) (c : CtxId) (l : List Nat) : (s.report n c l).fresh = s.fresh := rfl
@[simp] theorem report_nextId (s : State) (n : String) (c : CtxId) (l : List Nat) : (s.report n c l).nextId = s.nextId := rfl
@[simp] theorem report_agenda (s : State) (n : String) (c : CtxId) (l : List Nat) : (s.report n c l).agenda = s.agenda := rfl
@[simp] theorem report_turn (s : State) (n : String) (c : CtxId) (l : List Nat) : (s.report n c l).turn = s.turn := rfl
@[simp] theorem report_slot (s : State) (n : String) (c : CtxId) (l : List Nat) : (s.report n c l).slot = s.slot := rfl
@[simp] theorem report_cur (s : State) (n : String) (c : CtxId) (l : List Nat) : (s.report n c l).cur = s.cur := rfl
@[simp] theorem report_issuing (s : State) (n : String) (c : CtxId) (l : List Nat) : (s.report n c l).issuing = s.issuing := rfl

/-! ### `modBoth` -/

@[simp] theorem modBoth_mem (s : State) (w : Nat) (f : Weft → Weft) : (s.modBoth w f).mem = s.mem := rfl
@[simp] theorem modBoth_cores (s : State) (w : Nat) (f : Weft → Weft) : (s.modBoth w f).cores = s.cores := rfl
@[simp] theorem modBoth_ctxs (s : State) (w : Nat) (f : Weft → Weft) : (s.modBoth w f).ctxs = s.ctxs := rfl
@[simp] theorem modBoth_futs (s : State) (w : Nat) (f : Weft → Weft) : (s.modBoth w f).futs = s.futs := rfl
@[simp] theorem modBoth_deqs (s : State) (w : Nat) (f : Weft → Weft) : (s.modBoth w f).deqs = s.deqs := rfl
@[simp] theorem modBoth_pubs (s : State) (w : Nat) (f : Weft → Weft) : (s.modBoth w f).pubs = s.pubs := rfl
@[simp] theorem modBoth_shoots (s : State) (w : Nat) (f : Weft → Weft) : (s.modBoth w f).shoots = s.shoots := rfl
@[simp] theorem modBoth_keys (s : State) (w : Nat) (f : Weft → Weft) : (s.modBoth w f).keys = s.keys := rfl
@[simp] theorem modBoth_assoc (s : State) (w : Nat) (f : Weft → Weft) : (s.modBoth w f).assoc = s.assoc := rfl
@[simp] theorem modBoth_lqTab (s : State) (w : Nat) (f : Weft → Weft) : (s.modBoth w f).lqTab = s.lqTab := rfl
@[simp] theorem modBoth_lqBad (s : State) (w : Nat) (f : Weft → Weft) : (s.modBoth w f).lqBad = s.lqBad := rfl
@[simp] theorem modBoth_launches (s : State) (w : Nat) (f : Weft → Weft) : (s.modBoth w f).launches = s.launches := rfl
@[simp] theorem modBoth_aims (s : State) (w : Nat) (f : Weft → Weft) : (s.modBoth w f).aims = s.aims := rfl
@[simp] theorem modBoth_lastCore (s : State) (w : Nat) (f : Weft → Weft) : (s.modBoth w f).lastCore = s.lastCore := rfl
@[simp] theorem modBoth_walks (s : State) (w : Nat) (f : Weft → Weft) : (s.modBoth w f).walks = s.walks := rfl
@[simp] theorem modBoth_wins (s : State) (w : Nat) (f : Weft → Weft) : (s.modBoth w f).wins = s.wins := rfl
@[simp] theorem modBoth_rems (s : State) (w : Nat) (f : Weft → Weft) : (s.modBoth w f).rems = s.rems := rfl
@[simp] theorem modBoth_inRems (s : State) (w : Nat) (f : Weft → Weft) : (s.modBoth w f).inRems = s.inRems := rfl
@[simp] theorem modBoth_stale (s : State) (w : Nat) (f : Weft → Weft) : (s.modBoth w f).stale = s.stale := rfl
@[simp] theorem modBoth_lates (s : State) (w : Nat) (f : Weft → Weft) : (s.modBoth w f).lates = s.lates := rfl
@[simp] theorem modBoth_credits (s : State) (w : Nat) (f : Weft → Weft) : (s.modBoth w f).credits = s.credits := rfl
@[simp] theorem modBoth_pdcs (s : State) (w : Nat) (f : Weft → Weft) : (s.modBoth w f).pdcs = s.pdcs := rfl
@[simp] theorem modBoth_rxPdcs (s : State) (w : Nat) (f : Weft → Weft) : (s.modBoth w f).rxPdcs = s.rxPdcs := rfl
@[simp] theorem modBoth_wire (s : State) (w : Nat) (f : Weft → Weft) : (s.modBoth w f).wire = s.wire := rfl
@[simp] theorem modBoth_gangs (s : State) (w : Nat) (f : Weft → Weft) : (s.modBoth w f).gangs = s.gangs := rfl
@[simp] theorem modBoth_fns (s : State) (w : Nat) (f : Weft → Weft) : (s.modBoth w f).fns = s.fns := rfl
@[simp] theorem modBoth_hostOut (s : State) (w : Nat) (f : Weft → Weft) : (s.modBoth w f).hostOut = s.hostOut := rfl
@[simp] theorem modBoth_atsWait (s : State) (w : Nat) (f : Weft → Weft) : (s.modBoth w f).atsWait = s.atsWait := rfl
@[simp] theorem modBoth_dies (s : State) (w : Nat) (f : Weft → Weft) : (s.modBoth w f).dies = s.dies := rfl
@[simp] theorem modBoth_pnode (s : State) (w : Nat) (f : Weft → Weft) : (s.modBoth w f).pnode = s.pnode := rfl
@[simp] theorem modBoth_holdover (s : State) (w : Nat) (f : Weft → Weft) : (s.modBoth w f).holdover = s.holdover := rfl
@[simp] theorem modBoth_boot (s : State) (w : Nat) (f : Weft → Weft) : (s.modBoth w f).boot = s.boot := rfl
@[simp] theorem modBoth_reports (s : State) (w : Nat) (f : Weft → Weft) : (s.modBoth w f).reports = s.reports := rfl
@[simp] theorem modBoth_time (s : State) (w : Nat) (f : Weft → Weft) : (s.modBoth w f).time = s.time := rfl
@[simp] theorem modBoth_fresh (s : State) (w : Nat) (f : Weft → Weft) : (s.modBoth w f).fresh = s.fresh := rfl
@[simp] theorem modBoth_nextId (s : State) (w : Nat) (f : Weft → Weft) : (s.modBoth w f).nextId = s.nextId := rfl
@[simp] theorem modBoth_agenda (s : State) (w : Nat) (f : Weft → Weft) : (s.modBoth w f).agenda = s.agenda := rfl
@[simp] theorem modBoth_turn (s : State) (w : Nat) (f : Weft → Weft) : (s.modBoth w f).turn = s.turn := rfl
@[simp] theorem modBoth_slot (s : State) (w : Nat) (f : Weft → Weft) : (s.modBoth w f).slot = s.slot := rfl
@[simp] theorem modBoth_cur (s : State) (w : Nat) (f : Weft → Weft) : (s.modBoth w f).cur = s.cur := rfl
@[simp] theorem modBoth_issuing (s : State) (w : Nat) (f : Weft → Weft) : (s.modBoth w f).issuing = s.issuing := rfl

/-! ### `partDone` -/

@[simp] theorem partDone_mem (s : State) (w id : Nat) : (s.partDone w id).mem = s.mem := rfl
@[simp] theorem partDone_cores (s : State) (w id : Nat) : (s.partDone w id).cores = s.cores := rfl
@[simp] theorem partDone_ctxs (s : State) (w id : Nat) : (s.partDone w id).ctxs = s.ctxs := rfl
@[simp] theorem partDone_futs (s : State) (w id : Nat) : (s.partDone w id).futs = s.futs := rfl
@[simp] theorem partDone_deqs (s : State) (w id : Nat) : (s.partDone w id).deqs = s.deqs := rfl
@[simp] theorem partDone_pubs (s : State) (w id : Nat) : (s.partDone w id).pubs = s.pubs := rfl
@[simp] theorem partDone_shoots (s : State) (w id : Nat) : (s.partDone w id).shoots = s.shoots := rfl
@[simp] theorem partDone_keys (s : State) (w id : Nat) : (s.partDone w id).keys = s.keys := rfl
@[simp] theorem partDone_assoc (s : State) (w id : Nat) : (s.partDone w id).assoc = s.assoc := rfl
@[simp] theorem partDone_lqTab (s : State) (w id : Nat) : (s.partDone w id).lqTab = s.lqTab := rfl
@[simp] theorem partDone_lqBad (s : State) (w id : Nat) : (s.partDone w id).lqBad = s.lqBad := rfl
@[simp] theorem partDone_launches (s : State) (w id : Nat) : (s.partDone w id).launches = s.launches := rfl
@[simp] theorem partDone_aims (s : State) (w id : Nat) : (s.partDone w id).aims = s.aims := rfl
@[simp] theorem partDone_lastCore (s : State) (w id : Nat) : (s.partDone w id).lastCore = s.lastCore := rfl
@[simp] theorem partDone_walks (s : State) (w id : Nat) : (s.partDone w id).walks = s.walks := rfl
@[simp] theorem partDone_wins (s : State) (w id : Nat) : (s.partDone w id).wins = s.wins := rfl
@[simp] theorem partDone_rems (s : State) (w id : Nat) : (s.partDone w id).rems = s.rems := rfl
@[simp] theorem partDone_inRems (s : State) (w id : Nat) : (s.partDone w id).inRems = s.inRems := rfl
@[simp] theorem partDone_stale (s : State) (w id : Nat) : (s.partDone w id).stale = s.stale := rfl
@[simp] theorem partDone_lates (s : State) (w id : Nat) : (s.partDone w id).lates = s.lates := rfl
@[simp] theorem partDone_credits (s : State) (w id : Nat) : (s.partDone w id).credits = s.credits := rfl
@[simp] theorem partDone_pdcs (s : State) (w id : Nat) : (s.partDone w id).pdcs = s.pdcs := rfl
@[simp] theorem partDone_rxPdcs (s : State) (w id : Nat) : (s.partDone w id).rxPdcs = s.rxPdcs := rfl
@[simp] theorem partDone_wire (s : State) (w id : Nat) : (s.partDone w id).wire = s.wire := rfl
@[simp] theorem partDone_gangs (s : State) (w id : Nat) : (s.partDone w id).gangs = s.gangs := rfl
@[simp] theorem partDone_fns (s : State) (w id : Nat) : (s.partDone w id).fns = s.fns := rfl
@[simp] theorem partDone_hostOut (s : State) (w id : Nat) : (s.partDone w id).hostOut = s.hostOut := rfl
@[simp] theorem partDone_atsWait (s : State) (w id : Nat) : (s.partDone w id).atsWait = s.atsWait := rfl
@[simp] theorem partDone_dies (s : State) (w id : Nat) : (s.partDone w id).dies = s.dies := rfl
@[simp] theorem partDone_pnode (s : State) (w id : Nat) : (s.partDone w id).pnode = s.pnode := rfl
@[simp] theorem partDone_holdover (s : State) (w id : Nat) : (s.partDone w id).holdover = s.holdover := rfl
@[simp] theorem partDone_boot (s : State) (w id : Nat) : (s.partDone w id).boot = s.boot := rfl
@[simp] theorem partDone_reports (s : State) (w id : Nat) : (s.partDone w id).reports = s.reports := rfl
@[simp] theorem partDone_time (s : State) (w id : Nat) : (s.partDone w id).time = s.time := rfl
@[simp] theorem partDone_fresh (s : State) (w id : Nat) : (s.partDone w id).fresh = s.fresh := rfl
@[simp] theorem partDone_nextId (s : State) (w id : Nat) : (s.partDone w id).nextId = s.nextId := rfl
@[simp] theorem partDone_agenda (s : State) (w id : Nat) : (s.partDone w id).agenda = s.agenda := rfl
@[simp] theorem partDone_turn (s : State) (w id : Nat) : (s.partDone w id).turn = s.turn := rfl
@[simp] theorem partDone_slot (s : State) (w id : Nat) : (s.partDone w id).slot = s.slot := rfl
@[simp] theorem partDone_cur (s : State) (w id : Nat) : (s.partDone w id).cur = s.cur := rfl
@[simp] theorem partDone_issuing (s : State) (w id : Nat) : (s.partDone w id).issuing = s.issuing := rfl

/-! ### `addParts` -/

@[simp] theorem addParts_mem (s : State) (w id n : Nat) : (s.addParts w id n).mem = s.mem := rfl
@[simp] theorem addParts_cores (s : State) (w id n : Nat) : (s.addParts w id n).cores = s.cores := rfl
@[simp] theorem addParts_panels (s : State) (w id n : Nat) : (s.addParts w id n).panels = s.panels := rfl
@[simp] theorem addParts_ctxs (s : State) (w id n : Nat) : (s.addParts w id n).ctxs = s.ctxs := rfl
@[simp] theorem addParts_futs (s : State) (w id n : Nat) : (s.addParts w id n).futs = s.futs := rfl
@[simp] theorem addParts_deqs (s : State) (w id n : Nat) : (s.addParts w id n).deqs = s.deqs := rfl
@[simp] theorem addParts_pubs (s : State) (w id n : Nat) : (s.addParts w id n).pubs = s.pubs := rfl
@[simp] theorem addParts_shoots (s : State) (w id n : Nat) : (s.addParts w id n).shoots = s.shoots := rfl
@[simp] theorem addParts_keys (s : State) (w id n : Nat) : (s.addParts w id n).keys = s.keys := rfl
@[simp] theorem addParts_assoc (s : State) (w id n : Nat) : (s.addParts w id n).assoc = s.assoc := rfl
@[simp] theorem addParts_lqTab (s : State) (w id n : Nat) : (s.addParts w id n).lqTab = s.lqTab := rfl
@[simp] theorem addParts_lqBad (s : State) (w id n : Nat) : (s.addParts w id n).lqBad = s.lqBad := rfl
@[simp] theorem addParts_launches (s : State) (w id n : Nat) : (s.addParts w id n).launches = s.launches := rfl
@[simp] theorem addParts_aims (s : State) (w id n : Nat) : (s.addParts w id n).aims = s.aims := rfl
@[simp] theorem addParts_saved (s : State) (w id n : Nat) : (s.addParts w id n).saved = s.saved := rfl
@[simp] theorem addParts_lastCore (s : State) (w id n : Nat) : (s.addParts w id n).lastCore = s.lastCore := rfl
@[simp] theorem addParts_walks (s : State) (w id n : Nat) : (s.addParts w id n).walks = s.walks := rfl
@[simp] theorem addParts_wins (s : State) (w id n : Nat) : (s.addParts w id n).wins = s.wins := rfl
@[simp] theorem addParts_rems (s : State) (w id n : Nat) : (s.addParts w id n).rems = s.rems := rfl
@[simp] theorem addParts_inRems (s : State) (w id n : Nat) : (s.addParts w id n).inRems = s.inRems := rfl
@[simp] theorem addParts_stale (s : State) (w id n : Nat) : (s.addParts w id n).stale = s.stale := rfl
@[simp] theorem addParts_lates (s : State) (w id n : Nat) : (s.addParts w id n).lates = s.lates := rfl
@[simp] theorem addParts_credits (s : State) (w id n : Nat) : (s.addParts w id n).credits = s.credits := rfl
@[simp] theorem addParts_pdcs (s : State) (w id n : Nat) : (s.addParts w id n).pdcs = s.pdcs := rfl
@[simp] theorem addParts_rxPdcs (s : State) (w id n : Nat) : (s.addParts w id n).rxPdcs = s.rxPdcs := rfl
@[simp] theorem addParts_wire (s : State) (w id n : Nat) : (s.addParts w id n).wire = s.wire := rfl
@[simp] theorem addParts_gangs (s : State) (w id n : Nat) : (s.addParts w id n).gangs = s.gangs := rfl
@[simp] theorem addParts_fns (s : State) (w id n : Nat) : (s.addParts w id n).fns = s.fns := rfl
@[simp] theorem addParts_hostOut (s : State) (w id n : Nat) : (s.addParts w id n).hostOut = s.hostOut := rfl
@[simp] theorem addParts_atsWait (s : State) (w id n : Nat) : (s.addParts w id n).atsWait = s.atsWait := rfl
@[simp] theorem addParts_dies (s : State) (w id n : Nat) : (s.addParts w id n).dies = s.dies := rfl
@[simp] theorem addParts_pnode (s : State) (w id n : Nat) : (s.addParts w id n).pnode = s.pnode := rfl
@[simp] theorem addParts_holdover (s : State) (w id n : Nat) : (s.addParts w id n).holdover = s.holdover := rfl
@[simp] theorem addParts_boot (s : State) (w id n : Nat) : (s.addParts w id n).boot = s.boot := rfl
@[simp] theorem addParts_reports (s : State) (w id n : Nat) : (s.addParts w id n).reports = s.reports := rfl
@[simp] theorem addParts_time (s : State) (w id n : Nat) : (s.addParts w id n).time = s.time := rfl
@[simp] theorem addParts_fresh (s : State) (w id n : Nat) : (s.addParts w id n).fresh = s.fresh := rfl
@[simp] theorem addParts_nextId (s : State) (w id n : Nat) : (s.addParts w id n).nextId = s.nextId := rfl
@[simp] theorem addParts_agenda (s : State) (w id n : Nat) : (s.addParts w id n).agenda = s.agenda := rfl
@[simp] theorem addParts_turn (s : State) (w id n : Nat) : (s.addParts w id n).turn = s.turn := rfl
@[simp] theorem addParts_slot (s : State) (w id n : Nat) : (s.addParts w id n).slot = s.slot := rfl
@[simp] theorem addParts_cur (s : State) (w id n : Nat) : (s.addParts w id n).cur = s.cur := rfl
@[simp] theorem addParts_issuing (s : State) (w id n : Nat) : (s.addParts w id n).issuing = s.issuing := rfl

/-! ### `fixed` -/

@[simp] theorem fixed_mem (s : State) (x : IC) (l : Nat) (vs : List (Nat × DWord)) (pz : List Nat) : (s.fixed x l vs pz).mem = s.mem := rfl
@[simp] theorem fixed_cores (s : State) (x : IC) (l : Nat) (vs : List (Nat × DWord)) (pz : List Nat) : (s.fixed x l vs pz).cores = s.cores := rfl
@[simp] theorem fixed_panels (s : State) (x : IC) (l : Nat) (vs : List (Nat × DWord)) (pz : List Nat) : (s.fixed x l vs pz).panels = s.panels := rfl
@[simp] theorem fixed_ctxs (s : State) (x : IC) (l : Nat) (vs : List (Nat × DWord)) (pz : List Nat) : (s.fixed x l vs pz).ctxs = s.ctxs := rfl
@[simp] theorem fixed_futs (s : State) (x : IC) (l : Nat) (vs : List (Nat × DWord)) (pz : List Nat) : (s.fixed x l vs pz).futs = s.futs := rfl
@[simp] theorem fixed_deqs (s : State) (x : IC) (l : Nat) (vs : List (Nat × DWord)) (pz : List Nat) : (s.fixed x l vs pz).deqs = s.deqs := rfl
@[simp] theorem fixed_pubs (s : State) (x : IC) (l : Nat) (vs : List (Nat × DWord)) (pz : List Nat) : (s.fixed x l vs pz).pubs = s.pubs := rfl
@[simp] theorem fixed_shoots (s : State) (x : IC) (l : Nat) (vs : List (Nat × DWord)) (pz : List Nat) : (s.fixed x l vs pz).shoots = s.shoots := rfl
@[simp] theorem fixed_keys (s : State) (x : IC) (l : Nat) (vs : List (Nat × DWord)) (pz : List Nat) : (s.fixed x l vs pz).keys = s.keys := rfl
@[simp] theorem fixed_assoc (s : State) (x : IC) (l : Nat) (vs : List (Nat × DWord)) (pz : List Nat) : (s.fixed x l vs pz).assoc = s.assoc := rfl
@[simp] theorem fixed_lqTab (s : State) (x : IC) (l : Nat) (vs : List (Nat × DWord)) (pz : List Nat) : (s.fixed x l vs pz).lqTab = s.lqTab := rfl
@[simp] theorem fixed_lqBad (s : State) (x : IC) (l : Nat) (vs : List (Nat × DWord)) (pz : List Nat) : (s.fixed x l vs pz).lqBad = s.lqBad := rfl
@[simp] theorem fixed_launches (s : State) (x : IC) (l : Nat) (vs : List (Nat × DWord)) (pz : List Nat) : (s.fixed x l vs pz).launches = s.launches := rfl
@[simp] theorem fixed_aims (s : State) (x : IC) (l : Nat) (vs : List (Nat × DWord)) (pz : List Nat) : (s.fixed x l vs pz).aims = s.aims := rfl
@[simp] theorem fixed_saved (s : State) (x : IC) (l : Nat) (vs : List (Nat × DWord)) (pz : List Nat) : (s.fixed x l vs pz).saved = s.saved := rfl
@[simp] theorem fixed_lastCore (s : State) (x : IC) (l : Nat) (vs : List (Nat × DWord)) (pz : List Nat) : (s.fixed x l vs pz).lastCore = s.lastCore := rfl
@[simp] theorem fixed_walks (s : State) (x : IC) (l : Nat) (vs : List (Nat × DWord)) (pz : List Nat) : (s.fixed x l vs pz).walks = s.walks := rfl
@[simp] theorem fixed_wins (s : State) (x : IC) (l : Nat) (vs : List (Nat × DWord)) (pz : List Nat) : (s.fixed x l vs pz).wins = s.wins := rfl
@[simp] theorem fixed_rems (s : State) (x : IC) (l : Nat) (vs : List (Nat × DWord)) (pz : List Nat) : (s.fixed x l vs pz).rems = s.rems := rfl
@[simp] theorem fixed_inRems (s : State) (x : IC) (l : Nat) (vs : List (Nat × DWord)) (pz : List Nat) : (s.fixed x l vs pz).inRems = s.inRems := rfl
@[simp] theorem fixed_stale (s : State) (x : IC) (l : Nat) (vs : List (Nat × DWord)) (pz : List Nat) : (s.fixed x l vs pz).stale = s.stale := rfl
@[simp] theorem fixed_lates (s : State) (x : IC) (l : Nat) (vs : List (Nat × DWord)) (pz : List Nat) : (s.fixed x l vs pz).lates = s.lates := rfl
@[simp] theorem fixed_credits (s : State) (x : IC) (l : Nat) (vs : List (Nat × DWord)) (pz : List Nat) : (s.fixed x l vs pz).credits = s.credits := rfl
@[simp] theorem fixed_pdcs (s : State) (x : IC) (l : Nat) (vs : List (Nat × DWord)) (pz : List Nat) : (s.fixed x l vs pz).pdcs = s.pdcs := rfl
@[simp] theorem fixed_rxPdcs (s : State) (x : IC) (l : Nat) (vs : List (Nat × DWord)) (pz : List Nat) : (s.fixed x l vs pz).rxPdcs = s.rxPdcs := rfl
@[simp] theorem fixed_wire (s : State) (x : IC) (l : Nat) (vs : List (Nat × DWord)) (pz : List Nat) : (s.fixed x l vs pz).wire = s.wire := rfl
@[simp] theorem fixed_gangs (s : State) (x : IC) (l : Nat) (vs : List (Nat × DWord)) (pz : List Nat) : (s.fixed x l vs pz).gangs = s.gangs := rfl
@[simp] theorem fixed_fns (s : State) (x : IC) (l : Nat) (vs : List (Nat × DWord)) (pz : List Nat) : (s.fixed x l vs pz).fns = s.fns := rfl
@[simp] theorem fixed_hostOut (s : State) (x : IC) (l : Nat) (vs : List (Nat × DWord)) (pz : List Nat) : (s.fixed x l vs pz).hostOut = s.hostOut := rfl
@[simp] theorem fixed_atsWait (s : State) (x : IC) (l : Nat) (vs : List (Nat × DWord)) (pz : List Nat) : (s.fixed x l vs pz).atsWait = s.atsWait := rfl
@[simp] theorem fixed_dies (s : State) (x : IC) (l : Nat) (vs : List (Nat × DWord)) (pz : List Nat) : (s.fixed x l vs pz).dies = s.dies := rfl
@[simp] theorem fixed_pnode (s : State) (x : IC) (l : Nat) (vs : List (Nat × DWord)) (pz : List Nat) : (s.fixed x l vs pz).pnode = s.pnode := rfl
@[simp] theorem fixed_holdover (s : State) (x : IC) (l : Nat) (vs : List (Nat × DWord)) (pz : List Nat) : (s.fixed x l vs pz).holdover = s.holdover := rfl
@[simp] theorem fixed_boot (s : State) (x : IC) (l : Nat) (vs : List (Nat × DWord)) (pz : List Nat) : (s.fixed x l vs pz).boot = s.boot := rfl
@[simp] theorem fixed_reports (s : State) (x : IC) (l : Nat) (vs : List (Nat × DWord)) (pz : List Nat) : (s.fixed x l vs pz).reports = s.reports := rfl
@[simp] theorem fixed_time (s : State) (x : IC) (l : Nat) (vs : List (Nat × DWord)) (pz : List Nat) : (s.fixed x l vs pz).time = s.time := rfl
@[simp] theorem fixed_fresh (s : State) (x : IC) (l : Nat) (vs : List (Nat × DWord)) (pz : List Nat) : (s.fixed x l vs pz).fresh = s.fresh := rfl
@[simp] theorem fixed_nextId (s : State) (x : IC) (l : Nat) (vs : List (Nat × DWord)) (pz : List Nat) : (s.fixed x l vs pz).nextId = s.nextId := rfl
@[simp] theorem fixed_agenda (s : State) (x : IC) (l : Nat) (vs : List (Nat × DWord)) (pz : List Nat) : (s.fixed x l vs pz).agenda = s.agenda := rfl
@[simp] theorem fixed_turn (s : State) (x : IC) (l : Nat) (vs : List (Nat × DWord)) (pz : List Nat) : (s.fixed x l vs pz).turn = s.turn := rfl
@[simp] theorem fixed_slot (s : State) (x : IC) (l : Nat) (vs : List (Nat × DWord)) (pz : List Nat) : (s.fixed x l vs pz).slot = s.slot := rfl
@[simp] theorem fixed_cur (s : State) (x : IC) (l : Nat) (vs : List (Nat × DWord)) (pz : List Nat) : (s.fixed x l vs pz).cur = s.cur := rfl
@[simp] theorem fixed_issuing (s : State) (x : IC) (l : Nat) (vs : List (Nat × DWord)) (pz : List Nat) : (s.fixed x l vs pz).issuing = s.issuing := rfl

/-! ### `tracked` -/

@[simp] theorem tracked_mem (s : State) (x : IC) (vs : List (Nat × DWord)) (pz : List Nat) : (s.tracked x vs pz).mem = s.mem := by
  unfold State.tracked; split <;> rfl
@[simp] theorem tracked_cores (s : State) (x : IC) (vs : List (Nat × DWord)) (pz : List Nat) : (s.tracked x vs pz).cores = s.cores := by
  unfold State.tracked; split <;> rfl
@[simp] theorem tracked_panels (s : State) (x : IC) (vs : List (Nat × DWord)) (pz : List Nat) : (s.tracked x vs pz).panels = s.panels := by
  unfold State.tracked; split <;> rfl
@[simp] theorem tracked_ctxs (s : State) (x : IC) (vs : List (Nat × DWord)) (pz : List Nat) : (s.tracked x vs pz).ctxs = s.ctxs := by
  unfold State.tracked; split <;> rfl
@[simp] theorem tracked_futs (s : State) (x : IC) (vs : List (Nat × DWord)) (pz : List Nat) : (s.tracked x vs pz).futs = s.futs := by
  unfold State.tracked; split <;> rfl
@[simp] theorem tracked_deqs (s : State) (x : IC) (vs : List (Nat × DWord)) (pz : List Nat) : (s.tracked x vs pz).deqs = s.deqs := by
  unfold State.tracked; split <;> rfl
@[simp] theorem tracked_pubs (s : State) (x : IC) (vs : List (Nat × DWord)) (pz : List Nat) : (s.tracked x vs pz).pubs = s.pubs := by
  unfold State.tracked; split <;> rfl
@[simp] theorem tracked_shoots (s : State) (x : IC) (vs : List (Nat × DWord)) (pz : List Nat) : (s.tracked x vs pz).shoots = s.shoots := by
  unfold State.tracked; split <;> rfl
@[simp] theorem tracked_keys (s : State) (x : IC) (vs : List (Nat × DWord)) (pz : List Nat) : (s.tracked x vs pz).keys = s.keys := by
  unfold State.tracked; split <;> rfl
@[simp] theorem tracked_assoc (s : State) (x : IC) (vs : List (Nat × DWord)) (pz : List Nat) : (s.tracked x vs pz).assoc = s.assoc := by
  unfold State.tracked; split <;> rfl
@[simp] theorem tracked_lqTab (s : State) (x : IC) (vs : List (Nat × DWord)) (pz : List Nat) : (s.tracked x vs pz).lqTab = s.lqTab := by
  unfold State.tracked; split <;> rfl
@[simp] theorem tracked_lqBad (s : State) (x : IC) (vs : List (Nat × DWord)) (pz : List Nat) : (s.tracked x vs pz).lqBad = s.lqBad := by
  unfold State.tracked; split <;> rfl
@[simp] theorem tracked_launches (s : State) (x : IC) (vs : List (Nat × DWord)) (pz : List Nat) : (s.tracked x vs pz).launches = s.launches := by
  unfold State.tracked; split <;> rfl
@[simp] theorem tracked_aims (s : State) (x : IC) (vs : List (Nat × DWord)) (pz : List Nat) : (s.tracked x vs pz).aims = s.aims := by
  unfold State.tracked; split <;> rfl
@[simp] theorem tracked_saved (s : State) (x : IC) (vs : List (Nat × DWord)) (pz : List Nat) : (s.tracked x vs pz).saved = s.saved := by
  unfold State.tracked; split <;> rfl
@[simp] theorem tracked_lastCore (s : State) (x : IC) (vs : List (Nat × DWord)) (pz : List Nat) : (s.tracked x vs pz).lastCore = s.lastCore := by
  unfold State.tracked; split <;> rfl
@[simp] theorem tracked_walks (s : State) (x : IC) (vs : List (Nat × DWord)) (pz : List Nat) : (s.tracked x vs pz).walks = s.walks := by
  unfold State.tracked; split <;> rfl
@[simp] theorem tracked_wins (s : State) (x : IC) (vs : List (Nat × DWord)) (pz : List Nat) : (s.tracked x vs pz).wins = s.wins := by
  unfold State.tracked; split <;> rfl
@[simp] theorem tracked_rems (s : State) (x : IC) (vs : List (Nat × DWord)) (pz : List Nat) : (s.tracked x vs pz).rems = s.rems := by
  unfold State.tracked; split <;> rfl
@[simp] theorem tracked_inRems (s : State) (x : IC) (vs : List (Nat × DWord)) (pz : List Nat) : (s.tracked x vs pz).inRems = s.inRems := by
  unfold State.tracked; split <;> rfl
@[simp] theorem tracked_stale (s : State) (x : IC) (vs : List (Nat × DWord)) (pz : List Nat) : (s.tracked x vs pz).stale = s.stale := by
  unfold State.tracked; split <;> rfl
@[simp] theorem tracked_lates (s : State) (x : IC) (vs : List (Nat × DWord)) (pz : List Nat) : (s.tracked x vs pz).lates = s.lates := by
  unfold State.tracked; split <;> rfl
@[simp] theorem tracked_credits (s : State) (x : IC) (vs : List (Nat × DWord)) (pz : List Nat) : (s.tracked x vs pz).credits = s.credits := by
  unfold State.tracked; split <;> rfl
@[simp] theorem tracked_pdcs (s : State) (x : IC) (vs : List (Nat × DWord)) (pz : List Nat) : (s.tracked x vs pz).pdcs = s.pdcs := by
  unfold State.tracked; split <;> rfl
@[simp] theorem tracked_rxPdcs (s : State) (x : IC) (vs : List (Nat × DWord)) (pz : List Nat) : (s.tracked x vs pz).rxPdcs = s.rxPdcs := by
  unfold State.tracked; split <;> rfl
@[simp] theorem tracked_wire (s : State) (x : IC) (vs : List (Nat × DWord)) (pz : List Nat) : (s.tracked x vs pz).wire = s.wire := by
  unfold State.tracked; split <;> rfl
@[simp] theorem tracked_gangs (s : State) (x : IC) (vs : List (Nat × DWord)) (pz : List Nat) : (s.tracked x vs pz).gangs = s.gangs := by
  unfold State.tracked; split <;> rfl
@[simp] theorem tracked_fns (s : State) (x : IC) (vs : List (Nat × DWord)) (pz : List Nat) : (s.tracked x vs pz).fns = s.fns := by
  unfold State.tracked; split <;> rfl
@[simp] theorem tracked_hostOut (s : State) (x : IC) (vs : List (Nat × DWord)) (pz : List Nat) : (s.tracked x vs pz).hostOut = s.hostOut := by
  unfold State.tracked; split <;> rfl
@[simp] theorem tracked_atsWait (s : State) (x : IC) (vs : List (Nat × DWord)) (pz : List Nat) : (s.tracked x vs pz).atsWait = s.atsWait := by
  unfold State.tracked; split <;> rfl
@[simp] theorem tracked_dies (s : State) (x : IC) (vs : List (Nat × DWord)) (pz : List Nat) : (s.tracked x vs pz).dies = s.dies := by
  unfold State.tracked; split <;> rfl
@[simp] theorem tracked_pnode (s : State) (x : IC) (vs : List (Nat × DWord)) (pz : List Nat) : (s.tracked x vs pz).pnode = s.pnode := by
  unfold State.tracked; split <;> rfl
@[simp] theorem tracked_holdover (s : State) (x : IC) (vs : List (Nat × DWord)) (pz : List Nat) : (s.tracked x vs pz).holdover = s.holdover := by
  unfold State.tracked; split <;> rfl
@[simp] theorem tracked_boot (s : State) (x : IC) (vs : List (Nat × DWord)) (pz : List Nat) : (s.tracked x vs pz).boot = s.boot := by
  unfold State.tracked; split <;> rfl
@[simp] theorem tracked_reports (s : State) (x : IC) (vs : List (Nat × DWord)) (pz : List Nat) : (s.tracked x vs pz).reports = s.reports := by
  unfold State.tracked; split <;> rfl
@[simp] theorem tracked_time (s : State) (x : IC) (vs : List (Nat × DWord)) (pz : List Nat) : (s.tracked x vs pz).time = s.time := by
  unfold State.tracked; split <;> rfl
@[simp] theorem tracked_fresh (s : State) (x : IC) (vs : List (Nat × DWord)) (pz : List Nat) : (s.tracked x vs pz).fresh = s.fresh := by
  unfold State.tracked; split <;> rfl
@[simp] theorem tracked_nextId (s : State) (x : IC) (vs : List (Nat × DWord)) (pz : List Nat) : (s.tracked x vs pz).nextId = s.nextId := by
  unfold State.tracked; split <;> rfl
@[simp] theorem tracked_agenda (s : State) (x : IC) (vs : List (Nat × DWord)) (pz : List Nat) : (s.tracked x vs pz).agenda = s.agenda := by
  unfold State.tracked; split <;> rfl
@[simp] theorem tracked_turn (s : State) (x : IC) (vs : List (Nat × DWord)) (pz : List Nat) : (s.tracked x vs pz).turn = s.turn := by
  unfold State.tracked; split <;> rfl
@[simp] theorem tracked_slot (s : State) (x : IC) (vs : List (Nat × DWord)) (pz : List Nat) : (s.tracked x vs pz).slot = s.slot := by
  unfold State.tracked; split <;> rfl
@[simp] theorem tracked_cur (s : State) (x : IC) (vs : List (Nat × DWord)) (pz : List Nat) : (s.tracked x vs pz).cur = s.cur := by
  unfold State.tracked; split <;> rfl
@[simp] theorem tracked_issuing (s : State) (x : IC) (vs : List (Nat × DWord)) (pz : List Nat) : (s.tracked x vs pz).issuing = s.issuing := by
  unfold State.tracked; split <;> rfl

/-! ### `atOnce` -/

@[simp] theorem atOnce_mem (s : State) (x : IC) (vs : List (Nat × DWord)) (pz : List Nat) : (s.atOnce x vs pz).mem = s.mem := rfl
@[simp] theorem atOnce_cores (s : State) (x : IC) (vs : List (Nat × DWord)) (pz : List Nat) : (s.atOnce x vs pz).cores = s.cores := rfl
@[simp] theorem atOnce_panels (s : State) (x : IC) (vs : List (Nat × DWord)) (pz : List Nat) : (s.atOnce x vs pz).panels = s.panels := rfl
@[simp] theorem atOnce_ctxs (s : State) (x : IC) (vs : List (Nat × DWord)) (pz : List Nat) : (s.atOnce x vs pz).ctxs = s.ctxs := rfl
@[simp] theorem atOnce_futs (s : State) (x : IC) (vs : List (Nat × DWord)) (pz : List Nat) : (s.atOnce x vs pz).futs = s.futs := rfl
@[simp] theorem atOnce_deqs (s : State) (x : IC) (vs : List (Nat × DWord)) (pz : List Nat) : (s.atOnce x vs pz).deqs = s.deqs := rfl
@[simp] theorem atOnce_pubs (s : State) (x : IC) (vs : List (Nat × DWord)) (pz : List Nat) : (s.atOnce x vs pz).pubs = s.pubs := rfl
@[simp] theorem atOnce_shoots (s : State) (x : IC) (vs : List (Nat × DWord)) (pz : List Nat) : (s.atOnce x vs pz).shoots = s.shoots := rfl
@[simp] theorem atOnce_keys (s : State) (x : IC) (vs : List (Nat × DWord)) (pz : List Nat) : (s.atOnce x vs pz).keys = s.keys := rfl
@[simp] theorem atOnce_assoc (s : State) (x : IC) (vs : List (Nat × DWord)) (pz : List Nat) : (s.atOnce x vs pz).assoc = s.assoc := rfl
@[simp] theorem atOnce_lqTab (s : State) (x : IC) (vs : List (Nat × DWord)) (pz : List Nat) : (s.atOnce x vs pz).lqTab = s.lqTab := rfl
@[simp] theorem atOnce_lqBad (s : State) (x : IC) (vs : List (Nat × DWord)) (pz : List Nat) : (s.atOnce x vs pz).lqBad = s.lqBad := rfl
@[simp] theorem atOnce_launches (s : State) (x : IC) (vs : List (Nat × DWord)) (pz : List Nat) : (s.atOnce x vs pz).launches = s.launches := rfl
@[simp] theorem atOnce_aims (s : State) (x : IC) (vs : List (Nat × DWord)) (pz : List Nat) : (s.atOnce x vs pz).aims = s.aims := rfl
@[simp] theorem atOnce_saved (s : State) (x : IC) (vs : List (Nat × DWord)) (pz : List Nat) : (s.atOnce x vs pz).saved = s.saved := rfl
@[simp] theorem atOnce_lastCore (s : State) (x : IC) (vs : List (Nat × DWord)) (pz : List Nat) : (s.atOnce x vs pz).lastCore = s.lastCore := rfl
@[simp] theorem atOnce_walks (s : State) (x : IC) (vs : List (Nat × DWord)) (pz : List Nat) : (s.atOnce x vs pz).walks = s.walks := rfl
@[simp] theorem atOnce_wins (s : State) (x : IC) (vs : List (Nat × DWord)) (pz : List Nat) : (s.atOnce x vs pz).wins = s.wins := rfl
@[simp] theorem atOnce_rems (s : State) (x : IC) (vs : List (Nat × DWord)) (pz : List Nat) : (s.atOnce x vs pz).rems = s.rems := rfl
@[simp] theorem atOnce_inRems (s : State) (x : IC) (vs : List (Nat × DWord)) (pz : List Nat) : (s.atOnce x vs pz).inRems = s.inRems := rfl
@[simp] theorem atOnce_stale (s : State) (x : IC) (vs : List (Nat × DWord)) (pz : List Nat) : (s.atOnce x vs pz).stale = s.stale := rfl
@[simp] theorem atOnce_lates (s : State) (x : IC) (vs : List (Nat × DWord)) (pz : List Nat) : (s.atOnce x vs pz).lates = s.lates := rfl
@[simp] theorem atOnce_credits (s : State) (x : IC) (vs : List (Nat × DWord)) (pz : List Nat) : (s.atOnce x vs pz).credits = s.credits := rfl
@[simp] theorem atOnce_pdcs (s : State) (x : IC) (vs : List (Nat × DWord)) (pz : List Nat) : (s.atOnce x vs pz).pdcs = s.pdcs := rfl
@[simp] theorem atOnce_rxPdcs (s : State) (x : IC) (vs : List (Nat × DWord)) (pz : List Nat) : (s.atOnce x vs pz).rxPdcs = s.rxPdcs := rfl
@[simp] theorem atOnce_wire (s : State) (x : IC) (vs : List (Nat × DWord)) (pz : List Nat) : (s.atOnce x vs pz).wire = s.wire := rfl
@[simp] theorem atOnce_gangs (s : State) (x : IC) (vs : List (Nat × DWord)) (pz : List Nat) : (s.atOnce x vs pz).gangs = s.gangs := rfl
@[simp] theorem atOnce_fns (s : State) (x : IC) (vs : List (Nat × DWord)) (pz : List Nat) : (s.atOnce x vs pz).fns = s.fns := rfl
@[simp] theorem atOnce_hostOut (s : State) (x : IC) (vs : List (Nat × DWord)) (pz : List Nat) : (s.atOnce x vs pz).hostOut = s.hostOut := rfl
@[simp] theorem atOnce_atsWait (s : State) (x : IC) (vs : List (Nat × DWord)) (pz : List Nat) : (s.atOnce x vs pz).atsWait = s.atsWait := rfl
@[simp] theorem atOnce_dies (s : State) (x : IC) (vs : List (Nat × DWord)) (pz : List Nat) : (s.atOnce x vs pz).dies = s.dies := rfl
@[simp] theorem atOnce_pnode (s : State) (x : IC) (vs : List (Nat × DWord)) (pz : List Nat) : (s.atOnce x vs pz).pnode = s.pnode := rfl
@[simp] theorem atOnce_holdover (s : State) (x : IC) (vs : List (Nat × DWord)) (pz : List Nat) : (s.atOnce x vs pz).holdover = s.holdover := rfl
@[simp] theorem atOnce_boot (s : State) (x : IC) (vs : List (Nat × DWord)) (pz : List Nat) : (s.atOnce x vs pz).boot = s.boot := rfl
@[simp] theorem atOnce_reports (s : State) (x : IC) (vs : List (Nat × DWord)) (pz : List Nat) : (s.atOnce x vs pz).reports = s.reports := rfl
@[simp] theorem atOnce_time (s : State) (x : IC) (vs : List (Nat × DWord)) (pz : List Nat) : (s.atOnce x vs pz).time = s.time := rfl
@[simp] theorem atOnce_fresh (s : State) (x : IC) (vs : List (Nat × DWord)) (pz : List Nat) : (s.atOnce x vs pz).fresh = s.fresh := rfl
@[simp] theorem atOnce_nextId (s : State) (x : IC) (vs : List (Nat × DWord)) (pz : List Nat) : (s.atOnce x vs pz).nextId = s.nextId := rfl
@[simp] theorem atOnce_agenda (s : State) (x : IC) (vs : List (Nat × DWord)) (pz : List Nat) : (s.atOnce x vs pz).agenda = s.agenda := rfl
@[simp] theorem atOnce_turn (s : State) (x : IC) (vs : List (Nat × DWord)) (pz : List Nat) : (s.atOnce x vs pz).turn = s.turn := rfl
@[simp] theorem atOnce_slot (s : State) (x : IC) (vs : List (Nat × DWord)) (pz : List Nat) : (s.atOnce x vs pz).slot = s.slot := rfl
@[simp] theorem atOnce_cur (s : State) (x : IC) (vs : List (Nat × DWord)) (pz : List Nat) : (s.atOnce x vs pz).cur = s.cur := rfl
@[simp] theorem atOnce_issuing (s : State) (x : IC) (vs : List (Nat × DWord)) (pz : List Nat) : (s.atOnce x vs pz).issuing = s.issuing := rfl

/-! ### `consume` -/

@[simp] theorem consume_mem (s : State) (x : IC) (ls : List Nat) : (s.consume x ls).mem = s.mem := by
  unfold State.consume; split <;> rfl
@[simp] theorem consume_cores (s : State) (x : IC) (ls : List Nat) : (s.consume x ls).cores = s.cores := by
  unfold State.consume; split <;> rfl
@[simp] theorem consume_panels (s : State) (x : IC) (ls : List Nat) : (s.consume x ls).panels = s.panels := by
  unfold State.consume; split <;> rfl
@[simp] theorem consume_wefts (s : State) (x : IC) (ls : List Nat) : (s.consume x ls).wefts = s.wefts := by
  unfold State.consume; split <;> rfl
@[simp] theorem consume_futs (s : State) (x : IC) (ls : List Nat) : (s.consume x ls).futs = s.futs := by
  unfold State.consume; split <;> rfl
@[simp] theorem consume_deqs (s : State) (x : IC) (ls : List Nat) : (s.consume x ls).deqs = s.deqs := by
  unfold State.consume; split <;> rfl
@[simp] theorem consume_pubs (s : State) (x : IC) (ls : List Nat) : (s.consume x ls).pubs = s.pubs := by
  unfold State.consume; split <;> rfl
@[simp] theorem consume_shoots (s : State) (x : IC) (ls : List Nat) : (s.consume x ls).shoots = s.shoots := by
  unfold State.consume; split <;> rfl
@[simp] theorem consume_keys (s : State) (x : IC) (ls : List Nat) : (s.consume x ls).keys = s.keys := by
  unfold State.consume; split <;> rfl
@[simp] theorem consume_assoc (s : State) (x : IC) (ls : List Nat) : (s.consume x ls).assoc = s.assoc := by
  unfold State.consume; split <;> rfl
@[simp] theorem consume_lqTab (s : State) (x : IC) (ls : List Nat) : (s.consume x ls).lqTab = s.lqTab := by
  unfold State.consume; split <;> rfl
@[simp] theorem consume_lqBad (s : State) (x : IC) (ls : List Nat) : (s.consume x ls).lqBad = s.lqBad := by
  unfold State.consume; split <;> rfl
@[simp] theorem consume_launches (s : State) (x : IC) (ls : List Nat) : (s.consume x ls).launches = s.launches := by
  unfold State.consume; split <;> rfl
@[simp] theorem consume_aims (s : State) (x : IC) (ls : List Nat) : (s.consume x ls).aims = s.aims := by
  unfold State.consume; split <;> rfl
@[simp] theorem consume_saved (s : State) (x : IC) (ls : List Nat) : (s.consume x ls).saved = s.saved := by
  unfold State.consume; split <;> rfl
@[simp] theorem consume_lastCore (s : State) (x : IC) (ls : List Nat) : (s.consume x ls).lastCore = s.lastCore := by
  unfold State.consume; split <;> rfl
@[simp] theorem consume_walks (s : State) (x : IC) (ls : List Nat) : (s.consume x ls).walks = s.walks := by
  unfold State.consume; split <;> rfl
@[simp] theorem consume_wins (s : State) (x : IC) (ls : List Nat) : (s.consume x ls).wins = s.wins := by
  unfold State.consume; split <;> rfl
@[simp] theorem consume_rems (s : State) (x : IC) (ls : List Nat) : (s.consume x ls).rems = s.rems := by
  unfold State.consume; split <;> rfl
@[simp] theorem consume_inRems (s : State) (x : IC) (ls : List Nat) : (s.consume x ls).inRems = s.inRems := by
  unfold State.consume; split <;> rfl
@[simp] theorem consume_stale (s : State) (x : IC) (ls : List Nat) : (s.consume x ls).stale = s.stale := by
  unfold State.consume; split <;> rfl
@[simp] theorem consume_lates (s : State) (x : IC) (ls : List Nat) : (s.consume x ls).lates = s.lates := by
  unfold State.consume; split <;> rfl
@[simp] theorem consume_credits (s : State) (x : IC) (ls : List Nat) : (s.consume x ls).credits = s.credits := by
  unfold State.consume; split <;> rfl
@[simp] theorem consume_pdcs (s : State) (x : IC) (ls : List Nat) : (s.consume x ls).pdcs = s.pdcs := by
  unfold State.consume; split <;> rfl
@[simp] theorem consume_rxPdcs (s : State) (x : IC) (ls : List Nat) : (s.consume x ls).rxPdcs = s.rxPdcs := by
  unfold State.consume; split <;> rfl
@[simp] theorem consume_wire (s : State) (x : IC) (ls : List Nat) : (s.consume x ls).wire = s.wire := by
  unfold State.consume; split <;> rfl
@[simp] theorem consume_gangs (s : State) (x : IC) (ls : List Nat) : (s.consume x ls).gangs = s.gangs := by
  unfold State.consume; split <;> rfl
@[simp] theorem consume_fns (s : State) (x : IC) (ls : List Nat) : (s.consume x ls).fns = s.fns := by
  unfold State.consume; split <;> rfl
@[simp] theorem consume_hostOut (s : State) (x : IC) (ls : List Nat) : (s.consume x ls).hostOut = s.hostOut := by
  unfold State.consume; split <;> rfl
@[simp] theorem consume_atsWait (s : State) (x : IC) (ls : List Nat) : (s.consume x ls).atsWait = s.atsWait := by
  unfold State.consume; split <;> rfl
@[simp] theorem consume_dies (s : State) (x : IC) (ls : List Nat) : (s.consume x ls).dies = s.dies := by
  unfold State.consume; split <;> rfl
@[simp] theorem consume_pnode (s : State) (x : IC) (ls : List Nat) : (s.consume x ls).pnode = s.pnode := by
  unfold State.consume; split <;> rfl
@[simp] theorem consume_holdover (s : State) (x : IC) (ls : List Nat) : (s.consume x ls).holdover = s.holdover := by
  unfold State.consume; split <;> rfl
@[simp] theorem consume_boot (s : State) (x : IC) (ls : List Nat) : (s.consume x ls).boot = s.boot := by
  unfold State.consume; split <;> rfl
@[simp] theorem consume_time (s : State) (x : IC) (ls : List Nat) : (s.consume x ls).time = s.time := by
  unfold State.consume; split <;> rfl
@[simp] theorem consume_fresh (s : State) (x : IC) (ls : List Nat) : (s.consume x ls).fresh = s.fresh := by
  unfold State.consume; split <;> rfl
@[simp] theorem consume_nextId (s : State) (x : IC) (ls : List Nat) : (s.consume x ls).nextId = s.nextId := by
  unfold State.consume; split <;> rfl
@[simp] theorem consume_agenda (s : State) (x : IC) (ls : List Nat) : (s.consume x ls).agenda = s.agenda := by
  unfold State.consume; split <;> rfl
@[simp] theorem consume_turn (s : State) (x : IC) (ls : List Nat) : (s.consume x ls).turn = s.turn := by
  unfold State.consume; split <;> rfl
@[simp] theorem consume_slot (s : State) (x : IC) (ls : List Nat) : (s.consume x ls).slot = s.slot := by
  unfold State.consume; split <;> rfl
@[simp] theorem consume_cur (s : State) (x : IC) (ls : List Nat) : (s.consume x ls).cur = s.cur := by
  unfold State.consume; split <;> rfl
@[simp] theorem consume_issuing (s : State) (x : IC) (ls : List Nat) : (s.consume x ls).issuing = s.issuing := by
  unfold State.consume; split <;> rfl

/-! ### `enqueue` -/

@[simp] theorem enqueue_mem (s : State) (w lane tr : Nat) (sys : Bool) (pc : DWord) (hdr : Off) (op : SqOp) (a : DWord) : (s.enqueue w lane tr sys pc hdr op a).mem = s.mem := by
  unfold State.enqueue; split <;> rfl
@[simp] theorem enqueue_cores (s : State) (w lane tr : Nat) (sys : Bool) (pc : DWord) (hdr : Off) (op : SqOp) (a : DWord) : (s.enqueue w lane tr sys pc hdr op a).cores = s.cores := by
  unfold State.enqueue; split <;> rfl
@[simp] theorem enqueue_panels (s : State) (w lane tr : Nat) (sys : Bool) (pc : DWord) (hdr : Off) (op : SqOp) (a : DWord) : (s.enqueue w lane tr sys pc hdr op a).panels = s.panels := by
  unfold State.enqueue; split <;> rfl
@[simp] theorem enqueue_ctxs (s : State) (w lane tr : Nat) (sys : Bool) (pc : DWord) (hdr : Off) (op : SqOp) (a : DWord) : (s.enqueue w lane tr sys pc hdr op a).ctxs = s.ctxs := by
  unfold State.enqueue; split <;> rfl
@[simp] theorem enqueue_futs (s : State) (w lane tr : Nat) (sys : Bool) (pc : DWord) (hdr : Off) (op : SqOp) (a : DWord) : (s.enqueue w lane tr sys pc hdr op a).futs = s.futs := by
  unfold State.enqueue; split <;> rfl
@[simp] theorem enqueue_deqs (s : State) (w lane tr : Nat) (sys : Bool) (pc : DWord) (hdr : Off) (op : SqOp) (a : DWord) : (s.enqueue w lane tr sys pc hdr op a).deqs = s.deqs := by
  unfold State.enqueue; split <;> rfl
@[simp] theorem enqueue_pubs (s : State) (w lane tr : Nat) (sys : Bool) (pc : DWord) (hdr : Off) (op : SqOp) (a : DWord) : (s.enqueue w lane tr sys pc hdr op a).pubs = s.pubs := by
  unfold State.enqueue; split <;> rfl
@[simp] theorem enqueue_shoots (s : State) (w lane tr : Nat) (sys : Bool) (pc : DWord) (hdr : Off) (op : SqOp) (a : DWord) : (s.enqueue w lane tr sys pc hdr op a).shoots = s.shoots := by
  unfold State.enqueue; split <;> rfl
@[simp] theorem enqueue_keys (s : State) (w lane tr : Nat) (sys : Bool) (pc : DWord) (hdr : Off) (op : SqOp) (a : DWord) : (s.enqueue w lane tr sys pc hdr op a).keys = s.keys := by
  unfold State.enqueue; split <;> rfl
@[simp] theorem enqueue_assoc (s : State) (w lane tr : Nat) (sys : Bool) (pc : DWord) (hdr : Off) (op : SqOp) (a : DWord) : (s.enqueue w lane tr sys pc hdr op a).assoc = s.assoc := by
  unfold State.enqueue; split <;> rfl
@[simp] theorem enqueue_lqTab (s : State) (w lane tr : Nat) (sys : Bool) (pc : DWord) (hdr : Off) (op : SqOp) (a : DWord) : (s.enqueue w lane tr sys pc hdr op a).lqTab = s.lqTab := by
  unfold State.enqueue; split <;> rfl
@[simp] theorem enqueue_lqBad (s : State) (w lane tr : Nat) (sys : Bool) (pc : DWord) (hdr : Off) (op : SqOp) (a : DWord) : (s.enqueue w lane tr sys pc hdr op a).lqBad = s.lqBad := by
  unfold State.enqueue; split <;> rfl
@[simp] theorem enqueue_launches (s : State) (w lane tr : Nat) (sys : Bool) (pc : DWord) (hdr : Off) (op : SqOp) (a : DWord) : (s.enqueue w lane tr sys pc hdr op a).launches = s.launches := by
  unfold State.enqueue; split <;> rfl
@[simp] theorem enqueue_aims (s : State) (w lane tr : Nat) (sys : Bool) (pc : DWord) (hdr : Off) (op : SqOp) (a : DWord) : (s.enqueue w lane tr sys pc hdr op a).aims = s.aims := by
  unfold State.enqueue; split <;> rfl
@[simp] theorem enqueue_saved (s : State) (w lane tr : Nat) (sys : Bool) (pc : DWord) (hdr : Off) (op : SqOp) (a : DWord) : (s.enqueue w lane tr sys pc hdr op a).saved = s.saved := by
  unfold State.enqueue; split <;> rfl
@[simp] theorem enqueue_lastCore (s : State) (w lane tr : Nat) (sys : Bool) (pc : DWord) (hdr : Off) (op : SqOp) (a : DWord) : (s.enqueue w lane tr sys pc hdr op a).lastCore = s.lastCore := by
  unfold State.enqueue; split <;> rfl
@[simp] theorem enqueue_walks (s : State) (w lane tr : Nat) (sys : Bool) (pc : DWord) (hdr : Off) (op : SqOp) (a : DWord) : (s.enqueue w lane tr sys pc hdr op a).walks = s.walks := by
  unfold State.enqueue; split <;> rfl
@[simp] theorem enqueue_wins (s : State) (w lane tr : Nat) (sys : Bool) (pc : DWord) (hdr : Off) (op : SqOp) (a : DWord) : (s.enqueue w lane tr sys pc hdr op a).wins = s.wins := by
  unfold State.enqueue; split <;> rfl
@[simp] theorem enqueue_rems (s : State) (w lane tr : Nat) (sys : Bool) (pc : DWord) (hdr : Off) (op : SqOp) (a : DWord) : (s.enqueue w lane tr sys pc hdr op a).rems = s.rems := by
  unfold State.enqueue; split <;> rfl
@[simp] theorem enqueue_inRems (s : State) (w lane tr : Nat) (sys : Bool) (pc : DWord) (hdr : Off) (op : SqOp) (a : DWord) : (s.enqueue w lane tr sys pc hdr op a).inRems = s.inRems := by
  unfold State.enqueue; split <;> rfl
@[simp] theorem enqueue_stale (s : State) (w lane tr : Nat) (sys : Bool) (pc : DWord) (hdr : Off) (op : SqOp) (a : DWord) : (s.enqueue w lane tr sys pc hdr op a).stale = s.stale := by
  unfold State.enqueue; split <;> rfl
@[simp] theorem enqueue_lates (s : State) (w lane tr : Nat) (sys : Bool) (pc : DWord) (hdr : Off) (op : SqOp) (a : DWord) : (s.enqueue w lane tr sys pc hdr op a).lates = s.lates := by
  unfold State.enqueue; split <;> rfl
@[simp] theorem enqueue_credits (s : State) (w lane tr : Nat) (sys : Bool) (pc : DWord) (hdr : Off) (op : SqOp) (a : DWord) : (s.enqueue w lane tr sys pc hdr op a).credits = s.credits := by
  unfold State.enqueue; split <;> rfl
@[simp] theorem enqueue_pdcs (s : State) (w lane tr : Nat) (sys : Bool) (pc : DWord) (hdr : Off) (op : SqOp) (a : DWord) : (s.enqueue w lane tr sys pc hdr op a).pdcs = s.pdcs := by
  unfold State.enqueue; split <;> rfl
@[simp] theorem enqueue_rxPdcs (s : State) (w lane tr : Nat) (sys : Bool) (pc : DWord) (hdr : Off) (op : SqOp) (a : DWord) : (s.enqueue w lane tr sys pc hdr op a).rxPdcs = s.rxPdcs := by
  unfold State.enqueue; split <;> rfl
@[simp] theorem enqueue_wire (s : State) (w lane tr : Nat) (sys : Bool) (pc : DWord) (hdr : Off) (op : SqOp) (a : DWord) : (s.enqueue w lane tr sys pc hdr op a).wire = s.wire := by
  unfold State.enqueue; split <;> rfl
@[simp] theorem enqueue_gangs (s : State) (w lane tr : Nat) (sys : Bool) (pc : DWord) (hdr : Off) (op : SqOp) (a : DWord) : (s.enqueue w lane tr sys pc hdr op a).gangs = s.gangs := by
  unfold State.enqueue; split <;> rfl
@[simp] theorem enqueue_fns (s : State) (w lane tr : Nat) (sys : Bool) (pc : DWord) (hdr : Off) (op : SqOp) (a : DWord) : (s.enqueue w lane tr sys pc hdr op a).fns = s.fns := by
  unfold State.enqueue; split <;> rfl
@[simp] theorem enqueue_hostOut (s : State) (w lane tr : Nat) (sys : Bool) (pc : DWord) (hdr : Off) (op : SqOp) (a : DWord) : (s.enqueue w lane tr sys pc hdr op a).hostOut = s.hostOut := by
  unfold State.enqueue; split <;> rfl
@[simp] theorem enqueue_atsWait (s : State) (w lane tr : Nat) (sys : Bool) (pc : DWord) (hdr : Off) (op : SqOp) (a : DWord) : (s.enqueue w lane tr sys pc hdr op a).atsWait = s.atsWait := by
  unfold State.enqueue; split <;> rfl
@[simp] theorem enqueue_dies (s : State) (w lane tr : Nat) (sys : Bool) (pc : DWord) (hdr : Off) (op : SqOp) (a : DWord) : (s.enqueue w lane tr sys pc hdr op a).dies = s.dies := by
  unfold State.enqueue; split <;> rfl
@[simp] theorem enqueue_pnode (s : State) (w lane tr : Nat) (sys : Bool) (pc : DWord) (hdr : Off) (op : SqOp) (a : DWord) : (s.enqueue w lane tr sys pc hdr op a).pnode = s.pnode := by
  unfold State.enqueue; split <;> rfl
@[simp] theorem enqueue_holdover (s : State) (w lane tr : Nat) (sys : Bool) (pc : DWord) (hdr : Off) (op : SqOp) (a : DWord) : (s.enqueue w lane tr sys pc hdr op a).holdover = s.holdover := by
  unfold State.enqueue; split <;> rfl
@[simp] theorem enqueue_boot (s : State) (w lane tr : Nat) (sys : Bool) (pc : DWord) (hdr : Off) (op : SqOp) (a : DWord) : (s.enqueue w lane tr sys pc hdr op a).boot = s.boot := by
  unfold State.enqueue; split <;> rfl
@[simp] theorem enqueue_reports (s : State) (w lane tr : Nat) (sys : Bool) (pc : DWord) (hdr : Off) (op : SqOp) (a : DWord) : (s.enqueue w lane tr sys pc hdr op a).reports = s.reports := by
  unfold State.enqueue; split <;> rfl
@[simp] theorem enqueue_time (s : State) (w lane tr : Nat) (sys : Bool) (pc : DWord) (hdr : Off) (op : SqOp) (a : DWord) : (s.enqueue w lane tr sys pc hdr op a).time = s.time := by
  unfold State.enqueue; split <;> rfl
@[simp] theorem enqueue_fresh (s : State) (w lane tr : Nat) (sys : Bool) (pc : DWord) (hdr : Off) (op : SqOp) (a : DWord) : (s.enqueue w lane tr sys pc hdr op a).fresh = s.fresh := by
  unfold State.enqueue; split <;> rfl
@[simp] theorem enqueue_agenda (s : State) (w lane tr : Nat) (sys : Bool) (pc : DWord) (hdr : Off) (op : SqOp) (a : DWord) : (s.enqueue w lane tr sys pc hdr op a).agenda = s.agenda := by
  unfold State.enqueue; split <;> rfl
@[simp] theorem enqueue_turn (s : State) (w lane tr : Nat) (sys : Bool) (pc : DWord) (hdr : Off) (op : SqOp) (a : DWord) : (s.enqueue w lane tr sys pc hdr op a).turn = s.turn := by
  unfold State.enqueue; split <;> rfl
@[simp] theorem enqueue_slot (s : State) (w lane tr : Nat) (sys : Bool) (pc : DWord) (hdr : Off) (op : SqOp) (a : DWord) : (s.enqueue w lane tr sys pc hdr op a).slot = s.slot := by
  unfold State.enqueue; split <;> rfl
@[simp] theorem enqueue_cur (s : State) (w lane tr : Nat) (sys : Bool) (pc : DWord) (hdr : Off) (op : SqOp) (a : DWord) : (s.enqueue w lane tr sys pc hdr op a).cur = s.cur := by
  unfold State.enqueue; split <;> rfl
@[simp] theorem enqueue_issuing (s : State) (w lane tr : Nat) (sys : Bool) (pc : DWord) (hdr : Off) (op : SqOp) (a : DWord) : (s.enqueue w lane tr sys pc hdr op a).issuing = s.issuing := by
  unfold State.enqueue; split <;> rfl

/-! ### `Weft.modLane` -/

@[simp] theorem weft_modLane_id (w : Weft) (i : Nat) (f : Lane → Lane) : (w.modLane i f).id = w.id := rfl
@[simp] theorem weft_modLane_panel (w : Weft) (i : Nat) (f : Lane → Lane) : (w.modLane i f).panel = w.panel := rfl
@[simp] theorem weft_modLane_pweft (w : Weft) (i : Nat) (f : Lane → Lane) : (w.modLane i f).pweft = w.pweft := rfl
@[simp] theorem weft_modLane_slotNo (w : Weft) (i : Nat) (f : Lane → Lane) : (w.modLane i f).slotNo = w.slotNo := rfl
@[simp] theorem weft_modLane_core (w : Weft) (i : Nat) (f : Lane → Lane) : (w.modLane i f).core = w.core := rfl
@[simp] theorem weft_modLane_regs (w : Weft) (i : Nat) (f : Lane → Lane) : (w.modLane i f).regs = w.regs := rfl
@[simp] theorem weft_modLane_poison (w : Weft) (i : Nat) (f : Lane → Lane) : (w.modLane i f).poison = w.poison := rfl
@[simp] theorem weft_modLane_pend (w : Weft) (i : Nat) (f : Lane → Lane) : (w.modLane i f).pend = w.pend := rfl
@[simp] theorem weft_modLane_tracks (w : Weft) (i : Nat) (f : Lane → Lane) : (w.modLane i f).tracks = w.tracks := rfl
@[simp] theorem weft_modLane_flags (w : Weft) (i : Nat) (f : Lane → Lane) : (w.modLane i f).flags = w.flags := rfl
@[simp] theorem weft_modLane_masks (w : Weft) (i : Nat) (f : Lane → Lane) : (w.modLane i f).masks = w.masks := rfl
@[simp] theorem weft_modLane_handles (w : Weft) (i : Nat) (f : Lane → Lane) : (w.modLane i f).handles = w.handles := rfl
@[simp] theorem weft_modLane_sq (w : Weft) (i : Nat) (f : Lane → Lane) : (w.modLane i f).sq = w.sq := rfl
@[simp] theorem weft_modLane_loads (w : Weft) (i : Nat) (f : Lane → Lane) : (w.modLane i f).loads = w.loads := rfl
@[simp] theorem weft_modLane_subs (w : Weft) (i : Nat) (f : Lane → Lane) : (w.modLane i f).subs = w.subs := rfl
@[simp] theorem weft_modLane_nodes (w : Weft) (i : Nat) (f : Lane → Lane) : (w.modLane i f).nodes = w.nodes := rfl
@[simp] theorem weft_modLane_hang (w : Weft) (i : Nat) (f : Lane → Lane) : (w.modLane i f).hang = w.hang := rfl
@[simp] theorem weft_modLane_swWait (w : Weft) (i : Nat) (f : Lane → Lane) : (w.modLane i f).swWait = w.swWait := rfl
@[simp] theorem weft_modLane_halted (w : Weft) (i : Nat) (f : Lane → Lane) : (w.modLane i f).halted = w.halted := rfl
@[simp] theorem weft_modLane_step (w : Weft) (i : Nat) (f : Lane → Lane) : (w.modLane i f).step = w.step := rfl
@[simp] theorem weft_modLane_skipAt (w : Weft) (i : Nat) (f : Lane → Lane) : (w.modLane i f).skipAt = w.skipAt := rfl

/-! ### `Weft.setRegs` -/

@[simp] theorem weft_setRegs_id (w : Weft) (vs : List (Nat × DWord)) (pz : List Nat) : (w.setRegs vs pz).id = w.id := rfl
@[simp] theorem weft_setRegs_panel (w : Weft) (vs : List (Nat × DWord)) (pz : List Nat) : (w.setRegs vs pz).panel = w.panel := rfl
@[simp] theorem weft_setRegs_pweft (w : Weft) (vs : List (Nat × DWord)) (pz : List Nat) : (w.setRegs vs pz).pweft = w.pweft := rfl
@[simp] theorem weft_setRegs_slotNo (w : Weft) (vs : List (Nat × DWord)) (pz : List Nat) : (w.setRegs vs pz).slotNo = w.slotNo := rfl
@[simp] theorem weft_setRegs_core (w : Weft) (vs : List (Nat × DWord)) (pz : List Nat) : (w.setRegs vs pz).core = w.core := rfl
@[simp] theorem weft_setRegs_lanes (w : Weft) (vs : List (Nat × DWord)) (pz : List Nat) : (w.setRegs vs pz).lanes = w.lanes := rfl
@[simp] theorem weft_setRegs_tracks (w : Weft) (vs : List (Nat × DWord)) (pz : List Nat) : (w.setRegs vs pz).tracks = w.tracks := rfl
@[simp] theorem weft_setRegs_flags (w : Weft) (vs : List (Nat × DWord)) (pz : List Nat) : (w.setRegs vs pz).flags = w.flags := rfl
@[simp] theorem weft_setRegs_masks (w : Weft) (vs : List (Nat × DWord)) (pz : List Nat) : (w.setRegs vs pz).masks = w.masks := rfl
@[simp] theorem weft_setRegs_handles (w : Weft) (vs : List (Nat × DWord)) (pz : List Nat) : (w.setRegs vs pz).handles = w.handles := rfl
@[simp] theorem weft_setRegs_sq (w : Weft) (vs : List (Nat × DWord)) (pz : List Nat) : (w.setRegs vs pz).sq = w.sq := rfl
@[simp] theorem weft_setRegs_loads (w : Weft) (vs : List (Nat × DWord)) (pz : List Nat) : (w.setRegs vs pz).loads = w.loads := rfl
@[simp] theorem weft_setRegs_subs (w : Weft) (vs : List (Nat × DWord)) (pz : List Nat) : (w.setRegs vs pz).subs = w.subs := rfl
@[simp] theorem weft_setRegs_nodes (w : Weft) (vs : List (Nat × DWord)) (pz : List Nat) : (w.setRegs vs pz).nodes = w.nodes := rfl
@[simp] theorem weft_setRegs_hang (w : Weft) (vs : List (Nat × DWord)) (pz : List Nat) : (w.setRegs vs pz).hang = w.hang := rfl
@[simp] theorem weft_setRegs_swWait (w : Weft) (vs : List (Nat × DWord)) (pz : List Nat) : (w.setRegs vs pz).swWait = w.swWait := rfl
@[simp] theorem weft_setRegs_halted (w : Weft) (vs : List (Nat × DWord)) (pz : List Nat) : (w.setRegs vs pz).halted = w.halted := rfl
@[simp] theorem weft_setRegs_step (w : Weft) (vs : List (Nat × DWord)) (pz : List Nat) : (w.setRegs vs pz).step = w.step := rfl
@[simp] theorem weft_setRegs_skipAt (w : Weft) (vs : List (Nat × DWord)) (pz : List Nat) : (w.setRegs vs pz).skipAt = w.skipAt := rfl

/-! ### `Weft.settled` -/

@[simp] theorem weft_settled_id (w : Weft) (slot picks : Nat) : (w.settled slot picks).id = w.id := rfl
@[simp] theorem weft_settled_panel (w : Weft) (slot picks : Nat) : (w.settled slot picks).panel = w.panel := rfl
@[simp] theorem weft_settled_pweft (w : Weft) (slot picks : Nat) : (w.settled slot picks).pweft = w.pweft := rfl
@[simp] theorem weft_settled_slotNo (w : Weft) (slot picks : Nat) : (w.settled slot picks).slotNo = w.slotNo := rfl
@[simp] theorem weft_settled_core (w : Weft) (slot picks : Nat) : (w.settled slot picks).core = w.core := rfl
@[simp] theorem weft_settled_lanes (w : Weft) (slot picks : Nat) : (w.settled slot picks).lanes = w.lanes := rfl
@[simp] theorem weft_settled_tracks (w : Weft) (slot picks : Nat) : (w.settled slot picks).tracks = w.tracks := rfl
@[simp] theorem weft_settled_flags (w : Weft) (slot picks : Nat) : (w.settled slot picks).flags = w.flags := rfl
@[simp] theorem weft_settled_masks (w : Weft) (slot picks : Nat) : (w.settled slot picks).masks = w.masks := rfl
@[simp] theorem weft_settled_handles (w : Weft) (slot picks : Nat) : (w.settled slot picks).handles = w.handles := rfl
@[simp] theorem weft_settled_sq (w : Weft) (slot picks : Nat) : (w.settled slot picks).sq = w.sq := rfl
@[simp] theorem weft_settled_loads (w : Weft) (slot picks : Nat) : (w.settled slot picks).loads = w.loads := rfl
@[simp] theorem weft_settled_subs (w : Weft) (slot picks : Nat) : (w.settled slot picks).subs = w.subs := rfl
@[simp] theorem weft_settled_nodes (w : Weft) (slot picks : Nat) : (w.settled slot picks).nodes = w.nodes := rfl
@[simp] theorem weft_settled_hang (w : Weft) (slot picks : Nat) : (w.settled slot picks).hang = w.hang := rfl
@[simp] theorem weft_settled_swWait (w : Weft) (slot picks : Nat) : (w.settled slot picks).swWait = w.swWait := rfl
@[simp] theorem weft_settled_halted (w : Weft) (slot picks : Nat) : (w.settled slot picks).halted = w.halted := rfl
@[simp] theorem weft_settled_step (w : Weft) (slot picks : Nat) : (w.settled slot picks).step = w.step := rfl
@[simp] theorem weft_settled_skipAt (w : Weft) (slot picks : Nat) : (w.settled slot picks).skipAt = w.skipAt := rfl

/-! ### `Weft.addFixed` -/

@[simp] theorem weft_addFixed_id (w : Weft) (slot lat : Nat) (vs : List (Nat × DWord)) (pz : List Nat) : (w.addFixed slot lat vs pz).id = w.id := by
  unfold Weft.addFixed; split <;> rfl
@[simp] theorem weft_addFixed_panel (w : Weft) (slot lat : Nat) (vs : List (Nat × DWord)) (pz : List Nat) : (w.addFixed slot lat vs pz).panel = w.panel := by
  unfold Weft.addFixed; split <;> rfl
@[simp] theorem weft_addFixed_pweft (w : Weft) (slot lat : Nat) (vs : List (Nat × DWord)) (pz : List Nat) : (w.addFixed slot lat vs pz).pweft = w.pweft := by
  unfold Weft.addFixed; split <;> rfl
@[simp] theorem weft_addFixed_slotNo (w : Weft) (slot lat : Nat) (vs : List (Nat × DWord)) (pz : List Nat) : (w.addFixed slot lat vs pz).slotNo = w.slotNo := by
  unfold Weft.addFixed; split <;> rfl
@[simp] theorem weft_addFixed_core (w : Weft) (slot lat : Nat) (vs : List (Nat × DWord)) (pz : List Nat) : (w.addFixed slot lat vs pz).core = w.core := by
  unfold Weft.addFixed; split <;> rfl
@[simp] theorem weft_addFixed_lanes (w : Weft) (slot lat : Nat) (vs : List (Nat × DWord)) (pz : List Nat) : (w.addFixed slot lat vs pz).lanes = w.lanes := by
  unfold Weft.addFixed; split <;> rfl
@[simp] theorem weft_addFixed_regs (w : Weft) (slot lat : Nat) (vs : List (Nat × DWord)) (pz : List Nat) : (w.addFixed slot lat vs pz).regs = w.regs := by
  unfold Weft.addFixed; split <;> rfl
@[simp] theorem weft_addFixed_poison (w : Weft) (slot lat : Nat) (vs : List (Nat × DWord)) (pz : List Nat) : (w.addFixed slot lat vs pz).poison = w.poison := by
  unfold Weft.addFixed; split <;> rfl
@[simp] theorem weft_addFixed_tracks (w : Weft) (slot lat : Nat) (vs : List (Nat × DWord)) (pz : List Nat) : (w.addFixed slot lat vs pz).tracks = w.tracks := by
  unfold Weft.addFixed; split <;> rfl
@[simp] theorem weft_addFixed_flags (w : Weft) (slot lat : Nat) (vs : List (Nat × DWord)) (pz : List Nat) : (w.addFixed slot lat vs pz).flags = w.flags := by
  unfold Weft.addFixed; split <;> rfl
@[simp] theorem weft_addFixed_masks (w : Weft) (slot lat : Nat) (vs : List (Nat × DWord)) (pz : List Nat) : (w.addFixed slot lat vs pz).masks = w.masks := by
  unfold Weft.addFixed; split <;> rfl
@[simp] theorem weft_addFixed_handles (w : Weft) (slot lat : Nat) (vs : List (Nat × DWord)) (pz : List Nat) : (w.addFixed slot lat vs pz).handles = w.handles := by
  unfold Weft.addFixed; split <;> rfl
@[simp] theorem weft_addFixed_sq (w : Weft) (slot lat : Nat) (vs : List (Nat × DWord)) (pz : List Nat) : (w.addFixed slot lat vs pz).sq = w.sq := by
  unfold Weft.addFixed; split <;> rfl
@[simp] theorem weft_addFixed_loads (w : Weft) (slot lat : Nat) (vs : List (Nat × DWord)) (pz : List Nat) : (w.addFixed slot lat vs pz).loads = w.loads := by
  unfold Weft.addFixed; split <;> rfl
@[simp] theorem weft_addFixed_subs (w : Weft) (slot lat : Nat) (vs : List (Nat × DWord)) (pz : List Nat) : (w.addFixed slot lat vs pz).subs = w.subs := by
  unfold Weft.addFixed; split <;> rfl
@[simp] theorem weft_addFixed_nodes (w : Weft) (slot lat : Nat) (vs : List (Nat × DWord)) (pz : List Nat) : (w.addFixed slot lat vs pz).nodes = w.nodes := by
  unfold Weft.addFixed; split <;> rfl
@[simp] theorem weft_addFixed_hang (w : Weft) (slot lat : Nat) (vs : List (Nat × DWord)) (pz : List Nat) : (w.addFixed slot lat vs pz).hang = w.hang := by
  unfold Weft.addFixed; split <;> rfl
@[simp] theorem weft_addFixed_swWait (w : Weft) (slot lat : Nat) (vs : List (Nat × DWord)) (pz : List Nat) : (w.addFixed slot lat vs pz).swWait = w.swWait := by
  unfold Weft.addFixed; split <;> rfl
@[simp] theorem weft_addFixed_halted (w : Weft) (slot lat : Nat) (vs : List (Nat × DWord)) (pz : List Nat) : (w.addFixed slot lat vs pz).halted = w.halted := by
  unfold Weft.addFixed; split <;> rfl
@[simp] theorem weft_addFixed_step (w : Weft) (slot lat : Nat) (vs : List (Nat × DWord)) (pz : List Nat) : (w.addFixed slot lat vs pz).step = w.step := by
  unfold Weft.addFixed; split <;> rfl
@[simp] theorem weft_addFixed_skipAt (w : Weft) (slot lat : Nat) (vs : List (Nat × DWord)) (pz : List Nat) : (w.addFixed slot lat vs pz).skipAt = w.skipAt := by
  unfold Weft.addFixed; split <;> rfl

/-! ### `Weft.addTracked` -/

@[simp] theorem weft_addTracked_id (w : Weft) (op : Nat) (vs : List (Nat × DWord)) (pz : List Nat) : (w.addTracked op vs pz).id = w.id := by
  unfold Weft.addTracked; split <;> rfl
@[simp] theorem weft_addTracked_panel (w : Weft) (op : Nat) (vs : List (Nat × DWord)) (pz : List Nat) : (w.addTracked op vs pz).panel = w.panel := by
  unfold Weft.addTracked; split <;> rfl
@[simp] theorem weft_addTracked_pweft (w : Weft) (op : Nat) (vs : List (Nat × DWord)) (pz : List Nat) : (w.addTracked op vs pz).pweft = w.pweft := by
  unfold Weft.addTracked; split <;> rfl
@[simp] theorem weft_addTracked_slotNo (w : Weft) (op : Nat) (vs : List (Nat × DWord)) (pz : List Nat) : (w.addTracked op vs pz).slotNo = w.slotNo := by
  unfold Weft.addTracked; split <;> rfl
@[simp] theorem weft_addTracked_core (w : Weft) (op : Nat) (vs : List (Nat × DWord)) (pz : List Nat) : (w.addTracked op vs pz).core = w.core := by
  unfold Weft.addTracked; split <;> rfl
@[simp] theorem weft_addTracked_lanes (w : Weft) (op : Nat) (vs : List (Nat × DWord)) (pz : List Nat) : (w.addTracked op vs pz).lanes = w.lanes := by
  unfold Weft.addTracked; split <;> rfl
@[simp] theorem weft_addTracked_regs (w : Weft) (op : Nat) (vs : List (Nat × DWord)) (pz : List Nat) : (w.addTracked op vs pz).regs = w.regs := by
  unfold Weft.addTracked; split <;> rfl
@[simp] theorem weft_addTracked_poison (w : Weft) (op : Nat) (vs : List (Nat × DWord)) (pz : List Nat) : (w.addTracked op vs pz).poison = w.poison := by
  unfold Weft.addTracked; split <;> rfl
@[simp] theorem weft_addTracked_tracks (w : Weft) (op : Nat) (vs : List (Nat × DWord)) (pz : List Nat) : (w.addTracked op vs pz).tracks = w.tracks := by
  unfold Weft.addTracked; split <;> rfl
@[simp] theorem weft_addTracked_flags (w : Weft) (op : Nat) (vs : List (Nat × DWord)) (pz : List Nat) : (w.addTracked op vs pz).flags = w.flags := by
  unfold Weft.addTracked; split <;> rfl
@[simp] theorem weft_addTracked_masks (w : Weft) (op : Nat) (vs : List (Nat × DWord)) (pz : List Nat) : (w.addTracked op vs pz).masks = w.masks := by
  unfold Weft.addTracked; split <;> rfl
@[simp] theorem weft_addTracked_handles (w : Weft) (op : Nat) (vs : List (Nat × DWord)) (pz : List Nat) : (w.addTracked op vs pz).handles = w.handles := by
  unfold Weft.addTracked; split <;> rfl
@[simp] theorem weft_addTracked_sq (w : Weft) (op : Nat) (vs : List (Nat × DWord)) (pz : List Nat) : (w.addTracked op vs pz).sq = w.sq := by
  unfold Weft.addTracked; split <;> rfl
@[simp] theorem weft_addTracked_loads (w : Weft) (op : Nat) (vs : List (Nat × DWord)) (pz : List Nat) : (w.addTracked op vs pz).loads = w.loads := by
  unfold Weft.addTracked; split <;> rfl
@[simp] theorem weft_addTracked_subs (w : Weft) (op : Nat) (vs : List (Nat × DWord)) (pz : List Nat) : (w.addTracked op vs pz).subs = w.subs := by
  unfold Weft.addTracked; split <;> rfl
@[simp] theorem weft_addTracked_nodes (w : Weft) (op : Nat) (vs : List (Nat × DWord)) (pz : List Nat) : (w.addTracked op vs pz).nodes = w.nodes := by
  unfold Weft.addTracked; split <;> rfl
@[simp] theorem weft_addTracked_hang (w : Weft) (op : Nat) (vs : List (Nat × DWord)) (pz : List Nat) : (w.addTracked op vs pz).hang = w.hang := by
  unfold Weft.addTracked; split <;> rfl
@[simp] theorem weft_addTracked_swWait (w : Weft) (op : Nat) (vs : List (Nat × DWord)) (pz : List Nat) : (w.addTracked op vs pz).swWait = w.swWait := by
  unfold Weft.addTracked; split <;> rfl
@[simp] theorem weft_addTracked_halted (w : Weft) (op : Nat) (vs : List (Nat × DWord)) (pz : List Nat) : (w.addTracked op vs pz).halted = w.halted := by
  unfold Weft.addTracked; split <;> rfl
@[simp] theorem weft_addTracked_step (w : Weft) (op : Nat) (vs : List (Nat × DWord)) (pz : List Nat) : (w.addTracked op vs pz).step = w.step := by
  unfold Weft.addTracked; split <;> rfl
@[simp] theorem weft_addTracked_skipAt (w : Weft) (op : Nat) (vs : List (Nat × DWord)) (pz : List Nat) : (w.addTracked op vs pz).skipAt = w.skipAt := by
  unfold Weft.addTracked; split <;> rfl

/-! ### `Weft.addUnknown` -/

@[simp] theorem weft_addUnknown_id (w : Weft) (op : Nat) (ks : List Nat) : (w.addUnknown op ks).id = w.id := by
  unfold Weft.addUnknown; split <;> rfl
@[simp] theorem weft_addUnknown_panel (w : Weft) (op : Nat) (ks : List Nat) : (w.addUnknown op ks).panel = w.panel := by
  unfold Weft.addUnknown; split <;> rfl
@[simp] theorem weft_addUnknown_pweft (w : Weft) (op : Nat) (ks : List Nat) : (w.addUnknown op ks).pweft = w.pweft := by
  unfold Weft.addUnknown; split <;> rfl
@[simp] theorem weft_addUnknown_slotNo (w : Weft) (op : Nat) (ks : List Nat) : (w.addUnknown op ks).slotNo = w.slotNo := by
  unfold Weft.addUnknown; split <;> rfl
@[simp] theorem weft_addUnknown_core (w : Weft) (op : Nat) (ks : List Nat) : (w.addUnknown op ks).core = w.core := by
  unfold Weft.addUnknown; split <;> rfl
@[simp] theorem weft_addUnknown_lanes (w : Weft) (op : Nat) (ks : List Nat) : (w.addUnknown op ks).lanes = w.lanes := by
  unfold Weft.addUnknown; split <;> rfl
@[simp] theorem weft_addUnknown_regs (w : Weft) (op : Nat) (ks : List Nat) : (w.addUnknown op ks).regs = w.regs := by
  unfold Weft.addUnknown; split <;> rfl
@[simp] theorem weft_addUnknown_poison (w : Weft) (op : Nat) (ks : List Nat) : (w.addUnknown op ks).poison = w.poison := by
  unfold Weft.addUnknown; split <;> rfl
@[simp] theorem weft_addUnknown_tracks (w : Weft) (op : Nat) (ks : List Nat) : (w.addUnknown op ks).tracks = w.tracks := by
  unfold Weft.addUnknown; split <;> rfl
@[simp] theorem weft_addUnknown_flags (w : Weft) (op : Nat) (ks : List Nat) : (w.addUnknown op ks).flags = w.flags := by
  unfold Weft.addUnknown; split <;> rfl
@[simp] theorem weft_addUnknown_masks (w : Weft) (op : Nat) (ks : List Nat) : (w.addUnknown op ks).masks = w.masks := by
  unfold Weft.addUnknown; split <;> rfl
@[simp] theorem weft_addUnknown_handles (w : Weft) (op : Nat) (ks : List Nat) : (w.addUnknown op ks).handles = w.handles := by
  unfold Weft.addUnknown; split <;> rfl
@[simp] theorem weft_addUnknown_sq (w : Weft) (op : Nat) (ks : List Nat) : (w.addUnknown op ks).sq = w.sq := by
  unfold Weft.addUnknown; split <;> rfl
@[simp] theorem weft_addUnknown_loads (w : Weft) (op : Nat) (ks : List Nat) : (w.addUnknown op ks).loads = w.loads := by
  unfold Weft.addUnknown; split <;> rfl
@[simp] theorem weft_addUnknown_subs (w : Weft) (op : Nat) (ks : List Nat) : (w.addUnknown op ks).subs = w.subs := by
  unfold Weft.addUnknown; split <;> rfl
@[simp] theorem weft_addUnknown_nodes (w : Weft) (op : Nat) (ks : List Nat) : (w.addUnknown op ks).nodes = w.nodes := by
  unfold Weft.addUnknown; split <;> rfl
@[simp] theorem weft_addUnknown_hang (w : Weft) (op : Nat) (ks : List Nat) : (w.addUnknown op ks).hang = w.hang := by
  unfold Weft.addUnknown; split <;> rfl
@[simp] theorem weft_addUnknown_swWait (w : Weft) (op : Nat) (ks : List Nat) : (w.addUnknown op ks).swWait = w.swWait := by
  unfold Weft.addUnknown; split <;> rfl
@[simp] theorem weft_addUnknown_halted (w : Weft) (op : Nat) (ks : List Nat) : (w.addUnknown op ks).halted = w.halted := by
  unfold Weft.addUnknown; split <;> rfl
@[simp] theorem weft_addUnknown_step (w : Weft) (op : Nat) (ks : List Nat) : (w.addUnknown op ks).step = w.step := by
  unfold Weft.addUnknown; split <;> rfl
@[simp] theorem weft_addUnknown_skipAt (w : Weft) (op : Nat) (ks : List Nat) : (w.addUnknown op ks).skipAt = w.skipAt := by
  unfold Weft.addUnknown; split <;> rfl

/-! ### `Weft.fillPend` -/

@[simp] theorem weft_fillPend_id (w : Weft) (op : Nat) (f : Nat → DWord × Bool) : (w.fillPend op f).id = w.id := rfl
@[simp] theorem weft_fillPend_panel (w : Weft) (op : Nat) (f : Nat → DWord × Bool) : (w.fillPend op f).panel = w.panel := rfl
@[simp] theorem weft_fillPend_pweft (w : Weft) (op : Nat) (f : Nat → DWord × Bool) : (w.fillPend op f).pweft = w.pweft := rfl
@[simp] theorem weft_fillPend_slotNo (w : Weft) (op : Nat) (f : Nat → DWord × Bool) : (w.fillPend op f).slotNo = w.slotNo := rfl
@[simp] theorem weft_fillPend_core (w : Weft) (op : Nat) (f : Nat → DWord × Bool) : (w.fillPend op f).core = w.core := rfl
@[simp] theorem weft_fillPend_lanes (w : Weft) (op : Nat) (f : Nat → DWord × Bool) : (w.fillPend op f).lanes = w.lanes := rfl
@[simp] theorem weft_fillPend_regs (w : Weft) (op : Nat) (f : Nat → DWord × Bool) : (w.fillPend op f).regs = w.regs := rfl
@[simp] theorem weft_fillPend_poison (w : Weft) (op : Nat) (f : Nat → DWord × Bool) : (w.fillPend op f).poison = w.poison := rfl
@[simp] theorem weft_fillPend_tracks (w : Weft) (op : Nat) (f : Nat → DWord × Bool) : (w.fillPend op f).tracks = w.tracks := rfl
@[simp] theorem weft_fillPend_flags (w : Weft) (op : Nat) (f : Nat → DWord × Bool) : (w.fillPend op f).flags = w.flags := rfl
@[simp] theorem weft_fillPend_masks (w : Weft) (op : Nat) (f : Nat → DWord × Bool) : (w.fillPend op f).masks = w.masks := rfl
@[simp] theorem weft_fillPend_handles (w : Weft) (op : Nat) (f : Nat → DWord × Bool) : (w.fillPend op f).handles = w.handles := rfl
@[simp] theorem weft_fillPend_sq (w : Weft) (op : Nat) (f : Nat → DWord × Bool) : (w.fillPend op f).sq = w.sq := rfl
@[simp] theorem weft_fillPend_loads (w : Weft) (op : Nat) (f : Nat → DWord × Bool) : (w.fillPend op f).loads = w.loads := rfl
@[simp] theorem weft_fillPend_subs (w : Weft) (op : Nat) (f : Nat → DWord × Bool) : (w.fillPend op f).subs = w.subs := rfl
@[simp] theorem weft_fillPend_nodes (w : Weft) (op : Nat) (f : Nat → DWord × Bool) : (w.fillPend op f).nodes = w.nodes := rfl
@[simp] theorem weft_fillPend_hang (w : Weft) (op : Nat) (f : Nat → DWord × Bool) : (w.fillPend op f).hang = w.hang := rfl
@[simp] theorem weft_fillPend_swWait (w : Weft) (op : Nat) (f : Nat → DWord × Bool) : (w.fillPend op f).swWait = w.swWait := rfl
@[simp] theorem weft_fillPend_halted (w : Weft) (op : Nat) (f : Nat → DWord × Bool) : (w.fillPend op f).halted = w.halted := rfl
@[simp] theorem weft_fillPend_step (w : Weft) (op : Nat) (f : Nat → DWord × Bool) : (w.fillPend op f).step = w.step := rfl
@[simp] theorem weft_fillPend_skipAt (w : Weft) (op : Nat) (f : Nat → DWord × Bool) : (w.fillPend op f).skipAt = w.skipAt := rfl

/-! ### `Weft.flagUp` -/

@[simp] theorem weft_flagUp_id (w : Weft) (n : Nat) : (w.flagUp n).id = w.id := by
  unfold Weft.flagUp; split <;> rfl
@[simp] theorem weft_flagUp_panel (w : Weft) (n : Nat) : (w.flagUp n).panel = w.panel := by
  unfold Weft.flagUp; split <;> rfl
@[simp] theorem weft_flagUp_pweft (w : Weft) (n : Nat) : (w.flagUp n).pweft = w.pweft := by
  unfold Weft.flagUp; split <;> rfl
@[simp] theorem weft_flagUp_slotNo (w : Weft) (n : Nat) : (w.flagUp n).slotNo = w.slotNo := by
  unfold Weft.flagUp; split <;> rfl
@[simp] theorem weft_flagUp_core (w : Weft) (n : Nat) : (w.flagUp n).core = w.core := by
  unfold Weft.flagUp; split <;> rfl
@[simp] theorem weft_flagUp_lanes (w : Weft) (n : Nat) : (w.flagUp n).lanes = w.lanes := by
  unfold Weft.flagUp; split <;> rfl
@[simp] theorem weft_flagUp_regs (w : Weft) (n : Nat) : (w.flagUp n).regs = w.regs := by
  unfold Weft.flagUp; split <;> rfl
@[simp] theorem weft_flagUp_poison (w : Weft) (n : Nat) : (w.flagUp n).poison = w.poison := by
  unfold Weft.flagUp; split <;> rfl
@[simp] theorem weft_flagUp_pend (w : Weft) (n : Nat) : (w.flagUp n).pend = w.pend := by
  unfold Weft.flagUp; split <;> rfl
@[simp] theorem weft_flagUp_tracks (w : Weft) (n : Nat) : (w.flagUp n).tracks = w.tracks := by
  unfold Weft.flagUp; split <;> rfl
@[simp] theorem weft_flagUp_masks (w : Weft) (n : Nat) : (w.flagUp n).masks = w.masks := by
  unfold Weft.flagUp; split <;> rfl
@[simp] theorem weft_flagUp_handles (w : Weft) (n : Nat) : (w.flagUp n).handles = w.handles := by
  unfold Weft.flagUp; split <;> rfl
@[simp] theorem weft_flagUp_sq (w : Weft) (n : Nat) : (w.flagUp n).sq = w.sq := by
  unfold Weft.flagUp; split <;> rfl
@[simp] theorem weft_flagUp_loads (w : Weft) (n : Nat) : (w.flagUp n).loads = w.loads := by
  unfold Weft.flagUp; split <;> rfl
@[simp] theorem weft_flagUp_subs (w : Weft) (n : Nat) : (w.flagUp n).subs = w.subs := by
  unfold Weft.flagUp; split <;> rfl
@[simp] theorem weft_flagUp_nodes (w : Weft) (n : Nat) : (w.flagUp n).nodes = w.nodes := by
  unfold Weft.flagUp; split <;> rfl
@[simp] theorem weft_flagUp_hang (w : Weft) (n : Nat) : (w.flagUp n).hang = w.hang := by
  unfold Weft.flagUp; split <;> rfl
@[simp] theorem weft_flagUp_swWait (w : Weft) (n : Nat) : (w.flagUp n).swWait = w.swWait := by
  unfold Weft.flagUp; split <;> rfl
@[simp] theorem weft_flagUp_halted (w : Weft) (n : Nat) : (w.flagUp n).halted = w.halted := by
  unfold Weft.flagUp; split <;> rfl
@[simp] theorem weft_flagUp_step (w : Weft) (n : Nat) : (w.flagUp n).step = w.step := by
  unfold Weft.flagUp; split <;> rfl
@[simp] theorem weft_flagUp_skipAt (w : Weft) (n : Nat) : (w.flagUp n).skipAt = w.skipAt := by
  unfold Weft.flagUp; split <;> rfl

/-! ### `Weft.flagDown` -/

@[simp] theorem weft_flagDown_id (w : Weft) (n : Nat) : (w.flagDown n).id = w.id := by
  unfold Weft.flagDown; split <;> rfl
@[simp] theorem weft_flagDown_panel (w : Weft) (n : Nat) : (w.flagDown n).panel = w.panel := by
  unfold Weft.flagDown; split <;> rfl
@[simp] theorem weft_flagDown_pweft (w : Weft) (n : Nat) : (w.flagDown n).pweft = w.pweft := by
  unfold Weft.flagDown; split <;> rfl
@[simp] theorem weft_flagDown_slotNo (w : Weft) (n : Nat) : (w.flagDown n).slotNo = w.slotNo := by
  unfold Weft.flagDown; split <;> rfl
@[simp] theorem weft_flagDown_core (w : Weft) (n : Nat) : (w.flagDown n).core = w.core := by
  unfold Weft.flagDown; split <;> rfl
@[simp] theorem weft_flagDown_lanes (w : Weft) (n : Nat) : (w.flagDown n).lanes = w.lanes := by
  unfold Weft.flagDown; split <;> rfl
@[simp] theorem weft_flagDown_regs (w : Weft) (n : Nat) : (w.flagDown n).regs = w.regs := by
  unfold Weft.flagDown; split <;> rfl
@[simp] theorem weft_flagDown_poison (w : Weft) (n : Nat) : (w.flagDown n).poison = w.poison := by
  unfold Weft.flagDown; split <;> rfl
@[simp] theorem weft_flagDown_pend (w : Weft) (n : Nat) : (w.flagDown n).pend = w.pend := by
  unfold Weft.flagDown; split <;> rfl
@[simp] theorem weft_flagDown_tracks (w : Weft) (n : Nat) : (w.flagDown n).tracks = w.tracks := by
  unfold Weft.flagDown; split <;> rfl
@[simp] theorem weft_flagDown_masks (w : Weft) (n : Nat) : (w.flagDown n).masks = w.masks := by
  unfold Weft.flagDown; split <;> rfl
@[simp] theorem weft_flagDown_handles (w : Weft) (n : Nat) : (w.flagDown n).handles = w.handles := by
  unfold Weft.flagDown; split <;> rfl
@[simp] theorem weft_flagDown_sq (w : Weft) (n : Nat) : (w.flagDown n).sq = w.sq := by
  unfold Weft.flagDown; split <;> rfl
@[simp] theorem weft_flagDown_loads (w : Weft) (n : Nat) : (w.flagDown n).loads = w.loads := by
  unfold Weft.flagDown; split <;> rfl
@[simp] theorem weft_flagDown_subs (w : Weft) (n : Nat) : (w.flagDown n).subs = w.subs := by
  unfold Weft.flagDown; split <;> rfl
@[simp] theorem weft_flagDown_nodes (w : Weft) (n : Nat) : (w.flagDown n).nodes = w.nodes := by
  unfold Weft.flagDown; split <;> rfl
@[simp] theorem weft_flagDown_hang (w : Weft) (n : Nat) : (w.flagDown n).hang = w.hang := by
  unfold Weft.flagDown; split <;> rfl
@[simp] theorem weft_flagDown_swWait (w : Weft) (n : Nat) : (w.flagDown n).swWait = w.swWait := by
  unfold Weft.flagDown; split <;> rfl
@[simp] theorem weft_flagDown_halted (w : Weft) (n : Nat) : (w.flagDown n).halted = w.halted := by
  unfold Weft.flagDown; split <;> rfl
@[simp] theorem weft_flagDown_step (w : Weft) (n : Nat) : (w.flagDown n).step = w.step := by
  unfold Weft.flagDown; split <;> rfl
@[simp] theorem weft_flagDown_skipAt (w : Weft) (n : Nat) : (w.flagDown n).skipAt = w.skipAt := by
  unfold Weft.flagDown; split <;> rfl

/-! ### `Weft.addParts` -/

@[simp] theorem weft_addParts_id (w : Weft) (id n : Nat) : (w.addParts id n).id = w.id := rfl
@[simp] theorem weft_addParts_panel (w : Weft) (id n : Nat) : (w.addParts id n).panel = w.panel := rfl
@[simp] theorem weft_addParts_pweft (w : Weft) (id n : Nat) : (w.addParts id n).pweft = w.pweft := rfl
@[simp] theorem weft_addParts_slotNo (w : Weft) (id n : Nat) : (w.addParts id n).slotNo = w.slotNo := rfl
@[simp] theorem weft_addParts_core (w : Weft) (id n : Nat) : (w.addParts id n).core = w.core := rfl
@[simp] theorem weft_addParts_lanes (w : Weft) (id n : Nat) : (w.addParts id n).lanes = w.lanes := rfl
@[simp] theorem weft_addParts_regs (w : Weft) (id n : Nat) : (w.addParts id n).regs = w.regs := rfl
@[simp] theorem weft_addParts_poison (w : Weft) (id n : Nat) : (w.addParts id n).poison = w.poison := rfl
@[simp] theorem weft_addParts_pend (w : Weft) (id n : Nat) : (w.addParts id n).pend = w.pend := rfl
@[simp] theorem weft_addParts_flags (w : Weft) (id n : Nat) : (w.addParts id n).flags = w.flags := rfl
@[simp] theorem weft_addParts_masks (w : Weft) (id n : Nat) : (w.addParts id n).masks = w.masks := rfl
@[simp] theorem weft_addParts_handles (w : Weft) (id n : Nat) : (w.addParts id n).handles = w.handles := rfl
@[simp] theorem weft_addParts_sq (w : Weft) (id n : Nat) : (w.addParts id n).sq = w.sq := rfl
@[simp] theorem weft_addParts_loads (w : Weft) (id n : Nat) : (w.addParts id n).loads = w.loads := rfl
@[simp] theorem weft_addParts_subs (w : Weft) (id n : Nat) : (w.addParts id n).subs = w.subs := rfl
@[simp] theorem weft_addParts_nodes (w : Weft) (id n : Nat) : (w.addParts id n).nodes = w.nodes := rfl
@[simp] theorem weft_addParts_hang (w : Weft) (id n : Nat) : (w.addParts id n).hang = w.hang := rfl
@[simp] theorem weft_addParts_swWait (w : Weft) (id n : Nat) : (w.addParts id n).swWait = w.swWait := rfl
@[simp] theorem weft_addParts_halted (w : Weft) (id n : Nat) : (w.addParts id n).halted = w.halted := rfl
@[simp] theorem weft_addParts_step (w : Weft) (id n : Nat) : (w.addParts id n).step = w.step := rfl
@[simp] theorem weft_addParts_skipAt (w : Weft) (id n : Nat) : (w.addParts id n).skipAt = w.skipAt := rfl

/-! ### `Weft.addDue` -/

@[simp] theorem weft_addDue_id (w : Weft) (id slot lat : Nat) : (w.addDue id slot lat).id = w.id := rfl
@[simp] theorem weft_addDue_panel (w : Weft) (id slot lat : Nat) : (w.addDue id slot lat).panel = w.panel := rfl
@[simp] theorem weft_addDue_pweft (w : Weft) (id slot lat : Nat) : (w.addDue id slot lat).pweft = w.pweft := rfl
@[simp] theorem weft_addDue_slotNo (w : Weft) (id slot lat : Nat) : (w.addDue id slot lat).slotNo = w.slotNo := rfl
@[simp] theorem weft_addDue_core (w : Weft) (id slot lat : Nat) : (w.addDue id slot lat).core = w.core := rfl
@[simp] theorem weft_addDue_lanes (w : Weft) (id slot lat : Nat) : (w.addDue id slot lat).lanes = w.lanes := rfl
@[simp] theorem weft_addDue_regs (w : Weft) (id slot lat : Nat) : (w.addDue id slot lat).regs = w.regs := rfl
@[simp] theorem weft_addDue_poison (w : Weft) (id slot lat : Nat) : (w.addDue id slot lat).poison = w.poison := rfl
@[simp] theorem weft_addDue_pend (w : Weft) (id slot lat : Nat) : (w.addDue id slot lat).pend = w.pend := rfl
@[simp] theorem weft_addDue_flags (w : Weft) (id slot lat : Nat) : (w.addDue id slot lat).flags = w.flags := rfl
@[simp] theorem weft_addDue_masks (w : Weft) (id slot lat : Nat) : (w.addDue id slot lat).masks = w.masks := rfl
@[simp] theorem weft_addDue_handles (w : Weft) (id slot lat : Nat) : (w.addDue id slot lat).handles = w.handles := rfl
@[simp] theorem weft_addDue_sq (w : Weft) (id slot lat : Nat) : (w.addDue id slot lat).sq = w.sq := rfl
@[simp] theorem weft_addDue_loads (w : Weft) (id slot lat : Nat) : (w.addDue id slot lat).loads = w.loads := rfl
@[simp] theorem weft_addDue_subs (w : Weft) (id slot lat : Nat) : (w.addDue id slot lat).subs = w.subs := rfl
@[simp] theorem weft_addDue_nodes (w : Weft) (id slot lat : Nat) : (w.addDue id slot lat).nodes = w.nodes := rfl
@[simp] theorem weft_addDue_hang (w : Weft) (id slot lat : Nat) : (w.addDue id slot lat).hang = w.hang := rfl
@[simp] theorem weft_addDue_swWait (w : Weft) (id slot lat : Nat) : (w.addDue id slot lat).swWait = w.swWait := rfl
@[simp] theorem weft_addDue_halted (w : Weft) (id slot lat : Nat) : (w.addDue id slot lat).halted = w.halted := rfl
@[simp] theorem weft_addDue_step (w : Weft) (id slot lat : Nat) : (w.addDue id slot lat).step = w.step := rfl
@[simp] theorem weft_addDue_skipAt (w : Weft) (id slot lat : Nat) : (w.addDue id slot lat).skipAt = w.skipAt := rfl

/-! ### `Weft.partDone` -/

@[simp] theorem weft_partDone_id (w : Weft) (id : Nat) : (w.partDone id).id = w.id := by
  unfold Weft.partDone; split; · rfl
  · split <;> simp
@[simp] theorem weft_partDone_panel (w : Weft) (id : Nat) : (w.partDone id).panel = w.panel := by
  unfold Weft.partDone; split; · rfl
  · split <;> simp
@[simp] theorem weft_partDone_pweft (w : Weft) (id : Nat) : (w.partDone id).pweft = w.pweft := by
  unfold Weft.partDone; split; · rfl
  · split <;> simp
@[simp] theorem weft_partDone_slotNo (w : Weft) (id : Nat) : (w.partDone id).slotNo = w.slotNo := by
  unfold Weft.partDone; split; · rfl
  · split <;> simp
@[simp] theorem weft_partDone_core (w : Weft) (id : Nat) : (w.partDone id).core = w.core := by
  unfold Weft.partDone; split; · rfl
  · split <;> simp
@[simp] theorem weft_partDone_lanes (w : Weft) (id : Nat) : (w.partDone id).lanes = w.lanes := by
  unfold Weft.partDone; split; · rfl
  · split <;> simp
@[simp] theorem weft_partDone_regs (w : Weft) (id : Nat) : (w.partDone id).regs = w.regs := by
  unfold Weft.partDone; split; · rfl
  · split <;> simp
@[simp] theorem weft_partDone_poison (w : Weft) (id : Nat) : (w.partDone id).poison = w.poison := by
  unfold Weft.partDone; split; · rfl
  · split <;> simp
@[simp] theorem weft_partDone_pend (w : Weft) (id : Nat) : (w.partDone id).pend = w.pend := by
  unfold Weft.partDone; split; · rfl
  · split <;> simp
@[simp] theorem weft_partDone_masks (w : Weft) (id : Nat) : (w.partDone id).masks = w.masks := by
  unfold Weft.partDone; split; · rfl
  · split <;> simp
@[simp] theorem weft_partDone_handles (w : Weft) (id : Nat) : (w.partDone id).handles = w.handles := by
  unfold Weft.partDone; split; · rfl
  · split <;> simp
@[simp] theorem weft_partDone_sq (w : Weft) (id : Nat) : (w.partDone id).sq = w.sq := by
  unfold Weft.partDone; split; · rfl
  · split <;> simp
@[simp] theorem weft_partDone_loads (w : Weft) (id : Nat) : (w.partDone id).loads = w.loads := by
  unfold Weft.partDone; split; · rfl
  · split <;> simp
@[simp] theorem weft_partDone_subs (w : Weft) (id : Nat) : (w.partDone id).subs = w.subs := by
  unfold Weft.partDone; split; · rfl
  · split <;> simp
@[simp] theorem weft_partDone_nodes (w : Weft) (id : Nat) : (w.partDone id).nodes = w.nodes := by
  unfold Weft.partDone; split; · rfl
  · split <;> simp
@[simp] theorem weft_partDone_hang (w : Weft) (id : Nat) : (w.partDone id).hang = w.hang := by
  unfold Weft.partDone; split; · rfl
  · split <;> simp
@[simp] theorem weft_partDone_swWait (w : Weft) (id : Nat) : (w.partDone id).swWait = w.swWait := by
  unfold Weft.partDone; split; · rfl
  · split <;> simp
@[simp] theorem weft_partDone_halted (w : Weft) (id : Nat) : (w.partDone id).halted = w.halted := by
  unfold Weft.partDone; split; · rfl
  · split <;> simp
@[simp] theorem weft_partDone_step (w : Weft) (id : Nat) : (w.partDone id).step = w.step := by
  unfold Weft.partDone; split; · rfl
  · split <;> simp
@[simp] theorem weft_partDone_skipAt (w : Weft) (id : Nat) : (w.partDone id).skipAt = w.skipAt := by
  unfold Weft.partDone; split; · rfl
  · split <;> simp

/-! ### `Weft.complete` -/

@[simp] theorem weft_complete_id (w : Weft) (op : Nat) : (w.complete op).id = w.id := by
  unfold Weft.complete; split <;> rfl
@[simp] theorem weft_complete_panel (w : Weft) (op : Nat) : (w.complete op).panel = w.panel := by
  unfold Weft.complete; split <;> rfl
@[simp] theorem weft_complete_pweft (w : Weft) (op : Nat) : (w.complete op).pweft = w.pweft := by
  unfold Weft.complete; split <;> rfl
@[simp] theorem weft_complete_slotNo (w : Weft) (op : Nat) : (w.complete op).slotNo = w.slotNo := by
  unfold Weft.complete; split <;> rfl
@[simp] theorem weft_complete_core (w : Weft) (op : Nat) : (w.complete op).core = w.core := by
  unfold Weft.complete; split <;> rfl
@[simp] theorem weft_complete_lanes (w : Weft) (op : Nat) : (w.complete op).lanes = w.lanes := by
  unfold Weft.complete; split <;> rfl
@[simp] theorem weft_complete_tracks (w : Weft) (op : Nat) : (w.complete op).tracks = w.tracks := by
  unfold Weft.complete; split <;> rfl
@[simp] theorem weft_complete_flags (w : Weft) (op : Nat) : (w.complete op).flags = w.flags := by
  unfold Weft.complete; split <;> rfl
@[simp] theorem weft_complete_masks (w : Weft) (op : Nat) : (w.complete op).masks = w.masks := by
  unfold Weft.complete; split <;> rfl
@[simp] theorem weft_complete_handles (w : Weft) (op : Nat) : (w.complete op).handles = w.handles := by
  unfold Weft.complete; split <;> rfl
@[simp] theorem weft_complete_sq (w : Weft) (op : Nat) : (w.complete op).sq = w.sq := by
  unfold Weft.complete; split <;> rfl
@[simp] theorem weft_complete_loads (w : Weft) (op : Nat) : (w.complete op).loads = w.loads := by
  unfold Weft.complete; split <;> rfl
@[simp] theorem weft_complete_subs (w : Weft) (op : Nat) : (w.complete op).subs = w.subs := by
  unfold Weft.complete; split <;> rfl
@[simp] theorem weft_complete_nodes (w : Weft) (op : Nat) : (w.complete op).nodes = w.nodes := by
  unfold Weft.complete; split <;> rfl
@[simp] theorem weft_complete_hang (w : Weft) (op : Nat) : (w.complete op).hang = w.hang := by
  unfold Weft.complete; split <;> rfl
@[simp] theorem weft_complete_swWait (w : Weft) (op : Nat) : (w.complete op).swWait = w.swWait := by
  unfold Weft.complete; split <;> rfl
@[simp] theorem weft_complete_halted (w : Weft) (op : Nat) : (w.complete op).halted = w.halted := by
  unfold Weft.complete; split <;> rfl
@[simp] theorem weft_complete_step (w : Weft) (op : Nat) : (w.complete op).step = w.step := by
  unfold Weft.complete; split <;> rfl
@[simp] theorem weft_complete_skipAt (w : Weft) (op : Nat) : (w.complete op).skipAt = w.skipAt := by
  unfold Weft.complete; split <;> rfl

/-! ### `Weft.park` -/

@[simp] theorem weft_park_id (w : Weft) (ls : List Nat) (p : Park) : (w.park ls p).id = w.id := by
  unfold Weft.park; induction ls generalizing w with
  | nil => rfl
  | cons i is ih => rw [List.foldl_cons, ih]; rfl
@[simp] theorem weft_park_panel (w : Weft) (ls : List Nat) (p : Park) : (w.park ls p).panel = w.panel := by
  unfold Weft.park; induction ls generalizing w with
  | nil => rfl
  | cons i is ih => rw [List.foldl_cons, ih]; rfl
@[simp] theorem weft_park_pweft (w : Weft) (ls : List Nat) (p : Park) : (w.park ls p).pweft = w.pweft := by
  unfold Weft.park; induction ls generalizing w with
  | nil => rfl
  | cons i is ih => rw [List.foldl_cons, ih]; rfl
@[simp] theorem weft_park_slotNo (w : Weft) (ls : List Nat) (p : Park) : (w.park ls p).slotNo = w.slotNo := by
  unfold Weft.park; induction ls generalizing w with
  | nil => rfl
  | cons i is ih => rw [List.foldl_cons, ih]; rfl
@[simp] theorem weft_park_core (w : Weft) (ls : List Nat) (p : Park) : (w.park ls p).core = w.core := by
  unfold Weft.park; induction ls generalizing w with
  | nil => rfl
  | cons i is ih => rw [List.foldl_cons, ih]; rfl
@[simp] theorem weft_park_regs (w : Weft) (ls : List Nat) (p : Park) : (w.park ls p).regs = w.regs := by
  unfold Weft.park; induction ls generalizing w with
  | nil => rfl
  | cons i is ih => rw [List.foldl_cons, ih]; rfl
@[simp] theorem weft_park_poison (w : Weft) (ls : List Nat) (p : Park) : (w.park ls p).poison = w.poison := by
  unfold Weft.park; induction ls generalizing w with
  | nil => rfl
  | cons i is ih => rw [List.foldl_cons, ih]; rfl
@[simp] theorem weft_park_pend (w : Weft) (ls : List Nat) (p : Park) : (w.park ls p).pend = w.pend := by
  unfold Weft.park; induction ls generalizing w with
  | nil => rfl
  | cons i is ih => rw [List.foldl_cons, ih]; rfl
@[simp] theorem weft_park_tracks (w : Weft) (ls : List Nat) (p : Park) : (w.park ls p).tracks = w.tracks := by
  unfold Weft.park; induction ls generalizing w with
  | nil => rfl
  | cons i is ih => rw [List.foldl_cons, ih]; rfl
@[simp] theorem weft_park_flags (w : Weft) (ls : List Nat) (p : Park) : (w.park ls p).flags = w.flags := by
  unfold Weft.park; induction ls generalizing w with
  | nil => rfl
  | cons i is ih => rw [List.foldl_cons, ih]; rfl
@[simp] theorem weft_park_masks (w : Weft) (ls : List Nat) (p : Park) : (w.park ls p).masks = w.masks := by
  unfold Weft.park; induction ls generalizing w with
  | nil => rfl
  | cons i is ih => rw [List.foldl_cons, ih]; rfl
@[simp] theorem weft_park_handles (w : Weft) (ls : List Nat) (p : Park) : (w.park ls p).handles = w.handles := by
  unfold Weft.park; induction ls generalizing w with
  | nil => rfl
  | cons i is ih => rw [List.foldl_cons, ih]; rfl
@[simp] theorem weft_park_sq (w : Weft) (ls : List Nat) (p : Park) : (w.park ls p).sq = w.sq := by
  unfold Weft.park; induction ls generalizing w with
  | nil => rfl
  | cons i is ih => rw [List.foldl_cons, ih]; rfl
@[simp] theorem weft_park_loads (w : Weft) (ls : List Nat) (p : Park) : (w.park ls p).loads = w.loads := by
  unfold Weft.park; induction ls generalizing w with
  | nil => rfl
  | cons i is ih => rw [List.foldl_cons, ih]; rfl
@[simp] theorem weft_park_subs (w : Weft) (ls : List Nat) (p : Park) : (w.park ls p).subs = w.subs := by
  unfold Weft.park; induction ls generalizing w with
  | nil => rfl
  | cons i is ih => rw [List.foldl_cons, ih]; rfl
@[simp] theorem weft_park_nodes (w : Weft) (ls : List Nat) (p : Park) : (w.park ls p).nodes = w.nodes := by
  unfold Weft.park; induction ls generalizing w with
  | nil => rfl
  | cons i is ih => rw [List.foldl_cons, ih]; rfl
@[simp] theorem weft_park_hang (w : Weft) (ls : List Nat) (p : Park) : (w.park ls p).hang = w.hang := by
  unfold Weft.park; induction ls generalizing w with
  | nil => rfl
  | cons i is ih => rw [List.foldl_cons, ih]; rfl
@[simp] theorem weft_park_swWait (w : Weft) (ls : List Nat) (p : Park) : (w.park ls p).swWait = w.swWait := by
  unfold Weft.park; induction ls generalizing w with
  | nil => rfl
  | cons i is ih => rw [List.foldl_cons, ih]; rfl
@[simp] theorem weft_park_halted (w : Weft) (ls : List Nat) (p : Park) : (w.park ls p).halted = w.halted := by
  unfold Weft.park; induction ls generalizing w with
  | nil => rfl
  | cons i is ih => rw [List.foldl_cons, ih]; rfl
@[simp] theorem weft_park_step (w : Weft) (ls : List Nat) (p : Park) : (w.park ls p).step = w.step := by
  unfold Weft.park; induction ls generalizing w with
  | nil => rfl
  | cons i is ih => rw [List.foldl_cons, ih]; rfl
@[simp] theorem weft_park_skipAt (w : Weft) (ls : List Nat) (p : Park) : (w.park ls p).skipAt = w.skipAt := by
  unfold Weft.park; induction ls generalizing w with
  | nil => rfl
  | cons i is ih => rw [List.foldl_cons, ih]; rfl

/-! ### `Weft.unpark` -/

@[simp] theorem weft_unpark_id (w : Weft) (f : Park → Bool) : (w.unpark f).id = w.id := rfl
@[simp] theorem weft_unpark_panel (w : Weft) (f : Park → Bool) : (w.unpark f).panel = w.panel := rfl
@[simp] theorem weft_unpark_pweft (w : Weft) (f : Park → Bool) : (w.unpark f).pweft = w.pweft := rfl
@[simp] theorem weft_unpark_slotNo (w : Weft) (f : Park → Bool) : (w.unpark f).slotNo = w.slotNo := rfl
@[simp] theorem weft_unpark_core (w : Weft) (f : Park → Bool) : (w.unpark f).core = w.core := rfl
@[simp] theorem weft_unpark_regs (w : Weft) (f : Park → Bool) : (w.unpark f).regs = w.regs := rfl
@[simp] theorem weft_unpark_poison (w : Weft) (f : Park → Bool) : (w.unpark f).poison = w.poison := rfl
@[simp] theorem weft_unpark_pend (w : Weft) (f : Park → Bool) : (w.unpark f).pend = w.pend := rfl
@[simp] theorem weft_unpark_tracks (w : Weft) (f : Park → Bool) : (w.unpark f).tracks = w.tracks := rfl
@[simp] theorem weft_unpark_flags (w : Weft) (f : Park → Bool) : (w.unpark f).flags = w.flags := rfl
@[simp] theorem weft_unpark_masks (w : Weft) (f : Park → Bool) : (w.unpark f).masks = w.masks := rfl
@[simp] theorem weft_unpark_handles (w : Weft) (f : Park → Bool) : (w.unpark f).handles = w.handles := rfl
@[simp] theorem weft_unpark_sq (w : Weft) (f : Park → Bool) : (w.unpark f).sq = w.sq := rfl
@[simp] theorem weft_unpark_loads (w : Weft) (f : Park → Bool) : (w.unpark f).loads = w.loads := rfl
@[simp] theorem weft_unpark_subs (w : Weft) (f : Park → Bool) : (w.unpark f).subs = w.subs := rfl
@[simp] theorem weft_unpark_nodes (w : Weft) (f : Park → Bool) : (w.unpark f).nodes = w.nodes := rfl
@[simp] theorem weft_unpark_hang (w : Weft) (f : Park → Bool) : (w.unpark f).hang = w.hang := rfl
@[simp] theorem weft_unpark_swWait (w : Weft) (f : Park → Bool) : (w.unpark f).swWait = w.swWait := rfl
@[simp] theorem weft_unpark_halted (w : Weft) (f : Park → Bool) : (w.unpark f).halted = w.halted := rfl
@[simp] theorem weft_unpark_step (w : Weft) (f : Park → Bool) : (w.unpark f).step = w.step := rfl
@[simp] theorem weft_unpark_skipAt (w : Weft) (f : Park → Bool) : (w.unpark f).skipAt = w.skipAt := rfl

end Sys2Proof.Machine
end

