-- ==== Sys2Proof/Laws/Issue.lean ====
section
/-! SUPPORT. What the issue of a word does, said once: looking up wefts after an update, the plan of a due word, and the result of a
word that writes registers. -/
namespace Sys2Proof.Machine

/-! ### Wefts looked up after an update -/

/-- An update of one weft that keeps its id is what a lookup finds. -/
theorem weft_modWeft_self {s : State} {w : Nat} {f : Weft → Weft} (hf : ∀ y, (f y).id = y.id) (h : s.hasWeft w = true) :
    (s.modWeft w f).weft w = f (s.weft w) := by
  unfold State.hasWeft at h
  unfold State.weft State.modWeft
  simp only
  generalize s.wefts = ws at h ⊢
  induction ws with
  | nil => simp at h
  | cons y ys ih =>
    by_cases hy : y.id = w
    · simp [hy, hf]
    · have : (ys.any fun x => x.id == w) = true := by simpa [hy] using h
      simpa [hy] using ih this

theorem weft_modWeft_ne {s : State} {w v : Nat} {f : Weft → Weft} (hf : ∀ y, (f y).id = y.id) (h : v ≠ w) :
    (s.modWeft w f).weft v = s.weft v := by
  unfold State.weft State.modWeft
  simp only
  generalize s.wefts = ws
  induction ws with
  | nil => rfl
  | cons y ys ih =>
    by_cases hy : y.id = w
    · have hv : ¬ y.id = v := by omega
      have hv' : ¬ (f y).id = v := by rw [hf]; exact hv
      simpa [hy, hv', hv, show ¬ w = v by omega] using ih
    · by_cases hv : y.id = v
      · simp [hv, h]
      · simpa [hy, hv] using ih

theorem hasWeft_modWeft {s : State} {w v : Nat} {f : Weft → Weft} (hf : ∀ y, (f y).id = y.id) :
    (s.modWeft w f).hasWeft v = s.hasWeft v := by
  unfold State.hasWeft State.modWeft
  simp only [List.any_map]
  congr 1
  funext y
  simp only [Function.comp]
  split
  · rw [hf]
  · rfl

theorem weft_congr {s t : State} (h : s.wefts = t.wefts) (w : Nat) : s.weft w = t.weft w := by
  unfold State.weft; rw [h]

theorem weft_id {s : State} {w : Nat} (h : s.hasWeft w = true) : (s.weft w).id = w := by
  unfold State.hasWeft at h
  unfold State.weft
  generalize s.wefts = ws at h ⊢
  induction ws with
  | nil => simp at h
  | cons y ys ih =>
    by_cases hy : y.id = w
    · simp [hy]
    · have : (ys.any fun x => x.id == w) = true := by simpa [hy] using h
      simpa [hy] using ih this

theorem weft_missing {s : State} {w : Nat} (h : s.hasWeft w = false) : s.weft w = Weft.nil := by
  unfold State.hasWeft at h
  unfold State.weft
  generalize s.wefts = ws at h ⊢
  induction ws with
  | nil => rfl
  | cons y ys ih =>
    simp only [List.any_cons, Bool.or_eq_false_iff] at h
    have hy : ¬ y.id = w := by simpa using h.1
    simpa [hy] using ih h.2

/-- A word with active lanes is a word of a resident weft. -/
theorem icOf_hasWeft {s : State} {sw : SlotWord} (h : (icOf s sw).lanes ≠ []) : s.hasWeft sw.weft = true := by
  by_contra hn
  have hw := weft_missing (by simpa using hn)
  apply h
  unfold icOf
  simp only [hw]
  have hl : ∀ i, (Weft.nil.lane i).st = .exited := by intro i; simp [Weft.nil, Weft.lane, Lane.nil]
  split <;> simp [hl]

theorem ready_hasWeft {s : State} {sw : SlotWord} {v : Nat} : (s.ready sw).hasWeft v = s.hasWeft v := by
  unfold State.ready
  exact hasWeft_modWeft (s := s) (fun y => by simp)

/-! ### The plan of a due word -/

/-- A due word has not issued before. -/
theorem Due.on_time {s : State} {sw : SlotWord} {x : IC} {v : View} {p : Bool} (h : Due s sw x v p) : x.late = false := by
  rw [h.reads]; unfold icOf; simp only [h.fresh]

/-- A due word whose plan is to go is performed. -/
theorem runWord_go {s : State} {sw : SlotWord} {x : IC} {v : View} {p : Bool} {plan : IC → State → Plan} {f : State → State}
    (h : Due s sw x v p) (hp : plan x (s.ready sw) = .go f) :
    runWord v p plan s = .next ((s.ready sw).perform x v.common f) := by
  unfold runWord
  rw [h.cur]
  simp only [← h.reads]
  unfold State.doPlan
  have hl : x.lanes.isEmpty = false := by cases hx : x.lanes <;> simp_all [h.active]
  have hm : (p && !x.sys) = false := by
    cases hpv : p
    · rfl
    · simp [h.mode hpv]
  have hb : (x.p.launch.replay && viewCommits v && (s.ready sw).beamBusy x.p.id) = false := by
    by_cases h1 : x.p.launch.replay = true
    · by_cases h2 : viewCommits v = true
      · simp [h.beam h1 h2]
      · simp [h2]
    · simp [h1]
  simp [hl, h.on_time, h.gang, h.budget, hm, h.flag, hb, hp]

/-- A due word whose lanes all pass its checks is performed, its lanes standing at it. -/
theorem runWord_part {s : State} {sw : SlotWord} {x : IC} {v : View} {p : Bool} {plan : IC → State → Plan}
    {f : IC → State → State} (h : Due s sw x v p) (hp : plan x (s.ready sw) = .part x.lanes f [] []) :
    runWord v p plan s = .next (((s.ready sw).atWord x).perform x v.common (f x)) := by
  unfold runWord
  rw [h.cur]
  simp only [← h.reads]
  unfold State.doPlan
  have hl : x.lanes.isEmpty = false := by cases hx : x.lanes <;> simp_all [h.active]
  have hm : (p && !x.sys) = false := by
    cases hpv : p
    · rfl
    · simp [h.mode hpv]
  have hb : (x.p.launch.replay && viewCommits v && (s.ready sw).beamBusy x.p.id) = false := by
    by_cases h1 : x.p.launch.replay = true
    · by_cases h2 : viewCommits v = true
      · simp [h.beam h1 h2]
      · simp [h2]
    · simp [h1]
  simp [hl, h.on_time, h.gang, h.budget, hm, h.flag, hb, hp, State.stopPoison, State.faultLanes]
  rw [← h.on_time]

/-! ### The weft of an issued word -/

@[simp] theorem issueWord_id (w : Weft) (x : IC) (c : Common) (p : Pos) : (w.issueWord x c p).id = w.id := by
  simp [Weft.issueWord]
@[simp] theorem issueWord_pend (w : Weft) (x : IC) (c : Common) (p : Pos) : (w.issueWord x c p).pend = w.pend := by
  simp [Weft.issueWord]
@[simp] theorem issueWord_regs (w : Weft) (x : IC) (c : Common) (p : Pos) : (w.issueWord x c p).regs = w.regs := by
  simp [Weft.issueWord]
@[simp] theorem issueWord_poison (w : Weft) (x : IC) (c : Common) (p : Pos) : (w.issueWord x c p).poison = w.poison := by
  simp [Weft.issueWord]
@[simp] theorem issueWord_tracks (w : Weft) (x : IC) (c : Common) (p : Pos) :
    (w.issueWord x c p).tracks = ⟨x.track, c.flag.toNat, 1, []⟩ :: w.tracks := by
  simp [Weft.issueWord]
@[simp] theorem issueWord_apart (w : Weft) (x : IC) (c : Common) (p : Pos) : (w.issueWord x c p).apart = w.apart := by
  unfold Weft.issueWord Weft.flagUp Weft.apart
  split <;> rfl
theorem issueWord_flags (w : Weft) (x : IC) (c : Common) (p : Pos) :
    (w.issueWord x c p).flags = if c.flag.toNat = 0 then w.flags else w.flags.modify c.flag.toNat (· + 1) := by
  unfold Weft.issueWord Weft.flagUp
  split <;> rfl

/-- A lane after the issue of a word: one that issued stands after the word, any other where it was. -/
theorem issueWord_lane {w : Weft} {x : IC} {c : Common} {p : Pos} {i : Nat} (h : i ∈ x.lanes → i < w.lanes.length) :
    (w.issueWord x c p).lane i =
      if i ∈ x.lanes then { w.lane i with last := some x.slot, pc := x.pc + 8, pos := p, shadow := none } else w.lane i := by
  have hl : (w.issueWord x c p).lanes = w.lanes.mapIdx (fun i l =>
      if x.lanes.contains i then { l with last := some x.slot, pc := x.pc + 8, pos := p, shadow := none } else l) := by
    simp [Weft.issueWord]
  unfold Weft.lane
  rw [hl]
  by_cases hi : i < w.lanes.length
  · simp [List.getD_eq_getElem?_getD, hi]
  · have : i ∉ x.lanes := fun hx => hi (h hx)
    simp [List.getD_eq_getElem?_getD, hi, this]

@[simp] theorem partDone_apart (w : Weft) (id : Nat) : (w.partDone id).apart = w.apart := by
  unfold Weft.partDone Weft.flagDown Weft.apart
  split
  · rfl
  · split
    · split <;> rfl
    · rfl
@[simp] theorem partDone_uncounted (w : Weft) (id : Nat) : (w.partDone id).uncounted = w.uncounted := by
  unfold Weft.partDone Weft.flagDown Weft.uncounted
  split
  · rfl
  · split
    · split <;> rfl
    · rfl

/-- The end of the only part of an instruction counted first lets its flag fall. -/
theorem partDone_last_flags {w : Weft} {id fl : Nat} {due : List (Nat × Nat)} {ts : List Track} (h : w.tracks = ⟨id, fl, 1, due⟩ :: ts) :
    (w.partDone id).flags = if fl = 0 then w.flags else w.flags.modify fl (· - 1) := by
  unfold Weft.partDone
  rw [h]
  simp only [List.find?_cons, beq_self_eq_true]
  unfold Weft.flagDown
  simp only [Nat.le_refl, if_true]
  split <;> rfl

/-- While parts are left the flag stays. -/
theorem partDone_more_flags {w : Weft} {id fl n : Nat} {due : List (Nat × Nat)} {ts : List Track} (h : w.tracks = ⟨id, fl, n + 2, due⟩ :: ts) :
    (w.partDone id).flags = w.flags := by
  unfold Weft.partDone
  rw [h]
  simp

theorem modify_up_down (l : List Nat) (n : Nat) : (l.modify n (· + 1)).modify n (· - 1) = l := by
  rw [List.modify_modify_eq]
  exact List.modify_id n l

/-! ### Newest values -/

theorem newest_cons (w : Weft) (p : Pend) (ps : List Pend) (k : Nat) (h : w.pend = p :: ps) :
    w.newest k = (lookupKey k p.vals).getD (newestIn w.regs k ps) := by
  unfold Weft.newest
  rw [h]
  simp only [newestIn]
  split <;> simp_all

theorem addFixed_newest (w : Weft) (slot lat : Nat) (vs : List (Nat × DWord)) (pz : List Nat) (k : Nat) :
    (w.addFixed slot lat vs pz).newest k = (lookupKey k vs).getD (w.newest k) := by
  unfold Weft.addFixed
  by_cases h : vs.isEmpty
  · have : vs = [] := by simpa using h
    simp [this, lookupKey]
  · rw [if_neg h]
    simp only [Weft.newest, newestIn]
    split <;> simp_all

theorem addTracked_newest (w : Weft) (op : Nat) (vs : List (Nat × DWord)) (pz : List Nat) (k : Nat) :
    (w.addTracked op vs pz).newest k = (lookupKey k vs).getD (w.newest k) := by
  unfold Weft.addTracked
  by_cases h : vs.isEmpty
  · have : vs = [] := by simpa using h
    simp [this, lookupKey]
  · rw [if_neg h]
    simp only [Weft.newest, newestIn]
    split <;> simp_all

theorem addFixed_marked (w : Weft) (slot lat : Nat) (vs : List (Nat × DWord)) (pz : List Nat) (k : Nat) :
    (w.addFixed slot lat vs pz).marked k = if (lookupKey k vs).isSome then pz.contains k else w.marked k := by
  unfold Weft.addFixed
  by_cases h : vs.isEmpty
  · have : vs = [] := by simpa using h
    simp [this, lookupKey]
  · rw [if_neg h]
    simp only [Weft.marked, markedIn]
    split <;> simp_all

theorem addTracked_marked (w : Weft) (op : Nat) (vs : List (Nat × DWord)) (pz : List Nat) (k : Nat) :
    (w.addTracked op vs pz).marked k = if (lookupKey k vs).isSome then pz.contains k else w.marked k := by
  unfold Weft.addTracked
  by_cases h : vs.isEmpty
  · have : vs = [] := by simpa using h
    simp [this, lookupKey]
  · rw [if_neg h]
    simp only [Weft.marked, markedIn]
    split <;> simp_all

/-! ### The rest of the state -/

theorem modWeft_apart (s : State) (w : Nat) (f : Weft → Weft) : (s.modWeft w f).apart = s.apart := rfl

theorem modPanel_apart {s : State} {p : Nat} {f : Panel → Panel} (h : ∀ q, (f q).apart = q.apart) :
    (s.modPanel p f).apart = s.apart := by
  unfold State.apart State.modPanel
  simp only [List.map_map]
  congr 1
  apply List.map_congr_left
  intro q _
  simp only [Function.comp]
  split
  · exact h q
  · rfl

theorem modCtx_apart {s : State} {c : CtxId} {f : Ctx → Ctx} (h : ∀ q, (f q).apart = q.apart) :
    (s.modCtx c f).apart = s.apart := by
  unfold State.apart State.modCtx
  simp only [List.map_map]
  congr 1
  apply List.map_congr_left
  intro q _
  simp only [Function.comp]
  split
  · exact h q
  · rfl

@[simp] theorem modCount_apart (s : State) (c : CtxId) (n : Nat) (f : Nat → Nat) : (s.modCount c n f).apart = s.apart :=
  modCtx_apart (fun _ => rfl)

@[simp] theorem countIssue_apart (s : State) (x : IC) : (s.countIssue x).apart = s.apart := by
  unfold State.countIssue
  simp only
  split <;> simp
@[simp] theorem countIssue_wefts (s : State) (x : IC) : (s.countIssue x).wefts = s.wefts := by
  unfold State.countIssue
  simp only
  split <;> simp
@[simp] theorem countIssue_mem (s : State) (x : IC) : (s.countIssue x).mem = s.mem := by
  unfold State.countIssue
  simp only
  split <;> simp

@[simp] theorem issued_apart (s : State) (x : IC) (c : Common) : (s.issued x c).apart = s.apart := by
  have h : (s.issued x c).apart = ((s.modWeft x.w.id (fun w => w.issueWord x c (s.nextPos x))).countIssue x).apart := rfl
  rw [h, countIssue_apart]
  exact modWeft_apart _ _ _
@[simp] theorem issued_wefts (s : State) (x : IC) (c : Common) :
    (s.issued x c).wefts = (s.modWeft x.w.id (fun w => w.issueWord x c (s.nextPos x))).wefts := by
  have h : (s.issued x c).wefts = ((s.modWeft x.w.id (fun w => w.issueWord x c (s.nextPos x))).countIssue x).wefts := rfl
  rw [h, countIssue_wefts]
@[simp] theorem issued_mem (s : State) (x : IC) (c : Common) : (s.issued x c).mem = s.mem := by
  have h : (s.issued x c).mem = ((s.modWeft x.w.id (fun w => w.issueWord x c (s.nextPos x))).countIssue x).mem := rfl
  rw [h, countIssue_mem]
  rfl

@[simp] theorem consume_apart (s : State) (x : IC) (ls : List Nat) : (s.consume x ls).apart = s.apart := by
  unfold State.consume
  split
  · rfl
  · exact modCtx_apart (s := s) (fun _ => rfl)

@[simp] theorem partDone_state_apart (s : State) (w id : Nat) : (s.partDone w id).apart = s.apart := by
  unfold State.partDone State.modBoth State.apart
  simp only [List.map_map]
  have hw : ∀ ws : List Weft, (ws.map (fun x => if x.id = w then x.partDone id else x)).map Weft.uncounted = ws.map Weft.uncounted := by
    intro ws
    rw [List.map_map]
    apply List.map_congr_left
    intro y _
    simp only [Function.comp]
    split <;> simp
  congr 1
  · apply List.map_congr_left
    intro p _
    simp only [Function.comp]
    unfold Panel.apart
    split
    · next k hk => simp only [hk, Option.map_some, hw]
    · rfl
  · apply List.map_congr_left
    intro v _
    simp only [Function.comp, Saved.apart, hw]

theorem partDone_weft {s : State} {w id : Nat} (h : s.hasWeft w = true) : (s.partDone w id).weft w = (s.weft w).partDone id := by
  have : (s.partDone w id).wefts = (s.modWeft w (fun y => y.partDone id)).wefts := rfl
  rw [weft_congr this]
  exact weft_modWeft_self (fun y => by simp) h
theorem partDone_weft_ne {s : State} {w v id : Nat} (h : v ≠ w) : (s.partDone w id).weft v = s.weft v := by
  have : (s.partDone w id).wefts = (s.modWeft w (fun y => y.partDone id)).wefts := rfl
  rw [weft_congr this]
  exact weft_modWeft_ne (fun y => by simp) h

/-! ### Words that write registers -/

/-- A lane without its place. -/
def Lane.placeless (l : Lane) : Lane := { l with pc := 0, pos := .header }

/-- What the issue of a word needs of its reading: its weft is resident, and what `x` holds of it, but for the places of the word's
own lanes. -/
structure Reads (s : State) (x : IC) : Prop where
  here  : s.hasWeft x.w.id = true
  act   : ∀ i ∈ x.lanes, i < x.w.lanes.length
  len   : (s.weft x.w.id).lanes.length = x.w.lanes.length
  own   : ∀ i ∈ x.lanes, ((s.weft x.w.id).lane i).placeless = (x.w.lane i).placeless
  other : ∀ i, i ∉ x.lanes → (s.weft x.w.id).lane i = x.w.lane i
  regs  : (s.weft x.w.id).regs = x.w.regs
  pz    : (s.weft x.w.id).poison = x.w.poison
  pend  : (s.weft x.w.id).pend = x.w.pend
  count : (s.weft x.w.id).tracks = x.w.tracks ∧ (s.weft x.w.id).flags = x.w.flags
  apart : (s.weft x.w.id).apart = x.w.apart
  sw    : (s.weft x.w.id).swWait = x.w.swWait

theorem lane_past {w : Weft} {i : Nat} (h : w.lanes.length ≤ i) : w.lane i = Lane.nil := by
  unfold Weft.lane
  simp [List.getD_eq_getElem?_getD, h]

/-- A word that has not issued reads its weft as it is, for its lanes that are active. -/
theorem icOf_fresh {s : State} {sw : SlotWord} (h : sw.late = none) :
    (icOf s sw).w = s.weft sw.weft ∧
    (icOf s sw).lanes = (lanesOf sw.lanes).filter (fun i => ((s.weft sw.weft).lane i).st == .active) := by
  unfold icOf; rw [h]; exact ⟨rfl, rfl⟩

/-- A due word reads its own weft. -/
theorem Due.weft_eq {s : State} {sw : SlotWord} {x : IC} {v : View} {p : Bool} (h : Due s sw x v p) :
    x.w.id = sw.weft ∧ x.w = (s.ready sw).weft x.w.id ∧ (s.ready sw).hasWeft x.w.id = true := by
  have hl : (icOf (s.ready sw) sw).lanes ≠ [] := h.reads ▸ h.active
  have hh := icOf_hasWeft hl
  have hw : x.w = (s.ready sw).weft sw.weft := by rw [h.reads]; exact (icOf_fresh h.fresh).1
  have hid : x.w.id = sw.weft := by rw [hw]; exact weft_id hh
  exact ⟨hid, by rw [hid, hw], by rw [hid]; exact hh⟩

/-- A lane of a due word is active. -/
theorem Due.lane_active {s : State} {sw : SlotWord} {x : IC} {v : View} {p : Bool} (h : Due s sw x v p) {i : Nat} (hi : i ∈ x.lanes) :
    (x.w.lane i).st = .active := by
  have hw : x.w = (s.ready sw).weft sw.weft := by rw [h.reads]; exact (icOf_fresh h.fresh).1
  rw [hw]
  have : i ∈ (lanesOf sw.lanes).filter (fun i => (((s.ready sw).weft sw.weft).lane i).st == .active) := by
    have := hi
    rw [h.reads, (icOf_fresh h.fresh).2] at this
    exact this
  simpa using (List.mem_filter.1 this).2

theorem Due.lane_lt {s : State} {sw : SlotWord} {x : IC} {v : View} {p : Bool} (h : Due s sw x v p) {i : Nat} (hi : i ∈ x.lanes) :
    i < x.w.lanes.length := by
  by_contra hn
  have := h.lane_active hi
  rw [lane_past (by omega)] at this
  simp [Lane.nil] at this

theorem Due.reading {s : State} {sw : SlotWord} {x : IC} {v : View} {p : Bool} (h : Due s sw x v p) : Reads (s.ready sw) x := by
  obtain ⟨_, hw, hh⟩ := h.weft_eq
  exact ⟨hh, fun _ hi => h.lane_lt hi, by rw [← hw], fun _ _ => by rw [← hw], fun _ _ => by rw [← hw], by rw [← hw], by rw [← hw],
    by rw [← hw], by rw [← hw]; exact ⟨rfl, rfl⟩, by rw [← hw], by rw [← hw]⟩

theorem weft_lane_congr {w v : Weft} (h : w.lanes = v.lanes) (i : Nat) : w.lane i = v.lane i := by
  unfold Weft.lane; rw [h]

/-- Standing at the word changes only the places of the word's lanes. -/
theorem Reads.atWord {s : State} {x : IC} (r : Reads s x) : Reads (s.atWord x) x := by
  let g : Weft → Weft := fun w => { w with lanes := w.lanes.mapIdx (fun i l =>
    if x.lanes.contains i then { l with pc := x.pc, pos := .inside x.hdr } else l) }
  have hw : (s.atWord x).weft x.w.id = g (s.weft x.w.id) := weft_modWeft_self (f := g) (fun _ => rfl) r.here
  have hl : ∀ i, (g (s.weft x.w.id)).lane i =
      if i ∈ x.lanes then { (s.weft x.w.id).lane i with pc := x.pc, pos := .inside x.hdr } else (s.weft x.w.id).lane i := by
    intro i
    show (List.mapIdx _ _).getD i Lane.nil = _
    by_cases hi : i < (s.weft x.w.id).lanes.length
    · simp [List.getD_eq_getElem?_getD, hi, Weft.lane]
    · have : i ∉ x.lanes := fun hx => hi (by rw [r.len]; exact r.act i hx)
      simp [List.getD_eq_getElem?_getD, hi, this, Weft.lane]
  refine ⟨(hasWeft_modWeft (f := g) (fun _ => rfl)).trans r.here, r.act, ?_, ?_, ?_, ?_, ?_, ?_, ?_, ?_, ?_⟩
  · rw [hw]; simp [g, r.len]
  · intro i hi
    rw [hw, hl, if_pos hi, ← r.own i hi]; rfl
  · intro i hi
    rw [hw, hl, if_neg hi, r.other i hi]
  · rw [hw]; exact r.regs
  · rw [hw]; exact r.pz
  · rw [hw]; exact r.pend
  · rw [hw]; exact r.count
  · rw [hw, ← r.apart]; rfl
  · rw [hw]; exact r.sw

theorem atWord_weft_ne {s : State} {x : IC} {w : Nat} (h : w ≠ x.w.id) : (s.atWord x).weft w = s.weft w :=
  weft_modWeft_ne (fun _ => rfl) h
@[simp] theorem atWord_mem (s : State) (x : IC) : (s.atWord x).mem = s.mem := rfl
@[simp] theorem atWord_apart (s : State) (x : IC) : (s.atWord x).apart = s.apart := rfl

/-- A word issued whose effect is an update of its weft and one that leaves the wefts alone. -/
theorem perform_weft {s : State} {x : IC} (r : Reads s x) (c : Common) {g : Weft → Weft} (hg : ∀ y, (g y).id = y.id)
    {e : State → State} (he : ∀ y, (e y).wefts = y.wefts) :
    (s.perform x c (fun y => e (y.modWeft x.w.id g))).weft x.w.id =
      (g ((s.weft x.w.id).issueWord x c (s.nextPos x))).partDone x.track ∧
    ∀ w, w ≠ x.w.id → (s.perform x c (fun y => e (y.modWeft x.w.id g))).weft w = s.weft w := by
  have hid : ∀ y : Weft, (y.issueWord x c (s.nextPos x)).id = y.id := fun y => by simp
  have hi : (s.issued x c).weft x.w.id = (s.weft x.w.id).issueWord x c (s.nextPos x) := by
    rw [weft_congr (issued_wefts s x c), weft_modWeft_self hid r.here]
  have hh : (s.issued x c).hasWeft x.w.id = true := by
    have : (s.issued x c).hasWeft x.w.id = (s.modWeft x.w.id (fun w => w.issueWord x c (s.nextPos x))).hasWeft x.w.id := by
      unfold State.hasWeft; rw [issued_wefts]
    rw [this, hasWeft_modWeft hid, r.here]
  constructor
  · unfold State.perform
    rw [partDone_weft, weft_congr (he _), weft_modWeft_self hg hh, hi]
    unfold State.hasWeft
    rw [he]
    exact (hasWeft_modWeft hg).trans hh
  · intro w hne
    unfold State.perform
    rw [partDone_weft_ne hne, weft_congr (he _), weft_modWeft_ne hg hne, weft_congr (issued_wefts s x c), weft_modWeft_ne hid hne]

theorem flag_toNat_eq {f : BitVec 4} : f.toNat = 0 ↔ f = 0 := by
  constructor
  · intro h; exact BitVec.eq_of_toNat_eq (by simpa using h)
  · intro h; subst h; rfl

/-- A lane after the issue, seen from the reading. -/
theorem Reads.issued_lane {s : State} {x : IC} (r : Reads s x) (c : Common) (i : Nat) :
    ((s.weft x.w.id).issueWord x c (s.nextPos x)).lane i = if i ∈ x.lanes then x.passed s i else x.w.lane i := by
  rw [issueWord_lane (fun hi => by rw [r.len]; exact r.act i hi)]
  split
  · next hi =>
    have := r.own i hi
    unfold Lane.placeless at this
    unfold IC.passed
    simp only [Lane.mk.injEq] at this ⊢
    simp_all
  · next hi => exact r.other i hi

/-- Lanes of a word changed. -/
def Weft.mapLanes (w : Weft) (x : IC) (f : Nat → Lane → Lane) : Weft :=
  { w with lanes := w.lanes.mapIdx (fun i l => if x.lanes.contains i then f i l else l) }

theorem mapLanes_lane {w : Weft} {x : IC} {f : Nat → Lane → Lane} {i : Nat} (h : i ∈ x.lanes → i < w.lanes.length) :
    (w.mapLanes x f).lane i = if i ∈ x.lanes then f i (w.lane i) else w.lane i := by
  show (List.mapIdx _ _).getD i Lane.nil = _
  by_cases hi : i < w.lanes.length
  · simp [List.getD_eq_getElem?_getD, hi, Weft.lane]
  · have : i ∉ x.lanes := fun hx => hi (h hx)
    simp [List.getD_eq_getElem?_getD, hi, this, Weft.lane]

theorem mapLanes_noMore (w : Weft) (x : IC) : w.mapLanes x noMore = w := by
  have : (w.lanes.mapIdx fun i l => if x.lanes.contains i then noMore i l else l) = w.lanes := by
    apply List.ext_getElem
    · simp
    · intro i h1 h2
      simp [noMore]
  unfold Weft.mapLanes
  rw [this]

theorem modWeft_modWeft {s : State} {w : Nat} {f g : Weft → Weft} (hf : ∀ y, (f y).id = y.id) :
    (s.modWeft w f).modWeft w g = s.modWeft w (fun y => g (f y)) := by
  unfold State.modWeft
  simp only [List.map_map]
  congr 1
  apply List.map_congr_left
  intro y _
  simp only [Function.comp]
  split
  · next h => rw [if_pos (by rw [hf]; exact h)]
  · rfl

/-- An update that changes nothing. -/
theorem modWeft_self (s : State) (w : Nat) : s.modWeft w (fun y => y) = s := by
  unfold State.modWeft
  simp

/-- What a result adds to its weft: its values by key, and parts of its counted instruction. -/
structure Results (x : IC) (c : Common) (vs : List (Nat × DWord)) (pz : List Nat) (u : Weft → Weft) : Prop where
  id     : ∀ y, (u y).id = y.id
  lanes  : ∀ y, (u y).lanes = y.lanes
  newest : ∀ y k, (u y).newest k = (lookupKey k vs).getD (y.newest k)
  marked : ∀ y k, (u y).marked k = if (lookupKey k vs).isSome then pz.contains k else y.marked k
  flags  : ∀ y, (u y).flags = y.flags
  apart  : ∀ y, (u y).apart = y.apart
  parts  : ∀ y ts, y.tracks = ⟨x.track, c.flag.toNat, 1, []⟩ :: ts → ∃ n due ts', (u y).tracks = ⟨x.track, c.flag.toNat, n, due⟩ :: ts' ∧
    (vs = [] → n = 1) ∧ (vs ≠ [] → c.flag ≠ 0 → 2 ≤ n)

/-- The end of the own part of an instruction counted on no flag changes no flag. -/
theorem partDone_none_flags {w : Weft} {id n : Nat} {due : List (Nat × Nat)} {ts : List Track} (h : w.tracks = ⟨id, 0, n, due⟩ :: ts) :
    (w.partDone id).flags = w.flags := by
  unfold Weft.partDone
  rw [h]
  simp only [List.find?_cons, beq_self_eq_true]
  unfold Weft.flagDown
  split <;> simp

/-- A word that writes results and changes its lanes: nothing else; its flag counts it while there is a result. -/
theorem perform_result {s : State} {x : IC} (r : Reads s x) (c : Common) {vs : List (Nat × DWord)} {pz : List Nat} {u : Weft → Weft}
    (hu : Results x c vs pz u) (f : Nat → Lane → Lane) {e : State → State} (he : ∀ y, (e y).wefts = y.wefts)
    (hm : ∀ y, (e y).mem = y.mem) (ha : ∀ y, (e y).apart = y.apart) :
    Wrote s (s.perform x c (fun y => e (y.modWeft x.w.id (fun w => (u w).mapLanes x f)))) x c f vs pz := by
  obtain ⟨hw, ho⟩ := perform_weft r c (g := fun w => (u w).mapLanes x f) (fun y => by simp [Weft.mapLanes, hu.id]) he
  constructor
  · intro i
    rw [hw, weft_lane_congr (weft_partDone_lanes _ _), mapLanes_lane (fun hi => ?_), weft_lane_congr (hu.lanes _), r.issued_lane]
    · split <;> rfl
    · rw [hu.lanes]
      have : ((s.weft x.w.id).issueWord x c (s.nextPos x)).lanes.length = (s.weft x.w.id).lanes.length := by simp [Weft.issueWord]
      rw [this, r.len]
      exact r.act i hi
  · intro k
    have hp : ∀ y : Weft, ((y.mapLanes x f).partDone x.track).newest k = y.newest k := fun y => by simp [Weft.newest, Weft.mapLanes]
    rw [hw, hp, hu.newest]
    simp [Weft.newest, r.regs, r.pend]
  · intro k
    have hp : ∀ y : Weft, ((y.mapLanes x f).partDone x.track).marked k = y.marked k := fun y => by simp [Weft.marked, Weft.mapLanes]
    rw [hw, hp, hu.marked]
    simp [Weft.marked, r.pz, r.pend]
  · obtain ⟨n, due, ts, ht, h1, h2⟩ := hu.parts ((s.weft x.w.id).issueWord x c (s.nextPos x)) _ (issueWord_tracks _ _ _ _)
    have ht' : ((u ((s.weft x.w.id).issueWord x c (s.nextPos x))).mapLanes x f).tracks = ⟨x.track, c.flag.toNat, n, due⟩ :: ts := ht
    have hf' : ((u ((s.weft x.w.id).issueWord x c (s.nextPos x))).mapLanes x f).flags =
        if c.flag.toNat = 0 then x.w.flags else x.w.flags.modify c.flag.toNat (· + 1) := by
      simp only [Weft.mapLanes, hu.flags, issueWord_flags, r.count.2]
    rw [hw]
    by_cases h0 : c.flag = 0
    · have hz : c.flag.toNat = 0 := by simp [h0]
      rw [hz] at ht'
      rw [partDone_none_flags ht', hf']
      simp [h0]
    · have hz : c.flag.toNat ≠ 0 := fun hh => h0 (flag_toNat_eq.1 hh)
      by_cases hv : vs = []
      · rw [h1 hv] at ht'
        rw [partDone_last_flags ht', if_neg hz, hf', if_neg hz, modify_up_down, if_neg (fun q => q.1 hv)]
      · obtain ⟨m, hm'⟩ : ∃ m, n = m + 2 := ⟨n - 2, by have := h2 hv h0; omega⟩
        rw [hm'] at ht'
        rw [partDone_more_flags ht', hf', if_neg hz, if_pos ⟨hv, h0⟩]
  · rw [hw, partDone_apart]
    have : ((u ((s.weft x.w.id).issueWord x c (s.nextPos x))).mapLanes x f).apart =
        (u ((s.weft x.w.id).issueWord x c (s.nextPos x))).apart := by simp [Weft.apart, Weft.mapLanes]
    rw [this, hu.apart, issueWord_apart, r.apart]
  · exact ho
  · simp [State.perform, hm]
  · unfold State.perform
    rw [partDone_state_apart, ha]
    exact (modWeft_apart _ _ _).trans (issued_apart s x c)

/-- What a fixed-latency result adds to its weft. -/
def Weft.withFixed (w : Weft) (x : IC) (lat : Nat) (vs : List (Nat × DWord)) (pz : List Nat) : Weft :=
  if vs.isEmpty then w else (w.addFixed x.slot lat vs pz).addDue x.track x.slot lat
/-- What a flag-tracked result adds to its weft. -/
def Weft.withTracked (w : Weft) (x : IC) (vs : List (Nat × DWord)) (pz : List Nat) : Weft :=
  if vs.isEmpty then w else (w.addTracked x.track vs pz).addParts x.track 1

theorem fixed_eq (s : State) (x : IC) (lat : Nat) (vs : List (Nat × DWord)) (pz : List Nat) :
    s.fixed x lat vs pz = s.modWeft x.w.id (fun w => w.withFixed x lat vs pz) := rfl
theorem tracked_eq (s : State) (x : IC) (vs : List (Nat × DWord)) (pz : List Nat) :
    s.tracked x vs pz = s.modWeft x.w.id (fun w => w.withTracked x vs pz) := by
  unfold State.tracked Weft.withTracked
  split
  · exact (modWeft_self _ _).symm
  · rfl

theorem lookupKey_nil (k : Nat) : lookupKey k ([] : List (Nat × DWord)) = none := rfl

/-- A word without results. -/
theorem results_none (x : IC) (c : Common) (pz : List Nat) : Results x c [] pz (fun w => w) :=
  ⟨fun _ => rfl, fun _ => rfl, fun _ _ => by simp [lookupKey_nil], fun _ _ => by simp [lookupKey_nil], fun _ => rfl, fun _ => rfl,
    fun _ ts h => ⟨1, [], ts, h, fun _ => rfl, fun h => absurd rfl h⟩⟩

theorem results_fixed (x : IC) (c : Common) (lat : Nat) (vs : List (Nat × DWord)) (pz : List Nat) :
    Results x c vs pz (fun w => w.withFixed x lat vs pz) := by
  by_cases hv : vs = []
  · subst hv; exact results_none x c pz
  · have he : vs.isEmpty = false := by simpa using hv
    have hu : ∀ w : Weft, w.withFixed x lat vs pz = (w.addFixed x.slot lat vs pz).addDue x.track x.slot lat := fun w => by
      unfold Weft.withFixed; simp [he]
    refine ⟨fun y => by simp [hu], fun y => by simp [hu], fun y k => ?_, fun y k => ?_, fun y => by simp [hu], fun y => ?_, ?_⟩
    · rw [hu]; exact addFixed_newest y x.slot lat vs pz k
    · rw [hu]; exact addFixed_marked y x.slot lat vs pz k
    · rw [hu]; simp [Weft.apart]
    · intro y ts h
      rw [hu]
      refine ⟨if c.flag.toNat = 0 then 1 else 2, if c.flag.toNat = 0 then [] else [(x.slot, lat)],
        ts.map (fun t => if t.id = x.track ∧ t.flag ≠ 0 then { t with left := t.left + 1, due := (x.slot, lat) :: t.due } else t), ?_,
        fun h => absurd h hv, fun _ h0 => ?_⟩
      · unfold Weft.addDue
        simp only [weft_addFixed_tracks, h, List.map_cons, true_and]
        split <;> simp_all
      · rw [if_neg (fun hh => h0 (flag_toNat_eq.1 hh))]

theorem results_tracked (x : IC) (c : Common) (vs : List (Nat × DWord)) (pz : List Nat) :
    Results x c vs pz (fun w => w.withTracked x vs pz) := by
  by_cases hv : vs = []
  · subst hv; exact results_none x c pz
  · have he : vs.isEmpty = false := by simpa using hv
    have hu : ∀ w : Weft, w.withTracked x vs pz = (w.addTracked x.track vs pz).addParts x.track 1 := fun w => by
      unfold Weft.withTracked; simp [he]
    refine ⟨fun y => by simp [hu], fun y => by simp [hu], fun y k => ?_, fun y k => ?_, fun y => by simp [hu], fun y => ?_, ?_⟩
    · rw [hu]; exact addTracked_newest y x.track vs pz k
    · rw [hu]; exact addTracked_marked y x.track vs pz k
    · rw [hu]; simp [Weft.apart]
    · intro y ts h
      rw [hu]
      exact ⟨2, [], ts.map (fun t => if t.id = x.track then { t with left := t.left + 1 } else t), by simp [Weft.addParts, h],
        fun h => absurd h hv, fun _ _ => Nat.le_refl 2⟩

/-- A word that writes fixed-latency results and changes its lanes (R174). -/
theorem perform_fixed {s : State} {x : IC} (r : Reads s x) (c : Common) (lat : Nat) (vs : List (Nat × DWord)) (pz : List Nat)
    (f : Nat → Lane → Lane) {e : State → State} (he : ∀ y, (e y).wefts = y.wefts) (hm : ∀ y, (e y).mem = y.mem)
    (ha : ∀ y, (e y).apart = y.apart) :
    Wrote s (s.perform x c (fun y => e ((y.fixed x lat vs pz).modWeft x.w.id (fun w => w.mapLanes x f)))) x c f vs pz := by
  have hq : (fun y : State => e ((y.fixed x lat vs pz).modWeft x.w.id (fun w => w.mapLanes x f))) =
      fun y => e (y.modWeft x.w.id (fun w => (w.withFixed x lat vs pz).mapLanes x f)) := by
    funext y
    rw [fixed_eq, modWeft_modWeft (results_fixed x c lat vs pz).id]
  rw [hq]
  exact perform_result r c (results_fixed x c lat vs pz) f he hm ha

/-- A word whose unit's completion its flag tells (R175). -/
theorem perform_tracked {s : State} {x : IC} (r : Reads s x) (c : Common) (vs : List (Nat × DWord)) (pz : List Nat)
    (f : Nat → Lane → Lane) {e : State → State} (he : ∀ y, (e y).wefts = y.wefts) (hm : ∀ y, (e y).mem = y.mem)
    (ha : ∀ y, (e y).apart = y.apart) :
    Wrote s (s.perform x c (fun y => e ((y.tracked x vs pz).modWeft x.w.id (fun w => w.mapLanes x f)))) x c f vs pz := by
  have hq : (fun y : State => e ((y.tracked x vs pz).modWeft x.w.id (fun w => w.mapLanes x f))) =
      fun y => e (y.modWeft x.w.id (fun w => (w.withTracked x vs pz).mapLanes x f)) := by
    funext y
    rw [tracked_eq, modWeft_modWeft (results_tracked x c vs pz).id]
  rw [hq]
  exact perform_result r c (results_tracked x c vs pz) f he hm ha

/-- A due arithmetic word writes each lane's value (R174, R175, R240): the spec lemma of `valueWord`. -/
theorem valueWord_wrote {s : State} {sw : SlotWord} {x : IC} {v : View} (h : Due s sw x v false) (lat : Option Nat) (w64 : Bool)
    (d : Opnd) (pz : IC → Nat → Bool) (f : IC → Nat → DWord) :
    ∃ t, valueWord v lat w64 d pz f s = .next t ∧
      Wrote (s.ready sw) t x v.common noMore (wordWrites w64 d x.lanes (f x)) (wordPz w64 d x.lanes (pz x)) := by
  refine ⟨_, runWord_go h rfl, ?_⟩
  cases lat with
  | none =>
    have := perform_tracked h.reading v.common (wordWrites w64 d x.lanes (f x)) (wordPz w64 d x.lanes (pz x)) noMore
      (e := fun y => y.consume x (x.lanes.filter (pz x))) (by simp) (by simp) (by simp)
    simp only [mapLanes_noMore, modWeft_self] at this
    exact this
  | some n =>
    have := perform_fixed h.reading v.common n (wordWrites w64 d x.lanes (f x)) (wordPz w64 d x.lanes (pz x)) noMore
      (e := fun y => y.consume x (x.lanes.filter (pz x))) (by simp) (by simp) (by simp)
    simp only [mapLanes_noMore, modWeft_self] at this
    exact this

end Sys2Proof.Machine
end

