-- ==== Sys2Proof/Laws/Value.lean ====
section
/-! SUPPORT. The words that write a value in each lane, by the number of their sources: from the operation that a meaning calls to what
the word writes. -/
namespace Sys2Proof.Machine

/-- A 32-bit operand reads below 2^32 (R241). -/
theorem rd_lt {x : IC} {w64 : Bool} {o : Opnd} {k : Nat} (h : w64 = false) (hk : k < 2 ^ 32) : (x.rd w64 o k).toNat < 2 ^ 32 := by
  subst h
  have ht : ∀ n, (trunc 32 n).toNat < 2 ^ 32 := by
    intro n
    unfold trunc
    rw [BitVec.toNat_ofNat]
    have : n % 2 ^ 32 < 2 ^ 32 := Nat.mod_lt _ (by decide)
    omega
  cases o with
  | v n => exact ht _
  | s n => exact ht _
  | zero => exact (by decide : (0 : DWord).toNat < 2 ^ 32)
  | lane =>
    show (BitVec.ofNat 64 k).toNat < 2 ^ 32
    rw [BitVec.toNat_ofNat]
    omega

/-- A lane of a due word is one of the 32. -/
theorem Due.lane_lt_32 {s : State} {sw : SlotWord} {x : IC} {v : View} {p : Bool} (h : Due s sw x v p) {i : Nat} (hi : i ∈ x.lanes) :
    i < 32 := by
  have : i ∈ (lanesOf sw.lanes).filter (fun i => (((s.ready sw).weft sw.weft).lane i).st == .active) := by
    have := hi
    rw [h.reads, (icOf_fresh h.fresh).2] at this
    exact this
  have := (List.mem_filter.1 this).1
  unfold lanesOf at this
  simpa using (List.mem_filter.1 this).1

theorem wordWrites_congr {w64 : Bool} {d : Opnd} {ls : List Nat} {f g : Nat → DWord} (h : ∀ i ∈ ls, f i = g i) :
    wordWrites w64 d ls f = wordWrites w64 d ls g := by
  unfold wordWrites
  cases d with
  | v n =>
    simp only
    induction ls with
    | nil => rfl
    | cons i is ih =>
      simp only [List.flatMap_cons]
      rw [h i (by simp), ih (fun j hj => h j (by simp [hj]))]
  | s n =>
    cases ls with
    | nil => rfl
    | cons i is => simp [h i]
  | zero => rfl
  | lane => rfl

/-- A meaning that is `valueWord` writes its function's values. -/
theorem writes_of {i : Instr} {lat : Option Nat} {w64 : Bool} {d : Opnd} {pz : IC → Nat → Bool} {f f' : IC → Nat → DWord}
    (he : ∀ s, exec i s = valueWord i.view lat w64 d pz f s) (hf : ∀ x k, k < 32 → f x k = f' x k) :
    Writes i w64 d pz f' := by
  intro s sw x h
  rw [he, ← wordWrites_congr (f := f x) (fun k hk => hf x k (h.lane_lt_32 hk))]
  exact valueWord_wrote h lat w64 d pz f

/-- A meaning that is `alu1`. -/
theorem writes1_of {i : Instr} {d64 a64 : Bool} {d a : Opnd} {g g' : DWord → DWord}
    (he : ∀ s, exec i s = alu1 i.view d64 d a64 a g s) (hf : ∀ u : DWord, (a64 = false → u.toNat < 2 ^ 32) → g u = g' u) :
    Writes1 i d64 d a64 a g' :=
  writes_of (lat := some latInt) he (fun x k hk => hf _ (fun h => rd_lt h (by omega)))

/-- A meaning that is `alu2`. -/
theorem writes2_of {i : Instr} {d64 a64 b64 : Bool} {d a b : Opnd} {g g' : DWord → DWord → DWord}
    (he : ∀ s, exec i s = alu2 i.view d64 d a64 a b64 b g s)
    (hf : ∀ u v : DWord, (a64 = false → u.toNat < 2 ^ 32) → (b64 = false → v.toNat < 2 ^ 32) → g u v = g' u v) :
    Writes2 i d64 d a64 a b64 b g' :=
  writes_of (lat := some latInt) he (fun x k hk => hf _ _ (fun h => rd_lt h (by omega)) (fun h => rd_lt h (by omega)))

/-- A meaning that is `alu3`. -/
theorem writes3_of {i : Instr} {d64 a64 b64 c64 : Bool} {d a b c : Opnd} {g g' : DWord → DWord → DWord → DWord}
    (he : ∀ s, exec i s = alu3 i.view d64 d a64 a b64 b c64 c g s)
    (hf : ∀ u v w : DWord, (a64 = false → u.toNat < 2 ^ 32) → (b64 = false → v.toNat < 2 ^ 32) → (c64 = false → w.toNat < 2 ^ 32) →
      g u v w = g' u v w) :
    Writes3 i d64 d a64 a b64 b c64 c g' :=
  writes_of (lat := some latInt) he
    (fun x k hk => hf _ _ _ (fun h => rd_lt h (by omega)) (fun h => rd_lt h (by omega)) (fun h => rd_lt h (by omega)))

/-- A meaning that copies a register (R258, R441). -/
theorem writes_fixed_of {i : Instr} {lat : Nat} {w64 : Bool} {d : Opnd} {pz : IC → Nat → Bool} {f : IC → Nat → DWord}
    (he : ∀ s, exec i s = simpleWord i.view (fun x s1 =>
      s1.fixed x lat (wordWrites w64 d x.lanes (f x)) (wordPz w64 d x.lanes (pz x))) s) :
    Writes i w64 d pz f := by
  intro s sw x h
  rw [he]
  refine ⟨_, runWord_go h rfl, ?_⟩
  have := perform_fixed h.reading i.view.common lat (wordWrites w64 d x.lanes (f x)) (wordPz w64 d x.lanes (pz x)) noMore (e := id)
    (fun _ => rfl) (fun _ => rfl) (fun _ => rfl)
  simp only [mapLanes_noMore, modWeft_self] at this
  exact this

end Sys2Proof.Machine
end

