-- ==== Sys2Proof/Laws/Words.lean ====
section
/-! SUPPORT. Words that change their lanes or have effects beyond registers: from the operation that a meaning calls to the shapes of
Safety. -/
namespace Sys2Proof.Machine

/-- The state in which a word has just issued. -/
theorem issued_issued {s : State} {x : IC} (r : Reads s x) (c : Common) : Issued s (s.issued x c) x c := by
  have hid : ∀ y : Weft, (y.issueWord x c (s.nextPos x)).id = y.id := fun y => by simp
  have hw : (s.issued x c).weft x.w.id = (s.weft x.w.id).issueWord x c (s.nextPos x) := by
    rw [weft_congr (issued_wefts s x c), weft_modWeft_self hid r.here]
  refine ⟨?_, ?_, ?_, ?_, ?_, ?_, by simp, by simp⟩
  · intro i; rw [hw, r.issued_lane]
  · rw [hw, issueWord_tracks, r.count.1]
  · rw [hw, issueWord_flags, r.count.2]
    by_cases h0 : c.flag = 0
    · simp [h0]
    · have : c.flag.toNat ≠ 0 := fun h => h0 (flag_toNat_eq.1 h)
      rw [if_neg this, if_neg h0]
  · rw [hw, ← r.sw]
    unfold Weft.issueWord Weft.flagUp
    split <;> rfl
  · have h1 : ∀ w : Weft, { w.issueWord x c (s.nextPos x) with lanes := [], tracks := [], flags := [], swWait := false, hang := 0 } =
        { w with lanes := [], tracks := [], flags := [], swWait := false, hang := 0 } := by
      intro w
      unfold Weft.issueWord Weft.flagUp
      split <;> rfl
    rw [hw, h1]
    have ha := r.apart
    unfold Weft.apart at ha
    have hr := r.regs
    have hp := r.pz
    have hq := r.pend
    have h2 : ∀ w : Weft, ({ w with lanes := [], tracks := [], flags := [], swWait := false, hang := 0 } : Weft) =
        { ({ w with lanes := [], regs := [], poison := [], pend := [], tracks := [], flags := [], swWait := false, hang := 0 } : Weft) with
            regs := w.regs, poison := w.poison, pend := w.pend } := fun _ => rfl
    rw [h2 (s.weft x.w.id), ha, hr, hp, hq]
  · intro w h
    rw [weft_congr (issued_wefts s x c), weft_modWeft_ne hid h]

/-- What a word has issued from the place of its lanes at it, it has issued. -/
theorem Issued.ofAtWord {s u : State} {x : IC} {c : Common} (h : Issued (s.atWord x) u x c) : Issued s u x c :=
  ⟨h.lanes, h.track, h.flags, h.waits, h.rest, fun w hw => (h.others w hw).trans (atWord_weft_ne hw), h.mem.trans (atWord_mem s x),
    h.apart.trans (atWord_apart s x)⟩

/-- A meaning whose plan goes. -/
theorem performs_go {i : Instr} {p : Bool} {pre : State → IC → Prop} {plan : IC → State → Plan} {act : IC → State → State}
    (he : ∀ s, exec i s = runWord i.view p plan s) (hp : ∀ s x, pre s x → plan x s = .go (act x)) :
    Performs i p pre act := by
  intro s sw x h hx
  refine ⟨_, issued_issued h.reading i.view.common, ?_⟩
  rw [he, runWord_go h (hp _ _ hx)]
  rfl

/-- A meaning all of whose lanes pass. -/
theorem performs_part {i : Instr} {p : Bool} {pre : State → IC → Prop} {plan : IC → State → Plan} {act : IC → State → State}
    (he : ∀ s, exec i s = runWord i.view p plan s)
    (hp : ∀ s x, pre s x → ∃ f, plan x s = .part x.lanes f [] [] ∧ f x = act x) : Performs i p pre act := by
  intro s sw x h hx
  obtain ⟨f, hf, ha⟩ := hp _ _ hx
  refine ⟨_, (issued_issued h.reading.atWord i.view.common).ofAtWord, ?_⟩
  rw [he, runWord_part h hf, ha]
  rfl

/-- Lanes that all pass their checks. -/
theorem sortLanes_ok {α : Type} {chk : Nat → Chk α} {g : Nat → α} {ls : List Nat} (h : ∀ i ∈ ls, chk i = .ok (g i)) :
    sortLanes chk ls = (ls.map (fun i => (i, g i)), [], []) := by
  induction ls with
  | nil => rfl
  | cons i is ih =>
    unfold sortLanes
    rw [h i (by simp), ih (fun j hj => h j (by simp [hj]))]
    rfl

/-- The plan of a checked word whose lanes all pass, none poisoned, some at a commit point or none (`cm`), that has not to wait. -/
theorem lanePlan_pass {mem : Bool} {x : IC} {s : State} {pz : Nat → Bool} {chk : Nat → Chk (Bool × (State → State))}
    {b : Nat → Bool} {g : Nat → State → State} (hw : mem = true → x.awaits = false)
    (hc : x.lanes.any b = true → s.commitWaits x.p.id = false)
    (hz : ∀ i ∈ x.lanes, pz i = false) (h : ∀ i ∈ x.lanes, chk i = .ok (b i, g i)) :
    ∃ f, lanePlan mem x s pz chk = .part x.lanes f [] [] ∧
      f x = fun u => if x.lanes.any b then u.committed x.p.id (x.each g) else x.each g u := by
  have hf : x.lanes.filter (fun i => !pz i) = x.lanes := List.filter_eq_self.2 (fun i hi => by simp [hz i hi])
  have hs : x.lanes.filter pz = [] := List.filter_eq_nil_iff.2 (fun i hi => by simp [hz i hi])
  have hm : (x.lanes.map (fun i => (i, b i, g i))).map (fun a => a.1) = x.lanes := by simp [Function.comp_def]
  have ha : (x.lanes.map (fun i => (i, b i, g i))).any (fun a => a.2.1) = x.lanes.any b := by simp [List.any_map, Function.comp_def]
  have h1 : ¬ (mem && x.awaits) = true := by
    cases mem
    · simp
    · simp [hw rfl]
  have h2 : ¬ (x.lanes.any b && s.commitWaits x.p.id) = true := by
    intro hh
    rw [Bool.and_eq_true] at hh
    simp [hc hh.1] at hh
  unfold lanePlan checkedPlan
  rw [hf, hs]
  dsimp only
  rw [sortLanes_ok (g := fun i => (b i, g i)) h]
  simp only [ha, h1, h2, hm, if_false, Bool.false_eq_true, List.isEmpty_nil, if_true]
  refine ⟨_, rfl, ?_⟩
  funext u
  simp only [List.foldl_map]
  rfl

/-- The plan of a checked word whose lanes all pass, none poisoned, none at a commit point. -/
theorem lanePlan_ok {mem : Bool} {x : IC} {s : State} {pz : Nat → Bool} {chk : Nat → Chk (Bool × (State → State))}
    {g : Nat → State → State} (hw : mem = true → x.awaits = false) (hz : ∀ i ∈ x.lanes, pz i = false)
    (h : ∀ i ∈ x.lanes, chk i = .ok (false, g i)) :
    ∃ f, lanePlan mem x s pz chk = .part x.lanes f [] [] ∧ f x = fun u => x.each g u := by
  have hb : x.lanes.any (fun _ => false) = false := by simp
  obtain ⟨f, hf, ha⟩ := lanePlan_pass (b := fun _ => false) hw (fun q => absurd (hb.symm.trans q) (by decide)) hz h
  exact ⟨f, hf, by rw [ha]; simp [hb]⟩

/-- The plan of a memory word whose lanes all pass, none poisoned, nothing awaited. -/
theorem memPlan_ok {x : IC} {pz : Nat → Bool} {chk : Nat → Chk (State → State)} {g : Nat → State → State} {ls : List Nat}
    (hw : x.awaits = false) (hz : ∀ i ∈ ls, pz i = false) (h : ∀ i ∈ ls, chk i = .ok (g i)) :
    ∃ f, memPlan x ls pz chk = .part x.lanes f [] [] ∧ f x = fun u => ls.foldl (fun y k => g k y) u := by
  have hf : ls.filter (fun i => !pz i) = ls := List.filter_eq_self.2 (fun i hi => by simp [hz i hi])
  have hs : ls.filter pz = [] := List.filter_eq_nil_iff.2 (fun i hi => by simp [hz i hi])
  have hp : x.lanes.filter (fun i => (ls.map (fun i => (i, g i))).any (fun a => a.1 == i) || !ls.contains i) = x.lanes := by
    refine List.filter_eq_self.2 (fun i _ => ?_)
    by_cases hi : i ∈ ls
    · simp [hi]
    · simp [hi]
  unfold memPlan checkedPlan
  rw [hf, hs]
  dsimp only
  rw [sortLanes_ok h]
  simp only [hw, Bool.false_eq_true, if_false, List.isEmpty_nil, Bool.not_true, Bool.false_and, if_true, hp]
  refine ⟨_, rfl, ?_⟩
  funext u
  simp [List.foldl_map]

/-! ### Words that move their lanes -/

/-- The lanes of a due word are listed once. -/
theorem Due.lanes_nodup {s : State} {sw : SlotWord} {x : IC} {v : View} {p : Bool} (h : Due s sw x v p) : x.lanes.Nodup := by
  rw [h.reads, (icOf_fresh h.fresh).2]
  exact ((List.nodup_range).filter _).filter _

/-- Lanes changed one after another are changed together. -/
theorem foldl_modLane (w : Weft) (g : Nat → Lane → Lane) : ∀ ls : List Nat, ls.Nodup →
    ls.foldl (fun y k => y.modLane k (g k)) w =
      { w with lanes := w.lanes.mapIdx (fun i l => if ls.contains i then g i l else l) } := by
  intro ls
  induction ls generalizing w with
  | nil =>
    intro _
    have : w.lanes.mapIdx (fun i l => if ([] : List Nat).contains i then g i l else l) = w.lanes := by
      apply List.ext_getElem?
      intro i
      simp
    rw [this]; rfl
  | cons k ks ih =>
    intro h
    obtain ⟨hk, hn⟩ := List.nodup_cons.1 h
    rw [List.foldl_cons, ih _ hn]
    have : (w.modLane k (g k)).lanes.mapIdx (fun i l => if ks.contains i then g i l else l) =
        w.lanes.mapIdx (fun i l => if (k :: ks).contains i then g i l else l) := by
      apply List.ext_getElem?
      intro i
      simp only [List.getElem?_mapIdx, Weft.modLane, List.getElem?_modify]
      by_cases hi : k = i
      · subst hi
        cases w.lanes[k]? <;> simp [hk]
      · have hi2 : ¬ i = k := fun e => hi e.symm
        cases w.lanes[i]? <;> simp [hi, hi2]
    rw [this]; rfl

/-- The same of a state's weft. -/
theorem each_modLane {x : IC} (hn : x.lanes.Nodup) (g : Nat → Lane → Lane) (u : State) :
    x.each (fun k y => y.modLane x.w.id k (g k)) u = u.modWeft x.w.id (fun w => w.mapLanes x g) := by
  have h1 : ∀ (ls : List Nat) (v : State), ls.foldl (fun y k => y.modLane x.w.id k (g k)) v =
      v.modWeft x.w.id (fun w => ls.foldl (fun y k => y.modLane k (g k)) w) := by
    intro ls
    induction ls with
    | nil => intro v; exact (modWeft_self v x.w.id).symm
    | cons k ks ih =>
      intro v
      rw [List.foldl_cons, ih]
      have hid : ∀ y : Weft, (y.modLane k (g k)).id = y.id := fun _ => rfl
      have := modWeft_modWeft (s := v) (w := x.w.id) (f := fun y => y.modLane k (g k))
        (g := fun w => ks.foldl (fun y k => y.modLane k (g k)) w) hid
      rw [show v.modLane x.w.id k (g k) = v.modWeft x.w.id (fun y => y.modLane k (g k)) from rfl, this]
      rfl
  unfold IC.each
  rw [h1]
  congr 1
  funext w
  exact foldl_modLane w g x.lanes hn

/-- What a word did from the place of its lanes at it. -/
theorem Wrote.ofAtWord {s t : State} {x : IC} {c : Common} {after : Nat → Lane → Lane} {vs : List (Nat × DWord)}
    {pz : List Nat} (h : Wrote (s.atWord x) t x c after vs pz) : Wrote s t x c after vs pz :=
  ⟨h.lanes, h.regs, h.poison, h.flags, h.weft, fun w hw => (h.others w hw).trans (atWord_weft_ne hw), h.mem.trans (atWord_mem s x),
    h.apart.trans (atWord_apart s x)⟩

/-- A word performed whose effect changes its lanes. -/
theorem perform_lanes {s : State} {x : IC} (r : Reads s x) (hn : x.lanes.Nodup) (c : Common) (g : Nat → Lane → Lane) :
    Wrote s (s.perform x c (fun u => x.each (fun k y => y.modLane x.w.id k (g k)) u)) x c g [] [] := by
  have := perform_fixed r c 0 [] [] g (e := id) (fun _ => rfl) (fun _ => rfl) (fun _ => rfl)
  have he : (fun y : State => id ((y.fixed x 0 [] []).modWeft x.w.id (fun w => w.mapLanes x g))) =
      fun u => x.each (fun k y => y.modLane x.w.id k (g k)) u := by
    funext u
    rw [each_modLane hn, fixed_eq]
    unfold Weft.withFixed
    simp only [List.isEmpty_nil, if_true, modWeft_self]
    rfl
  rw [he] at this
  exact this

/-- A meaning that changes lanes outright. -/
theorem steps_of {i : Instr} {plan : IC → State → Plan} {g : IC → Nat → Lane → Lane}
    (he : ∀ s, exec i s = runWord i.view false plan s)
    (hp : ∀ x s, ∃ act, plan x s = .go act ∧ ∀ u, act u = x.each (fun k y => y.modLane x.w.id k (g x k)) u) : Steps i g := by
  intro s sw x h
  obtain ⟨act, hf, ha⟩ := hp x (s.ready sw)
  refine ⟨_, by rw [he, runWord_go h hf], ?_⟩
  rw [show act = fun u => x.each (fun k y => y.modLane x.w.id k (g x k)) u from funext ha]
  exact perform_lanes h.reading h.lanes_nodup _ _

/-- A meaning whose lanes pass their checks and change. -/
theorem moves_of {i : Instr} {mem : Bool} {pre : State → IC → Prop} {pz : IC → Nat → Bool} {chk : IC → State → Nat → Chk (Bool × (State → State))}
    {g : State → IC → Nat → Lane → Lane} (he : ∀ s, exec i s = laneWord i.view mem false pz chk s)
    (hw : ∀ s x, pre s x → mem = true → x.awaits = false)
    (hz : ∀ s x, pre s x → ∀ k ∈ x.lanes, pz x k = false)
    (hc : ∀ s x, pre s x → ∀ k ∈ x.lanes, ∃ f, chk x s k = .ok (false, f) ∧ ∀ u : State, f u = u.modLane x.w.id k (g s x k)) :
    Moves i pre g := by
  intro s sw x h hx
  have hp := lanePlan_ok (mem := mem) (x := x) (s := s.ready sw) (pz := pz x) (chk := chk x (s.ready sw))
    (g := fun k u => u.modLane x.w.id k (g (s.ready sw) x k)) (hw _ _ hx) (hz _ _ hx) (fun k hk => by
      obtain ⟨f, hf, hu⟩ := hc _ _ hx k hk
      rw [hf, show f = fun u => u.modLane x.w.id k (g (s.ready sw) x k) from funext hu])
  obtain ⟨f, hf, ha⟩ := hp
  refine ⟨_, by rw [he]; exact runWord_part h hf, ?_⟩
  rw [ha]
  exact (perform_lanes h.reading.atWord h.lanes_nodup _ _).ofAtWord

end Sys2Proof.Machine
end

