-- ==== Sys2Proof/Laws/Float.lean ====
section
/-! SUPPORT. Rounding words and cross-lane words: from the operation that a meaning calls to what the word writes. -/
namespace Sys2Proof.Machine

/-- The words drawn from a stream and the stream after them (R273, R274). -/
theorem rdraw_eq (n : Nat) (s : DWord) : rdraw n s = (drawn n s, (rstep^[n]) s) := by
  induction n generalizing s with
  | zero => rfl
  | succ n ih =>
    unfold rdraw
    simp only [ih]
    refine Prod.ext ?_ ?_
    · show bitsOf (rstep s).toNat 63 48 :: drawn n (rstep s) = drawn (n + 1) s
      have hd : bitsOf (rstep s).toNat 63 48 = (rstep s).toNat / 2 ^ 48 := by
        unfold bitsOf
        have := (rstep s).isLt
        rw [Nat.shiftRight_eq_div_pow]
        exact Nat.mod_eq_of_lt (by omega)
      rw [hd]
      unfold drawn
      rw [List.range_succ_eq_map, List.map_cons, List.map_map]
      rfl
    · rfl

/-- The lanes of a word whose streams and shadow results are set. -/
theorem setStreams_setShadow (y : State) (x : IC) (chk : Bool) (next g : Nat → DWord) :
    (if chk then (y.setStreams x next).setShadow x g else y.setStreams x next) =
      y.modWeft x.w.id (fun w => w.mapLanes x (fun k l =>
        if chk then { l with rstate := next k, shadow := some (x.pc, (g k).setWidth 32) } else { l with rstate := next k })) := by
  cases chk with
  | false => rfl
  | true =>
    simp only [if_true]
    have h : y.setStreams x next = y.modWeft x.w.id (fun w => w.mapLanes x (fun k l => { l with rstate := next k })) := rfl
    have h2 : ∀ z : State, z.setShadow x g =
        z.modWeft x.w.id (fun w => w.mapLanes x (fun k l => { l with shadow := some (x.pc, (g k).setWidth 32) })) := fun _ => rfl
    rw [h, h2, modWeft_modWeft (f := fun w => w.mapLanes x (fun k l => { l with rstate := next k })) (fun _ => rfl)]
    congr 1
    funext w
    unfold Weft.mapLanes
    simp only [List.mapIdx_mapIdx]
    congr 2
    funext i l
    simp only [Function.comp]
    split <;> rfl

/-- A due rounding word writes each lane's rounded value and moves the streams of its lanes: the spec lemma of `floatWord`. -/
theorem floatWord_wrote {s : State} {sw : SlotWord} {x : IC} {v : View} (h : Due s sw x v false) (lat : Option Nat) (d64 : Bool)
    (d : Opnd) (rnd : Rnd) (sat : Bool) (n : Nat) (chk : Bool) (pz : IC → Nat → Bool) (g : IC → Nat → FEnv → DWord) :
    ∃ t, floatWord v lat d64 d rnd sat n chk pz g s = .next t ∧
      Wrote (s.ready sw) t x v.common (fun k l => if chk then
          { l with rstate := streamAfter rnd n x k, shadow := some (x.pc, (g x k (roundEnv rnd sat n x k)).setWidth 32) }
        else { l with rstate := streamAfter rnd n x k })
        (wordWrites d64 d x.lanes (fun i => g x i (roundEnv rnd sat n x i))) (wordPz d64 d x.lanes (pz x)) := by
  refine ⟨_, runWord_go h rfl, ?_⟩
  have hdr : ∀ i, (if rnd = .rs then rdraw n (x.w.lane i).rstate else (([] : List Nat), (x.w.lane i).rstate)) =
      ((roundEnv rnd sat n x i).rws, streamAfter rnd n x i) := by
    intro i
    unfold roundEnv streamAfter
    split
    · exact rdraw_eq _ _
    · rfl
  have hv : ∀ i, g x i ⟨rnd, sat, (roundEnv rnd sat n x i).rws, x.nan i⟩ = g x i (roundEnv rnd sat n x i) := fun _ => rfl
  simp only [hdr, hv, setStreams_setShadow]
  cases lat with
  | none =>
    exact perform_tracked h.reading v.common (wordWrites d64 d x.lanes (fun i => g x i (roundEnv rnd sat n x i)))
      (wordPz d64 d x.lanes (pz x)) _ (e := fun y => y.consume x (x.lanes.filter (pz x))) (by simp) (by simp) (by simp)
  | some m =>
    exact perform_fixed h.reading v.common m (wordWrites d64 d x.lanes (fun i => g x i (roundEnv rnd sat n x i)))
      (wordPz d64 d x.lanes (pz x)) _ (e := fun y => y.consume x (x.lanes.filter (pz x))) (by simp) (by simp) (by simp)

/-- A word's effect on its lanes may be said of the lanes that it issues. -/
theorem Wrote.congr {s t : State} {x : IC} {c : Common} {f g : Nat → Lane → Lane} {vs : List (Nat × DWord)} {pz : List Nat}
    (h : Wrote s t x c f vs pz) (he : ∀ i ∈ x.lanes, f i (x.passed s i) = g i (x.passed s i)) : Wrote s t x c g vs pz :=
  { h with
    lanes := fun i => (h.lanes i).trans (by
      by_cases hi : i ∈ x.lanes
      · simp [hi, he i hi]
      · simp [hi]) }

/-- A meaning that is `floatWord`. -/
theorem writesDrawing_of {i : Instr} {lat : Option Nat} {d64 : Bool} {d : Opnd} {rnd : Rnd} {sat : Bool} {n : Nat} {chk : Bool}
    {pz : IC → Nat → Bool} {g : IC → Nat → FEnv → DWord} {f : IC → Nat → DWord}
    (he : ∀ s, exec i s = floatWord i.view lat d64 d rnd sat n chk pz g s)
    (hf : ∀ x k, k < 32 → g x k (roundEnv rnd sat n x k) = f x k) :
    WritesDrawing i chk d64 d pz (streamAfter rnd n) f := by
  intro s sw x h
  rw [he, ← wordWrites_congr (f := fun i => g x i (roundEnv rnd sat n x i)) (fun k hk => hf x k (h.lane_lt_32 hk))]
  obtain ⟨t, ht, hw⟩ := floatWord_wrote h lat d64 d rnd sat n chk pz g
  refine ⟨t, ht, hw.congr (fun k hk => ?_)⟩
  rw [hf x k (h.lane_lt_32 hk)]
  cases chk <;> rfl

/-- A meaning that is `crossWord`, whose lanes all lie in their own masks: the spec lemma of `crossWord`. -/
theorem crosses_of {i : Instr} {f : V3} {used : Bool} {pz pz' : IC → Nat → Bool} {g g' : IC → Nat → DWord}
    (he : ∀ s, exec i s = crossWord i.view f used pz g s) (hf : ∀ x k, k < 32 → g x k = g' x k)
    (hz : ∀ x : IC, wordPz f.ty.is64 f.d x.lanes (pz x) = wordPz f.ty.is64 f.d x.lanes (pz' x)) : Crosses i f pz' g' := by
  intro s sw x h hm
  have hin : ∀ k ∈ x.lanes, (x.maskOf f.c k).getLsbD k = true := by
    intro k hk
    have hk32 := h.lane_lt_32 hk
    have := hm k hk
    unfold IC.inMask at this
    unfold IC.maskOf
    rw [BitVec.getLsbD_ofNat]
    simpa [hk32, BitVec.getLsbD] using this
  have hp : x.lanes.filter (fun k => (x.maskOf f.c k).getLsbD k) = x.lanes := List.filter_eq_self.2 hin
  have hb : x.lanes.filter (fun k => !(x.maskOf f.c k).getLsbD k) = [] :=
    List.filter_eq_nil_iff.2 (fun k hk => by simp [hin k hk])
  refine ⟨_, by rw [he]; exact runWord_part h (by rw [hp, hb]; rfl), ?_⟩
  rw [← wordWrites_congr (f := g x) (fun k hk => hf x k (h.lane_lt_32 hk)), ← hz]
  refine Wrote.ofAtWord ?_
  have hmod : ∀ y : State, ((y.tracked x (wordWrites f.ty.is64 f.d x.lanes (g x)) (wordPz f.ty.is64 f.d x.lanes (pz x))).modWeft
      x.w.id (fun w => w.mapLanes x noMore)) =
      y.tracked x (wordWrites f.ty.is64 f.d x.lanes (g x)) (wordPz f.ty.is64 f.d x.lanes (pz x)) := fun y => by
    simp only [mapLanes_noMore, modWeft_self]
  cases used with
  | true =>
    have := perform_tracked h.reading.atWord i.view.common (wordWrites f.ty.is64 f.d x.lanes (g x))
      (wordPz f.ty.is64 f.d x.lanes (pz x)) noMore (e := fun y => y.consume x (x.lanes.filter (pz x))) (by simp) (by simp) (by simp)
    simp only [hmod] at this
    exact this
  | false =>
    have := perform_tracked h.reading.atWord i.view.common (wordWrites f.ty.is64 f.d x.lanes (g x))
      (wordPz f.ty.is64 f.d x.lanes (pz x)) noMore (e := id) (fun _ => rfl) (fun _ => rfl) (fun _ => rfl)
    simp only [hmod, id] at this
    exact this

end Sys2Proof.Machine
end

