-- ==== Sys2Proof/Laws/Memory.lean ====
section
/-! SUPPORT. Every operation on memory keeps its canonical form. -/
namespace Sys2Proof.Machine

/-- The canonical form, map by map. -/
theorem inv_iff (s : State) : s.Inv ↔ smapOk 0 s.mem.bytes = true ∧ smapOk 0 s.mem.host = true ∧ smapOk 0 s.mem.remote = true ∧
    smapOk (0, 0, 0) s.mem.tags = true := by
  simp only [State.Inv, MemSt.wf, Bool.and_eq_true, and_assoc]

/-- The form rests on memory alone. -/
theorem inv_congr {s t : State} (h : t.mem = s.mem) : t.Inv ↔ s.Inv := by unfold State.Inv; rw [h]

theorem inv_reset : State.reset.Inv := (inv_iff _).2 ⟨rfl, rfl, rfl, rfl⟩

/-- A fold of writes into a map keeps its form. -/
theorem smapOk_foldl {α β : Type} [DecidableEq α] {d : α} (k : β → Nat) (v : β → α) (l : List β) {m : List (Nat × α)}
    (h : smapOk d m = true) : smapOk d (l.foldl (fun n b => sput d n (k b) (v b)) m) = true := by
  induction l generalizing m with
  | nil => exact h
  | cons b l ih => exact ih (smapOk_sput h _ _)

/-- A map cut down keeps its form. -/
theorem smapFrom_filter {α : Type} [DecidableEq α] {d : α} (p : Nat × α → Bool) {lo : Nat} {m : List (Nat × α)}
    (h : smapFrom d lo m = true) : smapFrom d lo (m.filter p) = true := by
  induction m generalizing lo with
  | nil => rfl
  | cons e m ih =>
    obtain ⟨k, v⟩ := e
    simp only [smapFrom, Bool.and_eq_true, decide_eq_true_eq] at h
    rw [List.filter_cons]
    split
    · simp only [smapFrom, Bool.and_eq_true, decide_eq_true_eq]
      exact ⟨h.1, ih h.2⟩
    · exact smapFrom_mono (by omega) (ih h.2)

theorem dramPut_inv {s : State} (h : s.Inv) (pa okey : Nat) (b : Byte) : (s.dramPut pa okey b).Inv := by
  rw [inv_iff] at h ⊢
  refine ⟨?_, h.2.1, h.2.2.1, smapOk_sput h.2.2.2 _ _⟩
  refine smapOk_sput ?_ _ _
  split
  · exact h.1
  · exact smapOk_foldl _ _ _ h.1

/-- The form does not rest on the lines of the die stores. -/
theorem lines_inv {s : State} (h : s.Inv) (ls : List DLine) : ({ s with mem := { s.mem with lines := ls } } : State).Inv := by
  rw [inv_iff] at h ⊢; exact h

theorem writeBack_inv {s : State} (h : s.Inv) (l : DLine) : (s.writeBack l).Inv := by
  unfold State.writeBack
  split
  · generalize List.range 64 = is
    induction is generalizing s with
    | nil => exact h
    | cons i is ih => exact ih (dramPut_inv h _ _ _)
  · exact h

theorem evict_inv {s : State} (h : s.Inv) (pa : Nat) : (s.evict pa).Inv := by
  unfold State.evict
  dsimp only
  split
  · exact h
  · split
    · exact h
    · exact lines_inv (writeBack_inv h _) _

theorem allocLine_inv {s : State} (h : s.Inv) (pa okey cpol : Nat) : (s.allocLine pa okey cpol).Inv := by
  unfold State.allocLine
  split
  · exact h
  · exact lines_inv (evict_inv h _) _

theorem hbmPut_inv {s : State} (h : s.Inv) (pa okey cpol : Nat) (b : Byte) : (s.hbmPut pa okey cpol b).Inv := by
  unfold State.hbmPut
  dsimp only
  split
  · exact lines_inv (allocLine_inv h _ _ _) _
  · exact dramPut_inv (allocLine_inv h _ _ _) _ _ _

theorem chipPut_inv {s : State} (h : s.Inv) (pa : Nat) (b : Byte) : (s.chipPut pa b).Inv := by
  unfold State.chipPut
  dsimp only
  split
  · split
    · exact (inv_congr rfl).2 h
    · exact h
  · split
    · exact h
    · rw [inv_iff] at h ⊢
      exact ⟨smapOk_sput h.1 _ _, h.2⟩

theorem putByte_inv {s : State} (h : s.Inv) (l : Loc) (b : Byte) : (s.putByte l b).Inv := by
  cases l with
  | hbm pa k c => exact hbmPut_inv h pa k c b
  | chip pa k => exact chipPut_inv h pa b
  | zero => exact h
  | host f a => rw [inv_iff] at h ⊢; exact ⟨h.1, smapOk_sput h.2.1 _ _, h.2.2⟩
  | remote n r c k o => rw [inv_iff] at h ⊢; exact ⟨h.1, h.2.1, smapOk_sput h.2.2.1 _ _, h.2.2.2⟩

theorem putBytes_inv {s : State} (h : s.Inv) (ws : List Wr) : (ws.foldl (fun x w => x.putByte w.loc w.b) s).Inv := by
  induction ws generalizing s with
  | nil => exact h
  | cons w ws ih => exact ih (putByte_inv h _ _)

/-- A change of poisoned granules and rows keeps the form. -/
theorem poisoned_inv {s : State} (h : s.Inv) (pz : List Nat) : ({ s with mem := { s.mem with poison := pz } } : State).Inv := by
  rw [inv_iff] at h ⊢; exact h

theorem poisonAt_inv {s : State} (h : s.Inv) (g : Nat) : (s.poisonAt g).Inv := by
  unfold State.poisonAt; split
  · exact h
  · exact poisoned_inv h _

/-- A fold of changes that leave memory alone. -/
theorem foldl_mem {β : Type} {f : State → β → State} (h : ∀ y b, (f y b).mem = y.mem) (l : List β) (s : State) :
    (l.foldl f s).mem = s.mem := by
  induction l generalizing s with
  | nil => rfl
  | cons b l ih => exact (ih _).trans (h s b)

theorem pzRegs_mem (s : State) (ws : List Wr) : (s.pzRegs ws).mem = s.mem := by
  refine foldl_mem (fun y w => ?_) ws s
  dsimp only
  split
  · split
    · split
      · rfl
      · split
        · rfl
        · split <;> rfl
    · rfl
  all_goals rfl

theorem staleBeams_mem (s : State) (ws : List Wr) : (s.staleBeams ws).mem = s.mem := by
  unfold State.staleBeams; dsimp only; split <;> rfl

theorem write_inv {s : State} (h : s.Inv) (ws : List Wr) : (s.write ws).Inv := by
  unfold State.write
  refine poisoned_inv ?_ _
  exact (inv_congr ((staleBeams_mem _ _).trans (pzRegs_mem _ _))).2 (putBytes_inv h ws)

theorem deviceWrite_inv {s : State} (h : s.Inv) (c : CtxId) (seg : Seg) (off size x : Nat) : (s.deviceWrite c seg off size x).Inv := by
  unfold State.deviceWrite; split
  · exact write_inv h _
  · exact h

theorem placeWord_inv {s : State} (h : s.Inv) (w : DWord) : (s.placeWord w).Inv := by
  rw [inv_iff] at h ⊢
  have hb := smapOk_foldl (fun bi : Byte × Nat => coreBlock 0 + ipadOff + bi.2) (fun bi => bi.1) (oneWord w).zipIdx h.1
  unfold State.placeWord
  dsimp only [modCore_mem]
  exact ⟨hb, h.2⟩

theorem cold_inv {s : State} (h : s.Inv) : s.cold.Inv := by
  rw [inv_iff] at h ⊢
  exact ⟨smapFrom_filter _ h.1, h.2⟩

end Sys2Proof.Machine
end

