-- ==== Sys2Proof/Laws/PerInstr.lean ====
section
/-! SUPPORT. What the word of each instruction carries: its major and SUB, which the opcode map lists (R182, R195). -/
namespace Sys2Proof.Laws

/-- A field above the lowest part of a word lies in the rest. -/
theorem drop_low {n m : Nat} (x : BitVec n) (y : BitVec m) (lo : Nat) :
    BitVec.extractLsb' (lo + m) 6 (x ++ y) = BitVec.extractLsb' lo 6 x := by
  rw [BitVec.extractLsb'_append_eq_of_le (by omega)]; simp
/-- The lowest part of a word. -/
theorem low_part {n : Nat} (x : BitVec n) (y : BitVec 6) : BitVec.extractLsb' 0 6 (x ++ y) = y := by
  simp [BitVec.extractLsb'_append_eq_right]
/-- The whole of a field. -/
theorem all_part (x : BitVec 6) : BitVec.extractLsb' 0 6 x = x := by simp

/-- Bits 63:58 of a word are its major, bits 49:44 its SUB (R182). -/
theorem word_fields (v : View) (w : DWord) (h : v.word = some w) :
    w.extractLsb' 58 6 = BitVec.ofNat 6 v.opSub.1 ∧ w.extractLsb' 44 6 = BitVec.ofNat 6 v.opSub.2 := by
  cases v with
  | event => exact absurd h (by simp [View.word])
  | fV3 op sub c ex f => cases h; exact ⟨(drop_low _ _ 49).trans <| (drop_low _ _ 40).trans <| (drop_low _ _ 31).trans <| (drop_low _ _ 22).trans <| (drop_low _ _ 19).trans <| (drop_low _ _ 18).trans <| (drop_low _ _ 14).trans <| (drop_low _ _ 8).trans <| (drop_low _ _ 4).trans <| (drop_low _ _ 3).trans <| (drop_low _ _ 0).trans <| all_part _,
      (drop_low _ _ 35).trans <| (drop_low _ _ 26).trans <| (drop_low _ _ 17).trans <| (drop_low _ _ 8).trans <| (drop_low _ _ 5).trans <| (drop_low _ _ 4).trans <| (drop_low _ _ 0).trans <| low_part _ _⟩
  | fVI op sub c f => cases h; exact ⟨(drop_low _ _ 36).trans <| (drop_low _ _ 27).trans <| (drop_low _ _ 18).trans <| (drop_low _ _ 14).trans <| (drop_low _ _ 8).trans <| (drop_low _ _ 4).trans <| (drop_low _ _ 3).trans <| (drop_low _ _ 0).trans <| all_part _,
      (drop_low _ _ 22).trans <| (drop_low _ _ 13).trans <| (drop_low _ _ 4).trans <| (drop_low _ _ 0).trans <| low_part _ _⟩
  | fM op sub c f => cases h; exact ⟨(drop_low _ _ 49).trans <| (drop_low _ _ 40).trans <| (drop_low _ _ 31).trans <| (drop_low _ _ 22).trans <| (drop_low _ _ 20).trans <| (drop_low _ _ 17).trans <| (drop_low _ _ 14).trans <| (drop_low _ _ 8).trans <| (drop_low _ _ 4).trans <| (drop_low _ _ 3).trans <| (drop_low _ _ 0).trans <| all_part _,
      (drop_low _ _ 35).trans <| (drop_low _ _ 26).trans <| (drop_low _ _ 17).trans <| (drop_low _ _ 8).trans <| (drop_low _ _ 6).trans <| (drop_low _ _ 3).trans <| (drop_low _ _ 0).trans <| low_part _ _⟩
  | fX op sub c f => cases h; exact ⟨(drop_low _ _ 49).trans <| (drop_low _ _ 40).trans <| (drop_low _ _ 38).trans <| (drop_low _ _ 36).trans <| (drop_low _ _ 34).trans <| (drop_low _ _ 30).trans <| (drop_low _ _ 26).trans <| (drop_low _ _ 23).trans <| (drop_low _ _ 18).trans <| (drop_low _ _ 14).trans <| (drop_low _ _ 8).trans <| (drop_low _ _ 4).trans <| (drop_low _ _ 3).trans <| (drop_low _ _ 0).trans <| all_part _,
      (drop_low _ _ 35).trans <| (drop_low _ _ 26).trans <| (drop_low _ _ 24).trans <| (drop_low _ _ 22).trans <| (drop_low _ _ 20).trans <| (drop_low _ _ 16).trans <| (drop_low _ _ 12).trans <| (drop_low _ _ 9).trans <| (drop_low _ _ 4).trans <| (drop_low _ _ 0).trans <| low_part _ _⟩
  | fE op sub c f => cases h; exact ⟨(drop_low _ _ 49).trans <| (drop_low _ _ 40).trans <| (drop_low _ _ 31).trans <| (drop_low _ _ 30).trans <| (drop_low _ _ 29).trans <| (drop_low _ _ 28).trans <| (drop_low _ _ 25).trans <| (drop_low _ _ 22).trans <| (drop_low _ _ 20).trans <| (drop_low _ _ 16).trans <| (drop_low _ _ 14).trans <| (drop_low _ _ 8).trans <| (drop_low _ _ 4).trans <| (drop_low _ _ 3).trans <| (drop_low _ _ 0).trans <| all_part _,
      (drop_low _ _ 35).trans <| (drop_low _ _ 26).trans <| (drop_low _ _ 17).trans <| (drop_low _ _ 16).trans <| (drop_low _ _ 15).trans <| (drop_low _ _ 14).trans <| (drop_low _ _ 11).trans <| (drop_low _ _ 8).trans <| (drop_low _ _ 6).trans <| (drop_low _ _ 2).trans <| (drop_low _ _ 0).trans <| low_part _ _⟩
  | fC op sub c f => cases h; exact ⟨(drop_low _ _ 42).trans <| (drop_low _ _ 33).trans <| (drop_low _ _ 27).trans <| (drop_low _ _ 18).trans <| (drop_low _ _ 14).trans <| (drop_low _ _ 8).trans <| (drop_low _ _ 4).trans <| (drop_low _ _ 3).trans <| (drop_low _ _ 0).trans <| all_part _,
      (drop_low _ _ 28).trans <| (drop_low _ _ 19).trans <| (drop_low _ _ 13).trans <| (drop_low _ _ 4).trans <| (drop_low _ _ 0).trans <| low_part _ _⟩
  | fS op sub c f => cases h; exact ⟨(drop_low _ _ 44).trans <| (drop_low _ _ 35).trans <| (drop_low _ _ 26).trans <| (drop_low _ _ 14).trans <| (drop_low _ _ 8).trans <| (drop_low _ _ 4).trans <| (drop_low _ _ 3).trans <| (drop_low _ _ 0).trans <| all_part _,
      (drop_low _ _ 30).trans <| (drop_low _ _ 21).trans <| (drop_low _ _ 12).trans <| (drop_low _ _ 0).trans <| low_part _ _⟩

/-- The instruction's word, if it has one, carries the major and SUB of its row, which the opcode map lists; its class is its major's. -/
def Coded.Statement (i : Instr) : Prop := ∀ w, encode i = some w →
  w.extractLsb' 58 6 = BitVec.ofNat 6 i.view.opSub.1 ∧ w.extractLsb' 44 6 = BitVec.ofNat 6 i.view.opSub.2 ∧
  isMajor i.view.opSub.1 = true ∧ Nat.ble (subs i.view.opSub.1) i.view.opSub.2 = false ∧ i.cls = classOf i.view.opSub.1

/-- An instruction word of a listed major and SUB. -/
theorem coded_word {i : Instr} (hm : isMajor i.view.opSub.1 = true) (hs : Nat.ble (subs i.view.opSub.1) i.view.opSub.2 = false) :
    Coded.Statement i := fun w h => ⟨(word_fields _ w h).1, (word_fields _ w h).2, hm, hs, rfl⟩
/-- A step that is no instruction word. -/
theorem coded_event {i : Instr} (h : i.view = .event) : Coded.Statement i := fun w hw => by
  unfold encode at hw; rw [h] at hw; exact absurd hw (by simp [View.word])

theorem Coded.intAdd (c : Common) (f : V3) : Coded.Statement (.intAdd c f) := coded_word rfl rfl
theorem Coded.intSub (c : Common) (f : V3) : Coded.Statement (.intSub c f) := coded_word rfl rfl
theorem Coded.intMul (c : Common) (f : V3) : Coded.Statement (.intMul c f) := coded_word rfl rfl
theorem Coded.mulhi (c : Common) (f : V3) : Coded.Statement (.mulhi c f) := coded_word rfl rfl
theorem Coded.mad (c : Common) (f : V3) : Coded.Statement (.mad c f) := coded_word rfl rfl
theorem Coded.intMin (c : Common) (f : V3) : Coded.Statement (.intMin c f) := coded_word rfl rfl
theorem Coded.intMax (c : Common) (f : V3) : Coded.Statement (.intMax c f) := coded_word rfl rfl
theorem Coded.intAbs (c : Common) (f : V3) : Coded.Statement (.intAbs c f) := coded_word rfl rfl
theorem Coded.intNeg (c : Common) (f : V3) : Coded.Statement (.intNeg c f) := coded_word rfl rfl
theorem Coded.sad (c : Common) (f : V3) : Coded.Statement (.sad c f) := coded_word rfl rfl
theorem Coded.addi (c : Common) (f : VI) : Coded.Statement (.addi c f) := coded_word rfl rfl
theorem Coded.muli (c : Common) (f : VI) : Coded.Statement (.muli c f) := coded_word rfl rfl
theorem Coded.movi (c : Common) (f : VI) : Coded.Statement (.movi c f) := coded_word rfl rfl
theorem Coded.movhi (c : Common) (f : VI) : Coded.Statement (.movhi c f) := coded_word rfl rfl
theorem Coded.andi (c : Common) (f : VI) : Coded.Statement (.andi c f) := coded_word rfl rfl
theorem Coded.ori (c : Common) (f : VI) : Coded.Statement (.ori c f) := coded_word rfl rfl
theorem Coded.xori (c : Common) (f : VI) : Coded.Statement (.xori c f) := coded_word rfl rfl
theorem Coded.shli (c : Common) (f : VI) : Coded.Statement (.shli c f) := coded_word rfl rfl
theorem Coded.shri (c : Common) (f : VI) : Coded.Statement (.shri c f) := coded_word rfl rfl
theorem Coded.srai (c : Common) (f : VI) : Coded.Statement (.srai c f) := coded_word rfl rfl
theorem Coded.and (c : Common) (f : V3) : Coded.Statement (.and c f) := coded_word rfl rfl
theorem Coded.or (c : Common) (f : V3) : Coded.Statement (.or c f) := coded_word rfl rfl
theorem Coded.xor (c : Common) (f : V3) : Coded.Statement (.xor c f) := coded_word rfl rfl
theorem Coded.andn (c : Common) (f : V3) : Coded.Statement (.andn c f) := coded_word rfl rfl
theorem Coded.orn (c : Common) (f : V3) : Coded.Statement (.orn c f) := coded_word rfl rfl
theorem Coded.not (c : Common) (f : V3) : Coded.Statement (.not c f) := coded_word rfl rfl
theorem Coded.bsel (c : Common) (f : V3) : Coded.Statement (.bsel c f) := coded_word rfl rfl
theorem Coded.shl (c : Common) (f : V3) : Coded.Statement (.shl c f) := coded_word rfl rfl
theorem Coded.shr (c : Common) (f : V3) : Coded.Statement (.shr c f) := coded_word rfl rfl
theorem Coded.sra (c : Common) (f : V3) : Coded.Statement (.sra c f) := coded_word rfl rfl
theorem Coded.rotl (c : Common) (f : V3) : Coded.Statement (.rotl c f) := coded_word rfl rfl
theorem Coded.rotr (c : Common) (f : V3) : Coded.Statement (.rotr c f) := coded_word rfl rfl
theorem Coded.fsh (c : Common) (f : V3) : Coded.Statement (.fsh c f) := coded_word rfl rfl
theorem Coded.intSeteq (c : Common) (f : V3) : Coded.Statement (.intSeteq c f) := coded_word rfl rfl
theorem Coded.intSetne (c : Common) (f : V3) : Coded.Statement (.intSetne c f) := coded_word rfl rfl
theorem Coded.intSetlt (c : Common) (f : V3) : Coded.Statement (.intSetlt c f) := coded_word rfl rfl
theorem Coded.intSetle (c : Common) (f : V3) : Coded.Statement (.intSetle c f) := coded_word rfl rfl
theorem Coded.intSetgt (c : Common) (f : V3) : Coded.Statement (.intSetgt c f) := coded_word rfl rfl
theorem Coded.intSetge (c : Common) (f : V3) : Coded.Statement (.intSetge c f) := coded_word rfl rfl
theorem Coded.sel (c : Common) (f : V3) : Coded.Statement (.sel c f) := coded_word rfl rfl
theorem Coded.popc (c : Common) (f : V3) : Coded.Statement (.popc c f) := coded_word rfl rfl
theorem Coded.clz (c : Common) (f : V3) : Coded.Statement (.clz c f) := coded_word rfl rfl
theorem Coded.ctz (c : Common) (f : V3) : Coded.Statement (.ctz c f) := coded_word rfl rfl
theorem Coded.brev (c : Common) (f : V3) : Coded.Statement (.brev c f) := coded_word rfl rfl
theorem Coded.bfe (c : Common) (f : V3) : Coded.Statement (.bfe c f) := coded_word rfl rfl
theorem Coded.bfi (c : Common) (f : V3) : Coded.Statement (.bfi c f) := coded_word rfl rfl
theorem Coded.segof (c : Common) (f : V3) : Coded.Statement (.segof c f) := coded_word rfl rfl
theorem Coded.offof (c : Common) (f : V3) : Coded.Statement (.offof c f) := coded_word rfl rfl
theorem Coded.mkaddr (c : Common) (f : V3) : Coded.Statement (.mkaddr c f) := coded_word rfl rfl
theorem Coded.addoff (c : Common) (f : V3) : Coded.Statement (.addoff c f) := coded_word rfl rfl
theorem Coded.absaddr (c : Common) (f : V3) : Coded.Statement (.absaddr c f) := coded_word rfl rfl
theorem Coded.addoffi (c : Common) (f : VI) : Coded.Statement (.addoffi c f) := coded_word rfl rfl
theorem Coded.segrd (c : Common) (f : VI) : Coded.Statement (.segrd c f) := coded_word rfl rfl
theorem Coded.bmm (c : Common) (f : V3) : Coded.Statement (.bmm c f) := coded_word rfl rfl
theorem Coded.bmmt (c : Common) (f : V3) : Coded.Statement (.bmmt c f) := coded_word rfl rfl
theorem Coded.bmmx (c : Common) (f : V3) : Coded.Statement (.bmmx c f) := coded_word rfl rfl
theorem Coded.spread (c : Common) (f : V3) : Coded.Statement (.spread c f) := coded_word rfl rfl
theorem Coded.gather (c : Common) (f : V3) : Coded.Statement (.gather c f) := coded_word rfl rfl
theorem Coded.bperm (c : Common) (f : V3) : Coded.Statement (.bperm c f) := coded_word rfl rfl
theorem Coded.bgat (c : Common) (f : V3) : Coded.Statement (.bgat c f) := coded_word rfl rfl
theorem Coded.bswap (c : Common) (f : V3) : Coded.Statement (.bswap c f) := coded_word rfl rfl
theorem Coded.mulw (c : Common) (f : V3) : Coded.Statement (.mulw c f) := coded_word rfl rfl
theorem Coded.madw (c : Common) (f : V3) : Coded.Statement (.madw c f) := coded_word rfl rfl
theorem Coded.mov (c : Common) (f : V3) : Coded.Statement (.mov c f) := coded_word rfl rfl
theorem Coded.rdactive (c : Common) (f : V3) : Coded.Statement (.rdactive c f) := coded_word rfl rfl
theorem Coded.addsat (c : Common) (f : V3) : Coded.Statement (.addsat c f) := coded_word rfl rfl
theorem Coded.subsat (c : Common) (f : V3) : Coded.Statement (.subsat c f) := coded_word rfl rfl
theorem Coded.packs (c : Common) (f : V3) : Coded.Statement (.packs c f) := coded_word rfl rfl
theorem Coded.packn (c : Common) (f : V3) : Coded.Statement (.packn c f) := coded_word rfl rfl
theorem Coded.fpAdd (c : Common) (f : V3) : Coded.Statement (.fpAdd c f) := coded_word rfl rfl
theorem Coded.fpSub (c : Common) (f : V3) : Coded.Statement (.fpSub c f) := coded_word rfl rfl
theorem Coded.fpMul (c : Common) (f : V3) : Coded.Statement (.fpMul c f) := coded_word rfl rfl
theorem Coded.fma (c : Common) (f : V3) : Coded.Statement (.fma c f) := coded_word rfl rfl
theorem Coded.fpMin (c : Common) (f : V3) : Coded.Statement (.fpMin c f) := coded_word rfl rfl
theorem Coded.fpMax (c : Common) (f : V3) : Coded.Statement (.fpMax c f) := coded_word rfl rfl
theorem Coded.fpAbs (c : Common) (f : V3) : Coded.Statement (.fpAbs c f) := coded_word rfl rfl
theorem Coded.fpNeg (c : Common) (f : V3) : Coded.Statement (.fpNeg c f) := coded_word rfl rfl
theorem Coded.fpSeteq (c : Common) (f : V3) : Coded.Statement (.fpSeteq c f) := coded_word rfl rfl
theorem Coded.fpSetne (c : Common) (f : V3) : Coded.Statement (.fpSetne c f) := coded_word rfl rfl
theorem Coded.fpSetlt (c : Common) (f : V3) : Coded.Statement (.fpSetlt c f) := coded_word rfl rfl
theorem Coded.fpSetle (c : Common) (f : V3) : Coded.Statement (.fpSetle c f) := coded_word rfl rfl
theorem Coded.fpSetgt (c : Common) (f : V3) : Coded.Statement (.fpSetgt c f) := coded_word rfl rfl
theorem Coded.fpSetge (c : Common) (f : V3) : Coded.Statement (.fpSetge c f) := coded_word rfl rfl
theorem Coded.setnan (c : Common) (f : V3) : Coded.Statement (.setnan c f) := coded_word rfl rfl
theorem Coded.cvt (c : Common) (f : CvtF) : Coded.Statement (.cvt c f) := coded_word rfl rfl
theorem Coded.frnd (c : Common) (f : V3) : Coded.Statement (.frnd c f) := coded_word rfl rfl
theorem Coded.rcp (c : Common) (f : V3) : Coded.Statement (.rcp c f) := coded_word rfl rfl
theorem Coded.rsqrt (c : Common) (f : V3) : Coded.Statement (.rsqrt c f) := coded_word rfl rfl
theorem Coded.sqrt (c : Common) (f : V3) : Coded.Statement (.sqrt c f) := coded_word rfl rfl
theorem Coded.exp2 (c : Common) (f : V3) : Coded.Statement (.exp2 c f) := coded_word rfl rfl
theorem Coded.log2 (c : Common) (f : V3) : Coded.Statement (.log2 c f) := coded_word rfl rfl
theorem Coded.sin (c : Common) (f : V3) : Coded.Statement (.sin c f) := coded_word rfl rfl
theorem Coded.cos (c : Common) (f : V3) : Coded.Statement (.cos c f) := coded_word rfl rfl
theorem Coded.tanh (c : Common) (f : V3) : Coded.Statement (.tanh c f) := coded_word rfl rfl
theorem Coded.pack2 (c : Common) (f : V3) : Coded.Statement (.pack2 c f) := coded_word rfl rfl
theorem Coded.unpklo (c : Common) (f : V3) : Coded.Statement (.unpklo c f) := coded_word rfl rfl
theorem Coded.unpkhi (c : Common) (f : V3) : Coded.Statement (.unpkhi c f) := coded_word rfl rfl
theorem Coded.pack4 (c : Common) (f : V3) : Coded.Statement (.pack4 c f) := coded_word rfl rfl
theorem Coded.unpk8lo (c : Common) (f : V3) : Coded.Statement (.unpk8lo c f) := coded_word rfl rfl
theorem Coded.unpk8hi (c : Common) (f : V3) : Coded.Statement (.unpk8hi c f) := coded_word rfl rfl
theorem Coded.sclenc (c : Common) (f : V3) : Coded.Statement (.sclenc c f) := coded_word rfl rfl
theorem Coded.scldec (c : Common) (f : V3) : Coded.Statement (.scldec c f) := coded_word rfl rfl
theorem Coded.fpAddi (c : Common) (f : VI) : Coded.Statement (.fpAddi c f) := coded_word rfl rfl
theorem Coded.fpMuli (c : Common) (f : VI) : Coded.Statement (.fpMuli c f) := coded_word rfl rfl
theorem Coded.fpMovi (c : Common) (f : VI) : Coded.Statement (.fpMovi c f) := coded_word rfl rfl
theorem Coded.rnd (c : Common) (f : V3) : Coded.Statement (.rnd c f) := coded_word rfl rfl
theorem Coded.dot2 (c : Common) (f : V3) : Coded.Statement (.dot2 c f) := coded_word rfl rfl
theorem Coded.dot4 (c : Common) (f : V3) : Coded.Statement (.dot4 c f) := coded_word rfl rfl
theorem Coded.xlGet (c : Common) (f : V3) : Coded.Statement (.xlGet c f) := coded_word rfl rfl
theorem Coded.xlRot (c : Common) (f : V3) : Coded.Statement (.xlRot c f) := coded_word rfl rfl
theorem Coded.xlXor (c : Common) (f : V3) : Coded.Statement (.xlXor c f) := coded_word rfl rfl
theorem Coded.xlRev (c : Common) (f : V3) : Coded.Statement (.xlRev c f) := coded_word rfl rfl
theorem Coded.voteAll (c : Common) (f : V3) : Coded.Statement (.voteAll c f) := coded_word rfl rfl
theorem Coded.voteAny (c : Common) (f : V3) : Coded.Statement (.voteAny c f) := coded_word rfl rfl
theorem Coded.voteEq (c : Common) (f : V3) : Coded.Statement (.voteEq c f) := coded_word rfl rfl
theorem Coded.voteBallot (c : Common) (f : V3) : Coded.Statement (.voteBallot c f) := coded_word rfl rfl
theorem Coded.redAdd (c : Common) (f : V3) : Coded.Statement (.redAdd c f) := coded_word rfl rfl
theorem Coded.redMin (c : Common) (f : V3) : Coded.Statement (.redMin c f) := coded_word rfl rfl
theorem Coded.redMax (c : Common) (f : V3) : Coded.Statement (.redMax c f) := coded_word rfl rfl
theorem Coded.redAnd (c : Common) (f : V3) : Coded.Statement (.redAnd c f) := coded_word rfl rfl
theorem Coded.redOr (c : Common) (f : V3) : Coded.Statement (.redOr c f) := coded_word rfl rfl
theorem Coded.redXor (c : Common) (f : V3) : Coded.Statement (.redXor c f) := coded_word rfl rfl
theorem Coded.scanAdd (c : Common) (ex : Bool) (f : V3) : Coded.Statement (.scanAdd c ex f) := coded_word rfl rfl
theorem Coded.scanMin (c : Common) (ex : Bool) (f : V3) : Coded.Statement (.scanMin c ex f) := coded_word rfl rfl
theorem Coded.scanMax (c : Common) (ex : Bool) (f : V3) : Coded.Statement (.scanMax c ex f) := coded_word rfl rfl
theorem Coded.scanOr (c : Common) (ex : Bool) (f : V3) : Coded.Statement (.scanOr c ex f) := coded_word rfl rfl
theorem Coded.bra (c : Common) (f : CF) : Coded.Statement (.bra c f) := coded_word rfl rfl
theorem Coded.brz (c : Common) (f : CF) : Coded.Statement (.brz c f) := coded_word rfl rfl
theorem Coded.brnz (c : Common) (f : CF) : Coded.Statement (.brnz c f) := coded_word rfl rfl
theorem Coded.brind (c : Common) (f : CF) : Coded.Statement (.brind c f) := coded_word rfl rfl
theorem Coded.join (c : Common) (f : CF) : Coded.Statement (.join c f) := coded_word rfl rfl
theorem Coded.joinX (c : Common) (f : CF) : Coded.Statement (.joinX c f) := coded_word rfl rfl
theorem Coded.wait (c : Common) (f : CF) : Coded.Statement (.wait c f) := coded_word rfl rfl
theorem Coded.call (c : Common) (f : CF) : Coded.Statement (.call c f) := coded_word rfl rfl
theorem Coded.callSym (c : Common) (f : CF) : Coded.Statement (.callSym c f) := coded_word rfl rfl
theorem Coded.callInd (c : Common) (f : CF) : Coded.Statement (.callInd c f) := coded_word rfl rfl
theorem Coded.ret (c : Common) (f : CF) : Coded.Statement (.ret c f) := coded_word rfl rfl
theorem Coded.exit (c : Common) (f : CF) : Coded.Statement (.exit c f) := coded_word rfl rfl
theorem Coded.enter (c : Common) (bud : BitVec 4) (size : BitVec 16) : Coded.Statement (.enter c bud size) := coded_word rfl rfl
theorem Coded.leave (c : Common) (size : BitVec 16) : Coded.Statement (.leave c size) := coded_word rfl rfl
theorem Coded.mark (c : Common) (f : CF) : Coded.Statement (.mark c f) := coded_word rfl rfl
theorem Coded.cut (c : Common) (f : CF) : Coded.Statement (.cut c f) := coded_word rfl rfl
theorem Coded.graft (c : Common) (f : CF) : Coded.Statement (.graft c f) := coded_word rfl rfl
theorem Coded.drop (c : Common) (f : CF) : Coded.Statement (.drop c f) := coded_word rfl rfl
theorem Coded.prefi (c : Common) (f : CF) : Coded.Statement (.prefi c f) := coded_word rfl rfl
theorem Coded.nop (c : Common) (f : CF) : Coded.Statement (.nop c f) := coded_word rfl rfl
theorem Coded.pause (c : Common) (f : CF) : Coded.Statement (.pause c f) := coded_word rfl rfl
theorem Coded.ld (c : Common) (f : MF) : Coded.Statement (.ld c f) := coded_word rfl rfl
theorem Coded.lds (c : Common) (f : MF) : Coded.Statement (.lds c f) := coded_word rfl rfl
theorem Coded.st (c : Common) (f : MF) : Coded.Statement (.st c f) := coded_word rfl rfl
theorem Coded.sts (c : Common) (f : MF) : Coded.Statement (.sts c f) := coded_word rfl rfl
theorem Coded.atomAdd (c : Common) (f : MF) : Coded.Statement (.atomAdd c f) := coded_word rfl rfl
theorem Coded.atomMin (c : Common) (f : MF) : Coded.Statement (.atomMin c f) := coded_word rfl rfl
theorem Coded.atomMax (c : Common) (f : MF) : Coded.Statement (.atomMax c f) := coded_word rfl rfl
theorem Coded.atomAnd (c : Common) (f : MF) : Coded.Statement (.atomAnd c f) := coded_word rfl rfl
theorem Coded.atomOr (c : Common) (f : MF) : Coded.Statement (.atomOr c f) := coded_word rfl rfl
theorem Coded.atomXor (c : Common) (f : MF) : Coded.Statement (.atomXor c f) := coded_word rfl rfl
theorem Coded.atomExch (c : Common) (f : MF) : Coded.Statement (.atomExch c f) := coded_word rfl rfl
theorem Coded.cas (c : Common) (f : MF) : Coded.Statement (.cas c f) := coded_word rfl rfl
theorem Coded.fence (c : Common) (f : MF) : Coded.Statement (.fence c f) := coded_word rfl rfl
theorem Coded.bind (c : Common) (f : MF) : Coded.Statement (.bind c f) := coded_word rfl rfl
theorem Coded.unbind (c : Common) (f : MF) : Coded.Statement (.unbind c f) := coded_word rfl rfl
theorem Coded.lookup (c : Common) (f : MF) : Coded.Statement (.lookup c f) := coded_word rfl rfl
theorem Coded.push (c : Common) (f : MF) : Coded.Statement (.push c f) := coded_word rfl rfl
theorem Coded.pop (c : Common) (f : MF) : Coded.Statement (.pop c f) := coded_word rfl rfl
theorem Coded.pref (c : Common) (f : MF) : Coded.Statement (.pref c f) := coded_word rfl rfl
theorem Coded.discard (c : Common) (f : MF) : Coded.Statement (.discard c f) := coded_word rfl rfl
theorem Coded.bload (c : Common) (f : XF) : Coded.Statement (.bload c f) := coded_word rfl rfl
theorem Coded.bclr (c : Common) (f : XF) : Coded.Statement (.bclr c f) := coded_word rfl rfl
theorem Coded.mmaW (c : Common) (f : XF) : Coded.Statement (.mmaW c f) := coded_word rfl rfl
theorem Coded.mmaQ (c : Common) (f : XF) : Coded.Statement (.mmaQ c f) := coded_word rfl rfl
theorem Coded.mmaS (c : Common) (f : XF) : Coded.Statement (.mmaS c f) := coded_word rfl rfl
theorem Coded.align (c : Common) (f : XF) : Coded.Statement (.align c f) := coded_word rfl rfl
theorem Coded.sacc (c : Common) (f : XF) : Coded.Statement (.sacc c f) := coded_word rfl rfl
theorem Coded.tld (c : Common) (f : XF) : Coded.Statement (.tld c f) := coded_word rfl rfl
theorem Coded.tst (c : Common) (f : XF) : Coded.Statement (.tst c f) := coded_word rfl rfl
theorem Coded.tzero (c : Common) (f : XF) : Coded.Statement (.tzero c f) := coded_word rfl rfl
theorem Coded.pld (c : Common) (f : XF) : Coded.Statement (.pld c f) := coded_word rfl rfl
theorem Coded.pst (c : Common) (f : XF) : Coded.Statement (.pst c f) := coded_word rfl rfl
theorem Coded.pzero (c : Common) (f : XF) : Coded.Statement (.pzero c f) := coded_word rfl rfl
theorem Coded.copy (c : Common) (f : EF) : Coded.Statement (.copy c f) := coded_word rfl rfl
theorem Coded.qfence (c : Common) (f : EF) : Coded.Statement (.qfence c f) := coded_word rfl rfl
theorem Coded.ftest (c : Common) (f : EF) : Coded.Statement (.ftest c f) := coded_word rfl rfl
theorem Coded.fwait (c : Common) (f : EF) : Coded.Statement (.fwait c f) := coded_word rfl rfl
theorem Coded.fcancel (c : Common) (f : EF) : Coded.Statement (.fcancel c f) := coded_word rfl rfl
theorem Coded.hget (c : Common) (f : EF) : Coded.Statement (.hget c f) := coded_word rfl rfl
theorem Coded.hgetRef (c : Common) (f : EF) : Coded.Statement (.hgetRef c f) := coded_word rfl rfl
theorem Coded.hput (c : Common) (f : EF) : Coded.Statement (.hput c f) := coded_word rfl rfl
theorem Coded.arrive (c : Common) (f : EF) : Coded.Statement (.arrive c f) := coded_word rfl rfl
theorem Coded.bwait (c : Common) (f : EF) : Coded.Statement (.bwait c f) := coded_word rfl rfl
theorem Coded.bsync (c : Common) (f : EF) : Coded.Statement (.bsync c f) := coded_word rfl rfl
theorem Coded.enq (c : Common) (f : EF) : Coded.Statement (.enq c f) := coded_word rfl rfl
theorem Coded.deq (c : Common) (f : EF) : Coded.Statement (.deq c f) := coded_word rfl rfl
theorem Coded.dcinit (c : Common) (f : EF) : Coded.Statement (.dcinit c f) := coded_word rfl rfl
theorem Coded.dcadd (c : Common) (f : EF) : Coded.Statement (.dcadd c f) := coded_word rfl rfl
theorem Coded.npost (c : Common) (f : EF) : Coded.Statement (.npost c f) := coded_word rfl rfl
theorem Coded.nwait (c : Common) (f : EF) : Coded.Statement (.nwait c f) := coded_word rfl rfl
theorem Coded.sysr (c : Common) (f : SF) : Coded.Statement (.sysr c f) := coded_word rfl rfl
theorem Coded.sysw (c : Common) (f : SF) : Coded.Statement (.sysw c f) := coded_word rfl rfl
theorem Coded.xinvSeg (c : Common) (f : SF) : Coded.Statement (.xinvSeg c f) := coded_word rfl rfl
theorem Coded.xinvPages (c : Common) (f : SF) : Coded.Statement (.xinvPages c f) := coded_word rfl rfl
theorem Coded.xinvCtx (c : Common) (f : SF) : Coded.Statement (.xinvCtx c f) := coded_word rfl rfl
theorem Coded.shootdownComplete (id : Nat) : Coded.Statement (.shootdownComplete id) := coded_event rfl
theorem Coded.trace (c : Common) (f : SF) : Coded.Statement (.trace c f) := coded_word rfl rfl
theorem Coded.trap (c : Common) (f : SF) : Coded.Statement (.trap c f) := coded_word rfl rfl
theorem Coded.rett (c : Common) (f : SF) : Coded.Statement (.rett c f) := coded_word rfl rfl
theorem Coded.publish (c : Common) (f : SF) : Coded.Statement (.publish c f) := coded_word rfl rfl
theorem Coded.chkerr (c : Common) (f : SF) : Coded.Statement (.chkerr c f) := coded_word rfl rfl
theorem Coded.brk (c : Common) (f : SF) : Coded.Statement (.brk c f) := coded_word rfl rfl
theorem Coded.issueSlot (core : Nat) : Coded.Statement (.issueSlot core) := coded_event rfl
theorem Coded.unitResultComplete (weft id : Nat) : Coded.Statement (.unitResultComplete weft id) := coded_event rfl
theorem Coded.memoryAccessComplete (weft id : Nat) : Coded.Statement (.memoryAccessComplete weft id) := coded_event rfl
theorem Coded.storePerform (weft : Nat) : Coded.Statement (.storePerform weft) := coded_event rfl
theorem Coded.atomicAtHome (weft : Nat) : Coded.Statement (.atomicAtHome weft) := coded_event rfl
theorem Coded.windowAccess (id : Nat) : Coded.Statement (.windowAccess id) := coded_event rfl
theorem Coded.remoteAccess (r : RemoteReq) : Coded.Statement (.remoteAccess r) := coded_event rfl
theorem Coded.walkSlotGrant (die : Nat) : Coded.Statement (.walkSlotGrant die) := coded_event rfl
theorem Coded.walkComplete (die id : Nat) : Coded.Statement (.walkComplete die id) := coded_event rfl
theorem Coded.pagerResolve (t : PagerTarget) : Coded.Statement (.pagerResolve t) := coded_event rfl
theorem Coded.pagerDecline (t : PagerTarget) : Coded.Statement (.pagerDecline t) := coded_event rfl
theorem Coded.copySectorLand (core queue : Nat) : Coded.Statement (.copySectorLand core queue) := coded_event rfl
theorem Coded.mqEntryArrival (core slot : Nat) : Coded.Statement (.mqEntryArrival core slot) := coded_event rfl
theorem Coded.mqCreditReturn (id : Nat) : Coded.Statement (.mqCreditReturn id) := coded_event rfl
theorem Coded.pushRetryTimeout (weft : Nat) : Coded.Statement (.pushRetryTimeout weft) := coded_event rfl
theorem Coded.matrixWordStart (core id : Nat) : Coded.Statement (.matrixWordStart core id) := coded_event rfl
theorem Coded.treadleStepEnd (core id : Nat) : Coded.Statement (.treadleStepEnd core id) := coded_event rfl
theorem Coded.matrixWordComplete (core id : Nat) : Coded.Statement (.matrixWordComplete core id) := coded_event rfl
theorem Coded.barrierComplete (b : BarrierName) : Coded.Statement (.barrierComplete b) := coded_event rfl
theorem Coded.launchTake (die : Nat) : Coded.Statement (.launchTake die) := coded_event rfl
theorem Coded.panelPlace (die : Nat) : Coded.Statement (.panelPlace die) := coded_event rfl
theorem Coded.panelEnd (panel : Nat) : Coded.Statement (.panelEnd panel) := coded_event rfl
theorem Coded.stealStep (die : Nat) : Coded.Statement (.stealStep die) := coded_event rfl
theorem Coded.keyDrainComplete (key : Nat) : Coded.Statement (.keyDrainComplete key) := coded_event rfl
theorem Coded.netPacketSend (core queue : Nat) : Coded.Statement (.netPacketSend core queue) := coded_event rfl
theorem Coded.nwaitRecheck (weft : Nat) : Coded.Statement (.nwaitRecheck weft) := coded_event rfl
theorem Coded.publishCheck (id : Nat) : Coded.Statement (.publishCheck id) := coded_event rfl
theorem Coded.traceRingMove (core : Nat) : Coded.Statement (.traceRingMove core) := coded_event rfl
theorem Coded.panelSave (panel : Nat) : Coded.Statement (.panelSave panel) := coded_event rfl
theorem Coded.gangSwitch (gang : Nat) : Coded.Statement (.gangSwitch gang) := coded_event rfl
theorem Coded.hangWatchdog (weft : Nat) : Coded.Statement (.hangWatchdog weft) := coded_event rfl
theorem Coded.commitPoint (panel : Nat) : Coded.Statement (.commitPoint panel) := coded_event rfl
theorem Coded.rollback (panel : Nat) (cause : RollbackCause) : Coded.Statement (.rollback panel cause) := coded_event rfl
theorem Coded.crossFunctionAccown (id : Nat) : Coded.Statement (.crossFunctionAccown id) := coded_event rfl
theorem Coded.panelResume (saved : Nat) : Coded.Statement (.panelResume saved) := coded_event rfl
theorem Coded.eccError (e : EccTarget) : Coded.Statement (.eccError e) := coded_event rfl
theorem Coded.preemptRequest (panel : Nat) : Coded.Statement (.preemptRequest panel) := coded_event rfl
theorem Coded.functionLevelReset (fn : Nat) : Coded.Statement (.functionLevelReset fn) := coded_event rfl
theorem Coded.quadDrain (die quad : Nat) : Coded.Statement (.quadDrain die quad) := coded_event rfl
theorem Coded.quadRepair (die quad : Nat) (r : RepairResult) : Coded.Statement (.quadRepair die quad r) := coded_event rfl
theorem Coded.hbmRowSpare (stack row : Nat) : Coded.Statement (.hbmRowSpare stack row) := coded_event rfl
theorem Coded.firmwareUpdate (die : Nat) (signed : Bool) : Coded.Statement (.firmwareUpdate die signed) := coded_event rfl
theorem Coded.keyCreate (key : Nat) : Coded.Statement (.keyCreate key) := coded_event rfl
theorem Coded.keyDestroy (key : Nat) : Coded.Statement (.keyDestroy key) := coded_event rfl
theorem Coded.launchDoorbell (fn : Nat) (value : DWord) : Coded.Statement (.launchDoorbell fn value) := coded_event rfl
theorem Coded.apsegWrite (fn : Nat) (value : DWord) : Coded.Statement (.apsegWrite fn value) := coded_event rfl
theorem Coded.evctlWrite (fn : Nat) (value : DWord) : Coded.Statement (.evctlWrite fn value) := coded_event rfl
theorem Coded.bar0Write (fn off : Nat) (value : DWord) : Coded.Statement (.bar0Write fn off value) := coded_event rfl
theorem Coded.hostApertureWrite (fn off : Nat) (bytes : List Byte) : Coded.Statement (.hostApertureWrite fn off bytes) := coded_event rfl
theorem Coded.hostApertureRead (fn off len : Nat) : Coded.Statement (.hostApertureRead fn off len) := coded_event rfl
theorem Coded.atsTranslationResponse (id : Nat) (page : Option Nat) : Coded.Statement (.atsTranslationResponse id page) := coded_event rfl
theorem Coded.atsInvalidation (die page : Nat) : Coded.Statement (.atsInvalidation die page) := coded_event rfl
theorem Coded.netPacketReceive (die : Nat) (p : Packet) : Coded.Statement (.netPacketReceive die p) := coded_event rfl
theorem Coded.netAckReceive (die : Nat) (a : NetAck) : Coded.Statement (.netAckReceive die a) := coded_event rfl
theorem Coded.netRtoExpiry (die pdc : Nat) (psn : Word) : Coded.Statement (.netRtoExpiry die pdc psn) := coded_event rfl
theorem Coded.pdcIdleTimeout (die pdc : Nat) : Coded.Statement (.pdcIdleTimeout die pdc) := coded_event rfl
theorem Coded.ptpMessage (master : Nat) : Coded.Statement (.ptpMessage master) := coded_event rfl
theorem Coded.holdoverReport : Coded.Statement .holdoverReport := coded_event rfl
theorem Coded.thermalThrottle (die : Nat) : Coded.Statement (.thermalThrottle die) := coded_event rfl
theorem Coded.thermalTrip (die : Nat) : Coded.Statement (.thermalTrip die) := coded_event rfl
theorem Coded.coldReset (fail : Option BootFail) : Coded.Statement (.coldReset fail) := coded_event rfl
theorem Coded.attestationRequest (bus : Nat) (nonce : List Byte) : Coded.Statement (.attestationRequest bus nonce) := coded_event rfl
theorem Coded.debugAttach (ctx : CtxId) : Coded.Statement (.debugAttach ctx) := coded_event rfl
theorem Coded.debugDetach (ctx : CtxId) : Coded.Statement (.debugDetach ctx) := coded_event rfl
theorem Coded.debugResume (weft : Nat) : Coded.Statement (.debugResume weft) := coded_event rfl
theorem Coded.debugStep (weft : Nat) : Coded.Statement (.debugStep weft) := coded_event rfl
theorem Coded.debugHalt (t : HaltTarget) : Coded.Statement (.debugHalt t) := coded_event rfl
theorem Coded.debugSnapshot (weft : Nat) : Coded.Statement (.debugSnapshot weft) := coded_event rfl
theorem Coded.breakpointWrite (ctx : CtxId) (watch : Bool) (index : Nat) (entry : BitVec 128) : Coded.Statement (.breakpointWrite ctx watch index entry) := coded_event rfl
theorem Coded.laneRelease (weft lane : Nat) : Coded.Statement (.laneRelease weft lane) := coded_event rfl
theorem Coded.laneReleaseAtPc (weft lane : Nat) (pc : DWord) : Coded.Statement (.laneReleaseAtPc weft lane pc) := coded_event rfl
theorem Coded.laneEnd (weft lane : Nat) : Coded.Statement (.laneEnd weft lane) := coded_event rfl
theorem Coded.launchQueueTableWrite (die entry : Nat) (v : Option (CtxId × Seg)) : Coded.Statement (.launchQueueTableWrite die entry v) := coded_event rfl
theorem Coded.stealTableWrite (ctx : CtxId) (die index : Nat) (seg : Seg) : Coded.Statement (.stealTableWrite ctx die index seg) := coded_event rfl
theorem Coded.endpointWrite (ctx : CtxId) (index : Nat) (entry : BitVec 512) : Coded.Statement (.endpointWrite ctx index entry) := coded_event rfl
theorem Coded.associationKeyWrite (sa okey : Nat) : Coded.Statement (.associationKeyWrite sa okey) := coded_event rfl
theorem Coded.gangInstantWrite (out inc : Nat) (at_ : DWord) : Coded.Statement (.gangInstantWrite out inc at_) := coded_event rfl
theorem Coded.pnodeWrite (node : BitVec 6) : Coded.Statement (.pnodeWrite node) := coded_event rfl
theorem Coded.firmwareRestartEnd (die : Nat) : Coded.Statement (.firmwareRestartEnd die) := coded_event rfl
theorem Coded.throttleRelease (die : Nat) : Coded.Statement (.throttleRelease die) := coded_event rfl
theorem Coded.traceRingWrite (ctx : CtxId) (seg : Seg) : Coded.Statement (.traceRingWrite ctx seg) := coded_event rfl

end Sys2Proof.Laws
end

