-- ==== Sys2Proof/Tests/Slice0.lean ====
section
/-! SUPPORT. Tests: ill-formed terms that each check refuses; words written out from the tables of R182 to R195 and what they decode to;
and for each statement with hypotheses a concrete state and operands that meet them. -/
namespace Sys2Proof.Tests
set_option Elab.async false
open Sys2Proof Sys2Proof.Machine

/-! ### Checks of a well-formed instruction (R197) -/

/-- A V3 word's fields, unused operands zero. -/
def v3 (ty : Ty) (d a b c : Opnd) : V3 := ⟨ty, .rne, false, d, a, b, c⟩

/-- FIELD: a FLAG above 12. -/
theorem test_flag_13 : (Instr.intAdd ⟨0, false, 13⟩ (v3 .i32 (.v 1) (.v 2) (.v 3) (.v 0))).illFormed = some .field := by decide
/-- FIELD: an operand that the word does not use. -/
theorem test_unused_operand : (Instr.intAdd ⟨0, false, 0⟩ (v3 .i32 (.v 1) (.v 2) (.v 3) (.v 4))).illFormed = some .field := by decide
/-- FIELD: SAT where the word takes none. -/
theorem test_sat : (Instr.intMul ⟨0, false, 0⟩ ⟨.i32, .rne, true, .v 1, .v 2, .v 3, .v 0⟩).illFormed = some .field := by decide
/-- TYPE: a type that the word does not take. -/
theorem test_type : (Instr.intAdd ⟨0, false, 0⟩ (v3 .b32 (.v 1) (.v 2) (.v 3) (.v 0))).illFormed = some .type := by decide
/-- SHAPE: a shape number beyond the table of the element type. -/
theorem test_shape : (Instr.bload ⟨0, false, 0⟩ ⟨.bfp8, 0x1F, 0, 0, 0, 0, 0, .v 8, .v 0⟩).illFormed = some .shape := by decide
/-- OPERAND: an odd register for a 64-bit value. -/
theorem test_odd_pair : (Instr.intAdd ⟨0, false, 0⟩ (v3 .i64 (.v 1) (.v 2) (.v 4) (.v 0))).illFormed = some .operand := by decide
/-- The name that Q gives `hget`. -/
theorem test_hget_name : (Instr.hget ⟨0, false, 0⟩ ⟨1, 3, 0, .none, 0, false, false, .v 4, .v 0, .v 0⟩).wellFormed = false := by decide
/-- The name that the register gives a shootdown. -/
theorem test_xinv_name : (Instr.xinvSeg ⟨0, false, 0⟩ ⟨.cir, .v 0, .v 6, 0⟩).wellFormed = false := by decide

/-! ### Words and what they decode to (R182 to R195) -/

/-- Each word decodes to the instruction beside it. -/
abbrev Decodes (l : List (Nat × Instr)) : Prop := ∀ q ∈ l, decodeTableWord 64 q.1 = some q.2

/-- Words of major 0x00. -/
def major00 : List (Nat × Instr) :=
  [(0x0084028018160E00, .intAdd ⟨1, false, 1⟩ ⟨.i32, .rne, true, .v 3, .v 5, .s 7, .v 0⟩),
   (0x0108158020181000, .intSub ⟨2, false, 2⟩ ⟨.n64, .rne, true, .v 4, .v 6, .v 8, .v 0⟩),
   (0x01CC240024270000, .intMul ⟨3, true, 3⟩ ⟨.i64, .rne, false, .v 4, .s 9, .zero, .v 0⟩),
   (0x0250350020181000, .mulhi ⟨4, true, 4⟩ ⟨.n64, .rne, false, .v 4, .v 6, .v 8, .v 0⟩),
   (0x02D4428008080605, .mad ⟨5, true, 5⟩ ⟨.i32, .rne, true, .v 1, .v 2, .v 3, .v 5⟩),
   (0x031853004E041600, .intMin ⟨6, false, 6⟩ ⟨.n32, .rne, false, .v 9, .lane, .v 11, .v 0⟩),
   (0x039C6407F0181000, .intMax ⟨7, false, 7⟩ ⟨.i64, .rne, false, .v 254, .v 6, .v 8, .v 0⟩),
   (0x00207207F81C0000, .intAbs ⟨0, false, 8⟩ ⟨.i32, .rne, false, .v 255, .v 7, .v 0, .v 0⟩),
   (0x00E4830C001C0000, .intNeg ⟨1, true, 9⟩ ⟨.n32, .rne, false, .zero, .v 7, .v 0, .v 0⟩),
   (0x016893000808073F, .sad ⟨2, true, 10⟩ ⟨.n32, .rne, false, .v 1, .v 2, .v 3, .s 63⟩)]

/-- Words of major 0x01. -/
def major01 : List (Nat × Instr) :=
  [(0x05EC0201817FFFFF, .addi ⟨3, true, 11⟩ ⟨.i32, .v 3, .v 5, 4194303⟩),
   (0x0630140201A00000, .muli ⟨4, false, 12⟩ ⟨.i64, .v 4, .v 6, 2097152⟩),
   (0x0680210200000003, .movi ⟨5, false, 0⟩ ⟨.b64, .v 4, .v 0, 3⟩),
   (0x070430020130C0E0, .movhi ⟨6, false, 1⟩ ⟨.b32, .v 4, .v 4, 3195104⟩),
   (0x07C84003C0C000FF, .andi ⟨7, true, 2⟩ ⟨.b32, .v 7, .s 3, 255⟩),
   (0x044C510402800001, .ori ⟨0, true, 3⟩ ⟨.b64, .v 8, .v 10, 1⟩),
   (0x04D0600080800005, .xori ⟨1, true, 4⟩ ⟨.b32, .v 1, .v 2, 5⟩),
   (0x051470008080001F, .shli ⟨2, false, 5⟩ ⟨.b32, .v 1, .v 2, 31⟩),
   (0x059881020180003F, .shri ⟨3, false, 6⟩ ⟨.b64, .v 4, .v 6, 63⟩),
   (0x061C910201800020, .srai ⟨4, false, 7⟩ ⟨.b64, .v 4, .v 6, 32⟩)]

/-- Words of major 0x02. -/
def major02 : List (Nat × Instr) :=
  [(0x0AE0000020181000, .and ⟨5, true, 8⟩ ⟨.b32, .rne, false, .v 4, .v 6, .v 8, .v 0⟩),
   (0x0B64110020181000, .or ⟨6, true, 9⟩ ⟨.b64, .rne, false, .v 4, .v 6, .v 8, .v 0⟩),
   (0x0BE8200020181000, .xor ⟨7, true, 10⟩ ⟨.b32, .rne, false, .v 4, .v 6, .v 8, .v 0⟩),
   (0x082C310020181000, .andn ⟨0, false, 11⟩ ⟨.b64, .rne, false, .v 4, .v 6, .v 8, .v 0⟩),
   (0x08B0400020181000, .orn ⟨1, false, 12⟩ ⟨.b32, .rne, false, .v 4, .v 6, .v 8, .v 0⟩),
   (0x0900510020180000, .not ⟨2, false, 0⟩ ⟨.b64, .rne, false, .v 4, .v 6, .v 0, .v 0⟩),
   (0x09C460002018100A, .bsel ⟨3, true, 1⟩ ⟨.b32, .rne, false, .v 4, .v 6, .v 8, .v 10⟩)]

/-- Words of major 0x03. -/
def major03 : List (Nat × Instr) :=
  [(0x0E48000020181200, .shl ⟨4, true, 2⟩ ⟨.b32, .rne, false, .v 4, .v 6, .v 9, .v 0⟩),
   (0x0ECC110020181200, .shr ⟨5, true, 3⟩ ⟨.b64, .rne, false, .v 4, .v 6, .v 9, .v 0⟩),
   (0x0F10200020181200, .sra ⟨6, false, 4⟩ ⟨.b32, .rne, false, .v 4, .v 6, .v 9, .v 0⟩),
   (0x0F94310020181200, .rotl ⟨7, false, 5⟩ ⟨.b64, .rne, false, .v 4, .v 6, .v 9, .v 0⟩),
   (0x0C18400020181200, .rotr ⟨0, false, 6⟩ ⟨.b32, .rne, false, .v 4, .v 6, .v 9, .v 0⟩),
   (0x0CDC51002018100B, .fsh ⟨1, true, 7⟩ ⟨.b64, .rne, false, .v 4, .v 6, .v 8, .v 11⟩)]

/-- Words of major 0x04. -/
def major04 : List (Nat × Instr) :=
  [(0x1160030028181000, .intSeteq ⟨2, true, 8⟩ ⟨.n32, .rne, false, .v 5, .v 6, .v 8, .v 0⟩),
   (0x11E4140028181000, .intSetne ⟨3, true, 9⟩ ⟨.i64, .rne, false, .v 5, .v 6, .v 8, .v 0⟩),
   (0x1228230028181000, .intSetlt ⟨4, false, 10⟩ ⟨.n32, .rne, false, .v 5, .v 6, .v 8, .v 0⟩),
   (0x12AC340028181000, .intSetle ⟨5, false, 11⟩ ⟨.i64, .rne, false, .v 5, .v 6, .v 8, .v 0⟩),
   (0x1330430028181000, .intSetgt ⟨6, false, 12⟩ ⟨.n32, .rne, false, .v 5, .v 6, .v 8, .v 0⟩),
   (0x13C0540028181000, .intSetge ⟨7, true, 0⟩ ⟨.i64, .rne, false, .v 5, .v 6, .v 8, .v 0⟩),
   (0x104461002018100B, .sel ⟨0, true, 1⟩ ⟨.b64, .rne, false, .v 4, .v 6, .v 8, .v 11⟩)]

/-- Words of major 0x05. -/
def major05 : List (Nat × Instr) :=
  [(0x14C8010028180000, .popc ⟨1, true, 2⟩ ⟨.b64, .rne, false, .v 5, .v 6, .v 0, .v 0⟩),
   (0x150C1000281C0000, .clz ⟨2, false, 3⟩ ⟨.b32, .rne, false, .v 5, .v 7, .v 0, .v 0⟩),
   (0x1590210028180000, .ctz ⟨3, false, 4⟩ ⟨.b64, .rne, false, .v 5, .v 6, .v 0, .v 0⟩),
   (0x1614310020180000, .brev ⟨4, false, 5⟩ ⟨.b64, .rne, false, .v 4, .v 6, .v 0, .v 0⟩),
   (0x16D8410020180009, .bfe ⟨5, true, 6⟩ ⟨.b64, .rne, false, .v 4, .v 6, .v 0, .v 9⟩),
   (0x175C500018140E09, .bfi ⟨6, true, 7⟩ ⟨.b32, .rne, false, .v 3, .v 5, .v 7, .v 9⟩)]

/-- Words of major 0x06. -/
def major06 : List (Nat × Instr) :=
  [(0x1BE0010020180000, .segof ⟨7, true, 8⟩ ⟨.b64, .rne, false, .v 4, .v 6, .v 0, .v 0⟩),
   (0x1824110020180000, .offof ⟨0, false, 9⟩ ⟨.b64, .rne, false, .v 4, .v 6, .v 0, .v 0⟩),
   (0x18A8210020181000, .mkaddr ⟨1, false, 10⟩ ⟨.b64, .rne, false, .v 4, .v 6, .v 8, .v 0⟩),
   (0x192C3100201A1000, .addoff ⟨2, false, 11⟩ ⟨.b64, .rne, false, .v 4, .v 6, .s 8, .v 0⟩),
   (0x19F0410020180000, .absaddr ⟨3, true, 12⟩ ⟨.b64, .rne, false, .v 4, .v 6, .v 0, .v 0⟩)]

/-- Words of major 0x07. -/
def major07 : List (Nat × Instr) :=
  [(0x1E40010201BFFFF8, .addoffi ⟨4, true, 0⟩ ⟨.b64, .v 4, .v 6, 4194296⟩),
   (0x1EC411020000FFFF, .segrd ⟨5, true, 1⟩ ⟨.b64, .v 4, .v 0, 65535⟩)]

/-- Words of major 0x08. -/
def major08 : List (Nat × Instr) :=
  [(0x2308010020181000, .bmm ⟨6, false, 2⟩ ⟨.b64, .rne, false, .v 4, .v 6, .v 8, .v 0⟩),
   (0x238C110020181000, .bmmt ⟨7, false, 3⟩ ⟨.b64, .rne, false, .v 4, .v 6, .v 8, .v 0⟩),
   (0x201021002018100A, .bmmx ⟨0, false, 4⟩ ⟨.b64, .rne, false, .v 4, .v 6, .v 8, .v 10⟩)]

/-- Words of major 0x09. -/
def major09 : List (Nat × Instr) :=
  [(0x24D4000018140E00, .spread ⟨1, true, 5⟩ ⟨.b32, .rne, false, .v 3, .v 5, .v 7, .v 0⟩),
   (0x2558110020181000, .gather ⟨2, true, 6⟩ ⟨.b64, .rne, false, .v 4, .v 6, .v 8, .v 0⟩)]

/-- Words of major 0x0A. -/
def major0A : List (Nat × Instr) :=
  [(0x29DC0100201A7400, .bperm ⟨3, true, 7⟩ ⟨.b64, .rne, false, .v 4, .v 6, .s 58, .v 0⟩),
   (0x2A201000080C0A07, .bgat ⟨4, false, 8⟩ ⟨.b32, .rne, false, .v 1, .v 3, .v 5, .v 7⟩),
   (0x2AA4210020180000, .bswap ⟨5, false, 9⟩ ⟨.b64, .rne, false, .v 4, .v 6, .v 0, .v 0⟩)]

/-- Words of major 0x0B. -/
def major0B : List (Nat × Instr) :=
  [(0x2F28020020140E00, .mulw ⟨6, false, 10⟩ ⟨.i32, .rne, false, .v 4, .v 5, .v 7, .v 0⟩),
   (0x2FEC130020140E08, .madw ⟨7, true, 11⟩ ⟨.n32, .rne, false, .v 4, .v 5, .v 7, .v 8⟩)]

/-- Words of major 0x0C. -/
def major0C : List (Nat × Instr) :=
  [(0x3070010024180000, .mov ⟨0, true, 12⟩ ⟨.b64, .rne, false, .v 4, .s 6, .v 0, .v 0⟩),
   (0x30C0100820000000, .rdactive ⟨1, true, 0⟩ ⟨.b32, .rne, false, .s 4, .v 0, .v 0, .v 0⟩)]

/-- Words of major 0x0D. -/
def major0D : List (Nat × Instr) :=
  [(0x3504080018140E00, .addsat ⟨2, false, 1⟩ ⟨.i8, .rne, false, .v 3, .v 5, .v 7, .v 0⟩),
   (0x3588130018140E00, .subsat ⟨3, false, 2⟩ ⟨.n32, .rne, false, .v 3, .v 5, .v 7, .v 0⟩),
   (0x360C260018140E00, .packs ⟨4, false, 3⟩ ⟨.i16, .rne, false, .v 3, .v 5, .v 7, .v 0⟩),
   (0x36D0390018140E00, .packn ⟨5, true, 4⟩ ⟨.n8, .rne, false, .v 3, .v 5, .v 7, .v 0⟩)]

/-- Words of major 0x10. -/
def major10 : List (Nat × Instr) :=
  [(0x43540AC018140E00, .fpAdd ⟨6, true, 5⟩ ⟨.f32, .rs, true, .v 3, .v 5, .v 7, .v 0⟩),
   (0x43D81F1018140E00, .fpSub ⟨7, true, 6⟩ ⟨.bf16x2, .rz, false, .v 3, .v 5, .v 7, .v 0⟩),
   (0x401C2A2018140E00, .fpMul ⟨0, false, 7⟩ ⟨.f32, .rp, false, .v 3, .v 5, .v 7, .v 0⟩),
   (0x40A03FB018140E09, .fma ⟨1, false, 8⟩ ⟨.bf16x2, .rm, true, .v 3, .v 5, .v 7, .v 9⟩),
   (0x41244A0018140E00, .fpMin ⟨2, false, 9⟩ ⟨.f32, .rne, false, .v 3, .v 5, .v 7, .v 0⟩),
   (0x41E85F0018140E00, .fpMax ⟨3, true, 10⟩ ⟨.bf16x2, .rne, false, .v 3, .v 5, .v 7, .v 0⟩),
   (0x426C6A0018140000, .fpAbs ⟨4, true, 11⟩ ⟨.f32, .rne, false, .v 3, .v 5, .v 0, .v 0⟩),
   (0x42F07F0018140000, .fpNeg ⟨5, true, 12⟩ ⟨.bf16x2, .rne, false, .v 3, .v 5, .v 0, .v 0⟩)]

/-- Words of major 0x11. -/
def major11 : List (Nat × Instr) :=
  [(0x47000A0018140E00, .fpSeteq ⟨6, false, 0⟩ ⟨.f32, .rne, false, .v 3, .v 5, .v 7, .v 0⟩),
   (0x47841A0018140E00, .fpSetne ⟨7, false, 1⟩ ⟨.f32, .rne, false, .v 3, .v 5, .v 7, .v 0⟩),
   (0x44082A0018140E00, .fpSetlt ⟨0, false, 2⟩ ⟨.f32, .rne, false, .v 3, .v 5, .v 7, .v 0⟩),
   (0x44CC3A0018140E00, .fpSetle ⟨1, true, 3⟩ ⟨.f32, .rne, false, .v 3, .v 5, .v 7, .v 0⟩),
   (0x45504A0018140E00, .fpSetgt ⟨2, true, 4⟩ ⟨.f32, .rne, false, .v 3, .v 5, .v 7, .v 0⟩),
   (0x45D45A0018140E00, .fpSetge ⟨3, true, 5⟩ ⟨.f32, .rne, false, .v 3, .v 5, .v 7, .v 0⟩),
   (0x46186A0018140E00, .setnan ⟨4, false, 6⟩ ⟨.f32, .rne, false, .v 3, .v 5, .v 7, .v 0⟩)]

/-- Words of major 0x12. -/
def major12 : List (Nat × Instr) :=
  [(0x4A9C04902014000B, .cvt ⟨5, false, 7⟩ ⟨.i64, .f16, .rz, true, .v 4, .v 5⟩),
   (0x4B201A3018140000, .frnd ⟨6, false, 8⟩ ⟨.f32, .rm, false, .v 3, .v 5, .v 0, .v 0⟩)]

/-- Words of major 0x13. -/
def major13 : List (Nat × Instr) :=
  [(0x4FE40A0018140000, .rcp ⟨7, true, 9⟩ ⟨.f32, .rne, false, .v 3, .v 5, .v 0, .v 0⟩),
   (0x4C681A0018140000, .rsqrt ⟨0, true, 10⟩ ⟨.f32, .rne, false, .v 3, .v 5, .v 0, .v 0⟩),
   (0x4CEC2A0018140000, .sqrt ⟨1, true, 11⟩ ⟨.f32, .rne, false, .v 3, .v 5, .v 0, .v 0⟩),
   (0x4D303A0018140000, .exp2 ⟨2, false, 12⟩ ⟨.f32, .rne, false, .v 3, .v 5, .v 0, .v 0⟩),
   (0x4D804A0018140000, .log2 ⟨3, false, 0⟩ ⟨.f32, .rne, false, .v 3, .v 5, .v 0, .v 0⟩),
   (0x4E045A0018140000, .sin ⟨4, false, 1⟩ ⟨.f32, .rne, false, .v 3, .v 5, .v 0, .v 0⟩),
   (0x4EC86A0018140000, .cos ⟨5, true, 2⟩ ⟨.f32, .rne, false, .v 3, .v 5, .v 0, .v 0⟩),
   (0x4F4C7A0018140000, .tanh ⟨6, true, 3⟩ ⟨.f32, .rne, false, .v 3, .v 5, .v 0, .v 0⟩)]

/-- Words of major 0x14. -/
def major14 : List (Nat × Instr) :=
  [(0x53D00F4018140E00, .pack2 ⟨7, true, 4⟩ ⟨.bf16x2, .rs, false, .v 3, .v 5, .v 7, .v 0⟩),
   (0x50141A0018140000, .unpklo ⟨0, false, 5⟩ ⟨.f32, .rne, false, .v 3, .v 5, .v 0, .v 0⟩),
   (0x50982A0018140000, .unpkhi ⟨1, false, 6⟩ ⟨.f32, .rne, false, .v 3, .v 5, .v 0, .v 0⟩)]

/-- Words of major 0x15. -/
def major15 : List (Nat × Instr) :=
  [(0x551C0DC018140E00, .pack4 ⟨2, false, 7⟩ ⟨.e4m3, .rs, true, .v 3, .v 5, .v 7, .v 0⟩),
   (0x55E01E0018140000, .unpk8lo ⟨3, true, 8⟩ ⟨.e5m2, .rne, false, .v 3, .v 5, .v 0, .v 0⟩),
   (0x56642D0018140000, .unpk8hi ⟨4, true, 9⟩ ⟨.e4m3, .rne, false, .v 3, .v 5, .v 0, .v 0⟩)]

/-- Words of major 0x16. -/
def major16 : List (Nat × Instr) :=
  [(0x5AE80A2018140000, .sclenc ⟨5, true, 10⟩ ⟨.f32, .rp, false, .v 3, .v 5, .v 0, .v 0⟩),
   (0x5B2C1A0018140000, .scldec ⟨6, false, 11⟩ ⟨.f32, .rne, false, .v 3, .v 5, .v 0, .v 0⟩)]

/-- Words of major 0x17. -/
def major17 : List (Nat × Instr) :=
  [(0x5FB00A01814FF000, .fpAddi ⟨7, false, 12⟩ ⟨.f32, .v 3, .v 5, 1044480⟩),
   (0x5C001A0181700000, .fpMuli ⟨0, false, 0⟩ ⟨.f32, .v 3, .v 5, 3145728⟩),
   (0x5CC42A01800FE000, .fpMovi ⟨1, true, 1⟩ ⟨.f32, .v 3, .v 0, 1040384⟩)]

/-- Words of major 0x18. -/
def major18 : List (Nat × Instr) :=
  [(0x614800004C180000, .rnd ⟨2, true, 2⟩ ⟨.b32, .rne, false, .v 9, .s 6, .v 0, .v 0⟩)]

/-- Words of major 0x19. -/
def major19 : List (Nat × Instr) :=
  [(0x65CC0F1018140E09, .dot2 ⟨3, true, 3⟩ ⟨.bf16x2, .rz, false, .v 3, .v 5, .v 7, .v 9⟩),
   (0x66101E4018140E09, .dot4 ⟨4, false, 4⟩ ⟨.e5m2, .rs, false, .v 3, .v 5, .v 7, .v 9⟩)]

/-- Words of major 0x1A. -/
def major1A : List (Nat × Instr) :=
  [(0x6A94000020180F00, .xlGet ⟨5, false, 5⟩ ⟨.b32, .rne, false, .v 4, .v 6, .v 7, .s 0⟩),
   (0x6B18110020180F00, .xlRot ⟨6, false, 6⟩ ⟨.b64, .rne, false, .v 4, .v 6, .v 7, .s 0⟩),
   (0x6BDC200020180F00, .xlXor ⟨7, true, 7⟩ ⟨.b32, .rne, false, .v 4, .v 6, .v 7, .s 0⟩),
   (0x6860310020180F00, .xlRev ⟨0, true, 8⟩ ⟨.b64, .rne, false, .v 4, .v 6, .v 7, .s 0⟩)]

/-- Words of major 0x1B. -/
def major1B : List (Nat × Instr) :=
  [(0x6CE4000818140100, .voteAll ⟨1, true, 9⟩ ⟨.b32, .rne, false, .s 3, .v 5, .v 0, .s 0⟩),
   (0x6D28100018140009, .voteAny ⟨2, false, 10⟩ ⟨.b32, .rne, false, .v 3, .v 5, .v 0, .v 9⟩),
   (0x6DAC210020180100, .voteEq ⟨3, false, 11⟩ ⟨.b64, .rne, false, .v 4, .v 6, .v 0, .s 0⟩),
   (0x6E30300818140100, .voteBallot ⟨4, false, 12⟩ ⟨.b32, .rne, false, .s 3, .v 5, .v 0, .s 0⟩)]

/-- Words of major 0x1C. -/
def major1C : List (Nat × Instr) :=
  [(0x72C00A0020180101, .redAdd ⟨5, true, 0⟩ ⟨.f32, .rne, false, .v 4, .v 6, .v 0, .s 1⟩),
   (0x7344140020180101, .redMin ⟨6, true, 1⟩ ⟨.i64, .rne, false, .v 4, .v 6, .v 0, .s 1⟩),
   (0x73C8230020180101, .redMax ⟨7, true, 2⟩ ⟨.n32, .rne, false, .v 4, .v 6, .v 0, .s 1⟩),
   (0x700C310020180101, .redAnd ⟨0, false, 3⟩ ⟨.b64, .rne, false, .v 4, .v 6, .v 0, .s 1⟩),
   (0x7090400020180101, .redOr ⟨1, false, 4⟩ ⟨.b32, .rne, false, .v 4, .v 6, .v 0, .s 1⟩),
   (0x7114510020180101, .redXor ⟨2, false, 5⟩ ⟨.b64, .rne, false, .v 4, .v 6, .v 0, .s 1⟩)]

/-- Words of major 0x1D. -/
def major1D : List (Nat × Instr) :=
  [(0x75D80A1018140101, .scanAdd ⟨3, true, 6⟩ true ⟨.f32, .rne, false, .v 3, .v 5, .v 0, .s 1⟩),
   (0x765C120018140101, .scanMin ⟨4, true, 7⟩ false ⟨.i32, .rne, false, .v 3, .v 5, .v 0, .s 1⟩),
   (0x76E0231018140101, .scanMax ⟨5, true, 8⟩ true ⟨.n32, .rne, false, .v 3, .v 5, .v 0, .s 1⟩),
   (0x7724300018140101, .scanOr ⟨6, false, 9⟩ false ⟨.b32, .rne, false, .v 3, .v 5, .v 0, .s 1⟩)]

/-- Words of major 0x20. -/
def major20 : List (Nat × Instr) :=
  [(0x83A800000000FFF8, .bra ⟨7, false, 10⟩ ⟨0, .v 0, .v 0, 65528⟩),
   (0x802C100180000240, .brz ⟨0, false, 11⟩ ⟨0, .v 3, .v 0, 576⟩),
   (0x80F0208180000008, .brnz ⟨1, true, 12⟩ ⟨0, .s 3, .v 0, 8⟩)]

/-- Words of major 0x21. -/
def major21 : List (Nat × Instr) :=
  [(0x85400F0000000000, .join ⟨2, true, 0⟩ ⟨15, .v 0, .v 0, 0⟩),
   (0x85C4110000000000, .joinX ⟨3, true, 1⟩ ⟨1, .v 0, .v 0, 0⟩),
   (0x8608220000000000, .wait ⟨4, false, 2⟩ ⟨2, .v 0, .v 0, 0⟩)]

/-- Words of major 0x22. -/
def major22 : List (Nat × Instr) :=
  [(0x8A8C000000000300, .call ⟨5, false, 3⟩ ⟨0, .v 0, .v 0, 768⟩),
   (0x8B1010000000FFFF, .callSym ⟨6, false, 4⟩ ⟨0, .v 0, .v 0, 65535⟩),
   (0x8BD4200400000000, .callInd ⟨7, true, 5⟩ ⟨0, .v 8, .v 0, 0⟩)]

/-- Words of major 0x23. -/
def major23 : List (Nat × Instr) :=
  [(0x8C58000000000000, .ret ⟨0, true, 6⟩ ⟨0, .v 0, .v 0, 0⟩),
   (0x8CDC100000000000, .exit ⟨1, true, 7⟩ ⟨0, .v 0, .v 0, 0⟩)]

/-- Words of major 0x24. -/
def major24 : List (Nat × Instr) :=
  [(0x9120000000051000, .enter ⟨2, false, 8⟩ 5 4096),
   (0x91A4100000000040, .leave ⟨3, false, 9⟩ 64)]

/-- Words of major 0x25. -/
def major25 : List (Nat × Instr) :=
  [(0x9628000000140000, .mark ⟨4, false, 10⟩ ⟨0, .v 0, .v 20, 0⟩),
   (0x96EC100A00160000, .cut ⟨5, true, 11⟩ ⟨0, .v 20, .v 22, 0⟩),
   (0x9770200B00000000, .graft ⟨6, true, 12⟩ ⟨0, .v 22, .v 0, 0⟩),
   (0x97C0308B00000000, .drop ⟨7, true, 0⟩ ⟨0, .s 22, .v 0, 0⟩)]

/-- Words of major 0x26. -/
def major26 : List (Nat × Instr) :=
  [(0x980400040000FFFF, .prefi ⟨0, false, 1⟩ ⟨0, .v 8, .v 0, 65535⟩)]

/-- Words of major 0x27. -/
def major27 : List (Nat × Instr) :=
  [(0x9C88000380000000, .brind ⟨1, false, 2⟩ ⟨0, .v 7, .v 0, 0⟩)]

/-- Words of major 0x28. -/
def major28 : List (Nat × Instr) :=
  [(0xA10C000000000000, .nop ⟨2, false, 3⟩ ⟨0, .v 0, .v 0, 0⟩),
   (0xA1D0100000001234, .pause ⟨3, true, 4⟩ ⟨0, .v 0, .v 0, 4660⟩)]

/-- Words of major 0x30. -/
def major30 : List (Nat × Instr) :=
  [(0xC25404D010180100, .ld ⟨4, true, 5⟩ ⟨.b32, .quad, .acq, .v 2, .v 6, .v 0, 256⟩),
   (0xC2D8199814180000, .lds ⟨5, true, 6⟩ ⟨.b128, .pod, .acq, .s 2, .s 6, .v 0, 0⟩)]

/-- Words of major 0x31. -/
def major31 : List (Nat × Instr) :=
  [(0xC71C0760001811FF, .st ⟨6, false, 7⟩ ⟨.b64, .pkg, .rel, .v 0, .v 6, .v 8, 511⟩),
   (0xC7A0180004181000, .sts ⟨7, false, 8⟩ ⟨.b128, .none, .plain, .v 0, .s 6, .v 8, 0⟩)]

/-- Words of major 0x32. -/
def major32 : List (Nat × Instr) :=
  [(0xC824050020181000, .atomAdd ⟨0, false, 9⟩ ⟨.b32, .die, .plain, .v 4, .v 6, .v 8, 0⟩),
   (0xC8E8171020181001, .atomMin ⟨1, true, 10⟩ ⟨.b64, .die, .acq, .v 4, .v 6, .v 8, 1⟩),
   (0xC96C252020181002, .atomMax ⟨2, true, 11⟩ ⟨.b32, .die, .rel, .v 4, .v 6, .v 8, 2⟩),
   (0xC9F0373020181003, .atomAnd ⟨3, true, 12⟩ ⟨.b64, .die, .ar, .v 4, .v 6, .v 8, 3⟩),
   (0xCA00450020181004, .atomOr ⟨4, false, 0⟩ ⟨.b32, .die, .plain, .v 4, .v 6, .v 8, 4⟩),
   (0xCA84571020181005, .atomXor ⟨5, false, 1⟩ ⟨.b64, .die, .acq, .v 4, .v 6, .v 8, 5⟩),
   (0xCB08652020181006, .atomExch ⟨6, false, 2⟩ ⟨.b32, .die, .rel, .v 4, .v 6, .v 8, 6⟩),
   (0xCBCC773020181007, .cas ⟨7, true, 3⟩ ⟨.b64, .die, .ar, .v 4, .v 6, .v 8, 7⟩)]

/-- Words of major 0x33. -/
def major33 : List (Nat × Instr) :=
  [(0xCC50014000000000, .fence ⟨0, true, 4⟩ ⟨.b8, .pkg, .plain, .v 0, .v 0, .v 0, 0⟩)]

/-- Words of major 0x34. -/
def major34 : List (Nat × Instr) :=
  [(0xD0D400000018100F, .bind ⟨1, true, 5⟩ ⟨.b8, .none, .plain, .v 0, .v 6, .v 8, 15⟩),
   (0xD118100004100002, .unbind ⟨2, false, 6⟩ ⟨.b8, .none, .plain, .v 0, .s 4, .v 0, 2⟩),
   (0xD19C200000180001, .lookup ⟨3, false, 7⟩ ⟨.b8, .none, .plain, .v 0, .v 6, .v 0, 1⟩)]

/-- Words of major 0x35. -/
def major35 : List (Nat × Instr) :=
  [(0xD620000000004003, .push ⟨4, false, 8⟩ ⟨.b8, .none, .plain, .v 0, .v 0, .v 32, 3⟩),
   (0xD6E4100080181200, .pop ⟨5, true, 9⟩ ⟨.b8, .none, .plain, .v 16, .v 6, .v 9, 0⟩)]

/-- Words of major 0x36. -/
def major36 : List (Nat × Instr) :=
  [(0xDB680000001813F0, .pref ⟨6, true, 10⟩ ⟨.b8, .none, .plain, .v 0, .v 6, .v 9, 496⟩),
   (0xDBEC100000181004, .discard ⟨7, true, 11⟩ ⟨.b8, .none, .plain, .v 0, .v 6, .v 8, 4⟩)]

/-- Words of major 0x38. -/
def major38 : List (Nat × Instr) :=
  [(0xE03006C839820000, .bload ⟨0, false, 12⟩ ⟨.bfp8, 25, 0, 3, 9, 2, 0, .s 0, .v 0⟩),
   (0xE0801000F0000000, .bclr ⟨1, false, 0⟩ ⟨.bfp2, 0, 0, 15, 0, 0, 0, .v 0, .v 0⟩)]

/-- Words of major 0x39. -/
def major39 : List (Nat × Instr) :=
  [(0xE50406C805001000, .mmaW ⟨2, false, 1⟩ ⟨.bfp8, 25, 0, 0, 5, 0, 0, .v 8, .v 0⟩),
   (0xE5C8128320301000, .mmaQ ⟨3, true, 2⟩ ⟨.bfp4, 16, 3, 2, 0, 0, 3, .v 8, .v 0⟩),
   (0xE64C270700401102, .mmaS ⟨4, true, 3⟩ ⟨.bfa16, 0, 7, 0, 0, 1, 0, .v 8, .s 2⟩)]

/-- Words of major 0x3A. -/
def major3A : List (Nat × Instr) :=
  [(0xEAD0080001C01000, .align ⟨5, true, 4⟩ ⟨.bf16, 0, 0, 0, 1, 3, 0, .v 8, .v 0⟩),
   (0xEB141A0703200102, .sacc ⟨6, false, 5⟩ ⟨.e5m3, 0, 7, 0, 3, 0, 2, .v 0, .s 2⟩)]

/-- Words of major 0x3B. -/
def major3B : List (Nat × Instr) :=
  [(0xEF98090700402000, .tld ⟨7, false, 6⟩ ⟨.f32, 0, 7, 0, 0, 1, 0, .v 16, .v 0⟩),
   (0xEC1C190000802000, .tst ⟨0, false, 7⟩ ⟨.f32, 0, 0, 0, 0, 2, 0, .v 16, .v 0⟩),
   (0xECE0290500000000, .tzero ⟨1, true, 8⟩ ⟨.f32, 0, 5, 0, 0, 0, 0, .v 0, .v 0⟩),
   (0xED643B0300C22000, .pld ⟨2, true, 9⟩ ⟨.i48, 0, 3, 0, 0, 3, 0, .s 16, .v 0⟩),
   (0xEDE84B0200002000, .pst ⟨3, true, 10⟩ ⟨.i48, 0, 2, 0, 0, 0, 0, .v 16, .v 0⟩),
   (0xEE2C5B0100000000, .pzero ⟨4, false, 11⟩ ⟨.i48, 0, 1, 0, 0, 0, 0, .v 0, .v 0⟩)]

/-- Words of major 0x3C. -/
def major3C : List (Nat × Instr) :=
  [(0xF2B004EAB020140C, .copy ⟨5, false, 12⟩ ⟨1, 3, 2, .pkg, 2, true, true, .v 8, .v 10, .v 12⟩),
   (0xF30018C000000000, .qfence ⟨6, false, 0⟩ ⟨2, 3, 0, .none, 0, false, false, .v 0, .v 0, .v 0⟩),
   (0xF3C423C000140000, .ftest ⟨7, true, 1⟩ ⟨0, 15, 0, .none, 0, false, false, .v 5, .v 0, .v 0⟩),
   (0xF04831C000000000, .fwait ⟨0, true, 2⟩ ⟨0, 7, 0, .none, 0, false, false, .v 0, .v 0, .v 0⟩),
   (0xF0CC424000000000, .fcancel ⟨1, true, 3⟩ ⟨0, 9, 0, .none, 0, false, false, .v 0, .v 0, .v 0⟩),
   (0xF11050C004140000, .hget ⟨2, false, 4⟩ ⟨0, 3, 0, .none, 0, false, false, .s 5, .v 0, .v 0⟩),
   (0xF19454C000100000, .hgetRef ⟨3, false, 5⟩ ⟨1, 3, 0, .none, 0, false, false, .v 4, .v 0, .v 0⟩),
   (0xF218608000001400, .hput ⟨4, false, 6⟩ ⟨0, 2, 0, .none, 0, false, false, .v 0, .v 10, .v 0⟩)]

/-- Words of major 0x3D. -/
def major3D : List (Nat × Instr) :=
  [(0xF6DC000400000000, .arrive ⟨5, true, 7⟩ ⟨0, 0, 0, .core, 0, false, false, .v 0, .v 0, .v 0⟩),
   (0xF7601007C0000000, .bwait ⟨6, true, 8⟩ ⟨0, 0, 0, .quad, 7, false, false, .v 0, .v 0, .v 0⟩),
   (0xF7E4200A80000000, .bsync ⟨7, true, 9⟩ ⟨0, 0, 0, .pkg, 2, false, false, .v 0, .v 0, .v 0⟩),
   (0xF428300000000C10, .enq ⟨0, false, 10⟩ ⟨0, 0, 0, .none, 0, false, false, .v 0, .v 6, .v 16⟩),
   (0xF4AC410000800C00, .deq ⟨1, false, 11⟩ ⟨0, 4, 0, .none, 0, false, false, .v 32, .v 6, .v 0⟩),
   (0xF530500000000D01, .dcinit ⟨2, false, 12⟩ ⟨0, 0, 0, .none, 0, false, false, .v 0, .v 6, .s 1⟩),
   (0xF5C0600000080D01, .dcadd ⟨3, true, 0⟩ ⟨0, 0, 0, .none, 0, false, false, .v 2, .v 6, .s 1⟩),
   (0xF6447C5870000800, .npost ⟨4, true, 1⟩ ⟨3, 1, 1, .die, 1, true, true, .v 0, .v 4, .v 0⟩),
   (0xF6C8800000020707, .nwait ⟨5, true, 2⟩ ⟨0, 0, 0, .none, 0, false, false, .v 0, .s 3, .s 7⟩)]

/-- Words of major 0x3E. -/
def major3E : List (Nat × Instr) :=
  [(0xFB0C000183000000, .sysr ⟨6, false, 3⟩ ⟨.picks, .s 6, .v 0, 0⟩),
   (0xF814100700018000, .sysw ⟨0, false, 5⟩ ⟨.cir, .v 0, .v 6, 0⟩),
   (0xF8D8200000403FFF, .trace ⟨1, true, 6⟩ ⟨.hmap, .v 0, .s 0, 16383⟩),
   (0xF95C3000000000FF, .trap ⟨2, true, 7⟩ ⟨.hmap, .v 0, .v 0, 255⟩),
   (0xF9E0400000000000, .rett ⟨3, true, 8⟩ ⟨.hmap, .v 0, .v 0, 0⟩),
   (0xFA2450000003000F, .publish ⟨4, false, 9⟩ ⟨.hmap, .v 0, .v 12, 15⟩),
   (0xFAA8600002000000, .chkerr ⟨5, false, 10⟩ ⟨.hmap, .v 4, .v 0, 0⟩),
   (0xFB2C700000000007, .brk ⟨6, false, 11⟩ ⟨.hmap, .v 0, .v 0, 7⟩)]

theorem test_decode_major_00 : Decodes major00 := by decide +kernel
theorem test_decode_major_01 : Decodes major01 := by decide +kernel
theorem test_decode_major_02 : Decodes major02 := by decide +kernel
theorem test_decode_major_03 : Decodes major03 := by decide +kernel
theorem test_decode_major_04 : Decodes major04 := by decide +kernel
theorem test_decode_major_05 : Decodes major05 := by decide +kernel
theorem test_decode_major_06 : Decodes major06 := by decide +kernel
theorem test_decode_major_07 : Decodes major07 := by decide +kernel
theorem test_decode_major_08 : Decodes major08 := by decide +kernel
theorem test_decode_major_09 : Decodes major09 := by decide +kernel
theorem test_decode_major_0a : Decodes major0A := by decide +kernel
theorem test_decode_major_0b : Decodes major0B := by decide +kernel
theorem test_decode_major_0c : Decodes major0C := by decide +kernel
theorem test_decode_major_0d : Decodes major0D := by decide +kernel
theorem test_decode_major_10 : Decodes major10 := by decide +kernel
theorem test_decode_major_11 : Decodes major11 := by decide +kernel
theorem test_decode_major_12 : Decodes major12 := by decide +kernel
theorem test_decode_major_13 : Decodes major13 := by decide +kernel
theorem test_decode_major_14 : Decodes major14 := by decide +kernel
theorem test_decode_major_15 : Decodes major15 := by decide +kernel
theorem test_decode_major_16 : Decodes major16 := by decide +kernel
theorem test_decode_major_17 : Decodes major17 := by decide +kernel
theorem test_decode_major_18 : Decodes major18 := by decide +kernel
theorem test_decode_major_19 : Decodes major19 := by decide +kernel
theorem test_decode_major_1a : Decodes major1A := by decide +kernel
theorem test_decode_major_1b : Decodes major1B := by decide +kernel
theorem test_decode_major_1c : Decodes major1C := by decide +kernel
theorem test_decode_major_1d : Decodes major1D := by decide +kernel
theorem test_decode_major_20 : Decodes major20 := by decide +kernel
theorem test_decode_major_21 : Decodes major21 := by decide +kernel
theorem test_decode_major_22 : Decodes major22 := by decide +kernel
theorem test_decode_major_23 : Decodes major23 := by decide +kernel
theorem test_decode_major_24 : Decodes major24 := by decide +kernel
theorem test_decode_major_25 : Decodes major25 := by decide +kernel
theorem test_decode_major_26 : Decodes major26 := by decide +kernel
theorem test_decode_major_27 : Decodes major27 := by decide +kernel
theorem test_decode_major_28 : Decodes major28 := by decide +kernel
theorem test_decode_major_30 : Decodes major30 := by decide +kernel
theorem test_decode_major_31 : Decodes major31 := by decide +kernel
theorem test_decode_major_32 : Decodes major32 := by decide +kernel
theorem test_decode_major_33 : Decodes major33 := by decide +kernel
theorem test_decode_major_34 : Decodes major34 := by decide +kernel
theorem test_decode_major_35 : Decodes major35 := by decide +kernel
theorem test_decode_major_36 : Decodes major36 := by decide +kernel
theorem test_decode_major_38 : Decodes major38 := by decide +kernel
theorem test_decode_major_39 : Decodes major39 := by decide +kernel
theorem test_decode_major_3a : Decodes major3A := by decide +kernel
theorem test_decode_major_3b : Decodes major3B := by decide +kernel
theorem test_decode_major_3c : Decodes major3C := by decide +kernel
theorem test_decode_major_3d : Decodes major3D := by decide +kernel
theorem test_decode_major_3e : Decodes major3E := by decide +kernel
/-! ### A small machine -/

/-- A directory and the descriptors of segments 1 (code), 2 (data and stack), 4 (queue), 5 (counters), 6 (binding table), 7 (a skein),
8 (trap table) and 10 (saves). -/
def wTables : List Host.Cell :=
  [(0x8000, 0x1), (0x8002, 0x2), (0x20024, 0x10), (0x20027, 0x5a), (0x20028, 0xff), (0x20029, 0xff), (0x20039, 0x20),
   (0x2003a, 0x4), (0x20044, 0x10), (0x20047, 0x1d), (0x20048, 0xff), (0x20049, 0xff), (0x20059, 0x40), (0x2005a, 0x4),
   (0x20084, 0x10), (0x20087, 0x8c), (0x20088, 0xff), (0x20089, 0xff), (0x20099, 0x80), (0x2009a, 0x4),
   (0x200a4, 0x10), (0x200a7, 0x9d), (0x200a8, 0xff), (0x200a9, 0xff), (0x200b9, 0xa0), (0x200ba, 0x4),
   (0x200c4, 0x10), (0x200c6, 0x80), (0x200c7, 0xac), (0x200c8, 0xff), (0x200c9, 0xff), (0x200d9, 0xc0),
   (0x200da, 0x4), (0x200e4, 0x10), (0x200e7, 0x7c), (0x200e8, 0xff), (0x200e9, 0xff), (0x200f9, 0xe0), (0x200fa, 0x4),
   (0x20104, 0x10), (0x20106, 0x80), (0x20107, 0x18), (0x20108, 0xff), (0x20109, 0xff), (0x2011a, 0x5),
   (0x20144, 0x10), (0x20146, 0xa0), (0x20147, 0x1c), (0x20148, 0xff), (0x20149, 0xff), (0x2014a, 0xff),
   (0x2014b, 0x3f), (0x20159, 0x40), (0x2015a, 0x5)]
/-- The page tables of the segments: one page of 64 KB each, at 0x100000 + 0x10000 × segment; of segment 10 one of
1 GiB. -/
def wPages : List Host.Cell :=
  [(0x42000, 0x1), (0x42001, 0x10), (0x42002, 0x6), (0x44000, 0x1), (0x44001, 0x20), (0x44002, 0x6), (0x48000, 0x1),
   (0x48001, 0x40), (0x48002, 0x6), (0x4a000, 0x1), (0x4a001, 0x50), (0x4a002, 0x6), (0x4c000, 0x1), (0x4c001, 0x60),
   (0x4c002, 0x6), (0x4e000, 0x1), (0x4e001, 0x70), (0x4e002, 0x6), (0x50000, 0x1), (0x50001, 0x80), (0x50002, 0x6),
   (0x54000, 0x3), (0x54003, 0x40), (0x61000, 0x1), (0x61001, 0x1), (0x61002, 0x7), (0x62000, 0x1), (0x62001, 0x2),
   (0x62002, 0x7), (0x64000, 0x1), (0x64001, 0x4), (0x64002, 0x7), (0x65000, 0x1), (0x65001, 0x5), (0x65002, 0x7),
   (0x66000, 0x1), (0x66001, 0x6), (0x66002, 0x7), (0x67000, 0x1), (0x67001, 0x7), (0x67002, 0x7), (0x68000, 0x1),
   (0x68001, 0x8), (0x68002, 0x7), (0x70100, 0x3), (0x70102, 0x11), (0x70200, 0x3), (0x70202, 0x12), (0x70400, 0x3),
   (0x70402, 0x14), (0x70500, 0x3), (0x70502, 0x15), (0x70600, 0x3), (0x70602, 0x16), (0x70700, 0x3), (0x70702, 0x17),
   (0x70800, 0x3), (0x70802, 0x18)]
/-- A link record at 0x40 of the stack; a queue of one launch record; a counter; a binding table of six entries; a sealed skein; and one
handler in the trap table, which starts as a trace ring. -/
def wData : List Host.Cell :=
  [(0x120045, 0x1), (0x120050, 0x20), (0x120055, 0x2), (0x140002, 0x1), (0x140006, 0x10), (0x140007, 0x1),
   (0x140008, 0xff), (0x140009, 0xff), (0x14000a, 0xff), (0x14000b, 0xff), (0x14000c, 0xff), (0x14000d, 0xff),
   (0x140045, 0x1), (0x14004f, 0x40), (0x14005d, 0x5), (0x140060, 0x1), (0x14006f, 0x1), (0x150000, 0x1),
   (0x150003, 0xff), (0x150004, 0xff), (0x160000, 0x1), (0x160007, 0x1), (0x160008, 0x10), (0x160011, 0x1),
   (0x160019, 0x4), (0x160040, 0x10), (0x160103, 0x1), (0x160107, 0x5e), (0x160127, 0x20), (0x160133, 0x1),
   (0x160137, 0x5e), (0x16013e, 0x1), (0x160143, 0x1), (0x160147, 0x7e), (0x16014e, 0x1), (0x160156, 0x5),
   (0x160157, 0x80), (0x170001, 0x1), (0x170002, 0x1), (0x170004, 0x1), (0x170007, 0x80), (0x170008, 0x20),
   (0x170028, 0x20), (0x17002e, 0x1), (0x180000, 0x4), (0x180007, 0x1), (0x180105, 0x1)]
/-- Clauses at the start of the I-pad of core 0: an `enter`, a `nop`, an `enter` of the largest budget. -/
def wCode : List Host.Cell :=
  [(0x8000000180006, 0x20), (0x8000000180007, 0xfc), (0x8000000180008, 0x20), (0x800000018000f, 0x90),
   (0x8000000180026, 0x20), (0x8000000180027, 0xfc), (0x800000018002f, 0xa0), (0x8000000180036, 0x20),
   (0x8000000180037, 0xfc), (0x800000018003a, 0xf), (0x800000018003f, 0x90)]
/-- What the call and binding words read of it. -/
def wBt : List Host.Cell :=
  [(0x8000, 0x1), (0x8002, 0x2), (0x20024, 0x10), (0x20027, 0x5a), (0x20028, 0xff), (0x20029, 0xff), (0x20039, 0x20),
   (0x2003a, 0x4), (0x20044, 0x10), (0x20047, 0x1d), (0x20048, 0xff), (0x20049, 0xff), (0x20059, 0x40), (0x2005a, 0x4),
   (0x200c4, 0x10), (0x200c6, 0x80), (0x200c7, 0xac), (0x200c8, 0xff), (0x200c9, 0xff), (0x200d9, 0xc0),
   (0x200da, 0x4), (0x42000, 0x1), (0x42001, 0x10), (0x42002, 0x6), (0x44000, 0x1), (0x44001, 0x20), (0x44002, 0x6),
   (0x4c000, 0x1), (0x4c001, 0x60), (0x4c002, 0x6), (0x61000, 0x1), (0x61001, 0x1), (0x61002, 0x7), (0x62000, 0x1),
   (0x62001, 0x2), (0x62002, 0x7), (0x66000, 0x1), (0x66001, 0x6), (0x66002, 0x7), (0x70100, 0x3), (0x70102, 0x11),
   (0x70200, 0x3), (0x70202, 0x12), (0x70600, 0x3), (0x70602, 0x16), (0x160000, 0x1), (0x160007, 0x1),
   (0x160008, 0x10), (0x160011, 0x1), (0x160019, 0x4), (0x160040, 0x10), (0x160103, 0x1), (0x160107, 0x5e),
   (0x160127, 0x20), (0x160133, 0x1), (0x160137, 0x5e), (0x16013e, 0x1), (0x160143, 0x1), (0x160147, 0x7e),
   (0x16014e, 0x1), (0x160156, 0x5), (0x160157, 0x80)]
/-- The same with an absent descriptor of segment 9, prepared for code, and a staged clause with a `nop` in segment 2. -/
def wPub : List Host.Cell :=
  [(0x8000, 0x1), (0x8002, 0x2), (0x20024, 0x10), (0x20027, 0x5a), (0x20028, 0xff), (0x20029, 0xff), (0x20039, 0x20),
   (0x2003a, 0x4), (0x20044, 0x10), (0x20047, 0x1d), (0x20048, 0xff), (0x20049, 0xff), (0x20059, 0x40), (0x2005a, 0x4),
   (0x200c4, 0x10), (0x200c6, 0x80), (0x200c7, 0xac), (0x200c8, 0xff), (0x200c9, 0xff), (0x200d9, 0xc0),
   (0x200da, 0x4), (0x2012c, 0x10), (0x20139, 0x20), (0x2013a, 0x4), (0x42000, 0x1), (0x42001, 0x10), (0x42002, 0x6),
   (0x44000, 0x1), (0x44001, 0x20), (0x44002, 0x6), (0x4c000, 0x1), (0x4c001, 0x60), (0x4c002, 0x6), (0x61000, 0x1),
   (0x61001, 0x1), (0x61002, 0x7), (0x62000, 0x1), (0x62001, 0x2), (0x62002, 0x7), (0x66000, 0x1), (0x66001, 0x6),
   (0x66002, 0x7), (0x70100, 0x3), (0x70102, 0x11), (0x70200, 0x3), (0x70202, 0x12), (0x70600, 0x3), (0x70602, 0x16),
   (0x120000, 0x4e), (0x120001, 0x58), (0x120002, 0x53), (0x120003, 0x54), (0x120004, 0x47), (0x120007, 0x1),
   (0x120008, 0x10), (0x120020, 0x50), (0x120030, 0x10), (0x120046, 0x20), (0x120047, 0xfc), (0x12004f, 0xa0),
   (0x120054, 0x1), (0x160000, 0x1), (0x160007, 0x1), (0x160008, 0x10), (0x160011, 0x1), (0x160019, 0x4),
   (0x160040, 0x10), (0x160103, 0x1), (0x160107, 0x5e), (0x160127, 0x20), (0x160133, 0x1), (0x160137, 0x5e),
   (0x16013e, 0x1), (0x160143, 0x1), (0x160147, 0x7e), (0x16014e, 0x1), (0x160156, 0x5), (0x160157, 0x80)]

/-- A page entry of the page cache. -/
def wPage (seg : Nat) : PageLine := ⟨1, BitVec.ofNat 24 seg, 0, 0, 0x40000 + 0x2000 * seg, BitVec.ofNat 64 (0x100003 + 0x10000 * seg)⟩

/-- Core 0, with the code segment resident. -/
def wCore : CoreSt := { CoreSt.reset with
  resid := [⟨1, 1, 0, 0x100, 0⟩]
  tlbPage := [1, 2, 4, 5, 6, 7, 8].map wPage }

/-- One weft of one panel: lane 0 at the only word of the clause at offset 0, the scalars s0 to s12 with addresses. -/
def wWeft : Weft := { Weft.at0 1 with
  regs := [(keyS 0, mkAddr 2 0x100), (keyS 2, mkAddr 4 0), (keyS 4, mkAddr 5 0), (keyS 6, mkAddr 6 0), (keyS 8, mkAddr 7 0),
    (keyS 10, mkAddr 0xFFFFFD 0), (keyS 12, mkAddr 1 0), (keyS 14, 1), (keyS 16, 0x8000000000000001), (keyS 18, 0x8200000000000000),
    (keyS 20, mkAddr 2 0)] }

/-- Its panel, a member of the barrier of route tag 0 at quad scope. -/
def wPanel : Panel := { Panel.at0 1 with
  launch := { (Panel.at0 1).launch with bscope := 3 }
  bars := [BarRec.nil, ⟨true, 0, 0, 0, false⟩] ++ List.replicate 7 BarRec.nil }

/-- Its context. -/
def wCtx : Ctx := { Ctx.nil 1 with root := 0x00F0000000008001, btseg := 6, trapv := 8 }

/-- The word that its issue stage has chosen. -/
def wWord : SlotWord := ⟨1, 1, mkAddr 1 8, 0, 1, 0, 0, none⟩

/-- The machine: the tables of context 1 in HBM under key 1, its panel on core 0, a word due. -/
def world : State := { State.reset with
  mem := { MemSt.reset with bytes := wTables ++ (wPages ++ (wData ++ wCode)) }
  cores := [(0, wCore)]
  panels := [wPanel]
  wefts := [wWeft]
  ctxs := [wCtx]
  keys := [(1, (.live, 1))]
  nextId := 10
  cur := some wWord }

/-- The same with the tables of segments 1, 2 and 6 alone. -/
def worldBt : State := { world with mem := { MemSt.reset with bytes := wBt ++ wCode } }

/-- The machine with a publication staged. -/
def worldPub (addr : DWord) : State := { world with
  mem := { MemSt.reset with bytes := wPub ++ wCode }
  ctxs := [{ wCtx with publo := 9, pubhi := 9 }]
  pubs := [⟨8, 1, ⟨1, 0, 0, 0⟩, addr, false, 1⟩] }

/-- The same with lane 0 changed. -/
def worldLane (f : Lane → Lane) : State :=
  { world with wefts := [{ wWeft with lanes := f Lane.at0 :: List.replicate 31 { Lane.at0 with st := .exited } }] }
/-- The same in SYSTEM mode. -/
def worldSys : State := worldLane (fun l => { l with sys := true })

/-- What the due word of a state reads with. -/
abbrev ic (s : State) : IC := icOf (s.ready wWord) wWord

/-- Whether a word is due. -/
def isDue (s : State) (v : View) (sysOnly : Bool) : Bool :=
  let x := ic s
  s.cur == some wWord && !x.lanes.isEmpty && !v.gmBad (coreIdx x.w.core) && !v.overBudget x.p.alloc && (!sysOnly || x.sys) && !x.flagFull v.common &&
    !(x.p.launch.replay && viewCommits v && (s.ready wWord).beamBusy x.p.id)

theorem due_of {s : State} {v : View} {b : Bool} (h : isDue s v b = true) : Due s wWord (ic s) v b := by
  simp only [isDue, Bool.and_eq_true, Bool.not_eq_true', List.isEmpty_eq_false_iff, beq_iff_eq, Bool.or_eq_true,
    Bool.and_eq_false_iff] at h
  obtain ⟨⟨⟨⟨⟨⟨h1, h2⟩, hg⟩, h3⟩, h4⟩, h5⟩, h6⟩ := h
  refine ⟨h1, rfl, rfl, h2, hg, h3, fun hb => ?_, h5, fun ha hc => ?_⟩
  · rcases h4 with h | h
    · simp [hb] at h
    · exact h
  · simp only [ic, ha, hc] at h6; simpa using h6

/-- The words of a list are well-formed and due. -/
def Ready (l : List (Nat × Instr)) : Prop := ∀ q ∈ l, q.2.wellFormed = true ∧ Due world wWord (ic world) q.2.view false

theorem ready_of {l : List (Nat × Instr)} (h : l.all (fun q => q.2.wellFormed && isDue world q.2.view false) = true) : Ready l := by
  intro q hq
  have h := List.all_eq_true.mp h q hq
  rw [Bool.and_eq_true] at h
  exact ⟨h.1, due_of h.2⟩

/-! ### Words that write a value in each lane -/

theorem witness_IntegerArithmetic : Ready (major00 ++ major0B) := ready_of (by decide +kernel)
theorem witness_ImmediateWords : Ready (major01) := ready_of (by decide +kernel)
theorem witness_LogicAndShiftWords : Ready (major02 ++ major03) := ready_of (by decide +kernel)
theorem witness_BitFieldWords : Ready (major05) := ready_of (by decide +kernel)
theorem witness_CompareAndSelect : Ready (major04) := ready_of (by decide +kernel)
theorem witness_AddressWords : Ready (major06 ++ major07) := ready_of (by decide +kernel)
theorem witness_MatrixAndDepositWords : Ready (major08 ++ major09) := ready_of (by decide +kernel)
theorem witness_PermuteAndMoveWords : Ready (major0A ++ major0C) := ready_of (by decide +kernel)
theorem witness_PackedWords : Ready (major0D) := ready_of (by decide +kernel)
theorem witness_FloatingArithmetic : Ready (major10 ++ major17) := ready_of (by decide +kernel)
theorem witness_FloatingCompares : Ready (major11) := ready_of (by decide +kernel)
theorem witness_ConversionWords : Ready (major12) := ready_of (by decide +kernel)
theorem witness_PackingWords : Ready (major14 ++ major15) := ready_of (by decide +kernel)
theorem witness_ScaleWords : Ready (major16) := ready_of (by decide +kernel)
theorem witness_DotProducts : Ready (major19) := ready_of (by decide +kernel)
theorem witness_SpecialFunctions : Ready (major13) := ready_of (by decide +kernel)
theorem witness_RoundingStream : Ready (major18) := ready_of (by decide +kernel)

/-! ### Tools -/

/-- A word with FLAG 0. -/
def c0 : Common := ⟨0, false, 0⟩
/-- A word is due in a state. -/
abbrev DueIn (s : State) (i : Instr) (sysOnly : Bool := false) : Prop := Due s wWord (ic s) i.view sysOnly

theorem due_all {s : State} {l : List Instr} {b : Bool} (h : l.all (fun i => isDue s i.view b) = true) : ∀ i ∈ l, DueIn s i b :=
  fun i hi => due_of (List.all_eq_true.mp h i hi)

/-- Whether a check passes. -/
def passes {α : Type} : Chk α → Bool
  | .ok _ => true
  | .fault _ => false
  | .miss _ => false

theorem pass_ex {α : Type} {c : Chk α} (h : passes c = true) : ∃ a, c = .ok a := by
  cases c <;> simp_all [passes]

/-- Whether a check fails. -/
def fails {α : Type} : Chk α → Bool
  | .fault _ => true
  | .ok _ => false
  | .miss _ => false

theorem fail_ex {α : Type} {c : Chk α} (h : fails c = true) : ∃ e, c = .fault e := by
  cases c <;> simp_all [fails]

/-- Whether a check waits. -/
def misses {α : Type} : Chk α → Bool
  | .miss _ => true
  | .ok _ => false
  | .fault _ => false

theorem miss_ex {α : Type} {c : Chk α} (h : misses c = true) : ∃ p, c = .miss p := by
  cases c <;> simp_all [misses]

theorem pass_all {α : Type} {f : Nat → Chk α} {l : List Nat} (hl : l ≠ []) (h : l.all (fun k => passes (f k)) = true) :
    ∃ q : Nat → α, ∀ k ∈ l, f k = .ok (q k) := by
  obtain ⟨m, hm⟩ := List.exists_mem_of_ne_nil l hl
  have g := fun k (hk : k ∈ l) => pass_ex (List.all_eq_true.mp h k hk)
  have d := (g m hm).choose
  exact ⟨fun k => if hk : k ∈ l then (g k hk).choose else d, fun k hk => by simpa [hk] using (g k hk).choose_spec⟩

/-- A lane's request. -/
abbrev req (s : State) (k : Nat) : Req := (s.ready wWord).reqOf 1 k

/-! ### Cross-lane words -/

/-- The cross-lane words over a member mask `c`, of a 32-bit type. -/
def crossWords (c : Opnd) : List Instr :=
  let f := fun ty => v3 ty (.v 3) (.v 5) (.v 0) c
  let g := v3 .b32 (.v 3) (.v 5) (.v 7) c
  [.xlGet c0 g, .xlRot c0 g, .xlXor c0 g, .xlRev c0 g, .voteAll c0 (f .b32), .voteAny c0 (f .b32), .voteEq c0 (f .b32),
   .voteBallot c0 (f .b32), .redAdd c0 (f .f32), .redMin c0 (f .i32), .redMax c0 (f .n32), .redAnd c0 (f .b32), .redOr c0 (f .b32),
   .redXor c0 (f .b32), .scanAdd c0 true (f .f32), .scanMin c0 false (f .i32), .scanMax c0 true (f .n32), .scanOr c0 false (f .b32)]

/-- Lane 0 lies in its own mask, which s14 holds. -/
theorem witness_ExchangeWords : (∀ i ∈ crossWords (.s 14), DueIn world i) ∧
    ∀ k ∈ (ic world).lanes, (ic world).inMask (.s 14) k k = true :=
  ⟨due_all (by decide +kernel), by decide +kernel⟩

theorem witness_ReduceAndScanWords : Ready (major1C ++ major1D) ∧ (∀ i ∈ crossWords (.s 14), DueIn world i) ∧
    ∀ k ∈ (ic world).lanes, (ic world).inMask (.s 14) k k = true :=
  ⟨ready_of (by decide +kernel), due_all (by decide +kernel), by decide +kernel⟩

/-- A mask with the lane and one without it. -/
theorem witness_VotesAndMembers : Ready major1B ∧ (∀ i ∈ crossWords (.s 14) ++ crossWords .zero, DueIn world i) ∧
    (ic world).lanes.filter (fun k => (ic world).inMask (.s 14) k k) ≠ [] ∧
    (ic world).lanes.filter (fun k => (ic world).inMask .zero k k) = [] :=
  ⟨ready_of (by decide +kernel), due_all (by decide +kernel), by decide +kernel, by decide +kernel⟩

/-! ### Control words -/

/-- A C word's fields. -/
def cf (jm : BitVec 4) (a b : Opnd) (imm : BitVec 16) : CF := ⟨jm, a, b, imm⟩

theorem witness_BranchAndIdleWords :
    (∀ i ∈ [Instr.bra c0 (cf 0 (.v 0) (.v 0) 0), .brz c0 (cf 0 .zero (.v 0) 0), .brz c0 (cf 0 (.s 14) (.v 0) 0),
      .brnz c0 (cf 0 .zero (.v 0) 0), .brnz c0 (cf 0 (.s 14) (.v 0) 0), .brind c0 (cf 0 .zero (.v 0) 0), .nop c0 (cf 0 (.v 0) (.v 0) 0),
      .pause c0 (cf 0 (.v 0) (.v 0) 0xFFFF), .prefi c0 (cf 0 (.s 0) (.v 0) 0)], DueIn world i) ∧
    ∀ k ∈ (ic world).lanes, (world.ready wWord).checkFetch (req world k) (mkAddr (segOf (ic world).pc) 0) = .ok () ∧
      (ic world).rd false .zero k = 0 ∧ (ic world).rd false (.s 14) k ≠ 0 ∧ (ic world).pz false (.s 14) k = false ∧
      (ic world).pz true (.s 0) k = false :=
  ⟨due_all (by decide +kernel), by decide +kernel⟩

/-- The machine with an empty page cache. -/
def worldCold : State := { world with cores := [(0, { wCore with tlbPage := [] })] }
/-- The machine without a resident code segment. -/
def worldBare : State := { world with cores := [(0, { wCore with resid := [] })] }

theorem witness_AccessChecks :
    segOf (mkAddr 0 8) = 0 ∧ (segOf (mkAddr 0xFFFFF0 0)).toNat = 0xFFFFF0 ∧ (segOf (mkAddr 0xFFFFF9 0)).toNat = 0xFFFFF9 ∧
    (segOf (mkAddr 0xFFFFFA 0)).toNat = 0xFFFFFA ∧ (req world 0).sys = false ∧
    (∃ d, world.descFor (req world 0) (segOf (mkAddr 1 0)) = .ok d ∧ d.kind = 5 ∧ d.x = true ∧ d.sysOnly = false ∧ d.limit < 0x10000 + 7) ∧
    (∃ d, world.descFor (req world 0) (segOf (mkAddr 8 0)) = .ok d ∧ d.sysOnly = true ∧ 1 ≤ d.kind) ∧
    (∃ f, world.descFor (req world 0) (segOf (mkAddr 0xFFFFEF 0)) = .error f) ∧
    (∃ q, world.check (req world 0) .fetch (mkAddr 1 0) 0 8 8 = .ok q) ∧
    (∃ q, worldBare.check (req worldBare 0) .fetch (mkAddr 1 0) 0 8 8 = .ok q) ∧
    (∃ p, worldCold.check (req worldCold 0) .fetch (mkAddr 1 0) 0 8 8 = .miss p) ∧
    (∃ e, world.check (req world 0) .fetch (mkAddr 1 4) 0 8 8 = .fault e) ∧ ¬ 8 ∣ (offOf (mkAddr 1 4)).toNat ∧
    8 ∣ (offOf (mkAddr 1 0x10000)).toNat :=
  ⟨by decide, by decide, by decide, by decide, by decide +kernel,
   ⟨(parseDesc 0x5A00001000000000 0xFFFF 0 0x42000), by decide +kernel⟩, ⟨(parseDesc 0x1880001000000000 0xFFFF 0 0x50000), by decide +kernel⟩,
   ⟨segFault 3, by decide +kernel⟩, pass_ex (by decide +kernel), pass_ex (by decide +kernel),
   ⟨[(1, 1, 0, 0, 0x42000)], by decide +kernel⟩, ⟨⟨.align, 0, mkAddr 1 4, 0, 0⟩, by decide +kernel⟩, by decide, by decide⟩

/-- The machine with sets of a rejoin mask. -/
def worldMask (e a : LaneMask) : State := { world with wefts := [{ wWeft with masks := (e, a) :: List.replicate 15 (0, 0) }] }

theorem witness_RejoinWords :
    (∀ i ∈ [Instr.join c0 (cf 15 (.v 0) (.v 0) 0), .joinX c0 (cf 0 (.v 0) (.v 0) 0), .wait c0 (cf 0 (.v 0) (.v 0) 0)], DueIn world i) ∧
    (15 : Nat) < (ic world).w.masks.length ∧ ((ic world).w.mask 0).1 &&& ((ic world).w.mask 0).2 &&& maskOf (ic world).lanes = 0 ∧
    DueIn (worldMask 3 0) (.wait c0 (cf 0 (.v 0) (.v 0) 0)) ∧ ((ic (worldMask 3 0)).w.mask 0).1 &&& maskOf (ic (worldMask 3 0)).lanes ≠ 0 ∧
    DueIn (worldMask 3 1) (.wait c0 (cf 0 (.v 0) (.v 0) 0)) ∧
    maskOf (ic (worldMask 3 1)).lanes &&& ~~~ (((ic (worldMask 3 1)).w.mask 0).1 &&& ((ic (worldMask 3 1)).w.mask 0).2) = 0 :=
  ⟨due_all (by decide +kernel), by decide +kernel, by decide +kernel, due_of (by decide +kernel), by decide +kernel,
   due_of (by decide +kernel), by decide +kernel⟩

theorem witness_FrameWords :
    (∀ i ∈ [Instr.enter c0 0 0, .enter c0 15 0x1000, .leave c0 0x1000, .mark c0 (cf 0 (.v 0) (.v 20) 0)], DueIn world i) ∧
    (∀ k ∈ (ic world).lanes, ∃ q, (world.ready wWord).checkTo (req world k) .store (mkAddr segSTK ((ic world).w.lane k).fb) 0 0x1000 1 false =
      .ok q) ∧
    (ic world).awaits = false ∧ ∃ q : Nat → Desc × Seg × Nat × List Loc, ∀ k ∈ (ic world).lanes,
      (world.ready wWord).check (req world k) .store (mkAddr segSTK ((ic world).w.lane k).sp) 0 16 8 = .ok (q k) :=
  ⟨due_all (by decide +kernel), fun k hk => by
    rw [show (ic world).lanes = [0] by decide +kernel, List.mem_singleton] at hk
    subst hk
    exact ⟨(parseDesc 0x1D00001000000000 0xFFFF 0 0x44000, 2, 0x20), by decide +kernel⟩,
   by decide +kernel, pass_all (by decide +kernel) (by decide +kernel)⟩

/-- The binding entry 0: BOUND to segment 1 with every right and no hold. -/
def bound0 : BEntry := ⟨2, 15, 0, 1, 0, 0, none⟩

theorem witness_CallWords :
    let r := worldBt.ready wWord
    (∀ i ∈ [Instr.call c0 (cf 0 (.v 0) (.v 0) 0), .callInd c0 (cf 0 (.s 12) (.v 0) 0), .callSym c0 (cf 0 (.v 0) (.v 0) 0)], DueIn worldBt i) ∧
    (ic worldBt).awaits = false ∧ r.commitWaits (ic worldBt).p.id = false ∧
    (∃ q : Nat → Nat × Nat × List Loc, ∀ k ∈ (ic worldBt).lanes, r.callChecks (ic worldBt) k (mkAddr 1 0) = .ok (q k)) ∧
    (∀ k ∈ (ic worldBt).lanes, (ic worldBt).pz true (.s 12) k = false ∧ (ic worldBt).rd true (.s 12) k = mkAddr 1 0) ∧
    r.slotToEntry 1 (r.moduleOf 0 1 1) 0 = .ok (0, 0x100, 0x400) ∧
    r.entryAt 1 0x100 0 = .ok bound0 ∧ bound0.hold + (ic worldBt).lanes.length ≤ 0xFFFF :=
  ⟨due_all (by decide +kernel), by decide +kernel, by decide +kernel, pass_all (by decide +kernel) (by decide +kernel), by decide +kernel,
   by decide +kernel, by decide +kernel, by decide +kernel⟩

/-- The machine with a panel of the smallest allocation. -/
def worldSmall : State := { world with panels := [{ wPanel with launch := { wPanel.launch with bud := 0 } }] }

theorem witness_CallRecords :
    let x := ic world
    let r := req world 0
    (∃ e, world.checkFetch r (mkAddr 1 4) = .fault e) ∧
    ([mkAddr 1 0, mkAddr 1 8, mkAddr 1 0x20, mkAddr 1 0x30].all (fun t => passes (world.checkFetch r t)) = true) ∧
    decodeHeader (world.fetchWord 0 1 1 8) = none ∧ (decodeHeader (world.fetchWord 0 1 1 0)).isSome = true ∧
    (decodeHeader (world.fetchWord 0 1 1 0x20)).isSome = true ∧ ¬ (world.fetchWord 0 1 1 0x28).extractLsb' 58 6 = 0x24#6 ∧
    (decodeHeader (world.fetchWord 0 1 1 0x30)).isSome = true ∧ (world.fetchWord 0 1 1 0x38).extractLsb' 58 6 = 0x24#6 ∧
    (ic worldSmall).p.alloc < 256 ∧ 16 ≤ x.p.alloc ∧
    (∃ e, world.check r .store (mkAddr segSTK 0xFFF8) 0 0x20 8 = .fault e) ∧
    (∃ q, world.check r .store (mkAddr segSTK (x.w.lane 0).sp) 0 0x20 8 = .ok q) ∧
    (∃ e, world.frameAt r 1 0x24 = .fault e) ∧ (∃ p, worldCold.frameAt (req worldCold 0) 1 0x20 = .miss p) ∧
    (∃ f, world.frameAt r 1 0x20 = .ok f ∧ segOf f.ret = 0) ∧
    ∃ f, world.frameAt r 1 0x60 = .ok f ∧ segOf f.ret ≠ 0 ∧ segOf f.savfb = r.sseg ∧ 0x20 ≤ (offOf f.savfb).toNat ∧
      (offOf f.savfb).toNat + 0x20 ≤ 0x60 :=
  ⟨fail_ex (by decide +kernel), by decide +kernel, by decide +kernel, by decide +kernel, by decide +kernel,
   by decide +kernel, by decide +kernel, by decide +kernel, by decide +kernel, by decide +kernel,
   fail_ex (by decide +kernel), pass_ex (by decide +kernel), fail_ex (by decide +kernel), miss_ex (by decide +kernel),
   ⟨Frame.ofNat 0, by decide +kernel⟩, ⟨Frame.ofNat ((mkAddr 1 0).toNat + (mkAddr 2 0x20).toNat * 2 ^ 128), by decide +kernel⟩⟩

/-- A lane whose frame lies above its root. -/
def worldDeep : State := worldLane (fun l => { l with fb := 0x60, sp := 0x60 })

theorem witness_ReturnWords :
    (∃ l : Nat → Frame, DueIn worldDeep (.ret c0 (cf 0 (.v 0) (.v 0) 0)) ∧ ∀ k ∈ (ic worldDeep).lanes,
      (worldDeep.ready wWord).frameAt (req worldDeep k) 1 (((ic worldDeep).w.lane k).fb.toNat) = .ok (l k) ∧ segOf (l k).ret ≠ 0 ∧
      (worldDeep.ready wWord).checkFetch (req worldDeep k) (l k).ret = .ok () ∧
      (worldDeep.ready wWord).entryPage 1 (if (l k).hv then [(l k).ent] else []) = none) ∧
    (ic world).awaits = false ∧ (ic worldDeep).awaits = false ∧ (world.ready wWord).commitWaits 1 = false ∧
    (worldDeep.ready wWord).commitWaits 1 = false ∧
    (∀ i ∈ [Instr.ret c0 (cf 0 (.v 0) (.v 0) 0), .exit c0 (cf 0 (.v 0) (.v 0) 0)], DueIn world i) ∧
    (∃ fs : Nat → List (Nat × Frame), ∀ k ∈ (ic world).lanes,
      (world.ready wWord).framesFrom (req world k) 1 (frameFuel 0x20) 0x20 = .ok (fs k) ∧
      (world.ready wWord).entryPage 1 (heldEntries (fs k)) = none ∧
      ∃ l, (world.ready wWord).frameAt (req world k) 1 0x20 = .ok l ∧ segOf l.ret = 0) ∧
    world.hasWeft 1 = true ∧ 31 < (world.weft 1).lanes.length :=
  ⟨⟨fun _ => Frame.ofNat ((mkAddr 1 0).toNat + (mkAddr 2 0x20).toNat * 2 ^ 128), due_of (by decide +kernel), by decide +kernel⟩,
   by decide +kernel, by decide +kernel, by decide +kernel, by decide +kernel, due_all (by decide +kernel), ⟨fun _ => [(0x20, Frame.ofNat 0)], fun k hk => by
    rw [show (ic world).lanes = [0] by decide +kernel, List.mem_singleton] at hk
    subst hk
    exact ⟨by decide +kernel, by decide +kernel, Frame.ofNat 0, by decide +kernel⟩⟩, by decide +kernel, by decide +kernel⟩

/-- The header of the skein in segment 7, and its places. -/
def skQ : Nat × List Loc :=
  (2 ^ 63 + 2 ^ 32 + 2 ^ 16 + 2 ^ 8 + 0x20 * 2 ^ 64 + (2 ^ 48 + 0x20) * 2 ^ 160 * 2 ^ 160, (List.range 64).map (fun i => Loc.hbm (0x170000 + i) 1 0))

theorem witness_SkeinWords :
    let r := world.ready wWord
    let h := SkHdr.ofNat skQ.1
    (∀ i ∈ [Instr.cut c0 (cf 0 (.s 0) (.s 8) 0), .graft c0 (cf 0 (.s 8) (.v 0) 0), .drop c0 (cf 0 (.s 8) (.v 0) 0)], DueIn world i) ∧
    (ic world).lanes = [0] ∧ (ic world).awaits = false ∧ r.commitWaits (ic world).p.id = false ∧ (ic world).pz true (.s 0) 0 = false ∧
    (ic world).pz true (.s 8) 0 = false ∧
    r.skHeader (req world 0) 1 .skeinFree ((ic world).rd true (.s 8) 0) = .ok skQ ∧ skCheck skQ.1 1 ((ic world).rd true (.s 8) 0) = .ok h ∧
    SkHdr.ofNat (r.leAt skQ.2) = h ∧ h.state = 2 ∧ h.gip = 0 ∧
    ∃ z, r.check (req world 0) .skeinFree (mkAddr 7 0x40) 0 h.bytes 1 = .ok z :=
  ⟨due_all (by decide +kernel), by decide +kernel, by decide +kernel, by decide +kernel, by decide +kernel, by decide +kernel,
   by decide +kernel, by decide +kernel, by decide +kernel, by decide, by decide, pass_ex (by decide +kernel)⟩

/-! ### Memory words -/

/-- An M word's fields. -/
def mf (size : Size) (d a b : Opnd) (disp : BitVec 9) : MF := ⟨size, .none, .plain, d, a, b, disp⟩

/-- Bytes of the data page. -/
def dataLocs (off n : Nat) : List Loc := (List.range n).map (fun i => Loc.hbm (0x120000 + off + i) 1 0)
/-- The descriptor of the data segment. -/
def dData : Desc := parseDesc 0x1D00001000000000 0xFFFF 0 0x44000

/-- A weft with a load that has taken its four bytes, for v3 of lane 0. -/
def worldLoad : State := { world with wefts := [{ wWeft with
  loads := [⟨5, 4, 0, .ready, false, mkAddr 2 0x100, mkAddr 1 8, 0, (dataLocs 0x100 4).map (fun l => (l, some (7, false))), [(keyV 0 3, 0, 4)]⟩]
  pend := [⟨some 5, 0, 0, false, [(keyV 0 3, 0)], []⟩]
  tracks := [⟨4, 1, 1, []⟩] }] }

theorem witness_LoadWords :
    let r := world.ready wWord
    (∀ i ∈ [Instr.ld c0 (mf .b32 (.v 3) (.s 0) (.v 0) 0), .ld c0 (mf .b128 (.v 4) (.s 0) (.v 0) 0x1F0), .lds c0 (mf .b64 (.s 2) (.s 0) (.v 0) 0)],
      DueIn world i) ∧
    (ic world).awaits = false ∧ (ic world).lanes = [0] ∧ (ic world).pz true (.s 0) 0 = false ∧
    r.check (req world 0) .load ((ic world).rd true (.s 0) 0) 0 4 4 = .ok (dData, 2, 0x100, dataLocs 0x100 4) ∧
    r.check (req world 0) .load ((ic world).rd true (.s 0) 0) (-256) 16 16 = .ok (dData, 2, 0, dataLocs 0 16) ∧
    worldLoad.hasWeft 1 = true ∧ (∀ l ∈ (worldLoad.weft 1).loads, l.id < worldLoad.nextId) ∧
    ((worldLoad.weft 1).loads.map (fun l => l.id)).Nodup ∧
    (∃ l, l.plain = true ∧ worldLoad.settledAt l ∧ (∀ m ∈ dataLocs 0x100 4, Alike l m) ∧
      ∀ e ∈ (worldLoad.weft 1).loads, e.wait = .late → ∀ m ∈ e.locs, Alike l m) ∧
    (∀ q ∈ worldLoad.futs, q.2.kind ≠ .lookup 1 5) ∧
    ∃ ld p, (worldLoad.weft 1).loads.find? (fun l => l.id == 5) = some ld ∧ ld.wait = .ready ∧
      (worldLoad.weft 1).pend.find? (fun p => p.op == some 5) = some p ∧ (p.vals.map (·.1)).Nodup ∧ risesFrom 0 (worldLoad.weft 1).regs ∧
      ld.dst.find? (fun d => d.1 == keyV 0 3) = some (keyV 0 3, 0, 4) :=
  ⟨due_all (by decide +kernel), by decide +kernel, by decide +kernel, by decide +kernel, by decide +kernel, by decide +kernel, by decide +kernel,
   by decide +kernel, by decide +kernel, ⟨.host 0 5, by simp [Loc.plain, dataLocs, State.settledAt, Alike, worldLoad, world, wWeft, State.weft]⟩, by decide,
   _, _, rfl, by decide +kernel, rfl, by decide +kernel, by simp [risesFrom, worldLoad, world, wWeft, State.weft, Weft.at0, keyS], by decide +kernel⟩

theorem witness_StoreWords :
    let r := world.ready wWord
    let q := (dData, (2 : Seg), 0x100, dataLocs 0x100 8)
    (∀ i ∈ [Instr.st c0 (mf .b64 (.v 0) (.s 0) (.v 4) 0), .sts c0 (mf .b64 (.v 0) (.s 0) (.v 4) 0)], DueIn world i) ∧
    (ic world).awaits = false ∧ (ic world).lanes = [0] ∧ (ic world).pz true (.s 0) 0 = false ∧ q.2.2.2.length = 8 ∧
    r.check (req world 0) .store ((ic world).rd true (.s 0) 0) 0 8 8 = .ok q :=
  ⟨due_all (by decide +kernel), by decide +kernel, by decide +kernel, by decide +kernel, by decide, by decide +kernel⟩

/-- The machine with one entry in the weft's store queue, and the weft's load. -/
def worldSq (op : SqOp) : State := { worldLoad with wefts := [{ wWeft with
  sq := [⟨8, 0, false, 4, mkAddr 1 8, 0, 0, op⟩]
  tracks := [⟨4, 1, 2, []⟩]
  loads := [⟨5, 4, 0, .queue, false, mkAddr 2 0x100, mkAddr 1 8, 0, (dataLocs 0x100 4).map (fun l => (l, none)), [(keyV 0 3, 0, 4)]⟩] }] }

theorem witness_AtomicWords :
    let r := world.ready wWord
    let op := SqOp.atomic .add (dataLocs 0x100 4) 1 0 false 5 .none
    let s := worldSq op
    (∀ i ∈ [Instr.atomAdd c0 (mf .b32 (.v 3) (.s 0) (.v 4) 0), .atomMin c0 (mf .b32 (.v 3) (.s 0) (.v 4) 0),
      .atomMax c0 (mf .b32 (.v 3) (.s 0) (.v 4) 0), .atomAnd c0 (mf .b32 (.v 3) (.s 0) (.v 4) 0), .atomOr c0 (mf .b32 (.v 3) (.s 0) (.v 4) 0),
      .atomXor c0 (mf .b32 (.v 3) (.s 0) (.v 4) 0), .atomExch c0 (mf .b32 (.v 3) (.s 0) (.v 4) 0), .cas c0 (mf .b32 (.v 3) (.s 0) (.v 4) 0)],
      DueIn world i) ∧
    (ic world).awaits = false ∧ (ic world).lanes = [0] ∧ (ic world).pz true (.s 0) 0 = false ∧ dData.kind ≠ 2 ∧
    r.check (req world 0) .atomic ((ic world).rd true (.s 0) 0) 0 4 4 = .ok (dData, 2, 0x100, dataLocs 0x100 4) ∧
    s.hasWeft 1 = true ∧ (s.weft 1).sq = [⟨8, 0, false, 4, mkAddr 1 8, 0, 0, op⟩] ∧ (s.panel (s.weft 1).panel).launch.replay = false ∧
    s.bytesWait (s.weft 1) ⟨8, 0, false, 4, mkAddr 1 8, 0, 0, op⟩ (dataLocs 0x100 4) = false ∧ s.winBusy 0 (dataLocs 0x100 4) = false ∧
    (∀ l ∈ dataLocs 0x100 4, l.isRemote = false ∧ l ≠ .zero) ∧ s.padsOf (s.weft 1).panel (dataLocs 0x100 4) = [] :=
  ⟨due_all (by decide +kernel), by decide +kernel, by decide +kernel, by decide +kernel, by decide, by decide +kernel, by decide +kernel,
   by decide +kernel, by decide +kernel, by decide +kernel, by decide +kernel, by decide +kernel, by decide +kernel⟩

/-- A store at the head of a queue: to its own memory, through a window to another core's pad, and to another package. Places apart, of the
kinds that `Apart` tells apart. -/
theorem witness_StorePerforms :
    (∀ ws ∈ [wrs (dataLocs 0x100 8) (natLE 8 1), wrs [Loc.chip (padPa 1 0) true] [1], wrs [Loc.remote 1 0 0 1 0] [1]],
      let s := worldSq (.store ws .none)
      s.hasWeft 1 = true ∧ (s.weft 1).sq = [⟨8, 0, false, 4, mkAddr 1 8, 0, 0, .store ws .none⟩] ∧
      (s.panel (s.weft 1).panel).launch.replay = false ∧
      s.bytesWait (s.weft 1) ⟨8, 0, false, 4, mkAddr 1 8, 0, 0, .store ws .none⟩ (ws.map (·.loc)) = false) ∧
    (let ls := (wrs (dataLocs 0x100 8) (natLE 8 1)).map (·.loc)
     ls.any Loc.isWin = false ∧ (worldSq .await).winBusy 0 ls = false ∧ ls.any Loc.isRemote = false) ∧
    ((wrs [Loc.chip (padPa 1 0) true] [1]).map (·.loc)).any Loc.isWin = true ∧
    ((wrs [Loc.remote 1 0 0 1 0] [1]).map (·.loc)).any Loc.isWin = false ∧
    (worldSq .await).winBusy 0 ((wrs [Loc.remote 1 0 0 1 0] [1]).map (·.loc)) = false ∧
    ((wrs [Loc.remote 1 0 0 1 0] [1]).map (·.loc)).any Loc.isRemote = true ∧ world.mem.wf = true ∧
    let ws := wrs [Loc.hbm 0x120000 1 0, .hbm 0x120001 1 0, .hbm 0x120040 2 0, .chip (padPa 0 0) false, .host 0 5, .remote 1 0 0 1 0] (natLE 6 1)
    (∀ w ∈ ws, w.loc.plain = true ∧ world.settledAt w.loc) ∧ ws.Pairwise (fun u v => Apart u.loc v.loc) ∧
    Apart (.hbm 0x120002 1 0) (.hbm 0x120001 1 0) :=
  ⟨by decide +kernel, by decide, by decide, by decide, by decide, by decide, by decide +kernel, by
    simp [wrs, natLE, Loc.plain, State.settledAt, world, MemSt.reset, padPa, coreBlock, chipBase, padOff, coreDie, coreQuad, coreIdx, bitsOf, isReg, isPart, blockOff], by
    simp [wrs, natLE, Apart, List.pairwise_cons, padPa, coreBlock, chipBase, padOff, coreDie, coreQuad, coreIdx, bitsOf], by simp [Apart]⟩

theorem witness_FenceAndRangeWords :
    (∀ i ∈ [Instr.fence c0 ⟨.b8, .ln, .plain, .v 0, .v 0, .v 0, 0⟩, .fence c0 ⟨.b8, .pod, .plain, .v 0, .v 0, .v 0, 0⟩,
      .pref c0 (mf .b8 (.v 0) (.s 0) (.v 9) 0), .discard c0 (mf .b8 (.v 0) (.s 0) .zero 0)], DueIn world i) ∧
    (ic world).awaits = false ∧ (ic world).lanes = [0] ∧ (ic world).pz true (.s 0) 0 = false ∧ (ic world).pz false (.v 9) 0 = false ∧
    (ic world).pz true .zero 0 = false ∧
    ∃ ps, (world.ready wWord).discardCheck (ic world) 0 ((ic world).rd true (.s 0) 0) 0 (((ic world).rd true .zero 0).toNat % 2 ^ 40) = .ok ps :=
  ⟨due_all (by decide +kernel), by decide +kernel, by decide +kernel, by decide +kernel, by decide +kernel, by decide +kernel,
   pass_ex (by decide +kernel)⟩

/-! ### Binding and queue words -/

/-- An entry of the binding table in a state: its words and what they stand for. -/
def entryIn (e st : Nat) : Prop :=
  ∃ lo hi x, worldBt.entryWords 1 0x100 e = .ok (lo, hi) ∧ BEntry.parse lo hi = some x ∧ x.state = st

/-- The machine with a lookup's load that has taken its bytes, the name absent. -/
def worldLookup : State := { worldLoad with
  wefts := [{ wWeft with loads := [⟨5, 0, 0, .ready, false, mkAddr 2 0x100, mkAddr 1 8, 0, (dataLocs 0x100 64).map (fun l => (l, some (0, false))), []⟩] }]
  futs := [(0, ⟨1, .lookup 1 5, 1, none, 0, 0, 0, true, []⟩)] }

theorem witness_BindingEntries : entryIn 1 0 ∧ entryIn 2 1 ∧ entryIn 0 2 ∧ entryIn 3 2 ∧ entryIn 4 3 ∧ entryIn 5 4 :=
  ⟨⟨0, 0, ⟨0, 0, 0, 0, 0, 0, none⟩, by decide +kernel⟩, ⟨2 ^ 61, 0, ⟨1, 0, 0, 0, 0, 0, none⟩, by decide +kernel⟩,
   ⟨2 ^ 62 + 15 * 2 ^ 57 + 2 ^ 24, 0, bound0, by decide +kernel⟩, ⟨2 ^ 62 + 15 * 2 ^ 57 + 2 ^ 24, 2 ^ 48, { bound0 with hold := 1 }, by decide +kernel⟩,
   ⟨3 * 2 ^ 61 + 15 * 2 ^ 57 + 2 ^ 24, 2 ^ 48, { bound0 with state := 3, hold := 1 }, by decide +kernel⟩,
   ⟨2 ^ 63 + 5 * 2 ^ 48, 0, ⟨4, 0, 5, 0, 0, 0, none⟩, by decide +kernel⟩⟩

theorem witness_BindingWords :
    let r := worldBt.ready wWord
    let x := ic worldBt
    (∀ i ∈ [Instr.bind c0 (mf .b64 (.v 0) (.s 16) (.s 18) 0), .unbind c0 (mf .b64 (.v 0) (.s 16) (.v 0) 0),
      .lookup c0 (mf .b64 (.v 0) (.s 0) (.v 0) 0), .segrd c0 ⟨.b64, .v 4, .v 0, 0⟩], DueIn worldBt i) ∧
    x.pz true (.s 16) x.agent = false ∧ x.pz true (.s 18) x.agent = false ∧ x.pz true (.s 0) x.agent = false ∧ x.awaits = false ∧
    r.selectEntry x (x.rd true (.s 16) x.agent).toNat = .ok (1, 0x100) ∧ (∃ z, r.entryWords 1 0x100 1 = .ok z) ∧ r.commitWaits 1 = false ∧
    r.futureHeld x 0 .bind = false ∧ r.futureHeld x 0 (.unbind 0) = false ∧ r.futureHeld x 0 (.lookup 1 0) = false ∧
    (bindOutcome (x.rd true (.s 18) x.agent).toNat).1 = 4 ∧ r.releaseWaits x .pkg = false ∧
    r.check (req worldBt 0) .load (x.rd true (.s 0) 0) 0 64 8 = .ok (dData, 2, 0x100, dataLocs 0x100 64) ∧
    r.slotToEntry 1 (r.moduleOf 0 1 1) 0 = .ok (0, 0x100, 0x400) ∧ r.entryAt 1 0x100 0 = .ok bound0 ∧
    worldLookup.hasWeft 1 = true ∧ (∃ ld, (worldLookup.weft 1).loads.find? (fun l => l.id == 5) = some ld ∧ ld.wait = .ready) ∧
    worldLookup.futs.filter (fun q => q.2.used && q.2.value.isNone && q.2.kind == .lookup 1 5) = worldLookup.futs :=
  ⟨due_all (by decide +kernel), by decide +kernel, by decide +kernel, by decide +kernel, by decide +kernel, by decide +kernel,
   ⟨(0, 0), by decide +kernel⟩, by decide +kernel, by decide +kernel, by decide +kernel, by decide +kernel, by decide +kernel,
   by decide +kernel, by decide +kernel, by decide +kernel, by decide +kernel, by decide +kernel, ⟨_, rfl, rfl⟩, by decide +kernel⟩

/-- A queue of two entries at the start of the pad share, empty; one of one entry at 0x100; a malformed one at 0x200. -/
def wMq : List Host.Cell := [(padPa 0 0 + 6, 0x10), (padPa 0 0 + 0x102, 0x1), (padPa 0 0 + 0x106, 0x10)]
/-- A live slot of context 1 with five credits, to the queue at the start of core 0's pad. -/
def wSlot : DWord := 0x8000000100000005
/-- A message on its way. -/
def wMsg : MqMsg := ⟨8, 0, List.replicate 64 (0, false), 1, 0, mkAddr 1 8, 0⟩

/-- The machine with the queues, the slot, an entry on its way and a credit. -/
def worldMq : State := { world with
  mem := { MemSt.reset with bytes := wTables ++ (wMq ++ wCode) }
  cores := [(0, { wCore with mqs := wSlot :: List.replicate 15 0, mqIn := [wMsg] })]
  credits := [⟨4, 0, 1, padPa 0 0, 1, 1⟩] }

theorem witness_MessageQueues :
    let r := worldMq.ready wWord
    let x := ic worldMq
    (∀ i ∈ [Instr.push c0 (mf .b8 (.v 0) (.v 0) (.v 32) 0), .pop c0 (mf .b8 (.v 16) (.s 10) (.v 4) 0)], DueIn worldMq i) ∧
    x.awaits = false ∧ x.w.sq = [] ∧ x.p.launch.replay = false ∧ r.commitWaits 1 = false ∧
    (r.mqs 0 0).getLsbD 63 = true ∧ mqsCtx (r.mqs 0 0) = 1 ∧ x.lanes.length ≤ mqsFree (r.mqs 0 0) ∧
    x.pz true (.s 10) 0 = false ∧ r.popCheck (req worldMq 0) (x.rd true (.s 10) 0) = .ok 0 ∧ r.popBlocked x.p 0 1 = false ∧
    (∃ q, r.check (req worldMq 0) .atomic (mkAddr segPAD 0) 0 8 64 = .ok q) ∧
    (∃ q, r.resolve (req worldMq 0) 2 0x100 = .ok q ∧ q.1.kind ≠ kPad) ∧
    (let bad := fun off => mqBad (r.padWord (padPa 0 0 + off)) (r.padWord (padPa 0 0 + off + 8)) off 0x4000
     bad 0 = false ∧ bad 0x100 = false ∧ bad 0x200 = true) ∧
    r.padWord (padPa 0 0) / 2 ^ 16 % 2 ^ 16 = r.padWord (padPa 0 0) % 2 ^ 16 ∧
    r.padWord (padPa 0 0 + 0x100) / 2 ^ 16 % 2 ^ 16 ≠ r.padWord (padPa 0 0 + 0x100) % 2 ^ 16 ∧
    risesFrom 0 worldMq.cores ∧ (0 : Nat) < ((r.core 0).mqs).length ∧ (r.core 0).mqIn.find? (fun m => m.slot == 0) = some wMsg ∧
    (r.weft 1).sq.any (fun e => e.op == .push 8) = false ∧ mqsCore (r.mqs 0 0) = 0 ∧ mqsOff (r.mqs 0 0) = 0 ∧ r.padOwner 0 0 = some wPanel ∧
    r.padOwner 0 0x4000 = none ∧ wPanel.ctx = 1 ∧
    r.credits.find? (fun k => k.id == 4 && !r.creditWaits k) = some ⟨4, 0, 1, padPa 0 0, 1, 1⟩ ∧
    r.panels.find? (fun p => p.id == 1) = some wPanel ∧ r.hasWeft 1 = true ∧ (r.weft 1).lanes.all (fun l => l.back.isNone) = true :=
  ⟨due_all (by decide +kernel), by decide +kernel, by decide +kernel, by decide +kernel, by decide +kernel, by decide +kernel,
   by decide +kernel, by decide +kernel, by decide +kernel, by decide +kernel, by decide +kernel, pass_ex (by decide +kernel),
   ⟨(dData, 2, 0x100), by decide +kernel⟩, by decide +kernel, by decide +kernel, by decide +kernel, by simp [risesFrom, worldMq], by decide +kernel, by decide +kernel,
   by decide +kernel, by decide +kernel, by decide +kernel, by decide +kernel, by decide +kernel, by decide +kernel, by decide +kernel,
   by decide +kernel, by decide +kernel, by decide +kernel⟩

/-- The machine with a unit's result, a window store, and accesses to and from another package on their way. -/
def worldWays : State := { world with
  wefts := [{ wWeft with pend := [⟨some 5, 0, 0, true, [(keyV 0 3, 7)], []⟩], tracks := [⟨5, 1, 1, []⟩, ⟨6, 2, 2, []⟩] }]
  wins := [⟨7, 0, 1, none, wrs [Loc.chip (padPa 1 0) true] [1], 6⟩]
  rems := [⟨8, 0, 1, none, 0, mkAddr 2 0, .store, wrs [Loc.remote 1 0 0 1 0] [1], 6, mkAddr 1 8, 0, none⟩]
  inRems := [⟨9, 0x44000, 0, 1, 0x100, some [1], none, 1, false⟩] }
/-- Its access from another package, its walk ended. -/
def worldIn (n : Nat) : State := { worldWays with walks := [⟨3, 0, [(InRem.who ⟨9, 0x44000, 0, 1, 0x100, some [1], none, 1, false⟩)], 0, 1, 0, 0, 0x44000, true, some n⟩] }

theorem witness_CompletionsAndWindows :
    let s := worldWays
    let q : InRem := ⟨9, 0x44000, 0, 1, 0x100, some [1], none, 1, false⟩
    s.unitResult (s.weft 1) 5 = true ∧ s.hasWeft 1 = true ∧
    (∃ p, (s.weft 1).pend.find? (fun p => p.op == some 5) = some p ∧ (p.vals.map (·.1)).Nodup) ∧ risesFrom 0 (s.weft 1).regs ∧
    (s.weft 1).tracks.find? (fun x => x.id == 5) = some ⟨5, 1, 1, []⟩ ∧ (s.weft 1).tracks.find? (fun x => x.id == 6) = some ⟨6, 2, 2, []⟩ ∧
    (∃ a, s.wins.find? (fun q => q.id == 7) = some a ∧ s.wins.find? (fun q => q.core == a.core) = some a ∧
      (∀ b ∈ a.bytes, s.tileBusy s.mwWrites b.loc = false ∧ s.absentAt b.loc = false) ∧
      s.padHolds (s.weft a.weft).panel (a.bytes.map (·.loc)) = none) ∧
    (s.panel 1).launch.replay = false ∧ (∀ p ∈ s.padsOf 1 [Loc.chip (padPa 1 0) true], p.launch.replay = false) ∧
    (∃ a, s.rems.find? (fun q => q.id == 8) = some a ∧ s.rems.find? (fun q => q.core == a.core) = some a) ∧
    (∃ ps, s.inboundLocs q 1 = .miss ps) ∧ (∃ f, (worldIn 1).inboundLocs q 1 = .fault f) ∧ ∃ ls, (worldIn 0).inboundLocs q 1 = .ok ls :=
  ⟨by decide +kernel, by decide +kernel, ⟨_, rfl, by decide +kernel⟩, by simp [risesFrom, worldWays, world, wWeft, State.weft, Weft.at0, keyS],
   by decide +kernel, by decide +kernel, ⟨_, rfl, rfl, by decide +kernel, by decide +kernel⟩, by decide +kernel, by decide +kernel,
   ⟨_, rfl, rfl⟩, miss_ex (by decide +kernel), fail_ex (by decide +kernel), pass_ex (by decide +kernel)⟩

/-- A walk for segment 2, of a page that is mapped and of one that is not. -/
def wWalk (page : Nat) (granted : Bool) : Walk := ⟨3, 0, [0], 1, 2, page, 0, 0x44000, granted, none⟩
/-- A copy that is stalled. -/
def wCopy : CopyCmd := ⟨8, 1, 1, 0, false, mkAddr 2 0x100, mkAddr 2 0, 64, 0, 0, false, none, none, none, none, false, none, none⟩

/-- The machine with walks, a subgroup that the die controller holds, and a copy. -/
def worldWalk (page : Nat) (granted : Bool) : State := { worldCold with
  walks := [wWalk page granted]
  cores := [(0, { wCore with tlbPage := [], copyQ := [[wCopy], [], [], []] })]
  wefts := [{ wWeft with
    lanes := { Lane.at0 with st := .parked (.fault 0) } :: List.replicate 31 { Lane.at0 with st := .exited }
    subs := ⟨1, 3, 0, [⟨mkAddr 2 0, .load, 1, 1, [(0, mkAddr 2 0)]⟩]⟩ :: List.replicate 3 Sub.free }] }

theorem witness_WalksAndPagers :
    let walk := fun (s : State) p => walkWith (s.walkerStep 0 (s.walkKey (wWalk p true))) 0x44000 (p * pageSize 0) 0
    (∀ p ∈ [0, 1], (worldWalk p true).walks.find? (fun w => w.id == 3 && w.die == 0 && w.granted && w.result.isNone) = some (wWalk p true)) ∧
    (∀ q ∈ (worldWalk 0 true).inRems, q.who ∉ [0]) ∧ walk (worldWalk 1 true) 1 = .error 1 ∧ walk (worldWalk 0 true) 0 = .ok (0x70200, 0x120003) ∧
    risesFrom 0 (worldWalk 0 true).cores ∧ (0 : Nat) ∈ (wWalk 0 true).reqs.map whoOf ∧
    (worldWalk 0 false).walkWaiters 0 = [0] ∧ (worldWalk 0 false).walksHeld 0 0 = 0 ∧
    (worldWalk 0 false).walks.find? (fun w => w.die == 0 && !w.granted && w.result.isNone && w.holder == 0) = some (wWalk 0 false) ∧
    world.walkStep 1 0x44000 false 0x1000 = .ok 0x62001 ∧ world.walkStep 1 0x62000 false 0x100 = .ok 0x70201 ∧
    world.walkStep 1 0x70200 true (2 ^ 16) = .ok 0x120003 ∧ world.walkStep 1 0x44008 true (2 ^ 30) = .error 1 ∧
    (worldWalk 0 true).hasWeft 1 = true ∧ ((worldWalk 0 true).weft 1).heldSub 0 = true ∧
    (((worldWalk 0 true).weft 1).subs.getD 0 Sub.free).lanes.getLsbD 0 = true ∧ (((worldWalk 0 true).weft 1).lane 0).trap = [] ∧
    (((worldWalk 0 true).weft 1).lane 0).pos ≠ .ending ∧ (((worldWalk 0 true).weft 1).lane 0).back = none ∧
    ((worldWalk 0 true).core 0).copyQ[0]? = some [wCopy] :=
  ⟨by decide +kernel, by decide +kernel, by decide +kernel, by decide +kernel, by simp [risesFrom, worldWalk], by decide +kernel,
   by decide +kernel, by decide +kernel, by decide +kernel, by decide +kernel, by decide +kernel, by decide +kernel, by decide +kernel,
   by decide +kernel, by decide +kernel, by decide +kernel, by decide +kernel, by decide +kernel, by decide +kernel, by decide +kernel⟩

/-! ### Matrix words -/

/-- An X word's fields. -/
def xf (td : BitVec 3) (a b : Opnd) : XF := ⟨.bfp8, 0, td, 0, 0, 0, 0, a, b⟩
/-- A panel with every tile. -/
def wTiles : Panel := { wPanel with launch := { wPanel.launch with acct := 8, partt := 4, padu := 16 }, amask := 0xFF, pmask := 0xF }
/-- A word in the matrix order. -/
def wMat (id : Nat) (k : MKind) (started ended : Bool) : MWord :=
  ⟨id, 1, 1, 1, 0, false, mkAddr 1 8, k, xf 0 (.s 10) (.s 10), mkAddr segPAD 0, 0, 0, 0, [0], 4, 0, 0, started, false, false, ended, none, none,
    none, false⟩
/-- The machine with words in the matrix order of core 0. -/
def worldMat (ms : List MWord) : State := { world with panels := [wTiles], cores := [(0, { wCore with morder := ms })] }

theorem witness_MatrixWords :
    let s := worldMat []
    let r := s.ready wWord
    let x := ic s
    let pad := xf 0 (.s 10) (.s 10)
    let far := xf 0 (.s 20) (.v 0)
    (∀ i ∈ [Instr.bload c0 pad, .bclr c0 (xf 0 (.v 0) (.v 0)), .mmaW c0 pad, .mmaQ c0 pad, .mmaS c0 pad, .align c0 pad,
      .sacc c0 (xf 0 (.v 0) (.s 10)), .tld c0 far, .tst c0 far, .tzero c0 (xf 7 (.v 0) (.v 0)), .pld c0 far, .pst c0 far,
      .pzero c0 (xf 3 (.v 0) (.v 0))], DueIn s i) ∧
    (∀ k ∈ [MKind.bload, .bclr, .mmaW, .mmaQ, .mmaS, .align, .sacc, .tld, .tst, .tzero, .pld, .pst, .pzero],
      (∀ n ∈ accNames k pad, n < x.p.launch.acct) ∧ ∀ n ∈ partNames k pad, n < x.p.launch.partt) ∧
    x.awaits = false ∧ x.pz true (.s 10) x.agent = false ∧ x.pz true (.s 20) x.agent = false ∧
    (gangCores x.w.core 0).map (r.partner x.p) = [x.p].map some ∧ r.descWaits x (x.addr (.s 10) x.agent) [x.p] = false ∧
    r.commitWaits 1 = false ∧
    (∀ k ∈ [MKind.bload, .mmaW, .mmaQ, .mmaS, .align], ∃ v, r.matCheck x k pad (x.addr (.s 10) 0) (x.addr (.s 10) 0) [x.p] = .ok v) ∧
    (∃ v, r.matCheck x .sacc pad 0 (x.addr (.s 10) 0) [x.p] = .ok v) ∧
    (∀ k ∈ [MKind.tld, .tst, .pld, .pst], ∃ v, r.matCheck x k far (x.addr (.s 20) 0) 0 [x.p] = .ok v) ∧
    risesFrom 0 s.cores ∧ x.p.core < 1024 := by
  refine ⟨due_all (by decide +kernel), by decide +kernel, by decide +kernel, by decide +kernel, by decide +kernel, by decide +kernel,
    by decide +kernel, by decide +kernel, fun k hk => ?_, pass_ex (by decide +kernel), fun k hk => ?_, by simp [risesFrom, worldMat],
    by decide +kernel⟩ <;> simp only [List.mem_cons, List.not_mem_nil, or_false] at hk
  · rcases hk with rfl | rfl | rfl | rfl | rfl <;> exact pass_ex (by decide +kernel)
  · rcases hk with rfl | rfl | rfl | rfl <;> exact pass_ex (by decide +kernel)

theorem witness_MatrixSteps :
    (∀ k ∈ [MKind.bclr, .tzero, .mmaW, .bload], let s := worldMat [wMat 8 k false false]
      s.mword 0 8 = some (wMat 8 k false false) ∧ s.mwReady 0 (wMat 8 k false false) = true) ∧
    (∀ k ∈ [MKind.bclr, .tzero, .bload], let s := worldMat [wMat 8 k true false]
      s.mword 0 8 = some (wMat 8 k true false) ∧ s.mwSteppable 0 (wMat 8 k true false) = true ∧
      (∀ t ∈ s.mwTouches 0 (wMat 8 k true false), (s.tag 0 t).owner = 0 ∨ (s.tag 0 t).owner = 1)) ∧
    (worldMat [wMat 8 .bload true false]).mem.wf = true ∧ (wMat 8 .bload true false).members = [0] ∧
    (0 : Nat) < (wCore.beams).length ∧ wTiles.accTile 0 = some 0 ∧
    (let m := wMat 8 .bclr true true
     m.started = true ∧ m.susp = false ∧ m.stall = none ∧ m.ended = true ∧ m.f.gm = 0 ∧ m.kind.queued = false) ∧
    risesFrom 0 (worldMat [wMat 8 .bclr true true]).cores ∧
    ∀ v ∈ [0x3F80, 0x0001], v < 2 ^ 16 ∧ v / 2 ^ 7 % 2 ^ 8 ≠ 255 :=
  ⟨by decide +kernel, by decide +kernel, by decide +kernel, by decide, by decide +kernel, by decide +kernel, by decide, by simp [risesFrom, worldMat], by decide⟩

/-! ### Engines, futures and barriers -/

/-- An E word's fields. -/
def ef (d a b : Opnd) : EF := ⟨1, 3, 0, .none, 0, false, false, d, a, b⟩
/-- An E word's fields at a barrier of quad scope, route tag 0. -/
def eb : EF := ⟨0, 0, 0, .quad, 0, false, false, .v 0, .v 0, .v 0⟩
/-- A future of kind copy with two parts. -/
def wFut (k : FutKind) (v : Option DWord) : Fut := ⟨1, k, 1, v, 2, 0, 0, true, []⟩
/-- The machine with a future in handle 3. -/
def worldFut (k : FutKind) (v : Option DWord) : State := { world with
  wefts := [{ wWeft with handles := wWeft.handles.set 3 (some ⟨1, 0, 0, 1⟩) }]
  futs := [(0, wFut k v)] }
/-- A copy from 0x0 to 0x100 of the data segment, with its ends. -/
def wCopyAt (len : Nat) : CopyCmd := { wCopy with len := len, ends := some ⟨dData, 2, 0, dData, 2, 0x100⟩ }
/-- The machine with commands in queue 0. -/
def worldCopy (cs : List CopyCmd) : State := { world with cores := [(0, { wCore with copyQ := [cs, [], [], []] })] }

theorem witness_EnginesAndFutures :
    let s := world.ready wWord
    let x := ic world
    (∀ i ∈ [Instr.copy c0 (ef (.s 0) (.s 2) (.v 4)), .qfence c0 ⟨0, 2, 0, .none, 0, false, false, .v 0, .v 0, .v 0⟩,
      .ftest c0 (ef (.v 3) (.v 0) (.v 0)), .fwait c0 (ef (.v 0) (.v 0) (.v 0)), .hget c0 (ef (.v 4) (.v 0) (.v 0)),
      .hgetRef c0 (ef (.v 4) (.v 0) (.v 0)), .hput c0 (ef (.v 0) (.s 0) (.v 0)), .fcancel c0 (ef (.v 0) (.v 0) (.v 0))], DueIn world i) ∧
    x.awaits = false ∧ s.futureHeld x 3 .copy = false ∧ x.pz true (.s 0) 0 = false ∧ x.pz true (.s 2) 0 = false ∧ x.pz false (.v 4) 0 = false ∧
    s.pending (x.w.handle x.sys x.agent 3) = false ∧ s.commitWaits 1 = false ∧
    DueIn (worldFut .copy none) (.fwait c0 (ef (.v 0) (.v 0) (.v 0))) ∧
    (∀ k ∈ [FutKind.copy, .unbind 4], let t := (worldFut k none).ready wWord
      t.pending ((ic (worldFut k none)).w.handle false 0 3) = true ∧ t.futOf ⟨1, 0, 0, 1⟩ = some (wFut k none) ∧ t.named ⟨1, 0, 0, 1⟩ = true) ∧
    risesFrom 0 (worldFut .copy none).futs ∧
    (∀ n ∈ [32, 64], let t := worldCopy [wCopyAt n]
      let c := wCopyAt n
      (t.core 0).copyQ.getD 0 [] = [c] ∧ (t.panel c.panel).life ≠ .halting ∧ t.cmdEnds (t.copyReq 0 c) c = .ok ⟨dData, 2, 0, dData, 2, 0x100⟩ ∧
      t.endLocs (t.copyReq 0 c) .load (dData, 2, 0) 0 32 = .ok (dataLocs 0 32) ∧
      t.endLocs (t.copyReq 0 c) .store (dData, 2, 0x100) 0 32 = .ok (dataLocs 0x100 32) ∧
      (∀ l ∈ dataLocs 0 32 ++ dataLocs 0x100 32, t.tileBusy t.mwWrites l = false) ∧ t.padsOf 1 (dataLocs 0x100 32) = []) ∧
    (let t := worldCopy [{ wCopy with cancel := true }]
     ((t.core 0).copyQ.getD 0 []).find? (fun k => k.cancel && k.fence.isNone) = some { wCopy with cancel := true }) ∧
    (∃ a, world.endOf (world.copyReq 0 wCopy) .load wCopy.src 0 64 = .ok a) ∧
    ∃ a, world.endOf (world.copyReq 0 wCopy) .store wCopy.dst 0 64 = .ok a :=
  ⟨due_all (by decide +kernel), by decide +kernel, by decide +kernel, by decide +kernel, by decide +kernel, by decide +kernel,
   by decide +kernel, by decide +kernel, due_of (by decide +kernel), by decide +kernel, by simp [risesFrom, worldFut], by decide +kernel,
   by decide +kernel, ⟨(dData, 2, 0), by decide +kernel⟩, ⟨(dData, 2, 0x100), by decide +kernel⟩⟩

/-- The machine with lane 0 arrived at the barrier, its completion decided or not. -/
def worldBar (decided : Bool) : State := { worldLane (fun l => { l with arrived := l.arrived.set 1 (some 0) }) with
  panels := [{ wPanel with bars := [BarRec.nil, ⟨true, 0, 0, 0, decided⟩] ++ List.replicate 7 BarRec.nil }] }

theorem witness_Barriers :
    let x := ic world
    let b := BarrierName.reed .quad 0 0 1
    (∀ i ∈ [Instr.arrive c0 eb, .bsync c0 eb, .bwait c0 eb], DueIn world i) ∧ x.p.isMember .quad 0 = true ∧ x.p.isMember .die 0 = false ∧
    (∀ k ∈ x.lanes, (x.w.lane k).arrived.getD 1 none ≠ some (x.p.phase 1)) ∧ x.w.loads = [] ∧ x.w.sq = [] ∧
    ((world.ready wWord).core 0).morder = [] ∧ (world.ready wWord).storesOut 0 = false ∧ (world.ready wWord).commitWaits 1 = false ∧
    ((worldBar false).barMembers b).filter (fun q => (q.1.bars.getD (recIdx b) BarRec.nil).decided) = [] ∧
    (worldBar false).phaseDone b = true ∧ world.phaseDone b = false ∧ recIdx b < wPanel.bars.length ∧
    ((worldBar true).barMembers b).filter (fun q => (q.1.bars.getD (recIdx b) BarRec.nil).decided) ≠ [] ∧
    (∀ q ∈ (worldBar true).barMembers b, q.1.launch.replay = false) ∧ (worldBar true).hasWeft 1 = true :=
  ⟨due_all (by decide +kernel), by decide +kernel, by decide +kernel, by decide +kernel, by decide +kernel, by decide +kernel, by decide +kernel,
   by decide +kernel, by decide +kernel, by decide +kernel, by decide +kernel, by decide +kernel, by decide +kernel, by decide +kernel,
   by decide +kernel, by decide +kernel⟩

/-! ### Tasks -/

theorem witness_TaskAndPostWords :
    let s := world.ready wWord
    let x := ic world
    (∀ i ∈ [Instr.enq c0 (ef (.v 0) (.s 2) (.v 32)), .dcinit c0 (ef (.v 0) (.s 4) (.v 6)), .dcadd c0 (ef (.v 3) (.s 4) (.v 6)),
      .deq c0 (ef (.v 16) (.s 2) (.v 0)), .npost c0 (ef (.v 0) (.s 0) (.v 0)), .nwait c0 (ef (.v 0) (.s 0) (.v 6))], DueIn world i) ∧
    x.awaits = false ∧ s.commitWaits 1 = false ∧ s.futureHeld x 3 .deq = false ∧ s.futureHeld x 3 .post = false ∧
    (∀ o ∈ [Opnd.s 0, .s 2, .s 4, .v 6], x.pz true o 0 = false) ∧ x.pz false (.v 6) 0 = false ∧ (∀ b ∈ x.group (.v 32) 0, b.2 = false) ∧
    (∃ q, s.check (req world 0) .dequeue (x.addr (.s 2) 0) 0 64 64 = .ok q) ∧
    s.check (req world 0) .load (x.addr (.s 0) 0) 0 8 8 = .ok (dData, 2, 0x100, dataLocs 0x100 8) ∧
    (∀ b ∈ (dataLocs 0x100 8).map (fun l => s.laneByte 1 l), b.2 = false) ∧
    (x.rd true (.v 6) 0).toNat ≤ leNat (((dataLocs 0x100 8).map (fun l => s.laneByte 1 l)).map (·.1)) ∧
    leNat (((dataLocs 0x100 8).map (fun l => s.laneByte 1 l)).map (·.1)) < (x.rd true (.s 14) 0).toNat :=
  ⟨due_all (by decide +kernel), by decide +kernel, by decide +kernel, by decide +kernel, by decide +kernel, by decide +kernel,
   by decide +kernel, by decide +kernel, pass_ex (by decide +kernel), by decide +kernel, by decide +kernel, by decide +kernel, by decide +kernel⟩

/-- The machine whose queue has a requester. -/
def worldDeq : State := { world with deqs := [⟨8, 1, 1, 0, 4, 1, ⟨1, 0, 0, 0⟩, 16⟩], ctxs := [{ wCtx with steal := [(0, 0, 4)] }] }

theorem witness_QueueAndCounterSteps :
    let r := req world 0
    world.counterAt r .counterAdd (mkAddr 5 0) = .ok (5, 0, ⟨0, 0xFFFF, 1⟩) ∧ world.counterAt r .counterSet (mkAddr 5 0) = .ok (5, 0, ⟨0, 0xFFFF, 1⟩) ∧
    (∃ q, world.tq 1 4 = .ok (some q) ∧ (q.tail + 65536 - q.head) % 65536 ≠ 2 ^ q.log2n ∧ (q.tail + 65536 - q.head) % 65536 ≠ 0 ∧
      (∃ old, world.recAt 1 4 (0x40 + 64 * (q.tail % 2 ^ q.log2n)) = .ok old) ∧
      ∃ bs, world.recAt 1 4 (0x40 + 64 * (q.head % 2 ^ q.log2n)) = .ok bs) ∧ world.tq 1 2 = .ok none ∧
    (∃ d, worldDeq.deqs.find? (fun e => e.ctx == 1 && e.seg == 4) = some d) ∧ worldDeq.schedules 0 = true ∧
    (∃ d, worldDeq.readDesc 1 4 = .ok d) :=
  ⟨by decide +kernel, by decide +kernel, ⟨TaskQ.ofWords 0x0110000000010000 0xFFFFFFFFFFFF, by decide +kernel, by decide, by decide,
   ⟨List.replicate 64 (0, false), by decide +kernel⟩, ⟨(natLE 64 ((mkAddr 1 0).toNat + 2 ^ 126 + 2 ^ 128 * 2 ^ 128 +
     (mkAddr 5 0).toNat * 2 ^ 192 + 2 ^ 188 * 2 ^ 188)).map (fun b => (b, false)), by decide +kernel⟩⟩, by decide +kernel, ⟨_, rfl⟩, by decide +kernel,
   ⟨parseDesc 0x8C00001000000000 0xFFFF 0 0x48000, by decide +kernel⟩⟩

/-! ### Network -/

/-- A post of 64 bytes from the data segment, with its payload's end. -/
def wPost : NetPost := ⟨8, 1, 1, 0, false, 1, natLE 64 (1 + 64 * 2 ^ 32 + (mkAddr 2 0).toNat * 2 ^ 64 + (mkAddr 2 0x100).toNat * 2 ^ 128),
  mkAddr 2 0, 0, false, none, none, 0, 0, none, false, false, some (dData, 2, 0)⟩
/-- A packet of it, as another package sends one. -/
def wPkt (psn : Word) : Packet := ⟨8, 0, 0, 0, psn, mkAddr 2 0x100, 8, 0, 0, 0, 0, 0, false, false, List.replicate 8 0⟩
/-- An open PDC with packet 5 in flight. -/
def wPdc : Pdc := ⟨9, 0, 1, 0, 7, [⟨5, wPkt 5, 8, 0⟩]⟩
/-- The machine with them, and what it has received of a sender. -/
def worldNet : State := { world with
  cores := [(0, { wCore with netQ := [[wPost], [], [], []] })]
  pdcs := [wPdc]
  rxPdcs := [⟨0, 8, [3], []⟩] }
/-- The same with the packet sent twice, its post gone. -/
def worldGone : State := { world with pdcs := [{ wPdc with unacked := [⟨5, wPkt 5, 8, 1⟩] }] }

theorem witness_NetworkEvents :
    let s := worldNet
    let w := wPost.req
    (s.core 0).netQ.getD 0 [] = [wPost] ∧ wPost.done = false ∧ wPost.cancel = false ∧ wPost.stall = none ∧
    (∃ pn ∈ s.panels, pn.id = wPost.panel ∧ pn.life ≠ .halting) ∧ w.mode ≠ 3 ∧ wPost.acked ≠ w.len ∧
    s.openPdc 0 1 w.epi = some (s, wPdc) ∧ wPdc.unacked.length < 512 ∧ s.postEnd (s.postReq 0 wPost) wPost = .ok (dData, 2, 0) ∧
    min (w.packet false) w.len = 64 ∧ s.endLocs (s.postReq 0 wPost) .load (dData, 2, 0) 0 64 = .ok (dataLocs 0 64) ∧
    (∀ l ∈ dataLocs 0 64, s.tileBusy s.mwWrites l = false) ∧ risesFrom 0 s.cores ∧
    s.pdcs.find? (fun d => d.id == 9 && d.die == 0) = some wPdc ∧ wPdc.unacked.find? (fun u => u.psn == 5) = some ⟨5, wPkt 5, 8, 0⟩ ∧
    (∃ u, worldGone.pdcs.find? (fun d => d.id == 9 && d.die == 0) = some u ∧ worldGone.postAt 8 = none) ∧
    (s.rxPdc 0 8).seen.contains 3 = true ∧ (s.rxPdc 0 8).seen.contains 4 = false ∧ (∃ x ∈ s.ctxs, x.id = 1) ∧ (wPkt 4).rctr = 0 ∧
    (∃ ls, s.rxCheck (rxReq 0 1) .store (mkAddr 2 0x100) 0 8 1 = .ok ls ∧ s.padsOf 0 ls = []) ∧ s.hasWeft 1 = true :=
  ⟨by decide +kernel, by decide, by decide, by decide, by decide +kernel, by decide +kernel, by decide +kernel, by decide +kernel, by decide,
   by decide +kernel, by decide +kernel, by decide +kernel, by decide +kernel, by simp [risesFrom, worldNet], by decide +kernel, by decide +kernel,
   ⟨_, rfl, by decide +kernel⟩, by decide +kernel, by decide +kernel, by decide +kernel, by decide, ⟨dataLocs 0x100 8, by decide +kernel⟩,
   by decide +kernel⟩

/-! ### System words and traps -/

/-- An S word's fields. -/
def sf (r : SReg) (d a : Opnd) : SF := ⟨r, d, a, 3⟩
/-- The machine with a debugger attached to context 1. -/
def worldDebug : State := { world with ctxs := [{ wCtx with debug := true }] }
/-- A shootdown of segment 2 of context 1, with nothing left to wait for. -/
def wShoot : Shoot := ⟨8, 1, 1, 2, 0, 0, 1, 4⟩
/-- The machine with it, and its word counted. -/
def worldShoot : State := { world with shoots := [wShoot], wefts := [{ wWeft with tracks := [⟨4, 1, 1, []⟩] }] }

theorem witness_SystemWords :
    let r := world.ready wWord
    let x := ic world
    (∀ i ∈ [Instr.sysr c0 (sf .picks (.v 4) (.v 0)), .trace c0 (sf .hmap (.v 0) (.s 0)), .brk c0 (sf .hmap (.v 0) (.v 0)),
      .chkerr c0 (sf .hmap (.v 4) (.v 0)), .publish c0 (sf .hmap (.v 0) (.s 0))], DueIn world i) ∧
    (∀ i ∈ [Instr.sysr c0 (sf .prio (.v 4) (.v 0)), .sysw c0 (sf .prio (.v 0) (.s 14)), .sysw c0 (sf .xinva (.v 0) (.s 0)),
      .xinvSeg c0 (sf .xinv (.v 0) (.s 14)), .xinvPages c0 (sf .xinv (.v 0) (.s 14)), .xinvCtx c0 (sf .xinv (.v 0) (.s 14))],
      DueIn worldSys i true) ∧
    (ic worldSys).pz true (.s 14) 0 = false ∧ sysBad .prio ((ic worldSys).rd true (.s 14) 0).toNat = false ∧
    sysBad .prio ((ic worldSys).rd true (.s 0) 0).toNat = true ∧ sysBad .xinv (2 ^ 60) = false ∧ sysBad .xinv (2 * 2 ^ 60 + 1) = false ∧
    sysBad .xinv (3 * 2 ^ 60) = false ∧ x.pz true (.s 0) x.agent = false ∧ (world.ctx 1).debug = false ∧ (worldDebug.ctx 1).debug = true ∧
    DueIn worldDebug (.brk c0 (sf .hmap (.v 0) (.v 0))) ∧ (world.core 0).trace.length < 64 ∧ x.w.loads = [] ∧
    (∀ k ∈ world.cores, ∀ m ∈ k.2.morder, m.weft ≠ 1) ∧ (∃ q ∈ world.ctxs, q.id = x.p.ctx) ∧
    x.awaits = false ∧ r.futureHeld x 3 .publish = false ∧ x.w.sq = [] ∧ r.storesOut 0 = false ∧
    r.check (req world 0) .load (x.addr (.s 0) 0) 0 64 8 = .ok (dData, 2, 0x100, dataLocs 0x100 64) ∧
    worldShoot.shoots.find? (fun k => k.id == 8) = some wShoot ∧ worldShoot.shootWaits wShoot = false :=
  ⟨due_all (by decide +kernel), due_all (by decide +kernel), by decide +kernel, by decide +kernel, by decide +kernel, by decide, by decide,
   by decide, by decide +kernel, by decide +kernel, by decide +kernel, due_of (by decide +kernel), by decide +kernel, by decide +kernel,
   by decide +kernel, by decide +kernel, by decide +kernel, by decide +kernel, by decide +kernel, by decide +kernel, by decide +kernel,
   by decide +kernel, by decide +kernel⟩

/-- Whether a publication's checks pass, and whether they reject it. -/
def pubOk : PubCheck → Bool
  | .ok _ _ _ _ => true
  | .wait _ | .ask _ | .reject _ => false

theorem witness_Publication :
    (∃ p, (worldPub (mkAddr 2 0)).pubs.find? (fun p => p.id == 8) = some p ∧ pubOk ((worldPub (mkAddr 2 0)).pubCheck p) = true) ∧
    (∃ p, (worldPub (mkAddr 2 8)).pubs.find? (fun p => p.id == 8) = some p ∧ (worldPub (mkAddr 2 8)).pubCheck p = .reject 1) ∧
    ((worldPub (mkAddr 2 0)).ctx 1).publo = 9 ∧ ((worldPub (mkAddr 2 0)).freeDesc 1 9).isSome = true ∧
    ((worldPub (mkAddr 2 0)).codeLocs 1 0x42000 1 16).isSome = true ∧ (worldPub (mkAddr 2 0)).freeDesc 1 2 = none :=
  ⟨⟨_, rfl, by decide +kernel⟩, ⟨_, rfl, rfl⟩, by decide +kernel, by decide +kernel, by decide +kernel, by decide +kernel⟩

theorem witness_TrapsAndReturn :
    let s := world
    let l := (s.weft 1).lane 0
    DueIn world (.trap c0 (sf .hmap (.v 0) (.v 0))) ∧ DueIn worldSys (.rett c0 (sf .hmap (.v 0) (.v 0))) true ∧
    (∀ k ∈ (ic worldSys).lanes, (worldSys.ready wWord).pending ((ic worldSys).w.lane k).hh = false) ∧
    s.hasWeft 1 = true ∧ (0 : Nat) < (s.weft 1).lanes.length ∧ l.sys = false ∧ (∀ z ∈ (s.weft 1).sq, z.awaits 0 0 = false) ∧
    s.trapEntry 1 (8 * FaultCode.limit.code) = (0, false) ∧ s.trapEntry 1 0x100 = (mkAddr 1 0, false) ∧
    s.procAt { s.reqNow 1 0 with sys := true } (mkAddr 1 0) true = .ok (16, 0x20) ∧ 16 ≤ (s.panel 1).alloc ∧
    (∃ q, s.check { s.reqNow 1 0 with sys := true, fb := 0 } .store (mkAddr segSTK l.sp) 0 0x60 8 = .ok q) ∧
    risesFrom 0 (s.weft 1).regs :=
  ⟨due_of (by decide +kernel), due_of (by decide +kernel), by decide +kernel, by decide +kernel, by decide +kernel, by decide +kernel,
   by decide +kernel, by decide +kernel, by decide +kernel, by decide +kernel, by decide +kernel, pass_ex (by decide +kernel),
   by simp [risesFrom, world, wWeft, State.weft, Weft.at0, keyS]⟩

/-! ### Scheduling and pre-emption -/

/-- The machine with entry 0 of die 0's launch-queue table, for the queue of segment 4. -/
def worldLq : State := { world with lqTab := [(0, 1, 4)] }
/-- Its queue's record. -/
def wRec : Nat := recNat ((natLE 64 ((mkAddr 1 0).toNat + 2 ^ 126 + 2 ^ 128 * 2 ^ 128 + (mkAddr 5 0).toNat * 2 ^ 192 +
  2 ^ 188 * 2 ^ 188)).map (fun b => (b, false)))
/-- A launch of one panel without a share, and the machine with it. -/
def wLaunch : Launch := { Launch.nil with id := 8, ctx := 1, panels := 1, entry := mkAddr 1 0 }
/-- The machine with it. -/
def worldLaunch : State := { world with launches := [wLaunch] }
/-- Whether a search found its cores. -/
def seated : Seat → Bool
  | .seated _ => true
  | .wait | .no => false

theorem seated_ex {q : State × Seat} (h : seated q.2 = true) : ∃ s1 as, q = (s1, .seated as) := by
  obtain ⟨s1, t⟩ := q; cases t <;> simp_all [seated]

/-- The machine whose lanes have all exited. -/
def worldExit : State := worldLane (fun l => { l with st := .exited })

theorem witness_LaunchesAndPanels :
    let s := worldLq
    s.schedules 0 = true ∧ lookupKey 0 s.lqTab = some (1, 4) ∧ s.lqBad.contains 0 = false ∧ (s.die 0).lqNext = 0 ∧ s.queueBusy 0 1 4 = false ∧
    (∃ q, s.lqQueue 0 1 4 = some q ∧ q.occ ≠ 0 ∧ q.ring q.head = 0x40) ∧
    s.recAt 1 4 0x40 = .ok ((natLE 64 wRec).map (fun b => (b, false))) ∧
    launchRefusal 1 0 0 none < 4 ∧ 4 ≤ launchRefusal 1 0 wRec none ∧ launchRefusal 1 0 wRec (some []) = 0 ∧
    (∃ args, s.launchArgs 0 1 0 = .ok args) ∧ (∃ f, s.launchArgs 0 1 (mkAddr 9 0) = .fault f) ∧
    (let t := worldLaunch
     byPrio (t.launches.filter (fun l => l.die == 0)) = [wLaunch] ∧ (∀ a ∈ t.aims, a.1 ≠ 8) ∧ t.nextSaved wLaunch = [] ∧
      wLaunch.next < wLaunch.panels ∧ t.blocksFor wLaunch wLaunch.nextIndexes.length = true ∧
      ∃ s1 as, t.seatSets wLaunch (wLaunch.nextIndexes.map (fun _ _ => [])) (t.searchSets wLaunch) = (s1, .seated as)) ∧
    (let t := worldExit
     let s1 := t.modPanel 1 (fun q => { q with life := .ending })
     (∃ q ∈ t.panels, q.id = 1) ∧ t.panelExited 1 = true ∧ (t.panel 1).life ≠ .halting ∧ t.deqs = [] ∧ s1.commitWaits 1 = false ∧
      s1.retired (t.panel 1) = true) :=
  ⟨by decide +kernel, by decide +kernel, by decide +kernel, by decide +kernel, by decide +kernel,
   ⟨TaskQ.ofWords 0x0110000000010000 0xFFFFFFFFFFFF, by decide +kernel⟩, by decide +kernel, by decide +kernel, by decide +kernel,
   by decide +kernel, pass_ex (by decide +kernel), fail_ex (by decide +kernel),
   ⟨by decide +kernel, by decide +kernel, by decide +kernel, by decide, by decide +kernel, seated_ex (by decide +kernel)⟩, by decide +kernel⟩

/-- The machine before a slot. -/
def worldIdle : State := { world with cur := none }
/-- Core 0 as it chooses in it. -/
def worldSlot : State :=
  let s1 := (worldIdle.beginSlot 0).haltRecords 0
  (s1.coreWefts 0).foldl (fun y v => y.prepare (s1.core 0).slot v) s1

theorem witness_IssueSlots :
    worldIdle.coreWefts 5 = [] ∧ risesFrom 0 worldIdle.cores ∧ ((worldSlot.die 0).throttled = false) ∧
    ((worldSlot.chooseWeft 0 1).map (fun w => w.id) = some 1) ∧ worldSlot.chooseWeft 5 1 = none ∧
    (bestPath (worldSlot.readyPaths (worldSlot.weft 1) 1)).isSome = true ∧ (∀ c ∈ worldSlot.ctxs, c.debug = false) ∧
    (∀ k ∈ worldSlot.cores, k.2.trace.length ≤ 64) ∧ bestPath [] = none :=
  ⟨by decide +kernel, by simp [risesFrom, worldIdle, world], by decide +kernel, by decide +kernel, by decide +kernel, by decide +kernel,
   by decide +kernel, by decide +kernel, rfl⟩

/-- A panel of one weft without shares, which halts, and its context's save segment. -/
def worldHalt (life : PanelLife) : State := { world with
  panels := [{ wPanel with launch := { wPanel.launch with padu := 0, acct := 0, partt := 0, bud := 0 }, amask := 0, pmask := 0, life := life }]
  ctxs := [{ wCtx with saveSeg := 10, sbcnt := 1, wdog := 1 }]
  wefts := [{ wWeft with hang := 1024 }]
  gangs := [⟨1, 2, 0⟩] }
/-- Whether a write of save blocks succeeds. -/
def isOk {α : Type} : Except LFault α → Bool
  | .ok _ => true
  | .error _ => false

theorem ok_ex' {α : Type} {e : Except (LFault × CtxId) α} (h : (match e with | .ok _ => true | .error _ => false) = true) : ∃ a, e = .ok a := by
  cases e <;> simp_all

theorem err_ex {α : Type} {e : Except (LFault × CtxId) α} (h : (match e with | .ok _ => true | .error _ => false) = false) :
    ∃ f c, e = .error (f, c) := by
  rcases e with ⟨f, c⟩ | a
  · exact ⟨f, c, rfl⟩
  · simp at h

theorem ok_ex {α : Type} {e : Except LFault α} (h : isOk e = true) : ∃ a, e = .ok a := by cases e <;> simp_all [isOk]

/-- The panel, saved. -/
def wSaved : Saved := ⟨8, { wPanel with life := .halting }, 0, [wWeft], [], [], [], [], [], []⟩
/-- The machine with it. -/
def worldSaved : State := { world with panels := [], wefts := [], saved := [wSaved] }

theorem witness_PreemptionEvents :
    ((worldHalt .running).panel 1).life = .running ∧ (worldHalt .running).savable ((worldHalt .running).panel 1) = true ∧
    (let s := worldHalt .halting
     let ps := s.groupOf (s.panel 1)
     let s1 := ps.foldl (fun y q => y.calm q) s
     s.deqs = [] ∧ ps ≠ [] ∧ (∀ q ∈ ps, q.life = .halting ∧ (s.die (coreDie q.core)).tripped = false ∧ s.commitWaits q.id = false ∧
       s.quiet q = true) ∧
      (s1.pickBlocks (ps.map (fun q => s1.panel q.id)) []).map (fun ks => ks.map (fun q => q.2)) = some [0] ∧
      (∃ t, s1.writeBlocks [(s1.panel 1, 0)] = .ok t) ∧
      s.gangs[0]? = some ⟨1, 2, 0⟩ ∧ (0 : DWord).toNat ≤ s.time ∧ (∀ p ∈ s.panels, p.launch.gang = 1 → p.life ≠ .running) ∧ s.saved = [] ∧
      s.hasWeft 1 = true ∧ (s.ctx 1).wdog ≠ 0 ∧ 1024 * (s.ctx 1).wdog ≤ (s.weft 1).hang) ∧
    worldSaved.saved.find? (fun v => v.id == 8) = some wSaved :=
  ⟨by decide +kernel, by decide +kernel, ⟨by decide +kernel, by decide +kernel, by decide +kernel, by decide +kernel, ok_ex (by decide +kernel),
   by decide +kernel, by decide +kernel, by decide +kernel, by decide +kernel, by decide +kernel, by decide +kernel, by decide +kernel⟩,
   by decide +kernel⟩

/-! ### Reliability -/

/-- A checkpoint. -/
def wCkpt (valid : Bool) : Ckpt := ⟨[wWeft], [], [], 5, valid⟩
/-- A REPLAY panel, its checkpoint, its attempt; its weft's lane has a checked word. -/
def worldRep (valid : Bool) (attempt : Nat) (life : PanelLife) : State :=
  { worldLane (fun l => { l with shadow := some (mkAddr 1 8, 0x3F800000) }) with
    panels := [{ wPanel with launch := { wPanel.launch with replay := true }, ckpt := some (wCkpt valid), attempt := attempt, life := life }] }
/-- A tile of context 2, of another function, before a word of context 1 that touches it. -/
def worldOwn : State := { worldMat [{ wMat 8 .tzero true false with susp := true }] with
  cores := [(0, { wCore with morder := [{ wMat 8 .tzero true false with susp := true }], tags := CoreSt.reset.tags.set 0 ⟨2, 0, 0, 0⟩ })]
  ctxs := [wCtx, { Ctx.nil 2 with func := 1 }] }
/-- Whether a spill succeeds. -/
def spilled : Spill → Bool
  | .ok _ => true
  | .page _ | .fail => false

theorem spilled_ex {x : Spill} (h : spilled x = true) : ∃ s, x = .ok s := by cases x <;> simp_all [spilled]

theorem witness_ErrorsAndRollback :
    (let s := worldRep true 0 .running
     (s.panel 1).launch.replay = true ∧ s.beamBusy 1 = false ∧ (s.panel 1).attempt < 3 ∧ (s.panel 1).ckpt = some (wCkpt true) ∧
      (∃ q ∈ s.panels, q.id = 1) ∧ s.hasWeft 1 = true ∧ (wCkpt true).wefts.find? (fun x => x.id == 1) = some wWeft ∧ s.futs = [] ∧ s.lates = [] ∧
      s.shadowBad 1 0 0x3F800000 = false ∧ s.shadowBad 1 0 0xBF800000 = true ∧ ((s.weft 1).lane 0).st ≠ .exited ∧
      ((s.weft 1).lane 0).shadow = some (mkAddr 1 8, 0x3F800000) ∧ s.padOwner 0 0 = some (s.panel 1) ∧ s.padOwner 0 0x4000 = none ∧
      s.mem.poison = [] ∧ (0 : Nat) < (s.weft 1).lanes.length) ∧
    ((worldRep true 0 .halting).panel 1).life ≠ .running ∧
    (((worldRep false 0 .running).panel 1).ckpt = some (wCkpt false)) ∧
    ((worldRep true 3 .running).panel ((worldRep true 3 .running).weft 1).panel).attempt = 3 ∧
    (let m := wMat 8 .mmaW true false
     (worldMat [m]).mword 0 8 = some m ∧ m.started = true ∧ m.ended = false ∧ m.beamR ≠ []) ∧
    (let s := worldOwn
     let m : MWord := { wMat 8 .tzero true false with susp := true }
     s.cores.find? (fun k => k.2.morder.any (fun m => m.id == 8 && m.susp)) = some (0, s.core 0) ∧ s.mword 0 8 = some m ∧
      (s.mwTouches 0 m).find? (fun t => (s.tag 0 t).owner != 0 && (s.tag 0 t).owner != m.ctx) = some 0 ∧
      (s.ctx (s.tag 0 0).owner).func ≠ (s.ctx m.ctx).func ∧ (s.die 0).restarting = false ∧ ∃ s1, s.spillTile 0 0 = .ok s1) :=
  ⟨by decide +kernel, by decide +kernel, by decide +kernel, by decide +kernel, by decide +kernel,
   ⟨by decide +kernel, by decide +kernel, by decide +kernel, by decide +kernel, by decide +kernel, spilled_ex (by decide +kernel)⟩⟩

/-- The machine with quad 5 of die 0 drained, and key 2 draining. -/
def worldQuad (spares : Nat) : State := { worldHalt .halting with
  dies := State.reset.dies.map (fun d => { d with drained := [5], spares := spares })
  keys := [(1, (.live, 1)), (2, (.draining, 1))] }

theorem witness_ServiceEvents :
    let s := worldQuad 2
    s.boot = 7 ∧ (∀ p ∈ s.panels, p.core ∉ quadCores 0 5) ∧ (∀ c ∈ quadCores 0 5, ∀ t < 12, (s.tag c t).owner = 0) ∧
    s.panels.filter (fun p => (quadCores 0 0).contains p.core) = s.panels ∧ s.panels ≠ [] ∧ (∀ p ∈ s.panels, (s.panel p.id).life ≠ .running) ∧
    s.quadEmpty 0 5 = true ∧ 8 ≤ goodCount 0xFFFF ∧ goodCount 0x7F < 8 ∧ 0 < (s.die 0).spares ∧ ((worldQuad 0).die 0).spares = 0 ∧
    s.mem.rows.contains (0, 0) = false ∧ (∀ d ∈ s.dies, d.restarting = false) ∧ (s.key 5).1 = .empty ∧ (s.key 1).1 = .live ∧
    (s.key 2).1 = .draining ∧ s.keyBusy 2 = false := by decide +kernel

/-! ### Host, power and debug -/

/-- The machine with a launch queue of context 1 and one of another function's context, an aperture onto segment 2, an event ring, and a
translation asked for and one held. -/
def worldHost : State := { world with
  lqTab := [(0, 1, 4), (1, 2, 4)]
  ctxs := [wCtx, { wCtx with id := 2, func := 1 }]
  fns := State.reset.fns.set 0 ⟨0x1000, 7, 0, [], 0, 0x0000020000000001⟩
  atsWait := [(8, 0, 0, 5)]
  dies := State.reset.dies.set 0 { DieSt.reset with ats := [(0, 6, some 9)] } }

theorem witness_HostAndPowerEvents :
    let s := worldHost
    s.barOpen 0 = true ∧ lookupKey 0 s.lqTab = some (1, 4) ∧ (∃ q, s.lqQueue 0 1 4 = some q ∧ (1 + 65536 - q.head) % 65536 ≤ 2 ^ q.log2n) ∧
    lookupKey 1 s.lqTab = some (2, 4) ∧ (s.lqQueue 0 2 4).isSome = true ∧ (s.ctx 2).func ≠ 0 ∧ (s.ctx 1).func = 0 ∧
    (∃ c ∈ s.ctxs, c.id = 1) ∧ segOf 0x0000020000000001 ≠ 0 ∧ (∃ ls, s.aperture 0 .store 0x100 8 = .ok ls) ∧
    (∃ ls, s.aperture 0 .load 0x100 8 = .ok ls) ∧ (∃ f c, s.aperture 0 .store 0x10000 8 = .error (f, c)) ∧
    s.atsWait.find? (fun e => e.1 == 8) = some (8, 0, 0, 5) ∧
    (∀ e ∈ (s.die 0).ats, e.2.1 = 6 → ∀ g, e.2.2 = some g → s.hostPending 0 e.1 g = false) ∧
    (let f := s.fn 0
     f.ring ≠ 0 ∧ f.held = [] ∧ (f.evTail + 2 ^ 32 - f.evCtl.toNat / 2 ^ 32) % 2 ^ 32 < f.ring ∧ 0 < s.fns.length ∧ f.evDrops = 0) ∧
    (s.fn 1).ring = 0 ∧ s.hasWeft 1 = true ∧ (∃ p ∈ s.panels, p.id = (s.weft 1).panel ∧ coreDie p.core = 0) ∧ 0 < s.dies.length ∧
    s.boot = 7 ∧ (∀ d ∈ s.dies, d.restarting = false) ∧ ({ s with boot := 3 } : State).boot ≠ 7 := by
  refine ⟨by decide +kernel, by decide, ⟨TaskQ.ofWords 0x0110000000010000 0xFFFFFFFFFFFF, by decide +kernel⟩, by decide, by decide +kernel,
    by decide +kernel, by decide +kernel, by decide +kernel, by decide, ok_ex' (by decide +kernel), ok_ex' (by decide +kernel), ?_,
    by decide +kernel, fun e he h6 g hg => ?_, by decide +kernel, by decide +kernel, by decide +kernel, by decide +kernel, by decide +kernel,
    by decide +kernel, by decide +kernel, by decide⟩
  · exact err_ex (by decide +kernel)
  · rw [show (worldHost.die 0).ats = [(0, 6, some 9)] by decide +kernel, List.mem_singleton] at he
    subst he; cases hg; decide +kernel

/-- A lane that is stopped, and one that is to take an UNBOUND after its release. -/
def worldStop (trap : List (LFault × DWord)) : State := worldLane (fun l => { l with st := .stopped ⟨.limit, 1, 0, 0, 0⟩, pos := .resume, trap := trap })
/-- A trace record of context 1. -/
def wTrace : List Byte := natLE 64 (2 ^ 200 * 2 ^ 200)
/-- The machine with it, its context's ring in segment 8, a debugger attached and the weft halted. -/
def worldTrace : State := { world with
  cores := [(0, { wCore with trace := [wTrace] })]
  ctxs := [{ wCtx with ring := 8, debug := true }]
  wefts := [{ wWeft with halted := true }] }

theorem witness_SoftwareAndDebugEvents :
    (∀ t ∈ [[], [((⟨.unbound, 0, 0, 0, 0⟩ : LFault), mkAddr 1 8)]], let s := worldStop t
      let l := (s.weft 1).lane 0
      l.isStopped = true ∧ l.pos ≠ .ending ∧ (s.weft 1).inSub 0 = false ∧ (s.panel (s.weft 1).panel).launch.replay = false ∧
      (t = [] → l.binds = []) ∧ s.framesFrom (s.reqNow 1 0) 1 (frameFuel l.fb.toNat) l.fb.toNat = .ok [(0x20, Frame.ofNat 0)]) ∧
    (let s := worldTrace
     (s.core 0).trace = [wTrace] ∧ (s.die 0).restarting = false ∧ s.ringHeader 1 = some (4, 0) ∧
      (∃ q, s.deviceLocs 1 .store 8 (0x40 + 64 * (0 % 2 ^ 4)) 64 = .ok q) ∧ (∃ x ∈ s.ctxs, x.id = 1) ∧ (s.ctx (s.weftCtx 1)).debug = true ∧
      s.hasWeft 1 = true ∧ (s.weft 1).halted = true ∧ (s.weft 1).step = 0) ∧
    bpReserved true 1 = false ∧ bpReserved false 1 = false ∧ (1 : BitVec 512).toNat / 2 % (2 ^ 200 * 2 ^ 95) = 0 :=
  ⟨by decide +kernel, ⟨by decide +kernel, by decide +kernel, by decide +kernel, ok_ex (by decide +kernel), by decide +kernel, by decide +kernel,
   by decide +kernel, by decide +kernel, by decide +kernel⟩, by decide +kernel, by decide +kernel, by decide +kernel⟩

/-! ### The whole machine -/

/-- The machine with words chosen: the `enter` at offset 8, and one in no clause's place. -/
def worldChosen (off : Off) : State := { world with cur := none, slot := [{ wWord with pc := mkAddr 1 off }] }

theorem witness_StepRuns :
    (decodeHeader (world.fetchWord 0 1 1 0)).isSome = true ∧
    (∃ i, decodeWord 4 true (world.fetchWord 0 1 1 8) = .ok i ∧ ∀ c f, i = .sysw c f → f.sreg ≠ .xinv) ∧
    decodeWord 4 false (world.fetchWord 0 1 1 0x10) = .error .place ∧ decodeWord 5 true 0xF804101100418000 = .ok (.sysw ⟨0, false, 1⟩ ⟨.xinv, .v 0, .s 6, 0⟩) ∧
    (worldChosen 8).slot ≠ [] ∧ world.slot = [] ∧ world.agenda = [] :=
  ⟨by decide +kernel, ⟨.enter ⟨0, false, 0⟩ 0 0x20, by decide +kernel, by simp⟩, by decide +kernel, by decide +kernel, by decide +kernel, by decide +kernel,
   by decide +kernel⟩

theorem witness_StepKeepsInv :
    let s : State := { world with cur := none, agenda := [.holdoverReport] }
    s.Inv ∧ ∃ t, step s = .next t :=
  ⟨show _ = true by decide +kernel, _, rfl⟩

theorem witness_EncodingRoundTrip : ∀ q ∈ major00 ++ major3E, q.2.wellFormed = true ∧ q.2.view ≠ .event ∧ encode q.2 = some (BitVec.ofNat 64 q.1) := by
  decide +kernel

theorem witness_ReservedEncodings :
    decodeHeader 0xFC20000000000000 = some ⟨0, 4, 0, false, 0⟩ ∧ decodeWord 0 false 0x3800000000000000 = .error .major ∧
    decodeWord 0 false 0x0000A00000000000 = .error .sub ∧ decodeWord 1 false 0 = .error .place ∧ decodeWord 0 false (13 <<< 50) = .error .field := by
  decide +kernel

/-- The machine whose weft's flag 1 is full. -/
def worldFull : State := { world with wefts := [{ wWeft with flags := [0, 63] ++ List.replicate 11 0 }] }

theorem witness_IssueChecks :
    (Instr.mmaW c0 { xf 0 (.s 10) (.v 0) with gm := 2 }).view.gmBad (coreIdx (ic world).w.core) = true ∧
    (Instr.intAdd c0 (v3 .i32 (.v 1) (.v 2) (.v 20) (.v 0))).view.overBudget (ic worldSmall).p.alloc = true ∧ (ic worldSmall).lanes ≠ [] ∧
    (ic world).sys = false ∧ 63 ≤ (ic worldFull).w.flag 1 ∧ (ic worldFull).lanes ≠ [] ∧ worldFull.cur = some wWord ∧ wWord.late = none := by
  decide +kernel

end Sys2Proof.Tests
end

section
/-! SUPPORT. The access checks of R26: what the number of a segment resolves to, the ladder of checks of a segment with a descriptor,
and the Fetch class for a target (O22). -/
namespace Sys2Proof.Proofs
open Sys2Proof Sys2Proof.Machine

/-! ### The descriptor of an access -/

/-- A fault without an address takes the address as issued; PAGE alone is rebuilt from it. -/
theorem at_of_addr_eq_zero {f : LFault} (a : DWord) (ha : f.addr = 0) (hc : f.code ≠ .page) : f.at a = { f with addr := a } := by
  simp [LFault.at, ha, hc]

theorem resolve_null {s : State} {r : Req} {seg : Seg} {off : Int} (h : seg.toNat = 0) :
    s.resolve r seg off = .error (segFault 1) := by
  simp [State.resolve, h]

theorem resolve_reserved {s : State} {r : Req} {seg : Seg} {off : Int} (hlo : 0xFFFFF0 ≤ seg.toNat) (hhi : seg.toNat ≤ 0xFFFFF9) :
    s.resolve r seg off = .error (segFault 2) := by
  have h0 : seg.toNat ≠ 0 := by omega
  simp only [State.resolve, if_neg h0, if_pos (And.intro hlo hhi)]

theorem resolve_ipad_of_program {s : State} {r : Req} {seg : Seg} {off : Int} (h : seg.toNat = 0xFFFFFA) (hr : r.sys = false) :
    s.resolve r seg off = .error ⟨.priv, 0, 0, 0, 0⟩ := by
  simp [State.resolve, h, hr]

/-- A number that is neither null, reserved nor contextual goes by its descriptor (R26). -/
theorem resolve_numbered {s : State} {r : Req} {seg : Seg} {off : Int} (hlo : 0 < seg.toNat) (hhi : seg.toNat < 0xFFFFF0) :
    s.resolve r seg off = (s.descFor r seg).bind fun d =>
      if d.sysOnly = true ∧ r.sys = false then .error ⟨.priv, 0, 0, 0, 0⟩ else .ok (d, seg, off) := by
  simp only [State.resolve]
  rw [if_neg (by omega), if_neg (by omega), if_neg (by omega), if_neg (by omega), if_neg (by omega), if_neg (by omega),
    if_neg (by omega)]
  cases s.descFor r seg <;> simp [Except.bind]

theorem checkTo_of_resolve_error {s : State} {r : Req} {cls : Cls} {a : DWord} {disp : Int} {size align : Nat} {watch : Bool} {f : LFault}
    (h : s.resolve r (segOf a) ((offOf a).toNat + disp) = .error f) :
    s.checkTo r cls a disp size align watch = .error (f.at a) := by
  simp [State.checkTo, h]

/-! ### The checks of a segment with a descriptor -/

/-- Only ACC and PART lie in tiles, so no other kind reaches the ACCOWN step (R26). -/
theorem foreignTile_of_descriptor {s : State} {r : Req} {kind off size : Nat} (h : kind < kPad) : s.foreignTile r kind off size = none := by
  have hacc : kind ≠ kAcc := (h.trans (by decide)).ne
  have hpart : kind ≠ kPart := (h.trans (by decide)).ne
  simp [State.foreignTile, State.tilesOf, hacc, hpart]

theorem top_of_descriptor {d : Desc} (h : d.kind < kPad) : d.top = d.limit := by
  simp [Desc.top, Nat.not_le.mpr h]

/-- R26 for a number with a descriptor, from the mode check on. -/
theorem checkTo_numbered {s : State} {r : Req} (cls : Cls) {a : DWord} {disp off : Int} (size align : Nat) {d : Desc}
    (hoff : (offOf a).toNat + disp = off) (hlo : 0 < (segOf a).toNat) (hhi : (segOf a).toNat < 0xFFFFF0)
    (hd : s.descFor r (segOf a) = .ok d) (hk : d.kind < kPad) :
    s.checkTo r cls a disp size align =
      if d.sysOnly = true ∧ r.sys = false then .error ⟨.priv, 0, a, 0, 0⟩
      else if cls.accepts r.sys d = false then .error ⟨.rights, 1, a, 0, 0⟩
      else if cls.granted d = false then .error ⟨.rights, 2, a, 0, 0⟩
      else if s.foreignWindow r d off.toNat size = true then .error ⟨.rights, 3, a, 0, 0⟩
      else if ¬ (align : Int) ∣ off then .error ⟨.align, 0, a, 0, 0⟩
      else if off < 0 ∨ 2 ^ 40 ≤ off then .error ⟨.limit, 2, a, 0, 0⟩
      else if (d.limit : Int) < off + size - 1 then .error ⟨.limit, 1, a, 0, 0⟩
      else if s.watched r cls (segOf a) off.toNat size = true then .error ⟨.watch, 0, a, 0, 0⟩
      else .ok (d, segOf a, off.toNat) := by
  subst hoff
  have hres := resolve_numbered (s := s) (r := r) (off := (offOf a).toNat + disp) hlo hhi
  simp only [hd, Except.bind] at hres
  by_cases hsys : d.sysOnly = true ∧ r.sys = false
  · rw [if_pos hsys] at hres
    rw [if_pos hsys, checkTo_of_resolve_error hres, at_of_addr_eq_zero a rfl (by simp)]
  · rw [if_neg hsys] at hres
    have hctx : ¬ 0xFFFFFA ≤ (segOf a).toNat := by omega
    rw [if_neg hsys]
    simp [State.checkTo, hres, hctx, hk, top_of_descriptor hk, foreignTile_of_descriptor hk]

theorem accepts_store {d : Desc} (sys : Bool) (hk : d.kind < kPad) :
    Cls.accepts .store sys d = (sys || decide (d.kind ∈ [1, 2, 3, 4, 6])) := by
  simp [Cls.accepts, Nat.not_le.mpr hk, Bool.or_assoc, beq_eq_decide]

theorem accepts_atomic {d : Desc} (sys : Bool) (hk : d.kind < kPad) :
    Cls.accepts .atomic sys d = decide (d.kind ∈ [1, 2, 3, 6] ∨ d.kind = 4 ∧ d.kspec % 8 = 1) := by
  rw [Bool.eq_iff_iff]
  simp [Cls.accepts, hk.ne, bitsOf, or_assoc, or_comm, or_left_comm]

/-! ### The Fetch class for a target -/

theorem checkFetch_of_fault {s : State} {r : Req} {t : DWord} {e : LFault} (h : s.check r .fetch t 0 8 8 = .fault e) :
    s.checkFetch r t = .fault e := by
  simp [State.checkFetch, h, Chk.bind]

theorem checkFetch_of_miss {s : State} {r : Req} {t : DWord} {p : List PageReq} (h : s.check r .fetch t 0 8 8 = .miss p) :
    s.checkFetch r t = .miss p := by
  simp [State.checkFetch, h, Chk.bind]

theorem residOf_isSome_iff {c : CoreSt} {x : CtxId} {seg : Seg} :
    (c.residOf x seg).isSome = true ↔ ∃ e ∈ c.resid, e.ctx = x ∧ e.seg = seg := by
  simp [CoreSt.residOf]

/-- A fault of R26's steps before the translation is the target's fault as it is. -/
theorem checkFetch_of_checkTo_error {s : State} {r : Req} {t : DWord} {f : LFault} (h : s.checkTo r .fetch t 0 8 8 = .error f)
    (hf : f.code ≠ .page) : s.checkFetch r t = .fault f :=
  checkFetch_of_fault (by simp [State.check, h, LFault.ofCls, hf])

/-- R30: with a size of 8 bytes, a target in executable code that the mode may reach is left with the alignment, the LIMIT and a
watchpoint. -/
theorem checkTo_fetch_of_code {s : State} {r : Req} {t : DWord} {d : Desc} (hlo : 0 < (segOf t).toNat) (hhi : (segOf t).toNat < 0xFFFFF0)
    (hd : s.descFor r (segOf t) = .ok d) (hkind : d.kind = 5) (hx : d.x = true) (hsys : d.sysOnly = true → r.sys = true) :
    s.checkTo r .fetch t 0 8 8 =
      if ¬ 8 ∣ (offOf t).toNat then .error ⟨.align, 0, t, 0, 0⟩
      else if d.limit < (offOf t).toNat + 7 then .error ⟨.limit, 1, t, 0, 0⟩
      else if s.watched r .fetch (segOf t) (offOf t).toNat 8 = true then .error ⟨.watch, 0, t, 0, 0⟩
      else .ok (d, segOf t, (offOf t).toNat) := by
  have hmode : ¬ (d.sysOnly = true ∧ r.sys = false) := fun h => by simp [hsys h.1] at h
  have haccepts : ¬ Cls.accepts .fetch r.sys d = false := by simp [Cls.accepts, hkind]
  have hgranted : ¬ Cls.granted .fetch d = false := by simp [Cls.granted, hx]
  have hwin : ¬ s.foreignWindow r d (offOf t).toNat 8 = true := by simp [State.foreignWindow, hkind]
  have hoff : (offOf t).toNat < 2 ^ 40 := (offOf t).isLt
  have hlim : ((d.limit : Int) < (offOf t).toNat + (8 : Nat) - 1) ↔ d.limit < (offOf t).toNat + 7 := by omega
  rw [checkTo_numbered .fetch 8 8 (Int.add_zero _) hlo hhi hd (hkind ▸ by decide), if_neg hmode, if_neg haccepts, if_neg hgranted,
    Int.toNat_natCast, if_neg hwin]
  simp only [Int.natCast_dvd_natCast, hlim]
  rw [if_neg (show ¬ (((offOf t).toNat : Int) < 0 ∨ 2 ^ 40 ≤ ((offOf t).toNat : Int)) by omega)]

/-! ### O22 -/

/-- Settles O22: the number picks the resolution, a descriptor's ladder of checks is `checkTo_numbered`, and the Fetch class runs
it with 8 bytes before it looks for the residency. -/
theorem accessChecks : Obligations.AccessChecks := by
  unfold Obligations.AccessChecks
  refine ⟨fun s r cls a disp size align => ⟨fun h => ?_, fun hlo hhi => ?_, fun h hr => ?_, fun hlo hhi => ⟨fun f hf => ?_, ?_⟩⟩,
    fun s r t => ⟨fun e => checkFetch_of_fault, fun p => checkFetch_of_miss, fun q hq => ?_, ?_⟩⟩
  · exact (checkTo_of_resolve_error (resolve_null h)).trans (by rw [segFault, at_of_addr_eq_zero a rfl (by simp)])
  · exact (checkTo_of_resolve_error (resolve_reserved hlo hhi)).trans (by rw [segFault, at_of_addr_eq_zero a rfl (by simp)])
  · exact (checkTo_of_resolve_error (resolve_ipad_of_program h hr)).trans (by rw [at_of_addr_eq_zero a rfl (by simp)])
  · exact checkTo_of_resolve_error (by rw [resolve_numbered hlo hhi, hf]; rfl)
  · intro d hd _ hkind kind right
    have hk : d.kind < kPad := Nat.lt_of_le_of_lt hkind (by decide)
    have hacc : kind = cls.accepts r.sys d := by
      cases cls
      case store => exact (accepts_store r.sys hk).symm
      case atomic => exact (accepts_atomic r.sys hk).symm
      all_goals simp [kind, Cls.accepts, bne, beq_eq_decide]
    have hright : right = cls.granted d := by cases cls <;> rfl
    rw [hacc, hright]
    exact checkTo_numbered cls size align rfl hlo hhi hd hk
  · simp only [State.checkFetch, hq, Chk.bind, residOf_isSome_iff]
  · intro d hlo hhi hd hkind hx hsys
    have hrun := checkTo_fetch_of_code hlo hhi hd hkind hx hsys
    refine ⟨fun hdvd => ?_, fun hdvd hlim => ?_⟩
    · exact checkFetch_of_checkTo_error (hrun.trans (if_pos hdvd)) (by simp)
    · rw [if_neg (not_not_intro hdvd), if_pos hlim] at hrun
      exact checkFetch_of_checkTo_error hrun (by simp)

end Sys2Proof.Proofs
end

section
/-! SUPPORT. Binding entries and the words that work on them: BIND and UNBIND by the state of an entry, the plan of a word that its agent
performs alone, the end of a LOOKUP, and a use of a BOUND slot (O34). -/
namespace Sys2Proof.Proofs
open Sys2Proof Sys2Proof.Machine

/-! ### BIND and UNBIND of an entry (R53) -/

/-- The outcome of a BIND's operand, field by field (R314): BOUND only where the operand is well formed and its segment can be bound. -/
theorem bindOutcome_eq (b : Nat) :
    let st := b / 2 ^ 61 % 8
    let seg := b / 2 ^ 24 % 2 ^ 24
    let reason := b / 2 ^ 48 % 2 ^ 8
    let bad := (st ≠ 2 ∧ st ≠ 4) ∨ b / 2 ^ 56 % 2 = 1 ∨ b % 2 ^ 8 ≠ 0
    let target := 0 < seg ∧ seg < 0xFFFFF0
    bindOutcome b = (if ¬ bad ∧ st = 2 ∧ target then 2 else 4, if ¬ bad ∧ st = 2 ∧ target then b / 2 ^ 57 % 16 else 0,
      if ¬ bad ∧ st = 2 ∧ target then seg else 0,
      if bad then 5 else if st = 2 then (if target then 0 else 8)
      else if (1 ≤ reason ∧ reason ≤ 8) ∨ 0x80 ≤ reason then reason else 5) := by
  intro st seg reason bad target
  have hmodel : bindOutcome b = if bad then (4, 0, 0, 5) else if st = 2 then (if target then (2, b / 2 ^ 57 % 16, seg, 0) else (4, 0, 0, 8))
      else (4, 0, 0, if (1 ≤ reason ∧ reason ≤ 8) ∨ 0x80 ≤ reason then reason else 5) := by
    simp [bindOutcome, bitsOf, bitAt, Nat.shiftRight_eq_div_pow, or_assoc, bad, st, target, seg, reason]
  rw [hmodel]
  by_cases hbad : bad
  · simp [hbad]
  · by_cases hst : st = 2
    · by_cases htarget : target <;> simp [hbad, hst, htarget]
    · simp [hbad, hst]

/-- A BIND of a well-formed entry succeeds in UNBOUND and BINDING under its CSEQ, and meets a conflict otherwise. -/
theorem bindEntry_of_parse {s : State} {c : CtxId} {eb e lo hi : Nat} {x : BEntry} (b : Nat) (hw : s.entryWords c eb e = .ok (lo, hi))
    (hx : BEntry.parse lo hi = some x) : s.bindEntry c eb e b =
      if (x.state = 0 ∨ x.state = 1) ∧ x.cseq = b / 2 ^ 8 % 2 ^ 16 then
        ((s.putEntry c eb e ⟨(bindOutcome b).1, (bindOutcome b).2.1, (bindOutcome b).2.2.2, (bindOutcome b).2.2.1, (x.cseq + 1) % 2 ^ 16,
          x.hold, none⟩).releaseWaiters c e, bindValue 0 ((x.cseq + 1) % 2 ^ 16))
      else (s, bindValue 2 x.cseq) := by
  simp [State.bindEntry, hw, hx, bitsOf, Nat.shiftRight_eq_div_pow]

/-- An UNBIND of a well-formed entry, by its state. -/
theorem unbindEntry_of_parse {s : State} {c : CtxId} {eb e lo hi : Nat} {x : BEntry} (hw : s.entryWords c eb e = .ok (lo, hi))
    (hx : BEntry.parse lo hi = some x) : s.unbindEntry c eb e =
      let q := (x.cseq + 1) % 2 ^ 16
      if x.state = 0 then (s, some (bindValue 0 x.cseq))
      else if x.state = 1 then (s, some (bindValue 1 x.cseq))
      else if x.state = 2 then
        if x.hold = 0 then (s.putEntry c eb e { x with state := 0, rights := 0, seg := 0, cseq := q }, some (bindValue 0 q))
        else (s.putEntry c eb e { x with state := 3 }, none)
      else if x.state = 3 then (s, none)
      else (s.putEntry c eb e { x with state := 0, reason := 0, cseq := q }, some (bindValue 0 q)) := by
  simp only [State.unbindEntry, hw, hx]
  rfl

/-! ### Words that the agent performs alone -/

/-- The agent is the lowest lane. -/
theorem agentOnly_eq {x : IC} (h : x.lanes ≠ []) : agentOnly x = [x.agent] := by
  obtain ⟨i, is, hi⟩ := List.exists_cons_of_ne_nil h
  simp [agentOnly, IC.agent, hi]

/-- The plan of a word of which the agent alone is checked, and passes: every lane goes on, and the agent's action is the effect. -/
theorem memPlan_agent {x : IC} {pz : Nat → Bool} {chk : Nat → Chk (State → State)} {g : State → State} (hl : x.lanes ≠ [])
    (hw : x.awaits = false) (hz : pz x.agent = false) (hc : chk x.agent = .ok g) :
    ∃ f, memPlan x (agentOnly x) pz chk = .part x.lanes f [] [] ∧ f x = g := by
  rw [agentOnly_eq hl]
  obtain ⟨f, hf, hg⟩ := memPlan_ok (ls := [x.agent]) (g := fun _ => g) hw (by simpa using hz) (by simpa using hc)
  exact ⟨f, hf, hg⟩

/-- A meaning all of whose lanes pass where there are any, as there are of a due word. -/
theorem performs_active {i : Instr} {p : Bool} {pre : State → IC → Prop} {plan : IC → State → Plan} {act : IC → State → State}
    (he : ∀ s, exec i s = runWord i.view p plan s)
    (hp : ∀ s x, x.lanes ≠ [] → pre s x → ∃ f, plan x s = .part x.lanes f [] [] ∧ f x = act x) : Performs i p pre act := by
  intro s sw x h hx
  obtain ⟨f, hf, ha⟩ := hp _ _ h.active hx
  refine ⟨_, (issued_issued h.reading.atWord i.view.common).ofAtWord, ?_⟩
  rw [he, runWord_part h hf, ha]
  rfl

/-- What a word does under a condition, it does under one that implies it, by any equal effect. -/
theorem performs_congr {i : Instr} {p : Bool} {pre pre' : State → IC → Prop} {act act' : IC → State → State} (h : Performs i p pre act)
    (hpre : ∀ s x, pre' s x → pre s x) (hact : ∀ x u, act x u = act' x u) : Performs i p pre' act' := by
  rw [← show act = act' from funext fun x => funext (hact x)]
  exact fun s sw x hd hx => h s sw x hd (hpre _ _ hx)

/-! ### Binding words (R312 to R317) -/

theorem bindTarget_of_select {s : State} {x : IC} {a e eb : Nat} (hs : s.selectEntry x a = .ok (e, eb))
    (hw : ∃ z, s.entryWords x.p.ctx eb e = .ok z) : s.bindTarget x a = .ok (e, eb) := by
  obtain ⟨z, hz⟩ := hw
  simp [State.bindTarget, hs, hz]

/-- When a binding word on entry `e` of the table at `eb` has nothing to wait for. -/
structure BindReady (f : MF) (k : FutKind) (pz rel : IC → Bool) (e eb : Nat) (s : State) (x : IC) : Prop where
  select : s.selectEntry x (x.rd true f.a x.agent).toNat = .ok (e, eb)
  words  : ∃ z, s.entryWords x.p.ctx eb e = .ok z
  commit : s.commitWaits x.p.id = false
  awaits : x.awaits = false
  clean  : pz x = false
  future : s.futureHeld x (handleOf f) k = false
  stores : rel x = true → s.releaseWaits x .pkg = false

/-- A binding word with nothing to wait for performs its operation for the lowest lane, as a commit point and, where it is one, a
release. -/
theorem bindWord_performs {i : Instr} {f : MF} {k : Nat → FutKind} {pz : IC → Nat → Bool} {rel : IC → Bool}
    {op : IC → Nat → Nat → State → State} (e eb : Nat) (he : ∀ s, exec i s = bindWord i.view f k pz rel op s) :
    Performs i false (BindReady f (k 0) (fun x => pz x x.agent) rel e eb) (fun x u =>
      let y := if rel x then u.spread x.w.core .pkg else u
      y.malformedAt x eb e (y.committed x.p.id (op x e eb))) := by
  refine performs_active he fun s x hl hx => ?_
  have ht := bindTarget_of_select hx.select hx.words
  have hrel : ¬ (rel x && s.releaseWaits x .pkg) = true := by
    cases hr : rel x
    · simp
    · simp [hx.stores hr]
  simp only [ht, hx.future, hx.commit, hx.clean, Bool.not_false, Bool.and_true, Bool.and_false, Bool.true_and, Bool.false_eq_true,
    if_false, if_neg hrel]
  exact memPlan_agent hl hx.awaits hx.clean rfl

theorem bind_performs (c : Common) (f : MF) (e eb : Nat) :
    Performs (.bind c f) false
      (BindReady f .bind (fun x => x.pz true f.a x.agent || x.pz true f.b x.agent)
        (fun x => (bindOutcome (x.rd true f.b x.agent).toNat).1 == 2) e eb)
      (fun x u =>
        let y := if (bindOutcome (x.rd true f.b x.agent).toNat).1 = 2 then u.spread x.w.core .pkg else u
        y.malformedAt x eb e (y.committed x.p.id (fun z =>
          let q := z.bindEntry x.p.ctx eb e (x.rd true f.b x.agent).toNat
          let m := q.1.makeFuture x (handleOf f) .bind 0
          m.1.finish m.2 q.2))) := by
  have hexec : ∀ s, exec (.bind c f) s = execBind c f s := fun _ => rfl
  simp only [execBind] at hexec
  have hword := bindWord_performs e eb hexec
  simp only [beq_iff_eq] at hword
  exact hword

theorem unbind_performs (c : Common) (f : MF) (e eb : Nat) :
    Performs (.unbind c f) false (BindReady f (.unbind 0) (fun x => x.pz true f.a x.agent) (fun _ => false) e eb)
      (fun x y => y.malformedAt x eb e (y.committed x.p.id (fun z =>
        let m := z.makeFuture x (handleOf f) (.unbind e) 0
        let q := m.1.unbindEntry x.p.ctx eb e
        match q.2 with
        | some v => q.1.finish m.2 v
        | none => q.1))) := by
  have hexec : ∀ s, exec (.unbind c f) s = execUnbind c f s := fun _ => rfl
  simp only [execUnbind] at hexec
  have hword := bindWord_performs e eb hexec
  simp only [Bool.false_eq_true, if_false] at hword
  exact hword

/-- A `lookup` whose handle is free and whose name can be read performs a load of the name for the lowest lane. -/
theorem lookup_performs (c : Common) (f : MF) (q : Desc × Seg × Nat × List Loc) :
    Performs (.lookup c f) false
      (fun s x => s.futureHeld x (handleOf f) (.lookup x.w.id 0) = false ∧ x.awaits = false ∧ x.pz true f.a x.agent = false ∧
        s.check (s.reqOf x.w.id x.agent) .load (x.rd true f.a x.agent) 0 64 8 = .ok q)
      (fun x y =>
        let m := y.makeFuture x (handleOf f) (.lookup x.w.id y.nextId) 0
        m.1.issueLoad { x with track := 0 } x.agent (x.rd true f.a x.agent) q.2.2.2 [] false) := by
  refine performs_active (fun s => rfl) fun s x hl ⟨hfut, hwait, hclean, hcheck⟩ => ?_
  rw [if_neg (by simp [hfut])]
  exact memPlan_agent hl hwait hclean (by simp only [IC.addr, hcheck, Chk.map, Chk.bind])

/-! ### The end of a LOOKUP (R316) -/

/-- The search of a load that one pending LOOKUP follows completes its future. -/
theorem endLookup_of_single {s : State} {w k : Nat} {ld : LoadRec} {u : Fut} (hw : s.hasWeft w = true)
    (hf : s.futs.filter (fun q => q.2.used && q.2.value.isNone && q.2.kind == .lookup w ld.id) = [(k, u)]) :
    s.endLookup w ld = s.completeFut ⟨u.ctx, k / Config.futuresPerDie, k % Config.futuresPerDie, u.gen⟩
      (s.lookupValue (s.reqOf w ld.lane) w (ld.bytes.map (fun b => (b.2.getD (0, false)).1))) := by
  simp only [State.endLookup, weft_id hw, hf, List.foldl_cons, List.foldl_nil]

theorem memoryAccessComplete_of_ready {s : State} {w id : Nat} {ld : LoadRec}
    (hl : (s.weft w).loads.find? (fun l => l.id == id) = some ld) (hr : ld.wait = .ready) :
    exec (.memoryAccessComplete w id) s = .next (s.endLoad w ld) := by
  show execMemoryAccessComplete w id s = _
  simp only [execMemoryAccessComplete, hl, hr]

/-! ### Uses of a BOUND slot (R45) -/

/-- A use of a slot whose entry is BOUND goes on with the entry. -/
theorem useSlot_of_bound {s : State} {x : IC} {slot e eb nb : Nat} {b : BEntry} (bound : Nat → BEntry → Plan) (hw : x.awaits = false)
    (hs : s.slotToEntry x.p.ctx (s.moduleOf x.w.core x.p.ctx (segOf x.pc)) slot = .ok (e, eb, nb))
    (he : s.entryAt x.p.ctx eb e = .ok b) (hb : b.state = 2) : s.useSlot x slot bound = bound e b := by
  simp [State.useSlot, hw, hs, he, hb]

/-- A due word that goes and writes flag-tracked values. -/
theorem runWord_tracked {s : State} {sw : SlotWord} {x : IC} {v : View} {plan : IC → State → Plan} {vs : List (Nat × DWord)}
    {pz : List Nat} (h : Due s sw x v false) (hp : plan x (s.ready sw) = .go (fun u => u.tracked x vs pz)) :
    ∃ t, runWord v false plan s = .next t ∧ Wrote (s.ready sw) t x v.common noMore vs pz := by
  refine ⟨_, runWord_go h hp, ?_⟩
  have hwrote := perform_tracked h.reading v.common vs pz noMore (e := id) (fun _ => rfl) (fun _ => rfl) (fun _ => rfl)
  simp only [mapLanes_noMore, modWeft_self] at hwrote
  exact hwrote

/-! ### O34 -/

/-- Settles O34: `bindEntry_of_parse` and `unbindEntry_of_parse` are the transitions, `bindWord_performs` and `lookup_performs` the words
that make a future, and `endLookup_of_single` the end of a search; `segrd` is a use of a BOUND slot. -/
theorem bindingWords : Obligations.BindingWords := by
  unfold Obligations.BindingWords
  refine ⟨fun s c eb e lo hi x hwords hparse => ⟨fun b => ?_, ?_⟩, ⟨?_, ?_, ?_⟩⟩
  · rw [bindEntry_of_parse b hwords hparse, bindOutcome_eq b]
    rfl
  · rw [unbindEntry_of_parse hwords hparse]
    refine ⟨fun h => ?_, fun h => ?_, fun h hh => ?_, fun h hh => ?_, fun h => ?_, fun h => ?_⟩ <;> simp [*, bindValue]
  · refine fun c f e eb => ⟨?_, ?_, lookup_performs c f⟩
    · refine performs_congr (bind_performs c f e eb) (fun s x hx => ?_) fun _ _ => rfl
      obtain ⟨⟨hselect, hwords, hcommit, hawaits, ha⟩, hfuture, hb, hstores⟩ := hx
      exact ⟨hselect, hwords, hcommit, hawaits, by simp [ha, hb], hfuture, fun h => hstores (by simpa using h)⟩
    · refine performs_congr (unbind_performs c f e eb) (fun s x hx => ?_) fun _ _ => rfl
      obtain ⟨⟨hselect, hwords, hcommit, hawaits, ha⟩, hfuture⟩ := hx
      exact ⟨hselect, hwords, hcommit, hawaits, ha, hfuture, fun h => absurd h (by simp)⟩
  · intro s w id ld k u hw hfind hready hfuts
    have hid : ld.id = id := by simpa using List.find?_some hfind
    subst hid
    rw [memoryAccessComplete_of_ready hfind hready, State.endLoad, endLookup_of_single hw hfuts]
  · intro c f s sw x e eb nb b hdue r hawaits hslot hentry hbound
    exact runWord_tracked hdue (useSlot_of_bound _ hawaits hslot hentry hbound)

end Sys2Proof.Proofs
end

section
/-! SUPPORT. The walker and the pager: the levels of a walk, the grant of its slot, its end at the cores that asked, the release of a
fault subgroup, and what the stop of a lane leaves of the others (O37). -/
namespace Sys2Proof.Proofs
open Sys2Proof Sys2Proof.Machine

/-! ### The tables (R64 to R68) -/

/-- A field of a number by its place value. -/
theorem bitsOf_eq_div_mod (x hi lo : Nat) : bitsOf x hi lo = x / 2 ^ lo % 2 ^ (hi + 1 - lo) := by
  rw [bitsOf, Nat.shiftRight_eq_div_pow]

theorem bitAt_zero_eq_false_iff (x : Nat) : bitAt x 0 = false ↔ x % 2 = 0 := by
  simp [bitAt]

/-- One table read: the first failure of the key, the read, the entry's presence and its form (R67, R68). -/
theorem walkStep_eq (s : State) (tkey pa : Nat) (leaf : Bool) (align : Nat) : s.walkStep tkey pa leaf align =
    if s.keyLive tkey = false then .error 6 else if s.tableErr pa = true then .error 4 else if s.hbmWord pa tkey % 2 = 0 then .error 1
    else if pteBad (s.hbmWord pa tkey) leaf align = true then .error 3 else .ok (s.hbmWord pa tkey) := by
  simp only [State.walkStep, Bool.not_eq_true', bitAt_zero_eq_false_iff]

/-- The table address that a non-leaf entry names (R65). -/
def tableOf (e : Nat) : Nat := e / 2 ^ 8 % 2 ^ 44 * 2 ^ 8

theorem bitsOf_table (e : Nat) : bitsOf e 51 8 * 256 = tableOf e := bitsOf_eq_div_mod e 51 8 ▸ rfl

/-- A walk as a chain of table reads, one at each level from the base down: the entry of the page's size class is the leaf (R64). -/
theorem walkWith_eq (step : Nat → Bool → Nat → Except Nat Nat) (base off pgsz : Nat) :
    let p2 := base + 8 * (off / 2 ^ 30 % 2 ^ 10)
    let p1 := fun e2 => tableOf e2 + 8 * (off / 2 ^ 21 % 2 ^ 9)
    let p0 := fun e1 => tableOf e1 + 8 * (off / 2 ^ 16 % 2 ^ 5)
    walkWith step base off pgsz = (step p2 (pgsz == 2) (if pgsz = 2 then 2 ^ 30 else 0x1000)).bind fun e2 =>
      if pgsz = 2 then .ok (p2, e2)
      else (step (p1 e2) (pgsz == 1) (if pgsz = 1 then 2 ^ 21 else 0x100)).bind fun e1 =>
        if pgsz = 1 then .ok (p1 e2, e1)
        else (step (p0 e1) true (2 ^ 16)).bind fun e0 => .ok (p0 e1, e0) := by
  intro p2 p1 p0
  have hp2 : base + 8 * bitsOf off 39 30 = p2 := by rw [bitsOf_eq_div_mod]
  have hp1 : ∀ e, bitsOf e 51 8 * 256 + 8 * bitsOf off 29 21 = p1 e := fun e => by rw [bitsOf_table, bitsOf_eq_div_mod]
  have hp0 : ∀ e, bitsOf e 51 8 * 256 + 8 * bitsOf off 20 16 = p0 e := fun e => by rw [bitsOf_table, bitsOf_eq_div_mod]
  have hsizes : pageSize 2 = 2 ^ 30 ∧ pageSize 1 = 2 ^ 21 ∧ pageSize 0 = 2 ^ 16 := by decide
  simp only [walkWith, hp2, hp1, hp0, hsizes, Except.bind]
  cases step p2 (pgsz == 2) (if pgsz = 2 then 2 ^ 30 else 0x1000) with
  | error r => rfl
  | ok e2 =>
    refine ite_congr rfl (fun _ => rfl) fun _ => ?_
    cases step (p1 e2) (pgsz == 1) (if pgsz = 1 then 2 ^ 21 else 0x100) with
    | error r => rfl
    | ok e1 =>
      refine ite_congr rfl (fun _ => rfl) fun _ => ?_
      cases step (p0 e1) true (2 ^ 16) <;> rfl

/-- A chain goes on with what its first step finds. -/
theorem bind_of_ok {ε α β : Type} {x : Except ε α} {a : α} {f : α → Except ε β} (h : x = .ok a) : x.bind f = f a := by
  rw [h]
  rfl

/-- A chain ends with the failure of its first step. -/
theorem bind_of_error {ε α β : Type} {x : Except ε α} {e : ε} {f : α → Except ε β} (h : x = .error e) : x.bind f = .error e := by
  rw [h]
  rfl

/-- A table read that the walker's cache cannot answer reads memory (R69). -/
theorem walkerStep_of_uncached {s : State} {die key pa : Nat} {leaf : Bool} {align : Nat}
    (h : leaf = true ∨ (s.die die).walkCache.find? (fun l => l.pa == pa && l.key == key) = none) :
    s.walkerStep die key pa leaf align = s.walkStep key pa leaf align := by
  have hnone : (if leaf then none else (s.die die).walkCache.find? (fun l => l.pa == pa && l.key == key)) = none := by
    rcases h with h | h <;> simp [h]
  simp only [State.walkerStep, hnone]

theorem walkerStep_of_cached {s : State} {die key pa : Nat} {align : Nat} {l : WalkLine}
    (h : (s.die die).walkCache.find? (fun l => l.pa == pa && l.key == key) = some l) :
    s.walkerStep die key pa false align =
      if s.keyLive key = false then .error 6 else if pteBad l.entry false align = true then .error 3 else .ok l.entry := by
  simp only [State.walkerStep, Bool.false_eq_true, if_false, h, Bool.not_eq_true']

/-! ### Slots of the walker (R71, R73) -/

/-- A grant marks the requester's oldest walk without a slot. -/
theorem grantTo_of_find {s : State} {die who : Nat} {w : Walk}
    (h : s.walks.find? (fun w => w.die == die && !w.granted && w.result.isNone && w.holder == who) = some w) :
    s.grantTo die who = { s with walks := s.walks.map (fun x => if x.id = w.id then { x with granted := true } else x) } := by
  simp only [State.grantTo, h]

/-- All that a change of the walks' slots leaves alone. -/
structure SlotFrame (s t : State) : Prop where
  mem   : t.mem = s.mem
  wefts : t.wefts = s.wefts
  cores : t.cores = s.cores
  walks : t.walks.map (fun x => { x with granted := false }) = s.walks.map (fun x => { x with granted := false })
  kept  : ∀ x ∈ s.walks, x.granted = true → ∃ y ∈ t.walks, y.id = x.id ∧ y.granted = true

theorem SlotFrame.refl (s : State) : SlotFrame s s := ⟨rfl, rfl, rfl, rfl, fun x hx hg => ⟨x, hx, rfl, hg⟩⟩

theorem SlotFrame.trans {s t u : State} (a : SlotFrame s t) (b : SlotFrame t u) : SlotFrame s u where
  mem := b.mem.trans a.mem
  wefts := b.wefts.trans a.wefts
  cores := b.cores.trans a.cores
  walks := b.walks.trans a.walks
  kept x hx hg := by
    obtain ⟨y, hy, hid, hyg⟩ := a.kept x hx hg
    obtain ⟨z, hz, hzid, hzg⟩ := b.kept y hy hyg
    exact ⟨z, hz, hzid.trans hid, hzg⟩

theorem grantTo_slotFrame (s : State) (die who : Nat) : SlotFrame s (s.grantTo die who) := by
  cases h : s.walks.find? (fun w => w.die == die && !w.granted && w.result.isNone && w.holder == who) with
  | none =>
    have hs : s.grantTo die who = s := by simp only [State.grantTo, h]
    rw [hs]
    exact SlotFrame.refl s
  | some w =>
    rw [grantTo_of_find h]
    refine ⟨rfl, rfl, rfl, ?_, fun x hx hg => ?_⟩
    · rw [List.map_map]
      refine List.map_congr_left fun x _ => ?_
      rw [Function.comp_apply]
      split <;> rfl
    · refine ⟨_, List.mem_map_of_mem hx, ?_⟩
      split <;> simp [hg]

/-- WALK_SLOT_GRANT: the reserved slots go out first, then at most one slot of the shared pool, to a requester in turn (R71). -/
theorem walkSlotGrant_frame (s : State) (die : Nat) :
    ∃ t, exec (.walkSlotGrant die) s = .next t ∧
      SlotFrame ((s.walkWaiters die).foldl (fun y k => if y.walksHeld die k < (slotsOf k).1 then y.grantTo die k else y) s) t := by
  show ∃ t, execWalkSlotGrant die s = .next t ∧ _
  unfold execWalkSlotGrant
  dsimp only
  split
  · exact ⟨_, rfl, SlotFrame.refl _⟩
  · split
    · exact ⟨_, rfl, SlotFrame.refl _⟩
    · obtain ⟨hmem, hwefts, hcores, hwalks, hkept⟩ := grantTo_slotFrame _ die _
      exact ⟨_, rfl, ⟨hmem, hwefts, hcores, hwalks, hkept⟩⟩

/-- Every requester has slots of its own. -/
theorem slotsOf_reserved_pos (who : Nat) : 0 < (slotsOf who).1 := by
  unfold slotsOf
  split
  · simp
  · split <;> simp

/-- The only requester that waits, which holds no slot, has its oldest walk granted (R71). -/
theorem walkSlotGrant_oldest {s : State} {die who : Nat} {w : Walk} (hwaiters : s.walkWaiters die = [who])
    (hheld : s.walksHeld die who = 0)
    (hfind : s.walks.find? (fun w => w.die == die && !w.granted && w.result.isNone && w.holder == who) = some w) :
    ∃ t, exec (.walkSlotGrant die) s = .next t ∧ t.mem = s.mem ∧ t.wefts = s.wefts ∧ t.cores = s.cores ∧
      (∃ x ∈ t.walks, x.id = w.id ∧ x.granted = true) ∧
      t.walks.map (fun x => { x with granted := false }) = s.walks.map (fun x => { x with granted := false }) := by
  obtain ⟨t, hexec, hrest⟩ := walkSlotGrant_frame s die
  rw [hwaiters, List.foldl_cons, List.foldl_nil, hheld, if_pos (slotsOf_reserved_pos who)] at hrest
  obtain ⟨hmem, hwefts, hcores, hwalks, -⟩ := (grantTo_slotFrame s die who).trans hrest
  refine ⟨t, hexec, hmem, hwefts, hcores, ?_, hwalks⟩
  have hgranted : { w with granted := true } ∈ (s.grantTo die who).walks := by
    rw [grantTo_of_find hfind]
    exact List.mem_map.mpr ⟨w, List.mem_of_find?_eq_some hfind, if_pos rfl⟩
  exact hrest.kept { w with granted := true } hgranted rfl

/-! ### Cores and their page caches (R69) -/

theorem core_modCore {s : State} (h : risesFrom 0 s.cores) (c k : Nat) (f : CoreSt → CoreSt) :
    (s.modCore c f).core k = if k = c then f (s.core c) else s.core k :=
  sget_sput h c k _

theorem risesFrom_modCore {s : State} (h : risesFrom 0 s.cores) (c : Nat) (f : CoreSt → CoreSt) : risesFrom 0 (s.modCore c f).cores :=
  risesFrom_sput h (Nat.zero_le c) _

/-! ### The miss queue (R72, R74) -/

/-- What the steps that queue walks keep of a state: memory, wefts, the chosen words, the walks that have ended, and the cores' page
caches. -/
structure MissFrame (s t : State) : Prop where
  mem   : t.mem = s.mem
  wefts : t.wefts = s.wefts
  slot  : t.slot = s.slot
  ended : ∀ x ∈ s.walks, x.result.isSome = true → x ∈ t.walks
  cache : risesFrom 0 s.cores → risesFrom 0 t.cores ∧ ∀ k, (t.core k).tlbPage = (s.core k).tlbPage

theorem MissFrame.refl (s : State) : MissFrame s s := ⟨rfl, rfl, rfl, fun _ hx _ => hx, fun h => ⟨h, fun _ => rfl⟩⟩

theorem MissFrame.trans {s t u : State} (a : MissFrame s t) (b : MissFrame t u) : MissFrame s u where
  mem := b.mem.trans a.mem
  wefts := b.wefts.trans a.wefts
  slot := b.slot.trans a.slot
  ended x hx hr := b.ended x (a.ended x hx hr) hr
  cache h := by
    obtain ⟨hrises, hlines⟩ := a.cache h
    obtain ⟨hrises', hlines'⟩ := b.cache hrises
    exact ⟨hrises', fun k => (hlines' k).trans (hlines k)⟩

theorem MissFrame.foldl {β : Type} {f : State → β → State} (h : ∀ y b, MissFrame y (f y b)) (l : List β) (s : State) :
    MissFrame s (l.foldl f s) := by
  induction l generalizing s with
  | nil => exact MissFrame.refl s
  | cons b l ih => exact (h s b).trans (ih _)

theorem askAts_missFrame (s : State) (die fn page : Nat) : MissFrame s (s.askAts die fn page) := by
  unfold State.askAts
  split <;> exact ⟨rfl, rfl, rfl, fun _ hx _ => hx, fun h => ⟨h, fun _ => rfl⟩⟩

/-- A page joins a walk in flight, so the walks that have ended stay as they are (R72). -/
theorem queueWalk_missFrame (s : State) (who die : Nat) (p : PageReq) : MissFrame s (s.queueWalk who die p) := by
  obtain ⟨c, seg, pg, sz, base⟩ := p
  simp only [State.queueWalk]
  split
  · exact askAts_missFrame s die base pg
  · split
    · refine ⟨rfl, rfl, rfl, fun x hx hr => List.mem_map.mpr ⟨x, hx, if_neg ?_⟩, fun h => ⟨h, fun _ => rfl⟩⟩
      simp [Option.isNone_eq_false_iff.mpr hr]
    · exact ⟨rfl, rfl, rfl, fun x hx _ => List.mem_append_left _ hx, fun h => ⟨h, fun _ => rfl⟩⟩

theorem modCore_missFrame {s : State} {c : Nat} {f : CoreSt → CoreSt} (hf : ∀ y, (f y).tlbPage = y.tlbPage) :
    MissFrame s (s.modCore c f) := by
  refine ⟨rfl, rfl, rfl, fun _ hx _ => hx, fun h => ⟨risesFrom_modCore h c f, fun k => ?_⟩⟩
  rw [core_modCore h]
  split
  · next hk => rw [hk, hf]
  · rfl

theorem enterMisses_missFrame (s : State) (core n : Nat) : MissFrame s (s.enterMisses core n) := by
  induction n generalizing s with
  | zero => exact MissFrame.refl s
  | succ n ih =>
    unfold State.enterMisses
    split
    · exact MissFrame.refl s
    · split
      · exact MissFrame.refl s
      · refine (MissFrame.trans ?_ (queueWalk_missFrame _ _ _ _)).trans (ih _)
        exact modCore_missFrame fun _ => rfl

/-! ### The end of a walk (R67, R72, R74) -/

/-- What the end of a walk at the cores that asked changes: their descriptor and page caches alone. -/
structure CacheFrame (s t : State) : Prop where
  mem    : t.mem = s.mem
  wefts  : t.wefts = s.wefts
  walks  : t.walks = s.walks
  lates  : t.lates = s.lates
  inRems : t.inRems = s.inRems
  rises  : risesFrom 0 s.cores → risesFrom 0 t.cores

theorem CacheFrame.refl (s : State) : CacheFrame s s := ⟨rfl, rfl, rfl, rfl, rfl, id⟩

theorem CacheFrame.trans {s t u : State} (a : CacheFrame s t) (b : CacheFrame t u) : CacheFrame s u :=
  ⟨b.mem.trans a.mem, b.wefts.trans a.wefts, b.walks.trans a.walks, b.lates.trans a.lates, b.inRems.trans a.inRems,
    fun h => b.rises (a.rises h)⟩

theorem CacheFrame.foldl {β : Type} {f : State → β → State} (h : ∀ y b, CacheFrame y (f y b)) (l : List β) (s : State) :
    CacheFrame s (l.foldl f s) := by
  induction l generalizing s with
  | nil => exact CacheFrame.refl s
  | cons b l ih => exact (h s b).trans (ih _)

theorem modCore_cacheFrame (s : State) (c : Nat) (f : CoreSt → CoreSt) : CacheFrame s (s.modCore c f) :=
  ⟨rfl, rfl, rfl, rfl, rfl, fun h => risesFrom_modCore h c f⟩

theorem cacheDesc_cacheFrame (s : State) (core : Nat) (c : CtxId) (seg : Seg) : CacheFrame s (s.cacheDesc core c seg) := by
  unfold State.cacheDesc
  split
  · exact CacheFrame.refl s
  · split
    · exact modCore_cacheFrame s _ _
    · exact CacheFrame.refl s

theorem cachePage_cacheFrame (s : State) (w : Walk) (leaf core : Nat) : CacheFrame s (s.cachePage w leaf core) := by
  unfold State.cachePage
  exact (cacheDesc_cacheFrame s core w.ctx w.seg).trans (modCore_cacheFrame _ _ _)

theorem cacheDesc_tlbPage {s : State} (h : risesFrom 0 s.cores) (core : Nat) (c : CtxId) (seg : Seg) (k : Nat) :
    ((s.cacheDesc core c seg).core k).tlbPage = (s.core k).tlbPage := by
  unfold State.cacheDesc
  split
  · rfl
  · split
    · rw [core_modCore h]
      split
      · next hk => rw [hk]
      · rfl
    · rfl

/-- The line of a page cache for the page of an ended walk (R69). -/
def walkLine (w : Walk) (leaf : Nat) : PageLine := ⟨w.ctx, w.seg, w.page, w.pgsz, w.base, BitVec.ofNat 64 leaf⟩

theorem line_mem_cachePage {s : State} (h : risesFrom 0 s.cores) (w : Walk) (leaf core : Nat) :
    walkLine w leaf ∈ ((s.cachePage w leaf core).core core).tlbPage := by
  unfold State.cachePage
  rw [core_modCore ((cacheDesc_cacheFrame s core w.ctx w.seg).rises h), if_pos rfl]
  exact List.mem_cons_self

/-- A line stands in its core's page cache while the same page enters others. -/
theorem line_mem_cachePage_of_mem {s : State} (h : risesFrom 0 s.cores) {w : Walk} {leaf core : Nat} (c : Nat)
    (hm : walkLine w leaf ∈ (s.core core).tlbPage) : walkLine w leaf ∈ ((s.cachePage w leaf c).core core).tlbPage := by
  by_cases hc : core = c
  · subst hc
    exact line_mem_cachePage h w leaf core
  · unfold State.cachePage
    rw [core_modCore ((cacheDesc_cacheFrame s c w.ctx w.seg).rises h), if_neg hc, cacheDesc_tlbPage h]
    exact hm

/-- A page that enters the caches of some cores stands in the cache of each. -/
theorem line_mem_cachePages {s : State} (h : risesFrom 0 s.cores) {w : Walk} {leaf core : Nat} (cs : List Nat)
    (hc : core ∈ cs ∨ walkLine w leaf ∈ (s.core core).tlbPage) :
    walkLine w leaf ∈ ((cs.foldl (fun y c => y.cachePage w leaf c) s).core core).tlbPage := by
  induction cs generalizing s with
  | nil => exact hc.resolve_left (List.not_mem_nil)
  | cons c cs ih =>
    refine ih ((cachePage_cacheFrame s w leaf c).rises h) ?_
    rcases hc with hc | hm
    · rcases List.mem_cons.mp hc with rfl | hc
      · exact .inr (line_mem_cachePage h w leaf _)
      · exact .inl hc
    · exact .inr (line_mem_cachePage_of_mem h c hm)

/-- The cores that asked for a walk. -/
def askers (w : Walk) : List Nat := ((w.reqs.map whoOf).filter (fun c => decide (c < 1024))).eraseDups

theorem mem_askers {w : Walk} {core : Nat} (h : core ∈ w.reqs.map whoOf) (hc : core < 1024) : core ∈ askers w := by
  rw [askers, List.mem_eraseDups]
  exact List.mem_filter.mpr ⟨h, decide_eq_true hc⟩

/-- What a walk finds with its die's cache (R64, R69). -/
def walkFound (s : State) (die : Nat) (w : Walk) : Except Nat (Nat × Nat) :=
  walkWith (s.walkerStep die (s.walkKey w)) w.base (w.page * pageSize w.pgsz) w.pgsz

/-- What a walk's requesters read of its end: 0, or the reason of its failure. -/
def walkReason : Except Nat (Nat × Nat) → Nat
  | .ok _ => 0
  | .error n => n

/-- The machine with what a walk has found in the caches of its die and of the cores that asked. -/
def walkCached (s : State) (die : Nat) (w : Walk) : State :=
  let s1 := s.modDie die (fun d => d.keepNodes (s.walkKey w) (w.ctx, w.seg)
    (walkNodes (s.walkerStep die (s.walkKey w)) w.base (w.page * pageSize w.pgsz) w.pgsz))
  match walkFound s die w with
  | .ok e => (askers w).foldl (fun y c => y.cachePage w e.2 c) s1
  | .error _ => s1

/-- The machine with a walk's result among the walks. -/
def walkEnded (s : State) (die : Nat) (w : Walk) : State :=
  { walkCached s die w with walks := (walkCached s die w).walks.map (fun x =>
      if x.id = w.id then { x with granted := false, result := some (walkReason (walkFound s die w)) } else x) }

theorem walkCached_cacheFrame (s : State) (die : Nat) (w : Walk) : CacheFrame s (walkCached s die w) := by
  unfold walkCached
  dsimp only
  split
  · next e _ =>
      refine CacheFrame.trans ?_ (CacheFrame.foldl (fun y c => cachePage_cacheFrame y w e.2 c) _ _)
      exact ⟨rfl, rfl, rfl, rfl, rfl, id⟩
  · exact ⟨rfl, rfl, rfl, rfl, rfl, id⟩

theorem id_of_find {s : State} {die id : Nat} {w : Walk}
    (h : s.walks.find? (fun w => w.id == id && w.die == die && w.granted && w.result.isNone) = some w) : w.id = id := by
  have hp := List.find?_some h
  simp only [Bool.and_eq_true, beq_iff_eq] at hp
  obtain ⟨⟨⟨hid, -⟩, -⟩, -⟩ := hp
  exact hid

/-- WALK_COMPLETE: the walk ends, what waited for it goes on, and pages that wait at its cores enter their miss queues (R72, R74). -/
theorem walkComplete_of_find {s : State} {die id : Nat} {w : Walk}
    (h : s.walks.find? (fun w => w.id == id && w.die == die && w.granted && w.result.isNone) = some w) :
    exec (.walkComplete die id) s = .next ((askers w).foldl (fun y c => y.enterMisses c (y.core c).missRest.length)
      ((walkEnded s die w).walkWakes w)) := by
  obtain rfl := id_of_find h
  show execWalkComplete die w.id s = _
  simp only [execWalkComplete, h, walkEnded, walkCached]
  cases hr : walkFound s die w <;> rw [walkFound] at hr <;> simp only [hr] <;> rfl

/-- The lanes that waited for a walk are chosen for their word again (R74). -/
def wokenBy (s : State) (w : Walk) : List SlotWord :=
  (s.lates.filter (fun q => w.reqs.contains (whoFor (s.weft q.weft).core q.track))).map (fun q =>
    ⟨q.weft, q.lanes, q.pc, q.hdr, q.slot, 0, 0, some q⟩)

/-- Where no access by another package waited, the end of a walk chooses words and does nothing else. -/
theorem walkWakes_of_local {s : State} {w : Walk} (h : ∀ q ∈ s.inRems, q.who ∉ w.reqs) :
    s.walkWakes w = { s with slot := s.slot ++ wokenBy s w } := by
  have hnone : s.inRems.filter (fun q => w.reqs.contains q.who) = [] := by simpa using h
  unfold State.walkWakes
  simp only [hnone, List.foldl_nil]
  rfl

/-- The end of a walk that no access by another package waited for. -/
theorem walkComplete_local {s : State} {die id : Nat} {w : Walk}
    (h : s.walks.find? (fun w => w.id == id && w.die == die && w.granted && w.result.isNone) = some w)
    (hr : ∀ q ∈ s.inRems, q.who ∉ w.reqs) :
    ∃ t, exec (.walkComplete die id) s = .next t ∧
      MissFrame { walkEnded s die w with slot := (walkEnded s die w).slot ++ wokenBy s w } t := by
  have hcached := walkCached_cacheFrame s die w
  have hwoken : wokenBy (walkEnded s die w) w = wokenBy s w := by
    have hl : (walkEnded s die w).lates = s.lates := hcached.lates
    have hw : ∀ v, (walkEnded s die w).weft v = s.weft v := weft_congr hcached.wefts
    simp only [wokenBy, hl, hw]
  have hlocal : ∀ q ∈ (walkEnded s die w).inRems, q.who ∉ w.reqs := by
    intro q hq
    exact hr q (hcached.inRems ▸ hq)
  refine ⟨_, walkComplete_of_find h, ?_⟩
  rw [walkWakes_of_local hlocal, hwoken]
  exact MissFrame.foldl (fun y c => enterMisses_missFrame y c _) _ _

/-- The ended walk stands among the walks with its result. -/
theorem walkEnded_mem {s : State} {die id : Nat} {w : Walk}
    (h : s.walks.find? (fun w => w.id == id && w.die == die && w.granted && w.result.isNone) = some w) :
    { w with granted := false, result := some (walkReason (walkFound s die w)) } ∈ (walkEnded s die w).walks := by
  refine List.mem_map.mpr ⟨w, ?_, if_pos rfl⟩
  rw [(walkCached_cacheFrame s die w).walks]
  exact List.mem_of_find?_eq_some h

/-- A page that a walk finds stands in the page cache of every core that asked (R69, R72). -/
theorem line_mem_walkCached {s : State} {die core : Nat} {w : Walk} {e : Nat × Nat} (hres : walkFound s die w = .ok e)
    (hcore : core ∈ w.reqs.map whoOf) (hlt : core < 1024) (hrises : risesFrom 0 s.cores) :
    walkLine w e.2 ∈ ((walkCached s die w).core core).tlbPage := by
  unfold walkCached
  simp only [hres]
  exact line_mem_cachePages (s := s.modDie die _) hrises (askers w) (.inl (mem_askers hcore hlt))

/-- A walk that fails: its requesters read the reason, and the lanes that waited for it are chosen again (R67, R72, R74). -/
theorem walkComplete_failed {s : State} {die id : Nat} {w : Walk}
    (h : s.walks.find? (fun w => w.id == id && w.die == die && w.granted && w.result.isNone) = some w)
    (hlocal : ∀ q ∈ s.inRems, q.who ∉ w.reqs) {r : Nat} (hres : walkFound s die w = .error r) :
    ∃ t, exec (.walkComplete die id) s = .next t ∧ t.mem = s.mem ∧ t.wefts = s.wefts ∧
      (∃ x ∈ t.walks, x.id = id ∧ x.reqs = w.reqs ∧ x.result = some r) ∧
      ∀ q ∈ s.lates, whoFor (s.weft q.weft).core q.track ∈ w.reqs →
        ∃ z ∈ t.slot, z.weft = q.weft ∧ z.pc = q.pc ∧ z.late = some q := by
  obtain ⟨t, hexec, hframe⟩ := walkComplete_local h hlocal
  have hcached := walkCached_cacheFrame s die w
  refine ⟨t, hexec, hframe.mem.trans hcached.mem, hframe.wefts.trans hcached.wefts, ?_, fun q hq hreq => ?_⟩
  · exact ⟨_, hframe.ended _ (walkEnded_mem h) rfl, (id_of_find h :), rfl, by simp only [hres, walkReason]⟩
  · refine ⟨⟨q.weft, q.lanes, q.pc, q.hdr, q.slot, 0, 0, some q⟩, ?_, rfl, rfl, rfl⟩
    rw [hframe.slot]
    refine List.mem_append_right _ (List.mem_map.mpr ⟨q, ?_, rfl⟩)
    exact List.mem_filter.mpr ⟨hq, by simpa using hreq⟩

/-- A walk that finds its page: it enters the page cache of every core that asked (R69, R72). -/
theorem walkComplete_found {s : State} {die id : Nat} {w : Walk}
    (h : s.walks.find? (fun w => w.id == id && w.die == die && w.granted && w.result.isNone) = some w)
    (hlocal : ∀ q ∈ s.inRems, q.who ∉ w.reqs) {e : Nat × Nat} {core : Nat} (hres : walkFound s die w = .ok e)
    (hcore : core ∈ w.reqs.map whoOf) (hlt : core < 1024) (hrises : risesFrom 0 s.cores) :
    ∃ t, exec (.walkComplete die id) s = .next t ∧ t.mem = s.mem ∧ t.wefts = s.wefts ∧
      ∃ l ∈ (t.core core).tlbPage, l.ctx = w.ctx ∧ l.seg = w.seg ∧ l.page = w.page ∧ l.pgsz = w.pgsz ∧ l.base = w.base ∧
        l.leaf = BitVec.ofNat 64 e.2 := by
  obtain ⟨t, hexec, hframe⟩ := walkComplete_local h hlocal
  have hcached := walkCached_cacheFrame s die w
  obtain ⟨-, hlines⟩ := hframe.cache (hcached.rises hrises)
  refine ⟨t, hexec, hframe.mem.trans hcached.mem, hframe.wefts.trans hcached.wefts, walkLine w e.2, ?_, rfl, rfl, rfl, rfl, rfl, rfl⟩
  rw [hlines core]
  exact line_mem_walkCached hres hcore hlt hrises

/-! ### The release of a subgroup (R76, R77) -/

/-- A lane that waits for nothing else goes on from the subgroup that is released (R76). -/
theorem unpark_of_back_none {l : Lane} (f : Park → Bool) (h : l.back = none) :
    l.unpark f = match l.st with
      | .parked p => if f p = true then { l with st := .active } else l
      | .active | .exited | .stopped _ => l := by
  obtain ⟨pc, pos, st, sys, sseg, fb, sp, mtop, rstate, last, pause, hh, arrived, trap, shadow, unb, back⟩ := l
  subst h
  cases st with
  | parked p => by_cases hf : f p = true <;> simp [Lane.unpark, Lane.still, hf]
  | active | exited | stopped _ => rfl

theorem lane_unpark (y : Weft) (f : Park → Bool) (i : Nat) : (y.unpark f).lane i = (y.lane i).unpark f := by
  simp only [Weft.unpark, Weft.lane, List.getD_eq_getElem?_getD, List.getElem?_map]
  cases y.lanes[i]? <;> rfl

theorem lane_releaseSub {y : Weft} {k i : Nat} (h : (y.lane i).back = none) :
    (y.releaseSub k).lane i = if (y.lane i).st = .parked (.fault k) then { y.lane i with st := .active } else y.lane i := by
  refine (lane_unpark { y with subs := y.subs.set k Sub.free } _ i).trans ((unpark_of_back_none _ h).trans ?_)
  cases hst : (y.lane i).st with
  | parked p => cases p <;> simp
  | active | exited | stopped _ => simp

theorem pagerResolve_sub {s : State} {w k : Nat} (hw : s.hasWeft w = true) (hk : (s.weft w).heldSub k = true) :
    ∃ t, exec (.pagerResolve (.sub w k)) s = .next t ∧ t.mem = s.mem ∧ (∀ v, v ≠ w → t.weft v = s.weft v) ∧
      t.weft w = (s.weft w).releaseSub k := by
  have hid : ∀ y : Weft, (if y.heldSub k then y.releaseSub k else y).id = y.id := by
    intro y
    split <;> rfl
  refine ⟨s.modBoth w (fun x => if x.heldSub k then x.releaseSub k else x), rfl, rfl, fun v hv => ?_, ?_⟩
  · exact weft_modWeft_ne (s := s) hid hv
  · exact (weft_modWeft_self (s := s) hid hw).trans (if_pos hk)

/-! ### What the stop of a lane leaves of another -/

/-- The changes of a lane that waits: its faults, its place and a stop of it stay. -/
structure LaneKept (l l' : Lane) : Prop where
  trap : l'.trap = l.trap
  pos  : l'.pos = l.pos
  stop : ∀ f, l.st = .stopped f → l'.st = .stopped f

theorem LaneKept.refl (l : Lane) : LaneKept l l := ⟨rfl, rfl, fun _ h => h⟩

theorem unpark_kept (l : Lane) (f : Park → Bool) : LaneKept l (l.unpark f) := by
  unfold Lane.unpark
  split
  · next p hp =>
    have hnot : ∀ f, l.st ≠ .stopped f := by simp [hp]
    split
    · exact ⟨rfl, rfl, fun g h => absurd h (hnot g)⟩
    · split <;> exact ⟨rfl, rfl, fun g h => absurd h (hnot g)⟩
  all_goals exact ⟨rfl, rfl, fun _ h => h⟩

/-- A step keeps lane `i` of weft `w`, if there is one. -/
def KeepsLane (w i : Nat) (s t : State) : Prop :=
  ∀ l, (s.weft w).lanes[i]? = some l → ∃ l', (t.weft w).lanes[i]? = some l' ∧ LaneKept l l'

section
variable {w i : Nat} {s t : State}

theorem KeepsLane.trans {u : State} (a : KeepsLane w i s t) (b : KeepsLane w i t u) : KeepsLane w i s u := by
  intro l hl
  obtain ⟨m, hm, hlm⟩ := a l hl
  obtain ⟨n, hn, hmn⟩ := b m hm
  exact ⟨n, hn, hmn.trap.trans hlm.trap, hmn.pos.trans hlm.pos, fun f h => hmn.stop f (hlm.stop f h)⟩

theorem KeepsLane.of_wefts (h : t.wefts = s.wefts) : KeepsLane w i s t :=
  fun l hl => ⟨l, by rw [weft_congr h, hl], LaneKept.refl l⟩

theorem KeepsLane.foldl {β : Type} {f : State → β → State} {l : List β} (h : ∀ y, ∀ b ∈ l, KeepsLane w i y (f y b))
    (s : State) : KeepsLane w i s (l.foldl f s) := by
  induction l generalizing s with
  | nil => exact KeepsLane.of_wefts rfl
  | cons b l ih => exact (h s b List.mem_cons_self).trans (ih (fun y c hc => h y c (List.mem_cons_of_mem b hc)) _)

/-- A lookup of a weft after a change of every weft that keeps their ids. -/
theorem weft_of_map {f : Weft → Weft} (h : t.wefts = s.wefts.map f) (hid : ∀ y, (f y).id = y.id) (hw : s.hasWeft w = true) :
    t.weft w = f (s.weft w) := by
  have hcomp : ((fun x : Weft => x.id == w) ∘ f) = fun x => x.id == w := funext fun y => by rw [Function.comp_apply, hid]
  obtain ⟨y, hy⟩ := Option.isSome_iff_exists.mp (List.find?_isSome.mpr (List.any_eq_true.mp hw))
  simp only [State.weft, h, List.find?_map, hcomp, hy, Option.map_some, Option.getD_some]

/-- A change of every weft that keeps their ids and lane `i` keeps it in the machine. -/
theorem KeepsLane.of_map {f : Weft → Weft} (h : t.wefts = s.wefts.map f) (hid : ∀ y, (f y).id = y.id)
    (hf : ∀ y l, y.lanes[i]? = some l → ∃ l', (f y).lanes[i]? = some l' ∧ LaneKept l l') : KeepsLane w i s t := by
  intro l hl
  cases hw : s.hasWeft w with
  | false => simp [weft_missing hw, Weft.nil] at hl
  | true =>
    rw [weft_of_map h hid hw]
    exact hf _ l hl

theorem modWeft_keepsLane {v : Nat} {f : Weft → Weft} (hid : ∀ y, (f y).id = y.id) (hl : ∀ y, (f y).lanes = y.lanes) :
    KeepsLane w i s (s.modWeft v f) := by
  refine KeepsLane.of_map (f := fun x => if x.id = v then f x else x) rfl (fun y => ?_) fun y l h => ⟨l, ?_, LaneKept.refl l⟩
  · split
    · exact hid y
    · rfl
  · split
    · rw [hl, h]
    · exact h

theorem modLane_keepsLane_ne {v j : Nat} (g : Lane → Lane) (hj : j ≠ i) : KeepsLane w i s (s.modLane v j g) := by
  refine KeepsLane.of_map (f := fun x => if x.id = v then x.modLane j g else x) rfl (fun y => ?_) fun y l h => ⟨l, ?_, LaneKept.refl l⟩
  · split <;> rfl
  · split
    · exact (List.getElem?_modify_ne g _ hj).trans h
    · exact h

/-! ### Writes, events and reports keep lanes -/

theorem writeBack_wefts (s : State) (l : DLine) : (s.writeBack l).wefts = s.wefts := by
  unfold State.writeBack
  split
  · generalize List.range 64 = is
    induction is generalizing s with
    | nil => rfl
    | cons i is ih => exact ih (s.dramPut (64 * l.unit + i) l.okey (l.bytes.getD i 0))
  · rfl

theorem evict_wefts (s : State) (pa : Nat) : (s.evict pa).wefts = s.wefts := by
  unfold State.evict
  dsimp only
  split
  · rfl
  · split
    · rfl
    · exact writeBack_wefts s _

theorem allocLine_wefts (s : State) (pa okey cpol : Nat) : (s.allocLine pa okey cpol).wefts = s.wefts := by
  unfold State.allocLine
  split
  · rfl
  · exact evict_wefts s pa

theorem hbmPut_wefts (s : State) (pa okey cpol : Nat) (b : Byte) : (s.hbmPut pa okey cpol b).wefts = s.wefts := by
  unfold State.hbmPut
  dsimp only
  split <;> exact allocLine_wefts s pa okey cpol

theorem putByte_keepsLane (s : State) (l : Loc) (b : Byte) : KeepsLane w i s (s.putByte l b) := by
  cases l with
  | hbm pa k c => exact KeepsLane.of_wefts (hbmPut_wefts s pa k c b)
  | chip pa win =>
    show KeepsLane w i s (s.chipPut pa b)
    unfold State.chipPut
    dsimp only
    split
    · split
      · exact modWeft_keepsLane (fun y => by simp [State.filed]) (fun y => by simp [State.filed])
      · exact KeepsLane.of_wefts rfl
    · split <;> exact KeepsLane.of_wefts rfl
  | zero => exact KeepsLane.of_wefts rfl
  | host f a => exact KeepsLane.of_wefts rfl
  | remote n r p k o => exact KeepsLane.of_wefts rfl

theorem pzRegs_keepsLane (s : State) (ws : List Wr) : KeepsLane w i s (s.pzRegs ws) := by
  refine KeepsLane.foldl (fun y x _ => ?_) s
  dsimp only
  split
  · split
    · split
      · exact KeepsLane.of_wefts rfl
      · split
        · exact modWeft_keepsLane (fun _ => rfl) (fun _ => rfl)
        · split
          · exact modWeft_keepsLane (fun _ => rfl) (fun _ => rfl)
          · exact KeepsLane.of_wefts rfl
    · exact KeepsLane.of_wefts rfl
  all_goals exact KeepsLane.of_wefts rfl

theorem staleBeams_wefts (s : State) (ws : List Wr) : (s.staleBeams ws).wefts = s.wefts := by
  unfold State.staleBeams
  dsimp only
  split <;> rfl

/-- A write may change registers through a window, and no lane. -/
theorem write_keepsLane (s : State) (ws : List Wr) : KeepsLane w i s (s.write ws) := by
  have hbytes : KeepsLane w i s (ws.foldl (fun x q => x.putByte q.loc q.b) s) :=
    KeepsLane.foldl (fun y q _ => putByte_keepsLane y q.loc q.b) s
  exact (hbytes.trans (pzRegs_keepsLane _ ws)).trans (KeepsLane.of_wefts (staleBeams_wefts _ ws))

theorem event_keepsLane (s : State) (n kind reason : Nat) (c : CtxId) (panel data addr : Nat) :
    KeepsLane w i s (s.event n kind reason c panel data addr) := by
  unfold State.event
  dsimp only
  split
  · exact KeepsLane.of_wefts rfl
  · split
    · exact (write_keepsLane s _).trans (KeepsLane.of_wefts rfl)
    · split <;> exact KeepsLane.of_wefts rfl

/-! ### A stop keeps the other lanes -/

theorem partDone_keepsLane (s : State) (v id : Nat) : KeepsLane w i s (s.partDone v id) :=
  (modWeft_keepsLane (v := v) (f := fun x => x.partDone id) (fun y => by simp) (fun y => by simp)).trans (KeepsLane.of_wefts rfl)

theorem leaveWalk_keepsLane (s : State) (v j track : Nat) : KeepsLane w i s (s.leaveWalk v j track) := by
  unfold State.leaveWalk
  split
  · refine (KeepsLane.trans ?_ (partDone_keepsLane _ v track)).trans (KeepsLane.of_wefts rfl)
    exact modWeft_keepsLane (fun _ => rfl) (fun _ => rfl)
  · exact KeepsLane.of_wefts rfl

/-- A lane with the fault that stops it: an UNBOUND entry that it has not finished waits for its release (R385). -/
def stopWith (f : LFault) (l : Lane) : Lane := { l with st := .stopped f, trap := l.trap.filter (fun q => q.1.code == .unbound) }

/-- Behind the change of the lane itself a stop only reports. -/
theorem stopLane_keepsLane (s : State) (v j : Nat) (f : LFault) :
    KeepsLane w i ((s.quitLate v j).modLane v j (stopWith f)) (s.stopLane v j f) := by
  unfold State.stopLane
  dsimp only
  refine KeepsLane.trans ?_ (event_keepsLane _ _ _ _ _ _ _ _)
  exact KeepsLane.of_wefts rfl

theorem stopLane_keepsLane_ne {v j : Nat} (f : LFault) (hj : j ≠ i) : KeepsLane w i s (s.stopLane v j f) :=
  ((leaveWalk_keepsLane s v j _).trans (modLane_keepsLane_ne _ hj)).trans (stopLane_keepsLane s v j f)

theorem modLane_lane {g : Lane → Lane} {l : Lane} (h : (s.weft w).lanes[i]? = some l) :
    ((s.modLane w i g).weft w).lanes[i]? = some (g l) := by
  have hw : s.hasWeft w = true := by
    by_contra hn
    simp [weft_missing (Bool.eq_false_iff.mpr hn), Weft.nil] at h
  have hweft : (s.modLane w i g).weft w = (s.weft w).modLane i g := weft_modWeft_self (f := fun x => x.modLane i g) (fun _ => rfl) hw
  simp [hweft, Weft.modLane, h]

/-- A lane of a weft that is stopped holds the fault (R408). -/
theorem stopLane_stops (f : LFault) {l : Lane} (h : (s.weft w).lanes[i]? = some l) :
    ∃ l', ((s.stopLane w i f).weft w).lanes[i]? = some l' ∧ l'.st = .stopped f := by
  obtain ⟨m, hm, _⟩ := leaveWalk_keepsLane s w i ((s.weft w).lane i).walkTrack l h
  obtain ⟨n, hn, hmn⟩ := stopLane_keepsLane s w i f _ (modLane_lane hm)
  exact ⟨n, hn, hmn.stop f rfl⟩

/-! ### A declined subgroup (R77) -/

theorem releaseNodes_id (y : Weft) (e : Nat) : (y.releaseNodes e).id = y.id := by
  unfold Weft.releaseNodes
  dsimp only
  split <;> rfl

theorem unpark_lane_kept {y : Weft} (f : Park → Bool) {l : Lane} (h : y.lanes[i]? = some l) :
    ∃ l', (y.unpark f).lanes[i]? = some l' ∧ LaneKept l l' :=
  ⟨l.unpark f, by simp [Weft.unpark, h], unpark_kept l f⟩

/-- Waiters that go on keep their faults and places. -/
theorem releaseNodes_lane (y : Weft) (e : Nat) {l : Lane} (h : y.lanes[i]? = some l) :
    ∃ l', (y.releaseNodes e).lanes[i]? = some l' ∧ LaneKept l l' := by
  unfold Weft.releaseNodes
  dsimp only
  split
  · exact ⟨l, h, LaneKept.refl l⟩
  · exact unpark_lane_kept (y := { y with nodes := _ }) _ h

theorem releaseWaiters_keepsLane (s : State) (c : CtxId) (e : Nat) : KeepsLane w i s (s.releaseWaiters c e) := by
  refine KeepsLane.of_map (f := fun x => if (s.panel x.panel).ctx = c then x.releaseNodes e else x) rfl (fun y => ?_) fun y l h => ?_
  · split
    · exact releaseNodes_id y e
    · rfl
  · split
    · exact releaseNodes_lane y e h
    · exact ⟨l, h, LaneKept.refl l⟩

theorem putEntry_keepsLane (s : State) (c : CtxId) (eb e : Nat) (x : BEntry) : KeepsLane w i s (s.putEntry c eb e x) := by
  unfold State.putEntry State.deviceWrite
  split
  · exact write_keepsLane s _
  · exact KeepsLane.of_wefts rfl

theorem bindEntry_keepsLane (s : State) (c : CtxId) (eb e b : Nat) : KeepsLane w i s (s.bindEntry c eb e b).1 := by
  cases hw : s.entryWords c eb e with
  | error f => exact KeepsLane.of_wefts (by simp only [State.bindEntry, hw])
  | ok q =>
    obtain ⟨lo, hi⟩ := q
    cases hx : BEntry.parse lo hi with
    | none => exact KeepsLane.of_wefts (by simp only [State.bindEntry, hw, hx])
    | some x =>
      rw [bindEntry_of_parse b hw hx]
      split
      · exact (putEntry_keepsLane s c eb e _).trans (releaseWaiters_keepsLane _ c e)
      · exact KeepsLane.of_wefts rfl

theorem bindFailed_keepsLane (s : State) (c : CtxId) (e cseq : Nat) : KeepsLane w i s (s.bindFailed c e cseq) := by
  unfold State.bindFailed
  split
  · exact bindEntry_keepsLane s c _ e _
  · exact KeepsLane.of_wefts rfl

theorem dropUnbound_keepsLane_ne {v j : Nat} (hj : j ≠ i) : KeepsLane w i s (s.dropUnbound v j) :=
  (modLane_keepsLane_ne _ hj).trans (KeepsLane.foldl (fun y _ _ => bindFailed_keepsLane y _ _ _) _)

end

/-- The page that a lane of a subgroup waits for. -/
def pageOf (g : Sub) (i : Nat) : PageEntry := (g.pages.find? (fun p => p.lanes.getLsbD i)).getD ⟨0, .load, 1, 0, []⟩

/-- What a declined subgroup does to one lane of it (R77, R290, R385). -/
def declineLane (wid : Nat) (g : Sub) (s : State) (i : Nat) : State :=
  let l := (s.weft wid).lane i
  if l.trap.any (fun q => q.1.code == .unbound) then (s.dropUnbound wid i).modLane wid i (fun l => { l with st := .active })
  else if l.pos = .ending then
    (s.modLane wid i (fun l => { l with
      pos := if l.pc = (s.panel (s.weft wid).panel).launch.entry ∧ l.fb = 0x20 ∧ l.sp = 0x20 then .launch else .resume })).report "end refused" (s.panel (s.weft wid).panel).ctx [wid, i, ((pageOf g i).atLane i).toNat]
  else s.stopLane wid i (pageFault (pageOf g i).reason ((pageOf g i).atLane i))

theorem declineSub_eq (s : State) (wid k : Nat) :
    s.declineSub wid k = (lanesOf ((s.weft wid).subs.getD k Sub.free).lanes).foldl (declineLane wid ((s.weft wid).subs.getD k Sub.free))
      (s.modWeft wid (fun w => { w with subs := w.subs.set k Sub.free })) := rfl

theorem declineLane_keepsLane_ne {wid i j : Nat} (g : Sub) (s : State) (hj : j ≠ i) : KeepsLane wid i s (declineLane wid g s j) := by
  unfold declineLane
  dsimp only
  split
  · exact (dropUnbound_keepsLane_ne hj).trans (modLane_keepsLane_ne _ hj)
  · split
    · exact (modLane_keepsLane_ne _ hj).trans (KeepsLane.of_wefts rfl)
    · exact stopLane_keepsLane_ne _ hj

/-- A lane with no fault of its own and not being ended is stopped by PAGE. -/
theorem declineLane_stops {wid i : Nat} (g : Sub) {s : State} {l : Lane} (h : (s.weft wid).lanes[i]? = some l) (ht : l.trap = [])
    (hp : l.pos ≠ .ending) :
    ∃ l' f, ((declineLane wid g s i).weft wid).lanes[i]? = some l' ∧ l'.st = .stopped f ∧ f.code = .page := by
  have hl : (s.weft wid).lane i = l := by simp [Weft.lane, h]
  have hstop : declineLane wid g s i = s.stopLane wid i (pageFault (pageOf g i).reason ((pageOf g i).atLane i)) := by
    simp [declineLane, hl, ht, hp]
  obtain ⟨l', hl', hst⟩ := stopLane_stops (pageFault (pageOf g i).reason ((pageOf g i).atLane i)) h
  exact ⟨l', _, hstop ▸ hl', hst, rfl⟩

/-- Each lane of a declined subgroup stops once, and the stops of the others keep it so. -/
theorem foldl_declineLane_stops {wid i : Nat} (g : Sub) {is : List Nat} (hi : i ∈ is) (hn : is.Nodup) {s : State} {l : Lane}
    (h : (s.weft wid).lanes[i]? = some l) (ht : l.trap = []) (hp : l.pos ≠ .ending) :
    ∃ l' f, ((is.foldl (declineLane wid g) s).weft wid).lanes[i]? = some l' ∧ l'.st = .stopped f ∧ f.code = .page := by
  obtain ⟨as, bs, rfl⟩ := List.append_of_mem hi
  obtain ⟨-, hbs, hdisj⟩ := List.nodup_append.mp hn
  have hpre : ∀ j ∈ as, j ≠ i := fun j hj hji => hdisj j hj i List.mem_cons_self hji
  have hpost : ∀ j ∈ bs, j ≠ i := fun j hj hji => (List.nodup_cons.mp hbs).1 (hji ▸ hj)
  rw [List.foldl_append, List.foldl_cons]
  obtain ⟨m, hm, hlm⟩ := KeepsLane.foldl (fun y j hj => declineLane_keepsLane_ne g y (hpre j hj)) s l h
  obtain ⟨n, f, hn', hnst, hf⟩ := declineLane_stops g hm (hlm.trap.trans ht) (hlm.pos ▸ hp)
  obtain ⟨o, ho, hno⟩ := KeepsLane.foldl (fun y j hj => declineLane_keepsLane_ne g y (hpost j hj)) _ n hn'
  exact ⟨o, f, ho, hno.stop f hnst, hf⟩

theorem pagerDecline_sub {s : State} {w k : Nat} (hk : (s.weft w).heldSub k = true) :
    exec (.pagerDecline (.sub w k)) s = .next (s.declineSub w k) :=
  if_pos hk

/-- R77: a lane of a declined subgroup stops with PAGE. -/
theorem declineSub_stops {s : State} {w k i : Nat} (hlen : i < (s.weft w).lanes.length) (hi : i < 32)
    (hmask : ((s.weft w).subs.getD k Sub.free).lanes.getLsbD i = true) (ht : ((s.weft w).lane i).trap = [])
    (hp : ((s.weft w).lane i).pos ≠ .ending) :
    ∃ f, (((s.declineSub w k).weft w).lane i).st = .stopped f ∧ f.code = .page := by
  have hget : (s.weft w).lanes[i]? = some ((s.weft w).lane i) := by simp [Weft.lane, hlen]
  obtain ⟨l, hl, hkept⟩ := modWeft_keepsLane (v := w) (f := fun w => { w with subs := w.subs.set k Sub.free })
    (fun _ => rfl) (fun _ => rfl) _ hget
  have hmem : i ∈ lanesOf ((s.weft w).subs.getD k Sub.free).lanes := by simpa [lanesOf] using ⟨hi, hmask⟩
  have hnodup : (lanesOf ((s.weft w).subs.getD k Sub.free).lanes).Nodup := List.nodup_range.filter _
  obtain ⟨l', f, hl', hst, hf⟩ := foldl_declineLane_stops ((s.weft w).subs.getD k Sub.free) hmem hnodup hl (hkept.trap.trans ht)
    (hkept.pos ▸ hp)
  exact ⟨f, by rw [declineSub_eq, Weft.lane, List.getD_eq_getElem?_getD, hl']; exact hst, hf⟩

/-! ### A stalled copy (R79) -/

theorem pagerResolve_copy {s : State} {core q : Nat} {c : CopyCmd} {rest : List CopyCmd} (h : (s.core core).copyQ[q]? = some (c :: rest))
    (hr : risesFrom 0 s.cores) :
    ∃ t, exec (.pagerResolve (.copy core q)) s = .next t ∧ t.mem = s.mem ∧ t.wefts = s.wefts ∧
      (t.core core).copyQ = (s.core core).copyQ.set q ({ c with stall := none } :: rest) := by
  refine ⟨_, rfl, rfl, rfl, ?_⟩
  rw [core_modCore hr, if_pos rfl]
  dsimp only
  rw [List.modify_eq_set, h]
  rfl

/-! ### O37 -/

/-- Settles O37: `walkComplete_failed` and `walkComplete_found` are the ends of a walk, `walkSlotGrant_oldest` is the grant, `walkWith_eq`
the levels, and `pagerResolve_sub`, `declineSub_stops` and `pagerResolve_copy` are the answers of a pager. -/
theorem walksAndPagers : Obligations.WalksAndPagers := by
  unfold Obligations.WalksAndPagers
  refine ⟨⟨⟨fun s die id w hfind hlocal => ⟨fun r => walkComplete_failed hfind hlocal,
    fun e core => walkComplete_found hfind hlocal⟩,
    fun s die key pa leaf align => ⟨walkerStep_of_uncached, ?_⟩, fun s die who w => walkSlotGrant_oldest⟩,
    walkStep_eq, fun s tkey base off e2 e1 e0 => ?_⟩, fun s w k hw hk => ⟨?_, ?_⟩, fun s core q c rest => pagerResolve_copy⟩
  · rintro l rfl hline
    exact walkerStep_of_cached hline
  · have hleaf2 := walkWith_eq (s.walkStep tkey) base off 2
    have hleaf1 := walkWith_eq (s.walkStep tkey) base off 1
    have hleaf0 := walkWith_eq (s.walkStep tkey) base off 0
    refine ⟨fun h2 => ?_, fun h2 h1 => ?_, fun h2 h1 h0 => ?_,
      fun r => ⟨fun h2 => ?_, fun h2 => ⟨?_, ?_⟩, fun h2 h1 => ?_, fun h2 h1 => ?_⟩⟩
    · exact hleaf2.trans (bind_of_ok h2)
    · exact hleaf1.trans ((bind_of_ok h2).trans (bind_of_ok h1))
    · exact hleaf0.trans ((bind_of_ok h2).trans ((bind_of_ok h1).trans (bind_of_ok h0)))
    · exact hleaf2.trans (bind_of_error h2)
    · exact hleaf1.trans (bind_of_error h2)
    · exact hleaf0.trans (bind_of_error h2)
    · exact hleaf1.trans ((bind_of_ok h2).trans (bind_of_error h1))
    · exact hleaf0.trans ((bind_of_ok h2).trans (bind_of_error h1))
  · obtain ⟨t, hexec, hmem, hothers, hweft⟩ := pagerResolve_sub hw hk
    exact ⟨t, hexec, hmem, hothers, by rw [hweft]; rfl, fun i hback => by rw [hweft, lane_releaseSub hback]⟩
  · exact ⟨_, pagerDecline_sub hk, fun i hlen hmask hi => declineSub_stops hlen hi hmask⟩

end Sys2Proof.Proofs
end

section
/-! SUPPORT. Actions, plans and steps that keep memory in its canonical form (O57): what it means for each, and the folds and checks that
they are made of. -/
namespace Sys2Proof.Proofs
open Sys2Proof Sys2Proof.Machine

/-- An action that keeps memory in its canonical form. -/
def KeepsInv (f : State → State) : Prop := ∀ s, s.Inv → (f s).Inv

/-- Whatever a plan does keeps memory in its canonical form. -/
def PlanKeeps : Plan → Prop
  | .go f | .hold f | .stay f => KeepsInv f
  | .raise _ _ => True
  | .part _ f _ _ | .walk _ f _ _ _ _ => ∀ x, KeepsInv (f x)

/-- A step from `s` that goes on, and keeps memory in its canonical form. -/
def StepKeeps (s : State) (o : Host.Outcome State Fault Refusal) : Prop := ∃ t, o = .next t ∧ (s.Inv → t.Inv)

theorem StepKeeps.next {s t : State} (h : s.Inv → t.Inv) : StepKeeps s (.next t) := ⟨t, rfl, h⟩

theorem StepKeeps.goes {s : State} {o : Host.Outcome State Fault Refusal} (h : StepKeeps s o) : Goes o := h.imp fun _ ht => ht.1

theorem StepKeeps.inv {s t : State} (h : StepKeeps s (.next t)) (hs : s.Inv) : t.Inv := by
  obtain ⟨u, hu, hkeep⟩ := h
  cases hu
  exact hkeep hs

theorem inv_of_mem {s t : State} (h : s.Inv) (hm : t.mem = s.mem) : t.Inv := (inv_congr hm).2 h

theorem StepKeeps.of_mem {s t : State} (hm : t.mem = s.mem) : StepKeeps s (.next t) := .next fun h => inv_of_mem h hm

/-- The first state of a pair, found by a match on the pair. -/
theorem inv_of_pair {α : Type} {p : State × α} {t : State} {a : α} (h : p.1.Inv) (hp : p = (t, a)) : t.Inv := by
  subst hp
  exact h

/-! ### Folds -/

theorem foldl_inv_mem {β : Type} {f : State → β → State} {l : List β} {s : State} (hf : ∀ b ∈ l, KeepsInv (f · b)) (h : s.Inv) :
    (l.foldl f s).Inv := by
  induction l generalizing s with
  | nil => exact h
  | cons b l ih => exact ih (fun c hc => hf c (List.mem_cons_of_mem _ hc)) (hf b List.mem_cons_self s h)

theorem foldl_inv {β : Type} {f : State → β → State} {l : List β} {s : State} (hf : ∀ y b, y.Inv → (f y b).Inv) (h : s.Inv) :
    (l.foldl f s).Inv := foldl_inv_mem (fun b _ y => hf y b) h

/-- A fold over a state and something beside it. -/
theorem foldl_fst_inv {β γ : Type} {f : State × γ → β → State × γ} {l : List β} {q : State × γ} (hf : ∀ z b, z.1.Inv → (f z b).1.Inv)
    (h : q.1.Inv) :
    (l.foldl f q).1.Inv := by
  induction l generalizing q with
  | nil => exact h
  | cons b l ih => exact ih (hf q b h)

/-! ### Checks -/

theorem chk_bind_eq_ok {α β : Type} {c : Chk α} {f : α → Chk β} {b : β} (h : c.bind f = .ok b) : ∃ a, c = .ok a ∧ f a = .ok b := by
  cases c with
  | ok a => exact ⟨a, rfl, h⟩
  | fault e => cases h
  | miss ps => cases h

theorem chk_map_eq_ok {α β : Type} {c : Chk α} {f : α → β} {b : β} (h : c.map f = .ok b) : ∃ a, c = .ok a ∧ f a = b := by
  obtain ⟨a, ha, hb⟩ := chk_bind_eq_ok h
  exact ⟨a, ha, by injection hb⟩

/-- What a lane that passes does is what its check gave. -/
theorem sortLanes_passed {α : Type} {chk : Nat → Chk α} {ls : List Nat} {q : Nat × α} (h : q ∈ (sortLanes chk ls).1) :
    chk q.1 = .ok q.2 := by
  induction ls with
  | nil => cases h
  | cons i is ih =>
    unfold sortLanes at h
    dsimp only at h
    split at h
    · next a ha =>
      obtain rfl | hq := List.mem_cons.1 h
      · exact ha
      · exact ih hq
    · exact ih h
    · exact ih h

end Sys2Proof.Proofs
end

section
/-! SUPPORT. The operations on places, binding entries, frames and faults keep memory in its canonical form. -/
namespace Sys2Proof.Proofs
open Sys2Proof Sys2Proof.Machine

variable {s : State}

/-! ### Looking up and updating -/

theorem modCore_inv {c : Nat} {f : CoreSt → CoreSt} (h : s.Inv) : (s.modCore c f).Inv := h

theorem modWeft_inv {w : Nat} {f : Weft → Weft} (h : s.Inv) : (s.modWeft w f).Inv := h

theorem modPanel_inv {p : Nat} {f : Panel → Panel} (h : s.Inv) : (s.modPanel p f).Inv := h

theorem modCtx_inv {c : CtxId} {f : Ctx → Ctx} (h : s.Inv) : (s.modCtx c f).Inv := h

theorem modDie_inv {d : Nat} {f : DieSt → DieSt} (h : s.Inv) : (s.modDie d f).Inv := h

theorem modFn_inv {n : Nat} {f : Fn → Fn} (h : s.Inv) : (s.modFn n f).Inv := h

theorem modLane_inv {w i : Nat} {f : Lane → Lane} (h : s.Inv) : (s.modLane w i f).Inv := h

theorem report_inv {what : String} {ctx : CtxId} {fields : List Nat} (h : s.Inv) : (s.report what ctx fields).Inv := h

/-! ### Completion flags (R175) -/

theorem modBoth_inv {w : Nat} {f : Weft → Weft} (h : s.Inv) : (s.modBoth w f).Inv := h

theorem partDone_inv {w id : Nat} (h : s.Inv) : (s.partDone w id).Inv := h

/-! ### The die stores (R95, R125, R126) -/

theorem dropLines_inv {f : DLine → Bool} (h : s.Inv) : (s.dropLines f).Inv := by
  unfold State.dropLines
  split
  · exact lines_inv h _
  · exact h

/-! ### What cores still see of HBM (R134) -/

theorem leaveStale_inv {core src : Nat} {ws : List Wr} (h : s.Inv) : (s.leaveStale core src ws).Inv := by
  unfold State.leaveStale
  dsimp only
  split <;> exact h

theorem writeBy_inv {core : Nat} {ws : List Wr} {src : Nat} (h : s.Inv) : (s.writeBy core ws src).Inv := write_inv (leaveStale_inv h) _

theorem spreadTo_inv {core : Nat} {cores : Nat → Bool} (h : s.Inv) : (s.spreadTo core cores).Inv := by
  unfold State.spreadTo
  split <;> exact h

theorem spreadCmd_inv {id : Nat} (h : s.Inv) : (s.spreadCmd id).Inv := by
  unfold State.spreadCmd
  split <;> exact h

theorem catchUp_inv {core : Nat} (h : s.Inv) : (s.catchUp core).Inv := by
  unfold State.catchUp
  split <;> exact h

/-! ### Descriptors (R12 to R16) -/

theorem cacheDesc_inv {core : Nat} {c : CtxId} {seg : Seg} (h : s.Inv) : (s.cacheDesc core c seg).Inv := by
  unfold State.cacheDesc
  split
  · exact h
  · split <;> exact h

/-! ### Walks (R71 to R74) -/

theorem askAts_inv {die fn page : Nat} (h : s.Inv) : (s.askAts die fn page).Inv := by
  unfold State.askAts
  split <;> exact h

theorem queueWalk_inv {who die : Nat} {p : PageReq} (h : s.Inv) : (s.queueWalk who die p).Inv := by
  obtain ⟨c, seg, pg, sz, base⟩ := p
  unfold State.queueWalk
  dsimp only
  split
  · exact askAts_inv h
  · split <;> exact h

theorem queueWalks_inv {who die : Nat} {ps : List PageReq} (h : s.Inv) : (s.queueWalks who die ps).Inv :=
  foldl_inv (fun _ _ hy => queueWalk_inv hy) h

theorem enterMisses_inv {core n : Nat} (h : s.Inv) : (s.enterMisses core n).Inv := by
  induction n generalizing s with
  | zero => exact h
  | succ n ih =>
    unfold State.enterMisses
    split
    · exact h
    · split
      · exact h
      · exact ih (queueWalk_inv h)

theorem admitMisses_inv {who core : Nat} {ps : List PageReq} (h : s.Inv) : (s.admitMisses who core ps).Inv := enterMisses_inv h

theorem askPages_inv {who core : Nat} {ps : List PageReq} (h : s.Inv) : (s.askPages who core ps).Inv := by
  unfold State.askPages
  dsimp only
  split
  · exact admitMisses_inv h
  · exact h

theorem takeAts_inv {die : Nat} (h : s.Inv) : (s.takeAts die).Inv := by
  unfold State.takeAts
  split <;> exact h

theorem takeWalks_inv {who : Nat} (h : s.Inv) : (s.takeWalks who).Inv := by
  unfold State.takeWalks
  dsimp only
  split <;> exact takeAts_inv h

theorem quitWalks_inv {core who : Nat} (h : s.Inv) : (s.quitWalks core who).Inv := by
  unfold State.quitWalks
  dsimp only
  split <;> exact h

/-! ### Futures (R349 to R351) -/

theorem modFut_inv {r : FutRef} {g : Fut → Fut} (h : s.Inv) : (s.modFut r g).Inv := h

theorem newFut_some {die : Nat} {c : CtxId} {k : FutKind} {parts : Nat} {q : State × FutRef} (h : s.Inv)
    (hq : s.newFut die c k parts = some q) :
    q.1.Inv := by
  obtain ⟨i, -, rfl⟩ := Option.map_eq_some_iff.1 hq
  exact h

theorem sweepFut_inv {r : FutRef} (h : s.Inv) : (s.sweepFut r).Inv := by
  unfold State.sweepFut
  split
  · split <;> exact h
  · exact h

theorem completeFut_inv {r : FutRef} {v : DWord} (h : s.Inv) : (s.completeFut r v).Inv := by
  unfold State.completeFut
  split
  · split
    · exact sweepFut_inv (foldl_inv (fun _ _ hy => hy) h)
    · exact h
  · exact h

theorem endPart_inv {r : FutRef} {bytes fault : Nat} {cancelled : Bool} (h : s.Inv) : (s.endPart r bytes fault cancelled).Inv := by
  unfold State.endPart
  split
  · exact h
  dsimp only
  split
  · exact completeFut_inv h
  · exact h

theorem setHandle_inv {wid : Nat} {sys : Bool} {lane n : Nat} {h : Option FutRef} (hs : s.Inv) :
    (s.setHandle wid sys lane n h).Inv := by
  unfold State.setHandle
  dsimp only
  split
  · exact sweepFut_inv hs
  · exact hs

/-! ### The binding table (R36, R37) -/

theorem putEntry_inv {c : CtxId} {eb e : Nat} {x : BEntry} (h : s.Inv) : (s.putEntry c eb e x).Inv := deviceWrite_inv h _ _ _ _ _

/-! ### Waiter nodes (R42 to R44) -/

theorem parkOn_inv {wid : Nat} {lanes : List Nat} {c : CtxId} {eb e : Nat} {x : BEntry} (h : s.Inv) :
    (s.parkOn wid lanes c eb e x).Inv := by
  unfold State.parkOn
  split
  · exact h
  dsimp only
  split
  · exact h
  split
  · exact h
  · exact putEntry_inv h

theorem releaseWaiters_inv {c : CtxId} {e : Nat} (h : s.Inv) : (s.releaseWaiters c e).Inv := h

theorem releaseHold_inv (h : s.Inv) : s.releaseHold.Inv := h

/-! ### Transitions (R53) -/

theorem bindEntry_inv {c : CtxId} {eb e b : Nat} (h : s.Inv) : (s.bindEntry c eb e b).1.Inv := by
  unfold State.bindEntry
  split
  · exact h
  · split
    · exact h
    · split
      · exact putEntry_inv h
      · exact h

theorem bindFailed_inv {c : CtxId} {e cseq : Nat} (h : s.Inv) : (s.bindFailed c e cseq).Inv := by
  unfold State.bindFailed
  split
  · exact bindEntry_inv h
  · exact h

theorem unboundNow_inv {c : CtxId} {eb e : Nat} {x : BEntry} (h : s.Inv) : (s.unboundNow c eb e x).Inv :=
  foldl_inv (fun _ _ hy => completeFut_inv hy) (releaseWaiters_inv (putEntry_inv h))

theorem holdDown_inv {c : CtxId} {e : Nat} (h : s.Inv) : (s.holdDown c e).Inv := by
  unfold State.holdDown
  split
  · exact h
  split
  · exact h
  split
  · exact h
  extract_lets x1
  refine releaseHold_inv ?_
  split
  · exact unboundNow_inv h
  · exact putEntry_inv h

theorem holdUp_some {c : CtxId} {e n : Nat} {t : State} (h : s.Inv) (ht : s.holdUp c e n = some t) : t.Inv := by
  unfold State.holdUp at ht
  split at ht
  · cases ht
    exact h
  · split at ht
    · cases ht
      exact h
    · split at ht
      · cases ht
        exact putEntry_inv h
      · cases ht

theorem holdUp_getD_inv {c : CtxId} {e n : Nat} (h : s.Inv) : ((s.holdUp c e n).getD s).Inv := by
  cases ht : s.holdUp c e n with
  | none => exact h
  | some t => exact holdUp_some h ht

theorem unbindEntry_inv {c : CtxId} {eb e : Nat} (h : s.Inv) : (s.unbindEntry c eb e).1.Inv := by
  cases hw : s.entryWords c eb e with
  | error f => simpa only [State.unbindEntry, hw] using h
  | ok q =>
    obtain ⟨lo, hi⟩ := q
    cases hx : BEntry.parse lo hi with
    | none => simpa only [State.unbindEntry, hw, hx] using h
    | some x =>
      rw [unbindEntry_of_parse hw hx]
      dsimp only
      split
      · exact h
      split
      · exact h
      split
      · split <;> exact putEntry_inv h
      split
      · exact h
      · exact putEntry_inv h

theorem cancelUnbind_inv {r : FutRef} {e : Nat} (h : s.Inv) : (s.cancelUnbind r e).Inv := by
  unfold State.cancelUnbind
  split
  · exact completeFut_inv h
  split
  · exact completeFut_inv h
  split
  · exact completeFut_inv (releaseWaiters_inv (putEntry_inv h))
  · exact completeFut_inv h

/-! ### Save blocks (R411, R412) -/

theorem markBlock_inv {c : CtxId} {k : Nat} {used : Bool} (h : s.Inv) : (s.markBlock c k used).Inv := by
  unfold State.markBlock
  split
  · exact deviceWrite_inv h _ _ _ _ _
  · exact h

/-! ### Images and records (R412, R413) -/

theorem writeParts_ok {c : CtxId} {k : Nat} {ps : List (Nat × List Byte)} {t : State} (h : s.Inv) (ht : s.writeParts c k ps = .ok t) :
    t.Inv := by
  unfold State.writeParts at ht
  split at ht
  · cases ht
  · cases ht
    exact foldl_inv (fun _ _ hy => by split; exacts [hy, write_inv hy _]) h

/-! ### The word being performed -/

theorem leaveWalk_inv {wid lane track : Nat} (h : s.Inv) : (s.leaveWalk wid lane track).Inv := by
  unfold State.leaveWalk
  split <;> exact h

theorem quitLate_inv {wid lane : Nat} (h : s.Inv) : (s.quitLate wid lane).Inv := leaveWalk_inv h

/-! ### Events and reports (R408, R468) -/

theorem putEvent_inv {n : Nat} {rc : List Byte} (h : s.Inv) : (s.putEvent n rc).Inv := by
  unfold State.putEvent
  extract_lets f base rc' s1
  have h1 : s1.Inv := write_inv h _
  exact inv_of_mem h1 rfl

theorem event_inv {n kind reason : Nat} {c : CtxId} {panel data addr : Nat} (h : s.Inv) :
    (s.event n kind reason c panel data addr).Inv := by
  unfold State.event
  dsimp only
  split
  · exact h
  split
  · exact putEvent_inv h
  · split <;> exact h

theorem stopLane_inv {wid lane : Nat} {f : LFault} (h : s.Inv) : (s.stopLane wid lane f).Inv :=
  event_inv (report_inv (modLane_inv (quitLate_inv h)))

/-! ### The bytes that a lane reads (R132, R133, R147) -/

theorem enqueue_inv {wid lane track : Nat} {sys : Bool} {pc : DWord} {hdr : Off} {op : SqOp} {addr : DWord} (h : s.Inv) :
    (s.enqueue wid lane track sys pc hdr op addr).Inv := by
  unfold State.enqueue
  split <;> exact h

/-! ### Loads taking their bytes (R132 to R134) -/

theorem allocAll_inv {ls : List Loc} (h : s.Inv) : (s.allocAll ls).Inv := by
  unfold State.allocAll
  refine foldl_inv (fun _ _ hy => ?_) h
  split
  · exact allocLine_inv hy _ _ _
  all_goals exact hy

theorem takeLoad_inv {wid id : Nat} (h : s.Inv) : (s.takeLoad wid id).Inv := by
  unfold State.takeLoad
  dsimp only
  split
  · exact h
  · exact allocAll_inv h

theorem forceLate_inv {core wid id : Nat} {ls : List Loc} (h : s.Inv) : (s.forceLate core wid id ls).Inv := by
  unfold State.forceLate
  refine foldl_inv (fun _ _ hy => foldl_inv (fun _ _ hy => ?_) hy) h
  split
  · exact takeLoad_inv hy
  · exact hy

/-! ### Performing a store at the core (R133) -/

theorem doneIf_inv {wid track : Nat} (h : s.Inv) : (s.doneIf wid track).Inv := by
  unfold State.doneIf
  split <;> exact h

theorem performStore_inv {wid : Nat} {e : SqEntry} {ws : List Wr} (h : s.Inv) : (s.performStore wid e ws).Inv := by
  unfold State.performStore
  refine doneIf_inv ?_
  split
  · exact inv_of_mem (forceLate_inv h) rfl
  split
  · exact inv_of_mem (forceLate_inv h) rfl
  · exact writeBy_inv (forceLate_inv h)

theorem spread_inv {core : Nat} {sc : Scope} (h : s.Inv) : (s.spread core sc).Inv := by
  unfold State.spread
  split
  · exact spreadTo_inv h
  · exact h

/-! ### DISCARD (R84, R86) -/

theorem bury_inv {lo n okey : Nat} (h : s.Inv) : (s.bury lo n okey).Inv := h

theorem discardPage_inv {c : CtxId} {q : Seg × Nat × Nat × Nat × Nat} (h : s.Inv) : (s.discardPage c q).Inv := by
  obtain ⟨seg, pg, sz, base, okey⟩ := q
  unfold State.discardPage
  dsimp -zeta only
  split
  · exact h
  extract_lets k lo x1 x2
  have h1 : x1.Inv := by
    unfold x1
    split
    · exact h
    · exact write_inv h _
  have h2 : x2.Inv := inv_of_mem h1 rfl
  split
  · exact h2
  · exact bury_inv (dropLines_inv h2)

theorem discardPages_inv {c : CtxId} {ps : List (Seg × Nat × Nat × Nat × Nat)} (h : s.Inv) : (s.discardPages c ps).Inv :=
  foldl_inv (fun _ _ hy => discardPage_inv hy) h

/-! ### Commit points (R147 to R149, R447 to R449) -/

theorem drainHeld_inv {pid : Nat} (h : s.Inv) : (s.drainHeld pid).Inv := by
  unfold State.drainHeld
  refine modPanel_inv (foldl_inv (fun _ _ hy => ?_) h)
  split
  · exact performStore_inv hy
  · exact doneIf_inv (discardPages_inv hy)
  all_goals exact hy

theorem writeCheckpoint_inv {p : Panel} (h : s.Inv) : (s.writeCheckpoint p).Inv := by
  unfold State.writeCheckpoint
  split
  · exact h
  split
  next s1 ht => exact (writeParts_ok h ht)
  · exact h

theorem checkpoint_inv {pid : Nat} (h : s.Inv) : (s.checkpoint pid).Inv := by
  unfold State.checkpoint
  dsimp only
  split
  · exact writeCheckpoint_inv h
  · exact h

theorem inbound_inv {p : Panel} {ls : List Loc} (h : s.Inv) : (s.inbound p ls).Inv := by
  unfold State.inbound
  split <;> exact h

theorem openCommit_inv {pid : Nat} (h : s.Inv) : (s.openCommit pid).Inv := by
  unfold State.openCommit
  split
  · exact modPanel_inv (checkpoint_inv (drainHeld_inv h))
  · exact h

theorem committed_inv {pid : Nat} {f : State → State} (h : s.Inv) (hf : KeepsInv f) : (s.committed pid f).Inv := by
  unfold State.committed
  split
  · exact checkpoint_inv (modPanel_inv (hf _ (drainHeld_inv h)))
  · exact hf _ h

theorem atCommit_inv {pid : Nat} {waits : State → Bool} {f : State → State} (h : s.Inv) (hf : KeepsInv f) :
    (s.atCommit pid waits f).Inv := by
  unfold State.atCommit
  split
  · split
    · exact h
    · exact hf _ h
  split
  · exact h
  split
  · exact openCommit_inv h
  split
  · exact h
  · exact committed_inv h (hf)

/-! ### Entering a handler (R385, R405) -/

theorem enterFrame_ok {wid lane : Nat} {a ret : DWord} {tf : Nat} {w4 extra : List Nat} {size : Nat} {q : Nat × Nat} {t : State}
    (h : s.Inv) (ht : s.enterFrame wid lane a ret tf w4 extra size q = .ok t) :
    t.Inv := by
  obtain ⟨k, -, rfl⟩ := chk_map_eq_ok ht
  exact enqueue_inv h

theorem enterHandler_ok {wid lane : Nat} {a ret : DWord} {tf : Nat} {w4 extra : List Nat} {size : Nat} {t : State} (h : s.Inv)
    (ht : s.enterHandler wid lane a ret tf w4 extra size = .ok t) :
    t.Inv := by
  unfold State.enterHandler at ht
  split at ht
  · cases ht
  · exact enterFrame_ok h ht

theorem askFrame_inv {wid : Nat} {ps : List PageReq} (h : s.Inv) : (s.askFrame wid ps).Inv := queueWalks_inv h

theorem keepTrap_inv {wid lane : Nat} {f : LFault} {pc : DWord} (h : s.Inv) : (s.keepTrap wid lane f pc).Inv := h

theorem dropTrap_inv {wid lane : Nat} (h : s.Inv) : (s.dropTrap wid lane).Inv := h

/-! ### Fault subgroups (R75 to R77, R406) -/

theorem deliverSub_inv {wid k : Nat} (h : s.Inv) : (s.deliverSub wid k).Inv := by
  unfold State.deliverSub
  dsimp only
  split
  · exact h
  split
  next s2 ht => exact modWeft_inv (enterHandler_ok h ht)
  · exact stopLane_inv h
  · exact askFrame_inv h

theorem pageLanes_inv {wid : Nat} {fs : List (Nat × LFault)} {cls : Cls} (h : s.Inv) : (s.pageLanes wid fs cls).Inv := by
  unfold State.pageLanes
  split
  · exact h
  dsimp only
  split
  · exact h
  · exact deliverSub_inv h

/-! ### UNBOUND (R385, R386) -/

theorem unboundFrame_inv {wid lane : Nat} {u : LFault} {pc : DWord} (h : s.Inv) : (s.unboundFrame wid lane u pc).Inv := by
  unfold State.unboundFrame
  dsimp only
  split
  next s1 ht => exact modLane_inv (enterFrame_ok h ht)
  · split
    · exact pageLanes_inv h
    · exact bindFailed_inv h
  · exact askFrame_inv h

theorem takeUnbound_inv {wid lane : Nat} {pc : DWord} {hdr : Off} {m slot e cseq nb : Nat} (h : s.Inv) :
    (s.takeUnbound wid lane pc hdr m slot e cseq nb).Inv := by
  unfold State.takeUnbound
  dsimp only
  split
  · exact bindFailed_inv h
  split
  · exact bindFailed_inv h
  · exact unboundFrame_inv h

theorem failLane_inv {c : CtxId} {l : Lane} (h : s.Inv) : (s.failLane c l).Inv := foldl_inv (fun _ _ hy => bindFailed_inv hy) h

theorem dropUnbound_inv {wid lane : Nat} (h : s.Inv) : (s.dropUnbound wid lane).Inv := foldl_inv (fun _ _ hy => bindFailed_inv hy) h

/-! ### Ending a handler by a fault (R389) -/

theorem popTrap_inv {wid lane fb : Nat} {f : Frame} {savev : List Nat} (h : s.Inv) : (s.popTrap wid lane fb f savev).Inv := by
  unfold State.popTrap
  dsimp only
  split
  · exact sweepFut_inv h
  · exact h

theorem handlerFault_inv {wid lane : Nat} {f : LFault} {pc : DWord} (h : s.Inv) : (s.handlerFault wid lane f pc).Inv := by
  unfold State.handlerFault
  dsimp only
  split
  · split
    · exact h
    · exact stopLane_inv (modLane_inv (bindFailed_inv h))
  · exact askFrame_inv h
  split
  · exact stopLane_inv (modLane_inv (bindFailed_inv h))
  split
  · split
    · exact h
    · exact stopLane_inv (modLane_inv (bindFailed_inv h))
  · exact askFrame_inv h
  split
  · exact h
  · exact popTrap_inv (bindFailed_inv (foldl_inv (fun _ _ hy => holdDown_inv hy) h))

/-! ### Delivery (R405, R406) -/

theorem overlayRange_ok {core : Nat} {c : CtxId} {a : DWord} {q : State × Nat × Nat} (h : s.Inv) (hq : s.overlayRange core c a = some q)
    :
    q.1.Inv := by
  unfold State.overlayRange at hq
  split at hq
  · cases hq
    exact h
  · obtain ⟨z, -, rfl⟩ := Option.map_eq_some_iff.1 hq
    exact write_inv (modCore_inv h) _

theorem deliver_inv {wid lane : Nat} {f : LFault} {pc : DWord} (h : s.Inv) : (s.deliver wid lane f pc).Inv := by
  unfold State.deliver
  extract_lets w c n e s1 go
  have hgo : ∀ {y a x}, y.Inv → (go y a x).Inv := by
    intro y a x hy
    simp only [go]
    split
    · next y1 ht => exact enterHandler_ok hy ht
    · exact stopLane_inv hy
    · exact askFrame_inv hy
  have h1 : s1.Inv := stopLane_inv h
  split
  · exact report_inv (modLane_inv h)
  split
  · split
    · exact h1
    · exact atCommit_inv h fun _ hy => handlerFault_inv hy
  split
  · exact h1
  split
  · split
    · exact report_inv h1
    · exact h1
  split
  · split
    · exact keepTrap_inv h
    · next s1 off len ht => exact hgo (overlayRange_ok h ht)
  split
  · exact hgo h
  · exact hgo h

theorem declineSub_inv {wid k : Nat} (h : s.Inv) : (s.declineSub wid k).Inv := by
  unfold State.declineSub
  refine foldl_inv (fun _ _ hy => ?_) h
  dsimp only
  split
  · exact modLane_inv (dropUnbound_inv hy)
  split
  · exact hy
  · exact stopLane_inv hy

theorem faultLanes_inv {wid : Nat} {pc : DWord} {hdr : Off} {cls : Cls} {fs0 : List (Nat × LFault)} (h : s.Inv) :
    (s.faultLanes wid pc hdr cls fs0).Inv := by
  unfold State.faultLanes
  dsimp only
  split
  · exact h
  · exact foldl_inv (fun _ _ hy => deliver_inv hy)
      (pageLanes_inv (takeWalks_inv (modWeft_inv (foldl_inv (fun _ _ hy => quitLate_inv hy) h))))

/-! ### The root frame (R284) -/

theorem rootLink_inv {wid lane : Nat} (h : s.Inv) : (s.rootLink wid lane).Inv := by
  unfold State.rootLink
  dsimp only
  split
  · exact askFrame_inv h
  · split
    · exact h
    · exact stopLane_inv h
  · exact modLane_inv (write_inv h _)

/-! ### Faults that wait for their delivery (R385, R405) -/

theorem deliverPending_inv {s0 : State} {wid lane : Nat} (h : s0.Inv) : (s0.deliverPending wid lane).Inv := by
  unfold State.deliverPending
  dsimp only
  split
  · exact h
  split
  · exact atCommit_inv (by split <;> exact h) fun _ hy => unboundFrame_inv hy
  · exact deliver_inv (dropTrap_inv (by split <;> exact h))

/-! ### Ending a lane (R290) -/

theorem exitLane_inv {wid lane : Nat} (h : s.Inv) : (s.exitLane wid lane).Inv := by
  unfold State.exitLane
  dsimp only
  split
  · exact sweepFut_inv (modWeft_inv (quitLate_inv h))
  · exact modWeft_inv (quitLate_inv h)

end Sys2Proof.Proofs
end

section
/-! SUPPORT. Words keep memory in its canonical form: the plans of words, words checked lane by lane, loads and stores, bindings and message
queues. -/
namespace Sys2Proof.Proofs
open Sys2Proof Sys2Proof.Machine

variable {s : State}

theorem consume_inv {x : IC} {lanes : List Nat} (h : s.Inv) : (s.consume x lanes).Inv := by
  unfold State.consume
  split <;> exact h

theorem stopPoison_inv {x : IC} {lanes : List Nat} (h : s.Inv) : (s.stopPoison x lanes).Inv := by
  unfold State.stopPoison
  split
  · exact h
  · exact foldl_inv (fun _ _ hy => stopLane_inv hy) h

theorem fixed_inv {x : IC} {lat : Nat} {vs : List (Nat × DWord)} {pz : List Nat} (h : s.Inv) : (s.fixed x lat vs pz).Inv := h

theorem addParts_inv {wid id n : Nat} (h : s.Inv) : (s.addParts wid id n).Inv := h

theorem tracked_inv {x : IC} {vs : List (Nat × DWord)} {pz : List Nat} (h : s.Inv) : (s.tracked x vs pz).Inv := by
  unfold State.tracked
  split <;> exact h

theorem countIssue_inv {x : IC} (h : s.Inv) : (s.countIssue x).Inv := by
  unfold State.countIssue
  dsimp only
  split <;> exact h

theorem issued_inv {x : IC} {c : Common} (h : s.Inv) : (s.issued x c).Inv := by
  unfold State.issued
  extract_lets s1
  exact inv_of_mem (countIssue_inv (modWeft_inv h) : s1.Inv) rfl

theorem perform_inv {x : IC} {c : Common} {f : State → State} (h : s.Inv) (hf : KeepsInv f) : (s.perform x c f).Inv :=
  partDone_inv (hf _ (issued_inv h))

theorem refuse_inv {x : IC} {matrix : Bool} {cls : Cls} {f : LFault} (h : s.Inv) : (s.refuse x matrix cls f).Inv := by
  unfold State.refuse
  split <;> exact faultLanes_inv h

/-! ### Lanes that wait for walks (R74) -/

theorem waitWalks_inv {x : IC} {miss : List Nat} {pages : List PageReq} (h : s.Inv) : (s.waitWalks x miss pages).Inv := by
  unfold State.waitWalks
  extract_lets s1 s2 q
  have h2 : s2.Inv := foldl_inv (fun _ _ hy => enqueue_inv hy) h
  exact admitMisses_inv (inv_of_mem h2 rfl)

theorem endLate_inv {x : IC} {ls : List Nat} (h : s.Inv) : (s.endLate x ls).Inv := foldl_inv (fun _ _ hy => leaveWalk_inv hy) h

theorem performLate_inv {x : IC} {ls : List Nat} {f : IC → State → State} (h : s.Inv) (hf : ∀ a0, KeepsInv (f a0)) :
    (s.performLate x ls f).Inv := by
  unfold State.performLate
  split
  · exact h
  · exact endLate_inv (hf _ _ h)

theorem lateAgain_inv {x : IC} (h : s.Inv) : (s.lateAgain x).Inv := endLate_inv h

theorem doLate_inv {x : IC} {plan : Plan} (h : s.Inv) (hp : PlanKeeps plan) : (s.doLate x plan).Inv := by
  have hsplit : ∀ (ls : List Nat) (f : IC → State → State) (bad : List (Nat × LFault)) (stop : List Nat), (∀ y, KeepsInv (f y)) →
      ((((s.performLate x ls f).endLate x (bad.map (·.1) ++ stop)).stopPoison x stop).faultLanes x.w.id x.pc x.hdr .load bad).Inv :=
    fun _ _ _ _ hf => faultLanes_inv (stopPoison_inv (endLate_inv (performLate_inv h hf)))
  cases plan with
  | go f => exact takeWalks_inv (performLate_inv h fun _ => hp)
  | hold f => exact takeWalks_inv (hp _ (lateAgain_inv h))
  | raise ls f => exact takeWalks_inv (hsplit _ _ _ _ fun _ _ hy => hy)
  | part ls f bad stop => exact takeWalks_inv (hsplit _ _ _ _ hp)
  | stay f => exact takeWalks_inv (hp _ (lateAgain_inv h))
  | walk ls f bad stop miss pages => exact admitMisses_inv (hsplit _ _ _ _ hp)

/-! ### What a word does -/

theorem issueWalk_inv {x : IC} {c : Common} {ls : List Nat} {f : IC → State → State} {bad : List (Nat × LFault)} {stop miss : List Nat}
    {pages : List PageReq} (h : s.Inv) (hf : ∀ a0, KeepsInv (f a0)) :
    (s.issueWalk x c ls f bad stop miss pages).Inv := by
  unfold State.issueWalk
  split
  · exact h
  refine faultLanes_inv (stopPoison_inv ?_)
  split
  · exact waitWalks_inv (issued_inv h)
  · exact hf _ _ (waitWalks_inv (issued_inv h))

theorem doPlan_inv {x : IC} {v : View} {sysOnly : Bool} {plan : IC → State → Plan} (h : s.Inv)
    (hplan : ∀ x y, y.Inv → PlanKeeps (plan x y)) :
    (s.doPlan x v sysOnly plan).Inv := by
  have hp := hplan x s h
  unfold State.doPlan
  split
  · exact h
  split
  · exact doLate_inv h hp
  iterate 3
    split
    · exact refuse_inv h
  iterate 2
    split
    · exact h
  cases hq : plan x s with
  | go f =>
    rw [hq] at hp
    exact perform_inv h hp
  | hold f =>
    rw [hq] at hp
    exact hp _ h
  | raise ls f => exact faultLanes_inv h
  | part ls f bad stop =>
    rw [hq] at hp
    dsimp only
    refine faultLanes_inv (stopPoison_inv ?_)
    split
    · exact h
    · exact perform_inv h (hp _)
  | stay f =>
    rw [hq] at hp
    exact hp _ h
  | walk ls f bad stop miss pages =>
    rw [hq] at hp
    exact issueWalk_inv h hp

theorem runWord_keeps {v : View} {sysOnly : Bool} {plan : IC → State → Plan} (hp : ∀ x y, y.Inv → PlanKeeps (plan x y)) :
    StepKeeps s (runWord v sysOnly plan s) := by
  unfold runWord
  split
  · exact .next id
  · exact .next fun h => doPlan_inv h hp

theorem simpleWord_keeps {v : View} {f : IC → State → State} (hf : ∀ a0, KeepsInv (f a0)) : StepKeeps s (simpleWord v f s) :=
  runWord_keeps fun _ _ _ _ hy => hf _ _ hy

theorem valueWord_keeps {v : View} {lat : Option Nat} {w64 : Bool} {d : Opnd} {pz : IC → Nat → Bool} {f : IC → Nat → DWord} :
    StepKeeps s (valueWord v lat w64 d pz f s) := by
  unfold valueWord
  refine simpleWord_keeps (fun _ _ hy => consume_inv ?_)
  split
  · exact hy
  · exact tracked_inv hy

theorem alu0_keeps {v : View} {d64 : Bool} {d : Opnd} {g : IC → Nat → DWord} : StepKeeps s (alu0 v d64 d g s) := valueWord_keeps

theorem alu1_keeps {v : View} {d64 : Bool} {d : Opnd} {a64 : Bool} {a : Opnd} {g : DWord → DWord} :
    StepKeeps s (alu1 v d64 d a64 a g s) :=
  valueWord_keeps

theorem alu2_keeps {v : View} {d64 : Bool} {d : Opnd} {a64 : Bool} {a : Opnd} {b64 : Bool} {b : Opnd} {g : DWord → DWord → DWord} :
    StepKeeps s (alu2 v d64 d a64 a b64 b g s) :=
  valueWord_keeps

theorem alu3_keeps {v : View} {d64 : Bool} {d : Opnd} {a64 : Bool} {a : Opnd} {b64 : Bool} {b : Opnd} {c64 : Bool} {c : Opnd}
    {g : DWord → DWord → DWord → DWord} :
    StepKeeps s (alu3 v d64 d a64 a b64 b c64 c g s) :=
  valueWord_keeps

/-! ### Words checked lane by lane -/

theorem checkedPlan_keeps {pass : List Nat} {f : IC → State → State} {bad : List (Nat × LFault)} {stop miss : List Nat}
    {pages : List PageReq} (hf : ∀ x, KeepsInv (f x)) :
    PlanKeeps (checkedPlan pass f bad stop miss pages) := by
  unfold checkedPlan
  split <;> exact hf

theorem lanePlan_keeps {mem : Bool} {x : IC} {pz : Nat → Bool} {chk : Nat → Chk (Bool × (State → State))}
    (hc : ∀ i q, chk i = .ok q → KeepsInv q.2) :
    PlanKeeps (lanePlan mem x s pz chk) := by
  have hgo : KeepsInv (fun z => (sortLanes chk (x.lanes.filter (fun i => !pz i))).1.foldl (fun z a => a.2.2 z) z) :=
    fun _ hz => foldl_inv_mem (fun a ha => hc a.1 a.2 (sortLanes_passed ha)) hz
  unfold lanePlan
  dsimp only
  split
  · exact fun _ hy => hy
  · split
    · exact fun _ hy => openCommit_inv hy
    · refine checkedPlan_keeps fun _ y hy => ?_
      split
      · exact committed_inv hy hgo
      · exact hgo y hy

theorem laneWord_keeps {v : View} {mem sysOnly : Bool} {pz : IC → Nat → Bool} {chk : IC → State → Nat → Chk (Bool × (State → State))}
    (hc : ∀ x y i q, chk x y i = .ok q → KeepsInv q.2) :
    StepKeeps s (laneWord v mem sysOnly pz chk s) :=
  runWord_keeps fun x y _ => lanePlan_keeps (hc x y)

/-! ### Branches (R279) -/

theorem branchTo_ok {x : IC} {lane off : Nat} {q : Bool × (State → State)} (hq : s.branchTo x lane off = .ok q) : KeepsInv q.2 := by
  obtain ⟨k, -, rfl⟩ := chk_map_eq_ok hq
  exact fun _ hy => hy

theorem branchWord_keeps {v : View} {a : Opnd} {off : Nat} {taken : DWord → Bool} : StepKeeps s (branchWord v a off taken s) := by
  refine laneWord_keeps fun x y i q hq => ?_
  split at hq
  · exact branchTo_ok hq
  · cases hq
    exact fun _ hy => hy

/-! ### Rejoin, pause, no-op (R280, R281) -/

theorem execWait_keeps {c : Common} {f : CF} : StepKeeps s (execWait c f s) := by
  unfold execWait
  refine runWord_keeps (fun _ _ hy => ?_)
  dsimp only
  split
  · exact fun _ hy => hy
  · exact fun _ _ hy => hy

/-! ### Frame allocation (R286) -/

theorem execEnter_keeps {c : Common} {bud : BitVec 4} {size : BitVec 16} : StepKeeps s (execEnter c bud size s) := by
  refine laneWord_keeps fun x y i q hq => ?_
  dsimp only at hq
  split at hq
  · cases hq
    exact fun _ hy => hy
  · split at hq
    · cases hq
    · cases hq
      exact fun _ hy => hy

theorem execLeave_keeps {c : Common} {size : BitVec 16} : StepKeeps s (execLeave c size s) :=
  simpleWord_keeps (fun _ _ hy => foldl_inv (fun _ _ hy => hy) hy)

/-! ### Calls (R287, R288) -/

theorem enterProc_inv {x : IC} {lane : Nat} {t : DWord} {q : Nat × Nat × List Loc} {hold : Option Nat} (h : s.Inv) :
    (s.enterProc x lane t q hold).Inv :=
  modLane_inv (enqueue_inv h)

theorem callWord_keeps {v : View} {pz : IC → Nat → Bool} {target : IC → Nat → DWord} : StepKeeps s (callWord v pz target s) := by
  refine laneWord_keeps fun x y i q hq => ?_
  obtain ⟨k, -, rfl⟩ := chk_map_eq_ok hq
  exact fun _ hy => enterProc_inv hy

/-! ### Uses of a link slot (R45) -/

theorem entryStep_keeps {x : IC} {f : State → State} (hf : KeepsInv f) : PlanKeeps (s.entryStep x f) := by
  unfold State.entryStep
  split
  · exact fun _ hy => openCommit_inv hy
  · exact fun _ hy => committed_inv hy hf

theorem parkPlan_keeps {x : IC} {c : CtxId} {eb e : Nat} {b : BEntry} : PlanKeeps (s.parkPlan x c eb e b) := by
  unfold State.parkPlan
  dsimp only
  split
  · exact entryStep_keeps fun _ hy => parkOn_inv hy
  · exact fun _ hy => parkOn_inv hy

theorem unboundWord_inv {x : IC} {c : CtxId} {m slot eb nb e : Nat} {b : BEntry} (h : s.Inv) :
    (s.unboundWord x c m slot eb nb e b).Inv := by
  unfold State.unboundWord
  dsimp only
  split
  · exact handlerFault_inv (bindFailed_inv (putEntry_inv h))
  split
  · split
    · exact parkOn_inv (takeUnbound_inv (putEntry_inv h))
    · exact takeUnbound_inv (putEntry_inv h)
  · exact takeUnbound_inv (putEntry_inv h)

theorem useSlot_keeps {x : IC} {slot : Nat} {bound : Nat → BEntry → Plan} (hbound : ∀ a0 a1, PlanKeeps (bound a0 a1)) :
    PlanKeeps (s.useSlot x slot bound) := by
  unfold State.useSlot
  dsimp only
  split
  · exact fun _ hy => hy
  split
  · exact trivial
  split
  · exact trivial
  split
  · exact entryStep_keeps fun _ hy => unboundWord_inv hy
  split
  · exact parkPlan_keeps
  split
  · exact trivial
  · exact hbound _ _

theorem execCallSym_keeps {c : Common} {f : CF} : StepKeeps s (execCallSym c f s) := by
  refine runWord_keeps fun x y _ => useSlot_keeps fun e b => ?_
  dsimp only
  split
  · trivial
  split
  · exact fun z hz => faultLanes_inv hz
  split
  · exact fun z hz => openCommit_inv hz
  refine checkedPlan_keeps fun _ z hz => committed_inv hz fun u hu => foldl_inv (fun _ _ hv => enterProc_inv hv) ?_
  exact holdUp_getD_inv hu

/-! ### Returns and exits (R289, R290) -/

theorem exitFrames_inv {wid lane : Nat} {c : CtxId} {fs : List (Nat × Frame)} (h : s.Inv) : (s.exitFrames wid lane c fs).Inv := by
  unfold State.exitFrames
  refine exitLane_inv (foldl_inv (fun _ _ hy => ?_) h)
  split
  · exact holdDown_inv hy
  · exact hy

theorem exitCheck_ok {x : IC} {lane : Nat} {q : Bool × (State → State)} (hq : s.exitCheck x lane = .ok q) : KeepsInv q.2 := by
  obtain ⟨fs, -, hq⟩ := chk_bind_eq_ok hq
  obtain ⟨k, -, rfl⟩ := chk_map_eq_ok hq
  exact fun _ hy => exitFrames_inv hy

theorem retCheck_ok {x : IC} {lane : Nat} {q : Bool × (State → State)} (hq : s.retCheck x lane = .ok q) : KeepsInv q.2 := by
  obtain ⟨f, -, hq⟩ := chk_bind_eq_ok hq
  split at hq
  · exact exitCheck_ok hq
  · obtain ⟨_, -, hq⟩ := chk_bind_eq_ok hq
    obtain ⟨k, -, rfl⟩ := chk_map_eq_ok hq
    intro y hy
    dsimp only
    split
    · exact holdDown_inv hy
    · exact hy

/-! ### Marks and instruction prefetch (R292, R293) -/

theorem execMark_keeps {c : Common} {f : CF} : StepKeeps s (execMark c f s) := by
  refine runWord_keeps fun x y _ => lanePlan_keeps fun i q hq => ?_
  obtain ⟨k, -, rfl⟩ := chk_map_eq_ok hq
  exact fun _ hz => modLane_inv (fixed_inv (enqueue_inv hz))

theorem prefiLane_inv {x : IC} {lane : Nat} {a : DWord} {len : Nat} (h : s.Inv) : (s.prefiLane x lane a len).Inv := by
  unfold State.prefiLane
  dsimp only
  split
  · split
    · exact h
    · exact allocAll_inv h
  · exact h
  · exact h

theorem execPrefi_keeps {c : Common} {f : CF} : StepKeeps s (execPrefi c f s) := by
  refine laneWord_keeps fun x y i q hq => ?_
  cases hq
  exact fun _ hz => prefiLane_inv hz

/-! ### Stopped lanes (R290, R408) -/

theorem wakeLane_inv {wid lane : Nat} {ends : Bool} (h : s.Inv) : (s.wakeLane wid lane ends).Inv := h

theorem endLane_inv {wid lane : Nat} (h : s.Inv) : (s.endLane wid lane).Inv := by
  unfold State.endLane
  dsimp only
  split
  · split <;> exact h
  · exact askFrame_inv h
  split
  · exact h
  split
  · exact exitFrames_inv (wakeLane_inv (failLane_inv h))
  · exact atCommit_inv h fun _ hy => exitFrames_inv (wakeLane_inv (failLane_inv hy))

theorem endLanes_inv {wid : Nat} (h : s.Inv) : (s.endLanes wid).Inv := by
  unfold State.endLanes
  refine foldl_inv (fun _ _ hy => ?_) h
  dsimp only
  split
  · exact endLane_inv hy
  · exact hy

/-! ### Tile tags (R323) -/

theorem modTag_inv {core t : Nat} {f : TileTag → TileTag} (h : s.Inv) : (s.modTag core t f).Inv := h

theorem claim_inv {core : Nat} {c : CtxId} {ts : List Nat} (h : s.Inv) : (s.claim core c ts).Inv :=
  foldl_inv (fun _ _ hy => by split <;> exact hy) h

theorem touch_inv {core : Nat} {c : CtxId} {ls : List Loc} (h : s.Inv) : (s.touch core c ls).Inv := claim_inv h

theorem sendLoad_inv {wid : Nat} {ld : LoadRec} (h : s.Inv) : (s.sendLoad wid ld).Inv := by
  unfold State.sendLoad
  dsimp only
  split <;> exact h

theorem startLoad_inv {wid : Nat} {ld : LoadRec} (h : s.Inv) : (s.startLoad wid ld).Inv := by
  unfold State.startLoad
  dsimp only
  split
  · exact sendLoad_inv h
  · exact takeLoad_inv h

theorem issueLoad_inv {x : IC} {lane : Nat} {addr : DWord} {locs : List Loc} {dst : List (Nat × Nat × Nat)} {acq : Bool} (h : s.Inv) :
    (s.issueLoad x lane addr locs dst acq).Inv := by
  unfold State.issueLoad
  extract_lets wid s0 id ld s1 s2 w
  have h0 : s0.Inv := foldl_inv (fun _ _ hy => takeLoad_inv hy) (touch_inv h)
  have h2 : s2.Inv := inv_of_mem h0 rfl
  split
  · exact h2
  split
  · exact modWeft_inv h2
  · exact startLoad_inv h2

/-! ### Operands (R307) -/

theorem memPlan_keeps {x : IC} {ls : List Nat} {pz : Nat → Bool} {chk : Nat → Chk (State → State)}
    (hc : ∀ i f, chk i = .ok f → KeepsInv f) :
    PlanKeeps (memPlan x ls pz chk) := by
  unfold memPlan
  dsimp only
  split
  · exact fun _ hy => hy
  · exact checkedPlan_keeps fun _ _ hy => foldl_inv_mem (fun a ha => hc a.1 a.2 (sortLanes_passed ha)) hy

theorem memWord_keeps {v : View} {who : IC → List Nat} {pz : IC → Nat → Bool} {chk : IC → State → Nat → Chk (State → State)}
    (hc : ∀ x y i f, chk x y i = .ok f → KeepsInv f) :
    StepKeeps s (memWord v who pz chk s) :=
  runWord_keeps fun x y _ => memPlan_keeps (hc x y)

/-! ### Loads and stores (R308, R309) -/

theorem execLd_keeps {c : Common} {f : MF} : StepKeeps s (execLd c f s) := by
  refine memWord_keeps fun x y i g hg => ?_
  obtain ⟨q, -, rfl⟩ := chk_map_eq_ok hg
  exact fun z hz => issueLoad_inv hz

theorem execLds_keeps {c : Common} {f : MF} : StepKeeps s (execLds c f s) := by
  refine memWord_keeps fun x y i g hg => ?_
  obtain ⟨q, -, rfl⟩ := chk_map_eq_ok hg
  exact fun z hz => issueLoad_inv hz

theorem queueStore_inv {x : IC} {lane : Nat} {addr : DWord} {ws : List Wr} {rel : Scope} (h : s.Inv) :
    (s.queueStore x lane addr ws rel).Inv :=
  enqueue_inv (addParts_inv (touch_inv h))

theorem execSt_keeps {c : Common} {f : MF} : StepKeeps s (execSt c f s) := by
  refine memWord_keeps fun x y i g hg => ?_
  obtain ⟨q, -, rfl⟩ := chk_map_eq_ok hg
  exact fun z hz => queueStore_inv hz

theorem execSts_keeps {c : Common} {f : MF} : StepKeeps s (execSts c f s) := by
  refine memWord_keeps fun x y i g hg => ?_
  obtain ⟨q, -, rfl⟩ := chk_map_eq_ok hg
  exact fun z hz => queueStore_inv hz

/-! ### Atomics (R310) -/

theorem atomWord_keeps {v : View} {op : AtomOp} {f : MF} : StepKeeps s (atomWord v op f s) := by
  refine memWord_keeps fun x y i g hg => ?_
  obtain ⟨q, -, hg⟩ := chk_bind_eq_ok hg
  split at hg
  · cases hg
  · cases hg
    exact fun z hz => enqueue_inv (touch_inv hz)

/-! ### Fences (R311) -/

theorem execFence_keeps {c : Common} {f : MF} : StepKeeps s (execFence c f s) := by
  refine memWord_keeps fun x y i g hg => ?_
  cases hg
  intro z hz
  dsimp only
  split
  · exact hz
  · exact enqueue_inv hz

/-! ### Prefetch and discard (R320, R321) -/

theorem prefLane_inv {x : IC} {lane : Nat} {a : DWord} {disp : Int} {len : Nat} (h : s.Inv) : (s.prefLane x lane a disp len).Inv := by
  unfold State.prefLane
  split
  · exact h
  split
  · exact allocAll_inv h
  · exact h
  · exact h

theorem execPref_keeps {c : Common} {f : MF} : StepKeeps s (execPref c f s) := by
  refine memWord_keeps fun x y i g hg => ?_
  cases hg
  exact fun z hz => prefLane_inv hz

theorem execDiscard_keeps {c : Common} {f : MF} : StepKeeps s (execDiscard c f s) := by
  refine memWord_keeps fun x y i g hg => ?_
  obtain ⟨ps, -, rfl⟩ := chk_map_eq_ok hg
  exact fun z hz => enqueue_inv hz

/-! ### The entry that a word selects (R313) -/

theorem makeFuture_inv {x : IC} {n : Nat} {k : FutKind} {parts : Nat} (h : s.Inv) : (s.makeFuture x n k parts).1.Inv := by
  unfold State.makeFuture
  split
  · next s1 r ht => exact setHandle_inv (newFut_some h ht)
  · exact h

theorem finish_inv {r : Option FutRef} {v : DWord} (h : s.Inv) : (s.finish r v).Inv := by
  unfold State.finish
  split
  · exact completeFut_inv h
  · exact h

theorem malformedAt_inv {x : IC} {eb e : Nat} {y : State} (h : y.Inv) : (s.malformedAt x eb e y).Inv := by
  unfold State.malformedAt
  split
  · exact h
  · exact faultLanes_inv h

theorem bindWord_keeps {v : View} {f : MF} {k : Nat → FutKind} {pz : IC → Nat → Bool} {rel : IC → Bool}
    {op : IC → Nat → Nat → State → State} (hop : ∀ x e eb, KeepsInv (op x e eb)) :
    StepKeeps s (bindWord v f k pz rel op s) := by
  refine runWord_keeps fun x y _ => ?_
  extract_lets t due
  split
  · exact fun _ hz => hz
  split
  · exact fun _ hz => openCommit_inv hz
  split
  · exact fun _ hz => hz
  clear_value t
  refine memPlan_keeps fun i g hg => ?_
  split at hg
  · cases hg
  · injection hg with hg
    subst hg
    intro z hz
    beta_reduce
    extract_lets y0
    have h0 : y0.Inv := by
      unfold y0
      split
      · exact spread_inv hz
      · exact hz
    exact malformedAt_inv (committed_inv h0 (hop _ _ _))

theorem execBind_keeps {c : Common} {f : MF} : StepKeeps s (execBind c f s) :=
  bindWord_keeps fun _ _ _ _ hz => finish_inv (makeFuture_inv (bindEntry_inv hz))

theorem execUnbind_keeps {c : Common} {f : MF} : StepKeeps s (execUnbind c f s) := by
  refine bindWord_keeps fun x e eb z hz => ?_
  dsimp only
  split
  · exact finish_inv (unbindEntry_inv (makeFuture_inv hz))
  · exact unbindEntry_inv (makeFuture_inv hz)

theorem execLookup_keeps {c : Common} {f : MF} : StepKeeps s (execLookup c f s) := by
  refine runWord_keeps fun x y _ => ?_
  split
  · exact fun _ hz => hz
  · refine memPlan_keeps fun i g hg => ?_
    obtain ⟨q, -, rfl⟩ := chk_map_eq_ok hg
    exact fun z hz => issueLoad_inv (makeFuture_inv hz)

theorem endLookup_inv {wid : Nat} {ld : LoadRec} (h : s.Inv) : (s.endLookup wid ld).Inv :=
  foldl_inv (fun _ _ hy => completeFut_inv hy) h

theorem dropLookups_inv (h : s.Inv) : s.dropLookups.Inv := foldl_inv (fun _ _ hy => completeFut_inv hy) h

theorem execSegrd_keeps {c : Common} {f : VI} : StepKeeps s (execSegrd c f s) :=
  runWord_keeps fun _ _ _ => useSlot_keeps (fun _ _ _ hy => tracked_inv hy)

/-! ### Send slots (R116) -/

theorem wakePush_inv {core n : Nat} (h : s.Inv) : (s.wakePush core n).Inv := foldl_inv (fun _ _ hy => hy) h

theorem slotWritten_inv {core n : Nat} (h : s.Inv) : (s.slotWritten core n).Inv := wakePush_inv h

/-! ### push (R117, R318) -/

theorem sendEntry_inv {x : IC} {lane n : Nat} {b : Opnd} (h : s.Inv) : (s.sendEntry x lane n b).Inv := enqueue_inv h

theorem execPush_keeps {c : Common} {f : MF} : StepKeeps s (execPush c f s) := by
  unfold execPush
  refine runWord_keeps (fun _ _ hy => ?_)
  dsimp only
  split
  · exact fun _ hy => hy
  split
  · exact trivial
  split
  · exact fun _ hy => hy
  split
  · exact fun _ hy => hy
  split
  · exact fun _ hy => openCommit_inv hy
  · exact fun _ _ hy => wakePush_inv (committed_inv hy (fun _ hy => foldl_inv (fun _ _ hy => sendEntry_inv hy) hy))

/-! ### Queue headers (R115, R118) -/

theorem putPadWord_inv {pa x : Nat} (h : s.Inv) : (s.putPadWord pa x).Inv := write_inv h _

/-! ### pop (R319) -/

theorem popOne_inv {p : Panel} {off : Nat} (h : s.Inv) : (s.popOne p off).1.Inv := by
  unfold State.popOne
  extract_lets base h0 h1 head e bs
  split
  · exact h
  split
  · exact h
  · exact putPadWord_inv h

theorem popLane_inv {x : IC} {lane : Nat} {d b : Opnd} {a : DWord} {off : Nat} (h : s.Inv) : (s.popLane x lane d b a off).Inv := by
  -- the pop is named before the body is opened, and the body is opened as a function: on its arguments the kernel would run the pop
  obtain ⟨q, hq⟩ : ∃ q, s.popOne x.p off = q := ⟨_, rfl⟩
  obtain ⟨f, hf⟩ : ∃ f, f = State.popLane := ⟨_, rfl⟩
  have h1 : q.1.Inv := hq ▸ popOne_inv h
  rw [← hf]
  delta State.popLane at hf
  subst hf
  beta_reduce
  rw [hq]
  extract_lets q1 id got flag bytes dk bk ld s1 pa s2
  have h2 : s2.Inv := inv_of_mem h1 rfl
  split
  · exact h2
  split
  · exact inv_of_mem h2 rfl
  · exact inv_of_mem h2 rfl

theorem execPop_keeps {c : Common} {f : MF} : StepKeeps s (execPop c f s) := by
  refine runWord_keeps fun x y _ => ?_
  extract_lets chk offs
  split
  · exact fun _ hz => hz
  · refine memPlan_keeps fun i g hg => ?_
    obtain ⟨off, -, rfl⟩ := chk_map_eq_ok hg
    exact fun z hz => popLane_inv hz

/-! ### Arrivals -/

theorem refusePush_inv {core : Nat} {m : MqMsg} (h : s.Inv) : (s.refusePush core m).Inv := wakePush_inv (by split <;> exact h)

theorem landEntry_inv {p : Panel} {off : Nat} {m : MqMsg} (h : s.Inv) : (s.landEntry p off m).Inv := by
  unfold State.landEntry
  dsimp only
  split
  · exact report_inv (putPadWord_inv h)
  · exact putPadWord_inv (write_inv h _)

theorem execMqEntryArrival_keeps {core slot : Nat} : StepKeeps s (execMqEntryArrival core slot s) := by
  unfold execMqEntryArrival
  split
  · exact .of_mem rfl
  split
  · exact .of_mem rfl
  dsimp only
  split
  · exact .next fun h => refusePush_inv h
  split
  · exact .next fun h => refusePush_inv h
  split
  · exact .of_mem rfl
  · exact .next fun h => inbound_inv (landEntry_inv h)

theorem execMqCreditReturn_keeps {id : Nat} : StepKeeps s (execMqCreditReturn id s) := by
  unfold execMqCreditReturn
  split
  · exact .of_mem rfl
  dsimp only
  split
  · exact .of_mem rfl
  split
  · exact .next fun h => wakePush_inv h
  · exact .next fun h => inbound_inv (putPadWord_inv h)

theorem crossWord_keeps {v : View} {f : V3} {used : Bool} {pz : IC → Nat → Bool} {g : IC → Nat → DWord} :
    StepKeeps s (crossWord v f used pz g s) := by
  unfold crossWord
  refine runWord_keeps (fun _ _ hy => ?_)
  refine fun _ _ hy => ?_
  dsimp only
  split
  · exact consume_inv (tracked_inv hy)
  · exact tracked_inv hy

theorem xlWord_keeps {v : View} {sub : Nat} {f : V3} : StepKeeps s (xlWord v sub f s) := crossWord_keeps

theorem voteWord_keeps {v : View} {f : V3} {ident : DWord} {g : List (Nat × DWord) → DWord} : StepKeeps s (voteWord v f ident g s) :=
  crossWord_keeps

theorem redWord_keeps {v : View} {f : V3} {m : Comb} {keep : Nat → Nat → Bool} : StepKeeps s (redWord v f m keep s) := crossWord_keeps

theorem setStreams_inv {x : IC} {next : Nat → DWord} (h : s.Inv) : (s.setStreams x next).Inv := h

theorem floatWord_keeps {v : View} {lat : Option Nat} {d64 : Bool} {d : Opnd} {rnd : Rnd} {sat : Bool} {n : Nat} {chk : Bool}
    {pz : IC → Nat → Bool} {g : IC → Nat → FEnv → DWord} :
    StepKeeps s (floatWord v lat d64 d rnd sat n chk pz g s) := by
  unfold floatWord
  refine simpleWord_keeps (fun _ _ hy => consume_inv ?_)
  split
  · split
    · exact hy
    · exact tracked_inv hy
  split
  · exact hy
  · exact tracked_inv hy

theorem execRnd_keeps {c : Common} {f : V3} : StepKeeps s (execRnd c f s) :=
  simpleWord_keeps (fun _ _ hy => consume_inv (setStreams_inv (tracked_inv hy)))

end Sys2Proof.Proofs
end

section
/-! SUPPORT. Matrix words, skeins, copies, barriers, system words and the issue stage keep memory in its canonical form. -/
namespace Sys2Proof.Proofs
open Sys2Proof Sys2Proof.Machine

variable {s : State}

/-! ### Tiles (R101, R102, R323) -/

theorem zeroTile_inv {core t : Nat} {owner : CtxId} (h : s.Inv) : (s.zeroTile core t owner).Inv := modTag_inv (write_inv h _)

theorem spillTile_ok {core k : Nat} {t : State} (h : s.Inv) (ht : s.spillTile core k = .ok t) : t.Inv := by
  unfold State.spillTile at ht
  split at ht
  · cases ht
    exact h
  split at ht
  · split at ht <;> cases ht
  extract_lets bs s0 at_ s1 at ht
  have h0 : s0.Inv := write_inv h _
  have h1 : s1.Inv := by
    unfold s1
    split
    · exact deviceWrite_inv h0 _ _ _ _ _
    · exact h0
  injection ht with ht
  exact inv_of_mem h1 (ht ▸ rfl)

/-! ### Barriers (R357 to R359) -/

theorem decideBar_inv {b : BarrierName} (h : s.Inv) : (s.decideBar b).Inv := by
  unfold State.decideBar
  split <;> exact h

theorem modPend_inv {pid : Nat} {b : Option (Scope × Nat)} {g : Nat → Nat} (h : s.Inv) : (s.modPend pid b g).Inv := by
  unfold State.modPend
  split <;> exact h

theorem addPend_inv {p : Panel} {b : Option (Scope × Nat)} {n : Nat} (h : s.Inv) : (s.addPend p b n).Inv := by
  unfold State.addPend
  split
  · exact modPend_inv (decideBar_inv h)
  · exact h

/-! ### Accesses by an engine -/

theorem landBy_inv {pid core : Nat} {ws : List Wr} {src id : Nat} (h : s.Inv) : (s.landBy pid core ws src id).Inv :=
  foldl_inv (fun _ _ hy => inbound_inv hy) (writeBy_inv h)

theorem landAll_inv {pid : Nat} {ws : List Wr} {id : Nat} (h : s.Inv) : (s.landAll pid ws id).Inv := spreadCmd_inv (landBy_inv h)

/-! ### Issue (R326, R329, R330) -/

theorem queueMat_inv {x : IC} {k : MKind} {f : XF} {a : DWord × Option (Desc × Seg × Nat)} {b : DWord} {parts : List Panel} (h : s.Inv)
    :
    (s.queueMat x k f a b parts).Inv := by
  unfold State.queueMat
  dsimp only
  split
  · refine enqueue_inv (addParts_inv (inv_of_mem (foldl_inv (fun _ _ hy => ?_) h) rfl))
    split
    · exact hy
    · exact modPanel_inv (decideBar_inv hy)
  refine addParts_inv (inv_of_mem (foldl_inv (fun _ _ hy => ?_) h) rfl)
  split
  · exact hy
  · exact modPanel_inv (decideBar_inv hy)

/-! ### The matrix order (R326, R394) -/

theorem modMWord_inv {core id : Nat} {g : MWord → MWord} (h : s.Inv) : (s.modMWord core id g).Inv := h

/-! ### The words (R330) -/

theorem matPlan_keeps {x : IC} {k : MKind} {f : XF} {useA useB : Bool} : PlanKeeps (s.matPlan x k f useA useB) := by
  unfold State.matPlan
  extract_lets i others bad refuse a b ps
  have hbad : ∀ g, PlanKeeps (bad g) := fun _ _ _ hy => hy
  split
  · exact fun _ hy => refuse_inv hy
  split
  · exact fun _ _ hy => hy
  split
  · exact fun _ hy => hy
  split
  · exact hbad _
  split
  · exact fun _ hy => hy
  split
  · exact hbad _
  · exact fun _ hy => askPages_inv hy
  split
  · exact fun _ hy => openCommit_inv hy
  intro y hy
  beta_reduce
  split
  · exact committed_inv hy fun _ hz => queueMat_inv hz
  · exact queueMat_inv hy

theorem matWord_keeps {v : View} {k : MKind} {f : XF} {useA useB : Bool} : StepKeeps s (matWord v k f useA useB s) :=
  runWord_keeps fun _ _ _ => matPlan_keeps

/-! ### Starts (R91, R394) -/

theorem mwStart_inv {core id : Nat} (h : s.Inv) : (s.mwStart core id).Inv := by
  unfold State.mwStart
  split <;> exact h

theorem execMatrixWordStart_keeps {core id : Nat} : StepKeeps s (execMatrixWordStart core id s) := by
  unfold execMatrixWordStart
  split
  · exact .next fun h => h
  extract_lets cs
  split
  · exact .next fun h => foldl_inv (fun _ _ hy => mwStart_inv hy) h
  · exact .next fun h => h

/-! ### Pad, beam and tile contents -/

theorem mwConsume_inv {core : Nat} {m : MWord} {pz : Bool} (h : s.Inv) : (s.mwConsume core m pz).Inv := by
  unfold State.mwConsume
  split <;> exact h

theorem accStep_inv {core : Nat} {m : MWord} {bfa : Bool} {mM mN kbs : Nat} {rows : List Nat} {kb : Nat} {pp : Nat → Nat → Int × Bool}
    (h : s.Inv) :
    (s.accStep core m bfa mM mN kbs rows kb pp).Inv :=
  mwConsume_inv (write_inv h _)

/-! ### Steps (R340 to R346) -/

theorem mwRaise_inv {m : MWord} {f : LFault} (h : s.Inv) : (s.mwRaise m f).Inv := by
  unfold State.mwRaise
  split <;> exact h

theorem mwForeign_inv {core : Nat} {m : MWord} {t : Nat} (h : s.Inv) : (s.mwForeign core m t).Inv := by
  unfold State.mwForeign
  dsimp only
  split
  · exact h
  split
  · exact h
  · exact mwRaise_inv h

theorem mwNext_inv {core id : Nat} (h : s.Inv) : (s.mwNext core id).Inv := h

theorem prodTags_inv {core : Nat} {m : MWord} (h : s.Inv) : (s.prodTags core m).Inv := foldl_inv (fun _ _ hy => hy) h

theorem beamFail_inv {core : Nat} {m : MWord} (h : s.Inv) : (s.beamFail core m).Inv := by
  unfold State.beamFail
  dsimp only
  split
  · exact h
  · exact mwRaise_inv h

theorem mmaStep_inv {core : Nat} {m : MWord} (h : s.Inv) : (s.mmaStep core m).Inv := by
  unfold State.mmaStep
  dsimp only
  split
  · exact beamFail_inv (prodTags_inv (mwConsume_inv (write_inv h _)))
  split
  · exact prodTags_inv (mwNext_inv (mwConsume_inv (write_inv h _)))
  · exact mwNext_inv (mwConsume_inv (write_inv h _))

theorem mmaSStep_inv {core : Nat} {m : MWord} (h : s.Inv) : (s.mmaSStep core m).Inv := by
  unfold State.mmaSStep
  dsimp only
  split
  · exact beamFail_inv h
  · exact mwNext_inv (accStep_inv h)

theorem saccStep_inv {core : Nat} {m : MWord} (h : s.Inv) : (s.saccStep core m).Inv := mwNext_inv (accStep_inv h)

theorem alignStep_inv {core : Nat} {m : MWord} (h : s.Inv) : (s.alignStep core m).Inv := mwNext_inv (mwConsume_inv (write_inv h _))

theorem tileFault_inv {core : Nat} {m : MWord} {f : LFault} (h : s.Inv) : (s.tileFault core m f).Inv := by
  unfold State.tileFault
  split
  · exact h
  · exact mwRaise_inv h

theorem tileSector_inv {core : Nat} {m : MWord} {loads : Bool} (h : s.Inv) : (s.tileSector core m loads).1.Inv := by
  unfold State.tileSector
  extract_lets p t at_ mine r
  split
  · exact tileFault_inv h
  split
  · exact queueWalks_inv h
  · exact tileFault_inv h
  extract_lets far older moved
  split
  · exact h
  split
  · split
    · exact h
    · exact modMWord_inv (allocAll_inv (write_inv h _))
  split
  · exact modMWord_inv h
  · exact modMWord_inv (landBy_inv h)

theorem tileStep_inv {core : Nat} {m : MWord} {loads : Bool} (h : s.Inv) : (s.tileStep core m loads).Inv := by
  unfold State.tileStep
  extract_lets t go q s1 s2
  have hq : q.1.Inv := by
    refine foldl_fst_inv (fun z k hz => ?_) h
    simp only [go]
    split
    · exact hz
    split
    · exact tileSector_inv hz
    · exact hz
  clear_value q
  have h1 : s1.Inv := by
    unfold s1
    split
    · exact mwNext_inv hq
    · exact hq
  have h2 : s2.Inv := takeWalks_inv h1
  split
  · exact modTag_inv h2
  · exact h2

theorem mwStep_inv {core : Nat} {m : MWord} (h : s.Inv) : (s.mwStep core m).Inv := by
  unfold State.mwStep
  dsimp only
  split
  · exact foldl_inv (fun _ _ hy => by split <;> exact hy) h
  · exact h
  · exact mmaStep_inv h
  · exact mmaStep_inv h
  · exact mmaSStep_inv h
  · exact alignStep_inv h
  · exact saccStep_inv h
  · exact tileStep_inv h
  · exact tileStep_inv h
  · exact tileStep_inv h
  · exact tileStep_inv h
  · exact mwNext_inv (zeroTile_inv h)
  · exact mwNext_inv (modTag_inv (zeroTile_inv h))

theorem execTreadleStepEnd_keeps {core id : Nat} : StepKeeps s (execTreadleStepEnd core id s) := by
  unfold execTreadleStepEnd
  split
  · exact .of_mem rfl
  split
  · exact .of_mem rfl
  dsimp only
  split
  · exact .next fun h => mwForeign_inv h
  · exact .next fun h => mwStep_inv (claim_inv h)

theorem mwEnd_inv {core : Nat} {m : MWord} (h : s.Inv) : (s.mwEnd core m).Inv := by
  unfold State.mwEnd
  dsimp only
  split
  · exact modBoth_inv (partDone_inv (by split <;> exact h))
  · exact partDone_inv (by split <;> exact h)

theorem execMatrixWordComplete_keeps {core id : Nat} : StepKeeps s (execMatrixWordComplete core id s) := by
  unfold execMatrixWordComplete
  split
  · exact .of_mem rfl
  split
  · exact .next fun h => mwEnd_inv h
  · exact .of_mem rfl

/-! ### CUT (R296) -/

theorem cutLane_ok {wid : Nat} {e : SqEntry} {a b : DWord} {bf : Nat} {f : State → State} (hf : s.cutLane wid e a b bf = .ok f) :
    KeepsInv f := by
  unfold State.cutLane at hf
  dsimp only at hf
  split at hf
  · cases hf
  obtain ⟨m, -, hf⟩ := chk_bind_eq_ok hf
  split at hf
  · cases hf
  obtain ⟨fs, -, hf⟩ := chk_bind_eq_ok hf
  obtain ⟨_, -, hf⟩ := chk_bind_eq_ok hf
  obtain ⟨_, -, hf⟩ := chk_bind_eq_ok hf
  split at hf
  · cases hf
  obtain ⟨_, -, hf⟩ := chk_bind_eq_ok hf
  split at hf
  · cases hf
  obtain ⟨d, -, hf⟩ := chk_bind_eq_ok hf
  obtain ⟨src, -, hf⟩ := chk_bind_eq_ok hf
  split at hf
  · cases hf
  · cases hf
    exact fun y hy => committed_inv hy fun z hz => writeBy_inv (spread_inv hz)

/-! ### GRAFT (R297) -/

theorem graftLane_ok {wid : Nat} {e : SqEntry} {a : DWord} {f : State → State} (hf : s.graftLane wid e a = .ok (some f)) :
    KeepsInv f := by
  unfold State.graftLane at hf
  obtain ⟨q, -, hf⟩ := chk_bind_eq_ok hf
  split at hf
  · cases hf
  split at hf
  · cases hf
  split at hf
  · cases hf
  split at hf
  · cases hf
  obtain ⟨src, -, hf⟩ := chk_bind_eq_ok hf
  obtain ⟨dst, -, hf⟩ := chk_bind_eq_ok hf
  obtain ⟨_, -, hf⟩ := chk_bind_eq_ok hf
  dsimp only at hf
  split at hf
  · cases hf
  split at hf
  · cases hf
  · cases hf
    exact fun y hy => committed_inv hy fun z hz => writeBy_inv (foldl_inv (fun _ _ hu => holdUp_getD_inv hu) hz)

/-! ### The words -/

theorem execCut_keeps {c : Common} {f : CF} : StepKeeps s (execCut c f s) := by
  refine laneWord_keeps fun x y i q hq => ?_
  cases hq
  exact fun _ hz => enqueue_inv hz

theorem execGraft_keeps {c : Common} {f : CF} : StepKeeps s (execGraft c f s) := by
  refine laneWord_keeps fun x y i q hq => ?_
  cases hq
  exact fun _ hz => enqueue_inv hz

theorem freeSkein_inv {c : CtxId} {h : SkHdr} {img : List Byte} {hdr : List Loc} (hs : s.Inv) : (s.freeSkein c h img hdr).Inv :=
  write_inv (foldl_inv (fun _ _ hy => foldl_inv (fun _ _ hy => holdDown_inv hy) hy) hs) _

theorem dropCheck_ok {x : IC} {lane : Nat} {a : DWord} {q : Bool × (State → State)} (hq : s.dropCheck x lane a = .ok q) :
    KeepsInv q.2 := by
  obtain ⟨z, -, hq⟩ := chk_bind_eq_ok hq
  dsimp only at hq
  split at hq
  · cases hq
  · obtain ⟨img, -, hq⟩ := chk_bind_eq_ok hq
    obtain ⟨k, -, rfl⟩ := chk_map_eq_ok hq
    intro y hy
    dsimp only
    split
    · exact hy
    · split
      · exact freeSkein_inv hy
      · exact write_inv hy _

/-! ### The words (R354, R356) -/

theorem engineWord_keeps {v : View} {f : EF} {k : FutKind} {pz : IC → Nat → Bool} {cmd : IC → Option FutRef → Nat → State → SqOp} :
    StepKeeps s (engineWord v f k pz cmd s) := by
  unfold engineWord
  refine runWord_keeps (fun _ _ hy => ?_)
  split
  · exact trivial
  split
  · exact fun _ hy => hy
  · exact fun _ _ hy => foldl_inv (fun _ _ hy => modWeft_inv (enqueue_inv hy)) (makeFuture_inv hy)

theorem execQfence_keeps {c : Common} {f : EF} : StepKeeps s (execQfence c f s) := by
  unfold execQfence
  refine simpleWord_keeps (fun _ _ hy => ?_)
  split
  · exact hy
  · exact enqueue_inv hy

/-! ### Uses of a future (R352) -/

theorem execFwait_keeps {c : Common} {f : EF} : StepKeeps s (execFwait c f s) :=
  runWord_keeps fun _ _ hy => by split <;> exact fun _ hy => hy

theorem execHget_keeps {c : Common} {f : EF} : StepKeeps s (execHget c f s) :=
  runWord_keeps fun _ _ hy => by split <;> exact fun _ hy => hy

theorem execHput_keeps {c : Common} {f : EF} : StepKeeps s (execHput c f s) := by
  unfold execHput
  refine runWord_keeps (fun _ _ hy => ?_)
  dsimp only
  split
  · exact fun _ hy => hy
  split
  · exact fun _ _ hy => hy
  · exact fun _ hy => setHandle_inv hy

/-! ### Cancels (R353) -/

theorem endDeq_inv {d : Deq} {status : Nat} (h : s.Inv) : (s.endDeq d status).Inv := by
  unfold State.endDeq
  extract_lets mask s1
  have h1 : s1.Inv := foldl_inv (fun _ _ hy => modBoth_inv hy) h
  exact completeFut_inv (inv_of_mem h1 rfl)

theorem voidRecord_inv {v : Saved} {k : Nat} (h : s.Inv) : (s.voidRecord v k).Inv := by
  unfold State.voidRecord
  dsimp only
  split
  · exact deviceWrite_inv h _ _ _ _ _
  · exact h

theorem cancelSaved_inv {r : FutRef} (h : s.Inv) : (s.cancelSaved r).Inv := by
  unfold State.cancelSaved
  refine foldl_inv (fun _ _ hy => endPart_inv hy) (inv_of_mem (foldl_inv (fun _ _ hy => foldl_inv (fun _ _ hy => ?_) hy) h) rfl)
  split
  · exact voidRecord_inv hy
  · exact hy

theorem cancelFut_inv {r : FutRef} (h : s.Inv) : (s.cancelFut r).Inv := by
  unfold State.cancelFut
  split
  · exact h
  split
  · exact h
  split
  · exact cancelSaved_inv h
  · exact cancelSaved_inv h
  · split
    · exact endDeq_inv h
    · exact completeFut_inv h
  · exact completeFut_inv h
  · exact cancelUnbind_inv h
  · exact completeFut_inv h
  · exact h

theorem execFcancel_keeps {c : Common} {f : EF} : StepKeeps s (execFcancel c f s) := by
  refine runWord_keeps fun x y _ => ?_
  extract_lets commits go
  have hgo : KeepsInv go := by
    intro u hu
    simp only [go]
    split
    · exact hu
    · split
      · exact modFut_inv (addParts_inv (cancelFut_inv hu))
      · exact cancelFut_inv hu
  split
  · exact fun _ hz => openCommit_inv hz
  · intro z hz
    dsimp only
    split
    · exact committed_inv hz hgo
    · exact hgo z hz

/-! ### Acceptance of a copy command (R28, R121, R123, R142, R354) -/

theorem dropSq_inv {wid id : Nat} (h : s.Inv) : (s.dropSq wid id).Inv := h

theorem stepOut_inv {wid track : Nat} (h : s.Inv) : (s.stepOut wid track).Inv := by
  unfold State.stepOut
  split <;> exact h

theorem endCmd_inv {wid : Nat} {e : SqEntry} {fut : Option FutRef} {cancelled : Bool} (h : s.Inv) :
    (s.endCmd wid e fut cancelled).Inv := by
  unfold State.endCmd
  dsimp only
  split
  · exact endPart_inv (doneIf_inv h)
  · exact doneIf_inv h

theorem refuseCmd_inv {wid : Nat} {e : SqEntry} {fut : Option FutRef} {f : LFault} (h : s.Inv) : (s.refuseCmd wid e fut f).Inv :=
  stepOut_inv (faultLanes_inv (endCmd_inv h))

theorem pushCopy_inv {core q : Nat} {c : CopyCmd} (h : s.Inv) : (s.pushCopy core q c).Inv := h

theorem acceptCopy_inv {wid : Nat} {e : SqEntry} {q : Nat} {c : CopyCmd} (h : s.Inv) : (s.acceptCopy wid e q c).Inv := by
  unfold State.acceptCopy
  extract_lets w p core r
  split
  · exact doneIf_inv (dropSq_inv (pushCopy_inv h))
  split
  · exact stepOut_inv (endCmd_inv h)
  split
  · exact h
  split
  · split
    · exact h
    · exact refuseCmd_inv h
  · split
    · exact h
    · exact refuseCmd_inv h
  extract_lets sc bd commits c1 go
  have hgo : ∀ {y : State}, y.Inv → (go y).Inv := by
    intro y hy
    simp only [go]
    refine stepOut_inv ?_
    have hy1 := doneIf_inv (wid := wid) (track := e.track)
      (dropSq_inv (wid := wid) (id := e.id) (spread_inv (core := core) (sc := sc) hy))
    split
    · split
      · exact endPart_inv hy1
      · exact hy1
    · exact pushCopy_inv (modCore_inv (addPend_inv hy1))
  split
  · exact refuseCmd_inv h
  split
  · exact h
  split
  · exact atCommit_inv h fun _ hy => hgo hy
  split
  · exact h
  · exact hgo h

/-! ### Sectors (R79, R80, R355) -/

theorem retireCopy_inv {core q : Nat} {c : CopyCmd} {fault : Nat} {cancelled : Bool} (h : s.Inv) :
    (s.retireCopy core q c fault cancelled).Inv := by
  unfold State.retireCopy
  dsimp only
  split
  · exact endPart_inv (modPend_inv (modCore_inv (spreadCmd_inv h)))
  · exact modPend_inv (modCore_inv (spreadCmd_inv h))

theorem putCopy_inv {core q : Nat} {c : CopyCmd} (h : s.Inv) : (s.putCopy core q c).Inv := h

theorem sectorFault_inv {core q : Nat} {c : CopyCmd} {f : LFault} (h : s.Inv) : (s.sectorFault core q c f).Inv := by
  unfold State.sectorFault
  dsimp only
  split
  · exact takeWalks_inv h
  · exact takeWalks_inv (retireCopy_inv h)

theorem landSector_inv {core q : Nat} {c : CopyCmd} (h : s.Inv) : (s.landSector core q c).Inv := by
  unfold State.landSector
  dsimp only
  split
  · exact sectorFault_inv h
  split
  · exact sectorFault_inv h
  · exact sectorFault_inv h
  · exact queueWalks_inv h
  · exact queueWalks_inv h
  · exact queueWalks_inv h
  split
  · exact h
  split
  · exact h
  split
  · exact retireCopy_inv (takeWalks_inv (modPend_inv (putCopy_inv (landBy_inv (spreadCmd_inv (allocAll_inv (touch_inv h)))))))
  · exact takeWalks_inv (modPend_inv (putCopy_inv (landBy_inv (spreadCmd_inv (allocAll_inv (touch_inv h))))))

theorem execCopySectorLand_keeps {core queue : Nat} : StepKeeps s (execCopySectorLand core queue s) := by
  unfold execCopySectorLand
  dsimp only
  split
  · exact .next fun h => retireCopy_inv h
  split
  · exact .of_mem rfl
  split
  · refine .next fun h => ?_
    split
    · exact h
    · exact retireCopy_inv h
  split
  · exact .of_mem rfl
  · exact .next fun h => landSector_inv h

/-! ### Arrival and waiting (R358) -/

theorem arriveLanes_inv {x : IC} {idx : Nat} {ls : List Nat} (h : s.Inv) : (s.arriveLanes x idx ls).Inv := h

theorem arriveWord_keeps {v : View} {f : EF} {sync : Bool} : StepKeeps s (arriveWord v f sync s) := by
  refine runWord_keeps fun x y _ => ?_
  extract_lets idx fresh parkRest
  split
  · trivial
  split
  · exact fun _ hz => modWeft_inv hz
  split
  · exact fun _ hz => hz
  split
  · exact fun _ hz => openCommit_inv hz
  intro x1 z hz
  beta_reduce
  extract_lets go
  have hgo : KeepsInv go := by
    intro u hu
    simp only [go]
    split
    · exact modWeft_inv (addParts_inv (arriveLanes_inv (spread_inv hu)))
    · exact arriveLanes_inv (spread_inv hu)
  refine modWeft_inv ?_
  split
  · exact committed_inv hz hgo
  · exact hgo z hz

theorem execBwait_keeps {c : Common} {f : EF} : StepKeeps s (execBwait c f s) := by
  unfold execBwait
  refine runWord_keeps (fun _ _ hy => ?_)
  dsimp only
  split
  · exact trivial
  split
  · exact fun _ hy => hy
  · exact fun _ _ hy => hy

/-! ### Completion (R161, R163, R358) -/

theorem nextPhase_inv {idx : Nat} {q : Panel × List Weft} (h : s.Inv) : (s.nextPhase idx q).Inv :=
  foldl_inv (fun _ _ hy => foldl_inv (fun _ _ hy => hy) hy) h

theorem execBarrierComplete_keeps {b : BarrierName} : StepKeeps s (execBarrierComplete b s) := by
  unfold execBarrierComplete
  split
  · exact .next fun h => decideBar_inv h
  dsimp only
  split
  · exact .of_mem rfl
  split
  · refine .next fun h => foldl_inv (fun _ _ hy => ?_) h
    split
    · exact openCommit_inv hy
    · exact hy
  split
  · exact .of_mem rfl
  · exact .next fun h => foldl_inv (fun _ _ hy => committed_inv hy (fun _ hy => hy))
      (foldl_inv (fun _ _ hy => nextPhase_inv hy) (foldl_inv (fun _ _ hy => spread_inv hy) h))

/-! ### Shootdowns (R70) -/

theorem sysSet_inv {x : IC} {r : SReg} {v : DWord} (h : s.Inv) : (s.sysSet x r v).Inv := by
  unfold State.sysSet
  dsimp only
  split
  case h_8 => exact slotWritten_inv h
  all_goals exact h

theorem syswWord_keeps {v : View} {f : SF} : StepKeeps s (syswWord v f s) := by
  unfold syswWord
  refine runWord_keeps (fun _ _ hy => ?_)
  dsimp only
  split
  · exact fun _ _ hy => hy
  split
  · exact trivial
  · exact fun _ hy => sysSet_inv hy

theorem execShootdownComplete_keeps {id : Nat} : StepKeeps s (execShootdownComplete id s) := by
  unfold execShootdownComplete
  split
  · exact .of_mem rfl
  · split <;> exact .of_mem rfl

/-! ### Trace records (R369, R471, R472) -/

theorem emit_inv {wid kind tag : Nat} {l1 : LaneMask} {pc : DWord} {l2 : LaneMask} {pc2 data : DWord} (h : s.Inv) :
    (s.emit wid kind tag l1 pc l2 pc2 data).Inv := by
  unfold State.emit
  extract_lets w p k room
  split <;> exact modCore_inv h

theorem execTrace_keeps {c : Common} {f : SF} : StepKeeps s (execTrace c f s) := by
  unfold execTrace
  refine runWord_keeps (fun _ _ hy => ?_)
  split
  · exact fun _ _ hy => hy
  · exact fun _ hy => emit_inv hy

theorem execBrk_keeps {c : Common} {f : SF} : StepKeeps s (execBrk c f s) := by
  unfold execBrk
  refine runWord_keeps (fun _ _ hy => ?_)
  split
  · exact fun _ hy => hy
  split
  · exact fun _ hy => hy
  · exact fun _ hy => modWeft_inv (emit_inv hy)

/-! ### trap and rett (R370, R388, R405, R407) -/

theorem execTrap_keeps {c : Common} {f : SF} : StepKeeps s (execTrap c f s) :=
  simpleWord_keeps (fun _ _ hy => foldl_inv (fun _ _ hy => deliver_inv hy) hy)

theorem wakeWords_inv {core wid : Nat} {ends : Bool} (h : s.Inv) : (s.wakeWords core wid ends).Inv := h

theorem declineTrap_inv {x : IC} {lane code reason : Nat} {addr : DWord} {core : Nat} (h : s.Inv) :
    (s.declineTrap x lane code reason addr core).Inv := by
  unfold State.declineTrap
  dsimp only
  split
  · split
    · exact declineSub_inv h
    · exact stopLane_inv h
  · split <;> exact stopLane_inv h

theorem rettLane_inv {x : IC} {lane : Nat} (h : s.Inv) : (s.rettLane x lane).Inv := by
  unfold State.rettLane
  dsimp only
  split
  · exact askFrame_inv h
  · split
    · exact h
    · exact faultLanes_inv h
  split
  · exact faultLanes_inv h
  split
  · exact askFrame_inv h
  · split
    · exact h
    · exact faultLanes_inv h
  split
  · split
    · exact openCommit_inv h
    refine popTrap_inv ?_
    split
    · exact committed_inv h fun _ hy => bindFailed_inv hy
    · exact h
  split
  · exact declineTrap_inv (popTrap_inv h)
  split
  · exact popTrap_inv (by split <;> exact h)
  split
  · exact popTrap_inv h
  split
  · split
    · exact popTrap_inv (wakeWords_inv (zeroTile_inv h))
    split
    next s1 ht => exact popTrap_inv (wakeWords_inv (zeroTile_inv (spillTile_ok h ht)))
    · exact declineTrap_inv (popTrap_inv h)
    · exact h
  · exact popTrap_inv h

theorem execRett_keeps {c : Common} {f : SF} : StepKeeps s (execRett c f s) := by
  unfold execRett
  refine runWord_keeps (fun _ _ hy => ?_)
  split
  · exact fun _ hy => hy
  · exact fun _ hy => foldl_inv (fun _ _ hy => rettLane_inv hy) hy

/-! ### chkerr (R368) -/

theorem execChkerr_keeps {c : Common} {f : SF} : StepKeeps s (execChkerr c f s) := by
  unfold execChkerr
  refine runWord_keeps (fun _ _ hy => ?_)
  split
  · exact fun _ hy => hy
  · exact fun _ hy => tracked_inv hy

/-! ### publish (R371) -/

theorem execPublish_keeps {c : Common} {f : SF} : StepKeeps s (execPublish c f s) := by
  refine runWord_keeps fun x y _ => ?_
  extract_lets i h others a
  split
  · exact fun _ _ hz => hz
  split
  · exact fun _ hz => hz
  split
  · exact fun _ hz => askPages_inv hz
  · exact fun _ _ hz => hz
  · intro z hz
    beta_reduce
    extract_lets m
    have hm : m.1.Inv := makeFuture_inv (takeWalks_inv hz)
    clear_value m
    split
    · exact hm
    · exact inv_of_mem hm rfl

theorem seal_inv {p : Pub} {h : StageHdr} {code fm : List Byte} {records seg : Nat} {d : Nat × Nat × Nat × Nat} {locs : List Loc}
    (hs : s.Inv) :
    (s.seal p h code fm records seg d locs).Inv := by
  unfold State.seal
  extract_lets c tk block word s1 s2 s3 w0 w1 s4
  have h1 : s1.Inv := write_inv hs _
  have h2 : s2.Inv := modCtx_inv h1
  have h3 : s3.Inv := deviceWrite_inv (deviceWrite_inv h2 _ _ _ _ _) _ _ _ _ _
  have h4 : s4.Inv := write_inv h3 _
  exact completeFut_inv (write_inv h4 _)

theorem execPublishCheck_keeps {id : Nat} : StepKeeps s (execPublishCheck id s) := by
  unfold execPublishCheck
  split
  · exact .of_mem rfl
  dsimp only
  split
  · exact .of_mem rfl
  · exact .next fun h => queueWalks_inv h
  · exact .next fun h => completeFut_inv h
  split
  · exact .next fun h => completeFut_inv h
  · exact .next fun h => seal_inv h

/-! ### The slot (R169, R170, R173) -/

theorem beginSlot_inv {core : Nat} (h : s.Inv) : (s.beginSlot core).Inv := by
  unfold State.beginSlot
  extract_lets t k s1
  exact inv_of_mem (catchUp_inv (modCore_inv h) : s1.Inv) rfl

/-! ### Breakpoints (R475, R477) -/

theorem haltWefts_inv {wid : Nat} {all : Bool} (h : s.Inv) : (s.haltWefts wid all).Inv := h

theorem breakAt_goes {wid : Nat} {a : DWord} {l1 : List Nat} {a2 : DWord} {l2 : List Nat} {t : State} (h : s.Inv)
    (ht : s.breakAt wid a l1 a2 l2 = .on t ∨ s.breakAt wid a l1 a2 l2 = .stop t) :
    t.Inv := by
  unfold State.breakAt at ht
  extract_lets w hits tr st rc s1 at ht
  have h1 : s1.Inv := foldl_inv (fun _ _ hy => emit_inv hy) h
  clear_value st
  generalize (if st.isEmpty then 0 else 1) = n at ht
  split at ht
  · obtain ht | ht := ht <;> cases ht
  split at ht
  · obtain ht | ht := ht
    · exact BpOutcome.on.inj ht ▸ h1
    · cases ht
  · obtain ht | ht := ht
    · cases ht
    · exact BpOutcome.stop.inj ht ▸ haltWefts_inv (emit_inv h1)

/-! ### Finding the clause of a lane (R388, R445) -/

theorem faultAt_inv {wid : Nat} {lanes : List Nat} {pc : DWord} {pos : Pos} {f : LFault} (h : s.Inv) :
    (s.faultAt wid lanes pc pos f).Inv :=
  modWeft_inv (faultLanes_inv h)

theorem findClauses_inv {wid : Nat} (h : s.Inv) : (s.findClauses wid).Inv := by
  unfold State.findClauses
  refine foldl_inv (fun _ _ hy => ?_) h
  split
  · exact faultAt_inv hy
  · exact hy

theorem lostClauses_inv {wid : Nat} (h : s.Inv) : (s.lostClauses wid).Inv := by
  unfold State.lostClauses
  refine foldl_inv (fun _ _ hy => ?_) h
  split
  · exact hy
  · exact faultAt_inv hy

/-! ### Headers (R181, R197) -/

theorem passHeader_inv {wid : Nat} {h : Header} {lanes : List Nat} {slot : Nat} (hs : s.Inv) : (s.passHeader wid h lanes slot).Inv := hs

theorem reachHeader_inv {wid : Nat} {g : DWord × Bool × List Nat} {slot : Nat} (h : s.Inv) : (s.reachHeader wid g slot).Inv := by
  unfold State.reachHeader
  dsimp only
  split
  · exact h
  generalize hs1 : (if (sortLanes _ _).2.2.isEmpty = true then _ else _ : State) = s1
  have h1 : s1.Inv := by
    rw [← hs1]
    split
    · exact takeWalks_inv h
    · exact askPages_inv h
  split
  · exact h1
  · split
    · exact h1
    · next s2 ht => exact breakAt_goes h1 (.inr ht)
    · next s2 ht =>
      have h3 := foldl_inv (l := (sortLanes (fun i => s.headerOf (s.weft wid) i) g.2.2).2.1)
        (f := fun y f => y.faultAt wid [f.1] g.1 .header f.2)
        (fun _ _ hy => faultAt_inv hy) (breakAt_goes h1 (.inl ht))
      split
      · exact h3
      · exact passHeader_inv h3

theorem headers_inv {wid slot : Nat} (h : s.Inv) : (s.headers wid slot).Inv := foldl_inv (fun _ _ hy => reachHeader_inv hy) h

theorem prepare_inv {slot wid : Nat} (h : s.Inv) : (s.prepare slot wid).Inv := by
  unfold State.prepare
  extract_lets w s1 s0 s2 s3
  have h1 : s1.Inv := by
    unfold s1
    split
    · exact modWeft_inv h
    · exact h
  have h0 : s0.Inv := foldl_inv (fun y k hy => by split; exacts [deliverSub_inv hy, hy]) h1
  have h2 : s2.Inv := foldl_inv (fun y k hy => by split; exacts [deliverPending_inv hy, hy]) (endLanes_inv h0)
  have h3 : s3.Inv := foldl_inv (fun y k hy => by split; exacts [rootLink_inv hy, hy]) h2
  split
  · exact h
  split
  · exact h3
  · exact headers_inv (lostClauses_inv (findClauses_inv h3))

/-! ### Where a slot goes (R177, R422, R481) -/

theorem chargeIdle_inv {slot picks wid : Nat} {leaf : Option Nat} (h : s.Inv) : (s.chargeIdle slot picks wid leaf).Inv := by
  unfold State.chargeIdle
  dsimp only
  split
  · exact h
  · split <;> exact h

/-! ### ISSUE_SLOT (R170) -/

theorem issueWords_inv {w : Weft} {slot : Nat} {a : Machine.Path} {b : Option Machine.Path} (h : s.Inv) :
    (s.issueWords w slot a b).Inv :=
  h

theorem settleSlot_inv (h : s.Inv) : s.settleSlot.Inv := by
  unfold State.settleSlot
  split
  · exact h
  dsimp only
  split
  · exact h
  · split <;> exact h

theorem slotBreaks_goes {wid : Nat} {xs : List SlotWord} {t : State} (h : s.Inv)
    (ht : s.slotBreaks wid xs = .on t ∨ s.slotBreaks wid xs = .stop t) :
    t.Inv := by
  induction xs generalizing s with
  | nil =>
    simp only [State.slotBreaks, BpOutcome.on.injEq, reduceCtorEq, or_false] at ht
    exact ht ▸ h
  | cons x xs ih =>
    unfold State.slotBreaks at ht
    split at ht
    · next s1 hs1 => exact ih (breakAt_goes h (.inl hs1)) ht
    · next s1 hs1 =>
      simp only [BpOutcome.stop.injEq, reduceCtorEq, false_or] at ht
      exact ht ▸ breakAt_goes h (.inr hs1)
    · simp at ht

theorem issueWeft_inv {w : Weft} {slot picks : Nat} (h : s.Inv) : (s.issueWeft w slot picks).Inv := by
  unfold State.issueWeft
  dsimp only
  split
  · exact h
  · split
    · next s1 ht => exact issueWords_inv (slotBreaks_goes h (.inl ht))
    · next s1 ht => exact chargeIdle_inv (slotBreaks_goes h (.inr ht))
    · exact chargeIdle_inv h

theorem haltNow_inv {wid : Nat} (h : s.Inv) : (s.haltNow wid).Inv := by
  unfold State.haltNow
  split
  · exact modWeft_inv (emit_inv h)
  · exact h

theorem haltRecords_inv {core : Nat} (h : s.Inv) : (s.haltRecords core).Inv := by
  unfold State.haltRecords
  refine foldl_inv (fun _ _ hy => ?_) h
  split
  · exact haltNow_inv hy
  · exact hy

theorem execIssueSlot_keeps {core : Nat} : StepKeeps s (execIssueSlot core s) := by
  unfold execIssueSlot
  split
  · exact .of_mem rfl
  dsimp only
  split
  · exact .next fun h => foldl_inv (fun _ _ hy => hy)
      (foldl_inv (fun _ _ hy => chargeIdle_inv hy) (foldl_inv (fun _ _ hy => prepare_inv hy) (haltRecords_inv (beginSlot_inv h))))
  split
  · exact .next fun h => foldl_inv (fun _ _ hy => hy)
      (foldl_inv (fun _ _ hy => chargeIdle_inv hy) (foldl_inv (fun _ _ hy => prepare_inv hy) (haltRecords_inv (beginSlot_inv h))))
  · exact .next fun h => foldl_inv (fun _ _ hy => hy)
      (issueWeft_inv (foldl_inv (fun _ _ hy => chargeIdle_inv hy)
        (foldl_inv (fun _ _ hy => prepare_inv hy) (haltRecords_inv (beginSlot_inv h)))))

end Sys2Proof.Proofs
end

section
/-! SUPPORT. The network engine, placement, task queues, the events of accesses, pre-emption and the scheduler keep memory in its canonical
form. -/
namespace Sys2Proof.Proofs
open Sys2Proof Sys2Proof.Machine

variable {s : State}

/-! ### npost (R366) -/

theorem acceptPost_inv {wid : Nat} {e : SqEntry} {q : Nat} {p : NetPost} (h : s.Inv) : (s.acceptPost wid e q p).Inv := by
  unfold State.acceptPost
  dsimp only
  split
  · exact stepOut_inv (endCmd_inv h)
  split
  · exact h
  split
  · exact refuseCmd_inv h
  · exact askPages_inv h
  split
  · exact stepOut_inv (stopLane_inv (modLane_inv (modCtx_inv (endCmd_inv h))))
  split
  · exact h
  · exact atCommit_inv h (fun _ hy => stepOut_inv (modCore_inv (addPend_inv (doneIf_inv (dropSq_inv (spread_inv hy))))))

/-! ### Ending a post (R351, R435) -/

theorem dropBoard_inv {id : Nat} (h : s.Inv) : (s.dropBoard id).Inv := h

theorem endPost_inv {core q : Nat} {p : NetPost} {fault : Nat} {cancelled : Bool} (h : s.Inv) :
    (s.endPost core q p fault cancelled).Inv := by
  unfold State.endPost
  dsimp only
  split
  · exact endPart_inv (modPend_inv h)
  · exact modPend_inv h

theorem putPost_inv {core q : Nat} {p : NetPost} (h : s.Inv) : (s.putPost core q p).Inv := h

theorem landAdd_some {pid id : Nat} {ls : List Loc} {n : Nat} {t : State} (h : s.Inv) (ht : s.landAdd pid id ls n = some t) :
    t.Inv := by
  unfold State.landAdd at ht
  split at ht
  · cases ht
  · cases ht
    exact landAll_inv h

theorem finishPost_inv {core q : Nat} {p : NetPost} (h : s.Inv) : (s.finishPost core q p).Inv := by
  unfold State.finishPost
  dsimp only
  split
  · exact endPost_inv h
  split
  · exact h
  split
  · exact queueWalks_inv h
  · split
    · exact h
    · exact endPost_inv h
  split
  · exact h
  next s1 ht => exact endPost_inv (landAdd_some h ht)

theorem settlePosts_inv {core q : Nat} (h : s.Inv) : (s.settlePosts core q).Inv := by
  unfold State.settlePosts
  refine foldl_inv (fun _ _ hy => ?_) h
  split
  · exact finishPost_inv hy
  split
  · exact endPost_inv hy
  · exact hy

/-! ### Sending (R425, R426, R431) -/

theorem openPdc_some {die : Nat} {c : CtxId} {epi : Nat} {q : State × Pdc} (h : s.Inv) (hq : s.openPdc die c epi = some q) :
    q.1.Inv := by
  unfold State.openPdc at hq
  split at hq
  · cases hq
    exact h
  · dsimp only at hq
    split at hq
    · cases hq
      exact h
    · split at hq
      · cases hq
        exact h
      · cases hq

theorem modPdc_inv {id : Nat} {g : Pdc → Pdc} (h : s.Inv) : (s.modPdc id g).Inv := h

theorem sendPacket_inv {core q : Nat} {p : NetPost} (h : s.Inv) : (s.sendPacket core q p).Inv := by
  unfold State.sendPacket
  extract_lets w die e n last uud
  split
  · exact h
  next s0 pdc ht =>
  have h0 : s0.Inv := openPdc_some h ht
  split
  · exact h
  extract_lets r fails
  have hfails : ∀ f, (fails f).Inv := by
    intro f
    simp only [fails]
    split
    · exact takeWalks_inv (report_inv (putPost_inv h0))
    · exact takeWalks_inv (endPost_inv h0)
  split
  · exact hfails _
  split
  · exact queueWalks_inv h0
  · exact hfails _
  extract_lets src pk p1 s1 s2 s3 s4
  split
  · exact h
  have h1 : s1.Inv := modPdc_inv (putPost_inv (allocAll_inv (touch_inv h0)))
  have h2 : s2.Inv := inv_of_mem h1 rfl
  have h3 : s3.Inv := by
    unfold s3
    split
    · exact dropBoard_inv h2
    · exact h2
  have h4 : s4.Inv := by
    unfold s4
    split
    · exact modPend_inv h3
    · exact h3
  exact settlePosts_inv (takeWalks_inv h4)

theorem execNetPacketSend_keeps {core queue : Nat} : StepKeeps s (execNetPacketSend core queue s) := by
  unfold execNetPacketSend
  dsimp only
  split
  · exact .next fun h => settlePosts_inv h
  split
  · exact .next fun h => settlePosts_inv h
  · exact .next fun h => sendPacket_inv (settlePosts_inv h)

/-! ### Acknowledgements (R433, R434) -/

theorem ackPacket_inv {x : InFlight} (h : s.Inv) : (s.ackPacket x).Inv := by
  unfold State.ackPacket
  split
  · exact h
  · exact modPend_inv h

theorem execNetAckReceive_keeps {die : Nat} {a : NetAck} : StepKeeps s (execNetAckReceive die a s) := by
  unfold execNetAckReceive
  split
  · exact .next fun h => h
  split
  · extract_lets hit s1
    refine .next fun h => foldl_inv (fun _ _ hy => ?_) (modPdc_inv h : s1.Inv)
    split
    · exact endPost_inv hy
    · exact hy
  · extract_lets got left reord again s1 s2
    refine .next fun h => ?_
    have h1 : s1.Inv := foldl_inv (fun _ _ hy => ackPacket_inv hy) (modPdc_inv h)
    have h2 : s2.Inv := inv_of_mem h1 rfl
    refine foldl_inv (fun _ _ hy => ?_) h2
    split
    · exact settlePosts_inv hy
    · exact hy

theorem execNetRtoExpiry_keeps {die pdc : Nat} {psn : Word} : StepKeeps s (execNetRtoExpiry die pdc psn s) := by
  unfold execNetRtoExpiry
  split
  · exact .next fun h => h
  extract_lets gone s1
  split
  · refine .next fun h => ?_
    split
    · exact settlePosts_inv (modPdc_inv h)
    · exact modPdc_inv h
  · exact .next fun h => h

theorem execPdcIdleTimeout_keeps {die pdc : Nat} : StepKeeps s (execPdcIdleTimeout die pdc s) := by
  unfold execPdcIdleTimeout
  split
  · exact .of_mem rfl
  · split <;> exact .of_mem rfl

/-! ### Receiving (R432, R435, R437) -/

theorem sendAck_inv {d : RxPdc} {nack : Option (Word × Nat)} (h : s.Inv) : (s.sendAck d nack).Inv := h

theorem placePacket_some {p : Packet} {d : RxPdc} {r : Req} {ls : List Loc} {t : State} (h : s.Inv)
    (ht : s.placePacket p d r ls = some t) :
    t.Inv := by
  unfold State.placePacket at ht
  dsimp only at ht
  split at ht
  · cases ht
  · cases ht
    have hland : ∀ {d1}, ((s.landAll 0 (wrs ls (packetPayload p) p.poison)).putRx d1).Inv := landAll_inv h
    have hadd : ∀ {d1 ks}, ((((s.landAll 0 (wrs ls (packetPayload p) p.poison)).putRx d1).landAdd 0 0 ks p.rinc.toNat).getD
        ((s.landAll 0 (wrs ls (packetPayload p) p.poison)).putRx d1)).Inv := by
      intro d1 ks
      cases hk : State.landAdd _ 0 0 ks p.rinc.toNat with
      | none => exact hland
      | some t => exact landAdd_some hland hk
    split
    case' isFalse => refine sendAck_inv ?_
    all_goals
      split
      · split
        · exact hadd
        · exact hland
        · exact hland
      · exact hland

theorem execNetPacketReceive_keeps {die : Nat} {p : Packet} : StepKeeps s (execNetPacketReceive die p s) := by
  unfold execNetPacketReceive
  extract_lets d
  clear_value d
  split
  · exact .next fun h => sendAck_inv h
  split
  · exact .next fun h => sendAck_inv h
  next c hc =>
  extract_lets r
  have hfault : ∀ f : LFault, StepKeeps s (if f.code = .page then .next (s.report "page" c [die, f.addr.toNat, f.reason])
      else .next (s.sendAck d (some (p.psn, f.code.code)))) := by
    intro f
    split
    · exact .next fun h => report_inv h
    · exact .next fun h => sendAck_inv h
  split
  · exact .next fun h => sendAck_inv h
  split
  · exact .next fun h => queueWalks_inv h
  · exact hfault _
  split
  · exact .next fun h => queueWalks_inv h
  · exact hfault _
  · refine .next fun h => ?_
    cases hk : s.placePacket p d r _ with
    | none => exact h
    | some t => exact placePacket_some h hk

/-! ### nwait (R366) -/

theorem execNwait_keeps {c : Common} {f : EF} : StepKeeps s (execNwait c f s) := by
  unfold execNwait
  refine runWord_keeps (fun _ _ hy => ?_)
  dsimp only
  split
  · exact fun _ _ hy => hy
  split
  · exact fun _ hy => hy
  split
  · exact fun _ hy => askPages_inv hy
  · exact fun _ _ hy => hy
  split
  · exact fun _ _ hy => hy
  · split <;> exact fun _ hy => hy

/-! ### Contexts (R10, R60, R411) -/

theorem ensureCtx_inv {c : CtxId} (h : s.Inv) : (s.ensureCtx c).Inv := by
  unfold State.ensureCtx
  split
  · exact h
  dsimp only
  split <;> exact h

theorem loadRoot_inv {c : CtxId} (h : s.Inv) : (s.loadRoot c).Inv := by
  unfold State.loadRoot
  split <;> exact h

/-! ### Seats (R376 to R378) -/

theorem tryCore_inv {l : Launch} {core : Nat} {keep : List Nat} {n : Nat} {ban : List Nat} (h : s.Inv) :
    (s.tryCore l core keep n ban).1.Inv := by
  induction n generalizing s ban with
  | zero => exact h
  | succ n ih =>
    unfold State.tryCore
    split
    · exact h
    split
    · exact h
    split
    · next s1 ht => exact ih (spillTile_ok h ht)
    · exact h
    · exact ih h

theorem seatSet_inv {l : Launch} {ws : List (Nat → List Nat)} {cs : List Nat} {as : List Allot} (h : s.Inv) :
    (s.seatSet l ws cs as).1.Inv := by
  induction cs generalizing s ws as with
  | nil => cases ws <;> exact h
  | cons c cs ih =>
    cases ws with
    | nil => exact h
    | cons w ws =>
      unfold State.seatSet
      have h1 : ∀ {s1 z}, s.tryCore l c (w c) 26 (s.core c).declined = (s1, z) → s1.Inv := fun ht => inv_of_pair (tryCore_inv h) ht
      split
      · next s1 a ht => exact ih (h1 ht)
      · next s1 ht => exact ih (h1 ht)
      · next s1 ht => exact h1 ht

theorem seatSets_inv {l : Launch} {ws : List (Nat → List Nat)} {sets : List (List Nat)} (h : s.Inv) : (s.seatSets l ws sets).1.Inv := by
  induction sets generalizing s with
  | nil => exact h
  | cons cs rest ih =>
    unfold State.seatSets
    dsimp only
    split
    · exact ih h
    · have h1 : ∀ {s1 fit z}, s.seatSet l ws fit [] = (s1, z) → s1.Inv := fun ht => inv_of_pair (seatSet_inv h) ht
      split
      · next s1 as ht => exact h1 ht
      · next s1 ht => exact h1 ht
      · next s1 ht => exact ih (h1 ht)

/-! ### The start of a panel (R284, R373 to R375) -/

theorem clearShare_inv {a : Allot} {padu : Nat} (h : s.Inv) : (s.clearShare a padu).Inv := by
  unfold State.clearShare
  split
  · exact h
  · exact write_inv h _

theorem startPanel_inv {l : Launch} {idx : Nat} {a : Allot} (h : s.Inv) : (s.startPanel l idx a).Inv := by
  unfold State.startPanel
  refine checkpoint_inv
    (foldl_inv (fun _ _ hy => foldl_inv (fun _ _ hy => rootLink_inv hy) hy)
      (inv_of_mem (foldl_inv (fun _ _ hy => ?_) (clearShare_inv ?_)) rfl))
  · split
    · exact zeroTile_inv hy
    · exact hy
  · split
    · exact markBlock_inv (loadRoot_inv h)
    · exact loadRoot_inv h

/-! ### Queues (R360) -/

theorem putTq_inv {c : CtxId} {seg : Seg} {q : TaskQ} (h : s.Inv) : (s.putTq c seg q).Inv := deviceWrite_inv h _ _ _ _ _

theorem putRec_inv {c : CtxId} {seg : Seg} {off : Nat} {bs : List (Byte × Bool)} (h : s.Inv) : (s.putRec c seg off bs).Inv := by
  unfold State.putRec
  split
  · exact write_inv h _
  · exact h

/-! ### Steps of a queue (R364, R365) -/

theorem dueOne_some {c : CtxId} {seg : Seg} {t : State} (h : s.Inv) (ht : s.dueOne c seg = some t) : t.Inv := by
  unfold State.dueOne at ht
  split at ht
  · cases ht
  · split at ht
    · cases ht
    · split at ht
      · cases ht
        exact putTq_inv (putRec_inv (putRec_inv h))
      · cases ht
      · cases ht

theorem giveRec_inv {d : Deq} {bs : List (Byte × Bool)} (h : s.Inv) : (s.giveRec d bs).Inv := by
  unfold State.giveRec
  dsimp only
  split
  · split
    · exact endDeq_inv h
    · exact h
  · exact h

theorem serveOne_some {c : CtxId} {seg : Seg} {t : State} (h : s.Inv) (ht : s.serveOne c seg = some t) : t.Inv := by
  unfold State.serveOne at ht
  split at ht
  · split at ht
    · cases ht
    · split at ht
      · cases ht
        exact giveRec_inv (putTq_inv h)
      · cases ht
  · cases ht
  · cases ht

theorem queueStep_inv {c : CtxId} {seg : Seg} {n : Nat} (h : s.Inv) : (s.queueStep c seg n).Inv := by
  induction n generalizing s with
  | zero => exact h
  | succ n ih =>
    unfold State.queueStep
    split
    · next s1 ht => exact ih (dueOne_some h ht)
    · split
      · next s1 ht => exact ih (serveOne_some h ht)
      · exact h

/-! ### Counters (R362, R364) -/

theorem release_inv {r : Req} {a : DWord} {seg : Seg} {off : Nat} {k : Counter} (h : s.Inv) : (s.release r a seg off k).Inv := by
  unfold State.release
  split
  · exact h
  dsimp only
  split
  · split
    · exact h
    refine queueStep_inv (deviceWrite_inv (putTq_inv ?_) _ _ _ _ _)
    split
    · exact h
    split
    · exact putRec_inv h
    · exact h
  · exact h
  · exact h

theorem dcaddStep_ok {r : Req} {a : DWord} {b : Word} {q : Nat × State} (h : s.Inv) (hq : s.dcaddStep r a b = .ok q) : q.2.Inv := by
  unfold State.dcaddStep at hq
  split at hq
  · cases hq
  · cases hq
    dsimp only
    split
    · exact release_inv (deviceWrite_inv h _ _ _ _ _)
    · exact deviceWrite_inv h _ _ _ _ _

theorem dcinitStep_ok {r : Req} {a b : DWord} {t : State} (h : s.Inv) (ht : s.dcinitStep r a b = .ok t) : t.Inv := by
  unfold State.dcinitStep at ht
  split at ht
  · cases ht
  extract_lets k1 s1 at ht
  have h1 : s1.Inv := deviceWrite_inv h _ _ _ _ _
  injection ht with ht
  subst ht
  split
  · exact release_inv h1
  · exact h1

theorem ringPut_ok {r : Req} {a : DWord} {seg : Seg} {bs : List Byte} {t : State} (h : s.Inv) (ht : s.ringPut r a seg bs = .ok t) :
    t.Inv := by
  unfold State.ringPut at ht
  split at ht
  · cases ht
  · cases ht
  · split at ht
    · cases ht
    · split at ht
      · cases ht
      · cases ht
        exact queueStep_inv (putTq_inv (putRec_inv h))

theorem enqStep_ok {r : Req} {a : DWord} {bs : List Byte} {t : State} (h : s.Inv) (ht : s.enqStep r a bs = .ok t) : t.Inv := by
  unfold State.enqStep at ht
  dsimp only at ht
  split at ht
  · cases ht
  split at ht
  · cases ht
  split at ht
  · split at ht
    · cases ht
    · exact ringPut_ok h ht
  split at ht
  · split at ht
    · cases ht
    split at ht
    · cases ht
    split at ht
    · exact ringPut_ok h ht
    split at ht
    · cases ht
    · cases ht
    split at ht
    · cases ht
    split at ht
    · cases ht
    · cases ht
      exact deviceWrite_inv (putTq_inv (putRec_inv h)) _ _ _ _ _
  · cases ht

/-! ### The words (R362, R363, R365) -/

theorem stepWord_keeps {v : View} {pz : IC → Nat → Bool} {op : IC → Nat → State → SqOp × List Nat} : StepKeeps s (stepWord v pz op s) :=
  runWord_keeps fun _ _ _ _ _ hy => foldl_inv (fun _ _ hy => enqueue_inv hy) hy

theorem execDeq_keeps {c : Common} {f : EF} : StepKeeps s (execDeq c f s) := by
  unfold execDeq
  refine runWord_keeps (fun _ _ hy => ?_)
  dsimp only
  split
  · exact fun _ hy => hy
  split
  · exact fun _ hy => askPages_inv hy
  split
  · exact fun _ hy => openCommit_inv hy
  refine fun _ _ hy => committed_inv hy (fun _ hy => ?_)
  split
  · exact makeFuture_inv hy
  · exact foldl_inv (fun _ _ hy => queueStep_inv hy) (inv_of_mem (makeFuture_inv hy) rfl)

/-! ### The step at the home (R363, R380) -/

theorem stepDone_inv {wid : Nat} {e : SqEntry} (h : s.Inv) : (s.stepDone wid e).Inv := modLane_inv (doneIf_inv h)

theorem stepFault_inv {wid : Nat} {e : SqEntry} {f : LFault} (h : s.Inv) : (s.stepFault wid e f).Inv := faultLanes_inv (stepDone_inv h)

theorem stepValue_inv {wid id old : Nat} (h : s.Inv) : (s.stepValue wid id old).Inv := h

theorem stepLost_inv {wid id : Nat} (h : s.Inv) : (s.stepLost wid id).Inv := h

theorem taskStep_inv {wid : Nat} {e : SqEntry} (h : s.Inv) : (s.taskStep wid e).Inv := by
  unfold State.taskStep
  dsimp only
  split
  · split
    · next s1 ht => exact stepDone_inv (enqStep_ok (spread_inv h) ht)
    · exact stepFault_inv (spread_inv h)
  · split
    · next s1 ht => exact stepDone_inv (dcinitStep_ok (spread_inv h) ht)
    · exact stepFault_inv (spread_inv h)
  · split
    · next q hq => exact stepDone_inv (stepValue_inv (dcaddStep_ok (spread_inv h) hq))
    · exact stepFault_inv (stepLost_inv (spread_inv h))
  all_goals exact h

/-! ### Stealing (R381, R382) -/

theorem stealOne_inv {c : CtxId} {seg : Seg} {d : Deq} (h : s.Inv) : (s.stealOne c seg d).Inv := by
  unfold State.stealOne
  split
  · exact h
  split
  · exact h
  dsimp only
  split
  · exact h
  · exact giveRec_inv (putTq_inv h)

theorem execStealStep_keeps {die : Nat} : StepKeeps s (execStealStep die s) := by
  unfold execStealStep
  split
  · exact .of_mem rfl
  split
  · exact .of_mem rfl
  split
  · exact .of_mem rfl
  · exact .next fun h => foldl_inv (fun _ _ hy => queueStep_inv (stealOne_inv hy)) h

/-! ### Completions (R175, R305) -/

theorem execUnitResultComplete_keeps {weft id : Nat} : StepKeeps s (execUnitResultComplete weft id s) := by
  unfold execUnitResultComplete
  split <;> exact .of_mem rfl

theorem endLoad_inv {wid : Nat} {ld : LoadRec} (h : s.Inv) : (s.endLoad wid ld).Inv := partDone_inv (modBoth_inv (endLookup_inv h))

theorem endReady_inv {wid id : Nat} (h : s.Inv) : (s.endReady wid id).Inv := by
  unfold State.endReady
  split
  · exact endLoad_inv h
  · exact h

theorem execMemoryAccessComplete_keeps {weft id : Nat} : StepKeeps s (execMemoryAccessComplete weft id s) := by
  unfold execMemoryAccessComplete
  split
  · exact .of_mem rfl
  split
  · exact .next fun h => endLoad_inv h
  · refine .next fun h => ?_
    split
    · exact endReady_inv (startLoad_inv h)
    · exact h
  · exact .next fun h => endReady_inv (takeLoad_inv h)
  · exact .of_mem rfl
  · exact .of_mem rfl
  · exact .of_mem rfl

/-! ### Entries leaving the store queue -/

theorem plainStore_inv {wid : Nat} {p : Panel} {e : SqEntry} {ws : List Wr} (h : s.Inv) : (s.plainStore wid p e ws).Inv := by
  unfold State.plainStore
  split
  · exact performStore_inv h
  split
  · exact h
  · exact atCommit_inv h fun _ hy => performStore_inv hy

theorem skeinStep_inv {wid : Nat} {e : SqEntry} {f : State → State} (h : s.Inv) (hf : KeepsInv f) : (s.skeinStep wid e f).Inv := by
  unfold State.skeinStep
  dsimp only
  split
  · exact h
  split
  · exact openCommit_inv h
  split
  · exact h
  · exact hf _ h

theorem headOut_inv {wid : Nat} {e : SqEntry} (h : s.Inv) : (s.headOut wid e).Inv := by
  unfold State.headOut
  dsimp only
  split
  · split
    · exact h
    split
    · exact atCommit_inv h fun _ hy => performStore_inv (spread_inv hy)
    split
    · exact h
    · exact plainStore_inv h
  · split
    · exact atCommit_inv h fun _ hy => doneIf_inv (spread_inv hy)
    split
    · exact h
    · exact doneIf_inv h
  · split
    · exact h
    · exact doneIf_inv (spread_inv h)
  · split
    · exact h
    · exact doneIf_inv (discardPages_inv h)
  · exact acceptCopy_inv h
  · exact acceptPost_inv h
  iterate 3 exact atCommit_inv h fun _ hy => taskStep_inv hy
  · refine skeinStep_inv h fun y hy => ?_
    split
    · next f hf => exact takeWalks_inv (cutLane_ok hf _ (doneIf_inv hy))
    · exact takeWalks_inv (faultLanes_inv (doneIf_inv hy))
    · exact askPages_inv hy
  · refine skeinStep_inv h fun y hy => ?_
    split
    · next f hf => exact takeWalks_inv (graftLane_ok hf _ hy)
    · exact hy
    · exact takeWalks_inv (faultLanes_inv hy)
    · exact askPages_inv hy
  all_goals exact h

theorem execStorePerform_keeps {weft : Nat} : StepKeeps s (execStorePerform weft s) := by
  unfold execStorePerform
  split
  · exact .of_mem rfl
  · exact .next fun h => headOut_inv h

/-! ### Atomics (R140, R310) -/

theorem atomDone_inv {wid ld : Nat} {old : List (Byte × Bool)} (h : s.Inv) : (s.atomDone wid ld old).Inv := by
  unfold State.atomDone
  split <;> exact h

theorem atomHome_inv {wid id : Nat} {op : AtomOp} {ls : List Loc} {b d : DWord} {pz : Bool} {ld : Nat} (h : s.Inv) :
    (s.atomHome wid id op ls b d pz ld).Inv :=
  atomDone_inv (landBy_inv h)

theorem atomAway_inv {wid : Nat} {e : SqEntry} {op : AtomOp} {ls : List Loc} {b d : DWord} {ld : Nat} (h : s.Inv) :
    (s.atomAway wid e op ls b d ld).Inv :=
  h

theorem loadLost_inv {wid ld : Nat} (h : s.Inv) : (s.loadLost wid ld).Inv := dropLookups_inv h

theorem atomDead_inv {wid : Nat} {e : SqEntry} {ld : Nat} (h : s.Inv) : (s.atomDead wid e ld).Inv :=
  faultLanes_inv (doneIf_inv (loadLost_inv h))

theorem atomOut_inv {wid : Nat} {e : SqEntry} {op : AtomOp} {ls : List Loc} {b d : DWord} {pz : Bool} {ld : Nat} {rel : Scope}
    (h : s.Inv) :
    (s.atomOut wid e op ls b d pz ld rel).Inv := by
  unfold State.atomOut
  dsimp only
  split
  · exact atomAway_inv (dropSq_inv (spread_inv (forceLate_inv h)))
  · exact atomHome_inv (dropSq_inv (spread_inv (forceLate_inv h)))

theorem execAtomicAtHome_keeps {weft : Nat} : StepKeeps s (execAtomicAtHome weft s) := by
  unfold execAtomicAtHome
  dsimp only
  split
  · exact .of_mem rfl
  split
  · split
    · exact .next fun h => atomDead_inv h
    · exact .next fun h => atCommit_inv h fun _ hy => atomOut_inv hy
  all_goals exact .of_mem rfl

/-! ### Window accesses (R104 to R107) -/

theorem execWindowAccess_keeps {id : Nat} : StepKeeps s (execWindowAccess id s) := by
  unfold execWindowAccess
  split
  · exact .of_mem rfl
  dsimp only
  split
  · exact .of_mem rfl
  split
  · split <;> exact .of_mem rfl
  · exact .next fun h => doneIf_inv (landBy_inv h)

/-! ### Remote accesses (R82) -/

theorem remoteFault_inv {a : RemAcc} (h : s.Inv) : (s.remoteFault a).Inv := by
  unfold State.remoteFault
  refine faultLanes_inv (doneIf_inv ?_)
  split
  · exact loadLost_inv h
  · exact h

theorem remotePerform_inv {a : RemAcc} (h : s.Inv) : (s.remotePerform a).Inv := by
  unfold State.remotePerform
  dsimp only
  split
  · exact atomDone_inv (write_inv h _)
  · split <;> exact h
  · exact doneIf_inv (write_inv h _)

/-! ### Accesses by other packages (R82) -/

theorem inboundDone_inv {q : InRem} {ls : List Loc} (h : s.Inv) : (s.inboundDone q ls).Inv := by
  unfold State.inboundDone
  split
  · exact landBy_inv h
  · exact inv_of_mem (landAll_inv h) rfl
  · exact inv_of_mem (allocAll_inv h) rfl

theorem inboundStep_inv {q : InRem} (h : s.Inv) : (s.inboundStep q).Inv := by
  unfold State.inboundStep
  split
  · exact queueWalks_inv h
  · exact takeWalks_inv h
  · exact takeWalks_inv (inboundDone_inv h)

theorem inboundIn_inv {q : InRem} (h : s.Inv) : (s.inboundIn q).Inv := inboundStep_inv h

theorem execRemoteAccess_keeps {r : RemoteReq} : StepKeeps s (execRemoteAccess r s) := by
  unfold execRemoteAccess
  split
  · exact .next fun h => inboundIn_inv h
  · split
    · exact .of_mem rfl
    split
    · exact .of_mem rfl
    · exact .next fun h => inboundIn_inv h
  split
  · exact .of_mem rfl
  split
  · exact .of_mem rfl
  refine .next fun h => ?_
  split
  · exact remotePerform_inv h
  · exact remoteFault_inv h

/-! ### The walker (R71 to R74) -/

theorem grantTo_inv {die who : Nat} (h : s.Inv) : (s.grantTo die who).Inv := by
  unfold State.grantTo
  split <;> exact h

theorem execWalkSlotGrant_keeps {die : Nat} : StepKeeps s (execWalkSlotGrant die s) := by
  unfold execWalkSlotGrant
  dsimp only
  split
  · refine .next fun h => foldl_inv (fun _ _ hy => ?_) h
    split
    · exact grantTo_inv hy
    · exact hy
  split
  · refine .next fun h => foldl_inv (fun _ _ hy => ?_) h
    split
    · exact grantTo_inv hy
    · exact hy
  refine .next fun h => modDie_inv (grantTo_inv (foldl_inv (fun _ _ hy => ?_) h))
  split
  · exact grantTo_inv hy
  · exact hy

theorem cachePage_inv {w : Walk} {leaf core : Nat} (h : s.Inv) : (s.cachePage w leaf core).Inv := modCore_inv (cacheDesc_inv h)

theorem walkWakes_inv {w : Walk} (h : s.Inv) : (s.walkWakes w).Inv := foldl_inv (fun _ _ hy => inboundStep_inv hy) h

theorem execWalkComplete_keeps {die id : Nat} : StepKeeps s (execWalkComplete die id s) := by
  unfold execWalkComplete
  split
  · exact .of_mem rfl
  refine .next fun h => foldl_inv (fun _ _ hy => enterMisses_inv hy) (walkWakes_inv ?_)
  split
  · exact foldl_inv (fun _ _ hy => cachePage_inv hy) h
  · exact h

/-! ### The pager (R77 to R81, R409, R418) -/

theorem execPagerResolve_keeps {t : PagerTarget} : StepKeeps s (execPagerResolve t s) := by
  unfold execPagerResolve
  split
  case h_4 => split <;> exact .of_mem rfl
  case h_7 =>
    dsimp only
    split
    · exact .next fun h => inboundStep_inv h
    · exact .of_mem rfl
  all_goals exact .of_mem rfl

theorem spillDeclined_inv {wid lane : Nat} (h : s.Inv) : (s.spillDeclined wid lane).Inv := by
  unfold State.spillDeclined
  dsimp only
  split
  · exact declineTrap_inv (popTrap_inv h)
  all_goals exact stopLane_inv h

theorem liftHalt_inv {pid : Nat} (h : s.Inv) : (s.liftHalt pid).Inv := report_inv (foldl_inv (fun _ _ hy => hy) h)

theorem execPagerDecline_keeps {t : PagerTarget} : StepKeeps s (execPagerDecline t s) := by
  unfold execPagerDecline
  split
  · split
    · exact .next fun h => declineSub_inv h
    · exact .of_mem rfl
  · split
    · split
      · exact .next fun h => retireCopy_inv h
      · exact .of_mem rfl
    · exact .of_mem rfl
  · split
    · split
      · exact .next fun h => mwRaise_inv h
      · exact .of_mem rfl
    · exact .of_mem rfl
  · split
    · exact .next fun h => endPost_inv h
    · exact .of_mem rfl
  · exact .of_mem rfl
  · exact .of_mem rfl
  · split
    · exact .next fun h => takeWalks_inv h
    · exact .of_mem rfl
  dsimp only
  split
  · exact .next fun h => liftHalt_inv (foldl_inv (fun _ _ hy => spillDeclined_inv hy) h)
  · exact .next fun h => foldl_inv (fun _ _ hy => spillDeclined_inv hy) h

/-! ### The request (R402, R416) -/

theorem haltPanel_inv {pid : Nat} (h : s.Inv) : (s.haltPanel pid).Inv := by
  unfold State.haltPanel
  refine foldl_inv (fun _ _ hy => ?_) h
  split
  · exact endDeq_inv hy
  · exact hy

theorem haltGroup_inv {p : Panel} (h : s.Inv) : (s.haltGroup p).Inv := foldl_inv (fun _ _ hy => haltPanel_inv hy) h

theorem execPreemptRequest_keeps {panel : Nat} : StepKeeps s (execPreemptRequest panel s) := by
  unfold execPreemptRequest
  refine .next fun h => ?_
  split
  · exact haltGroup_inv h
  · exact h

/-! ### Before the save (R44, R299, R306, R418) -/

theorem abandon_inv {wid : Nat} {e : SqEntry} (h : s.Inv) : (s.abandon wid e).Inv := by
  unfold State.abandon
  split
  · exact modLane_inv (doneIf_inv h)
  · exact modLane_inv (doneIf_inv h)
  all_goals exact h

theorem unlinkNode_inv {c : CtxId} {w : Weft} {k : Nat} (h : s.Inv) : (s.unlinkNode c w k).Inv := by
  unfold State.unlinkNode
  split
  · exact h
  extract_lets id eb s1 skip
  have h1 : s1.Inv := by
    unfold s1
    split
    · split
      · exact putEntry_inv h
      · exact h
    · exact h
  exact inv_of_mem h1 rfl

theorem settleUnits_inv {wid : Nat} (h : s.Inv) : (s.settleUnits wid).Inv :=
  modWeft_inv (foldl_inv (fun _ _ hy => by split <;> exact hy) h)

theorem calm_inv {p : Panel} (h : s.Inv) : (s.calm p).Inv :=
  foldl_inv (fun _ _ hy => modWeft_inv
    (settleUnits_inv (foldl_inv (fun _ _ hy => unlinkNode_inv hy) (foldl_inv (fun _ _ hy => abandon_inv hy) hy)))) h

/-! ### The save block (R412 to R415, R418) -/

theorem writeBlocks_ok {ps : List (Panel × Nat)} {t : State} (h : s.Inv) (ht : s.writeBlocks ps = .ok t) : t.Inv := by
  induction ps generalizing s with
  | nil =>
    cases ht
    exact h
  | cons q ps ih =>
    unfold State.writeBlocks at ht
    split at ht
    · next s1 h1 => exact ih (writeParts_ok h h1) ht
    · cases ht

theorem dropResid_inv {core : Nat} {c : CtxId} (h : s.Inv) : (s.dropResid core c).Inv := by
  unfold State.dropResid
  split <;> exact h

theorem leaveCore_inv {p : Panel} (h : s.Inv) : (s.leaveCore p).Inv := by
  unfold State.leaveCore
  extract_lets gone s0 s1
  have h0 : s0.Inv := foldl_inv (fun _ _ hy => quitWalks_inv hy) h
  have h1 : s1.Inv := modCore_inv h0
  exact dropResid_inv (inv_of_mem h1 rfl)

theorem holdTiles_inv {p : Panel} {k : Nat} (h : s.Inv) : (s.holdTiles p k).Inv := foldl_inv (fun _ _ hy => by split <;> exact hy) h

theorem finishSave_inv {p : Panel} {k : Nat} (h : s.Inv) : (s.finishSave p k).Inv := by
  unfold State.finishSave
  extract_lets v s1
  have h1 : s1.Inv := leaveCore_inv (spread_inv (markBlock_inv (holdTiles_inv h)))
  clear_value s1
  exact inv_of_mem h1 rfl

theorem saveGroup_inv {pid : Nat} {ps : List Panel} (h : s.Inv) : (s.saveGroup pid ps).Inv := by
  unfold State.saveGroup
  split
  · refine foldl_inv (fun _ _ hy => ?_) h
    split
    · exact openCommit_inv hy
    · exact hy
  split
  · exact h
  dsimp only
  split
  · exact liftHalt_inv h
  split
  · split
    · exact h
    · exact liftHalt_inv h
  next s2 ht => exact foldl_inv (fun _ _ hy => finishSave_inv hy) (writeBlocks_ok (foldl_inv (fun _ _ hy => calm_inv hy) h) ht)

theorem execPanelSave_keeps {panel : Nat} : StepKeeps s (execPanelSave panel s) := by
  unfold execPanelSave
  refine .next fun h => ?_
  split
  · exact saveGroup_inv h
  · exact h

/-! ### Tiles of a resumed panel (R409, R419, R420) -/

theorem spillTargets_inv {c : CtxId} {core : Nat} {ts : List Nat} (h : s.Inv) : (s.spillTargets c core ts).1.Inv := by
  induction ts generalizing s with
  | nil => exact h
  | cons t ts ih =>
    unfold State.spillTargets
    dsimp only
    split
    · exact ih h
    split
    · exact h
    split
    · next s1 ht => exact ih (spillTile_ok h ht)
    · exact h
    · exact h

theorem fillTiles_inv {v : Saved} {a : Allot} {data : List (List (Byte × Bool))} (h : s.Inv) : (s.fillTiles v a data).Inv := by
  unfold State.fillTiles
  refine foldl_inv (fun _ _ hy => modCore_inv (modTag_inv (write_inv hy _))) (foldl_inv (fun _ _ hy => ?_) h)
  split
  · exact modCore_inv (zeroTile_inv hy)
  · exact hy

/-! ### Resumption (R419) -/

theorem putResumed_inv {cores : List (Nat × Nat)} {v : Saved} {a : Allot} {ws : List Weft} {pad : List Byte}
    {data : List (List (Byte × Bool))} (h : s.Inv) :
    (s.putResumed cores v a ws pad data).Inv := by
  unfold State.putResumed
  exact foldl_inv (fun _ _ hy => by split <;> exact hy)
    (modCore_inv (modCore_inv (modCore_inv (inv_of_mem (fillTiles_inv (write_inv (clearShare_inv h) _)) rfl))))

theorem refillBeams_inv {vs : List (Saved × Allot)} {v : Saved} {a : Allot} (h : s.Inv) : (s.refillBeams vs v a).Inv :=
  foldl_inv (fun _ _ hy => by split <;> exact hy) h

theorem endResume_inv {v : Saved} {a : Allot} (h : s.Inv) : (s.endResume v a).Inv := by
  unfold State.endResume
  split
  · exact checkpoint_inv h
  · exact markBlock_inv h

theorem resumeIn_inv {vs : List Saved} {as : List Allot} (h : s.Inv) : (s.resumeIn vs as).1.Inv := by
  unfold State.resumeIn
  extract_lets c s0 spilled s1 cores
  have hsp : spilled.1.Inv := by
    refine foldl_fst_inv (fun z k hz => ?_) (loadRoot_inv h)
    split
    · exact spillTargets_inv hz
    · exact hz
    · exact hz
  clear_value spilled
  split
  · exact hsp
  · exact hsp
  split
  · split
    · exact report_inv hsp
    · exact report_inv hsp
  · exact foldl_inv (fun _ _ hy => endResume_inv hy) (foldl_inv (fun _ _ hy => refillBeams_inv hy)
      (foldl_inv (fun _ _ hy => putResumed_inv hy) hsp))

theorem turnResume_inv {sets : List (List Nat)} {vs : List Saved} (h : s.Inv) : (s.turnResume sets vs).1.Inv := by
  unfold State.turnResume
  split
  · exact h
  extract_lets l near
  split
  · next s1 as ht => exact resumeIn_inv (inv_of_pair (seatSets_inv h) ht)
  · next s1 ht => exact inv_of_pair (seatSets_inv h) ht
  · next s1 ht => exact inv_of_pair (seatSets_inv h) ht

theorem execPanelResume_keeps {saved : Nat} : StepKeeps s (execPanelResume saved s) := by
  unfold execPanelResume
  split
  · exact .of_mem rfl
  · exact .next fun h => turnResume_inv h

/-! ### Gang switches (R421) -/

theorem execGangSwitch_keeps {gang : Nat} : StepKeeps s (execGangSwitch gang s) := by
  unfold execGangSwitch
  split
  · exact .of_mem rfl
  split
  · exact .of_mem rfl
  refine .next fun h => foldl_inv (fun _ _ hy => ?_) (foldl_inv (fun _ _ hy => ?_) h)
  · split
    · exact turnResume_inv hy
    · exact hy
  · split
    · exact haltGroup_inv hy
    · exact hy

/-! ### Watchdogs (R422) -/

theorem execHangWatchdog_keeps {weft : Nat} : StepKeeps s (execHangWatchdog weft s) := by
  unfold execHangWatchdog
  dsimp only
  split
  · exact .of_mem rfl
  · exact .next fun h => event_inv h

/-! ### Launch records (R372 to R374) -/

theorem takeLaunch_inv {die : Nat} {c : CtxId} {seg : Seg} {x : Nat} {args : Option (List (DWord × Bool))} (h : s.Inv) :
    (s.takeLaunch die c seg x args).Inv := by
  unfold State.takeLaunch
  dsimp only
  split
  · exact event_inv h
  · exact h

theorem takeFrom_inv {die : Nat} {es : List Nat} (h : s.Inv) : (s.takeFrom die es).Inv := by
  induction es generalizing s with
  | nil => exact h
  | cons e es ih =>
    unfold State.takeFrom
    dsimp only
    split
    · exact ih h
    split
    · exact ih h
    split
    · exact ih h
    split
    · exact ih h
    split
    · exact ih h
    have htake : ∀ {c seg q x args},
      (((((s.putTq c seg q).queueStep c seg stepFuel).takeLaunch die c seg x args).takeAts die).modDie die
        (fun d => { d with lqNext := (e + 1) % 16 })).Inv := takeAts_inv (takeLaunch_inv (queueStep_inv (putTq_inv h)))
    split
    · exact htake
    · split
      · exact htake
      · exact htake
      · exact queueWalks_inv h

theorem execLaunchTake_keeps {die : Nat} : StepKeeps s (execLaunchTake die s) := by
  unfold execLaunchTake
  refine .next fun h => ?_
  split
  · exact takeFrom_inv h
  · exact h

/-! ### Placement (R377, R378) -/

theorem rotate_inv {id : Nat} (h : s.Inv) : (s.rotate id).Inv := h

theorem turnNew_inv {sets : List (List Nat)} {l : Launch} (h : s.Inv) : (s.turnNew sets l).1.Inv := by
  unfold State.turnNew
  extract_lets idx
  split
  · exact h
  split
  · next s1 as ht =>
    extract_lets s2
    have h2 : s2.Inv := foldl_inv (fun _ _ hy => startPanel_inv hy) (inv_of_pair (seatSets_inv h) ht)
    exact inv_of_mem h2 rfl
  · next s1 ht => exact inv_of_pair (seatSets_inv h) ht
  · next s1 ht => exact inv_of_pair (seatSets_inv h) ht

theorem endSearch_inv (h : s.Inv) : s.endSearch.Inv := h

theorem turnOn_inv {l : Launch} {sets : List (List Nat)} {vs : List Saved} (h : s.Inv) : (s.turnOn l sets vs).1.Inv := by
  unfold State.turnOn
  split
  · exact turnNew_inv h
  · exact turnResume_inv h

theorem dropAim_inv {id : Nat} (h : s.Inv) : (s.dropAim id).Inv := h

theorem preemptFor_inv {l : Launch} {q : List Nat × List Panel} (h : s.Inv) : (s.preemptFor l q).Inv := by
  unfold State.preemptFor
  refine foldl_inv (fun _ _ hy => ?_) h
  split
  · exact haltGroup_inv hy
  · exact hy

theorem placeTurn_inv {ls : List Launch} (h : s.Inv) : (s.placeTurn ls).Inv := by
  induction ls generalizing s with
  | nil => exact h
  | cons l ls ih =>
    have hturn : ∀ {t sets vs z}, s.turnOn l sets vs = (t, z) → t.Inv := fun ht => inv_of_pair (turnOn_inv h) ht
    unfold State.placeTurn
    extract_lets vs n
    split
    · exact ih h
    split
    · split
      · exact h
      split
      · next t z ht => exact endSearch_inv (rotate_inv (dropAim_inv (hturn ht)))
      · next t ht => exact hturn ht
      · next t ht => exact dropAim_inv (hturn ht)
    split
    · next t z ht => exact endSearch_inv (rotate_inv (hturn ht))
    · next t ht => exact hturn ht
    · next t ht =>
      split
      · exact ih (hturn ht)
      split
      · exact ih (endSearch_inv (hturn ht))
      · exact preemptFor_inv (hturn ht)

theorem execPanelPlace_keeps {die : Nat} : StepKeeps s (execPanelPlace die s) := by
  unfold execPanelPlace
  refine .next fun h => ?_
  split
  · exact placeTurn_inv h
  · exact h

/-! ### The end of a panel (R379, R446) -/

theorem doneAdd_inv {p : Panel} (h : s.Inv) : (s.doneAdd p).Inv := by
  unfold State.doneAdd
  dsimp only
  split
  · exact h
  · split
    · next q hq => exact dcaddStep_ok (spread_inv h) hq
    · exact h

theorem sweepWefts_inv {ws : List Weft} (h : s.Inv) : (s.sweepWefts ws).Inv := by
  unfold State.sweepWefts
  refine foldl_inv (fun _ _ hy => ?_) h
  split
  · exact sweepFut_inv hy
  · exact hy

theorem countEnd_inv {p : Panel} (h : s.Inv) : (s.countEnd p).Inv := by
  unfold State.countEnd
  dsimp only
  split
  · split
    · exact event_inv h
    · exact h
  · exact h

theorem freePanel_inv {p : Panel} (h : s.Inv) : (s.freePanel p).Inv := by
  unfold State.freePanel
  refine countEnd_inv (sweepWefts_inv (leaveCore_inv ?_))
  split
  · exact markBlock_inv h
  · exact h

theorem execPanelEnd_keeps {panel : Nat} : StepKeeps s (execPanelEnd panel s) := by
  unfold execPanelEnd
  dsimp only
  split
  · exact .of_mem rfl
  split
  · refine .next fun h => ?_
    split
    · refine foldl_inv (fun _ _ hy => ?_) h
      split
      · exact endDeq_inv hy
      · exact hy
    refine openCommit_inv (foldl_inv (fun _ _ hy => ?_) h)
    split
    · exact endDeq_inv hy
    · exact hy
  split
  · refine .next fun h => foldl_inv (fun _ _ hy => ?_) h
    split
    · exact endDeq_inv hy
    · exact hy
  refine .next fun h => freePanel_inv (doneAdd_inv (foldl_inv (fun _ _ hy => ?_) h))
  split
  · exact endDeq_inv hy
  · exact hy

end Sys2Proof.Proofs
end

section
/-! SUPPORT. Reliability, the host link, power, debug and system software keep memory in its canonical form. -/
namespace Sys2Proof.Proofs
open Sys2Proof Sys2Proof.Machine

variable {s : State}

/-! ### Commit points and rollbacks (R449 to R452) -/

theorem execCommitPoint_keeps {panel : Nat} : StepKeeps s (execCommitPoint panel s) := by
  unfold execCommitPoint
  refine .next fun h => ?_
  split
  · exact openCommit_inv h
  · exact h

theorem cancelSince_inv {p : Panel} {k : Ckpt} (h : s.Inv) : (s.cancelSince p k).Inv := by
  unfold State.cancelSince
  refine foldl_inv (fun _ _ hy => ?_) h
  split
  · dsimp only
    split
    · split
      · exact endPart_inv (modPend_inv hy)
      · exact modPend_inv hy
    · exact modPend_inv hy
  · exact hy

theorem abandonBeam_inv {p : Panel} {k : Ckpt} (h : s.Inv) : (s.abandonBeam p k).Inv := by
  unfold State.abandonBeam
  exact inv_of_mem (foldl_inv (fun _ _ hy => foldl_inv (fun _ _ hy => by split <;> exact hy) hy) h) rfl

theorem dropSince_inv {p : Panel} {k : Ckpt} (h : s.Inv) : (s.dropSince p k).Inv := by
  unfold State.dropSince
  exact inv_of_mem (foldl_inv (fun _ _ hy => quitWalks_inv hy) h) rfl

theorem rollbackTo_inv {p : Panel} {k : Ckpt} (h : s.Inv) : (s.rollbackTo p k).Inv := by
  unfold State.rollbackTo
  extract_lets s1 s2 old s3 s4
  have h1 : s1.Inv := foldl_inv (fun _ _ hy => foldl_inv (fun _ _ hz => unlinkNode_inv hz) hy) h
  have h2 : s2.Inv := abandonBeam_inv (cancelSince_inv (dropSince_inv (modPanel_inv h1)))
  clear_value s2
  have h3 : s3.Inv := inv_of_mem h2 rfl
  have h4 : s4.Inv := write_inv h3 _
  exact modPanel_inv (sweepWefts_inv (dropLookups_inv h4))

theorem rollbackFail_inv {p : Panel} (h : s.Inv) : (s.rollbackFail p).Inv :=
  foldl_inv (fun _ _ hy => foldl_inv (fun _ _ hy => stopLane_inv hy) hy) h

theorem execRollback_keeps {panel : Nat} {cause : RollbackCause} : StepKeeps s (execRollback panel cause s) := by
  unfold execRollback
  dsimp only
  split
  · split
    · exact .of_mem rfl
    refine .next fun h => ?_
    split
    · exact modCtx_inv (rollbackTo_inv h)
    · exact rollbackFail_inv h
  split
  · exact .of_mem rfl
  · exact .of_mem rfl
  · exact .next fun h => by split <;> exact h

/-! ### Errors (R440, R445) -/

theorem eccIn_inv {p : Panel} {f : State → State} (h : s.Inv) (hf : KeepsInv f) : (s.eccIn p f).Inv := by
  unfold State.eccIn
  split
  · exact h
  · exact hf _ h

theorem poisonSector_inv {core q : Nat} (h : s.Inv) : (s.poisonSector core q).Inv := by
  unfold State.poisonSector
  split
  · exact h
  split
  · exact h
  split
  · exact h
  · exact h
  · exact h
  dsimp only
  split
  · exact foldl_inv (fun _ _ hy => poisonAt_inv hy _) (landSector_inv h)
  · exact landSector_inv h

theorem execEccError_keeps {e : EccTarget} : StepKeeps s (execEccError e s) := by
  unfold execEccError
  split
  · exact .of_mem rfl
  · refine .next fun h => ?_
    split
    · exact poisonAt_inv h _
    · exact h
  · split
    · exact .of_mem rfl
    dsimp only
    split
    · exact .next fun h => eccIn_inv h fun _ hy => poisonAt_inv hy _
    · exact .next fun h => poisonAt_inv h _
  · dsimp only
    split
    · exact .next fun h => eccIn_inv h fun _ hy => hy
    · exact .of_mem rfl
  · refine .next fun h => ?_
    split
    · exact poisonAt_inv h _
    · exact h
  · refine .next fun h => ?_
    split
    · exact poisonAt_inv h _
    · exact h
  · exact .next fun h => poisonSector_inv h
  · exact .of_mem rfl
  · exact .of_mem rfl
  · dsimp only
    split
    · exact .of_mem rfl
    · split <;> exact .of_mem rfl
  split
  · exact .next fun h => by split <;> exact h
  · exact .of_mem rfl

/-! ### Tiles of another function (R455) -/

theorem takeTile_inv {core t : Nat} {c : CtxId} {go decline : State → State} (h : s.Inv) (hgo : KeepsInv go)
    (hdecline : KeepsInv decline) :
    (s.takeTile core t c go decline).Inv := by
  unfold State.takeTile
  split
  next s1 ht => exact hgo _ (zeroTile_inv (spillTile_ok h ht))
  · exact h
  · exact hdecline _ h

theorem execCrossFunctionAccown_keeps {id : Nat} : StepKeeps s (execCrossFunctionAccown id s) := by
  unfold execCrossFunctionAccown
  split
  · split
    · exact .of_mem rfl
    split
    · exact .of_mem rfl
    dsimp only
    split
    · exact .of_mem rfl
    · exact .next fun h => takeTile_inv h (fun _ hy => hy) fun _ hy => stopLane_inv hy
  dsimp only
  split
  · exact .of_mem rfl
  refine .next fun h => foldl_inv (fun _ _ hy => ?_) h
  split
  · exact hy
  · exact takeTile_inv hy (fun _ hy => hy) fun _ hy => stopLane_inv hy

/-! ### Owner keys (R88, R428) -/

theorem eraseKeys_inv {key : Nat} (h : s.Inv) : (s.eraseKeys key).Inv := by
  unfold State.eraseKeys
  exact inv_of_mem (foldl_inv (fun _ _ hy => foldl_inv (fun _ _ hy => foldl_inv (fun _ _ hy => endPost_inv hy) hy) hy) h) rfl

theorem execKeyCreate_keeps {key : Nat} : StepKeeps s (execKeyCreate key s) := .next fun h => by split <;> exact h

theorem execKeyDestroy_keeps {key : Nat} : StepKeeps s (execKeyDestroy key s) := by
  unfold execKeyDestroy
  refine .next fun h => ?_
  split
  · exact eraseKeys_inv h
  · exact h

theorem voidKey_inv {key : Nat} (h : s.Inv) : (s.voidKey key).Inv := by
  unfold State.voidKey
  exact inv_of_mem (dropLines_inv h) rfl

theorem execKeyDrainComplete_keeps {key : Nat} : StepKeeps s (execKeyDrainComplete key s) := by
  unfold execKeyDrainComplete
  refine .next fun h => ?_
  split
  · exact voidKey_inv h
  · exact h

/-! ### Function-level reset (R456, R469) -/

theorem failBinds_inv {c : CtxId} {ws : List Weft} (h : s.Inv) : (s.failBinds c ws).Inv :=
  foldl_inv (fun _ _ hy => foldl_inv (fun _ _ hy => failLane_inv hy) hy) h

theorem discardPanels_inv {mine : CtxId → Bool} (h : s.Inv) : (s.discardPanels mine).Inv := by
  unfold State.discardPanels
  exact inv_of_mem (foldl_inv (fun _ _ hy => leaveCore_inv (clearShare_inv hy))
    (foldl_inv (fun _ _ hy => quitWalks_inv hy)
      (foldl_inv (fun _ _ hy => failBinds_inv hy) (foldl_inv (fun _ _ hy => failBinds_inv hy) h)))) rfl

theorem clearCore_inv {mine : CtxId → Bool} {core : Nat} (h : s.Inv) : (s.clearCore mine core).Inv := by
  unfold State.clearCore
  refine foldl_inv (fun _ _ hy => ?_) (modCore_inv (foldl_inv (fun _ _ hy => write_inv hy _) h))
  dsimp only
  split
  · exact zeroTile_inv hy
  · exact hy

theorem resetFn_inv {n : Nat} (h : s.Inv) : (s.resetFn n).Inv := by
  unfold State.resetFn
  extract_lets mine cs s1 s2 keys s3 s4
  have h1 : s1.Inv := discardPanels_inv h
  have h2 : s2.Inv := foldl_inv (fun _ _ hy => clearCore_inv hy) h1
  have h3 : s3.Inv := by
    unfold s3
    clear_value s2
    refine foldl_inv (fun y k hy => ?_) h2
    split
    · exact hy
    · exact eraseKeys_inv (voidKey_inv hy)
  exact inv_of_mem h3 rfl

theorem execFunctionLevelReset_keeps {fn : Nat} : StepKeeps s (execFunctionLevelReset fn s) := by
  unfold execFunctionLevelReset
  split
  · exact .of_mem rfl
  split
  · exact .next fun h => foldl_inv (fun _ _ hy => resetFn_inv hy) h
  · exact .next fun h => resetFn_inv h

/-! ### Repair in service (R458 to R462) -/

theorem emptyTiles_some {core : Nat} {ts : List Nat} {t : State} (h : s.Inv) (ht : s.emptyTiles core ts = some t) : t.Inv := by
  induction ts generalizing s with
  | nil => exact Option.some.inj ht ▸ h
  | cons k ts ih =>
    unfold State.emptyTiles at ht
    split at ht
    · exact ih h ht
    split at ht
    · next s1 h1 => exact ih (zeroTile_inv (spillTile_ok h h1)) ht
    · cases ht
    · exact ih (zeroTile_inv (report_inv h)) ht

theorem clearBeam_inv {core : Nat} (h : s.Inv) : (s.clearBeam core).Inv := h

theorem execQuadDrain_keeps {die quad : Nat} : StepKeeps s (execQuadDrain die quad s) := by
  unfold execQuadDrain
  extract_lets s1 ps go
  have h1 : s.Inv → s1.Inv := fun h => modDie_inv h
  have hgo : ∀ (cs : List Nat) (o : Option State) (t : State), (∀ u, o = some u → u.Inv) → cs.foldl go o = some t → t.Inv := by
    intro cs
    induction cs with
    | nil => exact fun o t ho ht => ho t ht
    | cons c cs ih =>
      refine fun o t ho ht => ih _ t (fun u hu => ?_) ht
      obtain ⟨y, hy, hu⟩ := Option.bind_eq_some_iff.1 hu
      obtain ⟨z, hz, rfl⟩ := Option.map_eq_some_iff.1 hu
      exact clearBeam_inv (emptyTiles_some (ho y hy) hz)
  split
  · exact .next fun h => foldl_inv (fun _ _ hy => by split; exacts [haltGroup_inv hy, hy]) (h1 h)
  split
  · next t ht => exact .next fun h => report_inv (hgo _ _ t (fun u hu => Option.some.inj hu ▸ h1 h) ht)
  · exact .next fun h => report_inv (h1 h)

theorem quadBack_inv {die quad : Nat} {good : List (BitVec 16)} (h : s.Inv) : (s.quadBack die quad good).Inv :=
  modDie_inv (foldl_inv (fun _ _ hy => hy) h)

theorem quadReplace_inv {die quad : Nat} {good : List (BitVec 16)} (h : s.Inv) : (s.quadReplace die quad good).Inv := by
  unfold State.quadReplace
  split
  · exact modDie_inv (quadBack_inv h)
  · exact modDie_inv (foldl_inv (fun _ _ hy => hy) h)

theorem execQuadRepair_keeps {die quad : Nat} {r : RepairResult} : StepKeeps s (execQuadRepair die quad r s) := by
  unfold execQuadRepair
  split
  · exact .of_mem rfl
  refine .next fun h => event_inv ?_
  split
  · split
    · exact quadBack_inv h
    · exact quadReplace_inv h
  · exact quadReplace_inv h

theorem execHbmRowSpare_keeps {stack row : Nat} : StepKeeps s (execHbmRowSpare stack row s) := by
  refine .next fun h => ?_
  split <;> exact h

theorem execFirmwareUpdate_keeps {die : Nat} {signed : Bool} : StepKeeps s (execFirmwareUpdate die signed s) := by
  unfold execFirmwareUpdate
  split
  · exact .of_mem rfl
  split
  · exact .of_mem rfl
  · exact .next fun h => event_inv h

/-! ### The doorbell (R466) -/

theorem doorbellFault_inv {fn : Nat} {v : DWord} (h : s.Inv) : (s.doorbellFault fn v).Inv := event_inv h

theorem doorbell_inv {fn : Nat} {v : DWord} (h : s.Inv) : (s.doorbell fn v).Inv := by
  unfold State.doorbell
  dsimp only
  split
  · exact doorbellFault_inv h
  split
  · exact doorbellFault_inv h
  split
  · exact doorbellFault_inv h
  · exact queueStep_inv (putTq_inv h)

theorem execLaunchDoorbell_keeps {fn : Nat} {value : DWord} : StepKeeps s (execLaunchDoorbell fn value s) := by
  unfold execLaunchDoorbell
  refine .next fun h => ?_
  split
  · exact doorbell_inv h
  · exact h

/-! ### The event ring (R468) -/

theorem releaseHeld_inv {fn n : Nat} (h : s.Inv) : (s.releaseHeld fn n).Inv := by
  induction n generalizing s with
  | zero => exact h
  | succ n ih =>
    unfold State.releaseHeld
    split
    · exact h
    · split
      · exact ih (putEvent_inv h)
      · exact h

theorem putEvCtl_inv {fn : Nat} {v : DWord} (h : s.Inv) : (s.putEvCtl fn v).Inv := by
  unfold State.putEvCtl
  split
  · exact releaseHeld_inv h
  · exact h

theorem execEvctlWrite_keeps {fn : Nat} {value : DWord} : StepKeeps s (execEvctlWrite fn value s) := by
  unfold execEvctlWrite
  refine .next fun h => ?_
  split
  · exact putEvCtl_inv h
  · exact h

/-! ### APSEG and the other registers (R464) -/

theorem putApseg_inv {fn : Nat} {v : DWord} (h : s.Inv) : (s.putApseg fn v).Inv := by
  unfold State.putApseg
  dsimp only
  split
  · exact h
  split
  · exact h
  split
  · exact modFn_inv (ensureCtx_inv h)
  · exact ensureCtx_inv h

theorem execApsegWrite_keeps {fn : Nat} {value : DWord} : StepKeeps s (execApsegWrite fn value s) := by
  unfold execApsegWrite
  refine .next fun h => ?_
  split
  · exact putApseg_inv h
  · exact h

theorem bar0_inv {fn off : Nat} {v : DWord} (h : s.Inv) : (s.bar0 fn off v).Inv := by
  unfold State.bar0
  split
  · exact doorbell_inv h
  split
  · split <;> exact h
  split
  · exact putEvCtl_inv h
  split
  · exact putApseg_inv h
  split
  · exact putApseg_inv h
  · exact h

theorem execBar0Write_keeps {fn off : Nat} {value : DWord} : StepKeeps s (execBar0Write fn off value s) := by
  unfold execBar0Write
  refine .next fun h => ?_
  split
  · exact bar0_inv h
  · exact h

/-! ### The aperture (R465) -/

theorem apertureFault_inv {fn : Nat} {f : LFault × CtxId} (h : s.Inv) : (s.apertureFault fn f).Inv := event_inv h

theorem execHostApertureWrite_keeps {fn off : Nat} {bytes : List Byte} : StepKeeps s (execHostApertureWrite fn off bytes s) := by
  unfold execHostApertureWrite
  split
  · split
    · exact .next fun h => landAll_inv h
    · exact .next fun h => apertureFault_inv h
  · exact .of_mem rfl

theorem execHostApertureRead_keeps {fn off len : Nat} : StepKeeps s (execHostApertureRead fn off len s) := by
  unfold execHostApertureRead
  dsimp only
  split
  · exact .of_mem rfl
  split
  · exact .of_mem rfl
  split
  · split
    · exact .of_mem rfl
    · exact .next fun h => inv_of_mem (apertureFault_inv h) rfl
  · exact .of_mem rfl

/-! ### Address translation (R467) -/

theorem execAtsTranslationResponse_keeps {id : Nat} {page : Option Nat} : StepKeeps s (execAtsTranslationResponse id page s) := by
  unfold execAtsTranslationResponse
  split <;> exact .of_mem rfl

theorem execAtsInvalidation_keeps {die page : Nat} : StepKeeps s (execAtsInvalidation die page s) := by
  unfold execAtsInvalidation
  dsimp only
  split <;> exact .of_mem rfl

/-! ### Power and temperature (R487) -/

theorem stopPanel_inv {pid : Nat} (h : s.Inv) : (s.stopPanel pid).Inv := by
  unfold State.stopPanel
  refine foldl_inv (fun _ _ hy => foldl_inv (fun _ _ hy => ?_) hy) h
  split
  · exact hy
  · exact stopLane_inv hy
  · exact stopLane_inv hy
  · exact stopLane_inv hy

theorem execThermalTrip_keeps {die : Nat} : StepKeeps s (execThermalTrip die s) := by
  unfold execThermalTrip
  split
  · exact .of_mem rfl
  · exact .next fun h => event_inv (report_inv (foldl_inv (fun _ _ hy => stopPanel_inv (haltPanel_inv hy)) h))

/-! ### Cold reset (R488) -/

theorem bootFailed_inv {f : BootFail} (h : s.Inv) : (s.bootFailed f).Inv := by
  unfold State.bootFailed
  split
  case h_4 => exact inv_of_mem (quadReplace_inv h) rfl
  all_goals exact h

theorem execColdReset_keeps {fail : Option BootFail} : StepKeeps s (execColdReset fail s) := by
  unfold execColdReset
  split
  · exact .next fun h => cold_inv h
  · exact .next fun h => bootFailed_inv (cold_inv h)

/-! ### Attestation (R489) -/

theorem execAttestationRequest_keeps {bus : Nat} {nonce : List Byte} : StepKeeps s (execAttestationRequest bus nonce s) := by
  unfold execAttestationRequest
  split
  · exact .of_mem rfl
  · exact .next fun h => event_inv (write_inv h _)

/-! ### The trace ring (R473) -/

theorem putTrace_inv {c : CtxId} {rc : List Byte} (h : s.Inv) : (s.putTrace c rc).Inv := by
  unfold State.putTrace
  split
  · exact h
  split
  · exact h
  · exact deviceWrite_inv (write_inv h _) _ _ _ _ _

theorem execTraceRingMove_keeps {core : Nat} : StepKeeps s (execTraceRingMove core s) := by
  unfold execTraceRingMove
  split
  · exact .of_mem rfl
  split
  · exact .of_mem rfl
  · exact .next fun h => putTrace_inv h

/-! ### Attaching, halting and resuming (R475, R478, R479) -/

theorem execDebugHalt_keeps {t : HaltTarget} : StepKeeps s (execDebugHalt t s) := by
  unfold execDebugHalt
  split <;> exact .next fun h => by split <;> exact h

theorem execDebugSnapshot_keeps {weft : Nat} : StepKeeps s (execDebugSnapshot weft s) := by
  unfold execDebugSnapshot
  refine .next fun h => ?_
  split
  · exact h
  · split <;> exact h

/-! ### Breakpoint and watchpoint entries (R475) -/

theorem execBreakpointWrite_keeps {ctx : CtxId} {watch : Bool} {index : Nat} {entry : BitVec 128} :
    StepKeeps s (execBreakpointWrite ctx watch index entry s) := by
  unfold execBreakpointWrite
  split
  · exact .of_mem rfl
  · exact .next fun h => modCtx_inv (ensureCtx_inv h)

/-! ### Stopped lanes (R290, R408) -/

theorem execLaneRelease_keeps {weft lane : Nat} : StepKeeps s (execLaneRelease weft lane s) := .next fun h => by split <;> exact h

theorem execLaneReleaseAtPc_keeps {weft lane : Nat} {pc : DWord} : StepKeeps s (execLaneReleaseAtPc weft lane pc s) := by
  unfold execLaneReleaseAtPc
  refine .next fun h => ?_
  split
  · exact h
  split
  · exact atCommit_inv h fun _ hy => wakeLane_inv (modLane_inv (dropUnbound_inv hy))
  · exact h

theorem execLaneEnd_keeps {weft lane : Nat} : StepKeeps s (execLaneEnd weft lane s) := by
  unfold execLaneEnd
  refine .next fun h => ?_
  split
  · exact endLane_inv h
  · exact h

/-! ### Tables (R367, R372, R381, R421, R427, R428) -/

theorem execLaunchQueueTableWrite_keeps {die entry : Nat} {v : Option (CtxId × Seg)} :
    StepKeeps s (execLaunchQueueTableWrite die entry v s) := by
  unfold execLaunchQueueTableWrite
  split
  · exact .next fun h => h
  extract_lets k s1
  have h1 : s.Inv → s1.Inv := fun h => inv_of_mem h rfl
  split
  · exact .next h1
  · exact .next fun h => inv_of_mem (ensureCtx_inv (h1 h)) rfl

theorem execStealTableWrite_keeps {ctx : CtxId} {die index : Nat} {seg : Seg} :
    StepKeeps s (execStealTableWrite ctx die index seg s) := by
  unfold execStealTableWrite
  split
  · exact .of_mem rfl
  · exact .next fun h => modCtx_inv (ensureCtx_inv h)

theorem execEndpointWrite_keeps {ctx : CtxId} {index : Nat} {entry : BitVec 512} :
    StepKeeps s (execEndpointWrite ctx index entry s) := by
  unfold execEndpointWrite
  split
  · exact .of_mem rfl
  · exact .next fun h => modCtx_inv (ensureCtx_inv h)

theorem execAssociationKeyWrite_keeps {sa okey : Nat} : StepKeeps s (execAssociationKeyWrite sa okey s) :=
  .next fun h => by split <;> exact h

/-! ### What the agents of the package can do -/

theorem nextStep_inv (h : s.Inv) : s.nextStep.2.Inv := by
  unfold State.nextStep
  dsimp only
  split <;> exact settleSlot_inv h

theorem illegalWord_inv {sw : SlotWord} {e : Illegal} (h : s.Inv) : (s.illegalWord sw e).Inv := by
  unfold State.illegalWord
  dsimp only
  split
  · exact h
  · exact refuse_inv h

end Sys2Proof.Proofs
end

section
/-! SUPPORT. Every instruction goes on and keeps memory in its canonical form, and so does every step (O57). -/
namespace Sys2Proof.Proofs
open Sys2Proof Sys2Proof.Machine

/-- No instruction stops the machine, and each keeps memory in its canonical form: the operation that its meaning calls does. -/
theorem exec_keeps (i : Instr) (s : State) : StepKeeps s (exec i s) := by
  unfold exec
  cases i with
  | intAdd _ _ | intSub _ _ | intMul _ _ | mulhi _ _ | intMin _ _ | intMax _ _ | and _ _ | or _ _ | xor _ _ | andn _ _ | orn _ _
  | shl _ _ | shr _ _ | sra _ _ | rotl _ _ | rotr _ _ | intSeteq _ _ | intSetne _ _ | intSetlt _ _ | intSetle _ _ | intSetgt _ _
  | intSetge _ _ | bfe _ _ | mkaddr _ _ | addoff _ _ | bmm _ _ | bmmt _ _ | spread _ _ | gather _ _ | mulw _ _ | addsat _ _
  | subsat _ _ | packs _ _ | packn _ _ => exact alu2_keeps
  | mad _ _ | sad _ _ | bsel _ _ | fsh _ _ | sel _ _ | bfi _ _ | bmmx _ _ | bgat _ _ | madw _ _ => exact alu3_keeps
  | intAbs _ _ | intNeg _ _ | addi _ _ | muli _ _ | movhi _ _ | andi _ _ | ori _ _ | xori _ _ | shli _ _ | shri _ _ | srai _ _
  | not _ _ | popc _ _ | clz _ _ | ctz _ _ | brev _ _ | segof _ _ | offof _ _ | addoffi _ _ | bswap _ _ => exact alu1_keeps
  | movi _ _ | rdactive _ _ => exact alu0_keeps
  | absaddr _ _ | bperm _ _ | fpMin _ _ | fpMax _ _ | fpAbs _ _ | fpNeg _ _ | fpSeteq _ _ | fpSetne _ _ | fpSetlt _ _
  | fpSetle _ _ | fpSetgt _ _ | fpSetge _ _ | setnan _ _ | rcp _ _ | rsqrt _ _ | sqrt _ _ | exp2 _ _ | log2 _ _ | sin _ _
  | cos _ _ | tanh _ _ | unpklo _ _ | unpkhi _ _ | unpk8lo _ _ | unpk8hi _ _ | scldec _ _ | fpMovi _ _ => exact valueWord_keeps
  | segrd _ _ => exact execSegrd_keeps
  | mov _ _ | join _ _ | joinX _ _ | nop _ _ | pause _ _ | ftest _ _ | hgetRef _ _ => exact simpleWord_keeps (fun _ _ hy => hy)
  | fpAdd _ _ | fpSub _ _ | fpMul _ _ | fma _ _ | cvt _ _ | frnd _ _ | pack2 _ _ | pack4 _ _ | sclenc _ _ | fpAddi _ _
  | fpMuli _ _ | dot2 _ _ | dot4 _ _ => exact floatWord_keeps
  | rnd _ _ => exact execRnd_keeps
  | xlGet _ _ | xlRot _ _ | xlXor _ _ | xlRev _ _ => exact xlWord_keeps
  | voteAll _ _ | voteAny _ _ | voteBallot _ _ => exact voteWord_keeps
  | voteEq _ _ => exact crossWord_keeps
  | redAdd _ _ | redMin _ _ | redMax _ _ | redAnd _ _ | redOr _ _ | redXor _ _ | scanAdd _ _ _ | scanMin _ _ _ | scanMax _ _ _
  | scanOr _ _ _ => exact redWord_keeps
  | bra _ _ | brind _ _ => exact laneWord_keeps fun _ _ _ _ hq => branchTo_ok hq
  | brz _ _ | brnz _ _ => exact branchWord_keeps
  | wait _ _ => exact execWait_keeps
  | call _ _ | callInd _ _ => exact callWord_keeps
  | callSym _ _ => exact execCallSym_keeps
  | ret _ _ => exact laneWord_keeps fun _ _ _ _ hq => retCheck_ok hq
  | exit _ _ => exact laneWord_keeps fun _ _ _ _ hq => exitCheck_ok hq
  | enter _ _ _ => exact execEnter_keeps
  | leave _ _ => exact execLeave_keeps
  | mark _ _ => exact execMark_keeps
  | cut _ _ => exact execCut_keeps
  | graft _ _ => exact execGraft_keeps
  | drop _ _ => exact laneWord_keeps fun _ _ _ _ hq => dropCheck_ok hq
  | prefi _ _ => exact execPrefi_keeps
  | ld _ _ => exact execLd_keeps
  | lds _ _ => exact execLds_keeps
  | st _ _ => exact execSt_keeps
  | sts _ _ => exact execSts_keeps
  | atomAdd _ _ | atomMin _ _ | atomMax _ _ | atomAnd _ _ | atomOr _ _ | atomXor _ _ | atomExch _ _ | cas _ _ => exact atomWord_keeps
  | fence _ _ => exact execFence_keeps
  | bind _ _ => exact execBind_keeps
  | unbind _ _ => exact execUnbind_keeps
  | lookup _ _ => exact execLookup_keeps
  | push _ _ => exact execPush_keeps
  | pop _ _ => exact execPop_keeps
  | pref _ _ => exact execPref_keeps
  | discard _ _ => exact execDiscard_keeps
  | bload _ _ | bclr _ _ | mmaW _ _ | mmaQ _ _ | mmaS _ _ | align _ _ | sacc _ _ | tld _ _ | tst _ _ | tzero _ _ | pld _ _
  | pst _ _ | pzero _ _ => exact matWord_keeps
  | copy _ _ | npost _ _ => exact engineWord_keeps
  | qfence _ _ => exact execQfence_keeps
  | fwait _ _ => exact execFwait_keeps
  | fcancel _ _ => exact execFcancel_keeps
  | hget _ _ => exact execHget_keeps
  | hput _ _ => exact execHput_keeps
  | arrive _ _ | bsync _ _ => exact arriveWord_keeps
  | bwait _ _ => exact execBwait_keeps
  | enq _ _ | dcinit _ _ | dcadd _ _ => exact stepWord_keeps
  | deq _ _ => exact execDeq_keeps
  | nwait _ _ => exact execNwait_keeps
  | sysr _ _ => exact runWord_keeps (fun _ _ _ _ hy => tracked_inv hy)
  | sysw _ _ | xinvSeg _ _ | xinvPages _ _ | xinvCtx _ _ => exact syswWord_keeps
  | shootdownComplete _ => exact execShootdownComplete_keeps
  | trace _ _ => exact execTrace_keeps
  | trap _ _ => exact execTrap_keeps
  | rett _ _ => exact execRett_keeps
  | publish _ _ => exact execPublish_keeps
  | chkerr _ _ => exact execChkerr_keeps
  | brk _ _ => exact execBrk_keeps
  | issueSlot _ => exact execIssueSlot_keeps
  | unitResultComplete _ _ => exact execUnitResultComplete_keeps
  | memoryAccessComplete _ _ => exact execMemoryAccessComplete_keeps
  | storePerform _ => exact execStorePerform_keeps
  | atomicAtHome _ => exact execAtomicAtHome_keeps
  | windowAccess _ => exact execWindowAccess_keeps
  | remoteAccess _ => exact execRemoteAccess_keeps
  | walkSlotGrant _ => exact execWalkSlotGrant_keeps
  | walkComplete _ _ => exact execWalkComplete_keeps
  | pagerResolve _ => exact execPagerResolve_keeps
  | pagerDecline _ => exact execPagerDecline_keeps
  | copySectorLand _ _ => exact execCopySectorLand_keeps
  | mqEntryArrival _ _ => exact execMqEntryArrival_keeps
  | mqCreditReturn _ => exact execMqCreditReturn_keeps
  | pushRetryTimeout _ | nwaitRecheck _ | ptpMessage _ | holdoverReport | thermalThrottle _ | debugDetach _ | debugResume _
  | debugStep _ | gangInstantWrite _ _ _ | pnodeWrite _ | firmwareRestartEnd _ | throttleRelease _ => exact .of_mem rfl
  | matrixWordStart _ _ => exact execMatrixWordStart_keeps
  | treadleStepEnd _ _ => exact execTreadleStepEnd_keeps
  | matrixWordComplete _ _ => exact execMatrixWordComplete_keeps
  | barrierComplete _ => exact execBarrierComplete_keeps
  | launchTake _ => exact execLaunchTake_keeps
  | panelPlace _ => exact execPanelPlace_keeps
  | panelEnd _ => exact execPanelEnd_keeps
  | stealStep _ => exact execStealStep_keeps
  | preemptRequest _ => exact execPreemptRequest_keeps
  | panelSave _ => exact execPanelSave_keeps
  | panelResume _ => exact execPanelResume_keeps
  | gangSwitch _ => exact execGangSwitch_keeps
  | hangWatchdog _ => exact execHangWatchdog_keeps
  | commitPoint _ => exact execCommitPoint_keeps
  | rollback _ _ => exact execRollback_keeps
  | eccError _ => exact execEccError_keeps
  | crossFunctionAccown _ => exact execCrossFunctionAccown_keeps
  | functionLevelReset _ => exact execFunctionLevelReset_keeps
  | quadDrain _ _ => exact execQuadDrain_keeps
  | quadRepair _ _ _ => exact execQuadRepair_keeps
  | hbmRowSpare _ _ => exact execHbmRowSpare_keeps
  | firmwareUpdate _ _ => exact execFirmwareUpdate_keeps
  | keyCreate _ => exact execKeyCreate_keeps
  | keyDestroy _ => exact execKeyDestroy_keeps
  | keyDrainComplete _ => exact execKeyDrainComplete_keeps
  | launchDoorbell _ _ => exact execLaunchDoorbell_keeps
  | apsegWrite _ _ => exact execApsegWrite_keeps
  | evctlWrite _ _ => exact execEvctlWrite_keeps
  | bar0Write _ _ _ => exact execBar0Write_keeps
  | hostApertureWrite _ _ _ => exact execHostApertureWrite_keeps
  | hostApertureRead _ _ _ => exact execHostApertureRead_keeps
  | atsTranslationResponse _ _ => exact execAtsTranslationResponse_keeps
  | atsInvalidation _ _ => exact execAtsInvalidation_keeps
  | netPacketSend _ _ => exact execNetPacketSend_keeps
  | netPacketReceive _ _ => exact execNetPacketReceive_keeps
  | netAckReceive _ _ => exact execNetAckReceive_keeps
  | netRtoExpiry _ _ _ => exact execNetRtoExpiry_keeps
  | pdcIdleTimeout _ _ => exact execPdcIdleTimeout_keeps
  | thermalTrip _ => exact execThermalTrip_keeps
  | coldReset _ => exact execColdReset_keeps
  | attestationRequest _ _ => exact execAttestationRequest_keeps
  | publishCheck _ => exact execPublishCheck_keeps
  | traceRingMove _ => exact execTraceRingMove_keeps
  | debugAttach _ | traceRingWrite _ _ => exact .next fun h => modCtx_inv (ensureCtx_inv h)
  | debugHalt _ => exact execDebugHalt_keeps
  | debugSnapshot _ => exact execDebugSnapshot_keeps
  | breakpointWrite _ _ _ _ => exact execBreakpointWrite_keeps
  | laneRelease _ _ => exact execLaneRelease_keeps
  | laneReleaseAtPc _ _ _ => exact execLaneReleaseAtPc_keeps
  | laneEnd _ _ => exact execLaneEnd_keeps
  | launchQueueTableWrite _ _ _ => exact execLaunchQueueTableWrite_keeps
  | stealTableWrite _ _ _ _ => exact execStealTableWrite_keeps
  | endpointWrite _ _ _ => exact execEndpointWrite_keeps
  | associationKeyWrite _ _ => exact execAssociationKeyWrite_keeps

/-- A step of a state with the memory of `s`. -/
theorem StepKeeps.congr {s u : State} {o : Host.Outcome State Fault Refusal} (h : StepKeeps u o) (hu : s.Inv → u.Inv) : StepKeeps s o :=
  h.imp fun _ ht => ht.imp_right fun hkeep hs => hkeep (hu hs)

theorem step_keeps (s : State) : StepKeeps s (step s) := by
  unfold step
  split
  · split
    · exact (exec_keeps _ _).congr fun h => inv_of_mem h rfl
    · exact .next fun h => illegalWord_inv (inv_of_mem h rfl)
  · exact (exec_keeps _ _).congr nextStep_inv

/-! ### O57 -/

/-- Settles O57: memory is changed by the operations of Laws/Memory.lean alone, each of which keeps its form; `exec_keeps` follows every
instruction down to them. -/
theorem stepKeepsInv : Obligations.StepKeepsInv := by
  unfold Obligations.StepKeepsInv
  intro s t hs ht
  exact (ht ▸ step_keeps s).inv hs

end Sys2Proof.Proofs
end

section
/-! SUPPORT. A chosen word and the step that it makes: the bytes read at its PC are those of the word there, and `step` by its cases
(O54). -/
namespace Sys2Proof.Proofs
open Sys2Proof Sys2Proof.Machine

variable {s : State}

/-! ### The word read at a PC -/

theorem leNat_natLE (n x : Nat) : leNat (natLE n x) = x % 256 ^ n := by
  induction n generalizing x with
  | zero => simp [natLE, leNat, Nat.mod_one]
  | succ n ih =>
    rw [natLE, leNat, ih, BitVec.toNat_ofNat, Nat.pow_succ' (n := n), Nat.mod_mul]

theorem length_natLE (n x : Nat) : (natLE n x).length = n := by
  induction n generalizing x with
  | zero => rfl
  | succ n ih => rw [natLE, List.length_cons, ih]

/-- A word's own bytes decode as the word does (R222). -/
theorem decodeBytes_natLE (cls : Nat) (last : Bool) (w : DWord) : decodeBytes cls last (natLE 8 w.toNat) = decodeWord cls last w := by
  have hbytes : leNat ((natLE 8 w.toNat).take 8) = w.toNat := by
    rw [List.take_of_length_le (length_natLE 8 _).le, leNat_natLE]
    exact Nat.mod_eq_of_lt w.isLt
  rw [decodeBytes, hbytes, BitVec.ofNat_toNat, BitVec.setWidth_eq]

theorem wordAt_of_header {core : Nat} {c : CtxId} {seg : Seg} {hdr off : Off} {h : Header}
    (hh : decodeHeader (s.fetchWord core c seg hdr.toNat) = some h) :
    s.wordAt core c seg hdr off =
      decodeWord h.cls.toNat (off.toNat == hdr.toNat + 8 * (h.count.toNat + 1)) (s.fetchWord core c seg off.toNat) := by
  rw [State.wordAt, hh]
  exact decodeBytes_natLE _ _ _

/-! ### The name of a row (R70) -/

/-- Every word but a write of XINV keeps its name. -/
theorem rowOf_of_not_xinv {i : Instr} {v : Opnd → DWord} (hi : ∀ c f, i = .sysw c f → f.sreg ≠ .xinv) : rowOf i v = i := by
  unfold rowOf
  split
  · next c f => exact if_neg (hi c f rfl)
  · rfl

theorem rowOf_xinv {c : Common} {f : SF} {v : Opnd → DWord} (hf : f.sreg = .xinv) : rowOf (.sysw c f) v = xinvName c f (v f.a) := if_pos hf

/-- OPC is the value's high four bits. -/
theorem xinvOpc_eq (v : DWord) : bitsOf v.toNat 63 60 = v.toNat / 2 ^ 60 := by
  have hv := v.isLt
  rw [bitsOf, Nat.shiftRight_eq_div_pow]
  omega

/-- The row that each value of OPC names. -/
theorem xinvName_of_opc (c : Common) (f : SF) (v : DWord) :
    (v.toNat / 2 ^ 60 = 1 → xinvName c f v = .xinvSeg c f) ∧ (v.toNat / 2 ^ 60 = 2 → xinvName c f v = .xinvPages c f) ∧
    (v.toNat / 2 ^ 60 = 3 → xinvName c f v = .xinvCtx c f) ∧
    (v.toNat / 2 ^ 60 = 0 ∨ 3 < v.toNat / 2 ^ 60 → xinvName c f v = .sysw c f) := by
  unfold xinvName
  rw [xinvOpc_eq]
  refine ⟨fun h => by simp only [h], fun h => by simp only [h], fun h => by simp only [h], fun h => ?_⟩
  split
  case h_4 => rfl
  all_goals omega

/-! ### The chosen word -/

theorem chosen_of_ok {sw : SlotWord} {i : Instr}
    (hi : s.wordAt (s.weft sw.weft).core (s.panel (s.weft sw.weft).panel).ctx (segOf sw.pc) sw.hdr (offOf sw.pc) = .ok i) :
    s.chosen sw = .ok (rowOf i (fun o => (icOf (s.ready sw) sw).rd true o (icOf (s.ready sw) sw).agent)) := by
  unfold State.chosen
  dsimp only
  rw [hi]

theorem chosen_of_error {sw : SlotWord} {e : Illegal}
    (he : s.wordAt (s.weft sw.weft).core (s.panel (s.weft sw.weft).panel).ctx (segOf sw.pc) sw.hdr (offOf sw.pc) = .error e) :
    s.chosen sw = .error e := by
  unfold State.chosen
  dsimp only
  rw [he]

/-! ### `step` by its cases -/

theorem step_of_chosen {sw : SlotWord} {rest : List SlotWord} {i : Instr} (hs : s.slot = sw :: rest) (hi : s.chosen sw = .ok i) :
    step s = exec i { s with slot := rest, cur := some sw } := by
  rw [step, hs]
  dsimp only
  rw [hi]

theorem step_of_illegal {sw : SlotWord} {rest : List SlotWord} {e : Illegal} (hs : s.slot = sw :: rest) (he : s.chosen sw = .error e) :
    step s = .next (({ s with slot := rest } : State).illegalWord sw e) := by
  rw [step, hs]
  dsimp only
  rw [he]

theorem step_of_empty (hs : s.slot = []) : step s = exec s.nextStep.1 s.nextStep.2 := by rw [step, hs]

/-- A chosen write of XINV is a step of the row that its OPC names. -/
theorem step_of_xinv {sw : SlotWord} {rest : List SlotWord} {c : Common} {f : SF} (hs : s.slot = sw :: rest) (hf : f.sreg = .xinv)
    (hi : s.wordAt (s.weft sw.weft).core (s.panel (s.weft sw.weft).panel).ctx (segOf sw.pc) sw.hdr (offOf sw.pc) = .ok (.sysw c f)) :
    step s = exec (xinvName c f ((icOf (s.ready sw) sw).rd true f.a (icOf (s.ready sw) sw).agent))
      { s with slot := rest, cur := some sw } := by
  rw [step_of_chosen hs (chosen_of_ok hi), rowOf_xinv hf]

/-- Charging the last slot leaves the agenda. -/
theorem settleSlot_agenda : s.settleSlot.agenda = s.agenda := by
  unfold State.settleSlot
  split
  · rfl
  extract_lets w s0 c k s1
  split
  · rfl
  · split <;> rfl

theorem nextStep_of_agenda {i : Instr} {is : List Instr} (ha : s.settleSlot.agenda = i :: is) :
    s.nextStep = (i, { s.settleSlot with agenda := is }) := by
  rw [State.nextStep, ha]

theorem nextStep_of_no_agenda (ha : s.settleSlot.agenda = []) :
    s.nextStep = (s.settleSlot.defaultStep, { s.settleSlot with turn := s.settleSlot.turn + 1 }) := by
  unfold State.nextStep
  dsimp only
  split
  · next i is hi => cases ha.symm.trans hi
  · rfl

/-- The default step is an agent's turn, where an agent has one. -/
theorem defaultStep_mem_turns : s.defaultStep ∈ s.turns ∨ s.turns = [] ∧ s.defaultStep = .launchTake 0 := by
  unfold State.defaultStep
  cases ht : s.turns with
  | nil => exact .inr ⟨rfl, rfl⟩
  | cons i is =>
    refine .inl ?_
    rw [List.getD_eq_getElem _ _ (Nat.mod_lt _ (List.length_pos_of_mem List.mem_cons_self))]
    exact List.getElem_mem _

/-! ### O54 -/

/-- Settles O54: the chosen word by `wordAt` and `rowOf`, the rest by `nextStep`; that no step stops the machine is half of what
`step_keeps` says. -/
theorem stepRuns : Obligations.StepRuns := by
  unfold Obligations.StepRuns
  refine ⟨fun s sw rest h => ?_, fun s i is hs ha => ?_, fun s hs ha => ?_, fun s => (step_keeps s).goes⟩
  · intro w word s1 hs hh dec
    have hword : s.wordAt w.core (s.panel w.panel).ctx (segOf sw.pc) sw.hdr (offOf sw.pc) = dec := wordAt_of_header hh
    refine ⟨fun i hi hx => ?_, fun c f hi hf => ?_, fun e he => step_of_illegal hs (chosen_of_error (hword.trans he))⟩
    · exact step_of_chosen hs (rowOf_of_not_xinv hx ▸ chosen_of_ok (hword.trans hi))
    · have hstep := step_of_xinv hs hf (hword.trans hi)
      obtain ⟨hseg, hpages, hctx, hother⟩ :=
        xinvName_of_opc c f ((icOf (s.ready sw) sw).rd true f.a (icOf (s.ready sw) sw).agent)
      refine ⟨fun ho => ?_, fun ho => ?_, fun ho => ?_, fun ho => ?_⟩
      · rw [hstep, hseg ho]
      · rw [hstep, hpages ho]
      · rw [hstep, hctx ho]
      · rw [hstep, hother ho]
  · rw [step_of_empty hs, nextStep_of_agenda (settleSlot_agenda.trans ha)]
  · intro z
    refine ⟨z.defaultStep, defaultStep_mem_turns, ?_⟩
    rw [step_of_empty hs, nextStep_of_no_agenda (settleSlot_agenda.trans ha)]

end Sys2Proof.Proofs
end

section
/-! SUPPORT. `push`, `pop` and the message queues of the cores (O35). -/
namespace Sys2Proof.Proofs
open Sys2Proof Sys2Proof.Machine

/-! ### Send slots (R116) -/

theorem bitsOf_zero (x hi : Nat) : bitsOf x hi 0 = x % 2 ^ (hi + 1) := by rw [bitsOf, Nat.shiftRight_zero, Nat.sub_zero]

theorem bitsOf_eq (x hi lo : Nat) : bitsOf x hi lo = x / 2 ^ lo % 2 ^ (hi + 1 - lo) := by rw [bitsOf, Nat.shiftRight_eq_div_pow]

/-- The credits that a slot is set to. -/
theorem mqsFree_mqsSetFree (x : DWord) (n : Nat) : mqsFree (mqsSetFree x n) = n % 2 ^ 13 := by
  have hx := x.isLt
  rw [mqsFree, mqsSetFree, bitsOf_zero, BitVec.toNat_ofNat]
  omega

/-! ### push (R117, R318) -/

/-- A park of no lane is none. -/
theorem modWeft_park_nil (s : State) (w : Nat) (p : Park) : s.modWeft w (fun v => v.park [] p) = s := modWeft_self s w

/-- `push` with a credit for each of its lanes. -/
theorem push_performs (c : Common) (f : MF) :
    Performs (.push c f) false
      (fun s x => x.awaits = false ∧ (s.mqs x.w.core (handleOf f)).getLsbD 63 = true ∧ mqsCtx (s.mqs x.w.core (handleOf f)) = x.p.ctx ∧
        x.lanes.length ≤ mqsFree (s.mqs x.w.core (handleOf f)) ∧ (x.p.launch.replay = true → x.w.sq = []) ∧ s.commitWaits x.p.id = false)
      (fun x u => (u.committed x.p.id (x.each (fun k y => y.sendEntry x k (handleOf f) f.b))).wakePush x.w.core (handleOf f)) := by
  refine performs_active (fun s => rfl) fun s x hl ⟨hwait, hlive, hctx, hfree, hstores, hcommit⟩ => ?_
  have hqueue : (x.p.launch.replay && !x.w.sq.isEmpty) = false := by
    cases hr : x.p.launch.replay
    · rfl
    · simp [hstores hr]
  dsimp only
  simp only [hwait, hlive, hctx, hqueue, hcommit, List.take_of_length_le hfree, List.drop_of_length_le hfree, List.isEmpty_iff, hl,
    Bool.not_true, bne_self_eq_false, Bool.or_self, Bool.false_eq_true, if_false]
  exact ⟨_, rfl, funext fun u => by simp only [modWeft_park_nil]; rfl⟩

/-- What an entry that is sent changes: the message on its way, the slot's credits, and its lane's store queue. -/
theorem sendEntry_cores (y : State) (x : IC) (k n : Nat) (b : Opnd) :
    (y.sendEntry x k n b).cores = ((y.setFree x.w.core n (mqsFree (y.mqs x.w.core n) - 1)).modCore x.w.core (fun c =>
      { c with mqIn := c.mqIn ++ [⟨y.nextId, n, x.group b k, x.w.id, k, x.pc, x.hdr⟩] })).cores := by
  simp only [State.sendEntry, enqueue_cores, addParts_cores]

theorem sendEntry_mem (y : State) (x : IC) (k n : Nat) (b : Opnd) : (y.sendEntry x k n b).mem = y.mem := by
  simp only [State.sendEntry, enqueue_mem, addParts_mem, modCore_mem, State.setFree]

theorem core_congr {s t : State} (h : s.cores = t.cores) (k : Nat) : s.core k = t.core k := by rw [State.core, h, State.core]

theorem core_sendEntry {y : State} (hr : risesFrom 0 y.cores) (x : IC) (k n : Nat) (b : Opnd) :
    (y.sendEntry x k n b).core x.w.core = { y.core x.w.core with
      mqs := (y.core x.w.core).mqs.set n (mqsSetFree (y.mqs x.w.core n) (mqsFree (y.mqs x.w.core n) - 1))
      mqIn := (y.core x.w.core).mqIn ++ [⟨y.nextId, n, x.group b k, x.w.id, k, x.pc, x.hdr⟩] } := by
  rw [core_congr (sendEntry_cores y x k n b), State.setFree, core_modCore (risesFrom_modCore hr _ _), if_pos rfl, core_modCore hr,
    if_pos rfl]
  rfl

theorem mqsFree_sendEntry {y : State} (hr : risesFrom 0 y.cores) {x : IC} {k n : Nat} (hn : n < (y.core x.w.core).mqs.length) (b : Opnd) :
    mqsFree ((y.sendEntry x k n b).mqs x.w.core n) = (mqsFree (y.mqs x.w.core n) - 1) % 2 ^ 13 := by
  rw [State.mqs, core_sendEntry hr, List.getD_eq_getElem?_getD, List.getElem?_set_self hn, Option.getD_some, mqsFree_mqsSetFree]

/-! ### pop (R319) -/

theorem pop_performs (c : Common) (f : MF) (off : Nat → Nat) :
    Performs (.pop c f) false
      (fun s x => x.w.sq = [] ∧ x.awaits = false ∧ ∀ k ∈ x.lanes, x.pz true f.a k = false ∧
        s.popCheck (s.reqOf x.w.id k) (x.rd true f.a k) = .ok (off k) ∧ s.popBlocked x.p (off k) x.lanes.length = false)
      (fun x => x.each (fun k y => y.popLane x k f.d f.b (x.rd true f.a k) (off k))) := by
  refine performs_active (fun s => rfl) fun s x _ ⟨hsq, hwait, hlanes⟩ => ?_
  have hclean : ∀ k ∈ x.lanes, x.pz true f.a k = false := fun k hk => (hlanes k hk).1
  have hcheck : ∀ k ∈ x.lanes, s.popCheck (s.reqOf x.w.id k) (x.addr f.a k) = .ok (off k) := fun k hk => (hlanes k hk).2.1
  have hlist : x.lanes.filter (fun i => !x.pz true f.a i) = x.lanes := List.filter_eq_self.2 fun k hk => by rw [hclean k hk]; rfl
  have hfree : x.lanes.any (fun k => s.popBlocked x.p (off k) x.lanes.length) = false :=
    List.any_eq_false.2 fun k hk => by rw [(hlanes k hk).2.2]; exact Bool.false_ne_true
  dsimp only
  rw [hlist, sortLanes_ok hcheck, if_neg (by simp [hsq, Function.comp_def, hfree])]
  exact memPlan_ok hwait hclean fun k hk => by rw [hcheck k hk]; rfl

/-- The check of a pop's address: it is in PAD, and its header word passes R26. -/
theorem popCheck_of_resolve {s : State} {r : Req} {a : DWord} {d : Desc} {sg : Seg} {o : Int}
    (h : s.resolve r (segOf a) (offOf a).toNat = .ok (d, sg, o)) :
    s.popCheck r a = if d.kind ≠ kPad then .fault ⟨.rights, 1, a, 0, 0⟩ else (s.check r .atomic a 0 8 64).map fun q => q.2.2.1 := by
  rw [State.popCheck, h]

/-- One pop by the header of its queue: a malformed or an empty queue gives nothing, another its entry at HEAD. -/
theorem popOne_eq (s : State) (p : Panel) (off : Nat) :
    let base := padPa p.core (0x4000 * p.padb)
    let h0 := s.padWord (base + off)
    let head := h0 % 2 ^ 16
    let slot := base + off + 64 + 64 * (head % 2 ^ (h0 / 2 ^ 52 % 16))
    s.popOne p off =
      if mqBad h0 (s.padWord (base + off + 8)) off (0x4000 * p.launch.padu) then
        (s.report "message queue malformed" p.ctx [p.core, off], none)
      else if h0 / 2 ^ 16 % 2 ^ 16 = head then (s, none)
      else (s.putPadWord (base + off) (h0 - head + (head + 1) % 2 ^ 16),
        some ((List.range 64).map (fun i => (s.chipByte (slot + i), s.pzAt (.chip (slot + i) false))), h0 / 2 ^ 32 % 2 ^ 14)) := by
  simp only [State.popOne, bitsOf_eq, Nat.pow_zero, Nat.div_one]
  rfl

/-! ### Arrivals (R117, R118) -/

/-- A panel that is not REPLAY admits every access to its pad and shadows none. -/
theorem admits_of_not_replay {p : Panel} (h : p.launch.replay = false) : p.admits = true := by rw [Panel.admits, h]; rfl

theorem inbound_of_not_replay {s : State} {p : Panel} (h : p.launch.replay = false) (ls : List Loc) : s.inbound p ls = s := by
  rw [State.inbound, h]
  rfl

section
variable {s : State} {core slot : Nat} {m : MqMsg} {p : Panel}

theorem mqEntryArrival_of_no_owner (hm : (s.core core).mqIn.find? (fun m => m.slot == slot) = some m)
    (hq : (s.weft m.weft).sq.any (fun e => e.op == .push m.id) = false)
    (hp : s.padOwner (mqsCore (s.mqs core slot)) (mqsOff (s.mqs core slot)) = none) :
    exec (.mqEntryArrival core slot) s =
      .next ((s.modCore core (fun c => { c with mqIn := c.mqIn.filter (fun z => z.id != m.id) })).refusePush core m) := by
  show execMqEntryArrival core slot s = _
  simp only [execMqEntryArrival, hm, hq, hp, Bool.false_eq_true, if_false]

theorem mqEntryArrival_of_other_ctx (hm : (s.core core).mqIn.find? (fun m => m.slot == slot) = some m)
    (hq : (s.weft m.weft).sq.any (fun e => e.op == .push m.id) = false)
    (hp : s.padOwner (mqsCore (s.mqs core slot)) (mqsOff (s.mqs core slot)) = some p) (hc : p.ctx ≠ mqsCtx (s.mqs core slot)) :
    exec (.mqEntryArrival core slot) s =
      .next ((s.modCore core (fun c => { c with mqIn := c.mqIn.filter (fun z => z.id != m.id) })).refusePush core m) := by
  show execMqEntryArrival core slot s = _
  simp only [execMqEntryArrival, hm, hq, hp, Bool.false_eq_true, if_false, if_pos hc]

theorem mqEntryArrival_lands (hm : (s.core core).mqIn.find? (fun m => m.slot == slot) = some m)
    (hq : (s.weft m.weft).sq.any (fun e => e.op == .push m.id) = false)
    (hp : s.padOwner (mqsCore (s.mqs core slot)) (mqsOff (s.mqs core slot)) = some p) (hc : p.ctx = mqsCtx (s.mqs core slot))
    (hr : p.launch.replay = false) :
    exec (.mqEntryArrival core slot) s =
      .next ((s.modCore core (fun c => { c with mqIn := c.mqIn.filter (fun z => z.id != m.id) })).landEntry p
        (mqsOff (s.mqs core slot)) m) := by
  show execMqEntryArrival core slot s = _
  simp only [execMqEntryArrival, hm, hq, hp, Bool.false_eq_true, if_false, if_neg (not_not.2 hc), admits_of_not_replay hr, Bool.not_true,
    inbound_of_not_replay hr]

end

/-- An entry that a queue with room takes is written at TAIL, which rises by one. -/
theorem landEntry_of_room {s : State} {p : Panel} {off base h0 n tail : Nat} (m : MqMsg) (hbase : base = padPa p.core 0 + off)
    (hh : h0 = s.padWord base) (hn : n = 2 ^ (h0 / 2 ^ 52 % 16)) (htail : tail = h0 / 2 ^ 16 % 2 ^ 16)
    (hgood : mqBad h0 (s.padWord (base + 8)) (off - 0x4000 * p.padb) (0x4000 * p.launch.padu) = false)
    (hroom : (tail + 2 ^ 16 - h0 % 2 ^ 16) % 2 ^ 16 ≠ n) :
    s.landEntry p off m =
      (s.write ((m.bytes.zipIdx).map (fun q => ⟨Loc.chip (base + 64 + 64 * (tail % n) + q.2) false, q.1.1, q.1.2⟩))).putPadWord base
        (h0 - tail * 2 ^ 16 + (tail + 1) % 2 ^ 16 * 2 ^ 16) := by
  have htail' : bitsOf h0 31 16 = tail := (bitsOf_eq _ _ _).trans htail.symm
  have hn' : 2 ^ bitsOf h0 55 52 = n := (congrArg (2 ^ ·) (bitsOf_eq _ _ _)).trans hn.symm
  have hfull : ((tail + 65536 - bitsOf h0 15 0) % 65536 == n) = false := by
    rw [bitsOf_zero]
    exact beq_eq_false_iff_ne.2 hroom
  simp only [State.landEntry, ← hbase, ← hh, htail', hn', hgood, hfull, Bool.or_self, Bool.false_eq_true, if_false]
  rfl

/-! ### Credit returns and the retry timeout (R117 to R119) -/

theorem mqCreditReturn_of_live {s : State} {id : Nat} {k : Credit} {p : Panel} {core n : Nat}
    (hk : s.credits.find? (fun k => k.id == id && !s.creditWaits k) = some k)
    (hcore : core = coreOf (k.sender / 2 ^ 12 % 4) (k.sender / 2 ^ 6 % 64) (k.sender / 2 ^ 4 % 4)) (hn : n = k.sender % 16)
    (hlive : (s.mqs core n).getLsbD 63 = true) (hp : s.panels.find? (fun p => p.id == k.panel) = some p)
    (hc : p.ctx = mqsCtx (s.mqs core n)) :
    exec (.mqCreditReturn id) s = .next
      ((({ s with credits := s.credits.filter (fun z => !(z.id == id && z.pa == k.pa)) } : State).setFree core n
        (min 4096 (mqsFree (s.mqs core n) + k.count))).wakePush core n) := by
  have hcore' : coreOf (bitsOf k.sender 13 12) (bitsOf k.sender 11 6) (bitsOf k.sender 5 4) = core := by
    simp only [bitsOf_eq, hcore, Nat.reduceAdd, Nat.reduceSub, Nat.reducePow]
  have hn' : bitsOf k.sender 3 0 = n := (bitsOf_zero _ _).trans hn.symm
  show execMqCreditReturn id s = _
  simp only [execMqCreditReturn, hk, hp, hcore', hn', hlive, hc, beq_self_eq_true, Bool.and_self, if_true]

/-- Whether a parking is one of a push that was refused (R118). -/
def Park.refused : Park → Bool
  | .push _ r => r
  | .fault _ | .bind _ | .rejoin _ | .heldWait _ | .barrier _ _ _ | .nwait | .held | .node | .hold | .step _ | .spill | .walk _ => false

theorem refused_iff (p : Park) : Park.refused p = true ↔ ∃ n, p = .push n true := by
  cases p <;> simp [Park.refused]

theorem pushRetryTimeout_eq (s : State) (w : Nat) : exec (.pushRetryTimeout w) s = .next (s.modWeft w (fun v => v.unpark Park.refused)) := by
  show execPushRetryTimeout w s = _
  rw [execPushRetryTimeout]
  congr

/-- A lane of a weft whose refused lanes go on. -/
theorem lane_unpark_refused {y : Weft} {i : Nat} (h : (y.lane i).back = none) :
    (∀ n, (y.lane i).st = .parked (.push n true) → (y.unpark Park.refused).lane i = { y.lane i with st := .active }) ∧
    ((∀ n, (y.lane i).st ≠ .parked (.push n true)) → (y.unpark Park.refused).lane i = y.lane i) := by
  rw [lane_unpark, unpark_of_back_none _ h]
  refine ⟨fun n hn => by rw [hn]; rfl, fun hn => ?_⟩
  split
  · next p hp =>
    refine if_neg fun hr => ?_
    obtain ⟨n, rfl⟩ := (refused_iff p).1 hr
    exact hn n hp
  all_goals rfl

theorem pushRetryTimeout_lanes {s : State} {w : Nat} (hw : s.hasWeft w = true) :
    ∃ t, exec (.pushRetryTimeout w) s = .next t ∧ t.mem = s.mem ∧ (∀ v, v ≠ w → t.weft v = s.weft v) ∧
      t.weft w = (s.weft w).unpark Park.refused :=
  ⟨_, pushRetryTimeout_eq s w, rfl, fun _ hv => weft_modWeft_ne (fun _ => rfl) hv, weft_modWeft_self (fun _ => rfl) hw⟩

/-! ### O35 -/

/-- Settles O35, part by part: the plans of `push` and `pop` when nothing is in their way, and the arrivals by what they find. -/
theorem messageQueues : Obligations.MessageQueues := by
  unfold Obligations.MessageQueues
  refine ⟨⟨push_performs, pop_performs, ?_, ?_, ?_⟩, ?_, ?_, ?_, ?_⟩
  · intro s r a d sg o h
    rw [popCheck_of_resolve h]
    exact ⟨fun hk => if_pos hk, fun hk q hq => by rw [if_neg (not_not.2 hk), hq]; rfl⟩
  · intro s p off base h0 bad head slot
    rw [popOne_eq]
    exact ⟨fun hb => if_pos hb, fun hb he => by rw [if_neg (Bool.eq_false_iff.1 hb), if_pos he],
      fun hb he => by rw [if_neg (Bool.eq_false_iff.1 hb), if_neg he]⟩
  · intro y x k n b
    refine ⟨⟨y.nextId, n, x.group b k, x.w.id, k, x.pc, x.hdr⟩, rfl, rfl, rfl, rfl, sendEntry_mem y x k n b, fun hr _ hn => ⟨?_, ?_⟩⟩
    · rw [core_sendEntry hr]
    · exact mqsFree_sendEntry hr hn b
  · intro s core slot m hm hq q s1
    exact ⟨mqEntryArrival_of_no_owner hm hq, fun p hp => ⟨mqEntryArrival_of_other_ctx hm hq hp, mqEntryArrival_lands hm hq hp⟩⟩
  · intro s p off m base h0 n tail
    exact landEntry_of_room m rfl rfl rfl rfl
  · intro s id k p hk core n q hlive hp hc
    exact mqCreditReturn_of_live hk rfl rfl hlive hp hc
  · intro s w hw
    obtain ⟨t, hexec, hmem, hothers, hweft⟩ := pushRetryTimeout_lanes hw
    exact ⟨t, hexec, hmem, hothers, fun i hi => hweft ▸ lane_unpark_refused hi⟩

end Sys2Proof.Proofs
end

section
/-! SUPPORT. What places read after the operations on HBM (R87, R90, R125), by the data unit that each operation touches: the place written,
and every other place. -/
namespace Sys2Proof.Proofs
open Sys2Proof Sys2Proof.Machine

/-! ### Sparse maps written more than once -/

/-- A map after a fold of writes: at each key written the value of that key, elsewhere as before. -/
theorem sget_foldl_sput {α β : Type} [DecidableEq α] {d : α} (k : β → Nat) (g : Nat → α) (l : List β) {m : List (Nat × α)}
    (hm : risesFrom 0 m) (j : Nat) :
    sget d (l.foldl (fun n b => sput d n (k b) (g (k b))) m) j = if j ∈ l.map k then g j else sget d m j := by
  induction l generalizing m with
  | nil => rfl
  | cons b l ih =>
    rw [List.foldl_cons, ih (risesFrom_sput hm (Nat.zero_le _) _), sget_sput hm]
    by_cases hjb : j = k b
    · simp [hjb]
    · simp [hjb]

/-! ### The part of the state that HBM and core structures use -/

/-- `t` differs from `s` in memory inside the package alone. -/
def PkgMemOnly (s t : State) : Prop :=
  t = { s with mem := { s.mem with bytes := t.mem.bytes, tags := t.mem.tags, lines := t.mem.lines } }

theorem PkgMemOnly.refl (s : State) : PkgMemOnly s s := rfl

theorem PkgMemOnly.trans {s t u : State} (a : PkgMemOnly s t) (b : PkgMemOnly t u) : PkgMemOnly s u := by
  unfold PkgMemOnly at a b
  rw [a] at b
  exact b

theorem PkgMemOnly.keys {s t : State} (h : PkgMemOnly s t) : t.keys = s.keys := congrArg (fun x => x.keys) h

theorem PkgMemOnly.stale {s t : State} (h : PkgMemOnly s t) : t.stale = s.stale := congrArg (fun x => x.stale) h

theorem PkgMemOnly.host {s t : State} (h : PkgMemOnly s t) : t.mem.host = s.mem.host := congrArg (fun x => x.mem.host) h

theorem PkgMemOnly.remote {s t : State} (h : PkgMemOnly s t) : t.mem.remote = s.mem.remote := congrArg (fun x => x.mem.remote) h

theorem dramPut_pkgMemOnly (s : State) (pa k : Nat) (b : Byte) : PkgMemOnly s (s.dramPut pa k b) := rfl

theorem foldl_dramPut_pkgMemOnly {β : Type} (pa : β → Nat) (k : Nat) (f : β → Byte) (is : List β) (s : State) :
    PkgMemOnly s (is.foldl (fun x i => x.dramPut (pa i) k (f i)) s) := by
  induction is generalizing s with
  | nil => exact PkgMemOnly.refl s
  | cons i is ih => exact (dramPut_pkgMemOnly s (pa i) k (f i)).trans (ih _)

theorem writeBack_pkgMemOnly (s : State) (l : DLine) : PkgMemOnly s (s.writeBack l) := by
  unfold State.writeBack
  split
  · exact foldl_dramPut_pkgMemOnly _ _ _ _ s
  · exact PkgMemOnly.refl s

/-! ### Data units -/

/-- The lines of the die stores that hold a data unit. -/
def unitLines (s : State) (u : Nat) : List DLine := s.mem.lines.filter (fun l => l.unit == u)

theorem mem_unitLines {s : State} {u : Nat} {l : DLine} : l ∈ unitLines s u ↔ l ∈ s.mem.lines ∧ l.unit = u := by
  simp [unitLines]

/-- Arrays and die stores hold the same of a data unit in `s` and `t`. -/
structure SameUnit (u : Nat) (s t : State) : Prop where
  lines : unitLines t u = unitLines s u
  bytes : ∀ q, q / 64 = u → sget 0 t.mem.bytes q = sget 0 s.mem.bytes q
  tag   : sget (0, 0, 0) t.mem.tags u = sget (0, 0, 0) s.mem.tags u

theorem SameUnit.refl (u : Nat) (s : State) : SameUnit u s s := ⟨rfl, fun _ _ => rfl, rfl⟩

theorem SameUnit.trans {u : Nat} {r s t : State} (a : SameUnit u r s) (b : SameUnit u s t) : SameUnit u r t :=
  ⟨b.lines.trans a.lines, fun q hq => (b.bytes q hq).trans (a.bytes q hq), b.tag.trans a.tag⟩

theorem SameUnit.dramByte {s t : State} (ho : PkgMemOnly s t) {q : Nat} (h : SameUnit (q / 64) s t) (k : Nat) :
    t.dramByte q k = s.dramByte q k := by
  unfold State.dramByte State.key MemSt.tag
  rw [h.bytes q rfl, h.tag, ho.keys]

/-! ### Places that keep their byte -/

/-- A line of data unit `u` that loses nothing under key `k` when it leaves the die store. -/
def Faithful (s : State) (u k : Nat) (l : DLine) : Prop :=
  l.okey = k ∧ (l.dirty = true ∨ ∀ i < 64, l.bytes.getD i 0 = s.dramByte (64 * u + i) k)

theorem settledAt_hbm_iff {s : State} {p k c : Nat} : s.settledAt (.hbm p k c) ↔
    unitLines s (p / 64) = [] ∨ ∃ l, unitLines s (p / 64) = [l] ∧ Faithful s (p / 64) k l := by
  have hfaith : (∀ l ∈ s.mem.lines, l.unit = p / 64 → l.okey = k ∧
      (l.dirty = true ∨ ∀ i < 64, l.bytes.getD i 0 = s.dramByte (64 * l.unit + i) k)) ↔
      ∀ l ∈ unitLines s (p / 64), Faithful s (p / 64) k l := by
    constructor
    · intro h l hl
      obtain ⟨hmem, hunit⟩ := mem_unitLines.1 hl
      exact hunit ▸ h l hmem hunit
    · intro h l hmem hunit
      exact hunit.symm ▸ h l (mem_unitLines.2 ⟨hmem, hunit⟩)
  show ((unitLines s (p / 64)).length ≤ 1 ∧ _) ↔ _
  rw [hfaith]
  rcases unitLines s (p / 64) with _ | ⟨l, _ | ⟨l', ls⟩⟩ <;> simp

theorem settledAt_chip_iff {s : State} {p : Nat} {w : Bool} : s.settledAt (.chip p w) ↔ unitLines s (p / 64) = [] := by
  simp [State.settledAt, unitLines]

theorem line?_eq_find? (s : State) (p k : Nat) : s.mem.line? p k = (unitLines s (p / 64)).find? (fun l => l.okey == k) := by
  simp [MemSt.line?, unitLines, List.find?_filter, Bool.beq_eq_decide_eq]

theorem hbmByte_of_no_line {s : State} {p : Nat} (h : unitLines s (p / 64) = []) (k : Nat) : s.hbmByte p k = s.dramByte p k := by
  rw [State.hbmByte, line?_eq_find?, h]
  rfl

theorem hbmByte_of_line {s : State} {p k : Nat} {l : DLine} (h : unitLines s (p / 64) = [l]) (hk : l.okey = k) :
    s.hbmByte p k = l.bytes.getD (p % 64) 0 := by
  simp only [State.hbmByte, line?_eq_find?, h, List.find?_cons, hk, beq_self_eq_true]

theorem chipByte_of_plain {s : State} {p : Nat} {w : Bool} (h : (Loc.chip p w).plain = true) : s.chipByte p = sget 0 s.mem.bytes p := by
  simp only [Loc.plain, Bool.and_eq_true, Bool.not_eq_true'] at h
  rw [State.chipByte, h.1]
  simp only [h.2, Bool.false_eq_true, if_false]

/-- From `s` to `t` a settled place keeps its byte and stays settled, and memory its form. -/
structure Kept (l : Loc) (s t : State) : Prop where
  inv     : t.Inv
  settled : t.settledAt l
  byte    : t.byteAt l = s.byteAt l

theorem Kept.trans {l : Loc} {r s t : State} (a : Kept l r s) (b : Kept l s t) : Kept l r t := ⟨b.inv, b.settled, b.byte.trans a.byte⟩

/-- A place keeps its byte where its data unit is the same. -/
theorem Kept.of_sameUnit {s t : State} {l : Loc} (ht : t.Inv) (ho : PkgMemOnly s t) (hu : ∀ pa, l.pa? = some pa → SameUnit (pa / 64) s t)
    (hl : l.plain = true) (hs : s.settledAt l) : Kept l s t := by
  cases l with
  | hbm p k c =>
    have hp := hu p rfl
    have hdram : ∀ q, q / 64 = p / 64 → t.dramByte q k = s.dramByte q k := fun q hq => SameUnit.dramByte ho (hq ▸ hp) k
    obtain hnil | ⟨l, hone, hkey, hclean⟩ := settledAt_hbm_iff.1 hs
    · have hnil' := hp.lines.trans hnil
      refine ⟨ht, settledAt_hbm_iff.2 (.inl hnil'), ?_⟩
      exact (hbmByte_of_no_line hnil' k).trans ((hdram p rfl).trans (hbmByte_of_no_line hnil k).symm)
    · have hone' := hp.lines.trans hone
      refine ⟨ht, settledAt_hbm_iff.2 (.inr ⟨l, hone', hkey, hclean.imp_right fun h i hi => ?_⟩), ?_⟩
      · rw [hdram _ (by omega), h i hi]
      · exact (hbmByte_of_line hone' hkey).trans (hbmByte_of_line hone hkey).symm
  | chip p w =>
    have hp := hu p rfl
    refine ⟨ht, settledAt_chip_iff.2 (hp.lines.trans (settledAt_chip_iff.1 hs)), ?_⟩
    exact (chipByte_of_plain hl).trans ((hp.bytes p rfl).trans (chipByte_of_plain hl).symm)
  | zero => exact ⟨ht, trivial, rfl⟩
  | host f a => exact ⟨ht, trivial, congrArg (sget 0 · a) ho.host⟩
  | remote n r p k o => exact ⟨ht, trivial, congrArg (sget 0 · (remoteKey n r o)) ho.remote⟩

/-- A change of one data unit: what is to show of a place is what becomes of it in that unit. -/
theorem Kept.of_unit {s t : State} {l : Loc} {u : Nat} (ht : t.Inv) (ho : PkgMemOnly s t) (hne : ∀ v, v ≠ u → SameUnit v s t)
    (hl : l.plain = true) (hs : s.settledAt l) (hhbm : ∀ p k c, l = .hbm p k c → p / 64 = u → Kept l s t)
    (hchip : ∀ p w, l = .chip p w → p / 64 = u → Kept l s t) : Kept l s t := by
  by_cases hunit : ∃ p, l.pa? = some p ∧ p / 64 = u
  · obtain ⟨q, hq, hqu⟩ := hunit
    cases l with
    | hbm p k c => exact hhbm p k c rfl (Option.some.inj hq ▸ hqu)
    | chip p w => exact hchip p w rfl (Option.some.inj hq ▸ hqu)
    | zero => cases hq
    | host f a => cases hq
    | remote n r p k o => cases hq
  · exact Kept.of_sameUnit ht ho (fun p hp => hne _ fun hu => hunit ⟨p, hp, hu⟩) hl hs

/-! ### A byte of the arrays written (R87) -/

theorem tag_of_unit (m : MemSt) {p q : Nat} (h : q / 64 = p / 64) : m.tag q = m.tag p := congrArg (sget (0, 0, 0) m.tags) h

/-- The bytes that a write of the arrays finds in its data unit: those there, or what its key reads of another's. -/
theorem sget_dramPut_bytes {s : State} (hs : s.Inv) (pa k : Nat) (b : Byte) (q : Nat) :
    sget 0 (s.dramPut pa k b).mem.bytes q =
      if q = pa then b else if q / 64 = pa / 64 then s.dramByte q k else sget 0 s.mem.bytes q := by
  obtain ⟨hbytes, -⟩ := (inv_iff s).1 hs
  have hkeys : q ∈ (List.range 64).map (fun i => 64 * (pa / 64) + i) ↔ q / 64 = pa / 64 := by
    simp only [List.mem_map, List.mem_range]
    exact ⟨fun ⟨i, hi, h⟩ => by omega, fun h => ⟨q % 64, by omega, by omega⟩⟩
  unfold State.dramPut
  dsimp only
  split
  · next hmine =>
    rw [sget_sput (smapFrom_rises hbytes)]
    congr 1
    split
    · next hq => rw [State.dramByte, tag_of_unit _ hq, if_pos hmine]
    · rfl
  · next hother =>
    rw [sget_sput (smapFrom_rises (smapOk_foldl _ _ _ hbytes)),
      sget_foldl_sput (fun i => 64 * (pa / 64) + i) (fun x => Config.freeByte x k (s.key k).2 (s.mem.tag pa).2.2) _
        (smapFrom_rises hbytes)]
    simp only [hkeys]
    congr 1
    split
    · next hq => rw [State.dramByte, tag_of_unit _ hq, if_neg hother]
    · rfl

theorem sget_dramPut_tags {s : State} (hs : s.Inv) (pa k : Nat) (b : Byte) (u : Nat) :
    sget (0, 0, 0) (s.dramPut pa k b).mem.tags u =
      if u = pa / 64 then (k, (s.key k).2, (s.mem.tag pa).2.2 + 1) else sget (0, 0, 0) s.mem.tags u :=
  sget_sput (smapFrom_rises ((inv_iff s).1 hs).2.2.2) _ _ _

theorem dramPut_sameUnit {s : State} (hs : s.Inv) {pa u : Nat} (k : Nat) (b : Byte) (h : u ≠ pa / 64) :
    SameUnit u s (s.dramPut pa k b) := by
  refine ⟨rfl, fun q hq => ?_, ?_⟩
  · rw [sget_dramPut_bytes hs, if_neg (by rintro rfl; exact h hq.symm), if_neg (hq ▸ h)]
  · rw [sget_dramPut_tags hs, if_neg h]

/-- Under the key that wrote it, a data unit reads the byte written, and the others as that key read them before. -/
theorem dramByte_dramPut {s : State} (hs : s.Inv) {pa q : Nat} (k : Nat) (b : Byte) (h : q / 64 = pa / 64) :
    (s.dramPut pa k b).dramByte q k = if q = pa then b else s.dramByte q k := by
  have htag : (s.dramPut pa k b).mem.tag q = (k, (s.key k).2, (s.mem.tag pa).2.2 + 1) := by
    rw [MemSt.tag, sget_dramPut_tags hs, if_pos h]
  rw [State.dramByte, htag, if_pos (.inr ⟨rfl, rfl⟩), sget_dramPut_bytes hs, if_pos h]

/-! ### Lines written back (R125) -/

theorem foldl_dramPut_sameUnit {s : State} (hs : s.Inv) {u v : Nat} (h : u ≠ v) (k : Nat) (f : Nat → Byte) {is : List Nat}
    (his : ∀ i ∈ is, i < 64) : SameUnit u s (is.foldl (fun x i => x.dramPut (64 * v + i) k (f i)) s) := by
  induction is generalizing s with
  | nil => exact SameUnit.refl u s
  | cons i is ih =>
    have hi := his i List.mem_cons_self
    exact (dramPut_sameUnit hs k (f i) (by omega)).trans (ih (dramPut_inv hs _ _ _) fun j hj => his j (List.mem_cons_of_mem i hj))

theorem dramByte_foldl_dramPut {s : State} (hs : s.Inv) (u k : Nat) (f : Nat → Byte) {is : List Nat} (his : ∀ i ∈ is, i < 64) {j : Nat}
    (hj : j < 64) :
    (is.foldl (fun x i => x.dramPut (64 * u + i) k (f i)) s).dramByte (64 * u + j) k =
      if j ∈ is then f j else s.dramByte (64 * u + j) k := by
  induction is generalizing s with
  | nil => rfl
  | cons i is ih =>
    have hi := his i List.mem_cons_self
    rw [List.foldl_cons, ih (dramPut_inv hs _ _ _) fun j hj => his j (List.mem_cons_of_mem i hj), dramByte_dramPut hs k _ (by omega)]
    by_cases hji : j = i
    · simp [hji]
    · simp [hji]

theorem writeBack_of_clean {s : State} {v : DLine} (h : v.dirty = false) : s.writeBack v = s := by
  rw [State.writeBack, h]
  rfl

theorem writeBack_lines (s : State) (v : DLine) : (s.writeBack v).mem.lines = s.mem.lines := by
  unfold State.writeBack
  split
  · generalize List.range 64 = is
    induction is generalizing s with
    | nil => rfl
    | cons i is ih => exact ih (s.dramPut (64 * v.unit + i) v.okey (v.bytes.getD i 0))
  · rfl

theorem writeBack_sameUnit {s : State} (hs : s.Inv) {v : DLine} {u : Nat} (h : u ≠ v.unit) : SameUnit u s (s.writeBack v) := by
  unfold State.writeBack
  split
  · exact foldl_dramPut_sameUnit hs h _ _ fun i hi => List.mem_range.1 hi
  · exact SameUnit.refl u s

/-- The arrays hold a dirty line once it is written back. -/
theorem dramByte_writeBack {s : State} (hs : s.Inv) {v : DLine} (hv : v.dirty = true) {i : Nat} (hi : i < 64) :
    (s.writeBack v).dramByte (64 * v.unit + i) v.okey = v.bytes.getD i 0 := by
  rw [State.writeBack, if_pos hv, dramByte_foldl_dramPut hs _ _ _ (fun j hj => List.mem_range.1 hj) hi, if_pos (List.mem_range.2 hi)]

/-! ### Lines evicted (R125) -/

/-- The state without a line of the die stores. -/
def withoutLine (s : State) (v : DLine) : State := { s with mem := { s.mem with lines := s.mem.lines.erase v } }

theorem unitLines_withoutLine (s : State) (v : DLine) (u : Nat) : unitLines (withoutLine s v) u = (unitLines s u).erase v :=
  List.erase_filter.symm

theorem evict_cases (s : State) (pa : Nat) : s.evict pa = s ∨ ∃ v ∈ s.mem.lines, s.evict pa = withoutLine (s.writeBack v) v := by
  unfold State.evict
  dsimp only
  split
  · exact .inl rfl
  · split
    · exact .inl rfl
    · next v hv => exact .inr ⟨v, (List.mem_filter.1 (List.mem_of_getLast? hv)).1, rfl⟩

theorem evict_pkgMemOnly (s : State) (pa : Nat) : PkgMemOnly s (s.evict pa) := by
  obtain h | ⟨v, -, h⟩ := evict_cases s pa
  · rw [h]
    exact PkgMemOnly.refl s
  · rw [h]
    exact (writeBack_pkgMemOnly s v).trans (t := s.writeBack v) rfl

/-- The line of a settled data unit leaves its bytes in the arrays. -/
theorem withoutLine_writeBack_kept {s : State} (hs : s.Inv) {p k c : Nat} {v : DLine} (hv : v ∈ s.mem.lines) (hu : v.unit = p / 64)
    (h : s.settledAt (.hbm p k c)) : Kept (.hbm p k c) s (withoutLine (s.writeBack v) v) := by
  have hmem : v ∈ unitLines s (p / 64) := mem_unitLines.2 ⟨hv, hu⟩
  obtain hnil | ⟨l, hone, hkey, hclean⟩ := settledAt_hbm_iff.1 h
  · rw [hnil] at hmem
    cases hmem
  · obtain rfl : v = l := by simpa [hone] using hmem
    have hgone : unitLines (withoutLine (s.writeBack v) v) (p / 64) = [] := by
      rw [unitLines_withoutLine, unitLines, writeBack_lines, ← unitLines, hone, List.erase_cons_head]
    have hleft : (s.writeBack v).dramByte (64 * (p / 64) + p % 64) k = v.bytes.getD (p % 64) 0 := by
      cases hd : v.dirty with
      | true => exact hkey ▸ hu ▸ dramByte_writeBack hs hd (by omega)
      | false => rw [writeBack_of_clean hd, (hclean.resolve_left (by simp [hd])) _ (by omega)]
    refine ⟨lines_inv (writeBack_inv hs v) _, settledAt_hbm_iff.2 (.inl hgone), ?_⟩
    rw [Nat.div_add_mod] at hleft
    exact (hbmByte_of_no_line hgone k).trans (hleft.trans (hbmByte_of_line hone hkey).symm)

theorem evict_kept {s : State} (hs : s.Inv) (pa : Nat) {l : Loc} (hl : l.plain = true) (h : s.settledAt l) : Kept l s (s.evict pa) := by
  have hinv := evict_inv hs pa
  have honly := evict_pkgMemOnly s pa
  obtain he | ⟨v, hv, he⟩ := evict_cases s pa
  · exact he.symm ▸ ⟨hs, h, rfl⟩
  refine Kept.of_unit (u := v.unit) hinv honly (fun u hu => ?_) hl h (fun p k c hloc hp => ?_) fun p w hloc hp => ?_
  · have hback := writeBack_sameUnit hs hu
    refine he ▸ ⟨?_, hback.bytes, hback.tag⟩
    rw [unitLines_withoutLine, List.erase_of_not_mem fun hm => hu (mem_unitLines.1 hm).2.symm, hback.lines]
  · subst hloc
    exact he ▸ withoutLine_writeBack_kept hs hv hp.symm h
  · subst hloc
    exact absurd hp.symm (h v hv)

/-- A data unit of which no line is stored gets none by an eviction. -/
theorem unitLines_evict_nil {s : State} {u : Nat} (pa : Nat) (h : unitLines s u = []) : unitLines (s.evict pa) u = [] := by
  obtain he | ⟨v, -, he⟩ := evict_cases s pa
  · rw [he, h]
  · rw [he, unitLines_withoutLine, unitLines, writeBack_lines, ← unitLines, h, List.erase_nil]

/-! ### Lines allocated (R126) -/

/-- A data unit as the arrays hold it under a key, as a line. -/
def arrayLine (s : State) (u k : Nat) : DLine := ⟨u, k, false, (List.range 64).map (fun i => s.dramByte (64 * u + i) k)⟩

theorem arrayLine_getD (s : State) (u k : Nat) {i : Nat} (hi : i < 64) : (arrayLine s u k).bytes.getD i 0 = s.dramByte (64 * u + i) k := by
  simp [arrayLine, List.getD_eq_getElem?_getD, hi]

/-- The state with one more line, of the highest retention or of the lowest. -/
def withLine (s : State) (front : Bool) (l : DLine) : State :=
  { s with mem := { s.mem with lines := if front then l :: s.mem.lines else s.mem.lines ++ [l] } }

theorem unitLines_withLine_ne {s : State} (front : Bool) {l : DLine} {u : Nat} (h : u ≠ l.unit) :
    unitLines (withLine s front l) u = unitLines s u := by
  cases front <;> simp [unitLines, withLine, h.symm]

theorem unitLines_withLine_of_nil {s : State} (front : Bool) {l : DLine} (h : unitLines s l.unit = []) :
    unitLines (withLine s front l) l.unit = [l] := by
  unfold unitLines at h ⊢
  cases front <;> simp [withLine, h]

theorem allocLine_cases (s : State) (pa k c : Nat) : s.allocLine pa k c = s ∨
    s.mem.line? pa k = none ∧ s.allocLine pa k c = withLine (s.evict pa) (c == 0) (arrayLine (s.evict pa) (pa / 64) k) := by
  unfold State.allocLine
  split
  · exact .inl rfl
  · next h =>
    rw [not_or, Bool.not_eq_true, Option.isSome_eq_false_iff, Option.isNone_iff_eq_none] at h
    refine .inr ⟨h.2, ?_⟩
    simp only [withLine, beq_iff_eq]
    rfl

theorem allocLine_pkgMemOnly (s : State) (pa k c : Nat) : PkgMemOnly s (s.allocLine pa k c) := by
  obtain h | ⟨-, h⟩ := allocLine_cases s pa k c
  · rw [h]
    exact PkgMemOnly.refl s
  · rw [h]
    exact (evict_pkgMemOnly s pa).trans (t := s.evict pa) rfl

/-- A settled data unit is missed where no line of it is stored. -/
theorem unitLines_nil_of_miss {s : State} {p k c : Nat} (h : s.settledAt (.hbm p k c)) (hm : s.mem.line? p k = none) :
    unitLines s (p / 64) = [] := by
  obtain hnil | ⟨l, hone, hkey, -⟩ := settledAt_hbm_iff.1 h
  · exact hnil
  · simp [line?_eq_find?, hone, hkey] at hm

/-- A line filled from the arrays reads as they do. -/
theorem withLine_arrayLine_kept {s : State} (hs : s.Inv) {p k c : Nat} (front : Bool) (h : unitLines s (p / 64) = []) :
    Kept (.hbm p k c) s (withLine s front (arrayLine s (p / 64) k)) := by
  have hone := unitLines_withLine_of_nil front (l := arrayLine s (p / 64) k) h
  refine ⟨lines_inv hs _, settledAt_hbm_iff.2 (.inr ⟨_, hone, rfl, .inr fun i hi => arrayLine_getD s (p / 64) k hi⟩), ?_⟩
  have hget := arrayLine_getD s (p / 64) k (Nat.mod_lt p (by decide : 64 > 0))
  rw [Nat.div_add_mod] at hget
  exact (hbmByte_of_line hone rfl).trans (hget.trans (hbmByte_of_no_line h k).symm)

/-- R126: what an access allocates changes no byte of a place that it does not take for one under another key. -/
theorem allocLine_kept {s : State} (hs : s.Inv) {pa k c : Nat} {l : Loc} (hl : l.plain = true) (h : s.settledAt l)
    (ha : Alike l (.hbm pa k c)) : Kept l s (s.allocLine pa k c) := by
  obtain he | ⟨hmiss, he⟩ := allocLine_cases s pa k c
  · exact he.symm ▸ ⟨hs, h, rfl⟩
  have hevict := evict_kept hs pa hl h
  refine he ▸ hevict.trans (Kept.of_unit (u := pa / 64) (lines_inv hevict.inv _) rfl
    (fun u hu => ⟨unitLines_withLine_ne _ hu, fun _ _ => rfl, rfl⟩) hl hevict.settled (fun p j d hloc hp => ?_) fun p w hloc hp => ?_)
  · subst hloc
    obtain rfl : j = k := ha.resolve_right (not_not.2 hp)
    have hnil : unitLines s (p / 64) = [] := unitLines_nil_of_miss h (by rw [line?_eq_find?, hp, ← line?_eq_find?, hmiss])
    exact hp ▸ withLine_arrayLine_kept hevict.inv _ (unitLines_evict_nil pa hnil)
  · subst hloc
    exact absurd hp ha

/-! ### A byte of HBM written (R90, R125) -/

/-- A line after a byte is written under a key: changed where it holds that byte under that key. -/
def lineAfter (pa k : Nat) (b : Byte) (l : DLine) : DLine := if l.unit = pa / 64 ∧ l.okey = k then l.put (pa % 64) b else l

/-- The state with a byte written in the lines that hold it under a key. -/
def writeLine (s : State) (pa k : Nat) (b : Byte) : State := { s with mem := { s.mem with lines := s.mem.lines.map (lineAfter pa k b) } }

theorem lineAfter_unit (pa k : Nat) (b : Byte) (l : DLine) : (lineAfter pa k b l).unit = l.unit := by
  unfold lineAfter
  split <;> rfl

theorem put_getD (l : DLine) (j : Nat) (b : Byte) {i : Nat} (hi : i < 64) :
    (l.put j b).bytes.getD i 0 = if i = j then b else l.bytes.getD i 0 := by
  simp [DLine.put, List.getD_eq_getElem?_getD, hi]

theorem unitLines_writeLine (s : State) (pa k : Nat) (b : Byte) (u : Nat) :
    unitLines (writeLine s pa k b) u = (unitLines s u).map (lineAfter pa k b) := by
  rw [unitLines, writeLine, List.filter_map, unitLines]
  congr 2
  funext l
  exact congrArg (· == u) (lineAfter_unit pa k b l)

theorem writeLine_sameUnit {s : State} {pa u : Nat} (k : Nat) (b : Byte) (h : u ≠ pa / 64) : SameUnit u s (writeLine s pa k b) := by
  refine ⟨?_, fun _ _ => rfl, rfl⟩
  rw [unitLines_writeLine]
  refine (List.map_congr_left fun l hl => if_neg fun hk => h ?_).trans (List.map_id _)
  exact (mem_unitLines.1 hl).2.symm.trans hk.1

/-- What a write of an HBM byte does to its data unit once that is allocated: it changes the one line, or where there is none the arrays. -/
theorem hbmPut_cases {s : State} {pa k c : Nat} (b : Byte) (h : (s.allocLine pa k c).settledAt (.hbm pa k c)) :
    (∃ l, unitLines (s.allocLine pa k c) (pa / 64) = [l] ∧ l.okey = k ∧ s.hbmPut pa k c b = writeLine (s.allocLine pa k c) pa k b) ∨
      unitLines (s.allocLine pa k c) (pa / 64) = [] ∧ s.hbmPut pa k c b = (s.allocLine pa k c).dramPut pa k b := by
  unfold State.hbmPut
  dsimp only
  split
  · next hsome =>
    obtain hnil | ⟨l, hone, hkey, -⟩ := settledAt_hbm_iff.1 h
    · simp [line?_eq_find?, hnil] at hsome
    · exact .inl ⟨l, hone, hkey, rfl⟩
  · next hnone => exact .inr ⟨unitLines_nil_of_miss h (by simpa using hnone), rfl⟩

theorem hbmPut_pkgMemOnly (s : State) (pa k c : Nat) (b : Byte) : PkgMemOnly s (s.hbmPut pa k c b) := by
  unfold State.hbmPut
  dsimp only
  split
  · exact (allocLine_pkgMemOnly s pa k c).trans (t := s.allocLine pa k c) rfl
  · exact (allocLine_pkgMemOnly s pa k c).trans (t := s.allocLine pa k c) rfl

theorem writeLine_byte {s : State} {pa q k : Nat} (b : Byte) (hq : q / 64 = pa / 64) {l : DLine} (hone : unitLines s (pa / 64) = [l])
    (hkey : l.okey = k) : (∀ c, (writeLine s pa k b).settledAt (.hbm q k c)) ∧
      (writeLine s pa k b).hbmByte q k = if q = pa then b else s.hbmByte q k := by
  have hunit : l.unit = pa / 64 := (mem_unitLines.1 (hone ▸ List.mem_singleton_self l)).2
  have hput : unitLines (writeLine s pa k b) (q / 64) = [l.put (pa % 64) b] := by
    rw [unitLines_writeLine, hq, hone, List.map_singleton, lineAfter, if_pos ⟨hunit, hkey⟩]
  refine ⟨fun c => settledAt_hbm_iff.2 (.inr ⟨_, hput, hkey, .inl rfl⟩), ?_⟩
  have hsame : q % 64 = pa % 64 ↔ q = pa := by omega
  rw [hbmByte_of_line hput hkey, put_getD _ _ _ (Nat.mod_lt q (by decide)), hbmByte_of_line (hq ▸ hone) hkey]
  simp only [hsame]

theorem dramPut_byte {s : State} (hs : s.Inv) {pa q k : Nat} (b : Byte) (hq : q / 64 = pa / 64) (hnil : unitLines s (pa / 64) = []) :
    (∀ c, (s.dramPut pa k b).settledAt (.hbm q k c)) ∧ (s.dramPut pa k b).hbmByte q k = if q = pa then b else s.hbmByte q k := by
  have hnil' : unitLines (s.dramPut pa k b) (q / 64) = [] := hq ▸ hnil
  refine ⟨fun c => settledAt_hbm_iff.2 (.inl hnil'), ?_⟩
  rw [hbmByte_of_no_line hnil', dramByte_dramPut hs k b hq, hbmByte_of_no_line (hq ▸ hnil)]

/-- Under the key that wrote it, a settled data unit reads the byte written, and its others as before. -/
theorem hbmPut_byte {s : State} (hs : s.Inv) {pa q k c : Nat} (b : Byte) (hq : q / 64 = pa / 64) (h : s.settledAt (.hbm pa k c)) :
    (∀ d, (s.hbmPut pa k c b).settledAt (.hbm q k d)) ∧ (s.hbmPut pa k c b).hbmByte q k = if q = pa then b else s.hbmByte q k := by
  have hq' : s.settledAt (.hbm q k c) := settledAt_hbm_iff.2 (hq ▸ settledAt_hbm_iff.1 h)
  have halloc := allocLine_kept hs (pa := pa) (k := k) (c := c) rfl h (.inl rfl)
  have hbyte : (s.allocLine pa k c).hbmByte q k = s.hbmByte q k := (allocLine_kept hs rfl hq' (.inl rfl)).byte
  rw [← hbyte]
  obtain ⟨l, hone, hkey, he⟩ | ⟨hnil, he⟩ := hbmPut_cases b halloc.settled
  · exact he ▸ writeLine_byte b hq hone hkey
  · exact he ▸ dramPut_byte halloc.inv b hq hnil

/-- A place apart from an HBM byte is another byte under the same key in its data unit, or lies in none or another. -/
theorem apart_hbm_cases {pa k c : Nat} {l : Loc} (h : Apart (.hbm pa k c) l) :
    (∃ p d, l = .hbm p k d ∧ p ≠ pa ∧ p / 64 = pa / 64) ∨ ∀ q, l.pa? = some q → q / 64 ≠ pa / 64 := by
  cases l with
  | hbm p j d =>
    obtain ⟨hne, hkey⟩ := h
    by_cases hp : p / 64 = pa / 64
    · obtain rfl : k = j := hkey.resolve_right (not_not.2 hp.symm)
      exact .inl ⟨p, d, rfl, hne.symm, hp⟩
    · exact .inr fun q hq => Option.some.inj hq ▸ hp
  | chip p w => exact .inr fun q hq => Option.some.inj hq ▸ Ne.symm h
  | zero => exact .inr fun q hq => by cases hq
  | host f a => exact .inr fun q hq => by cases hq
  | remote n r p j o => exact .inr fun q hq => by cases hq

theorem alike_of_other_unit {pa k c : Nat} {l : Loc} (h : ∀ q, l.pa? = some q → q / 64 ≠ pa / 64) : Alike l (.hbm pa k c) := by
  cases l with
  | hbm p j d => exact .inr (h p rfl)
  | chip p w => exact h p rfl
  | zero => trivial
  | host f a => trivial
  | remote n r p j o => trivial

theorem hbmPut_kept {s : State} (hs : s.Inv) {pa k c : Nat} (b : Byte) {l : Loc} (hpa : s.settledAt (.hbm pa k c)) (hl : l.plain = true)
    (h : s.settledAt l) (ha : Apart (.hbm pa k c) l) : Kept l s (s.hbmPut pa k c b) := by
  obtain ⟨p, d, rfl, hne, hp⟩ | hother := apart_hbm_cases ha
  · obtain ⟨hsettled, hbyte⟩ := hbmPut_byte hs b hp hpa
    exact ⟨hbmPut_inv hs _ _ _ _, hsettled d, hbyte.trans (if_neg hne)⟩
  · have halloc := allocLine_kept hs hl h (alike_of_other_unit (k := k) (c := c) hother)
    have hpalloc := allocLine_kept hs (pa := pa) (k := k) (c := c) rfl hpa (.inl rfl)
    refine halloc.trans ?_
    obtain ⟨-, -, -, he⟩ | ⟨-, he⟩ := hbmPut_cases b hpalloc.settled
    · exact he ▸ Kept.of_sameUnit (lines_inv halloc.inv _) rfl (fun q hq => writeLine_sameUnit k b (hother q hq)) hl halloc.settled
    · exact he ▸ Kept.of_sameUnit (dramPut_inv halloc.inv _ _ _) rfl (fun q hq => dramPut_sameUnit halloc.inv k b (hother q hq)) hl
        halloc.settled

end Sys2Proof.Proofs
end

section
/-! SUPPORT. A byte of a store is seen at its place and nowhere else; STORE_PERFORM (R104, R133; O32). -/
namespace Sys2Proof.Proofs
open Sys2Proof Sys2Proof.Machine

/-! ### A byte of a core structure written (R102) -/

theorem chipPut_of_plain {pa : Nat} {w : Bool} (h : (Loc.chip pa w).plain = true) (s : State) (b : Byte) :
    s.chipPut pa b = { s with mem := { s.mem with bytes := sput 0 s.mem.bytes pa b } } := by
  simp only [Loc.plain, Bool.and_eq_true, Bool.not_eq_true'] at h
  rw [State.chipPut, h.1]
  simp only [h.2, Bool.false_eq_true, if_false]

theorem sget_chipPut {s : State} (hs : s.Inv) {pa : Nat} {w : Bool} (h : (Loc.chip pa w).plain = true) (b : Byte) (q : Nat) :
    sget 0 (s.chipPut pa b).mem.bytes q = if q = pa then b else sget 0 s.mem.bytes q := by
  rw [chipPut_of_plain h]
  exact sget_sput (smapFrom_rises ((inv_iff s).1 hs).1) _ _ _

theorem chipPut_pkgMemOnly {s : State} {pa : Nat} {w : Bool} (h : (Loc.chip pa w).plain = true) (b : Byte) : PkgMemOnly s (s.chipPut pa b) := by
  rw [chipPut_of_plain h]
  rfl

theorem chipPut_lines {s : State} {pa : Nat} {w : Bool} (h : (Loc.chip pa w).plain = true) (b : Byte) :
    (s.chipPut pa b).mem.lines = s.mem.lines := by rw [chipPut_of_plain h]

theorem chipPut_kept {s : State} (hs : s.Inv) {pa : Nat} {w : Bool} (b : Byte) {l : Loc} (hpa : (Loc.chip pa w).plain = true)
    (hl : l.plain = true) (h : s.settledAt l) (ha : Apart (.chip pa w) l) : Kept l s (s.chipPut pa b) := by
  have hinv := chipPut_inv hs pa b
  refine Kept.of_unit (u := pa / 64) hinv (chipPut_pkgMemOnly hpa b) (fun u hu => ⟨?_, fun q hq => ?_, ?_⟩) hl h
    (fun p k c hloc hp => ?_) fun p v hloc hp => ?_
  · rw [unitLines, chipPut_lines hpa, unitLines]
  · rw [sget_chipPut hs hpa, if_neg (by rintro rfl; exact hu hq.symm)]
  · rw [chipPut_of_plain hpa]
  · subst hloc
    exact absurd hp.symm ha
  · subst hloc
    refine ⟨hinv, fun m hm => h m (chipPut_lines hpa b ▸ hm), ?_⟩
    show (s.chipPut pa b).chipByte p = s.chipByte p
    rw [chipByte_of_plain hl, sget_chipPut hs hpa, if_neg (Ne.symm ha), chipByte_of_plain hl]

/-! ### A byte written at a place -/

theorem apart_symm {l m : Loc} (h : Apart l m) : Apart m l := by
  cases l with
  | hbm p k c =>
    cases m with
    | hbm q j d => exact ⟨h.1.symm, h.2.imp Eq.symm Ne.symm⟩
    | chip q w => exact Ne.symm h
    | _ => exact True.intro
  | chip p w =>
    cases m with
    | hbm q j d => exact Ne.symm h
    | chip q v => exact Ne.symm h
    | _ => exact True.intro
  | zero => cases m <;> exact True.intro
  | host f a =>
    cases m with
    | host g b => exact Ne.symm h
    | _ => exact True.intro
  | remote n r p k o =>
    cases m with
    | remote n' r' p' k' o' => exact Ne.symm h
    | _ => exact True.intro

/-- R104: a byte written changes no place apart from its own. -/
theorem putByte_kept {s : State} (hs : s.Inv) {l m : Loc} (b : Byte) (hl : l.plain = true) (hset : s.settledAt l) (hm : m.plain = true)
    (h : s.settledAt m) (ha : Apart l m) : Kept m s (s.putByte l b) := by
  have hinv := putByte_inv hs l b
  obtain ⟨-, hhost, hremote, -⟩ := (inv_iff s).1 hs
  cases l with
  | hbm pa k c => exact hbmPut_kept hs b hset hm h ha
  | chip pa w => exact chipPut_kept hs b hl hm h ha
  | zero => exact ⟨hs, h, rfl⟩
  | host f a =>
    cases m with
    | host g c => exact ⟨hinv, trivial, (sget_sput (smapFrom_rises hhost) _ _ _).trans (if_neg (Ne.symm ha))⟩
    | _ => exact ⟨hinv, h, rfl⟩
  | remote n r pg k o =>
    cases m with
    | remote n' r' pg' k' o' => exact ⟨hinv, trivial, (sget_sput (smapFrom_rises hremote) _ _ _).trans (if_neg (Ne.symm ha))⟩
    | _ => exact ⟨hinv, h, rfl⟩

/-- A byte written is what its place reads. -/
theorem putByte_self {s : State} (hs : s.Inv) {l : Loc} (b : Byte) (hl : l.plain = true) (hset : s.settledAt l) :
    (s.putByte l b).settledAt l ∧ (s.putByte l b).byteAt l = b := by
  obtain ⟨-, hhost, hremote, -⟩ := (inv_iff s).1 hs
  cases l with
  | hbm pa k c =>
    obtain ⟨hsettled, hbyte⟩ := hbmPut_byte hs b rfl hset
    exact ⟨hsettled c, hbyte.trans (if_pos rfl)⟩
  | chip pa w =>
    refine ⟨fun m hm => hset m (chipPut_lines hl b ▸ hm), ?_⟩
    exact (chipByte_of_plain hl).trans ((sget_chipPut hs hl b pa).trans (if_pos rfl))
  | zero => cases hl
  | host f a => exact ⟨trivial, (sget_sput (smapFrom_rises hhost) _ _ _).trans (if_pos rfl)⟩
  | remote n r p k o => exact ⟨trivial, (sget_sput (smapFrom_rises hremote) _ _ _).trans (if_pos rfl)⟩

/-! ### Bytes written at places apart from one another -/

/-- The bytes of a list put at their places, one after the other. -/
def putBytes (s : State) (ws : List Wr) : State := ws.foldl (fun x w => x.putByte w.loc w.b) s

theorem putBytes_kept {s : State} (hs : s.Inv) {ws : List Wr} (hws : ∀ w ∈ ws, w.loc.plain = true ∧ s.settledAt w.loc)
    (hap : ws.Pairwise (fun u v => Apart u.loc v.loc)) {l : Loc} (hl : l.plain = true) (h : s.settledAt l)
    (ha : ∀ w ∈ ws, Apart w.loc l) : Kept l s (putBytes s ws) := by
  induction ws generalizing s with
  | nil => exact ⟨hs, h, rfl⟩
  | cons w ws ih =>
    obtain ⟨hw, hws⟩ := List.forall_mem_cons.1 hws
    obtain ⟨hwl, ha⟩ := List.forall_mem_cons.1 ha
    obtain ⟨hwv, hap⟩ := List.pairwise_cons.1 hap
    have hfirst := putByte_kept hs w.b hw.1 hw.2 hl h hwl
    refine hfirst.trans (ih hfirst.inv (fun v hv => ⟨(hws v hv).1, ?_⟩) hap hfirst.settled ha)
    exact (putByte_kept hs w.b hw.1 hw.2 (hws v hv).1 (hws v hv).2 (hwv v hv)).settled

theorem putBytes_byteAt {s : State} (hs : s.Inv) {ws : List Wr} (hws : ∀ w ∈ ws, w.loc.plain = true ∧ s.settledAt w.loc)
    (hap : ws.Pairwise (fun u v => Apart u.loc v.loc)) : ∀ w ∈ ws, (putBytes s ws).byteAt w.loc = w.b := by
  induction ws generalizing s with
  | nil => exact fun w hw => by cases hw
  | cons w ws ih =>
    obtain ⟨hw, hws⟩ := List.forall_mem_cons.1 hws
    obtain ⟨hwv, hap⟩ := List.pairwise_cons.1 hap
    have hinv := putByte_inv hs w.loc w.b
    have hws' : ∀ v ∈ ws, v.loc.plain = true ∧ (s.putByte w.loc w.b).settledAt v.loc := fun v hv =>
      ⟨(hws v hv).1, (putByte_kept hs w.b hw.1 hw.2 (hws v hv).1 (hws v hv).2 (hwv v hv)).settled⟩
    obtain ⟨hsettled, hbyte⟩ := putByte_self hs w.b hw.1 hw.2
    refine List.forall_mem_cons.2 ⟨?_, ih hinv hws' hap⟩
    exact (putBytes_kept hinv hws' hap hw.1 hsettled fun v hv => apart_symm (hwv v hv)).byte.trans hbyte

/-! ### What a write of a core changes beside the bytes -/

/-- What a plain place reads rests on the owner keys and on memory without its poison marks. -/
theorem byteAt_congr {s t : State} {pz : List Nat} (hm : t.mem = { s.mem with poison := pz }) (hk : t.keys = s.keys) {l : Loc}
    (hl : l.plain = true) : t.byteAt l = s.byteAt l := by
  cases l with
  | hbm p k c =>
    show t.hbmByte p k = s.hbmByte p k
    rw [State.hbmByte, State.hbmByte, State.dramByte, State.dramByte, State.key, State.key, hm, hk]
    rfl
  | chip p w => exact (chipByte_of_plain hl).trans ((congrArg (fun m => sget 0 m.bytes p) hm).trans (chipByte_of_plain hl).symm)
  | zero => rfl
  | host f a => exact congrArg (fun m => sget 0 m.host a) hm
  | remote n r p k o => exact congrArg (fun m => sget 0 m.remote (remoteKey n r o)) hm

/-- A fold of changes that leave a part of the state alone. -/
theorem foldl_keeps {α β : Type} (g : State → α) {f : State → β → State} (h : ∀ y b, g (f y b) = g y) (l : List β) (s : State) :
    g (l.foldl f s) = g s := by
  induction l generalizing s with
  | nil => rfl
  | cons b l ih => exact (ih _).trans (h s b)

/-- The poison of registers changes wefts alone. -/
theorem pzRegs_keeps {α : Type} (g : State → α) (hg : ∀ y w f, g (State.modWeft y w f) = g y) (s : State) (ws : List Wr) :
    g (s.pzRegs ws) = g s := by
  refine foldl_keeps g (fun y w => ?_) ws s
  dsimp only
  split
  · split
    · split
      · rfl
      · split
        · exact hg _ _ _
        · split
          · exact hg _ _ _
          · rfl
    · rfl
  all_goals rfl

theorem staleBeams_keeps {α : Type} (g : State → α) (hg : ∀ (y : State) c, g { y with cores := c } = g y) (s : State) (ws : List Wr) :
    g (s.staleBeams ws) = g s := by
  unfold State.staleBeams
  dsimp only
  split
  · exact hg _ _
  · rfl

theorem write_mem (s : State) (ws : List Wr) : (s.write ws).mem = { (putBytes s ws).mem with poison := s.pzAfter ws } := by
  have hmem : (((putBytes s ws).pzRegs ws).staleBeams ws).mem = (putBytes s ws).mem := (staleBeams_mem _ ws).trans (pzRegs_mem _ ws)
  rw [← hmem]
  rfl

/-- Beside the bytes and their poison, a write changes poison of registers and marks of beam slots. -/
theorem write_keeps {α : Type} (g : State → α) (hw : ∀ y w f, g (State.modWeft y w f) = g y)
    (hc : ∀ (y : State) c, g { y with cores := c } = g y) (hm : ∀ (y : State) m, g { y with mem := m } = g y) (s : State) (ws : List Wr) :
    g (s.write ws) = g (putBytes s ws) :=
  (hm _ _).trans ((staleBeams_keeps g hc _ _).trans (pzRegs_keeps g hw _ _))

theorem byteAt_write (s : State) (ws : List Wr) {l : Loc} (hl : l.plain = true) : (s.write ws).byteAt l = (putBytes s ws).byteAt l :=
  byteAt_congr (write_mem s ws) (write_keeps State.keys (fun _ _ _ => rfl) (fun _ _ => rfl) (fun _ _ => rfl) s ws) hl

theorem putByte_stale (s : State) (l : Loc) (b : Byte) : (s.putByte l b).stale = s.stale := by
  cases l with
  | hbm pa k c => exact (hbmPut_pkgMemOnly s pa k c b).stale
  | chip pa w =>
    show (s.chipPut pa b).stale = s.stale
    unfold State.chipPut
    dsimp only
    split
    · split <;> rfl
    · split <;> rfl
  | _ => rfl

theorem putBytes_stale (s : State) (ws : List Wr) : (putBytes s ws).stale = s.stale := by
  unfold putBytes
  exact foldl_keeps State.stale (fun y w => putByte_stale y w.loc w.b) ws s

theorem write_stale (s : State) (ws : List Wr) : (s.write ws).stale = s.stale :=
  (write_keeps State.stale (fun _ _ _ => rfl) (fun _ _ => rfl) (fun _ _ => rfl) s ws).trans
    (putBytes_stale s ws)

/-! ### What cores still see of HBM (R133, R134) -/

theorem leaveStale_eq (s : State) (core src : Nat) (ws : List Wr) :
    ∃ st n, s.leaveStale core src ws = { s with stale := st, nextId := n } := by
  unfold State.leaveStale
  dsimp only
  split
  · exact ⟨_, _, rfl⟩
  · exact ⟨_, _, rfl⟩

theorem mem_sectorsOf {ws : List Wr} {w : Wr} (hw : w ∈ ws) {pa k c : Nat} (hloc : w.loc = .hbm pa k c) : (pa / 32, k) ∈ sectorsOf ws :=
  List.mem_eraseDups.2 (List.mem_filterMap.2 ⟨w, hw, by rw [hloc]⟩)

theorem ne_of_mem_otherCores {s : State} {core c : Nat} (h : c ∈ s.otherCores core) : c ≠ core := by
  rw [State.otherCores, List.mem_eraseDups, List.mem_filter] at h
  exact bne_iff_ne.1 h.2

/-- R133: of the sectors that a core writes it sees no older state. -/
theorem leaveStale_own {s : State} {core src : Nat} {ws : List Wr} {e : Stale} (he : e ∈ (s.leaveStale core src ws).stale)
    (hc : e.core = core) : (e.sect, e.okey) ∉ sectorsOf ws := by
  unfold State.leaveStale at he
  dsimp only at he
  split at he
  · next hnone =>
    rw [Bool.or_eq_true, Bool.and_eq_true, List.isEmpty_iff, List.isEmpty_iff, List.isEmpty_iff] at hnone
    obtain hnil | ⟨-, hnil⟩ := hnone
    · rw [hnil]
      exact List.not_mem_nil
    · rw [hnil] at he
      cases he
  obtain hkept | hnew := List.mem_append.1 he
  · obtain ⟨o, -, ho⟩ := List.mem_filterMap.1 hkept
    split at ho
    · next hx =>
      obtain rfl := Option.some.inj ho
      simpa using hx
    · split at ho
      · cases ho
      · next hx =>
        obtain rfl := Option.some.inj ho
        rw [Bool.or_eq_true, not_or, beq_iff_eq] at hx
        exact absurd hc hx.1
  · obtain ⟨x, -, hx⟩ := List.mem_flatMap.1 hnew
    obtain ⟨c, hother, hx⟩ := List.mem_filterMap.1 hx
    split at hx
    · cases hx
    · obtain rfl := Option.some.inj hx
      exact absurd hc (ne_of_mem_otherCores hother)

theorem leaveStale_staleAt (s : State) (core src : Nat) {ws : List Wr} {x k : Nat} (h : (x, k) ∈ sectorsOf ws) :
    (s.leaveStale core src ws).staleAt core x k = none := by
  refine List.find?_eq_none.2 fun e he hmine => ?_
  simp only [Bool.and_eq_true, beq_iff_eq] at hmine
  obtain ⟨⟨hc, hsect⟩, hkey⟩ := hmine
  exact leaveStale_own he hc (hsect ▸ hkey ▸ h)

/-- R104, R133: after a write of a core each place reads its byte, every place apart as before, and the core sees what it wrote. -/
theorem writeBy_seen {s : State} (hs : s.Inv) (core src : Nat) {ws : List Wr} (hws : ∀ w ∈ ws, w.loc.plain = true ∧ s.settledAt w.loc)
    (hap : ws.Pairwise (fun u v => Apart u.loc v.loc)) :
    (∀ w ∈ ws, (s.writeBy core ws src).byteAt w.loc = w.b) ∧
    (∀ l, l.plain = true → s.settledAt l → (∀ w ∈ ws, Apart w.loc l) → (s.writeBy core ws src).byteAt l = s.byteAt l) ∧
    ∀ w ∈ ws, ∀ pa k c, w.loc = .hbm pa k c → (s.writeBy core ws src).staleAt core (pa / 32) k = none := by
  have hinv : (s.leaveStale core src ws).Inv := leaveStale_inv hs
  refine ⟨fun w hw => ?_, fun l hl h ha => ?_, fun w hw pa k c hloc => ?_⟩
  · rw [State.writeBy, byteAt_write _ _ (hws w hw).1]
    obtain ⟨st, n, he⟩ := leaveStale_eq s core src ws
    rw [he] at hinv ⊢
    exact putBytes_byteAt hinv hws hap w hw
  · rw [State.writeBy, byteAt_write _ _ hl]
    obtain ⟨st, n, he⟩ := leaveStale_eq s core src ws
    rw [he] at hinv ⊢
    exact (putBytes_kept hinv hws hap hl h ha).byte
  · have hstale : (s.writeBy core ws src).stale = (s.leaveStale core src ws).stale := write_stale _ _
    rw [State.staleAt, hstale]
    exact leaveStale_staleAt s core src (mem_sectorsOf hw hloc)

/-! ### Performing a store at the core (R133) -/

theorem core_dropSq {s : State} {w : Nat} (hw : s.hasWeft w = true) (id : Nat) : ((s.dropSq w id).weft w).core = (s.weft w).core := by
  rw [State.dropSq, weft_modWeft_self (f := fun v : Weft => { v with sq := v.sq.filter (fun e => e.id != id) }) (fun _ => rfl) hw]

/-- An entry that leaves its queue moves no weft to another core and touches no load. -/
theorem mem_dropSq {s : State} {w id : Nat} {v : Weft} (hv : v ∈ (s.dropSq w id).wefts) :
    ∃ u ∈ s.wefts, v.core = u.core ∧ v.loads = u.loads := by
  obtain ⟨u, hu, rfl⟩ := List.mem_map.1 hv
  refine ⟨u, hu, ?_⟩
  split <;> exact ⟨rfl, rfl⟩

/-- The plain store at the head of a queue leaves it and performs, where nothing holds its bytes and its panel is not REPLAY. -/
theorem storePerform_of_plain {s : State} {w : Nat} {e : SqEntry} {rest : List SqEntry} {ws : List Wr} (hq : (s.weft w).sq = e :: rest)
    (hop : e.op = .store ws .none) (hr : (s.panel (s.weft w).panel).launch.replay = false)
    (hb : s.bytesWait (s.weft w) e (ws.map (·.loc)) = false) : exec (.storePerform w) s = .next ((s.dropSq w e.id).performStore w e ws) := by
  show execStorePerform w s = _
  have hscope : ¬ Scope.core.rank < Scope.none.rank := by decide
  simp only [execStorePerform, hq, List.head?_cons, State.headOut, hop, hb, Bool.false_eq_true, if_false, hscope, reduceCtorEq, false_and,
    State.plainStore, hr, Bool.not_false, Bool.true_or, if_true]

section
variable {z y : State} {w core : Nat} {e : SqEntry} {ws : List Wr} (hc : (z.weft w).core = core)
  (hy : z.forceLate core w e.id (ws.map (·.loc)) = y)
include hc hy

/-- A store to bytes of its own core, of HBM or of the host is written. -/
theorem performStore_here (ha : ¬ ((ws.map (·.loc)).any Loc.isWin = true ∨ y.winBusy core (ws.map (·.loc)) = true))
    (hr : (ws.map (·.loc)).any Loc.isRemote = false) : z.performStore w e ws = (y.writeBy core ws).doneIf w e.track := by
  rw [← Bool.or_eq_true, Bool.not_eq_true] at ha
  simp only [State.performStore, hc, hy, ha, hr, Bool.false_eq_true, if_false]

/-- A store through a window, or behind one on its way to the same bytes, goes its way (R104). -/
theorem performStore_window (ha : (ws.map (·.loc)).any Loc.isWin = true ∨ y.winBusy core (ws.map (·.loc)) = true) :
    z.performStore w e ws = ({ y with
      wins := y.wins ++ [⟨y.nextId, core, w, none, ws, 0⟩], nextId := y.nextId + 1 } : State).doneIf w e.track := by
  rw [← Bool.or_eq_true] at ha
  simp only [State.performStore, hc, hy, ha, if_true]

/-- A store to another package goes its way (R82). -/
theorem performStore_remote (ha : ¬ ((ws.map (·.loc)).any Loc.isWin = true ∨ y.winBusy core (ws.map (·.loc)) = true))
    (hr : (ws.map (·.loc)).any Loc.isRemote = true) : z.performStore w e ws = ({ y with
      rems := y.rems ++ [⟨y.nextId, core, w, none, e.lane, e.addr, .store, ws, 0, e.pc, e.hdr, none⟩]
      nextId := y.nextId + 1 } : State).doneIf w e.track := by
  rw [← Bool.or_eq_true, Bool.not_eq_true] at ha
  simp only [State.performStore, hc, hy, ha, hr, if_true, Bool.false_eq_true, if_false]

end

/-- A fold whose every step changes nothing. -/
theorem foldl_eq_self {α β : Type} {f : α → β → α} {a : α} {l : List β} (h : ∀ b ∈ l, f a b = a) : l.foldl f a = a := by
  induction l with
  | nil => rfl
  | cons b l ih =>
    obtain ⟨hb, hl⟩ := List.forall_mem_cons.1 h
    rw [List.foldl_cons, hb, ih hl]

/-- A core none of whose loads has still to read at some places has none to satisfy before a store to them. -/
theorem forceLate_eq_self {s : State} {core wid id : Nat} {ls : List Loc}
    (h : ∀ v ∈ s.wefts, v.core = core → ∀ l ∈ v.loads, l.wait = .late ∨ l.wait = .board → locsMeet l.locs ls = false) :
    s.forceLate core wid id ls = s := by
  refine foldl_eq_self fun v hv => ?_
  obtain ⟨hmem, hcore⟩ := List.mem_filter.1 hv
  rw [List.filter_eq_nil_iff.2 fun l hl htrue => ?_, List.foldl_nil]
  simp only [Bool.and_eq_true, Bool.or_eq_true, beq_iff_eq] at htrue
  obtain ⟨⟨⟨hwait, hmeet⟩, -⟩, -⟩ := htrue
  rw [h v hmem (beq_iff_eq.1 hcore) l hl hwait] at hmeet
  cases hmeet

/-! ### O32 -/

/-- Settles O32: the step by where the store goes (`performStore_here`, `performStore_window`, `performStore_remote`), the loads by
`forceLate_eq_self`, and what is seen by `writeBy_seen`: each byte changes one data unit, and an eviction on its way loses nothing. -/
theorem storePerforms : Obligations.StorePerforms := by
  unfold Obligations.StorePerforms
  refine ⟨fun s w e rest ws hw hq hop hr hb => ?_, fun s core src ws hs hws hap => writeBy_seen hs core src hws hap⟩
  intro core ls y away
  have hstep : exec (.storePerform w) s = .next ((s.dropSq w e.id).performStore w e ws) := storePerform_of_plain hq hop hr hb
  have hcore : ((s.dropSq w e.id).weft w).core = core := core_dropSq hw e.id
  refine ⟨fun ha hrem => ?_, fun ha => ?_, fun ha hrem => ?_, fun hnone => ?_⟩
  · rw [hstep, performStore_here hcore rfl ha hrem]
  · refine ⟨⟨y.nextId, core, w, none, ws, 0⟩, rfl, rfl, rfl, rfl, ?_⟩
    rw [hstep, performStore_window hcore rfl ha]
  · refine ⟨⟨y.nextId, core, w, none, e.lane, e.addr, .store, ws, 0, e.pc, e.hdr, none⟩, rfl, rfl, rfl, rfl, rfl, ?_⟩
    rw [hstep, performStore_remote hcore rfl ha hrem]
  · refine forceLate_eq_self fun v hv hvc l hl => ?_
    obtain ⟨u, hu, hsame, hloads⟩ := mem_dropSq hv
    exact hnone u hu (hsame ▸ hvc) l (hloads ▸ hl)

end Sys2Proof.Proofs
end

section
/-! SUPPORT. Rejoin masks (R172, R280): the masks of lists of lanes, a mask changed and released, the lanes of a word at a `wait` one after
another, and words that change a mask and lanes of their weft (O23). -/
namespace Sys2Proof.Proofs
open Sys2Proof Sys2Proof.Machine

/-! ### Masks of lists of lanes (R5) -/

theorem getLsbD_maskOf (ls : List Nat) (i : Nat) : (maskOf ls).getLsbD i = true ↔ i < 32 ∧ i ∈ ls := by
  have hfold : ∀ m : LaneMask, (ls.foldl (fun m k => m ||| (BitVec.ofNat 32 1 <<< k)) m).getLsbD i = true ↔
      m.getLsbD i = true ∨ i < 32 ∧ i ∈ ls := by
    induction ls with
    | nil => simp
    | cons k ks ih =>
      intro m
      have hbit : (BitVec.ofNat 32 1 <<< k).getLsbD i = true ↔ i < 32 ∧ i = k := by
        simp only [BitVec.getLsbD_shiftLeft, BitVec.getLsbD_ofNat, Nat.testBit_one_eq_true_iff_self_eq_zero, Bool.and_eq_true,
          Bool.not_eq_true', decide_eq_true_eq, decide_eq_false_iff_not]
        omega
      rw [List.foldl_cons, ih, BitVec.getLsbD_or, Bool.or_eq_true, hbit, List.mem_cons]
      tauto
  rw [maskOf, hfold]
  simp

/-- A mask and the lanes of a list have no lane in common. -/
theorem and_maskOf_eq_zero_iff {m : LaneMask} {ls : List Nat} :
    m &&& maskOf ls = 0 ↔ ∀ i ∈ ls, m.getLsbD i = false := by
  constructor
  · intro h i hi
    by_cases hlt : i < 32
    · have hbit := congrArg (fun b : LaneMask => b.getLsbD i) h
      simpa [(getLsbD_maskOf ls i).2 ⟨hlt, hi⟩] using hbit
    · exact BitVec.getLsbD_of_ge m i (by omega)
  · intro h
    refine BitVec.eq_of_getLsbD_eq fun i _ => ?_
    rw [BitVec.getLsbD_and, show (0 : LaneMask).getLsbD i = false from BitVec.getLsbD_zero, Bool.and_eq_false_iff]
    by_cases hi : i ∈ ls
    · exact .inl (h i hi)
    · exact .inr (Bool.eq_false_iff.2 fun ht => hi ((getLsbD_maskOf ls i).1 ht).2)

theorem maskOf_cons (i : Nat) (is : List Nat) : maskOf (i :: is) = maskOf [i] ||| maskOf is := by
  refine BitVec.eq_of_getLsbD_eq fun k _ => ?_
  rw [BitVec.getLsbD_or, Bool.eq_iff_iff, Bool.or_eq_true]
  simp only [getLsbD_maskOf, List.mem_cons, List.not_mem_nil]
  tauto

/-- A lane of E alone. -/
theorem and_maskOf_singleton {m : LaneMask} {i : Nat} (h : m.getLsbD i = true) : m &&& maskOf [i] = maskOf [i] := by
  refine BitVec.eq_of_getLsbD_eq fun k _ => ?_
  rw [BitVec.getLsbD_and, Bool.and_eq_right_iff_imp]
  intro hk
  rw [List.mem_singleton.1 ((getLsbD_maskOf _ _).1 hk).2]
  exact h

/-! ### Lanes parked, one mask changed (R172) -/

theorem lane_modLane {w : Weft} {k i : Nat} (f : Lane → Lane) (h : i = k → i < w.lanes.length) :
    (w.modLane k f).lane i = if i = k then f (w.lane i) else w.lane i := by
  simp only [Weft.modLane, Weft.lane, List.getD_eq_getElem?_getD, List.getElem?_modify]
  by_cases hk : i = k
  · have := h hk
    subst hk
    simp [this]
  · have : ¬ k = i := fun e => hk e.symm
    cases w.lanes[i]? <;> simp [hk, this]

theorem lane_park {w : Weft} {ls : List Nat} (p : Park) {i : Nat} (h : i ∈ ls → i < w.lanes.length) :
    (w.park ls p).lane i = if i ∈ ls then { w.lane i with st := .parked p } else w.lane i := by
  induction ls generalizing w with
  | nil => rfl
  | cons k ks ih =>
    have hlen : (w.modLane k (fun l => { l with st := .parked p })).lanes.length = w.lanes.length := by simp [Weft.modLane]
    have hstep : w.park (k :: ks) p = (w.modLane k (fun l => { l with st := .parked p })).park ks p := rfl
    rw [hstep, ih (fun hi => hlen ▸ h (List.mem_cons_of_mem _ hi)), lane_modLane _ (fun hi => h (hi ▸ List.mem_cons_self))]
    by_cases hik : i = k <;> by_cases hi : i ∈ ks <;> simp [hik, hi]

theorem park_withMasks (w : Weft) (ms : List (LaneMask × LaneMask)) (ls : List Nat) (p : Park) :
    ({ w with masks := ms } : Weft).park ls p = { w.park ls p with masks := ms } := by
  induction ls generalizing w with
  | nil => rfl
  | cons k ks ih => exact ih (w.modLane k (fun l => { l with st := .parked p }))

theorem setMask_of_released (w : Weft) (j : Nat) {e a : LaneMask} (h : e = a ∧ e ≠ 0) :
    w.setMask j e a = ({ w with masks := w.masks.set j (e, 0) } : Weft).unpark (Park.onMask j) := if_pos h

theorem setMask_of_waiting (w : Weft) (j : Nat) {e a : LaneMask} (h : ¬ (e = a ∧ e ≠ 0)) :
    w.setMask j e a = { w with masks := w.masks.set j (e, a) } := if_neg h

theorem setMask_masks (w : Weft) (j : Nat) (e a : LaneMask) : (w.setMask j e a).masks = w.masks.set j (maskAfter e a) := by
  by_cases h : e = a ∧ e ≠ 0
  · rw [setMask_of_released w j h, maskAfter, if_pos h]
    rfl
  · rw [setMask_of_waiting w j h, maskAfter, if_neg h]

theorem maskAfter_fst (e a : LaneMask) : (maskAfter e a).1 = e := by
  unfold maskAfter
  split <;> rfl

theorem mask_setMask_self {w : Weft} {j : Nat} (e a : LaneMask) (h : j < w.masks.length) : (w.setMask j e a).mask j = maskAfter e a := by
  rw [Weft.mask, setMask_masks, List.getD_eq_getElem?_getD, List.getElem?_set_self h]
  rfl

theorem mask_setMask_ne {w : Weft} {j k : Nat} (e a : LaneMask) (h : k ≠ j) : (w.setMask j e a).mask k = w.mask k := by
  rw [Weft.mask, setMask_masks, List.getD_eq_getElem?_getD, List.getElem?_set_ne h.symm, ← List.getD_eq_getElem?_getD]
  rfl

theorem lane_setMask (w : Weft) (j : Nat) (e a : LaneMask) (i : Nat) :
    (w.setMask j e a).lane i = if e = a ∧ e ≠ 0 then (w.lane i).unpark (Park.onMask j) else w.lane i := by
  by_cases h : e = a ∧ e ≠ 0
  · rw [setMask_of_released w j h, if_pos h, lane_unpark]
    rfl
  · rw [setMask_of_waiting w j h, if_neg h]
    rfl

/-- A weft without its lanes and rejoin masks. -/
def unmasked (w : Weft) : Weft := { w with lanes := [], masks := [] }

theorem setMask_unmasked (w : Weft) (j : Nat) (e a : LaneMask) : unmasked (w.setMask j e a) = unmasked w := by
  by_cases h : e = a ∧ e ≠ 0
  · rw [setMask_of_released w j h]
    rfl
  · rw [setMask_of_waiting w j h]
    rfl

theorem park_unmasked (w : Weft) (ls : List Nat) (p : Park) : unmasked (w.park ls p) = unmasked w := by
  induction ls generalizing w with
  | nil => rfl
  | cons k ks ih => exact ih (w.modLane k (fun l => { l with st := .parked p }))

/-- A mask changed twice, not released the first time. -/
theorem setMask_after_waiting (w : Weft) (j : Nat) {e a : LaneMask} (h : ¬ (e = a ∧ e ≠ 0)) (ls : List Nat) (p : Park) (e' a' : LaneMask) :
    ((w.setMask j e a).park ls p).setMask j e' a' = (w.park ls p).setMask j e' a' := by
  rw [setMask_of_waiting w j h, park_withMasks]
  by_cases h' : e' = a' ∧ e' ≠ 0
  · rw [setMask_of_released _ j h', setMask_of_released _ j h']
    simp
  · rw [setMask_of_waiting _ j h', setMask_of_waiting _ j h']
    simp

/-! ### The lanes of a word at a `wait`, one after another -/

section
variable {w : Weft} {j : Nat} {e a : LaneMask} (hm : w.mask j = (e, a))
include hm

theorem waitLane_of_unexpected {i : Nat} (h : e.getLsbD i = false) : w.waitLane j i = (true, w) := by
  have hexp : e &&& maskOf [i] = 0 := and_maskOf_eq_zero_iff.2 fun k hk => List.mem_singleton.1 hk ▸ h
  simp only [Weft.waitLane, hm, hexp, if_true]

theorem waitLane_of_expected {i : Nat} (he : e.getLsbD i = true) (ha : a.getLsbD i = false) :
    w.waitLane j i = (false, (w.park [i] (.rejoin j)).setMask j e (a ||| maskOf [i])) := by
  have hexp : e &&& maskOf [i] ≠ 0 := fun h => by simp [and_maskOf_eq_zero_iff.1 h i (by simp)] at he
  have harr : a &&& maskOf [i] = 0 := and_maskOf_eq_zero_iff.2 fun k hk => List.mem_singleton.1 hk ▸ ha
  simp only [Weft.waitLane, hm, hexp, harr, if_true, if_false]

end

/-- The lanes in E that have not arrived arrive together, and the others proceed: only the last of them can release the mask. -/
theorem foldl_waitLane {w : Weft} {j : Nat} {e a : LaneMask} (hm : w.mask j = (e, a)) (hj : j < w.masks.length) {is : List Nat}
    (hn : is.Nodup) (hfree : ∀ i ∈ is, e.getLsbD i = true → a.getLsbD i = false) :
    is.foldl (fun z i => (z.waitLane j i).2) w = if e &&& maskOf is = 0 then w
      else (w.park (is.filter (fun i => e.getLsbD i)) (.rejoin j)).setMask j e (a ||| (e &&& maskOf is)) := by
  induction is generalizing w a with
  | nil => simp [maskOf]
  | cons i is ih =>
    obtain ⟨hi, hn⟩ := List.nodup_cons.1 hn
    have hrest : ∀ k ∈ is, e.getLsbD k = true → a.getLsbD k = false := fun k hk => hfree k (List.mem_cons_of_mem _ hk)
    rw [List.foldl_cons]
    by_cases he : e.getLsbD i = true
    · have hany : ¬ e &&& maskOf (i :: is) = 0 := fun h => by simp [and_maskOf_eq_zero_iff.1 h i List.mem_cons_self] at he
      have hall : a ||| (e &&& maskOf (i :: is)) = a ||| maskOf [i] ||| (e &&& maskOf is) := by
        rw [maskOf_cons, BitVec.and_or_distrib_left, and_maskOf_singleton he, BitVec.or_assoc]
      have hlen : j < (w.park [i] (.rejoin j)).masks.length := by rwa [weft_park_masks]
      have hlen' : j < ((w.park [i] (.rejoin j)).setMask j e (a ||| maskOf [i])).masks.length := by
        rwa [setMask_masks, List.length_set]
      have hmask : ((w.park [i] (.rejoin j)).setMask j e (a ||| maskOf [i])).mask j = (e, (maskAfter e (a ||| maskOf [i])).2) :=
        (mask_setMask_self _ _ hlen).trans (Prod.ext (maskAfter_fst _ _) rfl)
      rw [waitLane_of_expected hm he (hfree i List.mem_cons_self he), if_neg hany, hall, List.filter_cons_of_pos he]
      by_cases hlast : e &&& maskOf is = 0
      · have hnone : ∀ k ∈ is, e.getLsbD k = false := and_maskOf_eq_zero_iff.1 hlast
        rw [ih hmask hlen' hn (fun k hk hek => by simp [hnone k hk] at hek), if_pos hlast, hlast,
          List.filter_eq_nil_iff.2 (fun k hk => by simp [hnone k hk]), show a ||| maskOf [i] ||| 0 = a ||| maskOf [i] from BitVec.or_zero]
      · have hlater : ∀ k ∈ is, e.getLsbD k = true → (a ||| maskOf [i]).getLsbD k = false := fun k hk hek => by
          rw [BitVec.getLsbD_or, hrest k hk hek, Bool.false_or, Bool.eq_false_iff]
          exact fun ht => hi (List.mem_singleton.1 ((getLsbD_maskOf _ _).1 ht).2 ▸ hk)
        have hwaiting : ¬ (e = a ||| maskOf [i] ∧ e ≠ 0) := fun h =>
          hlast (and_maskOf_eq_zero_iff.2 fun k hk => by
            by_contra hek
            have hek := Bool.eq_true_of_not_eq_false hek
            exact absurd (h.1 ▸ hek) (by simp [hlater k hk hek]))
        rw [maskAfter, if_neg hwaiting] at hmask
        rw [ih hmask hlen' hn hlater, if_neg hlast, setMask_after_waiting _ _ hwaiting]
        rfl
    · have he' : e.getLsbD i = false := Bool.eq_false_iff.2 he
      have hone : e &&& maskOf [i] = 0 := and_maskOf_eq_zero_iff.2 fun k hk => List.mem_singleton.1 hk ▸ he'
      have hall : e &&& maskOf (i :: is) = e &&& maskOf is := by
        rw [maskOf_cons, BitVec.and_or_distrib_left, hone]
        exact BitVec.zero_or
      rw [waitLane_of_unexpected hm he', ih hm hj hn hrest, hall, List.filter_cons_of_neg he]

/-! ### Words on a rejoin mask -/

/-- A lane that no other thing holds goes on from its mask. -/
theorem unpark_onMask {l : Lane} {j : Nat} (h : l.st = .parked (.rejoin j) ∨ l.st = .parked (.heldWait j)) (hb : l.back = none) :
    l.unpark (Park.onMask j) = { l with st := .active } := by
  rw [unpark_of_back_none _ hb]
  rcases h with h | h <;> simp [h, Park.onMask]

/-- A word that issues and changes masks and lanes of its weft: registers, flag and everything else stay. -/
theorem perform_rejoined {s : State} {x : IC} (r : Reads s x) (c : Common) {g : Weft → Weft} (hg : ∀ y, unmasked (g y) = unmasked y)
    {j : Nat} {e a arrived : LaneMask} (hmasks : ∀ y : Weft, y.masks = x.w.masks →
      (g y).mask j = maskAfter e a ∧ ∀ k, k ≠ j → (g y).mask k = y.mask k)
    (hlanes : ∀ y : Weft, y.masks = x.w.masks → (∀ i ∈ x.lanes, i < y.lanes.length) → ∀ i,
      let l := if arrived.getLsbD i then { y.lane i with st := .parked (.rejoin j) } else y.lane i
      (g y).lane i = if e = a ∧ e ≠ 0 then l.unpark (Park.onMask j) else l) :
    Rejoined s (s.perform x c (fun y => y.modWeft x.w.id g)) x j e a arrived := by
  have hid : ∀ y, (g y).id = y.id := fun y => (congrArg Weft.id (hg y) :)
  obtain ⟨hw, ho⟩ := perform_weft r c hid (e := id) (fun _ => rfl)
  simp only [id_eq] at hw ho
  generalize hz : (s.weft x.w.id).issueWord x c (s.nextPos x) = z at hw
  have hapart : z.apart = x.w.apart := hz ▸ (issueWord_apart _ _ _ _).trans r.apart
  have hzmasks : z.masks = x.w.masks := (congrArg Weft.masks hapart :)
  have hlen : z.lanes.length = x.w.lanes.length := by rw [← hz, ← r.len]; simp [Weft.issueWord]
  have hregs : (g z).regs = x.w.regs := (congrArg Weft.regs (hg z) :).trans (by rw [← r.regs, ← hz]; simp [unmasked])
  have hpz : (g z).poison = x.w.poison := (congrArg Weft.poison (hg z) :).trans (by rw [← r.pz, ← hz]; simp [unmasked])
  have hpend : (g z).pend = x.w.pend := (congrArg Weft.pend (hg z) :).trans (by rw [← r.pend, ← hz]; simp [unmasked])
  have htracks : (g z).tracks = ⟨x.track, c.flag.toNat, 1, []⟩ :: x.w.tracks :=
    (congrArg Weft.tracks (hg z) :).trans (by rw [← r.count.1, ← hz]; exact issueWord_tracks _ _ _ _)
  have hflags : (g z).flags = if c.flag.toNat = 0 then x.w.flags else x.w.flags.modify c.flag.toNat (· + 1) :=
    (congrArg Weft.flags (hg z) :).trans (by rw [← r.count.2, ← hz]; exact issueWord_flags _ _ _ _)
  have hmask : ∀ k, ((g z).partDone x.track).mask k = (g z).mask k := fun k => by rw [Weft.mask, weft_partDone_masks]; rfl
  obtain ⟨hself, hne⟩ := hmasks z hzmasks
  constructor
  case mask => rw [hw, hmask, hself]
  case masks =>
    intro k hk
    rw [hw, hmask, hne k hk, Weft.mask, hzmasks]
    rfl
  case lanes =>
    intro i
    have hlane := hlanes z hzmasks (fun k hk => hlen ▸ r.act k hk) i
    rw [show z.lane i = _ from hz ▸ r.issued_lane c i] at hlane
    rw [hw, weft_lane_congr (weft_partDone_lanes _ _)]
    exact hlane
  case regs => intro k; simp [hw, Weft.newest, Weft.marked, hregs, hpz, hpend]
  case flags =>
    rw [hw, partDone_last_flags htracks, hflags]
    by_cases hfl : c.flag.toNat = 0
    · rw [if_pos hfl, if_pos hfl]
    · rw [if_neg hfl, if_neg hfl, modify_up_down]
  case weft =>
    rw [hw, partDone_apart, ← hapart]
    exact (congrArg (fun w : Weft => { w.apart with masks := [] }) (hg z) :)
  case others => exact ho
  case mem => simp [State.perform]
  case apart =>
    rw [State.perform, partDone_state_apart, modWeft_apart]
    exact issued_apart s x c

/-- What a word did from the place of its lanes at it. -/
theorem rejoined_of_atWord {s t : State} {x : IC} {j : Nat} {e a arrived : LaneMask} (h : Rejoined (s.atWord x) t x j e a arrived) :
    Rejoined s t x j e a arrived :=
  { h with
    others := fun w hw => (h.others w hw).trans (atWord_weft_ne hw)
    mem := h.mem.trans (atWord_mem s x)
    apart := h.apart.trans (atWord_apart s x) }

/-- A word that only changes its mask: no lane arrives. -/
theorem perform_setMask {s : State} {x : IC} (r : Reads s x) (c : Common) {j : Nat} (hj : j < x.w.masks.length)
    (ne na : LaneMask × LaneMask → LaneMask) :
    Rejoined s (s.perform x c (fun y => y.modWeft x.w.id (fun w => w.setMask j (ne (w.mask j)) (na (w.mask j))))) x j
      (ne (x.w.mask j)) (na (x.w.mask j)) 0 := by
  have hmask : ∀ y : Weft, y.masks = x.w.masks → y.mask j = x.w.mask j := fun y hy => by rw [Weft.mask, hy]; rfl
  refine perform_rejoined r c (fun y => setMask_unmasked _ _ _ _) (fun y hy => ⟨?_, fun k hk => ?_⟩) (fun y hy _ i => ?_)
  · rw [hmask y hy, mask_setMask_self _ _ (hy ▸ hj)]
  · exact mask_setMask_ne _ _ hk
  · simp only [hmask y hy, lane_setMask, show (0 : LaneMask).getLsbD i = false from BitVec.getLsbD_zero, Bool.false_eq_true, if_false]

/-- A due word at which something happens that does not issue it. -/
theorem runWord_stay {s : State} {sw : SlotWord} {x : IC} {v : View} {p : Bool} {plan : IC → State → Plan} {f : State → State}
    (h : Due s sw x v p) (hp : plan x (s.ready sw) = .stay f) :
    runWord v p plan s = .next (f ((s.ready sw).atWord x)) := by
  have hactive : ¬ x.lanes.isEmpty = true := by simpa using h.active
  have hlate : ¬ x.late = true := by simp [h.on_time]
  have hgang : ¬ v.gmBad (coreIdx x.w.core) = true := by simp [h.gang]
  have hbudget : ¬ v.overBudget x.p.alloc = true := by simp [h.budget]
  have hmode : ¬ (p && !x.sys) = true := by simpa using h.mode
  have hflag : ¬ x.flagFull v.common = true := by simp [h.flag]
  have hbeam : ¬ (x.p.launch.replay && viewCommits v && (s.ready sw).beamBusy x.p.id) = true := by simpa using h.beam
  simp only [runWord, h.cur]
  rw [← h.reads, State.doPlan, if_neg hactive, if_neg hlate, if_neg hgang, if_neg hbudget, if_neg hmode, if_neg hflag, if_neg hbeam, hp]

/-! ### `wait` (R172) -/

/-- A `wait` at which no lane is held: its lanes perform it one after another. -/
theorem wait_of_free {s : State} {sw : SlotWord} {x : IC} {c : Common} {f : CF} (h : Due s sw x (Instr.wait c f).view false)
    (hfree : ∀ i ∈ x.lanes, ((x.w.mask f.jm.toNat).1.getLsbD i && (x.w.mask f.jm.toNat).2.getLsbD i) = false) :
    exec (.wait c f) s = .next (((s.ready sw).atWord x).perform x c (fun y =>
      y.modWeft x.w.id (fun w => x.lanes.foldl (fun z i => (z.waitLane f.jm.toNat i).2) w))) := by
  have hheld : x.lanes.filter (fun i => (x.w.mask f.jm.toNat).1.getLsbD i && (x.w.mask f.jm.toNat).2.getLsbD i) = [] :=
    List.filter_eq_nil_iff.2 fun i hi => by simp [hfree i hi]
  have hpass : x.lanes.filter (fun i => !((x.w.mask f.jm.toNat).1.getLsbD i && (x.w.mask f.jm.toNat).2.getLsbD i)) = x.lanes :=
    List.filter_eq_self.2 fun i hi => by simp [hfree i hi]
  have hactive : ¬ x.lanes.isEmpty = true := by simpa using h.active
  show execWait c f s = _
  refine (runWord_part h (f := fun y s1 => s1.modWeft y.w.id (fun w =>
    x.lanes.foldl (fun z i => (z.waitLane f.jm.toNat i).2) w)) ?_)
  simp only [hheld, hpass, if_neg hactive]
  congr
  funext y s1
  exact congrArg (fun u : State => u.modWeft y.w.id _) (modWeft_self s1 x.w.id)

/-- A `wait` all of whose lanes have arrived already: it holds them. -/
theorem wait_of_held {s : State} {sw : SlotWord} {x : IC} {c : Common} {f : CF} (h : Due s sw x (Instr.wait c f).view false)
    (hheld : ∀ i ∈ x.lanes, ((x.w.mask f.jm.toNat).1.getLsbD i && (x.w.mask f.jm.toNat).2.getLsbD i) = true) :
    exec (.wait c f) s = .next (((s.ready sw).atWord x).modWeft x.w.id (fun w => w.park x.lanes (.heldWait f.jm.toNat))) := by
  have hall : x.lanes.filter (fun i => (x.w.mask f.jm.toNat).1.getLsbD i && (x.w.mask f.jm.toNat).2.getLsbD i) = x.lanes :=
    List.filter_eq_self.2 hheld
  have hnone : x.lanes.filter (fun i => !((x.w.mask f.jm.toNat).1.getLsbD i && (x.w.mask f.jm.toNat).2.getLsbD i)) = [] :=
    List.filter_eq_nil_iff.2 fun i hi => by simp [hheld i hi]
  show execWait c f s = _
  refine runWord_stay h (f := fun s1 => s1.modWeft x.w.id (fun w => w.park x.lanes (.heldWait f.jm.toNat))) ?_
  simp only [hall, hnone, List.isEmpty_nil, if_true]

theorem waitLane_unmasked (w : Weft) (j i : Nat) : unmasked (w.waitLane j i).2 = unmasked w := by
  unfold Weft.waitLane
  dsimp only
  split
  · rfl
  · split
    · rw [setMask_unmasked, park_unmasked]
    · exact park_unmasked _ _ _

theorem foldl_waitLane_unmasked (w : Weft) (j : Nat) (is : List Nat) :
    unmasked (is.foldl (fun z i => (z.waitLane j i).2) w) = unmasked w := by
  induction is generalizing w with
  | nil => rfl
  | cons i is ih => rw [List.foldl_cons, ih, waitLane_unmasked]

section
variable {s : State} {x : IC} (r : Reads s x) (c : Common) {j : Nat} {e a : LaneMask} (hj : j < x.w.masks.length)
  (hm : x.w.mask j = (e, a)) (hn : x.lanes.Nodup) (hfree : ∀ i ∈ x.lanes, e.getLsbD i = true → a.getLsbD i = false)
include r hj hm hn hfree

/-- The lanes of E that arrive at a `wait` wait, and the last of E releases its mask; the others go past it. -/
theorem perform_wait_arrives (h32 : ∀ i ∈ x.lanes, i < 32) (hany : e &&& maskOf x.lanes ≠ 0) :
    Rejoined s (s.perform x c (fun y => y.modWeft x.w.id (fun w => x.lanes.foldl (fun z i => (z.waitLane j i).2) w))) x j e
      (a ||| (e &&& maskOf x.lanes)) (e &&& maskOf x.lanes) := by
  have hfold : ∀ y : Weft, y.masks = x.w.masks → x.lanes.foldl (fun z i => (z.waitLane j i).2) y =
      (y.park (x.lanes.filter (fun i => e.getLsbD i)) (.rejoin j)).setMask j e (a ||| (e &&& maskOf x.lanes)) := fun y hy => by
    rw [foldl_waitLane (by rw [← hm, Weft.mask, hy]; rfl) (hy ▸ hj) hn hfree, if_neg hany]
  have harrived : ∀ i, i ∈ x.lanes.filter (fun i => e.getLsbD i) ↔ (e &&& maskOf x.lanes).getLsbD i = true := fun i => by
    rw [List.mem_filter, BitVec.getLsbD_and, Bool.and_eq_true, getLsbD_maskOf]
    exact ⟨fun h => ⟨h.2, h32 i h.1, h.1⟩, fun h => ⟨h.2.2, h.1⟩⟩
  refine perform_rejoined r c (fun y => foldl_waitLane_unmasked y j x.lanes) (fun y hy => ⟨?_, fun k hk => ?_⟩) (fun y hy hlen i => ?_)
  · rw [hfold y hy, mask_setMask_self _ _ (by rw [weft_park_masks, hy]; exact hj)]
  · rw [hfold y hy, mask_setMask_ne _ _ hk, Weft.mask, weft_park_masks]
    rfl
  · simp only [hfold y hy, lane_setMask, lane_park (.rejoin j) (fun hi => hlen i (List.mem_filter.1 hi).1), harrived]

/-- A `wait` none of whose lanes is in E: they go past it. -/
theorem perform_wait_proceeds (hnone : e &&& maskOf x.lanes = 0) :
    Wrote s (s.perform x c (fun y => y.modWeft x.w.id (fun w => x.lanes.foldl (fun z i => (z.waitLane j i).2) w))) x c noMore [] [] := by
  have hid : ∀ y : Weft, (x.lanes.foldl (fun z i => (z.waitLane j i).2) y).id = y.id := fun y =>
    (congrArg Weft.id (foldl_waitLane_unmasked y j x.lanes) :)
  have hpass := perform_result r c (results_none x c []) noMore (e := id) (fun _ => rfl) (fun _ => rfl) (fun _ => rfl)
  obtain ⟨hself, hothers⟩ := perform_weft r c hid (e := id) (fun _ => rfl)
  obtain ⟨hself', -⟩ := perform_weft r c (g := fun w => w) (fun _ => rfl) (e := id) (fun _ => rfl)
  simp only [id_eq, mapLanes_noMore, modWeft_self] at hpass hself hself' hothers
  have hmasks : ((s.weft x.w.id).issueWord x c (s.nextPos x)).masks = x.w.masks :=
    (congrArg Weft.masks ((issueWord_apart _ _ _ _).trans r.apart) :)
  rw [foldl_waitLane (by rw [← hm, Weft.mask, hmasks]; rfl) (hmasks ▸ hj) hn hfree, if_pos hnone, ← hself'] at hself
  exact ⟨hself ▸ hpass.lanes, hself ▸ hpass.regs, hself ▸ hpass.poison, hself ▸ hpass.flags, hself ▸ hpass.weft, hothers, hpass.mem,
    hpass.apart⟩

end

/-! ### O23 -/

/-- Settles O23: `join` and `join.x` by `perform_setMask`, the lanes of a `wait` by `foldl_waitLane`. -/
theorem rejoinWords : Obligations.RejoinWords := by
  unfold Obligations.RejoinWords
  refine ⟨fun l j => unpark_onMask, fun c f s sw x => ?_⟩
  intro j e a m hj
  refine ⟨fun h => ?_, fun h => ?_, fun h hdisjoint => ?_, fun h hheld => ?_⟩
  · exact ⟨_, runWord_go h rfl, perform_setMask h.reading c hj (fun q => q.1 ||| m) (fun q => q.2)⟩
  · exact ⟨_, runWord_go h rfl, perform_setMask h.reading c hj (fun q => q.1 &&& ~~~m) (fun q => q.2 &&& ~~~m)⟩
  · have hbits : ∀ i ∈ x.lanes, (e.getLsbD i && a.getLsbD i) = false := fun i hi => by
      rw [← BitVec.getLsbD_and]
      exact and_maskOf_eq_zero_iff.1 hdisjoint i hi
    have hfree : ∀ i ∈ x.lanes, e.getLsbD i = true → a.getLsbD i = false := fun i hi he => by simpa [he] using hbits i hi
    refine ⟨_, wait_of_free h hbits, fun hany => ?_, fun hnone => ?_⟩
    · exact rejoined_of_atWord
        (perform_wait_arrives h.reading.atWord c hj rfl h.lanes_nodup hfree (fun i hi => h.lane_lt_32 hi) hany)
    · exact (perform_wait_proceeds h.reading.atWord c hj rfl h.lanes_nodup hfree hnone).ofAtWord
  · refine wait_of_held h fun i hi => ?_
    have hbit := and_maskOf_eq_zero_iff.1 ((BitVec.and_comm _ _).trans hheld) i hi
    rw [BitVec.getLsbD_not, BitVec.getLsbD_and] at hbit
    simpa [h.lane_lt_32 hi] using hbit

end Sys2Proof.Proofs
end

section
/-! SUPPORT. Completions and accesses that arrive (O36): a tracked result written to its registers, the parts of a counted instruction,
window accesses, remote accesses, and accesses by other packages. -/
namespace Sys2Proof.Proofs
open Sys2Proof Sys2Proof.Machine

/-! ### Values by key -/

theorem lookupKey_cons (k j : Nat) (v : DWord) (vs : List (Nat × DWord)) :
    lookupKey k ((j, v) :: vs) = if j = k then some v else lookupKey k vs := rfl

theorem lookupKey_eq_none {k : Nat} {vs : List (Nat × DWord)} (h : k ∉ vs.map (·.1)) : lookupKey k vs = none := by
  induction vs with
  | nil => rfl
  | cons q vs ih =>
    obtain ⟨hq, hvs⟩ := not_or.1 (mt List.mem_cons.2 h)
    rw [lookupKey_cons, if_neg (Ne.symm hq), ih hvs]

theorem hasKey_eq_isSome (vs : List (Nat × DWord)) (k : Nat) : hasKey vs k = (lookupKey k vs).isSome := by
  induction vs with
  | nil => rfl
  | cons q vs ih =>
    rw [lookupKey_cons, hasKey, List.any_cons]
    by_cases hq : q.1 = k
    · simp [hq]
    · rw [if_neg hq, ← ih, beq_eq_false_iff_ne.2 hq, Bool.false_or, hasKey]

/-- Registers written with values of distinct keys. -/
theorem sget_put {r : RegFile} {vs : List (Nat × DWord)} (pz : List Nat) (hr : risesFrom 0 r.1) (hn : (vs.map (·.1)).Nodup) (k : Nat) :
    sget 0 (r.put vs pz).1 k = (lookupKey k vs).getD (sget 0 r.1 k) := by
  have hfold : ∀ m : List (Nat × DWord), risesFrom 0 m →
      sget 0 (vs.foldl (fun m kv => sput 0 m kv.1 kv.2) m) k = (lookupKey k vs).getD (sget 0 m k) := by
    induction vs with
    | nil => exact fun _ _ => rfl
    | cons q vs ih =>
      intro m hm
      obtain ⟨hq, hn⟩ := List.nodup_cons.1 hn
      rw [List.foldl_cons, ih hn _ (risesFrom_sput hm (Nat.zero_le _) _), sget_sput hm, lookupKey_cons]
      by_cases hk : q.1 = k
      · rw [if_pos hk, if_pos hk.symm, lookupKey_eq_none (hk ▸ hq)]
        rfl
      · rw [if_neg hk, if_neg (Ne.symm hk)]
  exact hfold r.1 hr

/-- A pending result after registers have been written: it holds no value of those. -/
theorem lookupKey_drop (q : Pend) (vs : List (Nat × DWord)) (k : Nat) :
    lookupKey k (q.drop vs).vals = if (lookupKey k vs).isSome then none else lookupKey k q.vals := by
  rw [Pend.drop, ← hasKey_eq_isSome]
  dsimp only
  generalize q.vals = us
  induction us with
  | nil => simp [lookupKey]
  | cons u us ih =>
    by_cases hu : u.1 = k
    · cases hk : hasKey vs k <;> simp_all [lookupKey]
    · cases hv : hasKey vs u.1 <;> simp_all [lookupKey]

/-! ### The newest value of a register (R174, R175) -/

theorem newestIn_cons (regs : List (Nat × DWord)) (k : Nat) (p : Pend) (ps : List Pend) :
    newestIn regs k (p :: ps) = (lookupKey k p.vals).getD (newestIn regs k ps) := by
  rw [newestIn]
  cases lookupKey k p.vals <;> rfl

/-- Behind other pending results, only the newest value among the later ones matters. -/
theorem newestIn_append_congr {r r' : List (Nat × DWord)} {k : Nat} {ps qs : List Pend} (h : newestIn r k ps = newestIn r' k qs)
    (newer : List Pend) : newestIn r k (newer ++ ps) = newestIn r' k (newer ++ qs) := by
  induction newer with
  | nil => exact h
  | cons p newer ih => rw [List.cons_append, List.cons_append, newestIn_cons, newestIn_cons, ih]

/-- A written key is in the registers, past what the older results held; any other keeps its newest value. -/
theorem newestIn_put {r : RegFile} {vs : List (Nat × DWord)} (pz : List Nat) (hr : risesFrom 0 r.1) (hn : (vs.map (·.1)).Nodup) (k : Nat)
    (older : List Pend) :
    newestIn (r.put vs pz).1 k (older.map (fun q => q.drop vs)) = (lookupKey k vs).getD (newestIn r.1 k older) := by
  induction older with
  | nil => exact sget_put pz hr hn k
  | cons q older ih =>
    rw [List.map_cons, newestIn_cons, lookupKey_drop, ih, newestIn_cons]
    cases lookupKey k vs <;> rfl

/-- The pending result of an operation stands between the newer and the older ones. -/
theorem pend_split {ps : List Pend} {op : Nat} {p : Pend} (h : ps.find? (fun q => q.op == some op) = some p) :
    ps = ps.takeWhile (fun q => q.op != some op) ++ p :: (ps.dropWhile (fun q => q.op != some op)).drop 1 := by
  induction ps with
  | nil => simp at h
  | cons q ps ih =>
    by_cases hq : (q.op == some op) = true
    · rw [List.find?_cons, hq, Option.some.injEq] at h
      have hstop : ¬ (q.op != some op) = true := by simpa using hq
      rw [List.takeWhile_cons, List.dropWhile_cons, if_neg hstop, if_neg hstop, h]
      rfl
    · rw [List.find?_cons, Bool.eq_false_iff.2 hq] at h
      have hgo : (q.op != some op) = true := by simpa using hq
      rw [List.takeWhile_cons, List.dropWhile_cons, if_pos hgo, if_pos hgo, List.cons_append, ← ih h]

/-! ### The end of a tracked result (R175) -/

theorem complete_regs {w : Weft} {op : Nat} {p : Pend} (h : w.pend.find? (fun q => q.op == some op) = some p)
    (hr : risesFrom 0 w.regs) (hn : (p.vals.map (·.1)).Nodup) (k : Nat) :
    sget 0 (w.complete op).regs k = (lookupKey k p.vals).getD (sget 0 w.regs k) := by
  simp only [Weft.complete, h]
  exact sget_put p.pz hr hn k

theorem complete_newest {w : Weft} {op : Nat} {p : Pend} (h : w.pend.find? (fun q => q.op == some op) = some p)
    (hr : risesFrom 0 w.regs) (hn : (p.vals.map (·.1)).Nodup) (k : Nat) : (w.complete op).newest k = w.newest k := by
  have hrest := newestIn_put (r := (w.regs, w.poison)) p.pz hr hn k ((w.pend.dropWhile (fun q => q.op != some op)).drop 1)
  rw [← newestIn_cons] at hrest
  have hall := newestIn_append_congr hrest (w.pend.takeWhile (fun q => q.op != some op))
  rw [← pend_split h] at hall
  simp only [Weft.newest, Weft.complete, h]
  exact hall

theorem partDone_complete_flags (w : Weft) (op id : Nat) : ((w.complete op).partDone id).flags = (w.partDone id).flags := by
  unfold Weft.partDone
  rw [weft_complete_tracks]
  split
  · exact weft_complete_flags w op
  · split
    · unfold Weft.flagDown
      split <;> simp
    · exact weft_complete_flags w op

theorem unitResultComplete_of_result {s : State} {w id : Nat} (hw : s.hasWeft w = true) (h : s.unitResult (s.weft w) id = true) :
    ∃ t, exec (.unitResultComplete w id) s = .next t ∧ t.mem = s.mem ∧ (∀ v, v ≠ w → t.weft v = s.weft v) ∧
      t.weft w = ((s.weft w).complete id).partDone id := by
  have hid : ∀ y : Weft, (y.complete id).id = y.id := fun y => weft_complete_id y id
  have hhas : (s.modBoth w (fun y => y.complete id)).hasWeft w = true := (hasWeft_modWeft (s := s) hid).trans hw
  refine ⟨(s.modBoth w (fun y => y.complete id)).partDone w id, ?_, rfl, fun v hv => ?_, ?_⟩
  · show execUnitResultComplete w id s = _
    rw [execUnitResultComplete, if_pos h]
  · exact (partDone_weft_ne hv).trans (weft_modWeft_ne (s := s) hid hv)
  · rw [partDone_weft hhas]
    exact congrArg (fun y : Weft => y.partDone id) (weft_modWeft_self (s := s) hid hw)

/-! ### Parts of a counted instruction (R305) -/

theorem partDone_last {w : Weft} {t : Track} (h : w.tracks.find? (fun x => x.id == t.id) = some t) (hl : t.left ≤ 1) :
    (w.partDone t.id).flags = (if t.flag = 0 then w.flags else w.flags.modify t.flag (· - 1)) ∧
      (w.partDone t.id).tracks = w.tracks.eraseP (fun x => x.id == t.id) := by
  simp only [Weft.partDone, h, hl, if_true, Weft.flagDown]
  split <;> exact ⟨rfl, rfl⟩

theorem partDone_more {w : Weft} {t : Track} (h : w.tracks.find? (fun x => x.id == t.id) = some t) (hl : 1 < t.left) :
    (w.partDone t.id).flags = w.flags ∧
      (w.partDone t.id).tracks = w.tracks.map (fun x => if x.id = t.id then { x with left := x.left - 1 } else x) := by
  simp only [Weft.partDone, h, Nat.not_le.2 hl, if_false, and_self]

/-! ### Window accesses (R104 to R107) -/

theorem tiles_not_busy {s : State} {bs : List Wr} (h : ∀ b ∈ bs, s.tileBusy s.mwWrites b.loc = false) :
    (bs.map (·.loc)).any (s.tileBusy s.mwWrites) = false := by
  rw [List.any_map, List.any_eq_false]
  exact fun b hb => by simp [h b hb]

section
variable {s : State} {id : Nat} {a : WinAcc} (hid : s.wins.find? (fun q => q.id == id) = some a)
  (hturn : s.wins.find? (fun q => q.core == a.core) = some a)
  (hfree : ∀ b ∈ a.bytes, s.tileBusy s.mwWrites b.loc = false ∧ s.absentAt b.loc = false)
  (hpads : s.padHolds (s.weft a.weft).panel (a.bytes.map (·.loc)) = none)
include hid hturn hfree hpads

theorem windowAccess_store (hl : a.load = none) :
    exec (.windowAccess id) s = .next ((({ s with wins := s.wins.filter (fun q => q.id != id) } : State).landBy (s.weft a.weft).panel a.core
      a.bytes 0 id).doneIf a.weft a.track) := by
  have hbusy := tiles_not_busy (s := s) fun b hb => (hfree b hb).1
  have hpresent : a.bytes.filter (fun b => !s.absentAt b.loc) = a.bytes := List.filter_eq_self.2 fun b hb => by simp [(hfree b hb).2]
  show execWindowAccess id s = _
  simp only [execWindowAccess, hid, hturn, hbusy, hpads, hl, hpresent, bne_self_eq_false, Option.isSome_none, Bool.or_self,
    Bool.false_eq_true, if_false]

theorem windowAccess_load {l : Nat} {ld : LoadRec} (hl : a.load = some l)
    (hld : (s.weft a.weft).loads.find? (fun x => x.id == l) = some ld) :
    let s1 : State := { s with wins := s.wins.filter (fun q => q.id != id) }
    exec (.windowAccess id) s = .next (s1.modBoth a.weft (fun w => w.putLoad (s1.winTaken (s.weft a.weft) ld))) := by
  have hbusy := tiles_not_busy (s := s) fun b hb => (hfree b hb).1
  show execWindowAccess id s = _
  simp only [execWindowAccess, hid, hturn, hbusy, hpads, hl, hld, bne_self_eq_false, Option.isSome_none, Bool.or_self,
    Bool.false_eq_true, if_false]

end

/-- Where no REPLAY panel is concerned, bytes that land are bytes written (R149). -/
theorem landBy_of_not_replay {s : State} {pid core : Nat} {ws : List Wr} (src id : Nat) (hown : (s.panel pid).launch.replay = false)
    (hpads : ∀ p ∈ s.padsOf pid (ws.map (·.loc)), p.launch.replay = false) : s.landBy pid core ws src id = s.writeBy core ws src := by
  refine foldl_eq_self fun p hp => inbound_of_not_replay ?_ _
  rcases List.mem_append.1 hp with hp | hp
  · exact hpads p hp
  · rw [State.keptOf] at hp
    split at hp
    · rw [List.mem_singleton.1 hp, hown]
    · cases hp

/-! ### Remote accesses (R82) -/

theorem remoteAccess_outbound {s : State} {id : Nat} {a : RemAcc} (hid : s.rems.find? (fun q => q.id == id) = some a)
    (hturn : s.rems.find? (fun q => q.core == a.core) = some a) (resolved : Bool) :
    exec (.remoteAccess (.outbound id resolved)) s = .next (if resolved
      then ({ s with rems := s.rems.filter (fun q => q.id != id) } : State).remotePerform a
      else ({ s with rems := s.rems.filter (fun q => q.id != id) } : State).remoteFault a) := by
  show execRemoteAccess (.outbound id resolved) s = _
  simp only [execRemoteAccess, hid, hturn, bne_self_eq_false, Bool.false_eq_true, if_false]

theorem remotePerform_store {s : State} {a : RemAcc} (hl : a.load = none) :
    s.remotePerform a = (s.write a.bytes).doneIf a.weft a.track := by
  simp only [State.remotePerform, hl]

theorem remotePerform_atomic {s : State} {a : RemAcc} {l : Nat} {op : AtomOp} {b d : DWord} (hl : a.load = some l)
    (ha : a.atom = some (op, b, d)) :
    let ls := a.bytes.map (·.loc)
    s.remotePerform a = (s.write (wrs ls (natLE ls.length (op.new (8 * ls.length) (s.leAt ls) b.toNat d.toNat)))).atomDone a.weft l
      (s.read ls) := by
  simp only [State.remotePerform, hl, ha, atomBytes]

theorem remotePerform_load {s : State} {a : RemAcc} {l : Nat} {ld : LoadRec} (hl : a.load = some l) (ha : a.atom = none)
    (hld : (s.weft a.weft).loads.find? (fun x => x.id == l) = some ld) :
    s.remotePerform a = s.modBoth a.weft (fun w => w.putLoad (s.taken (s.weft a.weft) ld)) := by
  simp only [State.remotePerform, hl, ha, hld]

theorem remoteFault_store {s : State} {a : RemAcc} (hl : a.load = none) :
    s.remoteFault a = (s.doneIf a.weft a.track).faultLanes a.weft a.pc a.hdr a.cls
      [(a.lane, ⟨.page, 5, a.addr, 0, a.addr >>> 16 <<< 16⟩)] := by
  simp only [State.remoteFault, hl, pageFault]

/-! ### Accesses by other packages (R82) -/

/-- Taking the results of walks changes walks and dies alone. -/
theorem takeWalks_frame (s : State) (who : Nat) : (s.takeWalks who).mem = s.mem ∧ (s.takeWalks who).inRems = s.inRems := by
  have hats : (s.takeAts (whoDie who)).mem = s.mem ∧ (s.takeAts (whoDie who)).inRems = s.inRems := by
    rw [State.takeAts]
    split <;> exact ⟨rfl, rfl⟩
  rw [State.takeWalks]
  split <;> exact hats

/-- An access whose page is not there is held for the pager. -/
theorem inboundStep_of_fault {s : State} {q : InRem} {f : LFault} (h : s.inboundLocs q q.len = .fault f) :
    (s.inboundStep q).mem = s.mem ∧
      (s.inboundStep q).inRems = s.inRems.map (fun z => if z.id = q.id then { z with held := true } else z) := by
  rw [State.inboundStep, h]
  exact takeWalks_frame _ _

theorem inboundStep_store {s : State} {q : InRem} {ls : List Loc} {bs : List Byte} (h : s.inboundLocs q q.len = .ok ls)
    (hs : q.store = some bs) : s.inboundStep q =
      (({ s with inRems := s.inRems.filter (fun z => z.id != q.id) } : State).landBy 0 noCore (wrs ls bs)).takeWalks q.who := by
  simp only [State.inboundStep, h, State.inboundDone, hs]

theorem PkgMemOnly.wire {s t : State} (h : PkgMemOnly s t) : t.wire = s.wire := congrArg (fun x => x.wire) h

theorem allocAll_wire (s : State) (ls : List Loc) : (s.allocAll ls).wire = s.wire := by
  refine foldl_keeps (fun y : State => y.wire) (fun y l => ?_) ls s
  cases l with
  | hbm pa k c => exact (allocLine_pkgMemOnly y pa k c).wire
  | chip | zero | host | remote => rfl

theorem inboundStep_load {s : State} {q : InRem} {ls : List Loc} (h : s.inboundLocs q q.len = .ok ls) (hs : q.store = none)
    (ha : q.atom = none) :
    let y : State := { s with inRems := s.inRems.filter (fun z => z.id != q.id) }
    s.inboundStep q = ({ y.allocAll ls with wire := y.wire ++ [.remoteData (ls.map s.byteAt)] } : State).takeWalks q.who := by
  intro y
  have hbytes : y.byteAt = s.byteAt := rfl
  have hstep : s.inboundStep q =
      ({ y.allocAll ls with wire := (y.allocAll ls).wire ++ [.remoteData (ls.map y.byteAt)] } : State).takeWalks q.who := by
    rw [State.inboundStep, h]
    dsimp only
    rw [State.inboundDone, hs, ha]
  rw [hstep, allocAll_wire, hbytes]

/-! ### O36 -/

/-- Settles O36: the end of a tracked result by `complete_regs` and `complete_newest`, the parts of an instruction by the cases of
`Weft.partDone`, and each access by where it arrives. -/
theorem completionsAndWindows : Obligations.CompletionsAndWindows := by
  unfold Obligations.CompletionsAndWindows
  refine ⟨⟨?_, fun w t h => ⟨partDone_last h, partDone_more h⟩⟩, ?_, fun s pid core ws src id => landBy_of_not_replay src id, ?_,
    fun s root pgsz okey off store n => rfl, fun s q => ⟨?_, fun f => inboundStep_of_fault, fun ls h => ⟨fun bs => inboundStep_store h,
      inboundStep_load h⟩⟩⟩
  · intro s w id p hres hw hp hn hr
    obtain ⟨t, hexec, hmem, hothers, hweft⟩ := unitResultComplete_of_result hw hres
    refine ⟨t, hexec, hmem, hothers, fun k => ?_, fun k => ?_, ?_, ?_⟩
    · rw [hweft, weft_partDone_regs, complete_regs hp hr hn]
    · rw [hweft, ← complete_newest hp hr hn]
      simp only [Weft.newest, weft_partDone_regs, weft_partDone_pend]
    · rw [hweft, weft_partDone_lanes, weft_complete_lanes]
    · rw [hweft, partDone_complete_flags]
  · intro s id a hid hturn hfree hpads
    exact ⟨windowAccess_store hid hturn hfree hpads, fun l ld => windowAccess_load hid hturn hfree hpads⟩
  · intro s id a hid hturn
    have hout := remoteAccess_outbound hid hturn
    refine ⟨fun hl => ?_, fun l op b d hl ha => ?_, fun l ld hl ha hld => ?_, fun hl => ?_⟩
    · rw [hout, if_pos rfl, remotePerform_store hl]
    · rw [hout, if_pos rfl, remotePerform_atomic hl ha]
    · rw [hout, if_pos rfl]
      exact congrArg Host.Outcome.next (remotePerform_load (s := { s with rems := s.rems.filter (fun q => q.id != id) }) hl ha hld)
    · rw [hout, if_neg (by simp), remoteFault_store hl]
  · intro ps h
    rw [State.inboundStep, h]

end Sys2Proof.Proofs
end

section
/-! SUPPORT. Issue slots (R169 to R171): what the beginning of a slot changes, the wefts of a core, the choice of a weft and of its paths,
and the slot of the weft that gets it (O48). -/
namespace Sys2Proof.Proofs
open Sys2Proof Sys2Proof.Machine

/-! ### The beginning of a slot (R169, R175) -/

/-- The end of fixed-latency parts changes counts alone. -/
theorem endFixed_uncounted (w : Weft) (slot picks : Nat) : (w.endFixed slot picks).uncounted = w.uncounted := by
  have hparts : ∀ (ds : List (Nat × Nat)) (id : Nat) (y : Weft), (ds.foldl (fun y _ => y.partDone id) y).uncounted = y.uncounted := by
    intro ds id
    induction ds with
    | nil => exact fun _ => rfl
    | cons d ds ih => exact fun y => (ih _).trans (partDone_uncounted y id)
  unfold Weft.endFixed
  refine List.foldlRecOn (motive := fun y : Weft => y.uncounted = w.uncounted) w.tracks _ rfl fun y hy t _ => ?_
  dsimp only
  split
  · exact hy
  · exact (hparts _ _ _).trans hy

/-- What the beginning of a slot does to a weft. -/
def endFixedOn (s : State) (core : Nat) (w : Weft) : Weft :=
  if w.core = core then w.endFixed ((s.core core).slot + 1) (s.core core).picks else w

theorem endFixedOn_uncounted (s : State) (core : Nat) (w : Weft) : (endFixedOn s core w).uncounted = w.uncounted := by
  unfold endFixedOn
  split
  · exact endFixed_uncounted _ _ _
  · rfl

/-- The beginning of a slot changes the core's counter and clock, TIME, what the core still sees late, and the counts of its wefts. -/
theorem beginSlot_eq (s : State) (core : Nat) : ∃ late : List Stale, s.beginSlot core =
    { s.modCore core (fun c => { c with slot := c.slot + 1, slotAt := s.time + Config.freeTick s.fresh }) with
      stale := late
      time := s.time + Config.freeTick s.fresh
      fresh := s.fresh + 1
      wefts := s.wefts.map (endFixedOn s core) } := by
  unfold State.beginSlot State.catchUp
  dsimp only
  split
  · exact ⟨s.stale, rfl⟩
  · exact ⟨_, rfl⟩

theorem beginSlot_core_slot {s : State} (h : risesFrom 0 s.cores) (core : Nat) :
    ((s.beginSlot core).core core).slot = (s.core core).slot + 1 := by
  obtain ⟨late, hs⟩ := beginSlot_eq s core
  have hcore := core_modCore h core core (fun c => { c with slot := c.slot + 1, slotAt := s.time + Config.freeTick s.fresh })
  rw [if_pos rfl] at hcore
  rw [hs]
  exact (congrArg CoreSt.slot hcore :)

/-! ### The wefts of a core (R170) -/

/-- The running wefts of a core stay when wefts change in their counts alone. -/
theorem coreWefts_of_map {s t : State} {f : Weft → Weft} (hf : ∀ w, (f w).uncounted = w.uncounted) (hp : t.panels = s.panels)
    (hw : t.wefts = s.wefts.map f) (core : Nat) : t.coreWefts core = s.coreWefts core := by
  have hid : ∀ w, (f w).id = w.id := fun w => (congrArg Weft.id (hf w) :)
  have hpanel : ∀ w, (f w).panel = w.panel := fun w => (congrArg Weft.panel (hf w) :)
  have hcore : ∀ w, (f w).core = w.core := fun w => (congrArg Weft.core (hf w) :)
  have hslot : ∀ w, (f w).slotNo = w.slotNo := fun w => (congrArg Weft.slotNo (hf w) :)
  have hpanels : ∀ n, t.panel n = s.panel n := fun n => by rw [State.panel, hp]; rfl
  unfold State.coreWefts
  rw [hw]
  refine congrArg (fun g => (List.range 16).filterMap g) (funext fun k => ?_)
  rw [List.find?_map, Option.map_map]
  simp only [Function.comp_def, hid, hpanel, hcore, hslot, hpanels]

theorem beginSlot_coreWefts (s : State) (core : Nat) : (s.beginSlot core).coreWefts core = s.coreWefts core := by
  obtain ⟨late, hs⟩ := beginSlot_eq s core
  rw [hs]
  exact coreWefts_of_map (s := s) (t := { s with wefts := s.wefts.map (endFixedOn s core) }) (endFixedOn_uncounted s core) rfl rfl core

theorem haltRecords_of_no_wefts {s : State} {core : Nat} (h : s.coreWefts core = []) : s.haltRecords core = s := by
  rw [State.haltRecords, h]
  rfl

/-! ### The choice of a weft (R170) -/

/-- The weft of a core in a slot number, where it can issue. -/
def readyIn (s : State) (core slot n : Nat) : Option Weft :=
  ((s.coreWefts core).map s.weft).find? (fun w => w.slotNo == n && !(s.readyPaths w slot).isEmpty)

theorem chooseWeft_eq (s : State) (core slot : Nat) : s.chooseWeft core slot =
    (((s.core core).lastWeft :: roundRobin (s.core core).lastWeft).findSome? (fun n => (readyIn s core slot n).filter Weft.clauseOpen)).or
      ((roundRobin (s.core core).lastWeft).findSome? (readyIn s core slot)) := by
  unfold State.chooseWeft readyIn
  dsimp only
  split
  · next w hw => rw [hw]; rfl
  · next hw => rw [hw]; rfl

theorem readyIn_some {s : State} {core slot n : Nat} {w : Weft} (h : readyIn s core slot n = some w) :
    w ∈ (s.coreWefts core).map s.weft ∧ s.readyPaths w slot ≠ [] := by
  refine ⟨List.mem_of_find?_eq_some h, ?_⟩
  have hready := List.find?_some h
  rw [Bool.and_eq_true] at hready
  simpa using hready.2

theorem chooseWeft_some {s : State} {core slot : Nat} {w : Weft} (h : s.chooseWeft core slot = some w) :
    w ∈ (s.coreWefts core).map s.weft ∧ s.readyPaths w slot ≠ [] := by
  rw [chooseWeft_eq, Option.or_eq_some_iff] at h
  rcases h with h | ⟨-, h⟩
  · obtain ⟨n, -, hn⟩ := List.exists_of_findSome?_eq_some h
    exact readyIn_some (Option.filter_eq_some_iff.1 hn).1
  · obtain ⟨n, -, hn⟩ := List.exists_of_findSome?_eq_some h
    exact readyIn_some hn

/-- The round robin comes to every slot number. -/
theorem mem_roundRobin (last : Nat) {n : Nat} (h : n < 16) : n ∈ roundRobin last := by
  refine List.mem_map.2 ⟨(n + 16 - (last + 1) % 16) % 16, List.mem_range.2 (Nat.mod_lt _ (by decide)), ?_⟩
  omega

theorem chooseWeft_none {s : State} {core slot : Nat} (h : s.chooseWeft core slot = none) {w : Weft}
    (hw : w ∈ (s.coreWefts core).map s.weft) (hn : w.slotNo < 16) : s.readyPaths w slot = [] := by
  rw [chooseWeft_eq, Option.or_eq_none_iff] at h
  have hnone := List.findSome?_eq_none_iff.1 h.2 w.slotNo (mem_roundRobin _ hn)
  simpa using List.find?_eq_none.1 hnone w hw

theorem chooseWeft_of_no_wefts {s : State} {core slot : Nat} (h : s.coreWefts core = []) : s.chooseWeft core slot = none := by
  refine Option.eq_none_iff_forall_ne_some.2 fun w hw => ?_
  have := (chooseWeft_some hw).1
  rw [h] at this
  cases this

/-- A core without a running weft only counts the slot. -/
theorem issueSlot_of_no_wefts {s : State} {core : Nat} (hslot : s.slot = []) (h : s.coreWefts core = []) :
    exec (.issueSlot core) s = .next (s.beginSlot core) := by
  have hbegun : (s.beginSlot core).coreWefts core = [] := (beginSlot_coreWefts s core).trans h
  show execIssueSlot core s = _
  unfold execIssueSlot
  simp only [hslot, haltRecords_of_no_wefts hbegun, hbegun, chooseWeft_of_no_wefts hbegun, List.isEmpty_nil, Bool.not_true,
    Bool.false_eq_true, if_false, List.map_nil, List.foldl_nil, ite_self]

/-! ### The best path (R171) -/

/-- The place of a code address in the order of addresses: the offset decides first (R166). -/
def pcRank (a : DWord) : Nat := (offOf a).toNat * 2 ^ 24 + (segOf a).toNat

theorem pcLt_iff (a b : DWord) : pcLt a b = true ↔ pcRank a < pcRank b := by
  have ha := (segOf a).isLt
  have hb := (segOf b).isLt
  simp only [pcLt, pcRank, Bool.or_eq_true, Bool.and_eq_true, decide_eq_true_eq, beq_iff_eq, BitVec.lt_def, ← BitVec.toNat_inj]
  omega

theorem before_iff (a b : Machine.Path) :
    a.before b = true ↔ b.lanes.length < a.lanes.length ∨ b.lanes.length = a.lanes.length ∧ pcRank a.pc < pcRank b.pc := by
  simp only [Path.before, Bool.or_eq_true, Bool.and_eq_true, decide_eq_true_eq, beq_iff_eq, pcLt_iff]

/-- A path that is not behind one which is not behind another is not behind that either. -/
theorem not_before_trans {a b c : Machine.Path} (hab : b.before a = false) (hbc : c.before b = false) : c.before a = false := by
  rw [Bool.eq_false_iff, ne_eq, before_iff] at hab hbc ⊢
  omega

theorem not_before_of_before {a b : Machine.Path} (h : a.before b = true) : b.before a = false := by
  rw [Bool.eq_false_iff, ne_eq, before_iff]
  rw [before_iff] at h
  omega

/-- The better of the best path so far and another. -/
def better (b : Option Machine.Path) (p : Machine.Path) : Option Machine.Path :=
  match b with
  | none => some p
  | some q => if p.before q then some p else some q

theorem foldl_better (ps : List Machine.Path) (q : Machine.Path) :
    ∃ a, ps.foldl better (some q) = some a ∧ a ∈ q :: ps ∧ ∀ b ∈ q :: ps, b.before a = false := by
  induction ps generalizing q with
  | nil => exact ⟨q, rfl, by simp, by simp [Bool.eq_false_iff, before_iff]⟩
  | cons p ps ih =>
    by_cases hp : p.before q = true
    · obtain ⟨a, hfold, hmem, hbest⟩ := ih p
      have hstep : better (some q) p = some p := if_pos hp
      refine ⟨a, by rw [List.foldl_cons, hstep, hfold], List.mem_cons_of_mem q hmem, fun b hb => ?_⟩
      rcases List.mem_cons.1 hb with rfl | hb
      · exact not_before_trans (hbest p List.mem_cons_self) (not_before_of_before hp)
      · exact hbest b hb
    · obtain ⟨a, hfold, hmem, hbest⟩ := ih q
      have hstep : better (some q) p = some q := if_neg hp
      refine ⟨a, by rw [List.foldl_cons, hstep, hfold], ?_, fun b hb => ?_⟩
      · rcases List.mem_cons.1 hmem with rfl | hmem
        · exact List.mem_cons_self
        · exact List.mem_cons_of_mem _ (List.mem_cons_of_mem _ hmem)
      · rcases List.mem_cons.1 hb with rfl | hb
        · exact hbest b List.mem_cons_self
        · rcases List.mem_cons.1 hb with rfl | hb
          · exact not_before_trans (hbest q List.mem_cons_self) (Bool.eq_false_iff.2 hp)
          · exact hbest b (List.mem_cons_of_mem _ hb)

theorem bestPath_cons (q : Machine.Path) (ps : List Machine.Path) :
    ∃ a, bestPath (q :: ps) = some a ∧ a ∈ q :: ps ∧ ∀ b ∈ q :: ps, b.before a = false := foldl_better ps q

theorem bestPath_eq_none_iff (ps : List Machine.Path) : bestPath ps = none ↔ ps = [] := by
  cases ps with
  | nil => simp [bestPath]
  | cons q ps =>
    obtain ⟨a, ha, -⟩ := bestPath_cons q ps
    simp [ha]

theorem bestPath_some {ps : List Machine.Path} {a : Machine.Path} (h : bestPath ps = some a) :
    a ∈ ps ∧ ∀ b ∈ ps, b.before a = false := by
  cases ps with
  | nil => cases h
  | cons q ps =>
    obtain ⟨c, hc, hmem, hbest⟩ := bestPath_cons q ps
    rw [hc, Option.some.injEq] at h
    exact h ▸ ⟨hmem, hbest⟩

/-! ### The slot of the chosen weft (R170, R177) -/

/-- A slot charged to wefts that do not issue changes contexts' counters and wefts alone; no context gets a debugger. -/
structure ChargeFrame (s t : State) : Prop where
  rest  : t = { s with ctxs := t.ctxs, wefts := t.wefts }
  debug : (∀ c ∈ s.ctxs, c.debug = false) → ∀ c ∈ t.ctxs, c.debug = false

theorem ChargeFrame.refl (s : State) : ChargeFrame s s := ⟨rfl, id⟩

theorem ChargeFrame.trans {s t u : State} (a : ChargeFrame s t) (b : ChargeFrame t u) : ChargeFrame s u := by
  refine ⟨?_, b.debug ∘ a.debug⟩
  have hu := b.rest
  rw [a.rest] at hu
  exact hu

theorem ChargeFrame.foldl {β : Type} {f : State → β → State} (h : ∀ y b, ChargeFrame y (f y b)) (l : List β) (s : State) :
    ChargeFrame s (l.foldl f s) := by
  induction l generalizing s with
  | nil => exact ChargeFrame.refl s
  | cons b l ih => exact (h s b).trans (ih _)

theorem modCount_chargeFrame (s : State) (c : CtxId) (leaf : Nat) (f : Nat → Nat) : ChargeFrame s (s.modCount c leaf f) := by
  refine ⟨rfl, fun h x hx => ?_⟩
  obtain ⟨y, hy, rfl⟩ := List.mem_map.1 hx
  split <;> exact h y hy

theorem charge_chargeFrame (s : State) (w : Weft) (leaf : Nat) : ChargeFrame s (s.charge w leaf) :=
  (modCount_chargeFrame s _ 0 _).trans (modCount_chargeFrame _ _ leaf _)

theorem modWeft_chargeFrame (s : State) (w : Nat) (f : Weft → Weft) : ChargeFrame s (s.modWeft w f) := ⟨rfl, id⟩

theorem chargeIdle_chargeFrame (s : State) (slot picks wid : Nat) (leaf : Option Nat) :
    ChargeFrame s (s.chargeIdle slot picks wid leaf) := by
  unfold State.chargeIdle
  dsimp only
  split
  · exact ChargeFrame.refl s
  · split
    · exact (charge_chargeFrame _ _ _).trans (modWeft_chargeFrame _ _ _)
    · exact charge_chargeFrame _ _ _

theorem ChargeFrame.readyPaths {s t : State} (h : ChargeFrame s t) (w : Weft) (slot : Nat) : t.readyPaths w slot = s.readyPaths w slot := by
  rw [h.rest]
  rfl

/-! ### Breakpoints (R475, R477) -/

theorem ctx_debug {s : State} (h : ∀ c ∈ s.ctxs, c.debug = false) (c : CtxId) : (s.ctx c).debug = false := by
  unfold State.ctx
  cases hf : s.ctxs.find? (fun x => x.id == c) with
  | none => rfl
  | some x => exact h x (List.mem_of_find?_eq_some hf)

theorem sget_eq_default_or_mem {α : Type} (d : α) (m : List (Nat × α)) (i : Nat) : sget d m i = d ∨ ∃ p ∈ m, sget d m i = p.2 := by
  induction m with
  | nil => exact .inl rfl
  | cons p m ih =>
    rw [sget]
    split
    · exact .inl rfl
    · split
      · exact .inr ⟨p, List.mem_cons_self, rfl⟩
      · exact ih.imp_right fun ⟨q, hq, h⟩ => ⟨q, List.mem_cons_of_mem p hq, h⟩

theorem core_trace_length {s : State} (h : ∀ k ∈ s.cores, k.2.trace.length ≤ 64) (c : Nat) : (s.core c).trace.length ≤ 64 := by
  rcases sget_eq_default_or_mem CoreSt.reset s.cores c with hd | ⟨p, hp, hv⟩
  · rw [State.core, hd]
    decide
  · rw [State.core, hv]
    exact h p hp

/-- Without a debugger no breakpoint fires: the words of a slot go on. -/
theorem slotBreaks_of_no_debug {s : State} (hd : ∀ c ∈ s.ctxs, c.debug = false) (ht : ∀ k ∈ s.cores, k.2.trace.length ≤ 64) (wid : Nat)
    (xs : List SlotWord) : s.slotBreaks wid xs = .on s := by
  have hgo : ∀ a l1 a2 l2, s.breakAt wid a l1 a2 l2 = .on s := by
    intro a l1 a2 l2
    have hhits : s.bpHits (s.weft wid) a l1 = [] := by
      rw [State.bpHits, ctx_debug hd]
      rfl
    have hroom : ¬ Config.traceEntries < (s.core (s.weft wid).core).trace.length := Nat.not_lt.2 (core_trace_length ht _)
    simp only [State.breakAt, hhits, List.filter_nil, List.length_nil, List.isEmpty_nil, if_true, Nat.add_zero,
      if_neg hroom, List.foldl_nil]
  induction xs with
  | nil => rfl
  | cons x xs ih =>
    rw [State.slotBreaks, hgo]
    exact ih

theorem issueWords_mem (s : State) (w : Weft) (slot : Nat) (a : Machine.Path) (b : Option Machine.Path) :
    (s.issueWords w slot a b).mem = s.mem := rfl

theorem issueWords_slot (s : State) (w : Weft) (slot : Nat) (a : Machine.Path) (b : Option Machine.Path) :
    (s.issueWords w slot a b).slot = slotWords w.id slot a b := rfl

/-- The chosen weft gives the slot to its best path, and to the best of its other paths beside it. -/
theorem issueWeft_of_no_debug {s : State} {w : Weft} {slot : Nat} (picks : Nat) {a : Machine.Path}
    (ha : bestPath (s.readyPaths w slot) = some a)
    (hd : ∀ c ∈ s.ctxs, c.debug = false) (ht : ∀ k ∈ s.cores, k.2.trace.length ≤ 64) :
    s.issueWeft w slot picks = s.issueWords w slot a (bestPath ((s.readyPaths w slot).filter (· != a))) := by
  simp only [State.issueWeft, ha, slotBreaks_of_no_debug hd ht]

/-- A core's state when a slot has begun, its halts recorded. -/
def begun (s : State) (core : Nat) : State := (s.beginSlot core).haltRecords core

/-- A core's state when the wefts have been prepared for a slot. -/
def prepared (s : State) (core : Nat) : State :=
  ((begun s core).coreWefts core).foldl (fun y v => y.prepare ((begun s core).core core).slot v) (begun s core)

/-- A core's state when the slot has been charged to every weft but the one that gets it. -/
def charged (s : State) (core : Nat) (w : Weft) : State :=
  (((begun s core).coreWefts core).filter (· != w.id)).foldl
    (fun y v => y.chargeIdle ((begun s core).core core).slot ((begun s core).core core).picks v none) (prepared s core)

/-- The wefts of a core that have lanes held when a slot begins, with those lanes, which try their words again after it (R348). -/
def heldBefore (s : State) (core : Nat) : List (Nat × List Nat) :=
  ((begun s core).coreWefts core).map (fun v =>
    (v, (List.range 32).filter (fun i => (((begun s core).weft v).lane i).st == .parked .held)))

theorem retry_frame (ws : List (Nat × List Nat)) (s : State) :
    (ws.foldl (fun z q => z.modWeft q.1 (fun w => w.retryHeld q.2)) s).mem = s.mem ∧
      (ws.foldl (fun z q => z.modWeft q.1 (fun w => w.retryHeld q.2)) s).slot = s.slot :=
  ⟨foldl_keeps State.mem (fun y q => modWeft_mem y q.1 _) ws s, foldl_keeps State.slot (fun y q => modWeft_slot y q.1 _) ws s⟩

/-- A slot that is not withheld goes to the weft chosen, the others being charged. -/
theorem issueSlot_of_choice {s : State} {core : Nat} {w : Weft} (hslot : s.slot = [])
    (hthrottle : ((prepared s core).die (coreDie core)).throttled = false)
    (hchoice : (prepared s core).chooseWeft core ((begun s core).core core).slot = some w) :
    exec (.issueSlot core) s = .next ((heldBefore s core).foldl (fun z q => z.modWeft q.1 (fun w => w.retryHeld q.2))
      ((charged s core w).issueWeft w ((begun s core).core core).slot ((begun s core).core core).picks)) := by
  unfold prepared begun at hthrottle hchoice
  show execIssueSlot core s = _
  simp only [execIssueSlot, hslot, List.isEmpty_nil, Bool.not_true, Bool.false_eq_true, if_false, hthrottle, Bool.false_and, hchoice]
  rfl

theorem charged_chargeFrame (s : State) (core : Nat) (w : Weft) : ChargeFrame (prepared s core) (charged s core w) :=
  ChargeFrame.foldl (fun y v => chargeIdle_chargeFrame y _ _ v none) _ _

/-- Without a debugger the words of the chosen weft's paths are what the slot performs next. -/
theorem issueSlot_words {s : State} {core : Nat} {w : Weft} {a : Machine.Path} (hslot : s.slot = [])
    (hthrottle : ((prepared s core).die (coreDie core)).throttled = false)
    (hchoice : (prepared s core).chooseWeft core ((begun s core).core core).slot = some w)
    (ha : bestPath ((prepared s core).readyPaths w ((begun s core).core core).slot) = some a)
    (hd : ∀ c ∈ (prepared s core).ctxs, c.debug = false) (ht : ∀ k ∈ (prepared s core).cores, k.2.trace.length ≤ 64) :
    ∃ t, exec (.issueSlot core) s = .next t ∧ t.mem = (prepared s core).mem ∧ t.slot = slotWords w.id ((begun s core).core core).slot a
      (bestPath (((prepared s core).readyPaths w ((begun s core).core core).slot).filter (· != a))) := by
  have hframe := charged_chargeFrame s core w
  have hcores : (charged s core w).cores = (prepared s core).cores := (congrArg State.cores hframe.rest :)
  have hmem : (charged s core w).mem = (prepared s core).mem := (congrArg State.mem hframe.rest :)
  have hexec := issueSlot_of_choice hslot hthrottle hchoice
  rw [issueWeft_of_no_debug _ (by rw [hframe.readyPaths, ha]) (hframe.debug hd) (hcores ▸ ht), hframe.readyPaths] at hexec
  obtain ⟨hretryMem, hretrySlot⟩ := retry_frame (heldBefore s core) ((charged s core w).issueWords w ((begun s core).core core).slot a
    (bestPath (((prepared s core).readyPaths w ((begun s core).core core).slot).filter (· != a))))
  rw [issueWords_mem, hmem] at hretryMem
  rw [issueWords_slot] at hretrySlot
  exact ⟨_, hexec, hretryMem, hretrySlot⟩

/-! ### O48 -/

/-- Settles O48: the beginning of a slot by `beginSlot_eq`, the choice by `chooseWeft_eq` and the order of paths by `foldl_better`; the
charges of the other wefts and the breakpoints leave the chosen weft its slot. -/
theorem issueSlots : Obligations.IssueSlots := by
  unfold Obligations.IssueSlots
  refine ⟨fun s core => issueSlot_of_no_wefts, fun s core hcores _ => ?_, fun w slot picks => ?_,
    fun s core w a hslot => issueSlot_words hslot, fun s core n => ⟨fun w => chooseWeft_some, fun h w => chooseWeft_none h⟩,
    fun ps => ⟨bestPath_eq_none_iff ps, fun a ha => ?_⟩⟩
  · obtain ⟨late, hs⟩ := beginSlot_eq s core
    refine ⟨beginSlot_core_slot hcores core, ?_⟩
    rw [hs]
    exact ⟨rfl, rfl, rfl⟩
  · have hw := endFixed_uncounted w slot picks
    exact ⟨(congrArg Weft.lanes hw :), (congrArg Weft.regs hw :), (congrArg Weft.sq hw :)⟩
  · obtain ⟨hmem, hbest⟩ := bestPath_some ha
    refine ⟨hmem, fun b hb => ?_⟩
    have hle := hbest b hb
    rw [Bool.eq_false_iff, ne_eq, before_iff] at hle
    rw [Bool.eq_false_iff, ne_eq, pcLt_iff]
    omega

end Sys2Proof.Proofs
end


section
/-! SUPPORT. The forms of the words of format V3 and VI: what the checks of R197 tell of a well-formed word, and the table of forms read
row by row (R195). -/
namespace Sys2Proof.Proofs
open Sys2Proof Sys2Proof.Machine

theorem firstBad_eq_none_iff {field type shape operand : Bool} :
    firstBad field type shape operand = none ↔ field = true ∧ type = true ∧ shape = true ∧ operand = true := by
  simp [firstBad, ite_eq_iff]

theorem check_eq_none_of_wellFormed {i : Instr} (h : i.wellFormed = true) : i.view.check = none := by
  simp only [Instr.wellFormed, Instr.illFormed, Bool.and_eq_true, Option.isNone_iff_eq_none] at h
  exact h.1

/-- A well-formed word of format V3 passes the check of its form. -/
theorem v3Form_check {i : Instr} {op sub : Nat} {c : Common} {ex : Bool} {f : V3} {m : V3Form} (hi : i.view = .fV3 op sub c ex f)
    (hm : (v3Forms op)[sub]? = some m) (h : i.wellFormed = true) : m.check (op == 0x12 && sub == 0) ex f = none := by
  have hc := check_eq_none_of_wellFormed h
  simp only [hi, View.check, hm] at hc
  split at hc
  · cases hc
  · exact hc

/-- A well-formed word of format VI passes the check of its form. -/
theorem viForm_check {i : Instr} {op sub : Nat} {c : Common} {f : VI} {m : VIForm} (hi : i.view = .fVI op sub c f)
    (hm : (viForms op)[sub]? = some m) (h : i.wellFormed = true) : m.check f = none := by
  have hc := check_eq_none_of_wellFormed h
  simp only [hi, View.check, hm] at hc
  split at hc
  · cases hc
  · exact hc

/-- A row of the table of V3 forms gives the types of its word, and whether `.sat` may be set. -/
theorem formsV3_of {mk : Common → V3 → Instr} {op sub : Nat} {tys : List Ty} {sat : Bool}
    (hv : ∀ c f, (mk c f).view = .fV3 op sub c false f)
    (hm : ((v3Forms op)[sub]?).map (fun m => (m.types, m.sat)) = some (tys, sat)) : FormsV3 mk tys sat := by
  intro c f h
  obtain ⟨m, hrow, hts⟩ := Option.map_eq_some_iff.1 hm
  cases hts
  obtain ⟨hfield, htype, -, -⟩ := firstBad_eq_none_iff.1 (v3Form_check (hv c f) hrow h)
  simp only [Bool.and_eq_true] at hfield htype
  obtain ⟨⟨⟨⟨⟨⟨-, hsat⟩, -⟩, -⟩, -⟩, -⟩, -⟩ := hfield
  refine ⟨by simpa using htype.1, fun hs => ?_⟩
  simpa [hs] using hsat

/-- A row of the table of VI forms gives the types of its word. -/
theorem formsVI_of {mk : Common → VI → Instr} {op sub : Nat} {tys : List Ty} (hv : ∀ c f, (mk c f).view = .fVI op sub c f)
    (hm : ((viForms op)[sub]?).map (fun m => m.types) = some tys) : FormsVI mk tys := by
  intro c f h
  obtain ⟨m, hrow, rfl⟩ := Option.map_eq_some_iff.1 hm
  obtain ⟨-, htype, -, -⟩ := firstBad_eq_none_iff.1 (viForm_check (hv c f) hrow h)
  simpa using htype

/-- A well-formed immediate shift has an amount below its width (R247). -/
theorem shiftImm_lt_width {i : Instr} {sub : Nat} {c : Common} {f : VI} {m : VIForm} (hi : i.view = .fVI 0x01 sub c f)
    (hm : (viForms 0x01)[sub]? = some m) (himm : m.imm = shiftOk) (h : i.wellFormed = true) : f.imm.toNat < f.ty.width := by
  obtain ⟨hfield, -, -, -⟩ := firstBad_eq_none_iff.1 (viForm_check hi hm h)
  rw [himm] at hfield
  simp only [Bool.and_eq_true] at hfield
  exact of_decide_eq_true hfield.2

/-- A well-formed `bfe` word does not use field B (R250). -/
theorem bfe_b_eq_zero {c : Common} {f : V3} (h : (Instr.bfe c f).wellFormed = true) : f.b = .v 0 := by
  obtain ⟨hfield, -, -, -⟩ := firstBad_eq_none_iff.1 (v3Form_check (i := .bfe c f) rfl rfl h)
  simp only [Bool.and_eq_true] at hfield
  obtain ⟨⟨-, hb⟩, -⟩ := hfield
  simpa [v3abc, unused, OC.no, OC.fieldOk] using hb

/-- The table of a well-formed `bperm` word is six scalars that exist (R257). -/
theorem bperm_table {c : Common} {f : V3} (h : (Instr.bperm c f).wellFormed = true) : ∃ n, f.b = .s n ∧ n.toNat ≤ 58 := by
  obtain ⟨-, -, -, hop⟩ := firstBad_eq_none_iff.1 (v3Form_check (i := .bperm c f) rfl rfl h)
  simp only [Bool.and_eq_true] at hop
  obtain ⟨⟨-, hb⟩, -⟩ := hop
  cases hfb : f.b with
  | s n => exact ⟨n, rfl, by simpa [hfb, v3ab, OC.table, OC.operandOk] using hb⟩
  | v n => simp [hfb, v3ab, OC.table, OC.operandOk] at hb
  | zero => simp [hfb, v3ab, OC.table, OC.operandOk] at hb
  | lane => simp [hfb, v3ab, OC.table, OC.operandOk] at hb

end Sys2Proof.Proofs
end

section
/-! SUPPORT. Integers in registers: the functions of R240 on numbers, seen as the integers that bit patterns hold (R225), and the exact
functions of R244, R245 and R251. -/
namespace Sys2Proof.Proofs
open Sys2Proof Sys2Proof.Machine

/-! ### Two's complement -/

theorem toSigned_eq_toInt (w x : Nat) : toSigned w x = (BitVec.ofNat w x).toInt := by
  have hhalf : x % 2 ^ w < 2 ^ (w - 1) ↔ 2 * (x % 2 ^ w) < 2 ^ w := by
    cases w with
    | zero => simp [Nat.mod_one]
    | succ w => rw [Nat.add_sub_cancel, Nat.pow_succ]; omega
  simp only [toSigned, BitVec.toInt_eq_toNat_cond, BitVec.toNat_ofNat, hhalf]

theorem wrapNat_eq_toNat (w : Nat) (z : Int) : wrapNat w z = (BitVec.ofInt w z).toNat := (BitVec.toNat_ofInt z).symm

theorem wrapNat_lt (w : Nat) (z : Int) : wrapNat w z < 2 ^ w := wrapNat_eq_toNat w z ▸ (BitVec.ofInt w z).isLt

theorem ofNat_wrapNat (w v : Nat) (z : Int) : BitVec.ofNat v (wrapNat w z) = (BitVec.ofInt w z).setWidth v := by
  rw [wrapNat_eq_toNat, BitVec.ofNat_toNat]

/-- An integer wrapped into a register is its residue. -/
theorem ofNat_wrapNat_eq_ofInt (w : Nat) (z : Int) : BitVec.ofNat 64 (wrapNat w z) = BitVec.ofInt 64 (z % 2 ^ w) := by
  have hpos : 0 ≤ z % 2 ^ w := Int.emod_nonneg _ (by positivity)
  apply BitVec.eq_of_toNat_eq
  rw [BitVec.toNat_ofNat, BitVec.toNat_ofInt, wrapNat, Int.toNat_emod hpos (by positivity)]
  push_cast
  rfl

/-! ### The integer types of R244 -/

/-- A statement about the integer types of R244, type by type. -/
theorem forall_ints {p : Ty → Prop} (hi32 : p .i32) (hn32 : p .n32) (hi64 : p .i64) (hn64 : p .n64) :
    ∀ t ∈ [Ty.i32, .n32, .i64, .n64], p t := by
  simp only [List.forall_mem_cons, List.not_mem_nil, false_imp_iff, implies_true, and_true]
  exact ⟨hi32, hn32, hi64, hn64⟩

theorem elemBits_eq_width : ∀ t ∈ [Ty.i32, .n32, .i64, .n64], elemBits t = t.width := by decide

theorem intVal_eq_intOf (v : DWord) : ∀ t ∈ [Ty.i32, .n32, .i64, .n64], intVal t v.toNat = IntOf t v := by
  apply forall_ints
  case hi32 => exact (toSigned_eq_toInt 32 v.toNat).trans (by rw [BitVec.ofNat_toNat]; rfl)
  case hn32 => exact congrArg Nat.cast (BitVec.toNat_setWidth 32 v).symm
  case hi64 => exact (toSigned_eq_toInt 64 v.toNat).trans (by rw [BitVec.ofNat_toNat, BitVec.setWidth_eq]; rfl)
  case hn64 => exact congrArg Nat.cast (Nat.mod_eq_of_lt v.isLt)

/-- The nearer end of a range is the value cut off from above, then from below. -/
theorem clampInt_eq {t : Ty} (h : intMinVal t ≤ intMaxVal t) (r : Int) : clampInt t r = max (intMinVal t) (min r (intMaxVal t)) := by
  unfold clampInt
  split
  · omega
  · split <;> omega

theorem clampInt_eq_of_int (r : Int) : ∀ t ∈ [Ty.i32, .n32, .i64, .n64], clampInt t r = max (numLo t) (min r (numHi t)) := by
  apply forall_ints <;> exact clampInt_eq (by decide) r

theorem narrowInt_eq_fit (sat : Bool) (r : Int) : ∀ t ∈ [Ty.i32, .n32, .i64, .n64], narrowInt t sat r = Fit t sat r := by
  intro t ht
  rw [narrowInt, Fit, ofNat_wrapNat_eq_ofInt, elemBits_eq_width t ht, clampInt_eq_of_int r t ht]

theorem mem_ints_of_signed : ∀ t ∈ [Ty.i32, .i64], t ∈ [Ty.i32, .n32, .i64, .n64] := by decide

/-! ### The functions of R244 -/

section
variable {t : Ty} (ht : t ∈ [Ty.i32, .n32, .i64, .n64])
include ht

theorem fnAdd_eq (sat : Bool) (a b : DWord) : fnAdd t sat a b = Fit t sat (IntOf t a + IntOf t b) := by
  rw [fnAdd, narrowInt_eq_fit _ _ t ht, intVal_eq_intOf a t ht, intVal_eq_intOf b t ht]

theorem fnSub_eq (sat : Bool) (a b : DWord) : fnSub t sat a b = Fit t sat (IntOf t a - IntOf t b) := by
  rw [fnSub, narrowInt_eq_fit _ _ t ht, intVal_eq_intOf a t ht, intVal_eq_intOf b t ht]

theorem fnMul_eq (a b : DWord) : fnMul t a b = Fit t false (IntOf t a * IntOf t b) := by
  rw [fnMul, narrowInt_eq_fit _ _ t ht, intVal_eq_intOf a t ht, intVal_eq_intOf b t ht]

/-- The floor of R244 is the quotient by a positive number. -/
theorem fnMulhi_eq (a b : DWord) : fnMulhi t a b = Fit t false ((IntOf t a * IntOf t b).fdiv (2 ^ t.width)) := by
  rw [fnMulhi, narrowInt_eq_fit _ _ t ht, intVal_eq_intOf a t ht, intVal_eq_intOf b t ht, elemBits_eq_width t ht,
    Int.fdiv_eq_ediv_of_nonneg _ (by positivity)]
  push_cast
  rfl

theorem fnMad_eq (sat : Bool) (a b c : DWord) : fnMad t sat a b c = Fit t sat (IntOf t a * IntOf t b + IntOf t c) := by
  rw [fnMad, narrowInt_eq_fit _ _ t ht, intVal_eq_intOf a t ht, intVal_eq_intOf b t ht, intVal_eq_intOf c t ht]

theorem fnMin_eq (a b : DWord) : fnMin t a b = Fit t false (if IntOf t a ≤ IntOf t b then IntOf t a else IntOf t b) := by
  rw [fnMin, narrowInt_eq_fit _ _ t ht, intVal_eq_intOf a t ht, intVal_eq_intOf b t ht, min_def]

theorem fnMax_eq (a b : DWord) : fnMax t a b = Fit t false (if IntOf t a ≤ IntOf t b then IntOf t b else IntOf t a) := by
  rw [fnMax, narrowInt_eq_fit _ _ t ht, intVal_eq_intOf a t ht, intVal_eq_intOf b t ht, max_def]

theorem fnAbs_eq (a : DWord) : fnAbs t a = Fit t false (if 0 ≤ IntOf t a then IntOf t a else - IntOf t a) := by
  rw [fnAbs, narrowInt_eq_fit _ _ t ht, intVal_eq_intOf a t ht]
  congr 1
  split <;> omega

theorem fnNeg_eq (a : DWord) : fnNeg t a = Fit t false (- IntOf t a) := by
  rw [fnNeg, narrowInt_eq_fit _ _ t ht, intVal_eq_intOf a t ht]

theorem fnSad_eq (a b c : DWord) : fnSad t a b c =
    Fit t false ((if IntOf t b ≤ IntOf t a then IntOf t a - IntOf t b else IntOf t b - IntOf t a) + IntOf t c) := by
  rw [fnSad, narrowInt_eq_fit _ _ t ht, intVal_eq_intOf a t ht, intVal_eq_intOf b t ht, intVal_eq_intOf c t ht]
  congr 2
  split <;> omega

/-- A set word compares the integers of its type (R251). -/
theorem fnSet_eq (r : Rel) (a b : DWord) : fnSet r t a b = if r.holds (IntOf t a) (IntOf t b) = true then 1 else 0 := by
  rw [fnSet, intVal_eq_intOf a t ht, intVal_eq_intOf b t ht]
  cases r.holds (IntOf t a) (IntOf t b) <;> rfl

end

/-- The 32-bit condition of `sel` is read whole (R251). -/
theorem fnSel_eq {a b c : DWord} (hc : c.toNat < 2 ^ 32) : fnSel a b c = if c ≠ 0 then a else b := by
  rw [fnSel, Nat.mod_eq_of_lt hc]
  by_cases h : c = 0
  · simp [h]
  · have hn : c.toNat ≠ 0 := fun hz => h (BitVec.eq_of_toNat_eq hz)
    rw [if_neg hn, if_pos h]

/-! ### The widening products of R245 -/

theorem mem_ints_of_widening : ∀ t ∈ [Ty.i32, .n32], t ∈ [Ty.i32, .n32, .i64, .n64] := by decide

theorem fnMadw_eq (a b c : DWord) : ∀ t ∈ [Ty.i32, .n32], fnMadw t a b c =
    BitVec.ofInt 64 (IntOf t a * IntOf t b + (if t = .i32 then c.toInt else c.toNat)) := by
  intro t ht
  have hint := mem_ints_of_widening t ht
  have haddend : intVal (if t = .i32 then .i64 else .n64) c.toNat = if t = .i32 then c.toInt else (c.toNat : Int) := by
    split
    · exact intVal_eq_intOf c .i64 (by decide)
    · exact intVal_eq_intOf c .n64 (by decide)
  rw [fnMadw, ofNat_wrapNat, BitVec.setWidth_eq, intVal_eq_intOf a t hint, intVal_eq_intOf b t hint, haddend]

theorem fnMadw_zero (a b : DWord) : ∀ t ∈ [Ty.i32, .n32], fnMadw t a b 0 = BitVec.ofInt 64 (IntOf t a * IntOf t b) := by
  intro t ht
  rw [fnMadw_eq a b 0 t ht]
  simp

end Sys2Proof.Proofs
end

section
/-! SUPPORT. Bit patterns in registers: a pattern cut to a width, the shifts and rotates of R249, the immediates of R247 and the
addresses of R252 on numbers, seen as operations on bit vectors. -/
namespace Sys2Proof.Proofs
open Sys2Proof Sys2Proof.Machine

/-! ### Patterns cut to a width -/

theorem toNat_trunc {w : Nat} (hw : w ≤ 64) (n : Nat) : (trunc w n).toNat = n % 2 ^ w := by
  have hlt : n % 2 ^ w < 2 ^ w := Nat.mod_lt _ (by positivity)
  have hle : 2 ^ w ≤ 2 ^ 64 := Nat.pow_le_pow_right (by decide) hw
  rw [trunc, BitVec.toNat_ofNat, Nat.mod_eq_of_lt (by omega)]

theorem getLsbD_trunc {w : Nat} (hw : w ≤ 64) (n j : Nat) : (trunc w n).getLsbD j = (decide (j < w) && n.testBit j) := by
  rw [← BitVec.testBit_toNat, toNat_trunc hw, Nat.testBit_mod_two_pow]

theorem width_le (t : Ty) : t.width ≤ 64 := by unfold Ty.width; split <;> decide

theorem cut_eq_trunc (t : Ty) (v : DWord) : Cut t v = trunc t.width v.toNat := by
  apply BitVec.eq_of_toNat_eq
  rw [toNat_trunc (width_le t), Cut, Ty.width]
  split
  · exact (Nat.mod_eq_of_lt v.isLt).symm
  · rw [BitVec.toNat_setWidth, BitVec.toNat_setWidth]
    exact Nat.mod_eq_of_lt (by omega)

theorem getLsbD_cut (t : Ty) (v : DWord) (j : Nat) : (Cut t v).getLsbD j = (decide (j < t.width) && v.getLsbD j) := by
  rw [cut_eq_trunc, getLsbD_trunc (width_le t), BitVec.testBit_toNat]

theorem fnNot_eq_cut (t : Ty) (a : DWord) : fnNot t.width a = Cut t (~~~ a) := (cut_eq_trunc t _).symm

/-- What an operand of the type reads lies below its width (R241). -/
theorem toNat_lt_width {t : Ty} {a : DWord} (ha : t.is64 = false → a.toNat < 2 ^ 32) : a.toNat < 2 ^ t.width := by
  unfold Ty.width
  split
  · exact a.isLt
  · next h => exact ha (by simpa using h)

theorem getLsbD_eq_false_of_width_le {t : Ty} {a : DWord} (ha : t.is64 = false → a.toNat < 2 ^ 32) {j : Nat} (hj : t.width ≤ j) :
    a.getLsbD j = false := by
  rw [← BitVec.testBit_toNat]
  exact Nat.testBit_lt_two_pow (Nat.lt_of_lt_of_le (toNat_lt_width ha) (Nat.pow_le_pow_right (by decide) hj))

/-- Bits beyond the width do not meet a pattern of the width. -/
theorem and_cut {t : Ty} {a : DWord} (ha : t.is64 = false → a.toNat < 2 ^ 32) (b : DWord) : a &&& Cut t b = a &&& b := by
  apply BitVec.eq_of_getLsbD_eq
  intro j _
  rw [BitVec.getLsbD_and, BitVec.getLsbD_and, getLsbD_cut]
  rcases Nat.lt_or_ge j t.width with h | h
  · simp [h]
  · simp [getLsbD_eq_false_of_width_le ha h]

theorem or_cut {t : Ty} {a : DWord} (ha : t.is64 = false → a.toNat < 2 ^ 32) (b : DWord) : a ||| Cut t b = Cut t (a ||| b) := by
  apply BitVec.eq_of_getLsbD_eq
  intro j _
  rw [BitVec.getLsbD_or, getLsbD_cut, getLsbD_cut, BitVec.getLsbD_or]
  rcases Nat.lt_or_ge j t.width with h | h
  · simp [h]
  · simp [getLsbD_eq_false_of_width_le ha h, Nat.not_lt.2 h]

/-! ### Shifts -/

theorem fnShl_eq (t : Ty) (a : DWord) (s : Nat) : fnShl t.width a s = if t.width ≤ s then 0 else Cut t (a <<< s) := by
  rw [fnShl]
  congr 1
  apply BitVec.eq_of_toNat_eq
  rw [cut_eq_trunc, toNat_trunc (width_le t), toNat_trunc (width_le t), BitVec.toNat_shiftLeft, Nat.shiftLeft_eq,
    Nat.mod_mod_of_dvd _ (Nat.pow_dvd_pow 2 (width_le t))]

theorem fnShr_eq {t : Ty} {a : DWord} (ha : t.is64 = false → a.toNat < 2 ^ 32) (s : Nat) :
    fnShr t.width a s = if t.width ≤ s then 0 else a >>> s := by
  rw [fnShr]
  congr 1
  apply BitVec.eq_of_toNat_eq
  rw [toNat_trunc (width_le t), BitVec.toNat_ushiftRight, Nat.shiftRight_eq_div_pow]
  exact Nat.mod_eq_of_lt (Nat.lt_of_le_of_lt (Nat.div_le_self _ _) (toNat_lt_width ha))

/-- Beyond the width every bit is the top bit already. -/
theorem sshiftRight_min {w : Nat} (x : BitVec w) (s : Nat) : x.sshiftRight (min s w) = x.sshiftRight s := by
  apply BitVec.eq_of_getLsbD_eq
  intro j hj
  rw [BitVec.getLsbD_sshiftRight, BitVec.getLsbD_sshiftRight]
  rcases Nat.le_total s w with h | h
  · rw [Nat.min_eq_left h]
  · rw [Nat.min_eq_right h, if_neg (by omega), if_neg (by omega)]

theorem fnSra_eq_sshiftRight (w : Nat) (a : DWord) (s : Nat) : fnSra w a s = ((a.setWidth w).sshiftRight s).setWidth 64 := by
  rw [fnSra, ofNat_wrapNat, toSigned_eq_toInt, BitVec.ofNat_toNat, ← sshiftRight_min, BitVec.sshiftRight, Int.shiftRight_eq_div_pow]

/-- A value of a register, by the width that its type takes of it. -/
theorem setWidth_at_width (t : Ty) (p : (w : Nat) → BitVec w → BitVec w) (a : DWord) :
    (p t.width (a.setWidth t.width)).setWidth 64 = if t.is64 then p 64 a else (p 32 (a.setWidth 32)).setWidth 64 := by
  cases h : t.is64 with
  | true => rw [show t.width = 64 by simp [Ty.width, h], BitVec.setWidth_eq, BitVec.setWidth_eq, if_pos rfl]
  | false => rw [show t.width = 32 by simp [Ty.width, h], if_neg (by decide)]

theorem fnSra_eq (t : Ty) (a : DWord) (s : Nat) :
    fnSra t.width a s = if t.is64 then a.sshiftRight s else ((a.setWidth 32).sshiftRight s).setWidth 64 := by
  rw [fnSra_eq_sshiftRight]
  exact setWidth_at_width t (fun w x => x.sshiftRight s) a

/-! ### The funnel shift and the rotates -/

theorem getLsbD_fnFsh {w : Nat} (hw : w ≤ 64) (a b : DWord) (s j : Nat) : (fnFsh w a b s).getLsbD j =
    (decide (j < w) && if j + s % w < w then b.getLsbD (j + s % w) else a.getLsbD (j + s % w - w)) := by
  have hb : b.toNat % 2 ^ w < 2 ^ w := Nat.mod_lt _ (by positivity)
  rw [fnFsh, getLsbD_trunc hw, Nat.testBit_div_two_pow, Nat.mul_comm, Nat.testBit_two_pow_mul_add _ hb]
  congr 1
  split
  · next h => simp [Nat.testBit_mod_two_pow, h, BitVec.testBit_toNat]
  · rw [BitVec.testBit_toNat]

theorem fnFsh_eq (t : Ty) (a b : DWord) (s : Nat) : fnFsh t.width a b s =
    if t.is64 then ((a ++ b : BitVec 128) >>> (s % 64)).setWidth 64
    else (((a.setWidth 32 ++ b.setWidth 32 : BitVec 64) >>> (s % 32)).setWidth 32).setWidth 64 := by
  apply BitVec.eq_of_getLsbD_eq
  intro j hj
  rw [getLsbD_fnFsh (width_le t), Ty.width]
  have hmod : s % 32 < 32 := Nat.mod_lt _ (by decide)
  split
  · rw [BitVec.getLsbD_setWidth, BitVec.getLsbD_ushiftRight, BitVec.getLsbD_append, Nat.add_comm j]
  · rw [BitVec.getLsbD_setWidth, BitVec.getLsbD_setWidth, BitVec.getLsbD_ushiftRight, BitVec.getLsbD_append, Nat.add_comm j,
      BitVec.getLsbD_setWidth, BitVec.getLsbD_setWidth]
    rcases Nat.lt_or_ge j 32 with h | h
    · have hlt : s % 32 + j - 32 < 32 := by omega
      by_cases hlow : s % 32 + j < 32
      · simp [hj, h, hlow]
      · simp [hj, h, hlow, hlt]
    · simp [Nat.not_lt.2 h]

theorem fnRotr_eq_rotateRight {w : Nat} (hw : w ≤ 64) (a : DWord) (s : Nat) :
    fnRotr w a s = ((a.setWidth w).rotateRight s).setWidth 64 := by
  apply BitVec.eq_of_getLsbD_eq
  intro j hj
  rw [fnRotr, getLsbD_fnFsh hw, getLsbD_trunc hw, BitVec.testBit_toNat, BitVec.getLsbD_setWidth, BitVec.getLsbD_rotateRight,
    BitVec.getLsbD_setWidth, BitVec.getLsbD_setWidth]
  rcases Nat.lt_or_ge j w with h | h
  · have hr : s % w < w := Nat.mod_lt _ (by omega)
    by_cases hlow : j + s % w < w
    · have : j < w - s % w := by omega
      simp [hj, h, hlow, this, Nat.add_comm (s % w)]
    · have hge : ¬ j < w - s % w := by omega
      have hidx : j + s % w - w = j - (w - s % w) := by omega
      simp [hj, h, hlow, hge, hidx]
  · have : ¬ j < w - s % w := by omega
    simp [Nat.not_lt.2 h, this]

theorem rotateRight_sub {w : Nat} (x : BitVec w) (s : Nat) : x.rotateRight (w - s % w) = x.rotateLeft s := by
  apply BitVec.eq_of_getLsbD_eq
  intro j hj
  have hr : s % w < w := Nat.mod_lt _ (by omega)
  rw [BitVec.getLsbD_rotateRight, BitVec.getLsbD_rotateLeft]
  by_cases h0 : s % w = 0
  · simp [h0, hj]
  · rw [Nat.mod_eq_of_lt (show w - s % w < w by omega), Nat.sub_sub_self hr.le]

theorem fnRotr_eq (t : Ty) (a : DWord) (s : Nat) :
    fnRotr t.width a s = if t.is64 then a.rotateRight s else ((a.setWidth 32).rotateRight s).setWidth 64 := by
  rw [fnRotr_eq_rotateRight (width_le t)]
  exact setWidth_at_width t (fun w x => x.rotateRight s) a

theorem fnRotl_eq (t : Ty) (a : DWord) (s : Nat) :
    fnRotl t.width a s = if t.is64 then a.rotateLeft s else ((a.setWidth 32).rotateLeft s).setWidth 64 := by
  rw [fnRotl, fnRotr_eq_rotateRight (width_le t), rotateRight_sub]
  exact setWidth_at_width t (fun w x => x.rotateLeft s) a

/-! ### Immediates -/

theorem immOf_eq_of_bits (i : BitVec 22) : ∀ t ∈ [Ty.b32, .b64], immOf t i = i.setWidth 64 := by
  simp [immOf, signedTy]

theorem setWidth_signExtend {w : Nat} (hw : w ≤ 64) (i : BitVec 22) : (i.signExtend 64).setWidth w = i.signExtend w := by
  apply BitVec.eq_of_getLsbD_eq
  intro j hj
  rw [BitVec.getLsbD_setWidth, BitVec.getLsbD_signExtend, BitVec.getLsbD_signExtend]
  simp [hj, show j < 64 by omega]

/-- A sign-extended immediate holds its own integer (R187). -/
theorem intOf_immOf (i : BitVec 22) : ∀ t ∈ [Ty.i32, .i64], IntOf t (immOf t i) = i.toInt := by
  simp only [List.forall_mem_cons, List.not_mem_nil, false_imp_iff, implies_true, and_true]
  constructor
  · show ((i.signExtend 64).setWidth 32).toInt = i.toInt
    rw [setWidth_signExtend (by decide), BitVec.toInt_signExtend_of_le (by decide)]
  · exact BitVec.toInt_signExtend_of_le (by decide)

theorem fnMovhi_eq (t : Ty) (a : DWord) (i : BitVec 22) : fnMovhi t.width a i =
    if t.is64 then (i ++ a.extractLsb' 0 42 : BitVec 64) else (i ++ a.extractLsb' 0 10 : BitVec 32).setWidth 64 := by
  have hi := i.isLt
  apply BitVec.eq_of_toNat_eq
  rw [fnMovhi, BitVec.toNat_ofNat, Ty.width]
  split
  · have hlow : a.toNat % 2 ^ 42 < 2 ^ 42 := Nat.mod_lt _ (by decide)
    rw [BitVec.toNat_append, BitVec.extractLsb'_toNat, Nat.shiftRight_zero, ← Nat.shiftLeft_add_eq_or_of_lt hlow, Nat.shiftLeft_eq]
    exact Nat.mod_eq_of_lt (by omega)
  · have hlow : a.toNat % 2 ^ 10 < 2 ^ 10 := Nat.mod_lt _ (by decide)
    rw [BitVec.toNat_setWidth, BitVec.toNat_append, BitVec.extractLsb'_toNat, Nat.shiftRight_zero,
      ← Nat.shiftLeft_add_eq_or_of_lt hlow, Nat.shiftLeft_eq]

/-! ### Addresses (R252) -/

theorem fnMkaddr_eq (a b : DWord) : fnMkaddr a b = (a.extractLsb' 0 24 ++ b.extractLsb' 0 40 : BitVec 64) := by
  rw [fnMkaddr, BitVec.setWidth_eq_extractLsb' (by decide), BitVec.setWidth_eq_extractLsb' (by decide)]
  rfl

theorem fnAddoff_eq (a b : DWord) : fnAddoff a b = (a.extractLsb' 40 24 ++ (a.extractLsb' 0 40 + b.setWidth 40) : BitVec 64) := rfl

end Sys2Proof.Proofs
end

section
/-! SUPPORT. Numbers as bits: a number from its bits and from its elements, and the bits of the functions of R250, R255 to R258. -/
namespace Sys2Proof.Proofs
open Sys2Proof Sys2Proof.Machine

/-! ### Single bits -/

theorem bitAt_eq_testBit (x i : Nat) : bitAt x i = x.testBit i := by
  rw [Nat.testBit_eq_decide_div_mod_eq, bitAt, Nat.shiftRight_eq_div_pow, beq_eq_decide]

@[simp] theorem bitAt_toNat {w : Nat} (v : BitVec w) (i : Nat) : bitAt v.toNat i = v.getLsbD i := by
  rw [bitAt_eq_testBit, BitVec.testBit_toNat]

theorem bitsOf_toNat {w : Nat} (v : BitVec w) (hi lo : Nat) : bitsOf v.toNat hi lo = (v.extractLsb' lo (hi + 1 - lo)).toNat :=
  (BitVec.extractLsb'_toNat lo _ v).symm

theorem ite_two_pow (b : Bool) (n : Nat) : (if b = true then 2 ^ n else 0) = 2 ^ n * b.toNat := by cases b <;> simp

/-- A bit set above a number. -/
theorem testBit_add_ite_two_pow {x n : Nat} (hx : x < 2 ^ n) (b : Bool) (j : Nat) :
    (x + if b = true then 2 ^ n else 0).testBit j = if j < n then x.testBit j else decide (j = n) && b := by
  rw [ite_two_pow, Nat.add_comm, Nat.testBit_two_pow_mul_add _ hx, Nat.testBit_bool_toNat]
  split
  · rfl
  · rw [decide_eq_decide.2 (show j - n = 0 ↔ j = n by omega)]

theorem add_ite_two_pow_lt {x n : Nat} (hx : x < 2 ^ n) (b : Bool) : (x + if b = true then 2 ^ n else 0) < 2 ^ (n + 1) := by
  rw [Nat.pow_succ]
  split <;> omega

/-! ### A number from its bits -/

theorem ofBits_succ (n : Nat) (f : Nat → Bool) : ofBits (n + 1) f = ofBits n f + if f n then 2 ^ n else 0 := by
  rw [ofBits, List.range_succ, List.foldl_append]
  rfl

theorem ofBits_lt (n : Nat) (f : Nat → Bool) : ofBits n f < 2 ^ n := by
  induction n with
  | zero => exact Nat.one_pos
  | succ n ih => rw [ofBits_succ]; exact add_ite_two_pow_lt ih (f n)

theorem testBit_ofBits (n : Nat) (f : Nat → Bool) (j : Nat) : (ofBits n f).testBit j = (decide (j < n) && f j) := by
  induction n with
  | zero => exact Nat.zero_testBit j
  | succ n ih =>
    rw [ofBits_succ, testBit_add_ite_two_pow (ofBits_lt n f), ih]
    rcases Nat.lt_trichotomy j n with h | rfl | h
    · simp [h, Nat.lt_succ_of_lt h]
    · simp
    · simp [Nat.not_lt.2 h.le, h.ne', show ¬ j < n + 1 by omega]

theorem getLsbD_ofBits {n : Nat} (hn : n ≤ 64) (f : Nat → Bool) (j : Nat) :
    (BitVec.ofNat 64 (ofBits n f)).getLsbD j = (decide (j < n) && f j) := by
  rw [BitVec.getLsbD_ofNat, testBit_ofBits]
  by_cases h : j < n
  · simp [show j < 64 by omega]
  · simp [h]

/-! ### Elements of a register -/

theorem testBit_elemAt (w x k i : Nat) : (elemAt w x k).testBit i = (decide (i < w) && x.testBit (w * k + i)) := by
  rw [elemAt, Nat.testBit_mod_two_pow, Nat.testBit_shiftRight]

theorem elemAt_toNat {n : Nat} (w : Nat) (v : BitVec n) (k : Nat) : elemAt w v.toNat k = (v.extractLsb' (w * k) w).toNat :=
  (BitVec.extractLsb'_toNat (w * k) w v).symm

theorem testBit_packElems {w : Nat} (hw : 0 < w) (es : List Nat) (j : Nat) :
    (packElems w es).testBit j = (es.getD (j / w) 0).testBit (j % w) := by
  induction es generalizing j with
  | nil => simp [packElems]
  | cons e es ih =>
    rw [packElems, Nat.add_comm, Nat.testBit_two_pow_mul_add _ (Nat.mod_lt _ (by positivity))]
    split
    · next h => simp [Nat.testBit_mod_two_pow, h, Nat.div_eq_of_lt h, Nat.mod_eq_of_lt h]
    · next h =>
      have hdiv : j / w = (j - w) / w + 1 := Nat.div_eq_sub_div hw (Nat.not_lt.1 h)
      rw [ih, hdiv, List.getD_cons_succ, ← Nat.mod_eq_sub_mod (Nat.not_lt.1 h)]

/-- A bit of a register that is packed from elements. -/
theorem getLsbD_packElems {w i k : Nat} (hi : i < w) (h : w * k + i < 64) (es : List Nat) :
    (BitVec.ofNat 64 (packElems w es)).getLsbD (w * k + i) = (es.getD k 0).testBit i := by
  have hw : 0 < w := by omega
  rw [BitVec.getLsbD_ofNat, testBit_packElems hw, Nat.mul_add_div hw, Nat.div_eq_of_lt hi, Nat.mul_add_mod, Nat.mod_eq_of_lt hi]
  simp [h]

theorem getD_map_range {f : Nat → Nat} {n k : Nat} (hk : k < n) : ((List.range n).map f).getD k 0 = f k := by
  simp [List.getD_eq_getElem?_getD, hk]

/-! ### Counts (R250) -/

theorem countP_range_eq_count (p : Nat → Bool) (n : Nat) : (List.range n).countP p = Nat.count (fun i => p i = true) n := by
  simp [Nat.count]

/-- The number of values before the first of a range at which `p` holds. -/
theorem find_range_getD (w : Nat) (p : Nat → Bool) :
    ((List.range w).find? p).getD w ≤ w ∧ (∀ j < ((List.range w).find? p).getD w, p j = false) ∧
    (((List.range w).find? p).getD w < w → p (((List.range w).find? p).getD w) = true) := by
  cases h : (List.range w).find? p with
  | none => exact ⟨Nat.le_refl w, by simpa using List.find?_range_eq_none.1 h, fun hlt => absurd hlt (Nat.lt_irrefl w)⟩
  | some i =>
    obtain ⟨hi, hmem, hbefore⟩ := List.find?_range_eq_some.1 h
    exact ⟨(List.mem_range.1 hmem).le, by simpa using hbefore, fun _ => hi⟩

theorem toNat_find_range {w : Nat} (hw : w ≤ 64) (p : Nat → Bool) :
    (BitVec.ofNat 64 (((List.range w).find? p).getD w)).toNat = ((List.range w).find? p).getD w := by
  have := (find_range_getD w p).1
  rw [BitVec.toNat_ofNat]
  exact Nat.mod_eq_of_lt (by omega)

theorem fnPopc_eq (w : Nat) (a : DWord) : fnPopc w a = BitVec.ofNat 64 ((List.range w).countP (fun j => a.getLsbD j)) := by
  rw [fnPopc, List.countP_eq_length_filter]
  simp only [bitAt_toNat]

theorem fnClz_spec {w : Nat} (hw : w ≤ 64) (a : DWord) : (fnClz w a).toNat ≤ w ∧
    (∀ j, w - (fnClz w a).toNat ≤ j → j < w → a.getLsbD j = false) ∧
    ((fnClz w a).toNat < w → a.getLsbD (w - 1 - (fnClz w a).toNat) = true) := by
  rw [fnClz, toNat_find_range hw]
  obtain ⟨hle, hbefore, hat⟩ := find_range_getD w (fun i => bitAt a.toNat (w - 1 - i))
  refine ⟨hle, fun j hj hlt => ?_, fun hlt => by rw [← bitAt_toNat]; exact hat hlt⟩
  have := hbefore (w - 1 - j) (by omega)
  rwa [bitAt_toNat, Nat.sub_sub_self (by omega)] at this

theorem fnCtz_spec {w : Nat} (hw : w ≤ 64) (a : DWord) : (fnCtz w a).toNat ≤ w ∧
    (∀ j, j < (fnCtz w a).toNat → a.getLsbD j = false) ∧ ((fnCtz w a).toNat < w → a.getLsbD (fnCtz w a).toNat = true) := by
  rw [fnCtz, toNat_find_range hw]
  simpa only [bitAt_toNat] using find_range_getD w (fun i => bitAt a.toNat i)

theorem getLsbD_fnBrev {w : Nat} (hw : w ≤ 64) (a : DWord) (j : Nat) :
    (fnBrev w a).getLsbD j = (decide (j < w) && a.getLsbD (w - 1 - j)) := by
  rw [fnBrev, getLsbD_ofBits hw, bitAt_toNat]

/-! ### Bit fields (R250) -/

/-- The bits of a field, counted from its position. -/
theorem bitField_spec (w : Nat) (c : DWord) :
    let p := (c.extractLsb' 0 8).toNat
    let n := (c.extractLsb' 8 8).toNat
    (bitField w c).1 = p ∧ (bitField w c).2 ≤ w ∧ ∀ j, j < (bitField w c).2 ↔ j < n ∧ p + j < w := by
  intro p n
  have hp : bitsOf c.toNat 7 0 = p := bitsOf_toNat c 7 0
  have hn : bitsOf c.toNat 15 8 = n := bitsOf_toNat c 15 8
  simp only [bitField, hp, hn]
  split
  · exact ⟨rfl, Nat.zero_le w, fun j => by simp only; omega⟩
  · exact ⟨rfl, by simp only; omega, fun j => by simp only; omega⟩

theorem getLsbD_fnBfe {w : Nat} (hw : w ≤ 64) (a c : DWord) (j : Nat) : (fnBfe w a c).getLsbD j =
    (decide (j < (c.extractLsb' 8 8).toNat ∧ (c.extractLsb' 0 8).toNat + j < w) && a.getLsbD ((c.extractLsb' 0 8).toNat + j)) := by
  obtain ⟨hp, hn, hfield⟩ := bitField_spec w c
  show (trunc (bitField w c).2 (a.toNat / 2 ^ (bitField w c).1)).getLsbD j = _
  rw [getLsbD_trunc (by omega), Nat.testBit_div_two_pow, BitVec.testBit_toNat, hp, Nat.add_comm j, decide_eq_decide.2 (hfield j)]

theorem getLsbD_fnBfi {w : Nat} (hw : w ≤ 64) (a b c : DWord) (j : Nat) : (fnBfi w a b c).getLsbD j =
    (decide (j < w) && if (c.extractLsb' 0 8).toNat ≤ j ∧ j < (c.extractLsb' 0 8).toNat + (c.extractLsb' 8 8).toNat
      then b.getLsbD (j - (c.extractLsb' 0 8).toNat) else a.getLsbD j) := by
  obtain ⟨hp, hn, hfield⟩ := bitField_spec w c
  show (BitVec.ofNat 64 (ofBits w (fun j => if (bitField w c).1 ≤ j ∧ j < (bitField w c).1 + (bitField w c).2
    then bitAt b.toNat (j - (bitField w c).1) else bitAt a.toNat j))).getLsbD j = _
  rw [getLsbD_ofBits hw, hp, bitAt_toNat, bitAt_toNat]
  by_cases hj : j < w
  · have hin := hfield (j - (c.extractLsb' 0 8).toNat)
    congr 2
    rw [eq_iff_iff]
    omega
  · simp [hj]

/-! ### Bit matrices (R255) -/

theorem foldl_xor_eq_countP {α : Type} (p : α → Bool) (l : List α) (b : Bool) :
    l.foldl (fun acc k => acc ^^ p k) b = (b ^^ decide (l.countP p % 2 = 1)) := by
  induction l generalizing b with
  | nil => simp
  | cons x l ih =>
    rw [List.foldl_cons, ih, List.countP_cons]
    cases p x
    · simp
    · have : decide ((l.countP p + 1) % 2 = 1) = !decide (l.countP p % 2 = 1) := by
        rw [← decide_not, decide_eq_decide]; omega
      simp [this]

theorem getLsbD_fnBmm (e : Nat → Nat → Nat → Bool) (a b : DWord) {r k : Nat} (hr : r < 8) (hk : k < 8) :
    (fnBmm e a b).getLsbD (8 * r + k) = decide ((List.range 8).countP (fun m => a.getLsbD (8 * r + m) && e b.toNat m k) % 2 = 1) := by
  have hrow : (8 * r + k) / 8 = r := by omega
  have hcol : (8 * r + k) % 8 = k := by omega
  rw [fnBmm, getLsbD_ofBits (Nat.le_refl 64), hrow, hcol, foldl_xor_eq_countP, Bool.false_xor]
  simp only [bitAt_toNat, show 8 * r + k < 64 by omega, decide_true, Bool.true_and]

/-! ### Deposit and gather (R256) -/

/-- The number of one bits of a mask below a position. -/
abbrev onesBelow (b : DWord) (q : Nat) : Nat := Nat.count (fun i => b.getLsbD i = true) q

/-- What a fold over the one bits of a mask adds up, each with its rank. -/
def sumOnes (w : Nat) (b : DWord) (g : Nat → Nat → Nat) : Nat :=
  ((onePositions w b).zipIdx).foldl (fun acc x => acc + g x.1 x.2) 0

theorem length_onePositions (w : Nat) (b : DWord) : (onePositions w b).length = onesBelow b w := by
  rw [onePositions, ← List.countP_eq_length_filter, countP_range_eq_count]
  simp only [bitAt_toNat]

theorem onePositions_succ (w : Nat) (b : DWord) :
    onePositions (w + 1) b = onePositions w b ++ if b.getLsbD w = true then [w] else [] := by
  rw [onePositions, List.range_succ, List.filter_append, List.filter_singleton, bitAt_toNat, Bool.cond_eq_ite]
  rfl

theorem sumOnes_succ (w : Nat) (b : DWord) (g : Nat → Nat → Nat) :
    sumOnes (w + 1) b g = sumOnes w b g + if b.getLsbD w = true then g w (onesBelow b w) else 0 := by
  rw [sumOnes, onePositions_succ, List.zipIdx_append, List.foldl_append, Nat.zero_add, length_onePositions]
  split <;> rfl

theorem fnSpread_eq_ofBits (w : Nat) (a b : DWord) :
    fnSpread w a b = BitVec.ofNat 64 (ofBits w (fun q => b.getLsbD q && a.getLsbD (onesBelow b q))) := by
  have hsum : ∀ w, sumOnes w b (fun q k => if bitAt a.toNat k = true then 2 ^ q else 0) =
      ofBits w (fun q => b.getLsbD q && a.getLsbD (onesBelow b q)) := by
    intro w
    induction w with
    | zero => rfl
    | succ w ih =>
      rw [sumOnes_succ, ofBits_succ, ih, bitAt_toNat]
      cases b.getLsbD w <;> simp
  exact congrArg (BitVec.ofNat 64) (hsum w)

theorem getLsbD_fnSpread {w : Nat} (hw : w ≤ 64) (a b : DWord) (j : Nat) :
    (fnSpread w a b).getLsbD j = (decide (j < w) && b.getLsbD j && a.getLsbD (onesBelow b j)) := by
  rw [fnSpread_eq_ofBits, getLsbD_ofBits hw, Bool.and_assoc]

/-- The gathered bits fill the ranks from 0 up, each from the position of its rank. -/
theorem sumOnes_gather (w : Nat) (a b : DWord) :
    let r := sumOnes w b (fun q k => if bitAt a.toNat q = true then 2 ^ k else 0)
    r < 2 ^ onesBelow b w ∧ ∀ q < w, b.getLsbD q = true → r.testBit (onesBelow b q) = a.getLsbD q := by
  induction w with
  | zero => exact ⟨Nat.one_pos, fun q hq => absurd hq (Nat.not_lt_zero q)⟩
  | succ w ih =>
    obtain ⟨hlt, hbits⟩ := ih
    simp only [sumOnes_succ, onesBelow, Nat.count_succ, bitAt_toNat] at hlt hbits ⊢
    by_cases hb : b.getLsbD w = true
    · rw [if_pos hb, if_pos hb]
      refine ⟨add_ite_two_pow_lt hlt _, fun q hq hbq => ?_⟩
      rw [testBit_add_ite_two_pow hlt]
      rcases Nat.lt_succ_iff_lt_or_eq.1 hq with h | rfl
      · rw [if_pos (Nat.count_strict_mono hbq h)]
        exact hbits q h hbq
      · simp
    · rw [if_neg hb, if_neg hb]
      refine ⟨hlt, fun q hq hbq => hbits q ?_ hbq⟩
      rcases Nat.lt_succ_iff_lt_or_eq.1 hq with h | rfl
      · exact h
      · exact absurd hbq hb

theorem onesBelow_le (b : DWord) (w : Nat) : onesBelow b w ≤ w := Nat.count_le _

theorem fnGather_eq_sumOnes (w : Nat) (a b : DWord) :
    fnGather w a b = BitVec.ofNat 64 (sumOnes w b (fun q k => if bitAt a.toNat q = true then 2 ^ k else 0)) := rfl

theorem getLsbD_fnGather_onesBelow {w : Nat} (hw : w ≤ 64) (a b : DWord) {q : Nat} (hq : q < w) (hb : b.getLsbD q = true) :
    (fnGather w a b).getLsbD (onesBelow b q) = a.getLsbD q := by
  have hrank : onesBelow b q < 64 := by have := onesBelow_le b q; omega
  rw [fnGather_eq_sumOnes, BitVec.getLsbD_ofNat, (sumOnes_gather w a b).2 q hq hb]
  simp [hrank]

theorem getLsbD_fnGather_of_onesBelow_le (w : Nat) (a b : DWord) {k : Nat} (hk : onesBelow b w ≤ k) : (fnGather w a b).getLsbD k = false := by
  have hlt := Nat.lt_of_lt_of_le (sumOnes_gather w a b).1 (Nat.pow_le_pow_right (by decide) hk)
  rw [fnGather_eq_sumOnes, BitVec.getLsbD_ofNat, Nat.testBit_lt_two_pow hlt, Bool.and_false]

/-! ### Permutations (R257) -/

theorem toNat_append_dword {n : Nat} (x : BitVec n) (y : DWord) : (x ++ y).toNat = y.toNat % 2 ^ 64 + 2 ^ 64 * x.toNat := by
  rw [BitVec.toNat_append, ← Nat.shiftLeft_add_eq_or_of_lt y.isLt, Nat.shiftLeft_eq, Nat.mod_eq_of_lt y.isLt]
  omega

theorem packElems_table (s0 s1 s2 s3 s4 s5 : DWord) : packElems 64 ([s0, s1, s2, s3, s4, s5].map (fun x => x.toNat)) =
    (s5 ++ s4 ++ s3 ++ s2 ++ s1 ++ s0 : BitVec 384).toNat := by
  simp only [toNat_append_dword, List.map_cons, List.map_nil, packElems, Nat.mul_zero, Nat.add_zero, Nat.mod_eq_of_lt s5.isLt]

theorem getLsbD_fnBperm (a s0 s1 s2 s3 s4 s5 : DWord) {j : Nat} (hj : j < 64) : (fnBperm a [s0, s1, s2, s3, s4, s5]).getLsbD j =
    a.getLsbD ((s5 ++ s4 ++ s3 ++ s2 ++ s1 ++ s0 : BitVec 384).extractLsb' (6 * j) 6).toNat := by
  have hlen : 6 * j + 5 + 1 - 6 * j = 6 := by omega
  rw [fnBperm, packElems_table, getLsbD_ofBits (Nat.le_refl 64), bitAt_toNat, bitsOf_toNat, hlen]
  simp [hj]

theorem getLsbD_fnBswap {w : Nat} (hw : w ≤ 64) (a : DWord) {i j : Nat} (hj : j < w / 8) (hi : i < 8) :
    (fnBswap w a).getLsbD (8 * j + i) = a.getLsbD (8 * (w / 8 - 1 - j) + i) := by
  have hbyte : ((List.range (w / 8)).map (fun k => elemAt 8 a.toNat k)).reverse.getD j 0 = elemAt 8 a.toNat (w / 8 - 1 - j) := by
    rw [List.getD_reverse _ (by simpa using hj), List.length_map, List.length_range, getD_map_range (by omega)]
  rw [fnBswap, getLsbD_packElems hi (by omega), hbyte, testBit_elemAt, BitVec.testBit_toNat]
  simp [hi]

/-! ### The byte gather (R257) -/

/-- The eight bytes that a byte gather takes from. -/
def bytePool (a b : DWord) : BitVec 64 := b.setWidth 32 ++ a.setWidth 32

theorem toNat_bytePool (a b : DWord) : a.toNat % 2 ^ 32 + 2 ^ 32 * (b.toNat % 2 ^ 32) = (bytePool a b).toNat := by
  rw [bytePool, BitVec.toNat_append, ← Nat.shiftLeft_add_eq_or_of_lt (BitVec.isLt _), Nat.shiftLeft_eq, BitVec.toNat_setWidth,
    BitVec.toNat_setWidth]
  omega

theorem testBit_revByte (x : Nat) {i : Nat} (hi : i < 8) : (revByte x).testBit i = x.testBit (7 - i) := by
  rw [revByte, testBit_ofBits, bitAt_eq_testBit]
  simp [hi]

theorem testBit_fill (b : Bool) {i : Nat} (hi : i < 8) : (if b = true then 0xFF else 0 : Nat).testBit i = b := by
  have hff : (0xFF : Nat).testBit i = true := (Nat.testBit_two_pow_sub_one 8 i).trans (decide_eq_true hi)
  cases b
  · exact Nat.zero_testBit i
  · exact hff

theorem getLsbD_fnBgat (a b c : DWord) {i j : Nat} (hj : j < 4) (hi : i < 8) : (fnBgat a b c).getLsbD (8 * j + i) =
      if c.extractLsb' (8 * j + 3) 2 = 0#2 then (bytePool a b).getLsbD (8 * (c.extractLsb' (8 * j) 3).toNat + i)
      else if c.extractLsb' (8 * j + 3) 2 = 1#2 then (bytePool a b).getLsbD (8 * (c.extractLsb' (8 * j) 3).toNat + 7 - i)
      else if c.extractLsb' (8 * j + 3) 2 = 2#2 then false
      else (bytePool a b).getLsbD (8 * (c.extractLsb' (8 * j) 3).toNat + 7) := by
  have hsel : bitsOf (elemAt 8 c.toNat j) 4 3 = (c.extractLsb' (8 * j + 3) 2).toNat := by
    rw [elemAt, bitsOf, BitVec.extractLsb'_toNat, Nat.shiftRight_add, Nat.shiftRight_eq_div_pow _ 3, Nat.shiftRight_eq_div_pow _ 3]
    omega
  have he : elemAt 8 c.toNat j % 8 = (c.extractLsb' (8 * j) 3).toNat := by
    rw [elemAt, BitVec.extractLsb'_toNat]
    omega
  rw [fnBgat, getLsbD_packElems hi (by omega), getD_map_range hj, toNat_bytePool]
  simp only [hsel, he]
  generalize (c.extractLsb' (8 * j) 3).toNat = e
  have hbyte : ∀ k < 8, (elemAt 8 (bytePool a b).toNat e).testBit k = (bytePool a b).getLsbD (8 * e + k) := fun k hk => by
    rw [testBit_elemAt, BitVec.testBit_toNat, decide_eq_true hk, Bool.true_and]
  have hcodes : ∀ code : BitVec 2, code = 0#2 ∨ code = 1#2 ∨ code = 2#2 ∨ code = 3#2 := by decide
  rcases hcodes (c.extractLsb' (8 * j + 3) 2) with h | h | h | h <;> rw [h]
  · exact hbyte i hi
  · exact (testBit_revByte _ hi).trans ((hbyte (7 - i) (by omega)).trans (by rw [Nat.add_sub_assoc (by omega)]; rfl))
  · exact Nat.zero_testBit i
  · exact (testBit_fill _ hi).trans ((bitAt_eq_testBit _ _).trans (hbyte 7 (by decide)))

end Sys2Proof.Proofs
end

section
/-! SUPPORT. Packed elements (R246): what an element of a packed result holds. -/
namespace Sys2Proof.Proofs
open Sys2Proof Sys2Proof.Machine

/-- An element, signed or not, as the words of R246 read it. -/
theorem elem_of_elemAt (sgn : Bool) (w : Nat) (v : DWord) (k : Nat) :
    (if sgn = true then toSigned w (elemAt w v.toNat k) else (elemAt w v.toNat k : Int)) = Elem sgn w k v := by
  rw [Elem, elemAt_toNat, toSigned_eq_toInt, BitVec.ofNat_toNat, BitVec.setWidth_eq]

theorem intVal_elemAt (t : Ty) (v : DWord) (k : Nat) : intVal t (elemAt (elemBits t) v.toNat k) = Elem (signedTy t) (elemBits t) k v := by
  rw [← elem_of_elemAt, intVal, elemAt, Nat.mod_mod]

theorem extractLsb'_packElems {w k : Nat} (h : w * k + w ≤ 64) (es : List Nat) :
    (BitVec.ofNat 64 (packElems w es)).extractLsb' (w * k) w = BitVec.ofNat w (es.getD k 0) := by
  apply BitVec.eq_of_getLsbD_eq
  intro i hi
  rw [BitVec.getLsbD_extractLsb', getLsbD_packElems hi (by omega), BitVec.getLsbD_ofNat]

/-- An integer of a type's range survives in a pattern of the type. -/
theorem intVal_wrapNat {t : Ty} (hbits : 0 < elemBits t) {z : Int} (hlo : intMinVal t ≤ z) (hhi : z ≤ intMaxVal t) :
    intVal t (wrapNat (elemBits t) z) = z := by
  unfold intVal
  unfold intMinVal at hlo
  unfold intMaxVal at hhi
  split
  · next hs =>
    rw [if_pos hs] at hlo hhi
    push_cast at hlo hhi
    rw [toSigned_eq_toInt, wrapNat_eq_toNat, BitVec.ofNat_toNat, BitVec.setWidth_eq,
      BitVec.toInt_ofInt_eq_self hbits hlo (Int.lt_of_le_sub_one hhi)]
  · next hs =>
    rw [if_neg hs] at hlo hhi
    have hmod : z % ((2 ^ elemBits t : Nat) : Int) = z := Int.emod_eq_of_lt hlo (Int.lt_of_le_sub_one hhi)
    rw [Nat.mod_eq_of_lt (wrapNat_lt _ _), wrapNat, hmod, Int.toNat_of_nonneg hlo]

theorem elemBits_pos (t : Ty) : 0 < elemBits t := by cases t <;> decide
theorem intMinVal_le_intMaxVal (t : Ty) : intMinVal t ≤ intMaxVal t := by cases t <;> decide

theorem intVal_clamped (t : Ty) (r : Int) : intVal t (wrapNat (elemBits t) (clampInt t r)) = clampInt t r := by
  have hle := intMinVal_le_intMaxVal t
  rw [clampInt_eq hle]
  exact intVal_wrapNat (elemBits_pos t) (by omega) (by omega)

/-- A packed result whose element `k` is the clamped value of `r`. -/
theorem elem_packElems {t : Ty} {k : Nat} {es : List Nat} {r : Int} (h : elemBits t * k + elemBits t ≤ 64)
    (he : es.getD k 0 = wrapNat (elemBits t) (clampInt t r)) :
    Elem (signedTy t) (elemBits t) k (BitVec.ofNat 64 (packElems (elemBits t) es)) = clampInt t r := by
  rw [← intVal_clamped t r, Elem, extractLsb'_packElems h, he, intVal, toSigned_eq_toInt, BitVec.toNat_ofNat]

theorem elem_fnPacked (t : Ty) (op : Int → Int → Int) (a b : DWord) {k : Nat} (hk : k < 32 / elemBits t) :
    Elem (signedTy t) (elemBits t) k (fnPacked t op a b) =
      clampInt t (op (Elem (signedTy t) (elemBits t) k a) (Elem (signedTy t) (elemBits t) k b)) := by
  have hle : elemBits t * (k + 1) ≤ 32 := (Nat.mul_le_mul_left _ hk).trans (Nat.mul_div_le 32 _)
  rw [fnPacked]
  refine elem_packElems (by rw [Nat.mul_add] at hle; omega) ?_
  rw [getD_map_range hk, intVal_elemAt, intVal_elemAt]

/-- The elements of a pack word: those of its first source, then those of its second. -/
theorem elem_fnPack (sgn : Bool) (t : Ty) (a b : DWord) {k : Nat} (hk : k < 16 / elemBits t) :
    Elem (signedTy t) (elemBits t) k (fnPack sgn t a b) = clampInt t (Elem sgn (2 * elemBits t) k a) ∧
    Elem (signedTy t) (elemBits t) (16 / elemBits t + k) (fnPack sgn t a b) = clampInt t (Elem sgn (2 * elemBits t) k b) := by
  have hle : elemBits t * (k + 1) ≤ 16 := (Nat.mul_le_mul_left _ hk).trans (Nat.mul_div_le 16 _)
  have hle2 := Nat.mul_div_le 16 (elemBits t)
  rw [Nat.mul_add] at hle
  simp only [fnPack, elem_of_elemAt]
  constructor
  · refine elem_packElems (by omega) ?_
    rw [List.getD_append _ _ _ _ (by simpa using hk), getD_map_range hk]
  · refine elem_packElems (by rw [Nat.mul_add]; omega) ?_
    rw [List.getD_append_right _ _ _ _ (by simp), List.length_map, List.length_range, Nat.add_sub_cancel_left, getD_map_range hk]

/-- The ends of a packed type's range by its sign and width (R225, R246). -/
theorem clampInt_eq_ends (t : Ty) (r : Int) : clampInt t r = max (if signedTy t = true then -2 ^ (elemBits t - 1) else 0)
    (min r (if signedTy t = true then 2 ^ (elemBits t - 1) - 1 else 2 ^ elemBits t - 1)) := by
  rw [clampInt_eq (intMinVal_le_intMaxVal t), intMinVal, intMaxVal]
  push_cast
  rfl

theorem sign_and_width_of_packed : ∀ q ∈ [(Ty.i8, true, 8), (.n8, false, 8), (.i16, true, 16), (.n16, false, 16), (.i32, true, 32), (.n32, false, 32)],
    q.2.1 = signedTy q.1 ∧ q.2.2 = elemBits q.1 := by decide

end Sys2Proof.Proofs
end

section
/-! SUPPORT. The integer, address and bit words (O1 to O9): each is an ALU word of its function, whose values the sections above give. -/
namespace Sys2Proof.Proofs
open Sys2Proof Sys2Proof.Machine

/-! ### The table of `bperm` (R257) -/

/-- The scalars of a `bperm` table that all exist. -/
theorem toNat_table_key {n : BitVec 6} (hn : n.toNat ≤ 58) {j : Nat} (hj : j < 6) : (n + BitVec.ofNat 6 j).toNat = n.toNat + j := by
  rw [BitVec.toNat_add, BitVec.toNat_ofNat]
  omega

theorem any_table_pz {n : BitVec 6} (hn : n.toNat ≤ 58) (x : IC) (k : Nat) :
    (tableOps (.s n)).any (fun o => x.pz true o k) = (List.range 6).any (fun j => x.pzKey (keyS (n.toNat + j))) := by
  rw [tableOps, List.any_map, Bool.eq_iff_iff, List.any_eq_true, List.any_eq_true]
  refine exists_congr fun j => and_congr_right fun hj => ?_
  rw [← toNat_table_key hn (List.mem_range.1 hj)]
  rfl

theorem map_table_rd {n : BitVec 6} (hn : n.toNat ≤ 58) (x : IC) (k : Nat) :
    (tableOps (.s n)).map (fun o => x.rd true o k) = (List.range 6).map (fun j => x.key (keyS (n.toNat + j))) := by
  rw [tableOps, List.map_map]
  refine List.map_congr_left fun j hj => ?_
  rw [← toNat_table_key hn (List.mem_range.1 hj)]
  rfl

/-- A `bperm` word reads its six scalars, and is poisoned when its source or one of them is (R257, R441). -/
theorem bperm_writes (c : Common) (f : V3) (n : BitVec 6) (hb : f.b = .s n) (hn : n.toNat ≤ 58) :
    Writes (.bperm c f) true f.d (fun x k => x.pz true f.a k || (List.range 6).any (fun j => x.pzKey (keyS (n.toNat + j))))
      (fun x k => fnBperm (x.rd true f.a k) ((List.range 6).map (fun j => x.key (keyS (n.toNat + j))))) := by
  have hpz : (fun (x : IC) k => x.pz true f.a k || (List.range 6).any (fun j => x.pzKey (keyS (n.toNat + j)))) =
      fun x k => x.pz true f.a k || (tableOps f.b).any (fun o => x.pz true o k) := by
    funext x k
    rw [hb, any_table_pz hn]
  rw [hpz]
  exact writes_of (lat := some 4) (f := fun x i => fnBperm (x.rd true f.a i) ((tableOps f.b).map (fun o => x.rd true o i)))
    (fun _ => rfl) (fun x k _ => by rw [hb, map_table_rd hn])

/-! ### O1 to O9 -/

/-- Settles O1: each word is an ALU word of its function, which is the exact one on the integers of its type. -/
theorem integerArithmetic : Obligations.IntegerArithmetic := by
  unfold Obligations.IntegerArithmetic
  refine ⟨⟨?_, fun c f ht => ?_⟩, ?_, fun c f ht => ?_⟩
  · refine ⟨?_, ?_, ?_, ?_, ?_, ?_, ?_, ?_, ?_, ?_⟩ <;> exact formsV3_of (fun _ _ => rfl) rfl
  · exact ⟨writes2_of (fun _ => rfl) (fun a b _ _ => fnAdd_eq ht _ a b), writes2_of (fun _ => rfl) (fun a b _ _ => fnSub_eq ht _ a b),
      writes2_of (fun _ => rfl) (fun a b _ _ => fnMul_eq ht a b), writes2_of (fun _ => rfl) (fun a b _ _ => fnMulhi_eq ht a b),
      writes3_of (fun _ => rfl) (fun a b k _ _ _ => fnMad_eq ht _ a b k), writes2_of (fun _ => rfl) (fun a b _ _ => fnMin_eq ht a b),
      writes2_of (fun _ => rfl) (fun a b _ _ => fnMax_eq ht a b), writes1_of (fun _ => rfl) (fun a _ => fnAbs_eq ht a),
      writes1_of (fun _ => rfl) (fun a _ => fnNeg_eq ht a), writes3_of (fun _ => rfl) (fun a b k _ _ _ => fnSad_eq ht a b k)⟩
  · exact ⟨formsV3_of (fun _ _ => rfl) rfl, formsV3_of (fun _ _ => rfl) rfl⟩
  · exact ⟨writes2_of (g := fun a b => fnMadw f.ty a b 0) (fun _ => rfl) (fun a b _ _ => fnMadw_zero a b f.ty ht),
      writes3_of (fun _ => rfl) (fun a b k _ _ _ => fnMadw_eq a b k f.ty ht)⟩

/-- Settles O2: an immediate of an i type holds its own integer, one of a b type its bits. -/
theorem immediateWords : Obligations.ImmediateWords := by
  unfold Obligations.ImmediateWords
  refine ⟨⟨?_, ?_, ?_, ?_, ?_, ?_, ?_, ?_, ?_, ?_, fun c f h => ?_⟩, fun c f ht => ?_, fun c f ht => ?_⟩
  iterate 10 exact formsVI_of (fun _ _ => rfl) rfl
  · rcases h with h | h | h
    · exact shiftImm_lt_width (i := .shli c f) rfl rfl rfl h
    · exact shiftImm_lt_width (i := .shri c f) rfl rfl rfl h
    · exact shiftImm_lt_width (i := .srai c f) rfl rfl rfl h
  · have hint := mem_ints_of_signed f.ty ht
    have himm := intOf_immOf f.imm f.ty ht
    exact ⟨writes1_of (g := fun a => fnAdd f.ty false a (immOf f.ty f.imm)) (fun _ => rfl) (fun a _ => by rw [fnAdd_eq hint, himm]),
      writes1_of (g := fun a => fnMul f.ty a (immOf f.ty f.imm)) (fun _ => rfl) (fun a _ => by rw [fnMul_eq hint, himm])⟩
  · have himm := immOf_eq_of_bits f.imm f.ty ht
    refine ⟨writes_of (lat := some latInt) (f := fun _ _ => immOf f.ty f.imm) (fun _ => rfl) (fun _ _ _ => himm),
      writes1_of (g := fun a => fnMovhi f.ty.width a f.imm) (fun _ => rfl) (fun a _ => fnMovhi_eq f.ty a f.imm),
      writes1_of (g := fun a => a &&& immOf f.ty f.imm) (fun _ => rfl) (fun a _ => by rw [himm]),
      writes1_of (g := fun a => a ||| immOf f.ty f.imm) (fun _ => rfl) (fun a _ => by rw [himm]),
      writes1_of (g := fun a => a ^^^ immOf f.ty f.imm) (fun _ => rfl) (fun a _ => by rw [himm]), fun hlt => ?_⟩
    have hin : ¬ f.ty.width ≤ f.imm.toNat := Nat.not_le.2 hlt
    exact ⟨writes1_of (g := fun a => fnShl f.ty.width a f.imm.toNat) (fun _ => rfl) (fun a _ => by rw [fnShl_eq, if_neg hin]),
      writes1_of (g := fun a => fnShr f.ty.width a f.imm.toNat) (fun _ => rfl) (fun a ha => by rw [fnShr_eq ha, if_neg hin]),
      writes1_of (g := fun a => fnSra f.ty.width a f.imm.toNat) (fun _ => rfl) (fun a _ => fnSra_eq f.ty a _)⟩

/-- Settles O3: complements are cut to the width, shifts and rotates are those of bit vectors of the width. -/
theorem logicAndShiftWords : Obligations.LogicAndShiftWords := by
  unfold Obligations.LogicAndShiftWords
  refine ⟨⟨?_, fun c f _ => ?_⟩, ?_, fun c f _ => ?_⟩
  · refine ⟨?_, ?_, ?_, ?_, ?_, ?_, ?_⟩ <;> exact formsV3_of (fun _ _ => rfl) rfl
  · exact ⟨writes2_of (g := fun a b => a &&& b) (fun _ => rfl) (fun _ _ _ _ => rfl),
      writes2_of (g := fun a b => a ||| b) (fun _ => rfl) (fun _ _ _ _ => rfl),
      writes2_of (g := fun a b => a ^^^ b) (fun _ => rfl) (fun _ _ _ _ => rfl),
      writes2_of (g := fun a b => a &&& fnNot f.ty.width b) (fun _ => rfl) (fun a b ha _ => by rw [fnNot_eq_cut, and_cut ha]),
      writes2_of (g := fun a b => a ||| fnNot f.ty.width b) (fun _ => rfl) (fun a b ha _ => by rw [fnNot_eq_cut, or_cut ha]),
      writes1_of (g := fnNot f.ty.width) (fun _ => rfl) (fun a _ => fnNot_eq_cut f.ty a),
      writes3_of (g := fnBsel) (fun _ => rfl) (fun _ _ _ _ _ _ => rfl)⟩
  · refine ⟨?_, ?_, ?_, ?_, ?_, ?_⟩ <;> exact formsV3_of (fun _ _ => rfl) rfl
  · exact ⟨writes2_of (g := fun a b => fnShl f.ty.width a b.toNat) (fun _ => rfl) (fun a b _ _ => fnShl_eq f.ty a b.toNat),
      writes2_of (g := fun a b => fnShr f.ty.width a b.toNat) (fun _ => rfl) (fun a b ha _ => fnShr_eq ha b.toNat),
      writes2_of (g := fun a b => fnSra f.ty.width a b.toNat) (fun _ => rfl) (fun a b _ _ => fnSra_eq f.ty a b.toNat),
      writes2_of (g := fun a b => fnRotl f.ty.width a b.toNat) (fun _ => rfl) (fun a b _ _ => fnRotl_eq f.ty a b.toNat),
      writes2_of (g := fun a b => fnRotr f.ty.width a b.toNat) (fun _ => rfl) (fun a b _ _ => fnRotr_eq f.ty a b.toNat),
      writes3_of (g := fun a b k => fnFsh f.ty.width a b k.toNat) (fun _ => rfl) (fun a b k _ _ _ => fnFsh_eq f.ty a b k.toNat)⟩

/-- Settles O4: counts by the first one bit, the others bit by bit. -/
theorem bitFieldWords : Obligations.BitFieldWords := by
  unfold Obligations.BitFieldWords
  refine ⟨⟨?_, ?_, ?_, ?_, ?_, ?_, fun c f h => bfe_b_eq_zero h⟩, fun c f _ => ?_⟩
  iterate 6 exact formsV3_of (fun _ _ => rfl) rfl
  have hw := width_le f.ty
  exact ⟨writes1_of (g := fnPopc f.ty.width) (fun _ => rfl) (fun a _ => fnPopc_eq f.ty.width a),
    ⟨fnClz f.ty.width, writes1_of (fun _ => rfl) (fun _ _ => rfl), fnClz_spec hw⟩,
    ⟨fnCtz f.ty.width, writes1_of (fun _ => rfl) (fun _ _ => rfl), fnCtz_spec hw⟩,
    ⟨fnBrev f.ty.width, writes1_of (fun _ => rfl) (fun _ _ => rfl), getLsbD_fnBrev hw⟩,
    ⟨fnBfe f.ty.width, writes2_of (fun _ => rfl) (fun _ _ _ _ => rfl), getLsbD_fnBfe hw⟩,
    ⟨fnBfi f.ty.width, writes3_of (fun _ => rfl) (fun _ _ _ _ _ _ => rfl), getLsbD_fnBfi hw⟩⟩

/-- Settles O5: the set words compare the integers of their type, `sel` tests its 32-bit condition. -/
theorem compareAndSelect : Obligations.CompareAndSelect := by
  unfold Obligations.CompareAndSelect
  refine ⟨?_, fun c f ht => ?_, fun c f _ => ?_⟩
  · refine ⟨?_, ?_, ?_, ?_, ?_, ?_, ?_⟩ <;> exact formsV3_of (fun _ _ => rfl) rfl
  · refine ⟨?_, ?_, ?_, ?_, ?_, ?_⟩ <;> refine writes2_of (fun _ => rfl) (fun a b _ _ => (fnSet_eq ht _ a b).trans ?_) <;>
      simp [Rel.holds]
  · exact writes3_of (g := fnSel) (fun _ => rfl) (fun a b k _ _ hk => fnSel_eq (hk rfl))

/-- Settles O6: the parts of an address are its bits 63:40 and 39:0. -/
theorem addressWords : Obligations.AddressWords := by
  unfold Obligations.AddressWords
  refine ⟨⟨?_, ?_, ?_, ?_, ?_, formsVI_of (fun _ _ => rfl) rfl⟩, fun c f => ?_, fun c f => ?_⟩
  iterate 5 exact formsV3_of (fun _ _ => rfl) rfl
  · exact ⟨writes1_of (g := fnSegof) (fun _ => rfl) (fun _ _ => rfl), writes1_of (g := fnOffof) (fun _ => rfl) (fun _ _ => rfl),
      writes2_of (g := fnMkaddr) (fun _ => rfl) (fun a b _ _ => fnMkaddr_eq a b),
      writes2_of (g := fnAddoff) (fun _ => rfl) (fun a b _ _ => by rw [fnAddoff_eq, BitVec.setWidth_eq_extractLsb' (by decide)]),
      writes_of (lat := some 4) (f := fun x i => fnAbsaddr (x.w.lane i).sseg (x.w.lane i).fb (x.rd true f.a i)) (fun _ => rfl)
        (fun _ _ _ => rfl)⟩
  · exact writes1_of (g := fun a => fnAddoff a (f.imm.signExtend 64)) (fun _ => rfl)
      (fun a _ => by rw [fnAddoff_eq, setWidth_signExtend (by decide)])

/-- Settles O7: the bits of a product are parities, those of a deposit and a gather go by rank in the mask. -/
theorem matrixAndDepositWords : Obligations.MatrixAndDepositWords := by
  unfold Obligations.MatrixAndDepositWords
  refine ⟨⟨?_, ?_, ?_, ?_, ?_⟩, fun c f => ⟨?_, ?_, ?_⟩, fun c f _ => ⟨?_, ?_⟩⟩
  iterate 5 exact formsV3_of (fun _ _ => rfl) rfl
  · refine ⟨fnBmm bmmElem, writes2_of (fun _ => rfl) (fun _ _ _ _ => rfl), fun a b r hr k hk => ?_⟩
    rw [getLsbD_fnBmm _ a b hr hk]
    simp only [bmmElem, bitAt_toNat]
  · refine ⟨fnBmm bmmtElem, writes2_of (fun _ => rfl) (fun _ _ _ _ => rfl), fun a b r hr k hk => ?_⟩
    rw [getLsbD_fnBmm _ a b hr hk]
    simp only [bmmtElem, bitAt_toNat]
  · refine ⟨_, writes3_of (g := fun a b y => y ^^^ fnBmm bmmElem a b) (fun _ => rfl) (fun _ _ _ _ _ _ => rfl), fun a b y r hr k hk => ?_⟩
    rw [BitVec.getLsbD_xor, getLsbD_fnBmm _ a b hr hk]
    simp only [bmmElem, bitAt_toNat]
  · refine ⟨fnSpread f.ty.width, writes2_of (fun _ => rfl) (fun _ _ _ _ => rfl), fun a b j => ?_⟩
    rw [countP_range_eq_count]
    exact getLsbD_fnSpread (width_le f.ty) a b j
  · refine ⟨fnGather f.ty.width, writes2_of (fun _ => rfl) (fun _ _ _ _ => rfl), fun a b => ⟨fun q hq hb => ?_, fun k hk => ?_⟩⟩
    · rw [countP_range_eq_count]
      exact getLsbD_fnGather_onesBelow (width_le f.ty) a b hq hb
    · rw [countP_range_eq_count] at hk
      exact getLsbD_fnGather_of_onesBelow_le f.ty.width a b hk

/-- Settles O8: bits and bytes go where the table, the selector or the reversal sends them; the active mask is the list of the word's lanes. -/
theorem permuteAndMoveWords : Obligations.PermuteAndMoveWords := by
  unfold Obligations.PermuteAndMoveWords
  refine ⟨⟨⟨?_, ?_, ?_, fun c f => bperm_table⟩, fun c f n hb hn => ?_, fun c f => ?_, fun c f _ => ?_⟩,
    ⟨?_, ?_⟩, fun c f => ⟨?_, ?_⟩⟩
  iterate 3 exact formsV3_of (fun _ _ => rfl) rfl
  · exact ⟨fnBperm, bperm_writes c f n hb hn, fun a s0 s1 s2 s3 s4 s5 j hj => getLsbD_fnBperm a s0 s1 s2 s3 s4 s5 hj⟩
  · exact ⟨fnBgat, writes3_of (fun _ => rfl) (fun _ _ _ _ _ _ => rfl), fun a b k j hj i hi => getLsbD_fnBgat a b k hj hi⟩
  · exact ⟨fnBswap f.ty.width, writes1_of (fun _ => rfl) (fun _ _ => rfl), fun a j hj i hi => getLsbD_fnBswap (width_le f.ty) a hj hi⟩
  iterate 2 exact formsV3_of (fun _ _ => rfl) rfl
  · exact writes_fixed_of (lat := 4) (fun _ => rfl)
  · refine ⟨fun ls => (maskOf ls).setWidth 64, writes_of (lat := some latInt) (f := fun x _ => (maskOf x.lanes).setWidth 64) (fun _ => rfl)
      (fun _ _ _ => rfl), fun ls i => ?_⟩
    rw [BitVec.getLsbD_setWidth, Bool.eq_iff_iff, Bool.and_eq_true, getLsbD_maskOf, decide_eq_true_eq, decide_eq_true_eq]
    exact and_iff_right_of_imp fun h => by omega

/-- Settles O9: element by element, clamped. -/
theorem packedWords : Obligations.PackedWords := by
  unfold Obligations.PackedWords
  refine ⟨⟨?_, ?_, ?_, ?_⟩, fun c f q hq hty => ?_⟩
  iterate 4 exact formsV3_of (fun _ _ => rfl) rfl
  obtain ⟨hsigned, hbits⟩ := sign_and_width_of_packed q hq
  rw [← hty] at hsigned hbits
  simp only [hsigned, hbits, ← clampInt_eq_ends]
  refine ⟨?_, ?_, fun _ src => ?_⟩
  · exact ⟨fnAddsat f.ty, writes2_of (fun _ => rfl) (fun _ _ _ _ => rfl), fun a b k hk => elem_fnPacked f.ty (· + ·) a b hk⟩
  · exact ⟨fnSubsat f.ty, writes2_of (fun _ => rfl) (fun _ _ _ _ => rfl), fun a b k hk => elem_fnPacked f.ty (· - ·) a b hk⟩
  · refine ⟨fnPack src f.ty, ?_, fun a b k hk => elem_fnPack src f.ty a b hk⟩
    cases src with
    | true => exact writes2_of (fun _ => rfl) (fun _ _ _ _ => rfl)
    | false => exact writes2_of (fun _ => rfl) (fun _ _ _ _ => rfl)

end Sys2Proof.Proofs
end

section
/-! SUPPORT. Floating patterns in registers: the elements of a register as patterns (R222), and the bounds of the patterns that the
formats of R223 give. -/
namespace Sys2Proof.Proofs
open Sys2Proof Sys2Proof.Machine

/-! ### Elements as patterns -/

theorem elemAt_eq_patAt (w : Nat) (v : DWord) (k : Nat) : elemAt w v.toNat k = patAt w k v := elemAt_toNat w v k

theorem patAt_lt (w k : Nat) (v : DWord) : patAt w k v < 2 ^ w := BitVec.isLt _

theorem patAt_zero (w : Nat) (v : DWord) : patAt w 0 v = v.toNat % 2 ^ w := by
  rw [← elemAt_eq_patAt, elemAt, Nat.mul_zero, Nat.shiftRight_zero]

theorem testBit_patAt (w k : Nat) (v : DWord) (i : Nat) : (patAt w k v).testBit i = (decide (i < w) && v.getLsbD (w * k + i)) := by
  rw [patAt, BitVec.testBit_toNat, BitVec.getLsbD_extractLsb']

/-- A bit of a register, found in its element. -/
theorem testBit_patAt_div {w : Nat} (hw : 0 < w) (v : DWord) (i : Nat) : (patAt w (i / w) v).testBit (i % w) = v.getLsbD i := by
  rw [testBit_patAt, Nat.div_add_mod, decide_eq_true (Nat.mod_lt i hw), Bool.true_and]

/-- An element of a packed register whose pattern fits. -/
theorem patAt_packElems {w k : Nat} (h : w * k + w ≤ 64) {es : List Nat} (he : es.getD k 0 < 2 ^ w) :
    patAt w k (BitVec.ofNat 64 (packElems w es)) = es.getD k 0 := by
  rw [patAt, extractLsb'_packElems h, BitVec.toNat_ofNat, Nat.mod_eq_of_lt he]

theorem toNat_ofNat_of_lt {w n : Nat} (hw : w ≤ 64) (hn : n < 2 ^ w) : (BitVec.ofNat 64 n).toNat = n := by
  rw [BitVec.toNat_ofNat]
  exact Nat.mod_eq_of_lt (Nat.lt_of_lt_of_le hn (Nat.pow_le_pow_right (by decide) hw))

theorem toNat_trunc_of_lt {n : Nat} (hn : n < 2 ^ 32) : (trunc 32 n).toNat = n := by
  rw [toNat_trunc (by decide), Nat.mod_eq_of_lt hn]

/-- Setting a bit that is not set adds its power of two. -/
theorem or_two_pow_eq_add {x i : Nat} (h : x.testBit i = false) : x ||| 2 ^ i = x + 2 ^ i := by
  have hbit : x / 2 ^ i % 2 = 0 := by simpa [Nat.testBit_eq_decide_div_mod_eq] using h
  have hlow : x % 2 ^ (i + 1) < 2 ^ i := by
    rw [Nat.mod_pow_succ, hbit, Nat.mul_zero, Nat.add_zero]
    exact Nat.mod_lt _ (by positivity)
  have hsum : x % 2 ^ (i + 1) + 2 ^ i < 2 ^ (i + 1) := by have := Nat.pow_succ (n := 2) (m := i); omega
  calc x ||| 2 ^ i = 2 ^ (i + 1) * (x / 2 ^ (i + 1)) ||| (x % 2 ^ (i + 1) ||| 2 ^ i) := by
        rw [← Nat.or_assoc, ← Nat.two_pow_add_eq_or_of_lt (Nat.mod_lt _ (by positivity)), Nat.div_add_mod]
    _ = 2 ^ (i + 1) * (x / 2 ^ (i + 1)) + (x % 2 ^ (i + 1) + 2 ^ i) := by
        rw [Nat.or_two_pow_eq_add_of_lt hlow, ← Nat.two_pow_add_eq_or_of_lt hsum]
    _ = x + 2 ^ i := by rw [← Nat.add_assoc, Nat.div_add_mod]

/-- Setting a bit that is set changes nothing. -/
theorem or_two_pow_eq_self {x i : Nat} (h : x.testBit i = true) : x ||| 2 ^ i = x := by
  apply Nat.eq_of_testBit_eq
  intro j
  rw [Nat.testBit_or, Nat.testBit_two_pow]
  by_cases hj : i = j
  · simp [← hj, h]
  · simp [hj]

/-! ### The formats of R223 -/

/-- The formats of the element types. -/
def formats : List Fmt := [fmtF32, fmtF16, fmtBf16, fmtE4m3, fmtE5m2]

theorem fmtOf_mem {t : Ty} {f : Fmt} (h : fmtOf t = some f) : f ∈ formats := by
  revert h
  cases t <;> simp +contextual [fmtOf, formats, eq_comm]

theorem mbits_lt_width (f : Fmt) : f.mbits < f.width := by unfold Fmt.width; omega

/-- The patterns of the formats: magnitudes lie below the sign bit, and no pattern is wider than a register. -/
theorem topMag_lt : ∀ f ∈ formats, f.topMag < 2 ^ (f.ebits + f.mbits) := by decide
theorem width_le_32 : ∀ f ∈ formats, f.width ≤ 32 := by decide

theorem maxFinite_lt_topMag (f : Fmt) : f.maxFinite < f.topMag := Nat.lt_succ_self _

/-- A magnitude with a sign is a pattern. -/
theorem signBit_add_lt {f : Fmt} {p : Nat} (hp : p < 2 ^ (f.ebits + f.mbits)) (neg : Bool) : f.signBit neg + p < 2 ^ f.width := by
  rw [Fmt.width, Nat.add_assoc, Nat.add_comm 1, Nat.pow_succ, Fmt.signBit]
  split <;> omega

/-- The quiet bit is set, and nothing else changes (R224). -/
theorem quiet_eq_or {f : Fmt} (h : f.finiteTop = false) (x : Nat) : f.quiet x = x ||| 2 ^ (f.mbits - 1) := by
  rw [Fmt.quiet, h, if_neg (by decide), bitAt_eq_testBit]
  split
  · next hset => exact (or_two_pow_eq_self hset).symm
  · next hset => exact (or_two_pow_eq_add (by simpa using hset)).symm

theorem quiet_lt {f : Fmt} {x n : Nat} (hn : f.width ≤ n) (hx : x < 2 ^ n) : f.quiet x < 2 ^ n := by
  cases h : f.finiteTop with
  | true => rwa [Fmt.quiet, h, if_pos rfl]
  | false =>
    rw [quiet_eq_or h]
    have := mbits_lt_width f
    exact Nat.or_lt_two_pow hx (Nat.pow_lt_pow_right (by decide) (by omega))

theorem bitsOf_lt (x hi lo : Nat) : bitsOf x hi lo < 2 ^ (hi + 1 - lo) := Nat.mod_lt _ (by positivity)

/-- The origin NaN is a magnitude (R232). -/
theorem origin_lt : ∀ f ∈ formats, ∀ c : NanCtx, f.origin c < 2 ^ (f.ebits + f.mbits) := by
  intro f hf c
  have hlane : c.lane % 32 < 32 := Nat.mod_lt _ (by decide)
  have hfold : c.fold % 2 ^ 17 < 2 ^ 17 := Nat.mod_lt _ (by decide)
  have hlow : c.fold % 16 < 16 := Nat.mod_lt _ (by decide)
  have hparity : parity17 c.fold < 2 := Nat.mod_lt _ (by decide)
  have htop := topMag_lt f hf
  unfold Fmt.origin
  split_ifs with h1 h2 h3 h4
  · subst h1; show _ < 2 ^ 31; omega
  · subst h2; show _ < 2 ^ 15; omega
  · subst h3; show _ < 2 ^ 15; omega
  · subst h4; show _ < 2 ^ 7; decide
  · exact htop

theorem overflow_le_topMag (f : Fmt) (mode : Rnd) (sat neg : Bool) : f.overflow mode sat neg ≤ f.topMag := by
  have := maxFinite_lt_topMag f
  unfold Fmt.overflow
  split_ifs <;> omega

/-- A rounded value is a pattern of its format (R234, R235). -/
theorem round_lt {f : Fmt} (hf : f ∈ formats) (mode : Rnd) (sat : Bool) (rw : Nat) (c : NanCtx) (x : FVal) :
    f.round mode sat rw c x < 2 ^ f.width := by
  have htop := topMag_lt f hf
  have hmax := maxFinite_lt_topMag f
  cases x with
  | nan => exact Nat.lt_of_le_of_lt (Nat.le_add_left _ _) (signBit_add_lt (origin_lt f hf c) false)
  | inf neg => exact signBit_add_lt (by split <;> omega) neg
  | fin neg m e =>
    have hover := overflow_le_topMag f mode sat neg
    exact signBit_add_lt (by split <;> omega) neg

/-- A NaN of FP32 in another format is a pattern of it (R233). -/
theorem nanFromF32_lt {g : Fmt} (hg : g ∈ formats) {x n : Nat} (hn : g.width ≤ n) (hx : g = fmtF32 → x < 2 ^ n) :
    nanFromF32 g x < 2 ^ n := by
  have hbf : bitsOf x 21 17 < 2 ^ 5 := bitsOf_lt x 21 17
  have hlow : bitsOf x 3 0 < 2 ^ 4 := bitsOf_lt x 3 0
  have hparity : parity17 (bitsOf x 16 0) < 2 := Nat.mod_lt _ (by decide)
  have hpat : ∀ p, p < 2 ^ (g.ebits + g.mbits) → g.signBit (fmtF32.neg x) + p < 2 ^ n := fun p hp =>
    Nat.lt_of_lt_of_le (signBit_add_lt hp _) (Nat.pow_le_pow_right (by decide) hn)
  have htop := topMag_lt g hg
  unfold nanFromF32
  split_ifs with h1 h2 h3 h4
  · exact quiet_lt (h1 ▸ hn) (hx h1)
  · rw [Nat.add_assoc, Nat.add_assoc]; exact hpat _ (by subst h2; show _ < 2 ^ 15; omega)
  · rw [Nat.add_assoc, Nat.add_assoc]; exact hpat _ (by subst h3; show _ < 2 ^ 15; omega)
  · exact hpat _ (by subst h4; decide)
  · exact hpat _ htop

/-- A NaN as one of FP32 is a pattern of FP32 (R233). -/
theorem nanToF32_lt {f : Fmt} {x n : Nat} (hn : 32 ≤ n) (hx : x < 2 ^ n) : nanToF32 f x < 2 ^ n := by
  have hbf : bitsOf x 5 1 < 2 ^ 5 := bitsOf_lt x 5 1
  have hhalf : bitsOf x 8 4 < 2 ^ 5 := bitsOf_lt x 8 4
  have hlow : bitsOf x 3 0 < 2 ^ 4 := bitsOf_lt x 3 0
  have hpat : ∀ p, p < 2 ^ 31 → fmtF32.signBit (f.neg x) + p < 2 ^ n := fun p hp =>
    Nat.lt_of_lt_of_le (signBit_add_lt (f := fmtF32) hp _) (Nat.pow_le_pow_right (by decide) hn)
  unfold nanToF32
  split_ifs
  · exact quiet_lt hn hx
  · rw [Nat.add_assoc, Nat.add_assoc]; exact hpat _ (by omega)
  · rw [Nat.add_assoc, Nat.add_assoc]; exact hpat _ (by omega)
  · exact hpat _ (by decide)

/-- A NaN converted between formats is a pattern of the destination, within its own format and to FP32 if it was one (R233). -/
theorem nanConvert_lt {f g : Fmt} (hg : g ∈ formats) {x n : Nat} (hn : g.width ≤ n) (hx : f = g ∨ g = fmtF32 → x < 2 ^ n) :
    nanConvert f g x < 2 ^ n := by
  unfold nanConvert
  split_ifs with h1 h2
  · exact quiet_lt (h1 ▸ hn) (hx (.inl h1))
  · exact Nat.lt_of_lt_of_le (signBit_add_lt (origin_lt g hg _) _) (Nat.pow_le_pow_right (by decide) hn)
  · exact nanFromF32_lt hg hn (fun h => nanToF32_lt (by subst h; exact hn) (hx (.inr h)))

theorem fConvert_lt {f g : Fmt} (hg : g ∈ formats) (v : FEnv) (k : Nat) {x n : Nat} (hn : g.width ≤ n)
    (hx : f = g ∨ g = fmtF32 → x < 2 ^ n) : fConvert f g v k x < 2 ^ n := by
  unfold fConvert
  split
  · exact nanConvert_lt hg hn hx
  · exact Nat.lt_of_lt_of_le (round_lt hg _ _ _ _ _) (Nat.pow_le_pow_right (by decide) hn)

/-- The result of an operation on patterns of a format is one (R233, R234). -/
theorem rounded_lt {f : Fmt} (hf : f ∈ formats) (v : FEnv) (k : Nat) {xs : List Nat} (hxs : ∀ x ∈ xs, x < 2 ^ f.width) (y : FVal) :
    rounded f v k xs y < 2 ^ f.width := by
  unfold rounded
  split
  · next n hn => exact quiet_lt (Nat.le_refl _) (hxs n (List.mem_of_find?_eq_some hn))
  · exact round_lt hf _ _ _ _ _

end Sys2Proof.Proofs
end

section
/-! SUPPORT. The arithmetic of R264 to R266 on registers: the elements of a result, and the order of FP32 values. -/
namespace Sys2Proof.Proofs
open Sys2Proof Sys2Proof.Machine

/-! ### Elements of f32 and bf16x2 -/

/-- A statement about the types of R264, type by type. -/
theorem forall_fpTypes {p : Ty → Prop} (hf32 : p .f32) (hbf16x2 : p .bf16x2) : ∀ t ∈ [Ty.f32, .bf16x2], p t := by
  simp only [List.forall_mem_cons, List.not_mem_nil, false_imp_iff, implies_true, and_true]
  exact ⟨hf32, hbf16x2⟩

theorem fpFmt_mem (t : Ty) : fpFmt t ∈ formats := by
  unfold fpFmt
  split <;> decide

theorem width_fpFmt (t : Ty) : (fpFmt t).width = fpWidth t := by
  unfold fpFmt fpWidth
  split <;> rfl

theorem fpWidth_pos (t : Ty) : 0 < fpWidth t := by
  unfold fpWidth
  split <;> decide

theorem fpWidth_mul_fpCount (t : Ty) : fpWidth t * fpCount t = 32 := by
  unfold fpWidth fpCount
  split <;> rfl

/-- A bit of a result formed element by element: one of its element's pattern. -/
theorem getLsbD_eachElem (g : Fmt → Nat → (Nat → Nat) → Nat) (xs : List DWord) (i : Nat) : ∀ t ∈ [Ty.f32, .bf16x2],
    (eachElem t g xs).getLsbD i = (decide (i < 32) &&
      (g (fpFmt t) (i / fpWidth t) (fun j => patAt (fpWidth t) (i / fpWidth t) (xs.getD j 0))).testBit (i % fpWidth t)) := by
  apply forall_fpTypes
  case hf32 =>
    show (trunc 32 (g fmtF32 0 fun j => elemAt 32 (xs.getD j 0).toNat 0)).getLsbD i = (decide (i < 32) &&
      (g fmtF32 (i / 32) (fun j => patAt 32 (i / 32) (xs.getD j 0))).testBit (i % 32))
    rw [getLsbD_trunc (by decide)]
    rcases Nat.lt_or_ge i 32 with h | h
    · simp only [elemAt_eq_patAt, Nat.div_eq_of_lt h, Nat.mod_eq_of_lt h]
    · simp [Nat.not_lt.2 h]
  case hbf16x2 =>
    show (BitVec.ofNat 64 (packElems 16 [g fmtBf16 0 fun j => elemAt 16 (xs.getD j 0).toNat 0,
      g fmtBf16 1 fun j => elemAt 16 (xs.getD j 0).toNat 1])).getLsbD i = (decide (i < 32) &&
      (g fmtBf16 (i / 16) (fun j => patAt 16 (i / 16) (xs.getD j 0))).testBit (i % 16))
    rw [BitVec.getLsbD_ofNat, testBit_packElems (by decide)]
    simp only [elemAt_eq_patAt]
    have hcases : i / 16 = 0 ∧ i < 32 ∨ i / 16 = 1 ∧ i < 32 ∨ 2 ≤ i / 16 ∧ ¬ i < 32 := by omega
    rcases hcases with ⟨hq, hlt⟩ | ⟨hq, hlt⟩ | ⟨hq, hge⟩
    · simp [hq, hlt, show i < 64 by omega]
    · simp [hq, hlt, show i < 64 by omega]
    · rw [List.getD_eq_default _ _ hq]
      simp [hge]

/-- An element of a result: the pattern formed from the matching elements of the sources. -/
theorem patAt_eachElem {t : Ty} (ht : t ∈ [Ty.f32, .bf16x2]) {g : Fmt → Nat → (Nat → Nat) → Nat} {xs : List DWord} {k : Nat}
    (hk : k < fpCount t)
    (hg : g (fpFmt t) k (fun j => patAt (fpWidth t) k (xs.getD j 0)) < 2 ^ fpWidth t) :
    patAt (fpWidth t) k (eachElem t g xs) = g (fpFmt t) k (fun j => patAt (fpWidth t) k (xs.getD j 0)) := by
  have hpos := fpWidth_pos t
  have hle : fpWidth t * (k + 1) ≤ 32 := fpWidth_mul_fpCount t ▸ Nat.mul_le_mul_left _ hk
  rw [Nat.mul_add] at hle
  apply Nat.eq_of_testBit_eq
  intro i
  rw [testBit_patAt, getLsbD_eachElem _ _ _ t ht]
  rcases Nat.lt_or_ge i (fpWidth t) with h | h
  · rw [Nat.mul_add_div hpos, Nat.div_eq_of_lt h, Nat.mul_add_mod, Nat.mod_eq_of_lt h, Nat.add_zero]
    simp [h, show fpWidth t * k + i < 32 by omega]
  · rw [Nat.testBit_lt_two_pow (Nat.lt_of_lt_of_le hg (Nat.pow_le_pow_right (by decide) h))]
    simp [Nat.not_lt.2 h]

/-! ### Rounded arithmetic (R264) -/

theorem rounded_eq (f : Fmt) (v : FEnv) (k : Nat) (xs : List Nat) (y : FVal) :
    rounded f v k xs y = (firstNaN f xs).getD (v.round f k y) := by
  unfold rounded firstNaN
  cases xs.find? f.isNaN <;> rfl

theorem fAdd_eq (f : Fmt) (v : FEnv) (k a b : Nat) : fAdd f v k a b = rounded f v k [a, b] ((f.val a).add v.mode (f.val b)) := by
  rw [rounded_eq, fAdd]
  cases firstNaN f [a, b] <;> rfl

theorem fSub_eq (f : Fmt) (v : FEnv) (k a b : Nat) :
    fSub f v k a b = rounded f v k [a, b] ((f.val a).add v.mode (f.val b).negate) := by
  rw [rounded_eq, fSub]
  cases firstNaN f [a, b] <;> rfl

theorem fMul_eq (f : Fmt) (v : FEnv) (k a b : Nat) : fMul f v k a b = rounded f v k [a, b] ((f.val a).mul (f.val b)) := by
  rw [rounded_eq, fMul]
  cases firstNaN f [a, b] <;> rfl

theorem fFma_eq (f : Fmt) (v : FEnv) (k a b c : Nat) :
    fFma f v k a b c = rounded f v k [a, b, c] (((f.val a).mul (f.val b)).add v.mode (f.val c)) := by
  rw [rounded_eq, fFma]
  cases firstNaN f [a, b, c] <;> rfl

/-- Elements of a register are patterns of the format of its type. -/
theorem rounded_patAt_lt (t : Ty) (v : FEnv) (k : Nat) (xs : List DWord) (y : FVal) :
    rounded (fpFmt t) v k (xs.map (patAt (fpWidth t) k)) y < 2 ^ fpWidth t := by
  rw [← width_fpFmt]
  refine rounded_lt (fpFmt_mem t) v k (fun x hx => ?_) y
  obtain ⟨z, -, rfl⟩ := List.mem_map.1 hx
  rw [width_fpFmt]
  exact patAt_lt _ _ _

section
variable {t : Ty} (ht : t ∈ [Ty.f32, .bf16x2]) (e : FEnv) (a b y : DWord) {k : Nat} (hk : k < fpCount t)
include ht hk

theorem patAt_fnFpAdd : patAt (fpWidth t) k (fnFpAdd t e a b) = rounded (fpFmt t) e k [patAt (fpWidth t) k a, patAt (fpWidth t) k b]
    (((fpFmt t).val (patAt (fpWidth t) k a)).add e.mode ((fpFmt t).val (patAt (fpWidth t) k b))) :=
  (patAt_eachElem ht hk (by rw [fAdd_eq]; exact rounded_patAt_lt t e k [a, b] _)).trans (fAdd_eq ..)

theorem patAt_fnFpSub : patAt (fpWidth t) k (fnFpSub t e a b) = rounded (fpFmt t) e k [patAt (fpWidth t) k a, patAt (fpWidth t) k b]
    (((fpFmt t).val (patAt (fpWidth t) k a)).add e.mode ((fpFmt t).val (patAt (fpWidth t) k b)).negate) :=
  (patAt_eachElem ht hk (by rw [fSub_eq]; exact rounded_patAt_lt t e k [a, b] _)).trans (fSub_eq ..)

theorem patAt_fnFpMul : patAt (fpWidth t) k (fnFpMul t e a b) = rounded (fpFmt t) e k [patAt (fpWidth t) k a, patAt (fpWidth t) k b]
    (((fpFmt t).val (patAt (fpWidth t) k a)).mul ((fpFmt t).val (patAt (fpWidth t) k b))) :=
  (patAt_eachElem ht hk (by rw [fMul_eq]; exact rounded_patAt_lt t e k [a, b] _)).trans (fMul_eq ..)

theorem patAt_fnFma : patAt (fpWidth t) k (fnFma t e a b y) =
    rounded (fpFmt t) e k [patAt (fpWidth t) k a, patAt (fpWidth t) k b, patAt (fpWidth t) k y]
      ((((fpFmt t).val (patAt (fpWidth t) k a)).mul ((fpFmt t).val (patAt (fpWidth t) k b))).add e.mode
        ((fpFmt t).val (patAt (fpWidth t) k y))) :=
  (patAt_eachElem ht hk (by rw [fFma_eq]; exact rounded_patAt_lt t e k [a, b, y] _)).trans (fFma_eq ..)

end

/-! ### The smaller and the larger (R264) -/

/-- What `min` and `max` share: the first NaN, quieted, else one of the operands. -/
theorem firstNaN_pair_getD (f : Fmt) (a b y : Nat) :
    (firstNaN f [a, b]).getD y = if f.isNaN a then f.quiet a else if f.isNaN b then f.quiet b else y := by
  unfold firstNaN
  cases ha : f.isNaN a with
  | true => simp [ha]
  | false =>
    cases hb : f.isNaN b with
    | true => simp [ha, hb]
    | false => simp [ha, hb]

theorem fMin_eq (f : Fmt) (a b : Nat) : fMin f a b =
    if f.isNaN a then f.quiet a else if f.isNaN b then f.quiet b else if f.key b < f.key a then b else a := by
  rw [← firstNaN_pair_getD, fMin]
  cases firstNaN f [a, b] <;> rfl

theorem fMax_eq (f : Fmt) (a b : Nat) : fMax f a b =
    if f.isNaN a then f.quiet a else if f.isNaN b then f.quiet b else if f.key a < f.key b then b else a := by
  rw [← firstNaN_pair_getD, fMax]
  cases firstNaN f [a, b] <;> rfl

/-- A quieted operand, or an operand, is a pattern of the format. -/
theorem propagated_lt (t : Ty) (k : Nat) (a b : DWord) (p : Prop) [Decidable p] :
    let F := fpFmt t
    let x := patAt (fpWidth t) k a
    let y := patAt (fpWidth t) k b
    (if F.isNaN x then F.quiet x else if F.isNaN y then F.quiet y else if p then y else x) < 2 ^ fpWidth t := by
  have hw : (fpFmt t).width ≤ fpWidth t := (width_fpFmt t).le
  intro F x y
  split_ifs
  · exact quiet_lt hw (patAt_lt _ _ _)
  · exact quiet_lt hw (patAt_lt _ _ _)
  · exact patAt_lt _ _ _
  · exact patAt_lt _ _ _

theorem patAt_fnFpMin {t : Ty} (ht : t ∈ [Ty.f32, .bf16x2]) (a b : DWord) {k : Nat} (hk : k < fpCount t) :
    let F := fpFmt t
    let x := patAt (fpWidth t) k a
    let y := patAt (fpWidth t) k b
    patAt (fpWidth t) k (fnFpMin t a b) =
      if F.isNaN x then F.quiet x else if F.isNaN y then F.quiet y else if F.key y < F.key x then y else x :=
  (patAt_eachElem ht hk (by rw [fMin_eq]; exact propagated_lt t k a b _)).trans (fMin_eq ..)

theorem patAt_fnFpMax {t : Ty} (ht : t ∈ [Ty.f32, .bf16x2]) (a b : DWord) {k : Nat} (hk : k < fpCount t) :
    let F := fpFmt t
    let x := patAt (fpWidth t) k a
    let y := patAt (fpWidth t) k b
    patAt (fpWidth t) k (fnFpMax t a b) =
      if F.isNaN x then F.quiet x else if F.isNaN y then F.quiet y else if F.key x < F.key y then y else x :=
  (patAt_eachElem ht hk (by rw [fMax_eq]; exact propagated_lt t k a b _)).trans (fMax_eq ..)

/-! ### The sign bit (R264) -/

theorem testBit_fAbs (f : Fmt) (x i : Nat) : (fAbs f x).testBit i = (decide (i < f.ebits + f.mbits) && x.testBit i) :=
  Nat.testBit_mod_two_pow x (f.ebits + f.mbits) i

theorem testBit_fNeg (f : Fmt) (x i : Nat) : (fNeg f x).testBit i =
    if i < f.ebits + f.mbits then x.testBit i else decide (i = f.ebits + f.mbits) && !x.testBit i := by
  rw [fNeg, Fmt.mag, Fmt.signBit, testBit_add_ite_two_pow (Nat.mod_lt _ (by positivity)), Nat.testBit_mod_two_pow, Fmt.neg,
    bitAt_eq_testBit]
  by_cases hlow : i < f.ebits + f.mbits
  · simp [hlow]
  · by_cases hsign : i = f.ebits + f.mbits
    · simp [hsign]
    · simp [hlow, hsign]

/-- Bit `i` of a register is the sign bit of an element, or a bit of its magnitude. -/
theorem sign_or_magnitude (t : Ty) (i : Nat) :
    (i % fpWidth t = (fpFmt t).ebits + (fpFmt t).mbits ∧ (i + 1) % fpWidth t = 0) ∨
    (i % fpWidth t < (fpFmt t).ebits + (fpFmt t).mbits ∧ (i + 1) % fpWidth t ≠ 0) := by
  unfold fpWidth fpFmt
  split
  · show (i % 16 = 15 ∧ (i + 1) % 16 = 0) ∨ (i % 16 < 15 ∧ (i + 1) % 16 ≠ 0)
    omega
  · show (i % 32 = 31 ∧ (i + 1) % 32 = 0) ∨ (i % 32 < 31 ∧ (i + 1) % 32 ≠ 0)
    omega

theorem getLsbD_fnFpAbs {t : Ty} (ht : t ∈ [Ty.f32, .bf16x2]) (a : DWord) (i : Nat) :
    (fnFpAbs t a).getLsbD i = (decide (i < 32 ∧ (i + 1) % fpWidth t ≠ 0) && a.getLsbD i) := by
  rw [fnFpAbs, getLsbD_eachElem _ _ _ t ht, testBit_fAbs]
  simp only [List.getD_cons_zero, testBit_patAt_div (fpWidth_pos t)]
  rcases sign_or_magnitude t i with ⟨h, h1⟩ | ⟨h, h1⟩
  · simp [h, h1]
  · simp [h, h1]

theorem getLsbD_fnFpNeg {t : Ty} (ht : t ∈ [Ty.f32, .bf16x2]) (a : DWord) (i : Nat) :
    (fnFpNeg t a).getLsbD i = (decide (i < 32) && (a.getLsbD i ^^ decide ((i + 1) % fpWidth t = 0))) := by
  rw [fnFpNeg, getLsbD_eachElem _ _ _ t ht, testBit_fNeg]
  simp only [List.getD_cons_zero, testBit_patAt_div (fpWidth_pos t)]
  rcases sign_or_magnitude t i with ⟨h, h1⟩ | ⟨h, h1⟩
  · simp [h, h1]
  · simp [h, h1]

end Sys2Proof.Proofs
end

section
/-! SUPPORT. The immediates of R265 and the order of FP32 values (R266). -/
namespace Sys2Proof.Proofs
open Sys2Proof Sys2Proof.Machine

/-! ### Immediates (R265) -/

theorem toNat_fimm (i : BitVec 22) : (fimm i).toNat = i.toNat * 1024 := by
  have hi := i.isLt
  rw [fimm, BitVec.toNat_shiftLeft, BitVec.toNat_setWidth, Nat.shiftLeft_eq]
  omega

theorem patAt_fimm (i : BitVec 22) : patAt 32 0 (fimm i) = i.toNat * 1024 := by
  have hi := i.isLt
  rw [patAt_zero, toNat_fimm]
  omega

theorem fimm_eq_ofNat (i : BitVec 22) : fimm i = BitVec.ofNat 64 (i.toNat * 1024) := by
  rw [← toNat_fimm, BitVec.ofNat_toNat, BitVec.setWidth_eq]

/-- A result of one element is the whole register. -/
theorem toNat_eachElem_f32 (g : Fmt → Nat → (Nat → Nat) → Nat) (xs : List DWord) :
    (eachElem .f32 g xs).toNat = patAt 32 0 (eachElem .f32 g xs) := by
  rw [patAt_zero]
  show (trunc 32 _).toNat = (trunc 32 _).toNat % 2 ^ 32
  rw [toNat_trunc (by decide), Nat.mod_mod]

theorem toNat_fnFpAdd_fimm (e : FEnv) (a : DWord) (i : BitVec 22) : (fnFpAdd .f32 e a (fimm i)).toNat =
    rounded fmtF32 e 0 [patAt 32 0 a, i.toNat * 1024] ((fmtF32.val (patAt 32 0 a)).add e.mode (fmtF32.val (i.toNat * 1024))) := by
  rw [← patAt_fimm]
  exact (toNat_eachElem_f32 _ _).trans (patAt_fnFpAdd (t := .f32) (by decide) e a (fimm i) (k := 0) (by decide))

theorem toNat_fnFpMul_fimm (e : FEnv) (a : DWord) (i : BitVec 22) : (fnFpMul .f32 e a (fimm i)).toNat =
    rounded fmtF32 e 0 [patAt 32 0 a, i.toNat * 1024] ((fmtF32.val (patAt 32 0 a)).mul (fmtF32.val (i.toNat * 1024))) := by
  rw [← patAt_fimm]
  exact (toNat_eachElem_f32 _ _).trans (patAt_fnFpMul (t := .f32) (by decide) e a (fimm i) (k := 0) (by decide))

/-! ### Compares (R266) -/

theorem mag_f32_patAt (a : DWord) : fmtF32.mag (patAt 32 0 a) = (a.extractLsb' 0 31).toNat := by
  rw [BitVec.extractLsb'_toNat, patAt_zero, Nat.shiftRight_zero]
  exact Nat.mod_mod_of_dvd _ (by decide)

theorem neg_f32_patAt (a : DWord) : fmtF32.neg (patAt 32 0 a) = a.getLsbD 31 := by
  rw [Fmt.neg, bitAt_eq_testBit, testBit_patAt]
  rfl

theorem isNaN_f32_patAt (a : DWord) : fmtF32.isNaN (patAt 32 0 a) = fpNaN a := by
  rw [fpNaN, ← mag_f32_patAt]
  rfl

/-- What the set words compare: the order of R264 with the zeros made equal. -/
def fpRank (x : Nat) : Int := if fmtF32.mag x = 0 then 0 else fmtF32.key x

/-- The rank is the order of values, one less at the negative ones. -/
theorem fpRank_eq (a : DWord) : fpRank (patAt 32 0 a) = if fpOrder a < 0 then fpOrder a - 1 else fpOrder a := by
  rw [fpRank, Fmt.key, mag_f32_patAt, neg_f32_patAt, fpOrder]
  cases a.getLsbD 31 <;> simp only [Bool.false_eq_true, if_false, if_true] <;> split_ifs <;> omega

theorem fpRank_lt_iff (a b : DWord) : fpRank (patAt 32 0 a) < fpRank (patAt 32 0 b) ↔ fpOrder a < fpOrder b := by
  rw [fpRank_eq, fpRank_eq]
  split_ifs <;> omega

theorem fpRank_inj (a b : DWord) : fpRank (patAt 32 0 a) = fpRank (patAt 32 0 b) ↔ fpOrder a = fpOrder b := by
  rw [fpRank_eq, fpRank_eq]
  split_ifs <;> omega

theorem holds_fpRank (r : Rel) (a b : DWord) :
    r.holds (fpRank (patAt 32 0 a)) (fpRank (patAt 32 0 b)) = r.holds (fpOrder a) (fpOrder b) := by
  rw [Bool.eq_iff_iff]
  cases r <;> simp only [Rel.holds, beq_iff_eq, bne_iff_ne, ne_eq, decide_eq_true_eq, ← not_lt, fpRank_lt_iff, fpRank_inj]

theorem fnFpSet_eq (r : Rel) (a b : DWord) : fnFpSet r a b =
    BitVec.ofNat 64 (b2n (if fpNaN a || fpNaN b then r == .ne else r.holds (fpOrder a) (fpOrder b))) := by
  rw [← isNaN_f32_patAt, ← isNaN_f32_patAt, ← holds_fpRank, ← elemAt_eq_patAt, ← elemAt_eq_patAt]
  rfl

theorem fnFpSet_of_nan (r : Rel) {a b : DWord} (h : fpNaN a = true ∨ fpNaN b = true) : fnFpSet r a b = if r = .ne then 1 else 0 := by
  rw [fnFpSet_eq, if_pos (by simpa using h)]
  cases r <;> rfl

theorem fnFpSet_of_numbers (r : Rel) {a b : DWord} (ha : fpNaN a = false) (hb : fpNaN b = false) :
    fnFpSet r a b = if r.holds (fpOrder a) (fpOrder b) = true then 1 else 0 := by
  rw [fnFpSet_eq, ha, hb, if_neg (by decide)]
  cases r.holds (fpOrder a) (fpOrder b) <;> rfl

/-- A relation other than ≠ fails at a NaN. -/
theorem fnFpSet_of_ne {r : Rel} (hr : r ≠ .ne) {p : Int → Int → Prop} [∀ u v, Decidable (p u v)]
    (hp : ∀ u v, r.holds u v = true ↔ p u v) (a b : DWord) :
    fnFpSet r a b = if fpNaN a = false ∧ fpNaN b = false ∧ p (fpOrder a) (fpOrder b) then 1 else 0 := by
  by_cases h : fpNaN a = true ∨ fpNaN b = true
  · rw [fnFpSet_of_nan r h, if_neg hr, if_neg]
    rintro ⟨ha, hb, -⟩
    simp [ha, hb] at h
  · obtain ⟨ha, hb⟩ : fpNaN a = false ∧ fpNaN b = false := by simpa using h
    simp [fnFpSet_of_numbers r ha hb, ha, hb, hp]

/-- ≠ holds at a NaN. -/
theorem fnFpSet_ne (a b : DWord) :
    fnFpSet .ne a b = if fpNaN a = false ∧ fpNaN b = false ∧ fpOrder a = fpOrder b then 0 else 1 := by
  by_cases h : fpNaN a = true ∨ fpNaN b = true
  · rw [fnFpSet_of_nan .ne h, if_pos rfl, if_neg]
    rintro ⟨ha, hb, -⟩
    simp [ha, hb] at h
  · obtain ⟨ha, hb⟩ : fpNaN a = false ∧ fpNaN b = false := by simpa using h
    simp [fnFpSet_of_numbers .ne ha hb, ha, hb, Rel.holds]

theorem fnSetnan_eq (a b : DWord) : fnSetnan a b = if fpNaN a = true ∨ fpNaN b = true then 1 else 0 := by
  rw [fnSetnan, elemAt_eq_patAt, elemAt_eq_patAt, isNaN_f32_patAt, isNaN_f32_patAt]
  cases fpNaN a <;> cases fpNaN b <;> rfl

/-- A well-formed FP32 compare does not use field C. -/
theorem fpCompare_c_eq_zero {i : Instr} {sub : Nat} {c : Common} {f : V3} {m : V3Form} (hi : i.view = .fV3 0x11 sub c false f)
    (hm : (v3Forms 0x11)[sub]? = some m) (hc : m.c f.ty = OC.no) (h : i.wellFormed = true) : f.c = .v 0 := by
  obtain ⟨hfield, -, -, -⟩ := firstBad_eq_none_iff.1 (v3Form_check hi hm h)
  simp only [Bool.and_eq_true] at hfield
  simpa [hc, OC.no, OC.fieldOk] using hfield.2

end Sys2Proof.Proofs
end

section
/-! SUPPORT. The arithmetic, immediate and compare words of FP32 and bf16x2 (O10, O11). -/
namespace Sys2Proof.Proofs
open Sys2Proof Sys2Proof.Machine

/-! ### Rounding words by the number of their sources -/

section
variable {i : Instr} {d64 a64 : Bool} {d a b c : Opnd} {rnd : Rnd} {sat : Bool} {n : Nat} {chk : Bool}

/-- A rounding word of one source. -/
theorem drawing1_of {fn : FEnv → DWord → DWord} (he : ∀ s, exec i s = floatWord i.view (some latFp) d64 d rnd sat n chk
      (fun x k => x.pz a64 a k) (fun x k e => fn e (x.rd a64 a k)) s) :
    WritesDrawing i chk d64 d (fun x k => x.pz a64 a k) (streamAfter rnd n) (fun x k => fn (roundEnv rnd sat n x k) (x.rd a64 a k)) :=
  writesDrawing_of he (fun _ _ _ => rfl)

/-- A rounding word of two sources. -/
theorem drawing2_of {fn : FEnv → DWord → DWord → DWord} (he : ∀ s, exec i s = floatWord i.view (some latFp) d64 d rnd sat n chk
      (fun x k => x.pz false a k || x.pz false b k) (fun x k e => fn e (x.rd false a k) (x.rd false b k)) s) :
    WritesDrawing i chk d64 d (fun x k => x.pz false a k || x.pz false b k) (streamAfter rnd n)
      (fun x k => fn (roundEnv rnd sat n x k) (x.rd false a k) (x.rd false b k)) :=
  writesDrawing_of he (fun _ _ _ => rfl)

/-- A rounding word of three sources. -/
theorem drawing3_of {fn : FEnv → DWord → DWord → DWord → DWord} (he : ∀ s, exec i s = floatWord i.view (some latFp) d64 d rnd sat n chk
      (fun x k => x.pz false a k || x.pz false b k || x.pz false c k)
      (fun x k e => fn e (x.rd false a k) (x.rd false b k) (x.rd false c k)) s) :
    WritesDrawing i chk d64 d (fun x k => x.pz false a k || x.pz false b k || x.pz false c k) (streamAfter rnd n)
      (fun x k => fn (roundEnv rnd sat n x k) (x.rd false a k) (x.rd false b k) (x.rd false c k)) :=
  writesDrawing_of he (fun _ _ _ => rfl)

end

/-- A word that rounds to nearest leaves the rounding streams of its lanes (R274). -/
theorem streamAfter_rne (n : Nat) : streamAfter .rne n = fun x k => (x.w.lane k).rstate := rfl

/-- Settles O10: each word is its function on every lane, whose elements the sections above give. -/
theorem floatingArithmetic : Obligations.FloatingArithmetic := by
  unfold Obligations.FloatingArithmetic
  refine ⟨⟨?_, fun c f ht => ?_⟩, ?_, fun c f => ?_⟩
  · refine ⟨?_, ?_, ?_, ?_, ?_, ?_, ?_, ?_⟩ <;> exact formsV3_of (fun _ _ => rfl) rfl
  · refine ⟨?_, ?_, ?_, ?_, ?_, ?_⟩
    · simp only [List.forall_mem_cons, List.not_mem_nil, false_imp_iff, implies_true, and_true]
      exact ⟨⟨fnFpAdd f.ty, drawing2_of (fn := fnFpAdd f.ty) (fun _ => rfl), fun e a b k hk => patAt_fnFpAdd ht e a b hk⟩,
        ⟨fnFpSub f.ty, drawing2_of (fn := fnFpSub f.ty) (fun _ => rfl), fun e a b k hk => patAt_fnFpSub ht e a b hk⟩,
        ⟨fnFpMul f.ty, drawing2_of (fn := fnFpMul f.ty) (fun _ => rfl), fun e a b k hk => patAt_fnFpMul ht e a b hk⟩⟩
    · exact ⟨fnFma f.ty, drawing3_of (fn := fnFma f.ty) (fun _ => rfl), fun e a b y k hk => patAt_fnFma ht e a b y hk⟩
    · exact ⟨fnFpMin f.ty, writes_of (lat := some latFp) (fun _ => rfl) (fun _ _ _ => rfl), fun a b k hk => patAt_fnFpMin ht a b hk⟩
    · exact ⟨fnFpMax f.ty, writes_of (lat := some latFp) (fun _ => rfl) (fun _ _ _ => rfl), fun a b k hk => patAt_fnFpMax ht a b hk⟩
    · exact ⟨fnFpAbs f.ty, writes_of (lat := some latFp) (fun _ => rfl) (fun _ _ _ => rfl), getLsbD_fnFpAbs ht⟩
    · exact ⟨fnFpNeg f.ty, writes_of (lat := some latFp) (fun _ => rfl) (fun _ _ _ => rfl), getLsbD_fnFpNeg ht⟩
  · exact ⟨formsVI_of (fun _ _ => rfl) rfl, formsVI_of (fun _ _ => rfl) rfl, formsVI_of (fun _ _ => rfl) rfl⟩
  · simp only [← streamAfter_rne 1]
    refine ⟨⟨fun e a => fnFpAdd .f32 e a (fimm f.imm), ?_, fun e a hmode _ => ?_⟩,
      ⟨fun e a => fnFpMul .f32 e a (fimm f.imm), ?_, fun e a _ _ => ?_⟩, ?_⟩
    · exact drawing1_of (fn := fun e a => fnFpAdd .f32 e a (fimm f.imm)) (fun _ => rfl)
    · exact hmode ▸ toNat_fnFpAdd_fimm e a f.imm
    · exact drawing1_of (fn := fun e a => fnFpMul .f32 e a (fimm f.imm)) (fun _ => rfl)
    · exact toNat_fnFpMul_fimm e a f.imm
    · exact writes_of (lat := some latFp) (f := fun _ _ => fimm f.imm) (fun _ => rfl) (fun _ _ _ => fimm_eq_ofNat f.imm)

/-- Settles O11: the set words compare the order of values, in which both zeros are 0. -/
theorem floatingCompares : Obligations.FloatingCompares := by
  unfold Obligations.FloatingCompares
  refine ⟨?_, fun c f => ?_, fun c f => ?_⟩
  · refine ⟨?_, ?_, ?_, ?_, ?_, ?_, ?_⟩ <;> exact formsV3_of (fun _ _ => rfl) rfl
  · simp only [List.forall_mem_cons, List.not_mem_nil, false_imp_iff, implies_true, and_true]
    refine ⟨?_, ?_, ?_, ?_, ?_, ?_, ?_⟩ <;> exact fpCompare_c_eq_zero rfl rfl rfl
  · refine ⟨?_, ?_, ?_, ?_, ?_, ?_, ?_⟩
    · exact writes_of (lat := some latFp) (fun _ => rfl) (fun x k _ => fnFpSet_of_ne (r := .eq) (by decide) (by simp [Rel.holds]) _ _)
    · exact writes_of (lat := some latFp) (fun _ => rfl) (fun x k _ => fnFpSet_ne _ _)
    · exact writes_of (lat := some latFp) (fun _ => rfl) (fun x k _ => fnFpSet_of_ne (r := .lt) (by decide) (by simp [Rel.holds]) _ _)
    · exact writes_of (lat := some latFp) (fun _ => rfl) (fun x k _ => fnFpSet_of_ne (r := .le) (by decide) (by simp [Rel.holds]) _ _)
    · exact writes_of (lat := some latFp) (fun _ => rfl) (fun x k _ => fnFpSet_of_ne (r := .gt) (by decide) (by simp [Rel.holds]) _ _)
    · exact writes_of (lat := some latFp) (fun _ => rfl) (fun x k _ => fnFpSet_of_ne (r := .ge) (by decide) (by simp [Rel.holds]) _ _)
    · exact writes_of (lat := some latFp) (fun _ => rfl) (fun x k _ => fnSetnan_eq _ _)

end Sys2Proof.Proofs
end

section
/-! SUPPORT. Exact values and their patterns (R223, R234): rounding a value that a format holds gives its pattern. -/
namespace Sys2Proof.Proofs
open Sys2Proof Sys2Proof.Machine

/-! ### The value of a pattern -/

theorem mag_lt (f : Fmt) (x : Nat) : f.mag x < 2 ^ (f.ebits + f.mbits) := Nat.mod_lt _ (by positivity)

/-- The exponent and the fraction are the parts of the magnitude. -/
theorem mag_eq (f : Fmt) (x : Nat) : f.mag x = f.expField x * 2 ^ f.mbits + f.frac x := by
  rw [Fmt.expField, Fmt.frac, ← Nat.mod_mod_of_dvd x (Nat.pow_dvd_pow 2 (Nat.le_add_left f.mbits f.ebits)), Nat.mul_comm]
  exact (Nat.div_add_mod _ _).symm

/-- The sign and the magnitude are the parts of a pattern. -/
theorem signBit_add_mag {f : Fmt} {x : Nat} (hx : x < 2 ^ f.width) : f.signBit (f.neg x) + f.mag x = x := by
  rw [Fmt.width, Nat.add_assoc, Nat.add_comm 1, Nat.pow_succ] at hx
  have hdiv : x / 2 ^ (f.ebits + f.mbits) < 2 := Nat.div_lt_of_lt_mul hx
  have hsum := Nat.div_add_mod x (2 ^ (f.ebits + f.mbits))
  rw [Fmt.signBit, Fmt.neg, bitAt_eq_testBit, Nat.testBit_eq_decide_div_mod_eq, Fmt.mag, Nat.mod_eq_of_lt hdiv]
  rcases Nat.lt_succ_iff_lt_or_eq.1 hdiv with h | h
  · rw [Nat.lt_one_iff.1 h] at hsum ⊢
    simpa using hsum
  · rw [h] at hsum ⊢
    simpa using hsum

/-- The finite value of a magnitude: the whole number and the power of two that its fields give. -/
structure Holds (f : Fmt) (p u : Nat) (q : Int) : Prop where
  digits : u < 2 ^ (f.mbits + 1)
  least  : 1 - (f.bias : Int) - f.mbits ≤ q
  normal : 2 ^ f.mbits ≤ u ∨ q = 1 - (f.bias : Int) - f.mbits
  fields : p = (q + f.mbits - (1 - (f.bias : Int))).toNat * 2 ^ f.mbits + u

/-- A pattern that is no NaN and no infinity is finite. -/
theorem mag_le_maxFinite {f : Fmt} {x : Nat} (hnan : ¬ f.isNaN x = true) (hinf : ¬ f.isInf x = true) : f.mag x ≤ f.maxFinite := by
  have hlt := mag_lt f x
  unfold Fmt.isNaN Fmt.topMag at hnan
  unfold Fmt.isInf Fmt.topMag at hinf
  cases htop : f.finiteTop with
  | true =>
    have hmax : f.maxFinite = 2 ^ (f.ebits + f.mbits) - 2 := by rw [Fmt.maxFinite, htop, if_pos rfl]
    simp only [htop, if_true, beq_iff_eq] at hnan
    omega
  | false =>
    simp only [htop, Bool.false_eq_true, if_false, decide_eq_true_eq, Bool.not_false, Bool.true_and, beq_iff_eq] at hnan hinf
    omega

/-- A pattern with a finite value holds it. -/
theorem holds_of_val {f : Fmt} {x m : Nat} {neg : Bool} {e : Int} (h : f.val x = .fin neg m e) :
    neg = f.neg x ∧ f.mag x ≤ f.maxFinite ∧ Holds f (f.mag x) m e := by
  have hfrac : f.frac x < 2 ^ f.mbits := Nat.mod_lt _ (by positivity)
  have hmag := mag_eq f x
  have hpow := Nat.pow_succ (n := 2) (m := f.mbits)
  unfold Fmt.val at h
  split_ifs at h with hnan hinf hexp
  · obtain ⟨rfl, rfl, rfl⟩ := h
    rw [hexp, Nat.zero_mul] at hmag
    refine ⟨rfl, mag_le_maxFinite hnan hinf, ⟨by omega, le_refl _, .inr rfl, ?_⟩⟩
    rw [hmag, show (1 - (f.bias : Int) - f.mbits + f.mbits - (1 - (f.bias : Int))).toNat = 0 by omega, Nat.zero_mul]
  · obtain ⟨rfl, rfl, rfl⟩ := h
    refine ⟨rfl, mag_le_maxFinite hnan hinf, ⟨by omega, by omega, .inl (by omega), ?_⟩⟩
    have hshift : ((f.expField x : Int) - f.bias - f.mbits + f.mbits - (1 - (f.bias : Int))).toNat = f.expField x - 1 := by omega
    rw [hmag, hshift, Nat.sub_mul]
    have := Nat.mul_le_mul_right (2 ^ f.mbits) (Nat.one_le_iff_ne_zero.2 hexp)
    omega

/-! ### Rounding a held value -/

/-- Two writings of one value: one number is the other shifted. -/
theorem shifted_of_value {m u : Nat} {e q : Int} (h : (m : ℚ) * 2 ^ e = u * 2 ^ q) :
    (q ≤ e ∧ u = m * 2 ^ (e - q).toNat) ∨ (e < q ∧ m = u * 2 ^ (q - e).toNat) := by
  have hsplit : ∀ {a b : Int}, a ≤ b → (2 : ℚ) ^ b = 2 ^ (b - a).toNat * 2 ^ a := fun {a b} hle => by
    rw [← zpow_natCast, ← zpow_add₀ (by decide)]
    congr 1
    omega
  rcases Int.lt_or_le e q with hlt | hle
  · rw [hsplit hlt.le, ← mul_assoc] at h
    exact .inr ⟨hlt, by exact_mod_cast mul_right_cancel₀ (by positivity : (2 : ℚ) ^ e ≠ 0) h⟩
  · rw [hsplit hle, ← mul_assoc] at h
    exact .inl ⟨hle, by exact_mod_cast (mul_right_cancel₀ (by positivity : (2 : ℚ) ^ q ≠ 0) h).symm⟩

theorem log2_mul_two_pow {n : Nat} (hn : n ≠ 0) (j : Nat) : Nat.log2 (n * 2 ^ j) = Nat.log2 n + j := by
  have hpos : 0 < 2 ^ j := by positivity
  rw [Nat.log2_eq_iff (by positivity), Nat.add_right_comm, Nat.pow_add, Nat.pow_add]
  exact ⟨Nat.mul_le_mul_right _ (Nat.log2_self_le hn), Nat.mul_lt_mul_of_pos_right Nat.lt_log2_self hpos⟩

theorem log2_of_value {m u : Nat} {e q : Int} (hm : m ≠ 0) (hu : u ≠ 0) (h : (m : ℚ) * 2 ^ e = u * 2 ^ q) :
    e + Nat.log2 m = q + Nat.log2 u := by
  rcases shifted_of_value h with ⟨hle, hs⟩ | ⟨hlt, hs⟩
  · rw [hs, log2_mul_two_pow hm]
    omega
  · rw [hs, log2_mul_two_pow hu]
    omega

theorem roundsUp_zero (mode : Rnd) (rw : Nat) (neg odd : Bool) (s : Nat) : roundsUp mode rw neg odd 0 s = false := by
  cases mode with
  | rne => simp [roundsUp, (Nat.two_pow_pos s).ne]
  | rz | rp | rm | rs => simp [roundsUp]

/-- A value that is a whole number of units is not changed by rounding to them. -/
theorem roundAt_of_value {m u : Nat} {e q : Int} (h : (m : ℚ) * 2 ^ e = u * 2 ^ q) (mode : Rnd) (rw : Nat) (neg : Bool) :
    roundAt mode rw neg m e q = u := by
  unfold roundAt
  rcases shifted_of_value h with ⟨hle, hs⟩ | ⟨hlt, hs⟩
  · rw [if_pos hle, hs]
  · have hpos : 0 < 2 ^ (q - e).toNat := by positivity
    rw [if_neg (Int.not_le.2 hlt)]
    simp only [hs, Nat.mul_div_cancel _ hpos, Nat.mul_mod_left, roundsUp_zero, b2n]
    rfl

/-- Rounding the value that a magnitude holds gives the magnitude. -/
theorem roundMag_of_holds {f : Fmt} {p u m : Nat} {e q : Int} (hp : Holds f p u q) (hm : m ≠ 0) (h : (m : ℚ) * 2 ^ e = u * 2 ^ q)
    (mode : Rnd) (rw : Nat) (neg : Bool) : f.roundMag mode rw neg m e = p := by
  have hu : u ≠ 0 := fun h0 => by simp [h0, hm, zpow_ne_zero] at h
  have hlog := log2_of_value hm hu h
  have hdigits : Nat.log2 u < f.mbits + 1 := (Nat.log2_lt hu).2 hp.digits
  have hleast := hp.least
  have htop : max (e + Nat.log2 m) (1 - (f.bias : Int)) = q + f.mbits := by
    rcases hp.normal with hn | hq
    · have := (Nat.le_log2 hu).2 hn
      omega
    · omega
  unfold Fmt.roundMag
  rw [if_neg hm]
  simp only [htop, Int.add_sub_cancel, roundAt_of_value h]
  exact hp.fields.symm

/-- Rounding the value of a pattern gives the pattern, in every mode. -/
theorem round_of_val {f : Fmt} {x m u : Nat} {neg : Bool} {e q : Int} (hx : x < 2 ^ f.width) (hval : f.val x = .fin neg u q)
    (hm : m ≠ 0) (h : (m : ℚ) * 2 ^ e = u * 2 ^ q) (mode : Rnd) (sat : Bool) (rw : Nat) (c : NanCtx) :
    f.round mode sat rw c (.fin neg m e) = x := by
  obtain ⟨rfl, hfinite, hp⟩ := holds_of_val hval
  show f.signBit (f.neg x) + (if f.maxFinite < f.roundMag mode rw (f.neg x) m e then _ else _) = x
  rw [roundMag_of_holds hp hm h, if_neg (Nat.not_lt.2 hfinite), signBit_add_mag hx]

end Sys2Proof.Proofs
end

section
/-! SUPPORT. Conversions, packing, scales and dot products on registers (R267 to R271). -/
namespace Sys2Proof.Proofs
open Sys2Proof Sys2Proof.Machine

/-! ### Conversions (R267) -/

theorem elemBits_le (t : Ty) : elemBits t ≤ 64 := by cases t <;> decide

theorem intReg_reads (t : Ty) (x : Int) : IntReads t (intReg t x) x := by
  have hw : max 32 (elemBits t) = t.width := by cases t <;> rfl
  rw [IntReads, intReg, hw, ofNat_wrapNat_eq_ofInt]

theorem toNat_fConvert {f g : Fmt} (hg : g ∈ formats) (v : FEnv) (k : Nat) {x w : Nat} (hw : w ≤ 64) (hgw : g.width ≤ w)
    (hx : f = g ∨ g = fmtF32 → x < 2 ^ w) : (BitVec.ofNat 64 (fConvert f g v k x)).toNat = fConvert f g v k x :=
  toNat_ofNat_of_lt hw (fConvert_lt hg v k hgw hx)

theorem toNat_round {g : Fmt} (hg : g ∈ formats) (mode : Rnd) (sat : Bool) (rw : Nat) (c : NanCtx) (x : FVal) :
    (BitVec.ofNat 64 (g.round mode sat rw c x)).toNat = g.round mode sat rw c x :=
  toNat_ofNat_of_lt ((width_le_32 g hg).trans (by decide)) (round_lt hg mode sat rw c x)

theorem fToInt_eq (v : FEnv) (k : Nat) (neg : Bool) (m : Nat) (e : Int) :
    fToInt v k neg m e = (if neg then -1 else 1) * (roundAt v.mode (v.rw k) neg m e 0 : Int) := by
  cases neg <;> simp [fToInt]

section
variable {td ts : Ty} {F G : Fmt} (e : FEnv) (a : DWord)

theorem fnCvt_float_float (hs : fmtOf ts = some F) (hd : fmtOf td = some G) :
    (fnCvt td ts e a).toNat = fConvert F G e 0 (patAt (elemBits ts) 0 a) := by
  have hx := Nat.lt_of_lt_of_le (patAt_lt (elemBits ts) 0 a) (Nat.pow_le_pow_right (by decide) (elemBits_le ts))
  have hg := fmtOf_mem hd
  rw [fnCvt, ← patAt_zero]
  simp only [hs, hd]
  exact toNat_fConvert hg e 0 (Nat.le_refl 64) ((width_le_32 G hg).trans (by decide)) (fun _ => hx)

theorem fnCvt_nan (hs : fmtOf ts = some F) (hd : fmtOf td = none) (hv : F.val (patAt (elemBits ts) 0 a) = .nan) :
    fnCvt td ts e a = 0 := by
  rw [fnCvt, ← patAt_zero]
  simp only [hs, hd, hv]

theorem fnCvt_inf (hs : fmtOf ts = some F) (hd : fmtOf td = none) {neg : Bool} (hv : F.val (patAt (elemBits ts) 0 a) = .inf neg) :
    IntReads td (fnCvt td ts e a) (if neg then intMinVal td else intMaxVal td) := by
  rw [fnCvt, ← patAt_zero]
  simp only [hs, hd, hv]
  exact intReg_reads td _

theorem fnCvt_fin (hs : fmtOf ts = some F) (hd : fmtOf td = none) {neg : Bool} {m : Nat} {k : Int}
    (hv : F.val (patAt (elemBits ts) 0 a) = .fin neg m k) : IntReads td (fnCvt td ts e a)
      (clampInt td ((if neg then -1 else 1) * (roundAt e.mode (e.rws.getD 0 0) neg m k 0 : Int))) := by
  rw [fnCvt, ← patAt_zero]
  simp only [hs, hd, hv, fToInt_eq]
  exact intReg_reads td _

theorem fnCvt_int_float (hs : fmtOf ts = none) (hd : fmtOf td = some G) : (fnCvt td ts e a).toNat = G.round e.mode e.sat (e.rws.getD 0 0)
    e.ctx (.fin (intVal ts (patAt (elemBits ts) 0 a) < 0) (intVal ts (patAt (elemBits ts) 0 a)).natAbs 0) := by
  rw [fnCvt, ← patAt_zero]
  simp only [hs, hd]
  exact toNat_round (fmtOf_mem hd) _ _ _ _ _

theorem fnCvt_int_int (hs : fmtOf ts = none) (hd : fmtOf td = none) :
    IntReads td (fnCvt td ts e a) (clampInt td (intVal ts (patAt (elemBits ts) 0 a))) := by
  rw [fnCvt, ← patAt_zero]
  simp only [hs, hd]
  exact intReg_reads td _

end

/-! ### Integral rounding (R268) -/

section
variable (e : FEnv) (a : DWord)

theorem fnFrnd_nan (hv : fmtF32.val (patAt 32 0 a) = .nan) : (fnFrnd e a).toNat = fmtF32.quiet (patAt 32 0 a) := by
  rw [fnFrnd, elemAt_eq_patAt]
  simp only [hv]
  exact toNat_trunc_of_lt (quiet_lt (f := fmtF32) (by decide) (patAt_lt 32 0 a))

theorem fnFrnd_inf {neg : Bool} (hv : fmtF32.val (patAt 32 0 a) = .inf neg) : (fnFrnd e a).toNat = patAt 32 0 a := by
  rw [fnFrnd, elemAt_eq_patAt]
  simp only [hv]
  exact toNat_trunc_of_lt (patAt_lt 32 0 a)

theorem fnFrnd_zero {neg : Bool} {k : Int} (hv : fmtF32.val (patAt 32 0 a) = .fin neg 0 k) : (fnFrnd e a).toNat = patAt 32 0 a := by
  rw [fnFrnd, elemAt_eq_patAt]
  simp only [hv, if_true]
  exact toNat_trunc_of_lt (patAt_lt 32 0 a)

theorem fnFrnd_fin {neg : Bool} {m : Nat} {k : Int} (hv : fmtF32.val (patAt 32 0 a) = .fin neg m k) (hm : m ≠ 0) : (fnFrnd e a).toNat =
    fmtF32.round .rne false 0 e.ctx (.fin neg (roundAt e.mode (e.rws.getD 0 0) neg m k 0) 0) := by
  rw [fnFrnd, elemAt_eq_patAt]
  simp only [hv, if_neg hm]
  exact toNat_trunc_of_lt (round_lt (f := fmtF32) (by decide) _ _ _ _ _)

/-- A value without fraction bits is already integral. -/
theorem fnFrnd_integral {neg : Bool} {m : Nat} {k : Int} (hv : fmtF32.val (patAt 32 0 a) = .fin neg m k) (hm : m ≠ 0) (hk : 0 ≤ k) :
    (fnFrnd e a).toNat = patAt 32 0 a := by
  have hround : roundAt e.mode (e.rws.getD 0 0) neg m k 0 = m * 2 ^ k.toNat := by rw [roundAt, if_pos hk, Int.sub_zero]
  have hvalue : ((m * 2 ^ k.toNat : Nat) : ℚ) * 2 ^ (0 : Int) = m * 2 ^ k := by
    rw [zpow_zero, mul_one, ← Int.toNat_of_nonneg hk, zpow_natCast, Int.toNat_natCast]
    push_cast
    rfl
  rw [fnFrnd_fin e a hv hm, hround]
  exact round_of_val (patAt_lt 32 0 a) hv (by positivity) hvalue _ _ _ _

end

/-! ### Packing (R269) -/

/-- A converted element of a packed result. -/
theorem patAt_packElems_fConvert {f g : Fmt} (hg : g ∈ formats) (hother : f ≠ g ∧ g ≠ fmtF32) {w k j x : Nat} (hgw : g.width = w)
    (h : w * k + w ≤ 64) {es : List Nat} {v : FEnv} (he : es.getD k 0 = fConvert f g v j x) :
    patAt w k (BitVec.ofNat 64 (packElems w es)) = fConvert f g v j x := by
  obtain ⟨hfg, hg32⟩ := hother
  rw [← he]
  exact patAt_packElems h (he ▸ fConvert_lt hg v j hgw.le (fun h => h.elim (absurd · hfg) (absurd · hg32)))

theorem narrowFmt_cases (t : Ty) : narrowFmt t = fmtE5m2 ∨ narrowFmt t = fmtE4m3 := by
  unfold narrowFmt
  split
  · exact .inl rfl
  · exact .inr rfl

section
variable (e : FEnv) (a b : DWord)

theorem patAt_fnPack2 : patAt 16 0 (fnPack2 e a b) = fConvert fmtF32 fmtBf16 e 0 (patAt 32 0 a) ∧
    patAt 16 1 (fnPack2 e a b) = fConvert fmtF32 fmtBf16 e 1 (patAt 32 0 b) := by
  simp only [fnPack2, elemAt_eq_patAt]
  have hother : fmtF32 ≠ fmtBf16 ∧ fmtBf16 ≠ fmtF32 := by decide
  exact ⟨patAt_packElems_fConvert (by decide) hother rfl (by decide) (by simp),
    patAt_packElems_fConvert (by decide) hother rfl (by decide) (by simp)⟩

theorem patAt_fnPack4 (t : Ty) {k : Nat} (hk : k < 2) :
    patAt 8 k (fnPack4 (narrowFmt t) e a b) = fConvert fmtBf16 (narrowFmt t) e k (patAt 16 k a) ∧
    patAt 8 (2 + k) (fnPack4 (narrowFmt t) e a b) = fConvert fmtBf16 (narrowFmt t) e (2 + k) (patAt 16 k b) := by
  simp only [fnPack4, elemAt_eq_patAt]
  have hg : narrowFmt t ∈ formats ∧ (fmtBf16 ≠ narrowFmt t ∧ narrowFmt t ≠ fmtF32) ∧ (narrowFmt t).width = 8 := by
    rcases narrowFmt_cases t with h | h <;> rw [h] <;> decide
  obtain ⟨hmem, hother, hwidth⟩ := hg
  have hk' : k = 0 ∨ k = 1 := by omega
  rcases hk' with rfl | rfl <;>
    exact ⟨patAt_packElems_fConvert hmem hother hwidth (by decide) rfl, patAt_packElems_fConvert hmem hother hwidth (by decide) rfl⟩

/-- To nearest no random word counts. -/
theorem round_rne (f : Fmt) (sat : Bool) (rw rw' : Nat) (c : NanCtx) (x : FVal) : f.round .rne sat rw c x = f.round .rne sat rw' c x := by
  cases x <;> rfl

/-- A word without rounding permission converts as one that rounds to nearest without saturation (R260). -/
theorem fConvert_plain (f g : Fmt) {e : FEnv} (hmode : e.mode = .rne) (hsat : e.sat = false) (k x : Nat) :
    fConvert f g (FEnv.plain e.ctx) k x = fConvert f g e k x := by
  unfold fConvert FEnv.round
  rw [hmode, hsat]
  split
  · rfl
  · exact round_rne g false _ _ e.ctx _

theorem toNat_fnUnpk (k : Nat) {e : FEnv} (hmode : e.mode = .rne) (hsat : e.sat = false) :
    (fnUnpk k e.ctx a).toNat = fConvert fmtBf16 fmtF32 e 0 (patAt 16 k a) := by
  rw [fnUnpk, elemAt_eq_patAt, fConvert_plain _ _ hmode hsat]
  exact toNat_fConvert (by decide) e 0 (w := 32) (by decide) (by decide) (fun _ => Nat.lt_trans (patAt_lt 16 k a) (by decide))

theorem patAt_fnUnpk8 (t : Ty) (q : Nat) {e : FEnv} (hmode : e.mode = .rne) (hsat : e.sat = false) {k : Nat} (hk : k < 2) :
    patAt 16 k (fnUnpk8 (narrowFmt t) q e.ctx a) = fConvert (narrowFmt t) fmtBf16 e 0 (patAt 8 (q + k) a) := by
  simp only [fnUnpk8, elemAt_eq_patAt, fConvert_plain _ _ hmode hsat]
  have hother : narrowFmt t ≠ fmtBf16 ∧ fmtBf16 ≠ fmtF32 := by
    rcases narrowFmt_cases t with h | h <;> rw [h] <;> decide
  have hk' : k = 0 ∨ k = 1 := by omega
  rcases hk' with rfl | rfl <;> exact patAt_packElems_fConvert (by decide) hother rfl (by decide) rfl

end

/-! ### Dot products (R271) -/

theorem sum_eq_foldl (mode : Rnd) (x : FVal) (xs : List FVal) : x.sum mode xs = xs.foldl (fun u v => u.add mode v) x := by
  induction xs generalizing x with
  | nil => rfl
  | cons y ys ih => exact ih (x.add mode y)

section
variable (f : Fmt) (v : FEnv) (c : Nat)

theorem fDot_nan {as bs : List Nat} {x : Nat} (h : (as ++ bs).find? f.isNaN = some x) : fDot f v as bs c = nanConvert f fmtF32 x := by
  rw [fDot]
  simp only [h]

theorem fDot_addend_nan {as bs : List Nat} (h : (as ++ bs).find? f.isNaN = none) (hc : fmtF32.isNaN c = true) :
    fDot f v as bs c = fmtF32.quiet c := by
  rw [fDot]
  simp only [h, hc, if_true]

/-- Without a NaN, the sum of the products and the addend is rounded once. -/
theorem fDot_sum {n : Nat} (hn : 0 < n) (p q : Nat → Nat) (h : ((List.range n).map p ++ (List.range n).map q).find? f.isNaN = none)
    (hc : fmtF32.isNaN c = false) : fDot f v ((List.range n).map p) ((List.range n).map q) c = v.round fmtF32 0
      (((List.range n).tail.map (fun k => (f.val (p k)).mul (f.val (q k))) ++ [fmtF32.val c]).foldl (fun u w => u.add v.mode w)
        ((f.val (p 0)).mul (f.val (q 0)))) := by
  obtain ⟨m, rfl⟩ := Nat.exists_eq_add_of_lt hn
  rw [Nat.zero_add] at h ⊢
  have hterms : List.zipWith (fun a b => (f.val a).mul (f.val b)) ((List.range (m + 1)).map p) ((List.range (m + 1)).map q) =
      (List.range (m + 1)).map (fun k => (f.val (p k)).mul (f.val (q k))) := by
    rw [List.zipWith_map, List.zipWith_self]
  rw [fDot]
  simp only [h, hc, hterms, Bool.false_eq_true, if_false]
  simp only [List.range_succ_eq_map, List.map_cons, List.cons_append, List.tail_cons, sum_eq_foldl]

/-- A dot product: the first NaN of the elements, else of the addend, else the rounded sum. -/
theorem fDot_spec {n : Nat} (hn : 0 < n) (p q : Nat → Nat) :
    let es := (List.range n).map p ++ (List.range n).map q
    let dot := fDot f v ((List.range n).map p) ((List.range n).map q) c
    (∀ x, es.find? f.isNaN = some x → dot = nanConvert f fmtF32 x) ∧
    (es.find? f.isNaN = none → dot = if fmtF32.isNaN c then fmtF32.quiet c else v.round fmtF32 0
      (((List.range n).tail.map (fun k => (f.val (p k)).mul (f.val (q k))) ++ [fmtF32.val c]).foldl (fun u w => u.add v.mode w)
        ((f.val (p 0)).mul (f.val (q 0))))) := by
  refine ⟨fun x h => fDot_nan f v c h, fun h => ?_⟩
  split
  · next hc => exact fDot_addend_nan f v c h hc
  · next hc => exact fDot_sum f v c hn p q h (by simpa using hc)

theorem fDot_lt {as bs : List Nat} (h : ∀ x ∈ as ++ bs, x < 2 ^ 32) (hc : c < 2 ^ 32) : fDot f v as bs c < 2 ^ 32 := by
  unfold fDot
  split
  · next x hx => exact nanConvert_lt (by decide) (by decide) (fun _ => h x (List.mem_of_find?_eq_some hx))
  · split
    · exact quiet_lt (f := fmtF32) (by decide) hc
    · split
      · decide
      · exact round_lt (f := fmtF32) (by decide) _ _ _ _ _

end

theorem patAt_lt_32 {w : Nat} (hw : w ≤ 32) (k : Nat) (a : DWord) : patAt w k a < 2 ^ 32 :=
  Nat.lt_of_lt_of_le (patAt_lt w k a) (Nat.pow_le_pow_right (by decide) hw)

/-- The dot product of the elements of two registers, as a register. -/
theorem toNat_fDot (f : Fmt) (v : FEnv) {w : Nat} (hw : w ≤ 32) (n : Nat) (a b y : DWord) :
    (BitVec.ofNat 64 (fDot f v ((List.range n).map (fun k => patAt w k a)) ((List.range n).map (fun k => patAt w k b)) (patAt 32 0 y))).toNat =
      fDot f v ((List.range n).map (fun k => patAt w k a)) ((List.range n).map (fun k => patAt w k b)) (patAt 32 0 y) := by
  refine toNat_ofNat_of_lt (by decide) (fDot_lt f v _ (fun x hx => ?_) (patAt_lt 32 0 y))
  rcases List.mem_append.1 hx with h | h
  · obtain ⟨k, -, rfl⟩ := List.mem_map.1 h
    exact patAt_lt_32 hw k a
  · obtain ⟨k, -, rfl⟩ := List.mem_map.1 h
    exact patAt_lt_32 hw k b

theorem toNat_fnDot2 (v : FEnv) (a b y : DWord) : (fnDot2 v a b y).toNat =
    fDot fmtBf16 v ((List.range 2).map (fun k => patAt 16 k a)) ((List.range 2).map (fun k => patAt 16 k b)) (patAt 32 0 y) := by
  rw [← toNat_fDot fmtBf16 v (by decide) 2 a b y]
  simp only [fnDot2, elemAt_eq_patAt]
  rfl

theorem toNat_fnDot4 (f : Fmt) (v : FEnv) (a b y : DWord) : (fnDot4 f v a b y).toNat =
    fDot f v ((List.range 4).map (fun k => patAt 8 k a)) ((List.range 4).map (fun k => patAt 8 k b)) (patAt 32 0 y) := by
  rw [← toNat_fDot f v (by decide) 4 a b y]
  simp only [fnDot4, elemAt_eq_patAt]

end Sys2Proof.Proofs
end

section
/-! SUPPORT. The scales of E5M3 (R229, R270). -/
namespace Sys2Proof.Proofs
open Sys2Proof Sys2Proof.Machine

/-! ### Encoding -/

section
variable (e : FEnv) (a : DWord) (hsat : e.sat = false)

theorem fnSclenc_nan (hv : fmtF32.val (patAt 32 0 a) = .nan) : fnSclenc e a = 0xFF := by
  rw [fnSclenc, elemAt_eq_patAt, hv]
  rfl

include hsat in
theorem fnSclenc_inf {neg : Bool} (hv : fmtF32.val (patAt 32 0 a) = .inf neg) : fnSclenc e a = 0xFF := by
  rw [fnSclenc, elemAt_eq_patAt, hv]
  simp [toE5m3, hsat]

theorem fnSclenc_zero {neg : Bool} {k : Int} (hv : fmtF32.val (patAt 32 0 a) = .fin neg 0 k) : fnSclenc e a = 0 := by
  rw [fnSclenc, elemAt_eq_patAt, hv]
  rfl

theorem fnSclenc_neg {m : Nat} {k : Int} (hv : fmtF32.val (patAt 32 0 a) = .fin true m k) (hm : m ≠ 0) : fnSclenc e a = 0xFF := by
  rw [fnSclenc, elemAt_eq_patAt, hv]
  simp [toE5m3, hm]

include hsat in
theorem fnSclenc_pos {m : Nat} {k : Int} (hv : fmtF32.val (patAt 32 0 a) = .fin false m k) (hm : m ≠ 0) :
    (fnSclenc e a).toNat = min 0xFF (fmtE5m3.roundMag e.mode (e.rws.getD 0 0) false m k) := by
  rw [fnSclenc, elemAt_eq_patAt, hv]
  simp only [toE5m3, hm, hsat, if_false, Bool.false_eq_true, FEnv.rw]
  generalize fmtE5m3.roundMag e.mode (e.rws.getD 0 0) false m k = p
  rw [BitVec.toNat_ofNat]
  split <;> omega

end

/-! ### Decoding -/

/-- The value of a finite positive pattern, from its exponent field and its fraction. -/
theorem val_of_fields {f : Fmt} {p x r : Nat} (hp : p = x * 2 ^ f.mbits + r) (hr : r < 2 ^ f.mbits) (hlt : p < 2 ^ (f.ebits + f.mbits))
    (hmax : p ≤ f.maxFinite) : f.val p = if x = 0 then .fin false r (1 - (f.bias : Int) - f.mbits)
      else .fin false (r + 2 ^ f.mbits) ((x : Int) - f.bias - f.mbits) := by
  have hmag : f.mag p = p := Nat.mod_eq_of_lt hlt
  have htop := maxFinite_lt_topMag f
  have hnan : f.isNaN p = false := by
    have hne : p ≠ f.topMag := by omega
    have hnlt : ¬ f.topMag < p := by omega
    simp [Fmt.isNaN, hmag, hne, hnlt]
  have hinf : f.isInf p = false := by
    have hne : p ≠ f.topMag := by omega
    simp [Fmt.isInf, hmag, hne]
  have hneg : f.neg p = false := by rw [Fmt.neg, bitAt_eq_testBit, Nat.testBit_lt_two_pow hlt]
  have hexp : f.expField p = x := by
    rw [Fmt.expField, hmag, hp, Nat.mul_comm, Nat.mul_add_div (by positivity), Nat.div_eq_of_lt hr, Nat.add_zero]
  have hfrac : f.frac p = r := by rw [Fmt.frac, hp, Nat.mul_comm, Nat.mul_add_mod, Nat.mod_eq_of_lt hr]
  simp only [Fmt.val, hnan, hinf, hneg, hexp, hfrac, Bool.false_eq_true, if_false]

/-- The value of an E5M3 code that is not 0xFF (R229). -/
theorem e5m3Val_eq {c : Nat} (hc : c < 255) : e5m3Val c =
    if c / 8 = 0 then .fin false (c % 8) (-17) else .fin false (c % 8 + 8) ((c / 8 : Nat) - 18) := by
  rw [e5m3Val, Nat.mod_eq_of_lt (by omega), val_of_fields (f := fmtE5m3) (x := c / 8) (r := c % 8) (by show c = c / 8 * 8 + c % 8; omega)
    (by show c % 8 < 8; omega) (by show c < 256; omega) (by show c ≤ 254; omega)]
  split
  · rfl
  · show FVal.fin false (c % 8 + 8) ((c / 8 : Nat) - 15 - 3) = _
    rw [Int.sub_sub]
    rfl

/-- A number of at most 24 bits in FP32's normal range is exact: the rounded pattern has its value. -/
theorem val_round_f32_exact {m : Nat} {e : Int} (hm : m ≠ 0) (hbits : m < 2 ^ 24) (hlo : -126 ≤ e + Nat.log2 m)
    (hhi : e + Nat.log2 m ≤ 127) (mode : Rnd) (sat : Bool) (rw : Nat) (c : NanCtx) :
    ∃ (u : Nat) (k : Int), fmtF32.val (fmtF32.round mode sat rw c (.fin false m e)) = .fin false u k ∧ (u : ℚ) * 2 ^ k = m * 2 ^ e := by
  have hlog : Nat.log2 m < 24 := (Nat.log2_lt hm).2 hbits
  have hu : Nat.log2 (m * 2 ^ (23 - Nat.log2 m)) = 23 := by rw [log2_mul_two_pow hm]; omega
  obtain ⟨hlow, hhigh⟩ := (Nat.log2_eq_iff (by positivity)).1 hu
  have hvalue : (m : ℚ) * 2 ^ e = (m * 2 ^ (23 - Nat.log2 m) : Nat) * 2 ^ (e + Nat.log2 m - 23) := by
    have hpow : (2 : ℚ) ^ e = 2 ^ (23 - Nat.log2 m) * 2 ^ (e + Nat.log2 m - 23) := by
      rw [← zpow_natCast, ← zpow_add₀ (by decide)]
      congr 1
      omega
    rw [hpow]
    push_cast
    ring
  generalize m * 2 ^ (23 - Nat.log2 m) = u at hlow hhigh hvalue
  generalize hq : e + Nat.log2 m - 23 = q at hvalue
  have hp : Holds fmtF32 ((q + 150).toNat * 2 ^ 23 + (u - 2 ^ 23)) u q :=
    ⟨hhigh, by show 1 - (127 : Int) - 23 ≤ q; omega, .inl hlow,
      by show _ = (q + 23 - (1 - 127)).toNat * 2 ^ 23 + u; omega⟩
  have hmax : (q + 150).toNat * 2 ^ 23 + (u - 2 ^ 23) ≤ fmtF32.maxFinite := by show _ ≤ 0x7F7FFFFF; omega
  have hround : fmtF32.round mode sat rw c (.fin false m e) = (q + 150).toNat * 2 ^ 23 + (u - 2 ^ 23) := by
    show 0 + (if fmtF32.maxFinite < fmtF32.roundMag mode rw false m e then _ else _) = _
    rw [roundMag_of_holds hp hm hvalue, if_neg (Nat.not_lt.2 hmax), Nat.zero_add]
  refine ⟨u, q, ?_, hvalue.symm⟩
  rw [hround]
  refine (val_of_fields (f := fmtF32) rfl (by show _ < 2 ^ 23; omega) (Nat.lt_of_le_of_lt hmax (by decide)) hmax).trans ?_
  rw [if_neg (by omega)]
  have hexp : ((q + 150).toNat : Int) - 127 - 23 = q := by omega
  exact congrArg₂ (FVal.fin false) (Nat.sub_add_cancel hlow) hexp

theorem toNat_fnScldec (c : NanCtx) (a : DWord) : (fnScldec c a).toNat = fmtF32.round .rne false 0 c (e5m3Val (patAt 8 0 a)) := by
  rw [fnScldec, elemAt_eq_patAt]
  exact toNat_round (by decide) _ _ _ _ _

/-- A scale code is the exponent field above the fraction (R229). -/
theorem scale_fields (a : DWord) : patAt 8 0 a / 8 = (a.extractLsb' 3 5).toNat ∧ patAt 8 0 a % 8 = patAt 3 0 a := by
  rw [patAt_zero, patAt_zero, BitVec.extractLsb'_toNat, Nat.shiftRight_eq_div_pow]
  omega

theorem origin_f32 {lane : Nat} (h : lane < 32) (fold : Nat) : fmtF32.origin ⟨lane, fold⟩ = 0x7FC00000 + lane * 2 ^ 17 + fold % 2 ^ 17 := by
  rw [Fmt.origin, if_pos rfl, Nat.mod_eq_of_lt h]

theorem fnScldec_nan {lane : Nat} (h : lane < 32) (fold : Nat) {a : DWord} (ha : patAt 8 0 a = 255) :
    (fnScldec ⟨lane, fold⟩ a).toNat = 0x7FC00000 + lane * 2 ^ 17 + fold % 2 ^ 17 := by
  rw [toNat_fnScldec, ha, ← origin_f32 h]
  rfl

/-- Every scale is exact in FP32. -/
theorem fnScldec_value (c : NanCtx) {a : DWord} (ha : patAt 8 0 a < 255) :
    ∃ (u : Nat) (k : Int), fmtF32.val (fnScldec c a).toNat = .fin false u k ∧ (u : ℚ) * 2 ^ k =
      if patAt 8 0 a / 8 = 0 then ((patAt 8 0 a % 8 : Nat) : ℚ) * 2 ^ (-17 : ℤ)
      else ((8 + patAt 8 0 a % 8 : ℕ) : ℚ) * 2 ^ (((patAt 8 0 a / 8 : Nat) : ℤ) - 18) := by
  rw [toNat_fnScldec, e5m3Val_eq ha]
  generalize patAt 8 0 a = code at ha
  split
  · next hexp =>
    by_cases hfrac : code % 8 = 0
    · have hzero : fmtF32.round .rne false 0 c (.fin false 0 (-17)) = 0 := rfl
      rw [hfrac, hzero]
      exact ⟨0, -149, rfl, by simp⟩
    · have hlog : Nat.log2 (code % 8) < 3 := (Nat.log2_lt hfrac).2 (by omega)
      exact val_round_f32_exact hfrac (by omega) (by omega) (by omega) _ _ _ _
  · next hexp =>
    have hne : code % 8 + 8 ≠ 0 := by omega
    have hlog : Nat.log2 (code % 8 + 8) = 3 := (Nat.log2_eq_iff hne).2 ⟨by omega, by omega⟩
    rw [Nat.add_comm 8]
    exact val_round_f32_exact hne (by omega) (by omega) (by omega) _ _ _ _

end Sys2Proof.Proofs
end

section
/-! SUPPORT. The special functions at NaNs and at the arguments of the table of R272, and the rounding stream (R273). -/
namespace Sys2Proof.Proofs
open Sys2Proof Sys2Proof.Machine

/-! ### Special functions (R272) -/

theorem fnSpecial_nan (g : FVal → FVal) (c : NanCtx) {a : DWord} (ha : fpNaN a = true) :
    (fnSpecial g c a).toNat = patAt 32 0 a ||| 2 ^ 22 := by
  rw [fnSpecial, elemAt_eq_patAt]
  simp only [isNaN_f32_patAt, ha, if_true]
  rw [toNat_trunc_of_lt (quiet_lt (f := fmtF32) (by decide) (patAt_lt 32 0 a)), quiet_eq_or (f := fmtF32) rfl]
  rfl

theorem toNat_fnSpecial (g : FVal → FVal) (c : NanCtx) {x : Nat} (hx : x < 2 ^ 32) (hnan : fmtF32.isNaN x = false) :
    (fnSpecial g c (BitVec.ofNat 64 x)).toNat = fmtF32.round .rne false 0 c (g (fmtF32.val x)) := by
  have hpat : patAt 32 0 (BitVec.ofNat 64 x) = x := by
    rw [patAt_zero, toNat_ofNat_of_lt (by decide) hx, Nat.mod_eq_of_lt hx]
  rw [fnSpecial, elemAt_eq_patAt, hpat]
  simp only [hnan, Bool.false_eq_true, if_false]
  exact toNat_trunc_of_lt (round_lt (f := fmtF32) (by decide) _ _ _ _ _)

/-- A special argument whose value is a number or an infinity, with the pattern of its result. -/
theorem fnSpecial_value {g : FVal → FVal} {c : NanCtx} {x r : Nat} {v : FVal} (hx : x < 2 ^ 32 ∧ fmtF32.isNaN x = false)
    (hv : g (fmtF32.val x) = v) (hr : fmtF32.round .rne false 0 c v = r) : (fnSpecial g c (BitVec.ofNat 64 x)).toNat = r := by
  rw [toNat_fnSpecial g c hx.1 hx.2, hv, hr]

/-- An argument outside the domain gives the origin NaN (R232). -/
theorem fnSpecial_invalid {g : FVal → FVal} {lane : Nat} (h : lane < 32) (fold : Nat) {x : Nat} (hx : x < 2 ^ 32 ∧ fmtF32.isNaN x = false)
    (hv : g (fmtF32.val x) = .nan) :
    (fnSpecial g ⟨lane, fold⟩ (BitVec.ofNat 64 x)).toNat = 0x7FC00000 + lane * 2 ^ 17 + fold % 2 ^ 17 :=
  fnSpecial_value hx hv (origin_f32 h fold)

/-- A special function has the results of a table, whose rows may name the origin NaN. -/
def Tabulated (g : FVal → FVal) (rows : Nat → List (Nat × Nat)) : Prop :=
  ∀ lane < 32, ∀ fold, ∀ r ∈ rows (0x7FC00000 + lane * 2 ^ 17 + fold % 2 ^ 17),
    (fnSpecial g ⟨lane, fold⟩ (BitVec.ofNat 64 r.1)).toNat = r.2

theorem rcp_tabulated : Tabulated rcpVal (fun _ =>
    [(0x00000000, 0x7F800000), (0x80000000, 0xFF800000), (0x7F800000, 0), (0xFF800000, 0x80000000)]) := by
  intro lane _ fold
  simp only [List.forall_mem_cons, List.not_mem_nil, false_imp_iff, implies_true, and_true]
  exact ⟨fnSpecial_value (v := .inf false) (by decide) rfl rfl, fnSpecial_value (v := .inf true) (by decide) rfl rfl,
    fnSpecial_value (v := .fin false 0 0) (by decide) rfl rfl, fnSpecial_value (v := .fin true 0 0) (by decide) rfl rfl⟩

theorem rsqrt_tabulated : Tabulated rsqrtVal (fun o =>
    [(0x00000000, 0x7F800000), (0x80000000, 0xFF800000), (0x7F800000, 0), (0xFF800000, o), (0xBF800000, o)]) := by
  intro lane h fold
  simp only [List.forall_mem_cons, List.not_mem_nil, false_imp_iff, implies_true, and_true]
  exact ⟨fnSpecial_value (v := .inf false) (by decide) rfl rfl, fnSpecial_value (v := .inf true) (by decide) rfl rfl,
    fnSpecial_value (v := .fin false 0 0) (by decide) rfl rfl, fnSpecial_invalid h fold (by decide) rfl,
    fnSpecial_invalid h fold (by decide) rfl⟩

theorem sqrt_tabulated : Tabulated sqrtVal (fun o =>
    [(0x00000000, 0), (0x80000000, 0x80000000), (0x7F800000, 0x7F800000), (0xFF800000, o), (0xBF800000, o)]) := by
  intro lane h fold
  simp only [List.forall_mem_cons, List.not_mem_nil, false_imp_iff, implies_true, and_true]
  exact ⟨fnSpecial_value (v := .fin false 0 0) (by decide) rfl rfl, fnSpecial_value (v := .fin true 0 0) (by decide) rfl rfl,
    fnSpecial_value (v := .inf false) (by decide) rfl rfl, fnSpecial_invalid h fold (by decide) rfl,
    fnSpecial_invalid h fold (by decide) rfl⟩

theorem exp2_tabulated : Tabulated exp2Val (fun _ =>
    [(0xFF800000, 0), (0x7F800000, 0x7F800000), (0x00000000, 0x3F800000), (0x80000000, 0x3F800000)]) := by
  intro lane _ fold
  simp only [List.forall_mem_cons, List.not_mem_nil, false_imp_iff, implies_true, and_true]
  exact ⟨fnSpecial_value (v := .fin false 0 0) (by decide) rfl rfl, fnSpecial_value (v := .inf false) (by decide) rfl rfl,
    fnSpecial_value (v := .fin false 1 0) (by decide) rfl rfl, fnSpecial_value (v := .fin false 1 0) (by decide) rfl rfl⟩

theorem log2_tabulated : Tabulated log2Val (fun o =>
    [(0x00000000, 0xFF800000), (0x80000000, 0xFF800000), (0x7F800000, 0x7F800000), (0x3F800000, 0), (0xFF800000, o), (0xBF800000, o)]) := by
  intro lane h fold
  simp only [List.forall_mem_cons, List.not_mem_nil, false_imp_iff, implies_true, and_true]
  exact ⟨fnSpecial_value (v := .inf true) (by decide) rfl rfl, fnSpecial_value (v := .inf true) (by decide) rfl rfl,
    fnSpecial_value (v := .inf false) (by decide) rfl rfl, fnSpecial_value (v := .fin false 0 0) (by decide) rfl rfl,
    fnSpecial_invalid h fold (by decide) rfl, fnSpecial_invalid h fold (by decide) rfl⟩

theorem sin_tabulated : Tabulated sinVal (fun o =>
    [(0x00000000, 0), (0x80000000, 0x80000000), (0x7F800000, o), (0xFF800000, o)]) := by
  intro lane h fold
  simp only [List.forall_mem_cons, List.not_mem_nil, false_imp_iff, implies_true, and_true]
  exact ⟨fnSpecial_value (v := .fin false 0 0) (by decide) rfl rfl, fnSpecial_value (v := .fin true 0 0) (by decide) rfl rfl,
    fnSpecial_invalid h fold (by decide) rfl, fnSpecial_invalid h fold (by decide) rfl⟩

theorem cos_tabulated : Tabulated cosVal (fun o =>
    [(0x00000000, 0x3F800000), (0x80000000, 0x3F800000), (0x7F800000, o), (0xFF800000, o)]) := by
  intro lane h fold
  simp only [List.forall_mem_cons, List.not_mem_nil, false_imp_iff, implies_true, and_true]
  exact ⟨fnSpecial_value (v := .fin false 1 0) (by decide) rfl rfl, fnSpecial_value (v := .fin false 1 0) (by decide) rfl rfl,
    fnSpecial_invalid h fold (by decide) rfl, fnSpecial_invalid h fold (by decide) rfl⟩

theorem tanh_tabulated : Tabulated tanhVal (fun _ =>
    [(0x00000000, 0), (0x80000000, 0x80000000), (0x7F800000, 0x3F800000), (0xFF800000, 0xBF800000)]) := by
  intro lane _ fold
  simp only [List.forall_mem_cons, List.not_mem_nil, false_imp_iff, implies_true, and_true]
  exact ⟨fnSpecial_value (v := .fin false 0 0) (by decide) rfl rfl, fnSpecial_value (v := .fin true 0 0) (by decide) rfl rfl,
    fnSpecial_value (v := .fin false 1 0) (by decide) rfl rfl, fnSpecial_value (v := .fin true 1 0) (by decide) rfl rfl⟩

/-- A word of a special function writes what the function gives at a NaN and in its table. -/
theorem special_of {i : Instr} {a d : Opnd} {g : FVal → FVal} {rows : Nat → List (Nat × Nat)}
    (he : ∀ s, exec i s = valueWord i.view none false d (fun x k => x.pz false a k) (fun x k => fnSpecial g (x.nan k) (x.rd false a k)) s)
    (ht : Tabulated g rows) : ∃ h : Nat → Nat → DWord → DWord,
      Writes i false d (fun x k => x.pz false a k) (fun x k => h k (foldOf x.pc) (x.rd false a k)) ∧
      ∀ lane < 32, ∀ fold,
        (∀ r ∈ rows (0x7FC00000 + lane * 2 ^ 17 + fold % 2 ^ 17), (h lane fold (BitVec.ofNat 64 r.1)).toNat = r.2) ∧
        ∀ b, fpNaN b = true → (h lane fold b).toNat = (patAt 32 0 b) ||| 2 ^ 22 :=
  ⟨fun lane fold b => fnSpecial g ⟨lane, fold⟩ b, writes_of he (fun _ _ _ => rfl),
    fun lane hl fold => ⟨ht lane hl fold, fun _ hb => fnSpecial_nan g _ hb⟩⟩

/-! ### The rounding stream (R273) -/

/-- The parts of a seed do not overlap (R273). -/
theorem rseed_eq {a : DWord} (ha : a.toNat < 2 ^ 32) {k : Nat} (hk : k < 32) :
    rseed a.toNat k = (a <<< 32) ||| (0x9E3779B9 ^^^ (0x0101 * BitVec.ofNat 64 k)) := by
  have hmul : (0x0101 * BitVec.ofNat 64 k : DWord).toNat = 0x0101 * k := by
    rw [BitVec.toNat_mul, BitVec.toNat_ofNat]
    show 0x0101 * (k % 2 ^ 64) % 2 ^ 64 = _
    omega
  have hlow : 0x9E3779B9 ^^^ (0x0101 * k) < 2 ^ 32 := Nat.xor_lt_two_pow (by decide) (by omega)
  apply BitVec.eq_of_toNat_eq
  rw [rseed, BitVec.toNat_ofNat, BitVec.toNat_or, BitVec.toNat_shiftLeft, BitVec.toNat_xor, hmul, Nat.mod_eq_of_lt ha, Nat.shiftLeft_eq]
  show _ = (a.toNat * 2 ^ 32) % 2 ^ 64 ||| (0x9E3779B9 ^^^ (0x0101 * k))
  rw [Nat.mod_eq_of_lt (by omega), Nat.mod_eq_of_lt (by omega), Nat.mul_comm, Nat.two_pow_add_eq_or_of_lt hlow]

/-- A lane's stream after `rnd` (R275): seeded when the operand is not 0, and stepped. -/
def rndNext (f : V3) (x : IC) (k : Nat) : DWord :=
  rstep (if x.nat32 f.a k = 0 then (x.w.lane k).rstate else rseed (x.nat32 f.a k) k)

theorem rndNext_eq (f : V3) (x : IC) {k : Nat} (hk : k < 32) : rndNext f x k = rstep (if x.rd false f.a k = 0 then (x.w.lane k).rstate
    else (x.rd false f.a k <<< 32) ||| (0x9E3779B9 ^^^ (0x0101 * BitVec.ofNat 64 k))) := by
  have hlt : (x.rd false f.a k).toNat < 2 ^ 32 := rd_lt rfl (by omega)
  have hzero : (x.rd false f.a k).toNat = 0 ↔ x.rd false f.a k = 0 := (BitVec.toNat_eq (y := 0#64)).symm
  rw [rndNext, IC.nat32, rseed_eq hlt hk]
  simp only [hzero]

/-- A due `rnd` writes the high half of each lane's stream and moves the streams: its effect is that of a flag-tracked word. -/
theorem rnd_writesDrawing (c : Common) (f : V3) : WritesDrawing (.rnd c f) false false f.d (fun x k => x.pz false f.a k) (rndNext f)
    (fun x k => rndNext f x k >>> 32) := by
  intro s sw x h
  refine ⟨_, runWord_go h rfl, ?_⟩
  exact (perform_tracked h.reading (Instr.rnd c f).view.common (wordWrites false f.d x.lanes (fun k => rndNext f x k >>> 32))
    (wordPz false f.d x.lanes (fun k => x.pz false f.a k)) (fun k l => { l with rstate := rndNext f x k })
    (e := fun y => y.consume x (x.lanes.filter (fun k => x.pz false f.a k))) (by simp) (by simp) (by simp)).congr (fun _ _ => rfl)

/-- What a rounding word writes may be said of the 32 lanes. -/
theorem writesDrawing_congr {i : Instr} {chk w64 : Bool} {d : Opnd} {pz : IC → Nat → Bool} {next next' f f' : IC → Nat → DWord}
    (h : WritesDrawing i chk w64 d pz next f) (hn : ∀ x k, k < 32 → next x k = next' x k) (hf : ∀ x k, k < 32 → f x k = f' x k) :
    WritesDrawing i chk w64 d pz next' f' := by
  intro s sw x hd
  obtain ⟨t, ht, hw⟩ := h s sw x hd
  refine ⟨t, ht, ?_⟩
  rw [← wordWrites_congr (fun k hk => hf x k (hd.lane_lt_32 hk))]
  exact hw.congr (fun k hk => by rw [hn x k (hd.lane_lt_32 hk), hf x k (hd.lane_lt_32 hk)])

end Sys2Proof.Proofs
end

section
/-! SUPPORT. The conversion, packing, scale, dot product, special function and stream words (O12 to O17): each is a word of its function,
whose values the sections above give. -/
namespace Sys2Proof.Proofs
open Sys2Proof Sys2Proof.Machine

/-- Settles O12: by the kinds of the two types and the value of the operand; a value without fraction bits is its own rounding. -/
theorem conversionWords : Obligations.ConversionWords := by
  unfold Obligations.ConversionWords
  refine ⟨fun c f => ⟨fnCvt f.td f.ts, drawing1_of (fn := fnCvt f.td f.ts) (fun _ => rfl), fun e a => ?_⟩,
    fun c f => ⟨fnFrnd, drawing1_of (fn := fnFrnd) (fun _ => rfl), fun e a => ?_⟩⟩
  · cases hs : fmtOf f.ts with
    | some F =>
      cases hd : fmtOf f.td with
      | some G => exact fnCvt_float_float e a hs hd
      | none =>
        cases hv : F.val (patAt (elemBits f.ts) 0 a) with
        | nan => simp only [hv]; exact fnCvt_nan e a hs hd hv
        | inf neg => simp only [hv]; exact fnCvt_inf e a hs hd hv
        | fin neg m k => simp only [hv]; exact fnCvt_fin e a hs hd hv
    | none =>
      cases hd : fmtOf f.td with
      | some G => exact fnCvt_int_float e a hs hd
      | none => exact fnCvt_int_int e a hs hd
  · cases hv : fmtF32.val (patAt 32 0 a) with
    | nan => simp only [hv]; exact fnFrnd_nan e a hv
    | inf neg => simp only [hv]; exact fnFrnd_inf e a hv
    | fin neg m k =>
      simp only [hv]
      split
      · next h =>
        by_cases hm : m = 0
        · exact fnFrnd_zero e a (hm ▸ hv)
        · exact fnFrnd_integral e a hv hm (h.resolve_left hm)
      · next h => exact fnFrnd_fin e a hv (fun hm => h (.inl hm))

/-- Settles O13: every element is a conversion, and those of the unpacks round to nearest. -/
theorem packingWords : Obligations.PackingWords := by
  unfold Obligations.PackingWords
  intro c f
  refine ⟨⟨fnPack2, drawing2_of (fn := fnPack2) (fun _ => rfl), patAt_fnPack2⟩,
    ⟨fnPack4 (narrowFmt f.ty), drawing2_of (fn := fnPack4 (narrowFmt f.ty)) (fun _ => rfl),
      fun e a b k hk => patAt_fnPack4 e a b f.ty hk⟩, ?_, ?_⟩
  · simp only [List.forall_mem_cons, List.not_mem_nil, false_imp_iff, implies_true, and_true]
    exact ⟨⟨fun e => fnUnpk 0 e.ctx, writes_of (lat := some latFp) (fun _ => rfl) (fun _ _ _ => rfl),
        fun e a hm hs => toNat_fnUnpk a 0 hm hs⟩,
      ⟨fun e => fnUnpk 1 e.ctx, writes_of (lat := some latFp) (fun _ => rfl) (fun _ _ _ => rfl),
        fun e a hm hs => toNat_fnUnpk a 1 hm hs⟩⟩
  · simp only [List.forall_mem_cons, List.not_mem_nil, false_imp_iff, implies_true, and_true]
    exact ⟨⟨fun e => fnUnpk8 (narrowFmt f.ty) 0 e.ctx, writes_of (lat := some latFp) (fun _ => rfl) (fun _ _ _ => rfl),
        fun e a hm hs k hk => patAt_fnUnpk8 a f.ty 0 hm hs hk⟩,
      ⟨fun e => fnUnpk8 (narrowFmt f.ty) 2 e.ctx, writes_of (lat := some latFp) (fun _ => rfl) (fun _ _ _ => rfl),
        fun e a hm hs k hk => patAt_fnUnpk8 a f.ty 2 hm hs hk⟩⟩

/-- Settles O14: encoding by the value of the operand; every code but 0xFF is exact in FP32. -/
theorem scaleWords : Obligations.ScaleWords := by
  unfold Obligations.ScaleWords
  intro c f
  refine ⟨⟨fnSclenc, drawing1_of (fn := fnSclenc) (fun _ => rfl), fun e a hsat => ?_⟩,
    ⟨fun lane fold a => fnScldec ⟨lane, fold⟩ a, writes_of (lat := some latFp) (fun _ => rfl) (fun _ _ _ => rfl),
      fun lane hl fold a => ?_⟩⟩
  · cases hv : fmtF32.val (patAt 32 0 a) with
    | nan => simp only [hv]; exact fnSclenc_nan e a hv
    | inf neg => simp only [hv]; exact fnSclenc_inf e a hsat hv
    | fin neg m k =>
      simp only [hv]
      exact ⟨fun hm => fnSclenc_zero e a (hm ▸ hv), fun hm hneg => fnSclenc_neg e a (hneg ▸ hv) hm,
        fun hm hneg => fnSclenc_pos e a hsat (hneg ▸ hv) hm⟩
  · obtain ⟨hexp, hfrac⟩ := scale_fields a
    have hcode := patAt_lt 8 0 a
    simp only [← hexp, ← hfrac]
    split
    · next h => exact fnScldec_nan hl fold (by omega)
    · next h => exact fnScldec_value ⟨lane, fold⟩ (by omega)

/-- Settles O15: the first NaN, or the sum of the products and the addend rounded once. -/
theorem dotProducts : Obligations.DotProducts := by
  unfold Obligations.DotProducts
  intro c f _ _ q hq
  simp only [List.mem_cons, List.not_mem_nil, or_false] at hq
  rcases hq with rfl | rfl
  · refine ⟨fnDot2, drawing3_of (fn := fnDot2) (fun _ => rfl), fun e a b y => ?_⟩
    obtain ⟨hnan, hsum⟩ := fDot_spec fmtBf16 e (patAt 32 0 y) (n := 2) (by decide) (patAt 16 · a) (patAt 16 · b)
    rw [toNat_fnDot2]
    dsimp only
    split
    · next h => exact hnan _ h
    · next h => exact hsum h
  · refine ⟨fnDot4 (narrowFmt f.ty), drawing3_of (fn := fnDot4 (narrowFmt f.ty)) (fun _ => rfl), fun e a b y => ?_⟩
    obtain ⟨hnan, hsum⟩ := fDot_spec (narrowFmt f.ty) e (patAt 32 0 y) (n := 4) (by decide) (patAt 8 · a) (patAt 8 · b)
    rw [toNat_fnDot4]
    dsimp only
    split
    · next h => exact hnan _ h
    · next h => exact hsum h

/-- Settles O16: a NaN is quieted, and the table of each function gives its special arguments. -/
theorem specialFunctions : Obligations.SpecialFunctions := by
  unfold Obligations.SpecialFunctions
  intro c f q hq
  simp only [List.mem_cons, List.not_mem_nil, or_false] at hq
  rcases hq with rfl | rfl | rfl | rfl | rfl | rfl | rfl | rfl
  · exact special_of (fun _ => rfl) rcp_tabulated
  · exact special_of (fun _ => rfl) rsqrt_tabulated
  · exact special_of (fun _ => rfl) sqrt_tabulated
  · exact special_of (fun _ => rfl) exp2_tabulated
  · exact special_of (fun _ => rfl) log2_tabulated
  · exact special_of (fun _ => rfl) sin_tabulated
  · exact special_of (fun _ => rfl) cos_tabulated
  · exact special_of (fun _ => rfl) tanh_tabulated

/-- Settles O17: the parts of a seed do not overlap, so that the stream stepped is the one of the statement. -/
theorem roundingStream : Obligations.RoundingStream := by
  unfold Obligations.RoundingStream
  refine ⟨formsV3_of (fun _ _ => rfl) rfl, fun c f => writesDrawing_congr (rnd_writesDrawing c f) (fun x k hk => ?_) (fun x k hk => ?_)⟩
  · rw [rndNext_eq f x hk]
    rfl
  · rw [rndNext_eq f x hk]
    rfl

end Sys2Proof.Proofs
end

section
/-! SUPPORT. Cross-lane words (R300 to R303): masks and their members, a word some of whose lanes lie outside their own masks, and the words
by the value that they write in each lane. -/
namespace Sys2Proof.Proofs
open Sys2Proof Sys2Proof.Machine

/-! ### Masks and members (R300) -/

section
variable (x : IC) (c : Opnd) (f : V3) {i j : Nat}

theorem maskOf_getLsbD (hj : j < 32) : (x.maskOf c i).getLsbD j = x.inMask c i j := by
  rw [IC.maskOf, BitVec.getLsbD_ofNat, decide_eq_true hj, Bool.true_and]
  rfl

/-- The mask of one of the 32 lanes has no member beyond them. -/
theorem maskOf_getLsbD_of_lane (hi : i < 32) : (x.maskOf c i).getLsbD j = x.inMask c i j := by
  rcases Nat.lt_or_ge j 32 with hj | hj
  · exact maskOf_getLsbD x c hj
  · rw [BitVec.getLsbD_of_ge _ _ hj]
    have hrd : (x.rd false c i).toNat < 2 ^ 32 := rd_lt rfl (by omega)
    exact (Nat.testBit_lt_two_pow (Nat.lt_of_lt_of_le hrd (Nat.pow_le_pow_right (by decide) hj))).symm

theorem members_eq (i : Nat) : x.members c i = (List.range 32).filter (fun j => x.inMask c i j) :=
  List.filter_congr fun _ hj => maskOf_getLsbD x c (List.mem_range.1 hj)

theorem mem_members_iff : j ∈ x.members c i ↔ j < 32 ∧ x.inMask c i j = true := by
  rw [members_eq, List.mem_filter, List.mem_range]

theorem members_filter (i : Nat) (keep : Nat → Bool) :
    (x.members c i).filter keep = (List.range 32).filter (fun j => x.inMask c i j && keep j) := by
  rw [members_eq, List.filter_filter]
  exact List.filter_congr fun _ _ => Bool.and_comm _ _

theorem membersPz_eq (i : Nat) : x.membersPz f i = x.memberMarked f i (fun _ => true) := by
  simp only [IC.membersPz, IC.memberMarked, members_eq, Bool.and_true]

end

/-! ### Words by their values -/

theorem wordPz_congr {w64 : Bool} {d : Opnd} {ls : List Nat} {p q : Nat → Bool} (h : ∀ i ∈ ls, p i = q i) :
    wordPz w64 d ls p = wordPz w64 d ls q := by
  cases d with
  | v n => simp only [wordPz, List.filter_congr h]
  | s n => simp only [wordPz, List.filter_congr fun i hi => h i (List.mem_of_mem_take hi)]
  | zero => rfl
  | lane => rfl

theorem crosses_congr {i : Instr} {f : V3} {pz pz' : IC → Nat → Bool} {g g' : IC → Nat → DWord} (h : Crosses i f pz g)
    (hz : ∀ x k, k < 32 → pz x k = pz' x k) (hg : ∀ x k, k < 32 → g x k = g' x k) : Crosses i f pz' g' := by
  intro s sw x hd hm
  rw [← wordWrites_congr fun k hk => hg x k (hd.lane_lt_32 hk), ← wordPz_congr fun k hk => hz x k (hd.lane_lt_32 hk)]
  exact h s sw x hd hm

theorem crosses_of_crossWord {i : Instr} {f : V3} {used : Bool} {pz : IC → Nat → Bool} {g : IC → Nat → DWord}
    (he : ∀ s, exec i s = crossWord i.view f used pz g s) : Crosses i f pz g :=
  crosses_of he (fun _ _ _ => rfl) fun _ => rfl

/-! ### Lanes outside their own masks (R300) -/

/-- A due word of which some lanes may fail: the others, if any, perform it. -/
theorem runWord_some {s : State} {sw : SlotWord} {x : IC} {v : View} {p : Bool} {plan : IC → State → Plan} {pass : List Nat}
    {f : IC → State → State} {bad : List (Nat × LFault)} (h : Due s sw x v p) (hp : plan x (s.ready sw) = .part pass f bad []) :
    runWord v p plan s = .next ((if pass.isEmpty then (s.ready sw).atWord x
      else ((s.ready sw).atWord x).perform { x with lanes := pass } v.common (f { x with lanes := pass })).faultLanes
        x.w.id x.pc x.hdr .load bad) := by
  have hactive : ¬ x.lanes.isEmpty = true := by simpa using h.active
  have hlate : ¬ x.late = true := by simp [h.on_time]
  have hgang : ¬ v.gmBad (coreIdx x.w.core) = true := by simp [h.gang]
  have hbudget : ¬ v.overBudget x.p.alloc = true := by simp [h.budget]
  have hmode : ¬ (p && !x.sys) = true := by simpa using h.mode
  have hflag : ¬ x.flagFull v.common = true := by simp [h.flag]
  have hbeam : ¬ (x.p.launch.replay && viewCommits v && (s.ready sw).beamBusy x.p.id) = true := by simpa using h.beam
  simp only [runWord, h.cur]
  rw [← h.reads, State.doPlan, if_neg hactive, if_neg hlate, if_neg hgang, if_neg hbudget, if_neg hmode, if_neg hflag, if_neg hbeam, hp]
  rfl

theorem reads_of_weft {s : State} {x : IC} (hw : x.w = s.weft x.w.id) (hhere : s.hasWeft x.w.id = true)
    (hact : ∀ i ∈ x.lanes, i < x.w.lanes.length) : Reads s x :=
  ⟨hhere, hact, by rw [← hw], fun _ _ => by rw [← hw], fun _ _ => by rw [← hw], by rw [← hw], by rw [← hw], by rw [← hw],
    by rw [← hw]; exact ⟨rfl, rfl⟩, by rw [← hw], by rw [← hw]⟩

/-- The issue of a word takes of its weft the id, the core, and the state and slot history of the lanes. -/
theorem issued_withWeft (s : State) {x : IC} {w : Weft} (c : Common) (hid : w.id = x.w.id) (hcore : w.core = x.w.core)
    (hlane : ∀ i, (w.lane i).last = (x.w.lane i).last ∧ (w.lane i).st = (x.w.lane i).st) :
    s.issued { x with w := w } c = s.issued x c := by
  have hpos : s.nextPos { x with w := w } = s.nextPos x := by simp only [State.nextPos, hcore]
  have hissue : ∀ y : Weft, y.issueWord { x with w := w } c (s.nextPos x) = y.issueWord x c (s.nextPos x) := fun _ => rfl
  simp only [State.issued, State.countIssue, hpos, hissue, hid, hlane]

theorem lane_issue_of_reads {s : State} {x : IC} (r : Reads s x) (i : Nat) :
    ((s.weft x.w.id).lane i).last = (x.w.lane i).last ∧ ((s.weft x.w.id).lane i).st = (x.w.lane i).st := by
  by_cases hi : i ∈ x.lanes
  · exact ⟨(congrArg Lane.last (r.own i hi) :), (congrArg Lane.st (r.own i hi) :)⟩
  · rw [r.other i hi]
    exact ⟨rfl, rfl⟩

/-- Some lanes of a word that has been read write flag-tracked results, the weft as it now stands. -/
theorem perform_tracked_some {s : State} {x : IC} (r : Reads s x) {pass : List Nat} (hpass : ∀ i ∈ pass, i ∈ x.lanes) (c : Common)
    (vs : List (Nat × DWord)) (pz : List Nat) (e : State → State) (he : ∀ y, (e y).wefts = y.wefts) (hm : ∀ y, (e y).mem = y.mem)
    (ha : ∀ y, (e y).apart = y.apart) :
    Wrote s (s.perform { x with lanes := pass } c (fun y => e (y.tracked x vs pz))) { x with w := s.weft x.w.id, lanes := pass } c noMore
      vs pz := by
  have hid := weft_id r.here
  have hreads : Reads s { x with w := s.weft x.w.id, lanes := pass } :=
    reads_of_weft (by dsimp only; rw [hid]) (by dsimp only; rw [hid]; exact r.here) fun i hi => r.len ▸ r.act i (hpass i hi)
  have hissued := issued_withWeft s (x := { x with lanes := pass }) c hid (congrArg Weft.core r.apart :) (lane_issue_of_reads r)
  have hwrote := perform_tracked hreads c vs pz noMore he hm ha
  simp only [mapLanes_noMore, modWeft_self] at hwrote
  have htracked : ∀ y : State, y.tracked { x with w := s.weft x.w.id, lanes := pass } vs pz = y.tracked x vs pz := fun y => by
    simp only [State.tracked, hid]
  rw [State.perform] at hwrote ⊢
  simp only [htracked, hid, hissued] at hwrote
  exact hwrote

/-- The spec lemma of `crossWord` when not every lane lies in its own mask: those lanes take MEMBER, and the others perform the word. -/
theorem crossWord_member {i : Instr} {f : V3} {used : Bool} {pz : IC → Nat → Bool} {g : IC → Nat → DWord} {s : State} {sw : SlotWord}
    {x : IC} (he : ∀ s, exec i s = crossWord i.view f used pz g s) (h : Due s sw x i.view false) :
    let base := (s.ready sw).atWord x
    let pass := x.lanes.filter (fun k => x.inMask f.c k k)
    let bad := (x.lanes.filter (fun k => !x.inMask f.c k k)).map (fun k => (k, LFault.mk .member 0 0 0 0))
    ∃ u, exec i s = .next (u.faultLanes x.w.id x.pc x.hdr .load bad) ∧
      (pass = [] → u = base) ∧
      (pass ≠ [] → ∃ g pz, Wrote base u { x with w := base.weft x.w.id, lanes := pass } i.view.common noMore
        (wordWrites f.ty.is64 f.d pass g) pz) := by
  intro base pass bad
  have hown : ∀ k ∈ x.lanes, (x.maskOf f.c k).getLsbD k = x.inMask f.c k k := fun k hk => maskOf_getLsbD x f.c (h.lane_lt_32 hk)
  have hpass : x.lanes.filter (fun k => (x.maskOf f.c k).getLsbD k) = pass := List.filter_congr hown
  have hbad : x.lanes.filter (fun k => !(x.maskOf f.c k).getLsbD k) = x.lanes.filter (fun k => !x.inMask f.c k k) :=
    List.filter_congr fun k hk => by rw [hown k hk]
  refine ⟨_, (he s).trans (runWord_some h (by dsimp only; rw [hpass, hbad])), fun hnone => if_pos (by rw [hnone]; rfl), fun hsome => ?_⟩
  rw [if_neg (by simpa using hsome)]
  have hsub : ∀ k ∈ pass, k ∈ x.lanes := fun k hk => (List.mem_filter.1 hk).1
  let y : IC := { x with lanes := pass }
  refine ⟨g y, wordPz f.ty.is64 f.d pass (pz y), ?_⟩
  have hsome_perform := perform_tracked_some h.reading.atWord hsub i.view.common (wordWrites f.ty.is64 f.d pass (g y))
    (wordPz f.ty.is64 f.d pass (pz y))
  cases used with
  | true => exact hsome_perform (fun u => u.consume y (pass.filter (pz y))) (by simp) (by simp) (by simp)
  | false => exact hsome_perform id (fun _ => rfl) (fun _ => rfl) (fun _ => rfl)

/-! ### Exchanges (R301) -/

theorem contrib_eq (x : IC) (w64 : Bool) (a : Opnd) (ident : DWord) (j : Nat) : x.contrib w64 a ident j =
    if (x.w.lane j).st = .exited then ident else if j ∈ x.lanes then x.rd w64 a j else x.settledOnly.rd w64 a j := by
  simp only [IC.contrib, List.contains_iff_mem]

theorem groupSize_eq (b : DWord) : groupSize b.toNat =
    if 1 ≤ (b.extractLsb' 5 3).toNat ∧ (b.extractLsb' 5 3).toNat ≤ 5 then 2 ^ (b.extractLsb' 5 3).toNat else 32 := by
  rw [groupSize, bitsOf_toNat]

theorem groupSize_pos (b : Nat) : 0 < groupSize b := by
  unfold groupSize
  dsimp only
  split <;> positivity

/-- Counting down from a lane of a group, around its end. -/
theorem sub_emod_toNat {g r : Nat} (n : Nat) (hr : r < g) : (((n : Int) - (r : Nat)) % (g : Int)).toNat = (n + g - r) % g := by
  have hcast : (((n + g - r : Nat) : Int)) = (n : Int) - r + g := by omega
  rw [← Int.add_emod_right, ← hcast, ← Int.natCast_emod, Int.toNat_natCast]

theorem sourceLane_rev (b i : Nat) : sourceLane 3 b i =
    (i - i % groupSize b) + ((((b % 32 % groupSize b : Nat) : Int) - (i - (i - i % groupSize b) : Nat)) % (groupSize b : Int)).toNat := by
  rw [sub_emod_toNat _ (by rw [Nat.sub_sub_self (Nat.mod_le _ _)]; exact Nat.mod_lt _ (groupSize_pos b))]
  rfl

/-- The source lane of lane `i`, given how the word counts (`src`) from the group's first lane, its size and the operand's count. -/
def sourceOf (src : Nat → Nat → Nat → Nat → Nat) (x : IC) (f : V3) (i : Nat) : Nat :=
  let b := x.rd false f.b i
  let e := (b.extractLsb' 5 3).toNat
  let g := if 1 ≤ e ∧ e ≤ 5 then 2 ^ e else 32
  src i (i - i % g) g ((b.extractLsb' 0 5).toNat % g)

theorem xlWord_crosses {i : Instr} {f : V3} {sub : Nat} {src : Nat → Nat → Nat → Nat → Nat} (he : ∀ s, exec i s = xlWord i.view sub f s)
    (hsrc : ∀ b i, sourceLane sub b i = src i (i - i % groupSize b) (groupSize b) (b % 32 % groupSize b)) :
    Crosses i f
      (fun x i => x.pz false f.b i || x.pz false f.c i ||
        if x.inMask f.c i (sourceOf src x f i) then x.contribPz f.ty.is64 f.a (sourceOf src x f i) else x.pz f.ty.is64 f.a i)
      (fun x i => if x.inMask f.c i (sourceOf src x f i) then x.contrib f.ty.is64 f.a 0 (sourceOf src x f i) else x.rd f.ty.is64 f.a i) := by
  have hsource : ∀ x k, sourceLane sub (x.nat32 f.b k) k = sourceOf src x f k := fun x k => by
    rw [hsrc, IC.nat32, groupSize_eq, show (x.rd false f.b k).toNat % 32 = _ from (patAt_zero 5 _).symm]
    rfl
  refine crosses_congr (crosses_of_crossWord he) (fun x k hk => ?_) fun x k hk => ?_
  · simp only [IC.exchangePz, hsource, maskOf_getLsbD_of_lane x f.c hk]
  · simp only [IC.exchange, hsource, maskOf_getLsbD_of_lane x f.c hk]

/-! ### O18 -/

/-- Settles O18: an exchange takes the value of its source lane, by `xlWord_crosses`. -/
theorem exchangeWords : Obligations.ExchangeWords := by
  unfold Obligations.ExchangeWords
  refine ⟨⟨?_, ?_, ?_, ?_⟩, fun x w64 a ident j => contrib_eq x w64 a ident j, fun c f q hq => ?_⟩
  iterate 4 exact formsV3_of (fun _ _ => rfl) rfl
  simp only [List.mem_cons, List.not_mem_nil, or_false] at hq
  rcases hq with rfl | rfl | rfl | rfl
  · exact xlWord_crosses (src := fun _ base _ n => base + n) (fun _ => rfl) fun _ _ => rfl
  · exact xlWord_crosses (src := fun i base g n => base + (i - base + n) % g) (fun _ => rfl) fun _ _ => rfl
  · exact xlWord_crosses (src := fun i _ _ n => i ^^^ n) (fun _ => rfl) fun _ _ => rfl
  · exact xlWord_crosses (src := fun i base g n => base + (((n : Int) - (i - base : Nat)) % (g : Int)).toNat) (fun _ => rfl) sourceLane_rev

end Sys2Proof.Proofs
end

section
/-! SUPPORT. Votes, reductions and scans over the members of each lane's mask (O19, O20). -/
namespace Sys2Proof.Proofs
open Sys2Proof Sys2Proof.Machine

/-! ### Votes (R302) -/

theorem voteWord_crosses {i : Instr} {f : V3} {ident : DWord} {g : List (Nat × DWord) → DWord}
    (he : ∀ s, exec i s = voteWord i.view f ident g s) :
    Crosses i f (fun x k => x.memberMarked f k (fun _ => true))
      (fun x k => g ((x.members f.c k).map (fun j => (j, x.contrib f.ty.is64 f.a ident j)))) :=
  crosses_congr (crosses_of_crossWord he) (fun x k _ => membersPz_eq x f k) fun _ _ _ => rfl

theorem voteEq_crosses (c : Common) (f : V3) :
    Crosses (.voteEq c f) f (fun x k => x.memberMarked f k (fun _ => true)) (fun x k =>
      let vs := ((x.members f.c k).filter (fun j => (x.w.lane j).st != .exited)).map (fun j => x.contrib f.ty.is64 f.a 0 j)
      BitVec.ofNat 64 (b2n (vs.all (fun v => some v == vs.head?)))) :=
  crosses_congr (crosses_of_crossWord (used := true) (pz := fun x k => x.membersPz f k) fun _ => rfl) (fun x k _ => membersPz_eq x f k)
    fun _ _ _ => rfl

theorem voteBallot_crosses (c : Common) (f : V3) :
    Crosses (.voteBallot c f) f (fun x k => x.memberMarked f k (fun _ => true)) (fun x k =>
      (maskOf ((((x.members f.c k).map (fun j => (j, x.contrib f.ty.is64 f.a 0 j))).filter (fun v => v.2 != 0)).map (·.1))).setWidth 64) := by
  have he : ∀ s, exec (.voteBallot c f) s = voteWord (Instr.voteBallot c f).view f 0
      (fun vs => (maskOf ((vs.filter (fun v => v.2 != 0)).map (·.1))).setWidth 64) s := fun _ => rfl
  exact (voteWord_crosses he :)

/-- A truth value as a word's result. -/
theorem truth_of_iff {p : Prop} {b : Bool} (h : b = true ↔ p) :
    (p → BitVec.ofNat 64 (b2n b) = (1 : DWord)) ∧ (¬ p → BitVec.ofNat 64 (b2n b) = (0 : DWord)) := by
  cases b with
  | true => exact ⟨fun _ => rfl, fun hn => absurd (h.1 rfl) hn⟩
  | false => exact ⟨fun hp => absurd (h.2 hp) Bool.false_ne_true, fun _ => rfl⟩

theorem all_eq_head_iff {l : List DWord} : l.all (fun v => some v == l.head?) = true ↔ ∀ u ∈ l, ∀ v ∈ l, u = v := by
  cases l with
  | nil => simp
  | cons a as =>
    simp only [List.all_eq_true, List.head?_cons, beq_iff_eq, Option.some.injEq]
    exact ⟨fun h u hu v hv => (h u hu).trans (h v hv).symm, fun h v hv => h v hv a List.mem_cons_self⟩

theorem voteAll_iff (x : IC) (f : V3) (k : Nat) :
    ((x.members f.c k).map (fun j => (j, x.contrib f.ty.is64 f.a 1 j))).all (fun v => v.2 != 0) = true ↔
      ∀ j < 32, x.inMask f.c k j = true → x.contrib f.ty.is64 f.a 1 j ≠ 0 := by
  simp only [List.all_map, List.all_eq_true, mem_members_iff, Function.comp_apply, bne_iff_ne, and_imp]

theorem voteAny_iff (x : IC) (f : V3) (k : Nat) :
    ((x.members f.c k).map (fun j => (j, x.contrib f.ty.is64 f.a 0 j))).any (fun v => v.2 != 0) = true ↔
      ∃ j < 32, x.inMask f.c k j = true ∧ x.contrib f.ty.is64 f.a 0 j ≠ 0 := by
  simp only [List.any_map, List.any_eq_true, mem_members_iff, Function.comp_apply, bne_iff_ne, and_assoc]

theorem voteEq_iff (x : IC) (f : V3) (k : Nat) :
    let live := fun m => x.inMask f.c k m = true ∧ (x.w.lane m).st ≠ .exited
    let vs := ((x.members f.c k).filter (fun j => (x.w.lane j).st != .exited)).map (fun j => x.contrib f.ty.is64 f.a 0 j)
    vs.all (fun v => some v == vs.head?) = true ↔
      ∀ i < 32, ∀ j < 32, live i → live j → x.contrib f.ty.is64 f.a 0 i = x.contrib f.ty.is64 f.a 0 j := by
  intro live vs
  have hvs : ∀ v, v ∈ vs ↔ ∃ j < 32, live j ∧ x.contrib f.ty.is64 f.a 0 j = v := fun v => by
    simp only [vs, live, List.mem_map, List.mem_filter, mem_members_iff, bne_iff_ne, and_assoc]
  rw [all_eq_head_iff]
  refine ⟨fun h i hi j hj hlive hlive' => ?_, fun h u hu v hv => ?_⟩
  · exact h _ ((hvs _).2 ⟨i, hi, hlive, rfl⟩) _ ((hvs _).2 ⟨j, hj, hlive', rfl⟩)
  · obtain ⟨i, hi, hlive, rfl⟩ := (hvs u).1 hu
    obtain ⟨j, hj, hlive', rfl⟩ := (hvs v).1 hv
    exact h i hi j hj hlive hlive'

theorem voteBallot_bit (x : IC) (f : V3) (k j : Nat) :
    ((maskOf ((((x.members f.c k).map (fun j => (j, x.contrib f.ty.is64 f.a 0 j))).filter (fun v => v.2 != 0)).map (·.1))).setWidth 64).getLsbD j
      = decide (j < 32 ∧ x.inMask f.c k j = true ∧ x.contrib f.ty.is64 f.a 0 j ≠ 0) := by
  rw [Bool.eq_iff_iff, BitVec.getLsbD_setWidth, Bool.and_eq_true, getLsbD_maskOf]
  simp only [List.mem_map, List.mem_filter, mem_members_iff, bne_iff_ne, decide_eq_true_eq]
  constructor
  · rintro ⟨-, hlt, v, ⟨⟨i, ⟨-, hin⟩, rfl⟩, hne⟩, rfl⟩
    exact ⟨hlt, hin, hne⟩
  · rintro ⟨hlt, hin, hne⟩
    exact ⟨by omega, hlt, _, ⟨⟨j, ⟨hlt, hin⟩, rfl⟩, hne⟩, rfl⟩

/-- The cross-lane words (R300 to R302). -/
def crossInstrs (c : Common) (ex : Bool) (f : V3) : List Instr :=
  [.xlGet c f, .xlRot c f, .xlXor c f, .xlRev c f, .voteAll c f, .voteAny c f, .voteEq c f, .voteBallot c f, .redAdd c f, .redMin c f,
   .redMax c f, .redAnd c f, .redOr c f, .redXor c f, .scanAdd c ex f, .scanMin c ex f, .scanMax c ex f, .scanOr c ex f]

theorem crossWord_of_mem {c : Common} {ex : Bool} {f : V3} {i : Instr} (hi : i ∈ crossInstrs c ex f) :
    ∃ used pz g, ∀ s, exec i s = crossWord i.view f used pz g s := by
  simp only [crossInstrs, List.mem_cons, List.not_mem_nil, or_false] at hi
  rcases hi with rfl | rfl | rfl | rfl | rfl | rfl | rfl | rfl | rfl | rfl | rfl | rfl | rfl | rfl | rfl | rfl | rfl | rfl <;>
    exact ⟨_, _, _, fun _ => rfl⟩

/-! ### O19 -/

/-- Settles O19: each vote by what its members' values tell; of every cross-lane word the lanes outside their own masks take MEMBER, by
`crossWord_member`. -/
theorem votesAndMembers : Obligations.VotesAndMembers := by
  unfold Obligations.VotesAndMembers
  refine ⟨⟨⟨?_, ?_, ?_, ?_⟩, fun c f => ⟨?_, ?_, ?_, ?_⟩⟩, fun c ex f i hi s sw x h => ?_⟩
  iterate 4 exact formsV3_of (fun _ _ => rfl) rfl
  · exact ⟨_, voteWord_crosses (ident := 1) (g := fun vs => BitVec.ofNat 64 (b2n (vs.all (fun v => v.2 != 0)))) fun _ => rfl,
      fun x k => truth_of_iff (voteAll_iff x f k)⟩
  · exact ⟨_, voteWord_crosses (ident := 0) (g := fun vs => BitVec.ofNat 64 (b2n (vs.any (fun v => v.2 != 0)))) fun _ => rfl,
      fun x k => truth_of_iff (voteAny_iff x f k)⟩
  · exact ⟨_, voteEq_crosses c f, fun x k => truth_of_iff (voteEq_iff x f k)⟩
  · exact ⟨_, voteBallot_crosses c f, fun x k j => voteBallot_bit x f k j⟩
  · obtain ⟨used, pz, g, he⟩ := crossWord_of_mem (c := c) (ex := ex) (f := f) hi
    exact crossWord_member he h

/-! ### Reductions and scans (R302) -/

/-- A row of the table of V3 forms, of a word with the exclusive bit. -/
theorem formsV3_of_scan {mk : Common → V3 → Instr} {op sub : Nat} {ex : Bool} {tys : List Ty} {sat : Bool}
    (hv : ∀ c f, (mk c f).view = .fV3 op sub c ex f)
    (hm : ((v3Forms op)[sub]?).map (fun m => (m.types, m.sat)) = some (tys, sat)) : FormsV3 mk tys sat := by
  intro c f h
  obtain ⟨m, hrow, hts⟩ := Option.map_eq_some_iff.1 hm
  cases hts
  obtain ⟨hfield, htype, -, -⟩ := firstBad_eq_none_iff.1 (v3Form_check (hv c f) hrow h)
  simp only [Bool.and_eq_true] at hfield htype
  obtain ⟨⟨⟨⟨⟨⟨-, hsat⟩, -⟩, -⟩, -⟩, -⟩, -⟩ := hfield
  refine ⟨by simpa using htype.1, fun hs => ?_⟩
  simpa [hs] using hsat

/-- Members combine by `op`, from identity `ident`, as they do by `m`. -/
structure Combines (f : V3) (m : Comb) (ident : DWord) (op : IC → Nat → DWord → DWord → DWord) : Prop where
  start : m.ident = ident
  folds : ∀ x k keep, combine ident (m.op (x.nan k)) (x.memberVals f ident k keep) = combine ident (op x k) (x.memberVals f ident k keep)

theorem Combines.crosses {i : Instr} {f : V3} {m : Comb} {ident : DWord} {op : IC → Nat → DWord → DWord → DWord}
    (h : Combines f m ident op) {keep : Nat → Nat → Bool} (he : ∀ s, exec i s = redWord i.view f m keep s) :
    Crosses i f (fun x k => x.memberMarked f k (keep k)) (fun x k => combine ident (op x k) (x.memberVals f ident k (keep k))) := by
  refine crosses_congr (crosses_of_crossWord he) (fun x k _ => ?_) fun x k _ => ?_
  · rw [members_filter, IC.memberMarked]
  · rw [members_filter, h.start, ← h.folds, IC.memberVals]

theorem combines_of_eq {f : V3} {m : Comb} {ident : DWord} {op : IC → Nat → DWord → DWord → DWord} (hident : m.ident = ident)
    (hop : ∀ x k a b, m.op (x.nan k) a b = op x k a b) : Combines f m ident op :=
  ⟨hident, fun x k keep => by rw [show m.op (x.nan k) = op x k from funext fun a => funext fun b => hop x k a b]⟩

/-- Members combined without regard to the lane. -/
theorem combines_of_comb {f : V3} {m : Comb} {start ident : DWord} {g : DWord → DWord → DWord} {op : IC → Nat → DWord → DWord → DWord}
    (hm : m = ⟨start, fun _ a b => g a b⟩) (hstart : start = ident) (hop : ∀ x k a b, g a b = op x k a b) : Combines f m ident op :=
  combines_of_eq (by rw [hm, hstart]) fun x k a b => by rw [hm, ← hop x k a b]

/-- Folds by operations that agree on some values, and give such values, of such values. -/
theorem foldl_congr_of_closed {p : DWord → Prop} {g h : DWord → DWord → DWord} (heq : ∀ a b, p a → p b → g a b = h a b)
    (hclosed : ∀ a b, p (g a b)) {vs : List DWord} (hvs : ∀ v ∈ vs, p v) {a : DWord} (ha : p a) : vs.foldl g a = vs.foldl h a := by
  induction vs generalizing a with
  | nil => rfl
  | cons v vs ih =>
    rw [List.foldl_cons, List.foldl_cons, ← heq a v ha (hvs v List.mem_cons_self)]
    exact ih (fun u hu => hvs u (List.mem_cons_of_mem v hu)) (hclosed a v)

theorem combine_congr_of_closed {p : DWord → Prop} {g h : DWord → DWord → DWord} (heq : ∀ a b, p a → p b → g a b = h a b)
    (hclosed : ∀ a b, p (g a b)) {vs : List DWord} (hvs : ∀ v ∈ vs, p v) (ident : DWord) : combine ident g vs = combine ident h vs := by
  cases vs with
  | nil => rfl
  | cons v vs => exact foldl_congr_of_closed heq hclosed (fun u hu => hvs u (List.mem_cons_of_mem v hu)) (hvs v List.mem_cons_self)

/-- What the members of a 32-bit word contribute is below 2^32. -/
theorem memberVals_lt {f : V3} (ht : f.ty.is64 = false) {ident : DWord} (hident : ident.toNat < 2 ^ 32) (x : IC) (k : Nat) (keep : Nat → Bool) :
    ∀ v ∈ x.memberVals f ident k keep, v.toNat < 2 ^ 32 := by
  intro v hv
  obtain ⟨j, hj, rfl⟩ := List.mem_map.1 hv
  have hlane : j < 2 ^ 32 := Nat.lt_trans (List.mem_range.1 (List.mem_filter.1 hj).1) (by decide)
  rw [contrib_eq]
  split
  · exact hident
  · split
    · exact rd_lt ht hlane
    · exact rd_lt ht hlane

theorem combines_of_narrow {f : V3} {m : Comb} {ident : DWord} {op : IC → Nat → DWord → DWord → DWord} (ht : f.ty.is64 = false)
    (hident : m.ident = ident) (hlt : ident.toNat < 2 ^ 32) (hclosed : ∀ c a b, (m.op c a b).toNat < 2 ^ 32)
    (hop : ∀ x k (a b : DWord), a.toNat < 2 ^ 32 → b.toNat < 2 ^ 32 → m.op (x.nan k) a b = op x k a b) : Combines f m ident op :=
  ⟨hident, fun x k keep => combine_congr_of_closed (p := fun v => v.toNat < 2 ^ 32) (hop x k) (hclosed _) (memberVals_lt ht hlt x k keep) ident⟩

/-! ### Integer operations of members -/

section
variable {t : Ty} (ht : t ∈ [Ty.i32, .n32, .i64, .n64])
include ht

theorem ne_f32_of_int : t ≠ .f32 := by rintro rfl; exact absurd ht (by decide)

theorem combAdd_int : combAdd t = ⟨0, fun _ a b => Fit t false (IntOf t a + IntOf t b)⟩ := by
  rw [combAdd, if_neg (ne_f32_of_int ht)]
  simp only [fnAdd_eq ht]

theorem combMin_int : combMin t =
    ⟨Fit t false (numHi t), fun _ a b => Fit t false (if IntOf t a ≤ IntOf t b then IntOf t a else IntOf t b)⟩ := by
  have hend : intMaxVal t = numHi t := by revert t; decide
  rw [combMin, if_neg (ne_f32_of_int ht), hend, narrowInt_eq_fit _ _ _ ht]
  simp only [fnMin_eq ht]

theorem combMax_int : combMax t =
    ⟨Fit t false (numLo t), fun _ a b => Fit t false (if IntOf t a ≤ IntOf t b then IntOf t b else IntOf t a)⟩ := by
  have hend : intMinVal t = numLo t := by revert t; decide
  rw [combMax, if_neg (ne_f32_of_int ht), hend, narrowInt_eq_fit _ _ _ ht]
  simp only [fnMax_eq ht]

end

/-! ### FP32 operations of members -/

theorem trunc_eq_ofNat_of_lt {n : Nat} (h : n < 2 ^ 32) : trunc 32 n = BitVec.ofNat 64 n :=
  BitVec.eq_of_toNat_eq (by rw [toNat_trunc_of_lt h, toNat_ofNat_of_lt (w := 32) (by decide) h])

/-- An operation on FP32 values is the one on their patterns. -/
theorem eachElem_f32 (g : Fmt → Nat → (Nat → Nat) → Nat) (a b : DWord) :
    eachElem .f32 g [a, b] = trunc 32 (g fmtF32 0 (fun i => patAt 32 0 ([a, b].getD i 0))) := by
  simp only [← elemAt_eq_patAt]
  rfl

theorem fnFpAdd_f32 (e : FEnv) (a b : DWord) : fnFpAdd .f32 e a b = BitVec.ofNat 64 (rounded fmtF32 e 0 [patAt 32 0 a, patAt 32 0 b]
    ((fmtF32.val (patAt 32 0 a)).add e.mode (fmtF32.val (patAt 32 0 b)))) := by
  rw [← trunc_eq_ofNat_of_lt (by exact rounded_patAt_lt .f32 e 0 [a, b] _), ← fAdd_eq]
  exact eachElem_f32 _ a b

/-- The first NaN of two FP32 values, quieted, else the second where it lies beyond the first (R264). -/
def ordered (beyond : DWord → DWord → Bool) (a b : DWord) : DWord :=
  if fmtF32.isNaN (patAt 32 0 a) then BitVec.ofNat 64 (fmtF32.quiet (patAt 32 0 a))
  else if fmtF32.isNaN (patAt 32 0 b) then BitVec.ofNat 64 (fmtF32.quiet (patAt 32 0 b)) else if beyond b a then b else a

theorem ofNat_patAt {a : DWord} (ha : a.toNat < 2 ^ 32) : BitVec.ofNat 64 (patAt 32 0 a) = a := by
  rw [patAt_zero, Nat.mod_eq_of_lt ha, BitVec.ofNat_toNat, BitVec.setWidth_eq]

theorem ordered_eq {beyond : DWord → DWord → Bool} {p : Prop} [Decidable p] {a b : DWord} (ha : a.toNat < 2 ^ 32) (hb : b.toNat < 2 ^ 32)
    (hp : beyond b a = decide p) : ordered beyond a b = trunc 32
      (if fmtF32.isNaN (patAt 32 0 a) then fmtF32.quiet (patAt 32 0 a)
       else if fmtF32.isNaN (patAt 32 0 b) then fmtF32.quiet (patAt 32 0 b) else if p then patAt 32 0 b else patAt 32 0 a) := by
  rw [trunc_eq_ofNat_of_lt (by exact propagated_lt .f32 0 a b p), ordered, hp]
  simp only [decide_eq_true_eq, apply_ite (BitVec.ofNat 64), ofNat_patAt ha, ofNat_patAt hb]

theorem fnFpMin_f32 {a b : DWord} (ha : a.toNat < 2 ^ 32) (hb : b.toNat < 2 ^ 32) : fnFpMin .f32 a b =
    ordered (fun u v => decide (fmtF32.key (patAt 32 0 u) < fmtF32.key (patAt 32 0 v))) a b := by
  rw [ordered_eq ha hb rfl, ← fMin_eq]
  exact eachElem_f32 _ a b

theorem fnFpMax_f32 {a b : DWord} (ha : a.toNat < 2 ^ 32) (hb : b.toNat < 2 ^ 32) : fnFpMax .f32 a b =
    ordered (fun u v => decide (fmtF32.key (patAt 32 0 v) < fmtF32.key (patAt 32 0 u))) a b := by
  rw [ordered_eq ha hb rfl, ← fMax_eq]
  exact eachElem_f32 _ a b

theorem eachElem_f32_lt (g : Fmt → Nat → (Nat → Nat) → Nat) (xs : List DWord) : (eachElem .f32 g xs).toNat < 2 ^ 32 := by
  rw [toNat_eachElem_f32]
  exact patAt_lt _ _ _

/-! ### O20 -/

theorem ints_or_f32 : ∀ t ∈ [Ty.i32, .n32, .i64, .n64, .f32], t ∈ [Ty.i32, .n32, .i64, .n64] ∨ t = .f32 := by decide

/-- Settles O20: a reduction or scan folds its members' values by an operation of the type (`Combines.crosses`): an integer operation, an
FP32 operation, which on the minimum and maximum rests on the members' values being 32-bit, or one on bits. -/
theorem reduceAndScanWords : Obligations.ReduceAndScanWords := by
  unfold Obligations.ReduceAndScanWords
  refine ⟨⟨?_, ?_, ?_, ?_, ?_, ?_, fun ex => ⟨?_, ?_, ?_, ?_⟩⟩, fun c ex f => ?_⟩
  iterate 10 exact formsV3_of_scan (fun _ _ => rfl) rfl
  intro fp n F order add min_ max_ fold all below word zero least most
  refine ⟨fun ht => ?_, fun _ => ?_⟩
  · have hcomb : Combines f (combAdd f.ty) zero add ∧ Combines f (combMin f.ty) most (fun _ _ => min_) ∧
        Combines f (combMax f.ty) least (fun _ _ => max_) := by
      rcases ints_or_f32 _ ht with hint | hf32
      · have hfp : ¬ fp = true := by simpa [fp] using ne_f32_of_int hint
        refine ⟨combines_of_comb (combAdd_int hint) ?_ fun _ _ _ _ => ?_, combines_of_comb (combMin_int hint) ?_ fun _ _ _ _ => ?_,
          combines_of_comb (combMax_int hint) ?_ fun _ _ _ _ => ?_⟩ <;> exact (if_neg hfp).symm
      · have hfp : fp = true := decide_eq_true hf32
        have hnarrow : f.ty.is64 = false := by rw [hf32]; rfl
        rw [hf32]
        refine ⟨combines_of_eq (if_pos hfp).symm fun x k a b => ?_, combines_of_narrow hnarrow (if_pos hfp).symm ?_ ?_ fun x k a b ha hb => ?_,
          combines_of_narrow hnarrow (if_pos hfp).symm ?_ ?_ fun x k a b ha hb => ?_⟩
        · exact (fnFpAdd_f32 _ a b).trans (if_pos hfp).symm
        · rw [show most = 0x7F800000 from if_pos hfp]; decide
        · exact fun _ _ _ => eachElem_f32_lt _ _
        · exact (fnFpMin_f32 ha hb).trans (if_pos hfp).symm
        · rw [show least = 0xFF800000 from if_pos hfp]; decide
        · exact fun _ _ _ => eachElem_f32_lt _ _
        · exact (fnFpMax_f32 ha hb).trans (if_pos hfp).symm
    obtain ⟨hadd, hmin, hmax⟩ := hcomb
    exact ⟨hadd.crosses fun _ => rfl, hmin.crosses fun _ => rfl, hmax.crosses fun _ => rfl, hadd.crosses fun _ => rfl,
      hmin.crosses fun _ => rfl, hmax.crosses fun _ => rfl⟩
  · have hand : Combines f (combAnd f.ty) (Cut f.ty (BitVec.allOnes 64)) (fun _ _ a b => a &&& b) :=
      combines_of_eq (cut_eq_trunc f.ty (BitVec.allOnes 64)).symm fun _ _ _ _ => rfl
    have hor : Combines f combOr 0 (fun _ _ a b => a ||| b) := combines_of_eq rfl fun _ _ _ _ => rfl
    have hxor : Combines f combXor 0 (fun _ _ a b => a ^^^ b) := combines_of_eq rfl fun _ _ _ _ => rfl
    exact ⟨hand.crosses fun _ => rfl, hor.crosses fun _ => rfl, hxor.crosses fun _ => rfl, hor.crosses fun _ => rfl⟩

end Sys2Proof.Proofs
end

section
/-! SUPPORT. Words whose lanes are checked one by one and then perform their effects in ascending order, some at a commit point (R148,
R198); what a due word reads of its own panel. -/
namespace Sys2Proof.Proofs
open Sys2Proof Sys2Proof.Machine

section
variable {i : Instr} {mem : Bool} {pre : State → IC → Prop} {pz : IC → Nat → Bool}
  {chk : IC → State → Nat → Chk (Bool × (State → State))} {g : IC → Nat → State → State} (he : ∀ s, exec i s = laneWord i.view mem false pz chk s)
  (hw : ∀ s x, pre s x → x.awaits = false) (hz : ∀ s x, pre s x → ∀ k ∈ x.lanes, pz x k = false)
include he hw hz

/-- A word all of whose lanes pass, those that `b` names at a commit point. -/
theorem laneWord_performs {b : IC → Nat → Bool} (hcm : ∀ s x, pre s x → x.lanes.any (b x) = true → s.commitWaits x.p.id = false)
    (hc : ∀ s x, pre s x → ∀ k ∈ x.lanes, chk x s k = .ok (b x k, g x k)) :
    Performs i false pre (fun x u => if x.lanes.any (b x) then u.committed x.p.id (x.each (g x)) else x.each (g x) u) :=
  performs_part he fun s x hx => lanePlan_pass (fun _ => hw s x hx) (hcm s x hx) (hz s x hx) (hc s x hx)

/-- A word all of whose lanes pass, none at a commit point. -/
theorem laneWord_performs_uncommitted (hc : ∀ s x, pre s x → ∀ k ∈ x.lanes, chk x s k = .ok (false, g x k)) :
    Performs i false pre (fun x => x.each (g x)) :=
  performs_part he fun s x hx => lanePlan_ok (fun _ => hw s x hx) (hz s x hx) (hc s x hx)

/-- A word all of whose lanes pass, each at a commit point. -/
theorem laneWord_performs_committed (hcm : ∀ s x, pre s x → s.commitWaits x.p.id = false)
    (hc : ∀ s x, pre s x → ∀ k ∈ x.lanes, chk x s k = .ok (true, g x k)) :
    Performs i false pre (fun x u => u.committed x.p.id (x.each (g x))) := by
  intro s sw x hd hx
  obtain ⟨u, hu, hexec⟩ := laneWord_performs he hw hz (fun s x hx _ => hcm s x hx) hc s sw x hd hx
  have hany : x.lanes.any (fun _ => true) = true := by simpa using List.exists_mem_of_ne_nil _ hd.active
  exact ⟨u, hu, by simpa only [if_pos hany] using hexec⟩

end

theorem ok_bind {α β : Type} (a : α) (f : α → Chk β) : (Chk.ok a).bind f = f a := rfl

theorem ok_map {α β : Type} (a : α) (f : α → β) : (Chk.ok a).map f = .ok (f a) := rfl

/-- The panel of a due word is the one of its weft. -/
theorem panel_of_due {s : State} {sw : SlotWord} {x : IC} {v : View} {p : Bool} (h : Due s sw x v p) :
    x.p = (s.ready sw).panel ((s.ready sw).weft x.w.id).panel := by
  obtain ⟨-, hw, -⟩ := h.weft_eq
  rw [← hw, h.reads, icOf, h.fresh]

/-- What a word does where its panel is the one of its weft, it does whenever it is due. -/
theorem performs_of_panel {i : Instr} {p : Bool} {pre : State → IC → Prop} {act : IC → State → State}
    (h : Performs i p (fun s x => pre s x ∧ x.p = s.panel (s.weft x.w.id).panel) act) : Performs i p pre act :=
  fun s sw x hd hx => h s sw x hd ⟨hx, panel_of_due hd⟩

end Sys2Proof.Proofs
end

section
/-! SUPPORT. Frames: the words that allocate and mark them, link records and calls, the walk over frames, and the words that leave them
(O24 to O27). -/
namespace Sys2Proof.Proofs
open Sys2Proof Sys2Proof.Machine

/-! ### Allocation and marks (R286, R293) -/

theorem setTop_eq (y : State) (w k : Nat) (size : BitVec 16) :
    y.setTop w k size.toNat = y.modLane w k (fun l => { l with sp := l.fb + size.setWidth 40, mtop := 0 }) := by
  rw [State.setTop, BitVec.ofNat_toNat]

theorem enter_moves (c : Common) (bud : BitVec 4) (size : BitVec 16) :
    Moves (.enter c bud size)
      (fun s x => size = 0 ∨ ∀ k ∈ x.lanes,
        ∃ q, s.checkTo (s.reqOf x.w.id k) .store (mkAddr segSTK (x.w.lane k).fb) 0 size.toNat 1 false = .ok q)
      (fun _ _ _ l => { l with sp := l.fb + size.setWidth 40, mtop := 0 }) := by
  refine moves_of (fun _ => rfl) (fun _ _ _ h => absurd h Bool.false_ne_true) (fun _ _ _ _ _ => rfl) fun s x hx k hk => ?_
  refine ⟨fun y => y.setTop x.w.id k size.toNat, ?_, fun u => setTop_eq u x.w.id k size⟩
  dsimp only
  rcases hx with hzero | hcheck
  · rw [if_pos hzero]
  · obtain ⟨q, hq⟩ := hcheck k hk
    rw [hq]
    exact ite_self _

theorem leave_steps (c : Common) (size : BitVec 16) :
    Steps (.leave c size) (fun _ _ l => { l with sp := l.fb + size.setWidth 40, mtop := 0 }) :=
  steps_of (fun _ => rfl) fun x _ => ⟨_, rfl, fun u => by simp only [setTop_eq]; rfl⟩

theorem natLE_add (m n x : Nat) : natLE (m + n) x = natLE m x ++ natLE n (x / 256 ^ m) := by
  induction m generalizing x with
  | zero => simp [natLE]
  | succ m ih => rw [Nat.succ_add_eq_add_succ, Nat.add_succ, natLE, ih, natLE, List.cons_append, Nat.div_div_eq_div_mul, Nat.pow_succ']

/-- A mark record: the token, and zeros (R293). -/
theorem natLE_markRecord (t : DWord) : natLE 16 t.toNat = natLE 8 t.toNat ++ natLE 8 0 := by
  rw [natLE_add 8 8, Nat.div_eq_of_lt (show t.toNat < 256 ^ 8 from t.isLt)]

theorem mark_performs (c : Common) (f : CF) (q : Nat → Desc × Seg × Nat × List Loc) :
    let token := fun (x : IC) k => mkAddr (x.w.lane k).sseg (x.w.lane k).sp
    Performs (.mark c f) false
      (fun s x => x.awaits = false ∧ ∀ k ∈ x.lanes, s.check (s.reqOf x.w.id k) .store (mkAddr segSTK (x.w.lane k).sp) 0 16 8 = .ok (q k))
      (fun x => x.each (fun k y =>
        ((y.enqueue x.w.id k 0 x.sys x.pc x.hdr (.store (wrs (q k).2.2.2 (natLE 16 (token x k).toNat)) .none)).fixed x latInt
          (destWrites true f.b k (token x k))).modLane x.w.id k (fun l =>
            { l with sp := (x.w.lane k).sp + 16, mtop := ((x.w.lane k).sp + 16).setWidth 24 ||| 1 }))) :=
  laneWord_performs_uncommitted (fun _ => rfl) (fun _ _ hx => hx.1) (fun _ _ _ _ _ => rfl) fun s x hx k hk => by
    dsimp only
    rw [hx.2 k hk]
    rfl

/-! ### O24 -/

/-- Settles O24: `enter` moves its lanes by `setTop_eq` once their locals pass, `leave` outright, and `mark` performs `mark_performs`. -/
theorem frameWords : Obligations.FrameWords := by
  unfold Obligations.FrameWords
  refine ⟨fun c bud size => ⟨enter_moves c bud size, leave_steps c size⟩, fun c f q => ?_⟩
  simp only [← natLE_markRecord]
  exact mark_performs c f q

/-! ### Calls (R287, R288) -/

theorem call_performs (c : Common) (f : CF) (q : Nat → Nat × Nat × List Loc) :
    let target := fun (x : IC) => mkAddr (segOf x.pc) (f.imm.setWidth 40)
    Performs (.call c f) false (fun s x => x.awaits = false ∧ ∀ k ∈ x.lanes, s.callChecks x k (target x) = .ok (q k))
      (fun x => x.each (fun k y => y.enterProc x k (target x) (q k) none)) :=
  laneWord_performs_uncommitted (fun _ => rfl) (fun _ _ hx => hx.1) (fun _ _ _ _ _ => rfl) fun s x hx k hk => by
    dsimp only
    rw [hx.2 k hk]
    rfl

theorem callInd_performs (c : Common) (f : CF) (q : Nat → Nat × Nat × List Loc) :
    Performs (.callInd c f) false
      (fun s x => x.awaits = false ∧ ∀ k ∈ x.lanes, x.pz true f.a k = false ∧ s.callChecks x k (x.rd true f.a k) = .ok (q k))
      (fun x => x.each (fun k y => y.enterProc x k (x.rd true f.a k) (q k) none)) :=
  laneWord_performs_uncommitted (fun _ => rfl) (fun _ _ hx => hx.1) (fun _ _ hx k hk => (hx.2 k hk).1) fun s x hx k hk => by
    dsimp only [IC.addr]
    rw [(hx.2 k hk).2]
    rfl

/-- A `call.sym` to a BOUND entry with Execute and room for a hold of each lane, all of whose lanes pass: at a commit point the holds
rise, and each lane enters the procedure. -/
theorem callSym_of_bound {s : State} {sw : SlotWord} {x : IC} {c : Common} {f : CF} {e eb nb : Nat} {b : BEntry}
    {q : Nat → Nat × Nat × List Loc} (h : Due s sw x (Instr.callSym c f).view false) (hw : x.awaits = false)
    (hcommit : (s.ready sw).commitWaits x.p.id = false)
    (hslot : (s.ready sw).slotToEntry x.p.ctx ((s.ready sw).moduleOf x.w.core x.p.ctx (segOf x.pc)) f.imm.toNat = .ok (e, eb, nb))
    (hentry : (s.ready sw).entryAt x.p.ctx eb e = .ok b) (hbound : b.state = 2) (hright : b.rights / 2 % 2 = 1)
    (hroom : b.hold + x.lanes.length ≤ 0xFFFF)
    (hcheck : ∀ k ∈ x.lanes, (s.ready sw).callChecks x k (mkAddr (BitVec.ofNat 24 b.seg) 0) = .ok (q k)) :
    ∃ u, Issued (s.ready sw) u x c ∧ exec (.callSym c f) s = .next ((u.committed x.p.id (fun v =>
      x.each (fun k y => y.enterProc x k (mkAddr (BitVec.ofNat 24 b.seg) 0) (q k) (some e))
        ((v.holdUp x.p.ctx e x.lanes.length).getD v))).partDone x.w.id x.track) := by
  have hlanes : (x.lanes.map (fun k => (k, q k))).map (·.1) = x.lanes := by simp [Function.comp_def]
  refine ⟨_, (issued_issued h.reading.atWord c).ofAtWord, ?_⟩
  refine runWord_part h (f := fun _ u => u.committed x.p.id (fun v =>
    x.each (fun k y => y.enterProc x k (mkAddr (BitVec.ofNat 24 b.seg) 0) (q k) (some e))
      ((v.holdUp x.p.ctx e x.lanes.length).getD v))) ?_
  dsimp only
  rw [useSlot_of_bound _ hw hslot hentry hbound, if_neg (by omega)]
  rw [sortLanes_ok hcheck]
  dsimp only
  rw [List.length_map, if_neg (by omega), if_neg (by simp [hcommit]), checkedPlan, if_pos List.isEmpty_nil, hlanes]
  simp only [List.foldl_map]
  rfl

/-! ### O25 -/

/-- Settles O25: each lane of a call that passes enters its procedure as `enterProc` says; `call.sym` is `callSym_of_bound`. -/
theorem callWords : Obligations.CallWords := by
  unfold Obligations.CallWords
  intro c f q
  refine ⟨call_performs c f q, callInd_performs c f q, fun s sw x e eb nb b h => ?_⟩
  intro r t hw hcommit hslot hentry hbound hright hroom hcheck
  exact callSym_of_bound h hw hcommit hslot hentry hbound hright hroom hcheck

/-! ### The checks of a call (R288) -/

section
variable {s : State} {r : Req} {t : DWord}

theorem procAt_of_fault {e : LFault} (h : s.checkFetch r t = .fault e) : s.procAt r t false = .fault e := by
  rw [State.procAt, h, Chk.bind]

variable (hfetch : s.checkFetch r t = .ok ())
include hfetch

theorem procAt_of_no_header (h : decodeHeader (s.fetchWord r.core r.ctx (segOf t) (offOf t).toNat) = none) :
    s.procAt r t false = .fault ⟨.illegal, 8, t, 0, 0⟩ := by
  rw [State.procAt, hfetch, ok_bind]
  dsimp only
  rw [h]
  rfl

/-- At a header a procedure begins with `enter`, which gives its budget and frame size (R288). -/
theorem procAt_of_header {h : Header} (hh : decodeHeader (s.fetchWord r.core r.ctx (segOf t) (offOf t).toNat) = some h) :
    let word := s.fetchWord r.core r.ctx (segOf t) ((offOf t).toNat + 8)
    s.procAt r t false =
      if word.extractLsb' 58 6 = 0x24#6 ∧ word.extractLsb' 44 6 = 0#6 then
        .ok (16 * ((word.extractLsb' 16 4).toNat + 1), (word.extractLsb' 0 13).toNat)
      else .fault ⟨.illegal, 9, t, 0, 0⟩ := by
  rw [State.procAt, hfetch, ok_bind]
  dsimp only
  rw [hh]
  exact if_neg (by simp)

end

section
variable {s : State} {x : IC} {k : Nat} {t : DWord}

theorem callChecks_of_fault {e : LFault} (h : s.procAt (s.reqOf x.w.id k) t false = .fault e) : s.callChecks x k t = .fault e := by
  simp only [State.callChecks, h, Chk.bind]

/-- Steps 4 and 5 of a call: the budget, and the bytes of the link record. -/
theorem callChecks_of_proc {q : Nat × Nat} (h : s.procAt (s.reqOf x.w.id k) t false = .ok q) : s.callChecks x k t =
    if x.p.alloc < q.1 then .fault ⟨.budget, 0, t, 0, 0⟩
    else (s.check (s.reqOf x.w.id k) .store (mkAddr segSTK (x.w.lane k).sp) 0 0x20 8).map (fun z => (q.1, q.2, z.2.2.2)) := by
  simp only [State.callChecks, h, Chk.bind]

end

/-! ### Link records (R283) -/

/-- The bit of a number whose value is that of a truth value. -/
theorem bitAt_of_div {x i : Nat} {b : Bool} (h : x / 2 ^ i % 2 = b.toNat) : bitAt x i = b := by
  rw [bitAt_eq_testBit, Nat.testBit_eq_decide_div_mod_eq, h]
  cases b <;> rfl

section
variable {f : Frame} (hcseg : f.cseg < 2 ^ 24) (hentry : f.entry < 2 ^ 16) (hfsize : f.fsize < 2 ^ 13) (hbud : f.bud < 2 ^ 4)
  (hent : f.ent < 2 ^ 32) (hsmtop : f.smtop < 2 ^ 24) (htf : f.tf < 4)
include hcseg hentry hfsize hbud hent hsmtop htf

/-- The fields of a link record lie side by side in its number. -/
theorem frame_word_fields :
    let n := fun (hi lo : Nat) => f.word / 2 ^ lo % 2 ^ (hi - lo + 1)
    f.word < 2 ^ 256 ∧
    n 255 255 = f.hv.toNat ∧ n 254 253 = f.tf ∧ n 252 248 = 0 ∧ n 247 224 = f.smtop ∧ n 223 192 = f.ent ∧ n 191 128 = f.savfb.toNat ∧
    n 127 104 = f.cseg ∧ n 103 88 = f.entry ∧ n 87 75 = f.fsize ∧ n 74 71 = f.bud ∧ n 70 65 = 0 ∧ n 64 64 = f.mkd.toNat ∧
    n 63 0 = f.ret.toNat := by
  have hret := f.ret.isLt
  have hsav := f.savfb.isLt
  have hmkd : f.mkd.toNat < 2 := f.mkd.toNat_lt
  have hhv : f.hv.toNat < 2 := f.hv.toNat_lt
  have hb2n : ∀ b : Bool, b2n b = b.toNat := fun b => by cases b <;> rfl
  dsimp only
  simp only [Frame.word, hb2n]
  refine ⟨?_, ?_, ?_, ?_, ?_, ?_, ?_, ?_, ?_, ?_, ?_, ?_, ?_, ?_⟩ <;> omega

/-- The fields of a link record are read back from its number. -/
theorem frame_ofNat_word : Frame.ofNat f.word = f := by
  obtain ⟨-, hhv, h254, -, h224, h192, h128, h104, h88, h75, h71, -, h64, h0⟩ :=
    frame_word_fields hcseg hentry hfsize hbud hent hsmtop htf
  have hret : BitVec.ofNat 64 f.word = f.ret := BitVec.eq_of_toNat_eq (by simpa using h0)
  have hsav : BitVec.ofNat 64 (f.word / 2 ^ 128) = f.savfb := BitVec.eq_of_toNat_eq (by rw [BitVec.toNat_ofNat, ← h128])
  simp only [Frame.ofNat, bitsOf_eq, hret, hsav, bitAt_of_div h64, bitAt_of_div hhv]
  congr 1

end

/-! ### The walk over frames (R290) -/

/-- Whether the walk goes on from a frame at an offset to the one that its SAVFB names (R290). -/
def WalksOn (r : Req) (fb : Nat) (f : Frame) : Prop :=
  segOf f.ret ≠ 0 ∧ segOf f.savfb = r.sseg ∧ 0x20 ≤ (offOf f.savfb).toNat ∧ (offOf f.savfb).toNat + 0x20 ≤ fb

theorem walksOn_iff_not {r : Req} {fb : Nat} {f : Frame} : WalksOn r fb f ↔
    ¬ (segOf f.ret = 0 ∨ segOf f.savfb ≠ r.sseg ∨ (offOf f.savfb).toNat < 0x20 ∨ fb < (offOf f.savfb).toNat + 0x20) := by
  simp only [WalksOn, not_or, not_lt, not_not, ne_eq]

section
variable {s : State} {r : Req} {w n fb : Nat} {f : Frame}

theorem framesFrom_of_fault {e : LFault} (h : s.frameAt r w fb = .fault e) : s.framesFrom r w (n + 1) fb = .fault e := by
  rw [State.framesFrom, h]

theorem framesFrom_of_miss {p : List PageReq} (h : s.frameAt r w fb = .miss p) : s.framesFrom r w (n + 1) fb = .miss p := by
  rw [State.framesFrom, h]

theorem framesFrom_of_end (h : s.frameAt r w fb = .ok f) (hend : ¬ WalksOn r fb f) : s.framesFrom r w (n + 1) fb = .ok [(fb, f)] := by
  rw [walksOn_iff_not, not_not] at hend
  rw [State.framesFrom, h]
  exact if_pos hend

theorem framesFrom_of_on (h : s.frameAt r w fb = .ok f) (hon : WalksOn r fb f) {fs : List (Nat × Frame)}
    (hfs : s.framesFrom r w n (offOf f.savfb).toNat = .ok fs) : s.framesFrom r w (n + 1) fb = .ok ((fb, f) :: fs) := by
  rw [walksOn_iff_not] at hon
  rw [State.framesFrom, h]
  dsimp only
  rw [if_neg hon, hfs]

end

/-! ### O26 -/

/-- Settles O26: `procAt_of_header` and `callChecks_of_proc` are the steps of a call, `frame_word_fields` and `frame_ofNat_word` the layout,
`framesFrom_of_on` and `framesFrom_of_end` the walk. -/
theorem callRecords : Obligations.CallRecords := by
  unfold Obligations.CallRecords
  refine ⟨fun s x k t => ?_, fun f hcseg hentry hfsize hbud hent hsmtop htf => ?_, fun s r w n fb => ?_⟩
  · intro r hdr word enter budget
    refine ⟨fun e h => callChecks_of_fault (procAt_of_fault h), fun hfetch => ⟨fun hnone => ?_, fun h hsome => ?_⟩⟩
    · exact callChecks_of_fault (procAt_of_no_header hfetch hnone)
    · have hproc := procAt_of_header hfetch hsome
      refine ⟨fun hno => callChecks_of_fault (hproc.trans (if_neg hno)), fun hyes hsmall => ?_, fun hyes hfits => ?_⟩
      · exact (callChecks_of_proc (hproc.trans (if_pos hyes))).trans (if_pos hsmall)
      · rw [callChecks_of_proc (hproc.trans (if_pos hyes)), if_neg (Nat.not_lt.2 hfits)]
        exact ⟨fun e he => by rw [he]; rfl, fun q hq => by rw [hq]; rfl⟩
  · obtain ⟨hlt, hfields⟩ := frame_word_fields hcseg hentry hfsize hbud hent hsmtop htf
    exact ⟨hlt, frame_ofNat_word hcseg hentry hfsize hbud hent hsmtop htf, hfields⟩
  · refine ⟨fun e h => framesFrom_of_fault h, fun p h => framesFrom_of_miss h, fun f h => ?_⟩
    exact ⟨fun hend => framesFrom_of_end h hend, fun hon fs hfs => framesFrom_of_on h hon hfs⟩

/-! ### Returns and exits (R289, R290) -/

theorem entriesIn_of_none {s : State} {c : CtxId} {es : List Nat} (h : s.entryPage c es = none) : s.entriesIn c es = .ok () := by
  rw [State.entriesIn, h]

/-- A lane that returns to the caller of its top frame `l`: the frame, its mark record and its hold go. -/
def returnLane (x : IC) (l : Frame) (k : Nat) (y : State) : State :=
  (if l.hv then y.holdDown x.p.ctx l.ent else y).modLane x.w.id k (fun z =>
    { z with sp := (x.w.lane k).fb - 0x20 - (if l.mkd then 16 else 0), fb := offOf l.savfb, mtop := 0, pc := l.ret, pos := .header })

section
variable {s : State} {x : IC} {k : Nat}

theorem exitCheck_of_frames {fs : List (Nat × Frame)}
    (hframes : s.framesFrom (s.reqOf x.w.id k) x.w.id (frameFuel (x.w.lane k).fb.toNat) (x.w.lane k).fb.toNat = .ok fs)
    (hentries : s.entryPage x.p.ctx (heldEntries fs) = none) :
    s.exitCheck x k = .ok (fs.any (fun q => q.2.hv), fun y => y.exitFrames x.w.id k x.p.ctx fs) := by
  simp only [State.exitCheck, hframes, entriesIn_of_none hentries, Chk.bind, Chk.map]

variable {l : Frame} (hl : s.frameAt (s.reqOf x.w.id k) x.w.id (x.w.lane k).fb.toNat = .ok l)
include hl

theorem retCheck_of_root (hroot : segOf l.ret = 0) : s.retCheck x k = s.exitCheck x k := by
  simp only [State.retCheck, hl, Chk.bind, hroot, if_true]

theorem retCheck_of_frame (hret : segOf l.ret ≠ 0) (hfetch : s.checkFetch (s.reqOf x.w.id k) l.ret = .ok ())
    (hentries : s.entryPage x.p.ctx (if l.hv then [l.ent] else []) = none) :
    s.retCheck x k = .ok (l.hv, returnLane x l k) := by
  simp only [State.retCheck, hl, Chk.bind, Chk.map, if_neg hret, hfetch, entriesIn_of_none hentries, BitVec.ofNat_toNat,
    BitVec.setWidth_eq]
  rfl

end

theorem ret_performs (c : Common) (f : CF) (l : Nat → Frame) :
    Performs (.ret c f) false
      (fun s x => x.awaits = false ∧ (x.lanes.any (fun k => (l k).hv) = true → s.commitWaits x.p.id = false) ∧ ∀ k ∈ x.lanes,
        s.frameAt (s.reqOf x.w.id k) x.w.id (x.w.lane k).fb.toNat = .ok (l k) ∧ segOf (l k).ret ≠ 0 ∧
        s.checkFetch (s.reqOf x.w.id k) (l k).ret = .ok () ∧ s.entryPage x.p.ctx (if (l k).hv then [(l k).ent] else []) = none)
      (fun x u => if x.lanes.any (fun k => (l k).hv) then u.committed x.p.id (x.each (fun k => returnLane x (l k) k))
        else x.each (fun k => returnLane x (l k) k) u) :=
  laneWord_performs (fun _ => rfl) (fun _ _ hx => hx.1) (fun _ _ _ _ _ => rfl) (b := fun _ k => (l k).hv) (fun _ _ hx => hx.2.1)
    fun _ _ hx k hk => by
      obtain ⟨hframe, hret, hfetch, hentries⟩ := hx.2.2 k hk
      exact retCheck_of_frame hframe hret hfetch hentries

/-- `exit`, and `ret` of lanes whose top frames are roots. -/
theorem exit_performs {word : Instr} {c : Common} {f : CF} (hword : word = .exit c f ∨ word = .ret c f) (fs : Nat → List (Nat × Frame)) :
    Performs word false
      (fun s x => x.awaits = false ∧ (x.lanes.any (fun k => (fs k).any (fun q => q.2.hv)) = true → s.commitWaits x.p.id = false) ∧
        ∀ k ∈ x.lanes,
          s.framesFrom (s.reqOf x.w.id k) x.w.id (frameFuel (x.w.lane k).fb.toNat) (x.w.lane k).fb.toNat = .ok (fs k) ∧
          s.entryPage x.p.ctx (heldEntries (fs k)) = none ∧
          (word = .ret c f → ∃ l, s.frameAt (s.reqOf x.w.id k) x.w.id (x.w.lane k).fb.toNat = .ok l ∧ segOf l.ret = 0))
      (fun x u =>
        let go := x.each (fun k y => y.exitFrames x.w.id k x.p.ctx (fs k))
        if x.lanes.any (fun k => (fs k).any (fun q => q.2.hv)) then u.committed x.p.id go else go u) := by
  rcases hword with rfl | rfl
  · refine laneWord_performs (fun _ => rfl) (fun _ _ hx => hx.1) (fun _ _ _ _ _ => rfl) (b := fun _ k => (fs k).any (fun q => q.2.hv))
      (fun _ _ hx => hx.2.1) fun _ _ hx k hk => ?_
    obtain ⟨hframes, hentries, -⟩ := hx.2.2 k hk
    exact exitCheck_of_frames hframes hentries
  · refine laneWord_performs (fun _ => rfl) (fun _ _ hx => hx.1) (fun _ _ _ _ _ => rfl) (b := fun _ k => (fs k).any (fun q => q.2.hv))
      (fun _ _ hx => hx.2.1) fun _ _ hx k hk => ?_
    obtain ⟨hframes, hentries, hroot⟩ := hx.2.2 k hk
    obtain ⟨l, hl, hzero⟩ := hroot rfl
    exact (retCheck_of_root hl hzero).trans (exitCheck_of_frames hframes hentries)

/-! ### A lane that has exited (R172, R290) -/

theorem unpark_exited {l : Lane} (h : l.st = .exited) (f : Park → Bool) : (l.unpark f).st = .exited := by
  simp [Lane.unpark, h]

theorem setMask_exited {w : Weft} {i : Nat} (h : (w.lane i).st = .exited) (j : Nat) (e a : LaneMask) :
    ((w.setMask j e a).lane i).st = .exited := by
  rw [lane_setMask]
  split
  · exact unpark_exited h _
  · exact h

/-- Leaving the masks releases other lanes, and leaves a lane that has exited as it is. -/
theorem leaveMasks_exited {w : Weft} {i : Nat} (h : (w.lane i).st = .exited) : ((w.leaveMasks i).lane i).st = .exited := by
  unfold Weft.leaveMasks
  generalize List.range 16 = js
  induction js generalizing w with
  | nil => exact h
  | cons j js ih =>
    refine ih ?_
    dsimp only
    split
    · exact h
    · exact setMask_exited h _ _ _

theorem leaveMasks_unmasked (w : Weft) (i : Nat) : unmasked (w.leaveMasks i) = unmasked w := by
  unfold Weft.leaveMasks
  generalize List.range 16 = js
  induction js generalizing w with
  | nil => rfl
  | cons j js ih =>
    refine (ih _).trans ?_
    dsimp only
    split
    · rfl
    · exact setMask_unmasked _ _ _ _

theorem sweepFut_wefts (s : State) (r : FutRef) : (s.sweepFut r).wefts = s.wefts := by
  unfold State.sweepFut
  split
  · split <;> rfl
  · rfl

/-- A weft that has a lane is in the machine. -/
theorem hasWeft_of_lane {s : State} {w k : Nat} {l : Lane} (h : (s.weft w).lanes[k]? = some l) : s.hasWeft w = true := by
  by_contra hno
  rw [weft_missing (by simpa using hno)] at h
  simp [Weft.nil] at h

theorem exitLane_exited {s : State} {w k : Nat} (hk : k < (s.weft w).lanes.length) : (((s.exitLane w k).weft w).lane k).st = .exited := by
  obtain ⟨l, hl, -⟩ := leaveWalk_keepsLane (w := w) (i := k) s w k ((s.weft w).lane k).walkTrack _ (List.getElem?_eq_getElem hk)
  change ((s.quitLate w k).weft w).lanes[k]? = some l at hl
  have hweft : (s.exitLane w k).weft w = (((s.quitLate w k).weft w).modLane k (fun l =>
      { l with st := .exited, hh := none, trap := [], unb := none })).leaveMasks k := by
    rw [← weft_modWeft_self (s := s.quitLate w k) (f := fun y => (y.modLane k (fun l =>
      { l with st := .exited, hh := none, trap := [], unb := none })).leaveMasks k)
      (fun y => (congrArg Weft.id (leaveMasks_unmasked _ k) :)) (hasWeft_of_lane hl)]
    unfold State.exitLane
    dsimp only
    split
    · exact weft_congr (sweepFut_wefts _ _) w
    · rfl
  rw [hweft]
  refine leaveMasks_exited ?_
  rw [lane_modLane _ (fun _ => (List.getElem?_eq_some_iff.1 hl).1), if_pos rfl]

/-! ### O27 -/

/-- Settles O27: a lane that returns does so as `returnLane` says, one that exits as `exitFrames` does, and `exitLane_exited` ends it. -/
theorem returnWords : Obligations.ReturnWords := by
  unfold Obligations.ReturnWords
  exact ⟨fun c f l => ret_performs c f l, fun word c f hword fs => exit_performs hword fs, fun s w k _ hk => exitLane_exited hk⟩

end Sys2Proof.Proofs
end

section
/-! SUPPORT. `cut`, `graft` and `drop` (O28). -/
namespace Sys2Proof.Proofs
open Sys2Proof Sys2Proof.Machine

theorem cut_performs (c : Common) (f : CF) :
    Performs (.cut c f) false (fun _ x => x.awaits = false ∧ ∀ k ∈ x.lanes, x.pz true f.a k = false ∧ x.pz true f.b k = false)
      (fun x => x.each (fun k y =>
        ((y.addParts x.w.id x.track 1).enqueue x.w.id k x.track x.sys x.pc x.hdr
          (.cut (x.rd true f.a k) (x.rd true f.b k) f.b.code.toNat)).modWeft x.w.id (fun w => w.park [k] (.step x.track)))) :=
  laneWord_performs_uncommitted (fun _ => rfl) (fun _ _ hx => hx.1)
    (fun _ _ hx k hk => Bool.or_eq_false_iff.2 (hx.2 k hk)) fun _ _ _ _ _ => rfl

theorem graft_performs (c : Common) (f : CF) :
    Performs (.graft c f) false (fun _ x => x.awaits = false ∧ ∀ k ∈ x.lanes, x.pz true f.a k = false)
      (fun x => x.each (fun k y =>
        (y.enqueue x.w.id k 0 x.sys x.pc x.hdr (.graft (x.rd true f.a k))).modWeft x.w.id (fun w => w.park [k] (.step x.track)))) :=
  laneWord_performs_uncommitted (fun _ => rfl) (fun _ _ hx => hx.1) (fun _ _ hx => hx.2) fun _ _ _ _ _ => rfl

/-- What `drop` does to the skein of a header that it has read, whose image is `img` (R298). -/
def dropSkein (x : IC) (hdr : List Loc) (img : List Byte) (y : State) : State :=
  let now := SkHdr.ofNat (y.leAt hdr)
  if now.state < 2 then y
  else if now.gip = 0 then y.freeSkein x.p.ctx now img hdr
  else (y.write (wrs (hdr.take 8) (natLE 8 (({ now with state := 3 } : SkHdr).word)))).addParts x.w.id x.track 1

theorem dropCheck_of_header {s : State} {x : IC} {k : Nat} {a : DWord} {q : Nat × List Loc} {h : SkHdr} {img : List Byte}
    (hctx : (s.reqOf x.w.id k).ctx = x.p.ctx) (hq : s.skHeader (s.reqOf x.w.id k) x.w.id .skeinFree a = .ok q)
    (hh : skCheck q.1 x.p.ctx a = .ok h)
    (himg : if h.gip ≠ 0 then img = [] else
      ∃ z, s.check (s.reqOf x.w.id k) .skeinFree (mkAddr (segOf a) 0x40) 0 h.bytes 1 = .ok z ∧
        img = z.2.2.2.map (fun l => (s.laneByte x.w.id l).1))
    (hentries : s.entryPage x.p.ctx ((imageHolds img h).map (·.1)) = none) :
    s.dropCheck x k a = .ok (true, dropSkein x q.2 img) := by
  have himage : (if h.gip ≠ 0 then (.ok [] : Chk (List Byte))
      else (s.check (s.reqOf x.w.id k) .skeinFree (mkAddr (segOf a) 0x40) 0 h.bytes 1).map fun z => s.imageBytes x.w.id z.2.2.2) = .ok img := by
    split
    · next hgip => rw [if_pos hgip] at himg; rw [himg]
    · next hgip =>
      rw [if_neg hgip] at himg
      obtain ⟨z, hz, rfl⟩ := himg
      rw [hz]
      rfl
  simp only [State.dropCheck, hq, ok_bind, hctx, hh]
  rw [himage, ok_bind, entriesIn_of_none hentries, ok_map]
  rfl

theorem drop_performs (c : Common) (f : CF) (q : Nat → Nat × List Loc) (h : Nat → SkHdr) (img : Nat → List Byte) :
    Performs (.drop c f) false
      (fun s x => x.awaits = false ∧ s.commitWaits x.p.id = false ∧ ∀ k ∈ x.lanes, x.pz true f.a k = false ∧
        s.skHeader (s.reqOf x.w.id k) x.w.id .skeinFree (x.rd true f.a k) = .ok (q k) ∧
        skCheck (q k).1 x.p.ctx (x.rd true f.a k) = .ok (h k) ∧
        (if (h k).gip ≠ 0 then img k = [] else
          ∃ z, s.check (s.reqOf x.w.id k) .skeinFree (mkAddr (segOf (x.rd true f.a k)) 0x40) 0 (h k).bytes 1 = .ok z ∧
            img k = z.2.2.2.map (fun l => (s.laneByte x.w.id l).1)) ∧
        s.entryPage x.p.ctx ((imageHolds (img k) (h k)).map (·.1)) = none)
      (fun x u => u.committed x.p.id (x.each (fun k => dropSkein x (q k).2 (img k)))) := by
  refine performs_of_panel (laneWord_performs_committed (fun _ => rfl) (fun _ _ hx => hx.1.1)
    (fun _ _ hx k hk => (hx.1.2.2 k hk).1) (fun _ _ hx => hx.1.2.1) fun s x hx k hk => ?_)
  obtain ⟨⟨-, -, hlanes⟩, hpanel⟩ := hx
  obtain ⟨-, hheader, hcheck, himage, hentries⟩ := hlanes k hk
  exact dropCheck_of_header (by rw [hpanel]; rfl) hheader hcheck himage hentries

/-! ### O28 -/

/-- Settles O28: `cut` and `graft` enter the store queue, and `drop` does what `dropSkein` says. -/
theorem skeinWords : Obligations.SkeinWords := by
  unfold Obligations.SkeinWords
  exact fun c f => ⟨cut_performs c f, graft_performs c f, fun q h img => drop_performs c f q h img⟩

end Sys2Proof.Proofs
end

section
/-! SUPPORT. Memory words that check each of their lanes, or the lowest alone (R307 to R311, R320, R321); stores enter the store
queue (O30). -/
namespace Sys2Proof.Proofs
open Sys2Proof Sys2Proof.Machine

section
variable {i : Instr} {pre : State → IC → Prop} {pz : IC → Nat → Bool} {chk : IC → State → Nat → Chk (State → State)}
  {g : IC → Nat → State → State}

/-- A memory word all of whose lanes pass performs the effect of each. -/
theorem memWord_performs (he : ∀ s, exec i s = memWord i.view allLanes pz chk s) (hw : ∀ s x, pre s x → x.awaits = false)
    (hz : ∀ s x, pre s x → ∀ k ∈ x.lanes, pz x k = false) (hc : ∀ s x, pre s x → ∀ k ∈ x.lanes, chk x s k = .ok (g x k)) :
    Performs i false pre (fun x => x.each (g x)) :=
  performs_part he fun s x hx => memPlan_ok (hw s x hx) (hz s x hx) (hc s x hx)

/-- A memory word of which the lowest lane alone is checked performs its effect where that passes (R309). -/
theorem memWord_performs_agent (he : ∀ s, exec i s = memWord i.view agentOnly pz chk s) (hw : ∀ s x, pre s x → x.awaits = false)
    (hz : ∀ s x, pre s x → pz x x.agent = false) (hc : ∀ s x, pre s x → chk x s x.agent = .ok (g x x.agent)) :
    Performs i false pre (fun x => g x x.agent) :=
  performs_active he fun s x hl hx => memPlan_agent hl (hw s x hx) (hz s x hx) (hc s x hx)

end

/-! ### Stores (R308, R309) -/

theorem length_storeData (x : IC) (z : Size) (b : Opnd) (k : Nat) : (x.storeData z b k).length = z.bytes := by
  cases z <;> simp [IC.storeData, length_natLE, Size.bytes]

/-- The places of bytes to be written, as many as there are places. -/
theorem wrs_locs {ls : List Loc} {bs : List Byte} (pz : Bool) (h : ls.length = bs.length) : (wrs ls bs pz).map (·.loc) = ls := by
  rw [wrs, List.map_map]
  exact List.map_fst_zip h.le

theorem queueStore_eq {x : IC} {z : Size} {ls : List Loc} (h : ls.length = z.bytes) (b : Opnd) (k : Nat) (addr : DWord) (rel : Scope)
    (y : State) : y.queueStore x k addr (wrs ls (x.storeData z b k) (x.storePz z b k)) rel =
      ((y.touch x.w.core (y.panel x.w.panel).ctx ls).addParts x.w.id x.track 1).enqueue x.w.id k x.track x.sys x.pc x.hdr
        (.store (wrs ls (x.storeData z b k) (x.storePz z b k)) rel) addr := by
  rw [State.queueStore, wrs_locs _ (h.trans (length_storeData x z b k).symm)]

/-! ### O30 -/

/-- Settles O30: the checked bytes of each lane, or of the lowest, enter the store queue by `queueStore_eq`. -/
theorem storeWords : Obligations.StoreWords := by
  unfold Obligations.StoreWords
  intro c f q off data rel may put hlen
  have hcheck : ∀ (s : State) (x : IC) k, may s x k →
      ((s.check (s.reqOf x.w.id k) .store (x.addr f.a k) (memOffset f) f.size.bytes f.size.bytes).map fun q =>
        fun y : State => y.queueStore x k (x.addr f.a k) (wrs q.2.2.2 (x.storeData f.size f.b k) (x.storePz f.size f.b k)) (relScope f)) =
      .ok (put x k) := by
    rintro s x k ⟨-, hk⟩
    show (s.check _ .store (x.rd true f.a k) off _ _).map _ = _
    rw [hk, ok_map]
    exact congrArg Chk.ok (funext fun y => queueStore_eq (hlen k) f.b k _ _ y)
  exact ⟨memWord_performs (fun _ => rfl) (fun _ _ hx => hx.1) (fun _ _ hx k hk => (hx.2 k hk).1) fun s x hx k hk => hcheck s x k (hx.2 k hk),
    memWord_performs_agent (fun _ => rfl) (fun _ _ hx => hx.1) (fun _ _ hx => hx.2.1) fun s x hx => hcheck s x _ hx.2⟩

end Sys2Proof.Proofs
end

section
/-! SUPPORT. Atomics (R140, R310): their issue, what they leave, and their step at the home (O31). -/
namespace Sys2Proof.Proofs
open Sys2Proof Sys2Proof.Machine

/-! ### Loads that take their bytes change memory and their weft -/

theorem allocAll_pkgMemOnly (s : State) (ls : List Loc) : PkgMemOnly s (s.allocAll ls) := by
  unfold State.allocAll
  induction ls generalizing s with
  | nil => exact PkgMemOnly.refl s
  | cons l ls ih =>
    refine PkgMemOnly.trans ?_ (ih _)
    cases l with
    | hbm pa k c => exact allocLine_pkgMemOnly s pa k c
    | chip | zero | host | remote => exact PkgMemOnly.refl s

section
variable {α : Type} (g : State → α) (hb : ∀ (y : State) w ld, g (y.modBoth w (fun v => v.putLoad ld)) = g y)
  (hm : ∀ (y : State) m, g { y with mem := m } = g y)
include hb hm

/-- What neither memory nor the loads of wefts decide, a load that takes its bytes leaves alone. -/
theorem takeLoad_keeps (s : State) (w id : Nat) : g (s.takeLoad w id) = g s := by
  unfold State.takeLoad
  dsimp only
  split
  · rfl
  · rw [allocAll_pkgMemOnly, hm, hb]

theorem forceLate_keeps (s : State) (core w id : Nat) (ls : List Loc) : g (s.forceLate core w id ls) = g s := by
  unfold State.forceLate
  refine foldl_keeps g (fun y v => foldl_keeps g (fun z l => ?_) _ y) _ s
  split
  · exact takeLoad_keeps g hb hm z _ _
  · exact hb z _ _

end

@[simp] theorem putLoad_id (w : Weft) (ld : LoadRec) : (w.putLoad ld).id = w.id := by
  unfold Weft.putLoad; dsimp only; split <;> rfl
@[simp] theorem putLoad_core (w : Weft) (ld : LoadRec) : (w.putLoad ld).core = w.core := by
  unfold Weft.putLoad; dsimp only; split <;> rfl
@[simp] theorem putLoad_panel (w : Weft) (ld : LoadRec) : (w.putLoad ld).panel = w.panel := by
  unfold Weft.putLoad; dsimp only; split <;> rfl

/-- What a change of a weft leaves alone of it, no weft looked up after that change shows differently. -/
theorem weft_modWeft_keeps {α : Type} (g : Weft → α) {f : Weft → Weft} (hf : ∀ y, (f y).id = y.id) (hg : ∀ y, g (f y) = g y) (s : State)
    (w v : Nat) : g ((s.modWeft v f).weft w) = g (s.weft w) := by
  by_cases hv : w = v
  · subst hv
    cases hw : s.hasWeft w with
    | true => rw [weft_modWeft_self hf hw, hg]
    | false => rw [weft_missing hw, weft_missing ((hasWeft_modWeft hf).trans hw)]
  · rw [weft_modWeft_ne hf hv]

theorem weft_modBoth_keeps {α : Type} (g : Weft → α) {f : Weft → Weft} (hf : ∀ y, (f y).id = y.id) (hg : ∀ y, g (f y) = g y) (s : State)
    (w v : Nat) : g ((s.modBoth v f).weft w) = g (s.weft w) :=
  weft_modWeft_keeps g hf hg s w v

/-! ### Pads (R149) -/

/-- What decides whose pad a place lies in, and whether that panel is a REPLAY one. -/
def padView (p : Panel) : Nat × Nat × Nat × Launch := (p.id, p.core, p.padb, p.launch)

/-- The panels' pads lie alike in two states. -/
def SamePads (s t : State) : Prop := t.panels.map padView = s.panels.map padView

theorem SamePads.find? {s t : State} (h : SamePads s t) (f : Nat × Nat × Nat × Launch → Bool) :
    (t.panels.find? (f ∘ padView)).map padView = (s.panels.find? (f ∘ padView)).map padView := by
  rw [← List.find?_map, ← List.find?_map, h]

theorem SamePads.panel {s t : State} (h : SamePads s t) (pid : Nat) : (t.panel pid).launch = (s.panel pid).launch := by
  have hfind : (t.panels.find? (fun p => p.id == pid)).map padView = (s.panels.find? (fun p => p.id == pid)).map padView :=
    h.find? (fun q => q.1 == pid)
  have hpanel : padView (t.panel pid) = padView (s.panel pid) := by
    rw [State.panel, State.panel, ← Option.getD_map padView, ← Option.getD_map padView, hfind]
  exact congrArg (·.2.2.2) hpanel

theorem SamePads.padsOf {s t : State} (h : SamePads s t) (pid : Nat) (ls : List Loc) :
    (t.padsOf pid ls).map padView = (s.padsOf pid ls).map padView := by
  have howner : ∀ core off, (t.padOwner core off).map padView = (s.padOwner core off).map padView := fun core off =>
    h.find? (fun q => decide (q.2.1 = core) && decide (0x4000 * q.2.2.1 ≤ off) && decide (off < 0x4000 * (q.2.2.1 + q.2.2.2.padu)))
  have hfold : ∀ ps : List Panel, (ps.foldl (fun acc p => if p.id = pid ∨ acc.any (fun q => q.id == p.id) then acc else acc ++ [p]) []).map
      padView = (ps.map padView).foldl (fun acc p => if p.1 = pid ∨ acc.any (fun q => q.1 == p.1) then acc else acc ++ [p]) [] := by
    intro ps
    rw [List.foldl_map]
    refine (List.foldl_hom (List.map padView) fun acc p => ?_).symm
    have hany : (acc.map padView).any (fun q => q.1 == (padView p).1) = acc.any (fun q => q.id == p.id) := List.any_map
    rw [hany, apply_ite (List.map padView), List.map_append, List.map_singleton]
    rfl
  unfold State.padsOf
  rw [hfold, hfold, List.map_filterMap, List.map_filterMap]
  congr 2
  funext l
  cases l with
  | chip pa win =>
    dsimp only
    split
    · exact howner _ _
    · rfl
  | hbm | zero | host | remote => rfl

theorem SamePads.not_replay {s t : State} (h : SamePads s t) {pid : Nat} {ls : List Loc}
    (hs : ∀ p ∈ s.padsOf pid ls, p.launch.replay = false) : ∀ p ∈ t.padsOf pid ls, p.launch.replay = false := by
  intro p hp
  have hview : padView p ∈ (s.padsOf pid ls).map padView := h.padsOf pid ls ▸ List.mem_map_of_mem hp
  obtain ⟨q, hq, hqp⟩ := List.mem_map.1 hview
  exact (congrArg (·.2.2.2.replay) hqp).symm.trans (hs q hq)

theorem modBoth_samePads (s : State) (w : Nat) (f : Weft → Weft) : SamePads s (s.modBoth w f) := by
  refine List.map_map.trans (List.map_congr_left fun p _ => ?_)
  dsimp only [Function.comp]
  split <;> rfl

/-- A pad that is no REPLAY panel's holds nothing back. -/
theorem padHolds_of_not_replay {s : State} {pid : Nat} {ls : List Loc} (h : ∀ p ∈ s.padsOf pid ls, p.launch.replay = false) :
    s.padHolds pid ls = none := by
  refine Option.map_eq_none_iff.2 (List.find?_eq_none.2 fun p hp => ?_)
  simp [Panel.admits, h p hp]

/-! ### The atomic at the head of a queue (R140) -/

/-- The state in which an atomic finds its home: the loads of the core that come first have their bytes, a release is spread, and the entry
has left its queue. -/
def atHome (s : State) (w : Nat) (e : SqEntry) (ls : List Loc) (rel : Scope) : State :=
  ((s.forceLate (s.weft w).core w e.id ls).spread (s.weft w).core rel).dropSq w e.id

theorem atHome_keeps {α : Type} (g : State → α) (hb : ∀ (y : State) w ld, g (y.modBoth w (fun v => v.putLoad ld)) = g y)
    (hm : ∀ (y : State) m, g { y with mem := m } = g y) (hst : ∀ (y : State) st, g { y with stale := st } = g y)
    (hq : ∀ (y : State) w id, g (y.dropSq w id) = g y) (s : State) (w : Nat) (e : SqEntry) (ls : List Loc) (rel : Scope) :
    g (atHome s w e ls rel) = g s := by
  have hspread : ∀ y : State, g (y.spread (s.weft w).core rel) = g y := by
    intro y
    unfold State.spread State.spreadTo
    split
    · split
      · rfl
      · exact hst _ _
    · rfl
  rw [atHome, hq, hspread, forceLate_keeps g hb hm]

theorem atHome_samePads (s : State) (w : Nat) (e : SqEntry) (ls : List Loc) (rel : Scope) : SamePads s (atHome s w e ls rel) :=
  atHome_keeps (fun y => y.panels.map padView) (fun y w _ => modBoth_samePads y w _) (fun _ _ => rfl) (fun _ _ => rfl) (fun _ _ _ => rfl)
    s w e ls rel

theorem weft_atHome (s : State) (w : Nat) (e : SqEntry) (ls : List Loc) (rel : Scope) :
    ((atHome s w e ls rel).weft w).core = (s.weft w).core ∧ ((atHome s w e ls rel).weft w).panel = (s.weft w).panel := by
  refine Prod.mk.inj (atHome_keeps (fun y => ((y.weft w).core, (y.weft w).panel)) (fun y v ld => ?_) (fun _ _ => rfl) (fun _ _ => rfl)
    (fun y v id => ?_) s w e ls rel)
  · exact weft_modBoth_keeps (fun z => (z.core, z.panel)) (fun z => putLoad_id z ld) (fun z => by rw [putLoad_core, putLoad_panel]) y w v
  · exact weft_modWeft_keeps (fun z => (z.core, z.panel)) (f := fun z => { z with sq := z.sq.filter (fun e => e.id != id) }) (fun _ => rfl)
      (fun _ => rfl) y w v

/-- An atomic at the head of a queue that nothing holds back goes to its home, where no REPLAY panel is concerned. -/
theorem atomicAtHome_of_free {s : State} {w : Nat} {e : SqEntry} {rest : List SqEntry} {op : AtomOp} {ls : List Loc} {b d : DWord} {pz : Bool}
    {ld : Nat} {rel : Scope} (hq : (s.weft w).sq = e :: rest) (hop : e.op = .atomic op ls b d pz ld rel)
    (hr : (s.panel (s.weft w).panel).launch.replay = false) (hbytes : s.bytesWait (s.weft w) e ls = false)
    (hrel : rel ≠ .none → s.headWaits (s.weft w) e rel = false) (hwin : s.winBusy (s.weft w).core ls = false)
    (hls : ∀ l ∈ ls, l.isRemote = false ∧ l ≠ .zero) (hpads : ∀ p ∈ s.padsOf (s.weft w).panel ls, p.launch.replay = false) :
    exec (.atomicAtHome w) s = .next ((atHome s w e ls rel).atomHome w e.id op ls b d pz ld) := by
  have hzero : ls.contains .zero = false := by
    rw [List.contains_eq_mem, decide_eq_false_iff_not]
    exact fun h => (hls _ h).2 rfl
  have hremote : ls.any Loc.isRemote = false := List.any_eq_false.2 fun l hl => by simp [(hls l hl).1]
  have hhead : (rel != .none && s.headWaits (s.weft w) e rel) = false := by
    by_cases h : rel = .none
    · simp [h]
    · simp [hrel h]
  show execAtomicAtHome w s = _
  simp only [execAtomicAtHome, hq, List.head?_cons, hop, hzero, State.atCommit, hr, hbytes, hhead, hwin, padHolds_of_not_replay hpads,
    State.atomOut, hremote, Bool.false_eq_true, if_false, Bool.not_false, if_true, Option.isSome_none, Bool.or_self, atHome]

/-- The step at the home, where no REPLAY panel is concerned: the old bytes read, the new ones written, the old value returned. -/
theorem atomHome_of_not_replay {y : State} {w id : Nat} {op : AtomOp} {ls : List Loc} {b d : DWord} {pz : Bool} {ld : Nat}
    (hr : (y.panel (y.weft w).panel).launch.replay = false) (hpads : ∀ p ∈ y.padsOf (y.weft w).panel ls, p.launch.replay = false) :
    y.atomHome w id op ls b d pz ld = (y.writeBy (y.weft w).core (wrs ls (natLE ls.length
      (op.new (8 * ls.length) (y.leAt ls) b.toNat d.toNat)) (pz || (y.read ls).any (·.2)))).atomDone w ld (y.read ls) := by
  have hlocs : (wrs ls (atomBytes op ls.length (y.leAt ls) b d) (pz || (y.read ls).any (·.2))).map (·.loc) = ls :=
    wrs_locs _ (length_natLE _ _).symm
  unfold State.atomHome
  dsimp only
  rw [landBy_of_not_replay 0 id hr (hlocs.symm ▸ hpads), atomBytes]

/-! ### The words (R310) -/

theorem atomWord_performs {i : Instr} {f : MF} {op : AtomOp} (he : ∀ s, exec i s = atomWord i.view op f s)
    (q : Nat → Desc × Seg × Nat × List Loc) :
    Performs i false
      (fun s x => x.awaits = false ∧ ∀ k ∈ x.lanes, x.pz true f.a k = false ∧
        s.check (s.reqOf x.w.id k) .atomic (x.rd true f.a k) (memOffset f) f.size.bytes f.size.bytes = .ok (q k) ∧
        ((q k).1.kind = 2 → op.hostOk = true))
      (fun x => x.each (fun k y =>
        let w64 := f.size == .b64
        let dst := loadDsts f.size f.d k
        let ld : LoadRec := ⟨y.nextId, x.track, k, .queue, acquires f, x.rd true f.a k, x.pc, x.hdr, (q k).2.2.2.map (fun l => (l, none)), dst⟩
        let y1 := (y.touch x.w.core (y.panel x.w.panel).ctx (q k).2.2.2).modWeft x.w.id (fun w =>
          (({ w with loads := w.loads ++ [ld] } : Weft).addUnknown y.nextId (dst.map (·.1))).addParts x.track 1)
        ({ y1 with nextId := y.nextId + 1 } : State).enqueue x.w.id k x.track x.sys x.pc x.hdr
          (.atomic op (q k).2.2.2 (x.rd w64 f.b k) (if op = .cas then x.rd w64 f.d k else 0)
            (x.pz w64 f.b k || (decide (op = .cas) && x.pz w64 f.d k)) y.nextId (relScope f)) (x.rd true f.a k))) := by
  refine memWord_performs he (fun _ _ hx => hx.1) (fun _ _ hx k hk => (hx.2 k hk).1) fun s x hx k hk => ?_
  obtain ⟨-, hcheck, hhost⟩ := hx.2 k hk
  have hgoes : ¬ ((q k).1.kind = 2 ∧ (!op.hostOk) = true) := fun ⟨hkind, hbad⟩ => by simp [hhost hkind] at hbad
  simp only [IC.addr, hcheck, ok_bind, if_neg hgoes]

theorem acquires_eq (f : MF) : acquires f = decide (f.ord = .acq ∨ f.ord = .ar) := by
  rw [acquires, Bool.decide_or, Bool.beq_eq_decide_eq, Bool.beq_eq_decide_eq]

/-! ### O31 -/

/-- Settles O31: the issue by `atomWord_performs`, signed order by `toSigned_eq_toInt`, and the step at the home by `atomicAtHome_of_free` and
`atomHome_of_not_replay`: what comes before it leaves pads, core and panel as they were. -/
theorem atomicWords : Obligations.AtomicWords := by
  unfold Obligations.AtomicWords
  refine ⟨fun c f q o ho => ?_, fun w _ old b d _ _ _ => ?_, fun s w e rest op ls b d pz ld rel hw hq hop hr hbytes hrel hwin hls hpads => ?_⟩
  · have he : ∀ s, exec o.1 s = atomWord o.1.view o.2 f s := by
      simp only [List.mem_cons, List.not_mem_nil, or_false] at ho
      rcases ho with rfl | rfl | rfl | rfl | rfl | rfl | rfl | rfl <;> exact fun _ => rfl
    simp only [← acquires_eq]
    exact atomWord_performs he q
  · refine ⟨rfl, ?_, ?_, rfl, rfl, rfl, rfl, rfl⟩ <;> simp only [AtomOp.new, toSigned_eq_toInt]
  · intro y
    obtain ⟨hcore, hpanel⟩ := weft_atHome s w e ls rel
    have hpads' := atHome_samePads s w e ls rel
    rw [atomicAtHome_of_free hq hop hr hbytes hrel hwin hls hpads, atomHome_of_not_replay, hcore]
    · rfl
    · rw [hpanel, hpads'.panel, hr]
    · rw [hpanel]
      exact hpads'.not_replay hpads

end Sys2Proof.Proofs
end

section
/-! SUPPORT. `fence`, `pref` and `discard` (R311, R320, R321; O33). What is allocated changes no byte of memory in its canonical form
(`State.Inv`), which the statement does not ask for. -/
namespace Sys2Proof.Proofs
open Sys2Proof Sys2Proof.Machine

/-! ### The words -/

theorem fence_performs (c : Common) (f : MF) :
    Performs (.fence c f) false (fun _ x => x.awaits = false) (fun x => x.each (fun k y =>
      if f.scope = .ln then y
      else (y.addParts x.w.id x.track 1).enqueue x.w.id k x.track x.sys x.pc x.hdr (.fence f.scope))) :=
  memWord_performs (fun _ => rfl) (fun _ _ hx => hx) (fun _ _ _ _ _ => rfl) fun _ _ _ _ _ => rfl

theorem pref_performs (c : Common) (f : MF) :
    Performs (.pref c f) false (fun _ x => x.awaits = false ∧ ∀ k ∈ x.lanes, x.pz true f.a k = false ∧ x.pz false f.b k = false)
      (fun x => x.each (fun k y => y.prefLane x k (x.rd true f.a k) f.disp.toInt (x.rd false f.b k).toNat)) :=
  memWord_performs (fun _ => rfl) (fun _ _ hx => hx.1) (fun _ _ hx k hk => Bool.or_eq_false_iff.2 (hx.2 k hk)) fun _ _ _ _ _ => rfl

theorem discard_performs (c : Common) (f : MF) (ps : Nat → List (Seg × Nat × Nat × Nat × Nat)) :
    Performs (.discard c f) false
      (fun s x => x.awaits = false ∧ ∀ k ∈ x.lanes, x.pz true f.a k = false ∧ x.pz true f.b k = false ∧
        s.discardCheck x k (x.rd true f.a k) f.disp.toInt ((x.rd true f.b k).toNat % 2 ^ 40) = .ok (ps k))
      (fun x => x.each (fun k y =>
        (y.addParts x.w.id x.track 1).enqueue x.w.id k x.track x.sys x.pc x.hdr (.discard (ps k)) (x.rd true f.a k))) := by
  refine memWord_performs (fun _ => rfl) (fun _ _ hx => hx.1) (fun _ _ hx k hk => ?_) fun s x hx k hk => ?_
  · obtain ⟨ha, hb, -⟩ := hx.2 k hk
    exact Bool.or_eq_false_iff.2 ⟨ha, hb⟩
  · obtain ⟨-, -, hcheck⟩ := hx.2 k hk
    simp only [IC.addr, hcheck, ok_map]

/-! ### What a `pref` reads (R29, R126, R320) -/

/-- R29: an empty range, or one whose check does not pass, is dropped. -/
theorem prefLane_dropped {y : State} {x : IC} {k : Nat} {a : DWord} {disp : Int} {len : Nat}
    (h : len = 0 ∨ ∀ q, y.check (y.reqOf x.w.id k) .load a disp (min len 0x100000) 1 ≠ .ok q) : y.prefLane x k a disp len = y := by
  unfold State.prefLane
  split
  · rfl
  · next hlen =>
    split
    · next hok => exact absurd hok (h.resolve_left hlen _)
    · rfl
    · rfl

theorem prefLane_passed {y : State} {x : IC} {k : Nat} {a : DWord} {disp : Int} {len : Nat} {q : Desc × Seg × Nat × List Loc} (hlen : len ≠ 0)
    (h : y.check (y.reqOf x.w.id k) .load a disp (min len 0x100000) 1 = .ok q) : y.prefLane x k a disp len = y.allocAll q.2.2.2 := by
  simp only [State.prefLane, if_neg hlen, h]

theorem allocAll_kept {s : State} (hs : s.Inv) {ls : List Loc} {l : Loc} (hl : l.plain = true) (h : s.settledAt l)
    (ha : ∀ e ∈ ls, Alike l e) : Kept l s (s.allocAll ls) := by
  unfold State.allocAll
  induction ls generalizing s with
  | nil => exact ⟨hs, h, rfl⟩
  | cons e ls ih =>
    obtain ⟨he, hrest⟩ := List.forall_mem_cons.1 ha
    cases e with
    | hbm pa k c =>
      have hfirst := allocLine_kept hs hl h he
      exact hfirst.trans (ih hfirst.inv hfirst.settled hrest)
    | chip | zero | host | remote => exact ih hs h hrest

theorem PkgMemOnly.withMem {s t : State} (h : PkgMemOnly s t) : t = { s with mem := t.mem } :=
  Eq.trans h (congrArg (fun m => ({ s with mem := m } : State)) (congrArg State.mem h).symm)

theorem PkgMemOnly.poison {s t : State} (h : PkgMemOnly s t) : t.mem.poison = s.mem.poison := congrArg (fun x => x.mem.poison) h

/-- R126: of memory in its canonical form, what is allocated changes no byte, and beside lines, tags and array bytes nothing at all. -/
theorem allocAll_changes_no_byte {y : State} (hy : y.Inv) (ls : List Loc) : ∃ m, y.allocAll ls = { y with mem := m } ∧
    m.poison = y.mem.poison ∧
    ∀ l, l.plain = true → y.settledAt l → (∀ e ∈ ls, Alike l e) → ({ y with mem := m } : State).byteAt l = y.byteAt l := by
  have honly := allocAll_pkgMemOnly y ls
  refine ⟨_, honly.withMem, honly.poison, fun l hl h ha => ?_⟩
  rw [← honly.withMem]
  exact (allocAll_kept hy hl h ha).byte

/-! ### Memory out of its canonical form -/

/-- Memory out of its canonical form: the byte at 64 stands before that at 3 and hides it, as keys are looked up rising. A set of the die
stores is full of a dirty line of data unit 1 with zeros, so that a line allocated in it is preceded by a write of 0 at 64, which takes the
first entry away. -/
def unruly : State := { State.reset with
  mem := { MemSt.reset with bytes := [(64, 5), (3, 7)], lines := List.replicate Config.storeWays ⟨1, 0, true, []⟩ }
  wefts := [Weft.nil] }

/-- A place in the data unit 1, under another key than the lines there. -/
def unit1 : Loc := .hbm 64 1 0
/-- The place of the hidden byte, in data unit 0. -/
def hidden : Loc := .hbm 3 0 0

theorem hidden_settled : unruly.settledAt hidden := settledAt_hbm_iff.2 (.inl (by decide))

theorem hidden_alike : Alike hidden unit1 := .inr (by decide)

theorem hidden_before : unruly.byteAt hidden = 0 := by decide

theorem hidden_after_allocAll : (unruly.allocAll [unit1]).byteAt hidden = 7 := by decide +kernel

/-! ### O33 -/

/-- Refutes O33: its last clause asks nothing of memory's form. In `unruly` the line that `allocAll` evicts is written back at 64, and the
byte at 3, of another data unit, reads 7 where it read 0. Of memory in its form the clause holds (`allocAll_changes_no_byte`), and the other
clauses hold as they stand (`fence_performs`, `pref_performs`, `discard_performs`, `prefLane_dropped`, `prefLane_passed`). -/
theorem not_fenceAndRangeWords : ¬ Obligations.FenceAndRangeWords := by
  unfold Obligations.FenceAndRangeWords
  rintro ⟨-, -, -, hbytes⟩
  obtain ⟨m, hm, -, hsame⟩ := hbytes unruly [unit1]
  have hread := hsame hidden rfl hidden_settled (by simpa using hidden_alike)
  rw [← hm, hidden_after_allocAll, hidden_before] at hread
  exact absurd hread (by decide)

end Sys2Proof.Proofs
end

section
/-! SUPPORT. The words that load, the issue of a load and its return (R305 to R309; O29). A load that is issued changes no byte of memory in
its canonical form (`State.Inv`), which the statement does not ask for. -/
namespace Sys2Proof.Proofs
open Sys2Proof Sys2Proof.Machine

/-! ### The words (R307 to R309) -/

theorem ld_performs (c : Common) (f : MF) (q : Nat → Desc × Seg × Nat × List Loc) :
    Performs (.ld c f) false
      (fun s x => x.awaits = false ∧ ∀ k ∈ x.lanes, x.pz true f.a k = false ∧
        s.check (s.reqOf x.w.id k) .load (x.rd true f.a k) (memOffset f) f.size.bytes f.size.bytes = .ok (q k))
      (fun x => x.each (fun k y => y.issueLoad x k (x.rd true f.a k) (q k).2.2.2 (loadDsts f.size f.d k) (acquires f))) := by
  refine memWord_performs (fun _ => rfl) (fun _ _ hx => hx.1) (fun _ _ hx k hk => (hx.2 k hk).1) fun s x hx k hk => ?_
  obtain ⟨-, hcheck⟩ := hx.2 k hk
  simp only [IC.addr, hcheck, ok_map]

/-- R309: one load of the lowest lane, whose destinations are an sN once or a vN of every lane. -/
theorem lds_performs (c : Common) (f : MF) (q : Nat → Desc × Seg × Nat × List Loc) :
    Performs (.lds c f) false
      (fun s x => x.awaits = false ∧ x.pz true f.a x.agent = false ∧
        s.check (s.reqOf x.w.id x.agent) .load (x.rd true f.a x.agent) (memOffset f) f.size.bytes f.size.bytes = .ok (q x.agent))
      (fun x y => y.issueLoad x x.agent (x.rd true f.a x.agent) (q x.agent).2.2.2
        (match f.d with
          | .v _ => x.lanes.flatMap (loadDsts f.size f.d)
          | .s _ => loadDsts f.size f.d x.agent
          | .zero | .lane => []) (acquires f)) := by
  refine performs_active (fun _ => rfl) fun s x hl ⟨hwait, hclean, hcheck⟩ => memPlan_agent hl hwait hclean ?_
  simp only [IC.addr, hcheck, ok_map] <;> rfl

/-! ### A weft whose loads go on -/

/-- What a load keeps while it waits and takes its bytes. -/
def loadView (l : LoadRec) : Nat × Nat × Nat × Bool × List (Nat × Nat × Nat) × List Loc := (l.id, l.track, l.lane, l.acq, l.dst, l.locs)

/-- What a pending result keeps when its values become known. -/
def pendView (p : Pend) : Option Nat × List Nat := (p.op, p.vals.map (·.1))

/-- From `v` to `u` loads of the numbers `ids` of a weft have gone on. -/
structure WeftAdvance (ids : List Nat) (v u : Weft) : Prop where
  regs   : u.regs = v.regs
  poison : u.poison = v.poison
  sq     : u.sq = v.sq
  pend   : u.pend.map pendView = v.pend.map pendView
  loads  : u.loads.map loadView = v.loads.map loadView
  kept   : ∀ l ∈ v.loads, l.id ∉ ids → l ∈ u.loads

theorem WeftAdvance.refl (ids : List Nat) (v : Weft) : WeftAdvance ids v v := ⟨rfl, rfl, rfl, rfl, rfl, fun _ hl _ => hl⟩

theorem WeftAdvance.trans {ids js : List Nat} {v u z : Weft} (a : WeftAdvance ids v u) (b : WeftAdvance js u z) :
    WeftAdvance (ids ++ js) v z := by
  refine ⟨b.regs.trans a.regs, b.poison.trans a.poison, b.sq.trans a.sq, b.pend.trans a.pend, b.loads.trans a.loads, fun l hl h => ?_⟩
  obtain ⟨hids, hjs⟩ := not_or.1 (mt List.mem_append.2 h)
  exact b.kept l (a.kept l hl hids) hjs

/-- Loads of one number replaced by what has their view. -/
theorem map_loads_advance {v : Weft} {id : Nat} {f : LoadRec → LoadRec} (h : ∀ l ∈ v.loads, l.id = id → loadView (f l) = loadView l) :
    WeftAdvance [id] v { v with loads := v.loads.map (fun l => if l.id = id then f l else l) } := by
  refine ⟨rfl, rfl, rfl, rfl, ?_, fun l hl hid => ?_⟩
  · refine List.map_map.trans (List.map_congr_left fun l hl => ?_)
    dsimp only [Function.comp]
    split
    · next hid => exact h l hl hid
    · rfl
  · exact List.mem_map.2 ⟨l, hl, if_neg (by simpa using hid)⟩

theorem fillPend_view (v : Weft) (op : Nat) (f : Nat → DWord × Bool) : (v.fillPend op f).pend.map pendView = v.pend.map pendView := by
  refine List.map_map.trans (List.map_congr_left fun p _ => ?_)
  dsimp only [Function.comp]
  split
  · simp [pendView, Function.comp_def]
  · rfl

theorem putLoad_advance {v : Weft} {ld t : LoadRec} (hn : (v.loads.map (·.id)).Nodup) (hld : ld ∈ v.loads) (ht : loadView t = loadView ld) :
    WeftAdvance [t.id] v (v.putLoad t) := by
  have hid : t.id = ld.id := congrArg Prod.fst ht
  have hmap := map_loads_advance (v := v) (id := t.id) (f := fun _ => t) fun l hl hl' =>
    ht.trans (congrArg loadView (List.inj_on_of_nodup_map hn hld hl (hid.symm.trans hl'.symm)))
  unfold Weft.putLoad
  dsimp only
  split
  · exact ⟨rfl, rfl, rfl, fillPend_view _ _ _, hmap.loads, hmap.kept⟩
  · exact hmap

/-! ### A state one of whose wefts' loads go on -/

/-- From `s` to `t` loads of weft `w` of the numbers `ids` have gone on; no other weft has changed. -/
structure LoadsAdvance (w : Nat) (ids : List Nat) (s t : State) : Prop where
  here   : t.hasWeft w = true
  others : ∀ v, v ≠ w → t.weft v = s.weft v
  weft   : WeftAdvance ids (s.weft w) (t.weft w)

theorem LoadsAdvance.trans {w : Nat} {ids js : List Nat} {r s t : State} (a : LoadsAdvance w ids r s) (b : LoadsAdvance w js s t) :
    LoadsAdvance w (ids ++ js) r t :=
  ⟨b.here, fun v hv => (b.others v hv).trans (a.others v hv), a.weft.trans b.weft⟩

theorem LoadsAdvance.of_wefts {w : Nat} {s t : State} (hw : s.hasWeft w = true) (h : t.wefts = s.wefts) : LoadsAdvance w [] s t := by
  have hweft := weft_congr h
  refine ⟨?_, fun v _ => hweft v, hweft w ▸ WeftAdvance.refl [] _⟩
  rwa [State.hasWeft, h]

/-- A change of one weft. -/
theorem LoadsAdvance.of_modWeft {w : Nat} {ids : List Nat} {s t : State} {f : Weft → Weft} (hw : s.hasWeft w = true)
    (ht : t.wefts = (s.modWeft w f).wefts) (hid : ∀ v, (f v).id = v.id) (h : WeftAdvance ids (s.weft w) (f (s.weft w))) :
    LoadsAdvance w ids s t := by
  refine ⟨?_, fun v hv => (weft_congr ht v).trans (weft_modWeft_ne hid hv), ?_⟩
  · rw [State.hasWeft, ht]
    exact (hasWeft_modWeft hid).trans hw
  · rw [weft_congr ht w, weft_modWeft_self hid hw]
    exact h

theorem ids_of_view {us vs : List LoadRec} (h : us.map loadView = vs.map loadView) : us.map (·.id) = vs.map (·.id) := by
  simpa [loadView, Function.comp_def] using congrArg (List.map Prod.fst) h

theorem takeLoad_cases (s : State) (w id : Nat) : (s.weft w).loads.find? (fun l => l.id == id) = none ∧ s.takeLoad w id = s ∨
    ∃ ld ∈ (s.weft w).loads, ld.id = id ∧
      s.takeLoad w id = (s.modBoth w (fun v => v.putLoad (s.taken (s.weft w) ld))).allocAll ld.locs := by
  unfold State.takeLoad
  dsimp only
  split
  · next h => exact .inl ⟨h, rfl⟩
  · next ld h => exact .inr ⟨ld, List.mem_of_find?_eq_some h, by simpa using List.find?_some h, rfl⟩

theorem taken_view (s : State) (v : Weft) (ld : LoadRec) : loadView (s.taken v ld) = loadView ld := by
  simp [loadView, State.taken, LoadRec.locs, Function.comp_def]

theorem PkgMemOnly.wefts {s t : State} (h : PkgMemOnly s t) : t.wefts = s.wefts := congrArg (fun x => x.wefts) h

theorem takeLoad_advance {s : State} {w : Nat} (id : Nat) (hw : s.hasWeft w = true) (hn : ((s.weft w).loads.map (·.id)).Nodup) :
    LoadsAdvance w [id] s (s.takeLoad w id) := by
  obtain ⟨-, h⟩ | ⟨ld, hmem, rfl, h⟩ := takeLoad_cases s w id
  · rw [h]
    exact ⟨hw, fun _ _ => rfl, WeftAdvance.refl _ _⟩
  · have hadvance := putLoad_advance hn hmem (taken_view s (s.weft w) ld)
    exact LoadsAdvance.of_modWeft (f := fun v => v.putLoad (s.taken (s.weft w) ld)) hw
      (h ▸ (allocAll_pkgMemOnly _ ld.locs).wefts) (fun v => putLoad_id v _) hadvance

/-- Loads of a weft take their bytes one after the other. -/
def takeLoads (s : State) (w : Nat) (L : List LoadRec) : State := L.foldl (fun y l => y.takeLoad w l.id) s

theorem takeLoads_advance {s : State} {w : Nat} (L : List LoadRec) (hw : s.hasWeft w = true) (hn : ((s.weft w).loads.map (·.id)).Nodup) :
    LoadsAdvance w (L.map (·.id)) s (takeLoads s w L) := by
  induction L generalizing s with
  | nil => exact ⟨hw, fun _ _ => rfl, WeftAdvance.refl _ _⟩
  | cons l L ih =>
    have hfirst := takeLoad_advance l.id hw hn
    exact hfirst.trans (ih hfirst.here (ids_of_view hfirst.weft.loads ▸ hn))

/-! ### The bytes that are read as before (R126) -/

/-- Memory and owner keys decide what a place reads. -/
theorem kept_of_mem {s t : State} {l : Loc} (hs : s.Inv) (hm : t.mem = s.mem) (hk : t.keys = s.keys) (hl : l.plain = true)
    (h : s.settledAt l) : Kept l s t := by
  refine ⟨(inv_congr hm).2 hs, ?_, byteAt_congr (pz := s.mem.poison) hm hk hl⟩
  cases l with
  | hbm p k c =>
    have hdram : ∀ q, t.dramByte q k = s.dramByte q k := fun q => by
      unfold State.dramByte State.key
      rw [hm, hk]
    simpa only [State.settledAt, hm, hdram] using h
  | chip p w => simpa only [State.settledAt, hm] using h
  | zero | host | remote => trivial

/-- A load that takes its bytes changes none that a place reads which its places are not taken for under another key. -/
theorem takeLoad_kept {s : State} {w id : Nat} {l : Loc} (hs : s.Inv) (hl : l.plain = true) (h : s.settledAt l)
    (ha : ∀ ld ∈ (s.weft w).loads, ld.id = id → ∀ m ∈ ld.locs, Alike l m) : Kept l s (s.takeLoad w id) := by
  obtain ⟨-, he⟩ | ⟨ld, hmem, hid, he⟩ := takeLoad_cases s w id
  · exact he.symm ▸ ⟨hs, h, rfl⟩
  · have hsame : Kept l s (s.modBoth w (fun v => v.putLoad (s.taken (s.weft w) ld))) := kept_of_mem hs rfl rfl hl h
    exact he ▸ hsame.trans (allocAll_kept hsame.inv hl hsame.settled (ha ld hmem hid))

/-- Of loads with distinct numbers, what has the view of one has its places. -/
theorem locs_of_view {us vs : List LoadRec} (hv : us.map loadView = vs.map loadView) (hn : (vs.map (·.id)).Nodup) {e ld : LoadRec}
    (he : e ∈ vs) (hld : ld ∈ us) (hid : ld.id = e.id) : ld.locs = e.locs := by
  obtain ⟨d, hd, hview⟩ := List.mem_map.1 (hv ▸ List.mem_map_of_mem hld)
  have hde : d = e := List.inj_on_of_nodup_map hn hd he ((congrArg Prod.fst hview).trans hid)
  exact hde ▸ (congrArg (·.2.2.2.2.2) hview).symm

theorem takeLoads_kept {s : State} {w : Nat} {L vs : List LoadRec} {l : Loc} (hs : s.Inv) (hl : l.plain = true) (h : s.settledAt l)
    (hw : s.hasWeft w = true) (hv : (s.weft w).loads.map loadView = vs.map loadView) (hn : (vs.map (·.id)).Nodup) (hL : ∀ e ∈ L, e ∈ vs)
    (ha : ∀ e ∈ L, ∀ m ∈ e.locs, Alike l m) : Kept l s (takeLoads s w L) := by
  induction L generalizing s with
  | nil => exact ⟨hs, h, rfl⟩
  | cons e L ih =>
    obtain ⟨he, hrest⟩ := List.forall_mem_cons.1 hL
    obtain ⟨hae, harest⟩ := List.forall_mem_cons.1 ha
    have hfirst := takeLoad_kept (w := w) (id := e.id) hs hl h fun ld hld hid => locs_of_view hv hn he hld hid ▸ hae
    have hadvance := takeLoad_advance e.id hw (ids_of_view hv ▸ hn)
    exact hfirst.trans (ih hfirst.inv hfirst.settled hadvance.here (hadvance.weft.loads.trans hv) hrest harest)

end Sys2Proof.Proofs
end

section
/-! SUPPORT. The issue of a load, its return (R305 to R309), and why O29 fails. -/
namespace Sys2Proof.Proofs
open Sys2Proof Sys2Proof.Machine

/-! ### The issue of a load -/

theorem touch_eq (s : State) (core : Nat) (c : CtxId) (ls : List Loc) : ∃ cs, s.touch core c ls = { s with cores := cs } := by
  unfold State.touch State.claim
  generalize ls.filterMap (tileOfLoc core) = ts
  induction ts generalizing s with
  | nil => exact ⟨_, rfl⟩
  | cons t ts ih =>
    rw [List.foldl_cons]
    obtain ⟨cs, h⟩ := ih (if (s.tag core t).owner = 0 then s.modTag core t (fun g => { g with owner := c }) else s)
    rw [h]
    split <;> exact ⟨_, rfl⟩

/-- The loads of a weft that are satisfied late and must come before a load of some places (R130). -/
def lateMeeting (y : State) (w : Nat) (ls : List Loc) : List LoadRec :=
  (y.weft w).loads.filter (fun l => l.wait == .late && locsMeet l.locs ls)

/-- The state in which a load is recorded: the tiles that it touches are the context's, and the late loads before it have their bytes. -/
def beforeLoad (y : State) (x : IC) (ls : List Loc) : State :=
  takeLoads (y.touch x.w.core (y.panel x.w.panel).ctx ls) x.w.id (lateMeeting y x.w.id ls)

theorem beforeLoad_nextId (y : State) (x : IC) (ls : List Loc) : (beforeLoad y x ls).nextId = y.nextId := by
  obtain ⟨cs, h⟩ := touch_eq y x.w.core (y.panel x.w.panel).ctx ls
  rw [beforeLoad, h, takeLoads]
  exact foldl_keeps State.nextId (fun z l => takeLoad_keeps State.nextId (fun _ _ _ => rfl) (fun _ _ => rfl) z _ _) _ _

/-- A load of lane `k` as it is recorded. -/
def newLoad (y : State) (x : IC) (k : Nat) (a : DWord) (ls : List Loc) (dst : List (Nat × Nat × Nat)) (acq : Bool) : LoadRec :=
  ⟨y.nextId, x.track, k, .board, acq, a, x.pc, x.hdr, ls.map (fun l => (l, none)), dst⟩

/-- A weft with one more load, its registers pending. -/
def withLoad (ld : LoadRec) (v : Weft) : Weft :=
  (({ v with loads := v.loads ++ [ld] } : Weft).addUnknown ld.id (ld.dst.map (·.1))).addParts ld.track 1

/-- The state with a load recorded in the weft of the word. -/
def recordLoad (s : State) (x : IC) (ld : LoadRec) : State := { s.modWeft x.w.id (withLoad ld) with nextId := ld.id + 1 }

/-- A load that waits for something else. -/
def waitFor (id : Nat) (r : LoadWait) (v : Weft) : Weft :=
  { v with loads := v.loads.map (fun l => if l.id = id then { l with wait := r } else l) }

/-- A load that is recorded stays as it is, is satisfied late, or starts. -/
theorem issueLoad_cases (y : State) (x : IC) (k : Nat) (a : DWord) (ls : List Loc) (dst : List (Nat × Nat × Nat)) (acq : Bool) :
    let ld := newLoad y x k a ls dst acq
    let r := recordLoad (beforeLoad y x ls) x ld
    y.issueLoad x k a ls dst acq = r ∨ y.issueLoad x k a ls dst acq = r.modWeft x.w.id (waitFor ld.id .late) ∨
      y.issueLoad x k a ls dst acq = r.startLoad x.w.id ld := by
  unfold newLoad
  rw [← beforeLoad_nextId y x ls]
  unfold State.issueLoad
  dsimp only
  split
  · exact .inl rfl
  · split
    · exact .inr (.inl rfl)
    · exact .inr (.inr rfl)

theorem startLoad_cases (s : State) (w : Nat) (ld : LoadRec) : s.startLoad w ld = s.takeLoad w ld.id ∨
    ∃ r wins rems n, s.startLoad w ld = { s.modWeft w (waitFor ld.id r) with wins := wins, rems := rems, nextId := n } := by
  unfold State.startLoad State.sendLoad
  dsimp only
  split
  · refine .inr ?_
    split <;> exact ⟨_, _, _, _, rfl⟩
  · exact .inl rfl

theorem waitFor_advance (id : Nat) (r : LoadWait) (v : Weft) : WeftAdvance [id] v (waitFor id r v) :=
  map_loads_advance (f := fun l => { l with wait := r }) fun _ _ _ => rfl

theorem hasKey_iff {vs : List (Nat × DWord)} {k : Nat} : hasKey vs k = true ↔ k ∈ vs.map (·.1) := by simp [hasKey]

/-- The weft in which a load has been recorded. -/
theorem withLoad_fields (ld : LoadRec) (v : Weft) : (withLoad ld v).regs = v.regs ∧ (withLoad ld v).poison = v.poison ∧
    (withLoad ld v).sq = v.sq ∧ (withLoad ld v).loads = v.loads ++ [ld] := by
  simp [withLoad]

theorem withLoad_pending {ld : LoadRec} {v : Weft} {r : Nat} (h : r ∈ ld.dst.map (·.1)) :
    (some ld.id, ld.dst.map (·.1)) ∈ (withLoad ld v).pend.map pendView := by
  have hne : (ld.dst.map (·.1)).isEmpty = false := by
    rw [List.isEmpty_eq_false_iff]
    exact List.ne_nil_of_mem h
  rw [withLoad, weft_addParts_pend, Weft.addUnknown, hne]
  exact List.mem_cons.2 (.inl (by simp [pendView, Function.comp_def]))

/-- R305, R308: from `y` to `t` a load of lane `k` has been issued: it is recorded last, its registers are pending, and of its weft no
register, no poison and no store has changed, nor any load that it does not meet; no other weft has changed. -/
structure LoadIssued (y t : State) (x : IC) (k : Nat) (ls : List Loc) (dst : List (Nat × Nat × Nat)) (acq : Bool) : Prop where
  others  : ∀ w, w ≠ x.w.id → t.weft w = y.weft w
  regs    : (t.weft x.w.id).regs = (y.weft x.w.id).regs
  poison  : (t.weft x.w.id).poison = (y.weft x.w.id).poison
  sq      : (t.weft x.w.id).sq = (y.weft x.w.id).sq
  pending : ∀ r ∈ dst.map (·.1), ∃ p ∈ (t.weft x.w.id).pend, p.op = some y.nextId ∧ hasKey p.vals r = true
  loads   : (t.weft x.w.id).loads.map loadView = (y.weft x.w.id).loads.map loadView ++ [(y.nextId, x.track, k, acq, dst, ls)]
  kept    : ∀ l ∈ (y.weft x.w.id).loads, (l.wait = .late → locsMeet l.locs ls = false) → l ∈ (t.weft x.w.id).loads

section
variable {y : State} {x : IC} {ls : List Loc} (hw : y.hasWeft x.w.id = true) (hn : ((y.weft x.w.id).loads.map (·.id)).Nodup)
include hw hn

theorem beforeLoad_advance : LoadsAdvance x.w.id ((lateMeeting y x.w.id ls).map (·.id)) y (beforeLoad y x ls) := by
  obtain ⟨cs, h⟩ := touch_eq y x.w.core (y.panel x.w.panel).ctx ls
  rw [beforeLoad, h]
  exact (LoadsAdvance.of_wefts (t := { y with cores := cs }) hw rfl).trans (takeLoads_advance _ hw hn)

theorem beforeLoad_kept {l : Loc} (hy : y.Inv) (hl : l.plain = true) (h : y.settledAt l)
    (ha : ∀ e ∈ (y.weft x.w.id).loads, e.wait = .late → ∀ m ∈ e.locs, Alike l m) : Kept l y (beforeLoad y x ls) := by
  obtain ⟨cs, he⟩ := touch_eq y x.w.core (y.panel x.w.panel).ctx ls
  have hsame : Kept l y { y with cores := cs } := kept_of_mem hy rfl rfl hl h
  rw [beforeLoad, he]
  refine hsame.trans (takeLoads_kept hsame.inv hl hsame.settled hw rfl hn (fun e hmem => (List.mem_filter.1 hmem).1) fun e hmem => ?_)
  obtain ⟨hload, hlate⟩ := List.mem_filter.1 hmem
  exact ha e hload (beq_iff_eq.1 (Bool.and_eq_true_iff.1 hlate).1)

variable (hfresh : ∀ l ∈ (y.weft x.w.id).loads, l.id < y.nextId)
include hfresh

/-- The state in which a load is recorded: its weft has one load more, of a number of its own. -/
theorem recordLoad_weft {ld : LoadRec} (hid : ld.id = y.nextId) :
    let r := recordLoad (beforeLoad y x ls) x ld
    r.hasWeft x.w.id = true ∧ (∀ w, w ≠ x.w.id → r.weft w = y.weft w) ∧ r.weft x.w.id = withLoad ld ((beforeLoad y x ls).weft x.w.id) ∧
      ((r.weft x.w.id).loads.map (·.id)).Nodup := by
  intro r
  have hbefore := beforeLoad_advance (ls := ls) hw hn
  have hids : ∀ v : Weft, (withLoad ld v).id = v.id := fun v => by simp [withLoad]
  have hself : r.weft x.w.id = withLoad ld ((beforeLoad y x ls).weft x.w.id) := weft_modWeft_self hids hbefore.here
  refine ⟨(hasWeft_modWeft hids).trans hbefore.here, fun w h => (weft_modWeft_ne hids h).trans (hbefore.others w h), hself, ?_⟩
  obtain ⟨-, -, -, hloads⟩ := withLoad_fields ld ((beforeLoad y x ls).weft x.w.id)
  rw [hself, hloads, List.map_append, ids_of_view hbefore.weft.loads, List.map_singleton]
  refine List.Nodup.append hn (List.nodup_singleton _) fun i hi hj => ?_
  obtain ⟨l, hl, rfl⟩ := List.mem_map.1 hi
  have := hfresh l hl
  rw [List.mem_singleton] at hj
  omega

/-- What happens to a load once it is recorded happens to it alone. -/
theorem issueLoad_advance (k : Nat) (a : DWord) (dst : List (Nat × Nat × Nat)) (acq : Bool) :
    LoadsAdvance x.w.id [y.nextId] (recordLoad (beforeLoad y x ls) x (newLoad y x k a ls dst acq)) (y.issueLoad x k a ls dst acq) := by
  obtain ⟨hhere, -, -, hnodup⟩ := recordLoad_weft (ls := ls) hw hn hfresh (ld := newLoad y x k a ls dst acq) rfl
  obtain h | h | h := issueLoad_cases y x k a ls dst acq
  · exact h.symm ▸ ⟨hhere, fun _ _ => rfl, WeftAdvance.refl _ _⟩
  · exact h.symm ▸ LoadsAdvance.of_modWeft hhere rfl (fun _ => rfl) (waitFor_advance _ _ _)
  · rw [h]
    obtain h | ⟨q, _, _, _, h⟩ := startLoad_cases (recordLoad (beforeLoad y x ls) x (newLoad y x k a ls dst acq)) x.w.id
      (newLoad y x k a ls dst acq)
    · exact h.symm ▸ takeLoad_advance y.nextId hhere hnodup
    · exact h.symm ▸ LoadsAdvance.of_modWeft hhere rfl (fun _ => rfl) (waitFor_advance _ q _)

theorem issueLoad_issued (k : Nat) (a : DWord) (dst : List (Nat × Nat × Nat)) (acq : Bool) :
    LoadIssued y (y.issueLoad x k a ls dst acq) x k ls dst acq := by
  obtain ⟨-, hothers, hself, -⟩ := recordLoad_weft (ls := ls) hw hn hfresh (ld := newLoad y x k a ls dst acq) rfl
  have hbefore := (beforeLoad_advance (ls := ls) hw hn).weft
  have hissue := issueLoad_advance (ls := ls) hw hn hfresh k a dst acq
  obtain ⟨hregs, hpoison, hsq, hloads⟩ := withLoad_fields (newLoad y x k a ls dst acq) ((beforeLoad y x ls).weft x.w.id)
  have hweft := hself ▸ hissue.weft
  refine ⟨fun w h => (hissue.others w h).trans (hothers w h), hweft.regs.trans (hregs.trans hbefore.regs),
    hweft.poison.trans (hpoison.trans hbefore.poison), hweft.sq.trans (hsq.trans hbefore.sq), fun r hr => ?_, ?_, fun l hl hlate => ?_⟩
  · obtain ⟨p, hp, hview⟩ := List.mem_map.1 (hweft.pend ▸ withLoad_pending hr)
    obtain ⟨hop, hkeys⟩ := Prod.mk.inj hview
    exact ⟨p, hp, hop, hasKey_iff.2 (hkeys ▸ hr)⟩
  · rw [hweft.loads, hloads, List.map_append, hbefore.loads, List.map_singleton]
    simp [loadView, newLoad, LoadRec.locs, Function.comp_def]
  · have hbeforeKept : l ∈ ((beforeLoad y x ls).weft x.w.id).loads := hbefore.kept l hl fun hmem => by
      obtain ⟨e, he, heid⟩ := List.mem_map.1 hmem
      obtain ⟨hload, hmeets⟩ := List.mem_filter.1 he
      obtain rfl := List.inj_on_of_nodup_map hn hload hl heid
      obtain ⟨hwait, hmeet⟩ := Bool.and_eq_true_iff.1 hmeets
      rw [hlate (beq_iff_eq.1 hwait)] at hmeet
      cases hmeet
    exact hweft.kept l (hloads ▸ List.mem_append_left _ hbeforeKept) fun hmem => (hfresh l hl).ne (List.mem_singleton.1 hmem)

/-- R126: of memory in its canonical form, the issue of a load changes no byte. -/
theorem issueLoad_byteAt (hy : y.Inv) (k : Nat) (a : DWord) (dst : List (Nat × Nat × Nat)) (acq : Bool) {l : Loc} (hl : l.plain = true)
    (h : y.settledAt l) (ha : ∀ m ∈ ls, Alike l m) (hlate : ∀ e ∈ (y.weft x.w.id).loads, e.wait = .late → ∀ m ∈ e.locs, Alike l m) :
    (y.issueLoad x k a ls dst acq).byteAt l = y.byteAt l := by
  have hbefore := beforeLoad_kept (ls := ls) hw hn hy hl h hlate
  obtain ⟨-, -, hself, hnodup⟩ := recordLoad_weft (ls := ls) hw hn hfresh (ld := newLoad y x k a ls dst acq) rfl
  have hrecord : Kept l y (recordLoad (beforeLoad y x ls) x (newLoad y x k a ls dst acq)) :=
    hbefore.trans (kept_of_mem hbefore.inv rfl rfl hl hbefore.settled)
  obtain he | he | he := issueLoad_cases y x k a ls dst acq
  · exact he.symm ▸ hrecord.byte
  · rw [he]
    exact Kept.byte (hrecord.trans (kept_of_mem hrecord.inv rfl rfl hl hrecord.settled))
  rw [he]
  refine (hrecord.trans ?_).byte
  obtain he | ⟨q, _, _, _, he⟩ := startLoad_cases (recordLoad (beforeLoad y x ls) x (newLoad y x k a ls dst acq)) x.w.id
    (newLoad y x k a ls dst acq)
  · rw [he]
    refine takeLoad_kept hrecord.inv hl hrecord.settled fun ld hld hldid => ?_
    obtain ⟨-, -, -, hloads⟩ := withLoad_fields (newLoad y x k a ls dst acq) ((beforeLoad y x ls).weft x.w.id)
    have hmem : newLoad y x k a ls dst acq ∈ (withLoad (newLoad y x k a ls dst acq) ((beforeLoad y x ls).weft x.w.id)).loads :=
      hloads ▸ List.mem_append_right _ List.mem_cons_self
    have hlocs : ld.locs = ls := (locs_of_view rfl hnodup (hself ▸ hmem) hld hldid).trans (by simp [newLoad, LoadRec.locs, Function.comp_def])
    exact hlocs ▸ ha
  · exact he.symm ▸ kept_of_mem hrecord.inv rfl rfl hl hrecord.settled

end

/-! ### The return of a load (R305, R307, R308) -/

/-- A load that no LOOKUP follows ends no search. -/
theorem endLookup_of_none {s : State} {w : Nat} {ld : LoadRec} (hw : s.hasWeft w = true) (hf : ∀ q ∈ s.futs, q.2.kind ≠ .lookup w ld.id) :
    s.endLookup w ld = s := by
  have hnone : s.futs.filter (fun q => q.2.used && q.2.value.isNone && q.2.kind == .lookup w ld.id) = [] :=
    List.filter_eq_nil_iff.2 fun q hq => by simp [hf q hq]
  simp only [State.endLookup, weft_id hw, hnone, List.foldl_nil]

/-- A weft to which a load has returned. -/
def returned (ld : LoadRec) (v : Weft) : Weft := { v.complete ld.id with loads := v.loads.filter (fun l => l.id != ld.id) }

theorem endLoad_of_no_lookup {s : State} {w : Nat} {ld : LoadRec} (hw : s.hasWeft w = true) (hf : ∀ q ∈ s.futs, q.2.kind ≠ .lookup w ld.id) :
    s.endLoad w ld = (s.modBoth w (returned ld)).partDone w ld.track := by
  rw [State.endLoad, endLookup_of_none hw hf]
  rfl

/-- A load that has taken its bytes writes them to its registers, and it and its part of the flag end. -/
theorem memoryAccessComplete_returns {s : State} {w id : Nat} {ld : LoadRec} {p : Pend} (hw : s.hasWeft w = true)
    (hl : (s.weft w).loads.find? (fun l => l.id == id) = some ld) (hready : ld.wait = .ready)
    (hf : ∀ q ∈ s.futs, q.2.kind ≠ .lookup w id) (hp : (s.weft w).pend.find? (fun p => p.op == some id) = some p)
    (hn : (p.vals.map (·.1)).Nodup) (hr : risesFrom 0 (s.weft w).regs) :
    ∃ t, exec (.memoryAccessComplete w id) s = .next t ∧ t.mem = s.mem ∧ (∀ v, v ≠ w → t.weft v = s.weft v) ∧
      (∀ k, sget 0 (t.weft w).regs k = (lookupKey k p.vals).getD (sget 0 (s.weft w).regs k)) ∧
      (∀ k, (t.weft w).newest k = (s.weft w).newest k) ∧ (t.weft w).lanes = (s.weft w).lanes ∧
      (t.weft w).loads = (s.weft w).loads.filter (fun l => l.id != id) := by
  obtain rfl : ld.id = id := by simpa using List.find?_some hl
  have hid : ∀ v : Weft, (returned ld v).id = v.id := fun v => weft_complete_id v ld.id
  have hhere : (s.modBoth w (returned ld)).hasWeft w = true := (hasWeft_modWeft (s := s) hid).trans hw
  have hweft : ((s.modBoth w (returned ld)).partDone w ld.track).weft w = (returned ld (s.weft w)).partDone ld.track := by
    rw [partDone_weft hhere]
    exact congrArg (fun v : Weft => v.partDone ld.track) (weft_modWeft_self (s := s) hid hw)
  refine ⟨_, (memoryAccessComplete_of_ready hl hready).trans (congrArg Host.Outcome.next (endLoad_of_no_lookup hw hf)), rfl, fun v hv => ?_,
    fun k => ?_, fun k => ?_, ?_, ?_⟩
  · exact (partDone_weft_ne hv).trans (weft_modWeft_ne (s := s) hid hv)
  · rw [hweft, weft_partDone_regs, ← complete_regs hp hr hn]
    rfl
  · rw [hweft, ← complete_newest hp hr hn]
    simp only [Weft.newest, weft_partDone_regs, weft_partDone_pend]
    rfl
  · rw [hweft, weft_partDone_lanes]
    exact weft_complete_lanes _ _
  · rw [hweft, weft_partDone_loads]
    rfl

/-- The value of a register of a load: its bytes, little-endian, poisoned where one of them is. -/
theorem value_of_dst {ld : LoadRec} {key first n : Nat} (h : ld.dst.find? (fun d => d.1 == key) = some (key, first, n)) :
    let bs := ((ld.bytes.drop first).take n).map (fun b => b.2.getD (0, false))
    ld.value key = (BitVec.ofNat 64 (leNat (bs.map (·.1))), bs.any (·.2)) := by
  simp only [LoadRec.value, h]

/-! ### O29 -/

/-- What reads the place of the load in a weft without lanes, panel or queue. -/
def reader : IC := ⟨Weft.nil, Panel.nil, 0, 0, 0, 0, 0, [], false, 0, 0, 0, false⟩

theorem hidden_after_issueLoad : (unruly.issueLoad reader 0 0 [unit1] [] false).byteAt hidden = 7 := by decide +kernel

/-- Refutes O29: the last clause on `issueLoad` asks nothing of memory's form either. A load of data unit 1 in `unruly` allocates, and
evicts, as a `pref` does (O33). Of memory in its form the clause holds (`issueLoad_byteAt`), and so do, as they stand, the words
(`ld_performs`, `lds_performs`), the other clauses on `issueLoad` (`issueLoad_issued`) and the return (`memoryAccessComplete_returns`,
`value_of_dst`). -/
theorem not_loadWords : ¬ Obligations.LoadWords := by
  unfold Obligations.LoadWords
  rintro ⟨⟨-, -, hissue⟩, -⟩
  obtain ⟨-, -, -, -, -, -, -, hsame⟩ := hissue unruly reader 0 0 [unit1] [] false (by decide) (by decide) (by decide)
  have hread := hsame hidden rfl hidden_settled (by simpa using hidden_alike) (fun _ he => (List.not_mem_nil he).elim)
  rw [hidden_after_issueLoad, hidden_before] at hread
  exact absurd hread (by decide)

end Sys2Proof.Proofs
end

section
/-! SUPPORT. The state after reset (O56), and matrix words: what a word leaves in the matrix orders of its gang (O38). -/
namespace Sys2Proof.Proofs
open Sys2Proof Sys2Proof.Machine

/-! ### O56 -/

theorem reset_tag_owner {core t : Nat} (h : t < 12) : (State.reset.tag core t).owner = 0 := by
  have hall : ∀ t < 12, (CoreSt.reset.tags.getD t TileTag.reset).owner = 0 := by decide
  exact hall t h

theorem reset_byteAt (pa : Nat) : State.reset.byteAt (.hbm pa 0 0) = 0 := by
  rfl

/-- Settles O56: every list of the reset state is empty but for the functions and the dies, which are copies of one entry. -/
theorem resetState : Obligations.ResetState := by
  unfold Obligations.ResetState
  have hdies : ∀ n < 4, (State.reset.die n).quads = 36 ∧ (State.reset.die n).spares = 2 ∧ (State.reset.die n).tripped = false ∧
      (State.reset.die n).restarting = false := by decide
  have hfns : ∀ n < 16, (State.reset.fn n).evBase = 0 ∧ (State.reset.fn n).evCtl = 0 ∧ (State.reset.fn n).evTail = 0 ∧
      (State.reset.fn n).apseg = 0 := by decide
  have hqueues : ∀ q < 4, CoreSt.reset.copyQ[q]? = some [] := by decide
  exact ⟨inv_reset, rfl, rfl, rfl, rfl, rfl, rfl, rfl, rfl, fun _ => rfl, fun _ _ h => reset_tag_owner h,
    fun _ => ⟨rfl, rfl, rfl, rfl, rfl, rfl, hqueues⟩, rfl, hdies, by decide, hfns, reset_byteAt, rfl, fun _ => rfl⟩

/-! ### The plan of a matrix word (R330) -/

theorem chk_map_ok_iff {α β : Type} {c : Chk α} {f : α → β} : (∃ v, c.map f = .ok v) ↔ ∃ a, c = .ok a := by
  cases c <;> simp [Chk.map, Chk.bind]

theorem chk_unit_ok_iff {c : Chk Unit} : (∃ v, c = .ok v) ↔ c = .ok () := ⟨fun ⟨_, h⟩ => h, fun h => ⟨(), h⟩⟩

theorem padCheck_ok_iff {s : State} {r : Req} {cls : Cls} {a : DWord} {size align : Nat} :
    s.padCheck r cls a size align = .ok () ↔
      (∃ d seg off, s.resolve r (segOf a) (offOf a).toNat = .ok (d, seg, off) ∧ d.kind = kPad) ∧
        ∃ q, s.check r cls a 0 size align = .ok q := by
  cases hr : s.resolve r (segOf a) (offOf a).toNat with
  | error e => simp [State.padCheck, hr]
  | ok z =>
    obtain ⟨d, seg, off⟩ := z
    by_cases hk : d.kind = kPad
    · have hmap : s.padCheck r cls a size align = (s.check r cls a 0 size align).map (fun _ => ()) := by simp [State.padCheck, hr, hk]
      have hex : s.padCheck r cls a size align = .ok () ↔ ∃ q, s.check r cls a 0 size align = .ok q := by
        rw [hmap, ← chk_unit_ok_iff, chk_map_ok_iff]
      simp [hex, hk]
    · simp [State.padCheck, hr, hk]

theorem filterMap_of_map_some {α β : Type} {f : α → Option β} {l : List α} {r : List β} (h : l.map f = r.map some) :
    l.filterMap f = r ∧ r.length = l.length := by
  have hlen := congrArg List.length h
  simp only [List.length_map] at hlen
  have hfm : l.filterMap f = (l.map f).filterMap id := by simp [List.filterMap_map]
  exact ⟨by rw [hfm, h]; simp [List.filterMap_map], hlen.symm⟩

/-- When a matrix word of a form has nothing to wait for and passes its checks on its agent, with the partners `members`. -/
structure MatReady (k : MKind) (f : XF) (useA useB : Bool) (a1 : DWord × Option (Desc × Seg × Nat)) (members : List Panel)
    (s : State) (x : IC) : Prop where
  acc     : ∀ n ∈ accNames k f, n < x.p.launch.acct
  part    : ∀ n ∈ partNames k f, n < x.p.launch.partt
  cleanA  : useA = true → x.pz true f.a x.agent = false
  cleanB  : useB = true → x.pz true f.b x.agent = false
  awaits  : x.awaits = false
  gang    : (gangCores x.w.core f.gm).map (s.partner x.p) = members.map some
  desc    : k = .align → s.descWaits x (if useA then x.addr f.a x.agent else 0) members = false
  check   : s.matCheck x k f (if useA then x.addr f.a x.agent else 0) (if useB then x.addr f.b x.agent else 0) members = .ok a1
  commit  : k.commits = true → s.commitWaits x.p.id = false

theorem matPlan_of_ready {k : MKind} {f : XF} {useA useB : Bool} {a1 : DWord × Option (Desc × Seg × Nat)} {members : List Panel}
    {s : State} {x : IC} (h : MatReady k f useA useB a1 members s x) :
    s.matPlan x k f useA useB = .go (fun y =>
      if k.commits then y.committed x.p.id (fun z => z.queueMat x k f a1 (if useB then x.addr f.b x.agent else 0) members)
      else y.queueMat x k f a1 (if useB then x.addr f.b x.agent else 0) members) := by
  obtain ⟨hacc, hpart, hA, hB, hw, hm, hd, hc, hk⟩ := h
  obtain ⟨hps, hlen⟩ := filterMap_of_map_some hm
  have hbudget : ((accNames k f).any (fun n => decide (x.p.launch.acct ≤ n)) ||
      (partNames k f).any (fun n => decide (x.p.launch.partt ≤ n))) = false := by
    simpa using ⟨hacc, hpart⟩
  have hpz : ((useA && x.pz true f.a x.agent) || (useB && x.pz true f.b x.agent)) = false := by
    simpa using ⟨hA, hB⟩
  have halign : ¬ (k = .align ∧ s.descWaits x (if useA then x.addr f.a x.agent else 0) members = true) :=
    fun ⟨h1, h2⟩ => Bool.false_ne_true ((hd h1).symm.trans h2)
  have hcommit : (k.commits && s.commitWaits x.p.id) = false := by
    simpa using hk
  simp only [State.matPlan, hbudget, hpz, hw, hps, hlen, halign, hc, hcommit, ne_eq, not_true_eq_false, if_false, Bool.false_eq_true]

theorem commits_iff (k : MKind) : k.commits = true ↔ k ∉ [MKind.bload, .bclr, .align] := by
  cases k <;> decide

/-- A matrix word that is ready enters the orders, as a commit point where its form is one. -/
theorem matWord_performs {i : Instr} {k : MKind} {f : XF} {useA useB : Bool} (he : ∀ s, exec i s = matWord i.view k f useA useB s)
    (a1 : DWord × Option (Desc × Seg × Nat)) (members : List Panel) :
    Performs i false (MatReady k f useA useB a1 members) (fun x y =>
      if k.commits then y.committed x.p.id (fun z => z.queueMat x k f a1 (if useB then x.addr f.b x.agent else 0) members)
      else y.queueMat x k f a1 (if useB then x.addr f.b x.agent else 0) members) :=
  performs_go he fun _ _ h => matPlan_of_ready h

/-! ### Entering the matrix order (R326) -/

/-- The word that `queueMat` enters on the core of member `p`. -/
def queuedWord (s : State) (x : IC) (k : MKind) (f : XF) (a : DWord × Option (Desc × Seg × Nat)) (b : DWord) (parts : List Panel)
    (p : Panel) : MWord :=
  ⟨s.nextId, p.id, p.ctx, x.w.id, x.agent, x.sys, x.pc, k, f, a.1, b,
    if k = .align then s.alignDesc x.w.id p (offOf a.1).toNat else 0, x.w.core, parts.map (fun q => q.core), x.track, 0, 0, false, false,
    false, false, none, none, a.2, false⟩

theorem queueMat_single_frame {s : State} {x : IC} {k : MKind} {f : XF} {a : DWord × Option (Desc × Seg × Nat)} {b : DWord} {p : Panel}
    (hgm : f.gm = 0) :
    let t := s.queueMat x k f a b [p]
    t.mem = s.mem ∧ t.panels = s.panels ∧
      t.cores = (s.modCore p.core (fun c => { c with morder := c.morder ++ [queuedWord s x k f a b [p] p] })).cores := by
  simp only [State.queueMat, hgm, List.foldl_cons, List.foldl_nil, if_true]
  split <;> simp <;> rfl

/-- Settles O38: the words by `matWord_performs`, the checks by their forms, and the order by `queueMat_single_frame`. -/
theorem matrixWords : Obligations.MatrixWords := by
  unfold Obligations.MatrixWords
  refine ⟨fun c f q hq => ?_, fun s x f a b parts n => ?_, fun s x k f a b hgm hr _ => ?_⟩
  · intro a b a1 members
    have hexec : ∀ s, exec q.1 s = matWord q.1.view q.2.1 f q.2.2.1 q.2.2.2 s := by
      simp only [List.mem_cons, List.not_mem_nil, or_false] at hq
      rcases hq with rfl | rfl | rfl | rfl | rfl | rfl | rfl | rfl | rfl | rfl | rfl | rfl | rfl <;> exact fun _ => rfl
    refine performs_congr (matWord_performs hexec a1 members) ?_ fun x u => ?_
    · rintro s x ⟨hacc, hpart, hA, hB, hw, hm, hd, hc, hk⟩
      exact ⟨hacc, hpart, hA, hB, hw, hm, hd, hc, fun h => hk ((commits_iff _).1 h)⟩
    · by_cases h : q.2.1 ∈ [MKind.bload, .bclr, .align]
      · rw [if_pos h, if_neg fun hc => (commits_iff _).1 hc h]
      · rw [if_neg h, if_pos ((commits_iff _).2 h)]
  · exact ⟨padCheck_ok_iff, chk_map_ok_iff.trans chk_unit_ok_iff, chk_map_ok_iff.trans chk_unit_ok_iff⟩
  · obtain ⟨hmem, hpanels, hcores⟩ := queueMat_single_frame (s := s) (x := x) (k := k) (a := a) (b := b) (p := x.p) hgm
    have hcore : ∀ n, (s.queueMat x k f a b [x.p]).core n =
        if n = x.p.core then { s.core x.p.core with morder := (s.core x.p.core).morder ++ [queuedWord s x k f a b [x.p] x.p] }
        else s.core n := fun n => (core_congr hcores n).trans (core_modCore hr _ _ _)
    refine ⟨hmem, hpanels, fun n hn => (hcore n).trans (if_neg hn), queuedWord s x k f a b [x.p] x.p, ?_, rfl, rfl, rfl, rfl, rfl, rfl,
      rfl, rfl, rfl, rfl, rfl, rfl, rfl, rfl⟩
    exact congrArg CoreSt.morder ((hcore _).trans (if_pos rfl))

end Sys2Proof.Proofs
end

section
/-! SUPPORT. The steps of matrix words (O39): the matrix order under a change of a core, starts, the steps of `bclr`, `bload` and `tzero`,
the end of a word, and ALIGN's rounding (R228). -/
namespace Sys2Proof.Proofs
open Sys2Proof Sys2Proof.Machine

/-! ### Words of the matrix order -/

theorem mword_id {s : State} {core id : Nat} {m : MWord} (h : s.mword core id = some m) : m.id = id := by
  simpa using List.find?_some h

theorem find?_map_modified {id : Nat} {g : MWord → MWord} (hid : ∀ q, (g q).id = q.id) (l : List MWord) :
    (l.map (fun m => if m.id = id then g m else m)).find? (fun m => m.id == id) = (l.find? (fun m => m.id == id)).map g := by
  induction l with
  | nil => rfl
  | cons m ms ih =>
    by_cases h : m.id = id
    · simp [h, hid]
    · simp [h, ih]

theorem mword_modMWord {s : State} (hr : risesFrom 0 s.cores) {core id : Nat} {g : MWord → MWord} (hid : ∀ q, (g q).id = q.id) :
    (s.modMWord core id g).mword core id = (s.mword core id).map g := by
  simp only [State.mword, State.modMWord, core_modCore hr, if_true]
  exact find?_map_modified hid _

/-- A change of a core that leaves its matrix order leaves the words of it. -/
theorem mword_modCore {s : State} (hr : risesFrom 0 s.cores) {core id : Nat} {f : CoreSt → CoreSt} (hf : ∀ c, (f c).morder = c.morder) :
    (s.modCore core f).mword core id = s.mword core id := by
  simp only [State.mword, core_modCore hr, if_true, hf]

theorem mwNext_mword {s : State} (hr : risesFrom 0 s.cores) {core : Nat} {m : MWord} (h : s.mword core m.id = some m) :
    ∃ q, (s.mwNext core m.id).mword core m.id = some q ∧ q.step = m.step + 1 := by
  rw [State.mwNext, mword_modMWord hr, h]
  · exact ⟨_, rfl, rfl⟩
  · exact fun _ => rfl

theorem mwNext_beams {s : State} (hr : risesFrom 0 s.cores) (core id : Nat) : ((s.mwNext core id).core core).beams = (s.core core).beams := by
  rw [State.mwNext, State.modMWord, core_modCore hr, if_pos rfl]

/-! ### Starts (R326) -/

theorem mwStart_mword {s : State} (hr : risesFrom 0 s.cores) {core id : Nat} {m : MWord} (h : s.mword core id = some m) :
    ∃ q, (s.mwStart core id).mword core id = some q ∧ q.started = true := by
  simp only [State.mwStart, h]
  rw [mword_modMWord (risesFrom_modCore hr _ _), mword_modCore hr, h]
  · exact ⟨_, rfl, rfl⟩
  · exact fun _ => rfl
  · exact fun _ => rfl

theorem matrixWordStart_of_ready {s : State} {core id : Nat} {m : MWord} (h : s.mword core id = some m)
    (hready : ∀ k ∈ if m.kind = .bload then m.members else [core], ∃ q, s.mword k id = some q ∧ s.mwReady k q = true) :
    exec (.matrixWordStart core id) s =
      .next ((if m.kind = .bload then m.members else [core]).foldl (fun y k => y.mwStart k id) s) := by
  have hall : (if m.kind = .bload then m.members else [core]).all (fun c => match s.mword c id with
      | some q => s.mwReady c q
      | none => false) = true := by
    rw [List.all_eq_true]
    intro k hk
    obtain ⟨q, hq, hqr⟩ := hready k hk
    simp only [hq, hqr]
  simp only [exec, execMatrixWordStart, h]
  exact if_pos hall

/-! ### Steps and the end of a word (R328, R340, R344) -/

theorem treadleStepEnd_of_own {s : State} {core id : Nat} {m : MWord} (h : s.mword core id = some m)
    (hs : s.mwSteppable core m = true) (ht : ∀ t ∈ s.mwTouches core m, (s.tag core t).owner = 0 ∨ (s.tag core t).owner = m.ctx) :
    exec (.treadleStepEnd core id) s = .next ((s.claim core m.ctx (s.mwTouches core m)).mwStep core m) := by
  have hfind : (s.mwTouches core m).find? (fun t => (s.tag core t).owner != 0 && (s.tag core t).owner != m.ctx) = none := by
    rw [List.find?_eq_none]
    intro t h
    rcases ht t h with h | h <;> simp [h]
  simp only [exec, execTreadleStepEnd, h, hs, hfind, Bool.not_true, Bool.false_eq_true, if_false]

theorem matrixWordComplete_of_done {s : State} {core id : Nat} {m : MWord} (h : s.mword core id = some m) (hst : m.started = true)
    (hsu : m.susp = false) (hstall : m.stall = none) (hd : m.ended = true ∨ s.mwSteps core m ≤ m.step) :
    exec (.matrixWordComplete core id) s = .next (s.mwEnd core m) := by
  have hdone : (m.ended || decide (s.mwSteps core m ≤ m.step)) = true := by simpa using hd
  simp only [exec, execMatrixWordComplete, h, hst, hsu, hstall, hdone, Option.isNone_none, Bool.not_false, Bool.and_self, if_true]

theorem core_partDone (s : State) (w id k : Nat) : (s.partDone w id).core k = s.core k := rfl

/-- A part of a tracked instruction ends in its weft, resident or not. -/
theorem partDone_flags (s : State) (w id : Nat) : ((s.partDone w id).weft w).flags = ((s.weft w).partDone id).flags := by
  by_cases h : s.hasWeft w = true
  · rw [partDone_weft h]
  · have hno : s.hasWeft w = false := by simpa using h
    have hno' : (s.partDone w id).hasWeft w = false :=
      (hasWeft_modWeft (s := s) (w := w) (f := fun x => x.partDone id) fun y => weft_partDone_id y id).trans hno
    rw [weft_missing hno, weft_missing hno']
    rfl

theorem mwEnd_of_plain {s : State} (hr : risesFrom 0 s.cores) {core : Nat} {m : MWord} (hgm : m.f.gm = 0) (hq : m.kind.queued = false) :
    let t := s.mwEnd core m
    t.mem = s.mem ∧ (t.core core).morder = (s.core core).morder.filter (fun q => q.id != m.id) ∧
      (t.weft m.weft).flags = ((s.weft m.weft).partDone m.track).flags := by
  simp only [State.mwEnd, hgm, hq, if_true, Bool.false_eq_true, if_false]
  refine ⟨rfl, ?_, partDone_flags _ _ _⟩
  rw [core_partDone, core_modCore hr, if_pos rfl]

/-! ### The steps of `bclr` and `bload` (R332) -/

section
variable {s : State} {core : Nat} {m : MWord}

theorem mwStep_bclr (h : s.mword core m.id = some m) (hr : risesFrom 0 s.cores) (hk : m.kind = .bclr) :
    let t := s.mwStep core m
    t.mem = s.mem ∧ (t.core core).beams = (s.core core).beams.set m.f.bs.toNat Macro.reset ∧
      ∃ q, t.mword core m.id = some q ∧ q.step = m.step + 1 := by
  have hr1 := risesFrom_modCore hr core (fun c => { c with beams := c.beams.set m.f.bs.toNat Macro.reset })
  simp only [State.mwStep, hk]
  refine ⟨rfl, ?_, mwNext_mword hr1 ((mword_modCore hr fun _ => by rfl).trans h)⟩
  rw [mwNext_beams hr1, core_modCore hr, if_pos rfl]

theorem bloadStep_eq (s : State) (core : Nat) (m : MWord) : ∃ mac : Macro,
    s.bloadStep core m = (s.modCore core (fun c => { c with beams := c.beams.set (m.f.bs.toNat + m.step) mac })).mwNext core m.id ∧
      mac.ctx = m.ctx ∧ mac.ety = m.f.ety ∧ mac.shape = m.f.shape ∧ mac.valid = true :=
  ⟨_, rfl, rfl, rfl, rfl, rfl⟩

theorem mwStep_bload_single (h : s.mword core m.id = some m) (hr : risesFrom 0 s.cores) (hk : m.kind = .bload)
    (hm : m.members = [core]) :
    let t := s.mwStep core m
    t.mem = s.mem ∧ (∃ q, t.mword core m.id = some q ∧ q.step = m.step + 1) ∧
      (∀ i, i ≠ m.f.bs.toNat + m.step → (t.core core).beams[i]? = (s.core core).beams[i]?) ∧
      (m.f.bs.toNat + m.step < (s.core core).beams.length → ∃ mac, (t.core core).beams[m.f.bs.toNat + m.step]? = some mac ∧
        mac.ctx = m.ctx ∧ mac.ety = m.f.ety ∧ mac.shape = m.f.shape ∧ mac.valid = true) := by
  obtain ⟨mac, hstep, hmac⟩ := bloadStep_eq s core m
  have hr1 := risesFrom_modCore hr core (fun c => { c with beams := c.beams.set (m.f.bs.toNat + m.step) mac })
  have ht : s.mwStep core m = s.bloadStep core m := by
    simp only [State.mwStep, hk, hm, List.foldl_cons, List.foldl_nil, h]
  have hbeams : ((s.mwStep core m).core core).beams = (s.core core).beams.set (m.f.bs.toNat + m.step) mac := by
    rw [ht, hstep, mwNext_beams hr1, core_modCore hr, if_pos rfl]
  refine ⟨by rw [ht, hstep]; rfl, ?_, fun i hi => ?_, fun hlt => ⟨mac, ?_, hmac⟩⟩
  · rw [ht, hstep]
    exact mwNext_mword hr1 ((mword_modCore hr fun _ => by rfl).trans h)
  · rw [hbeams, List.getElem?_set_ne hi.symm]
  · rw [hbeams, List.getElem?_set_self hlt]

end

/-! ### A tile zeroed (R323) -/

theorem sget_putBytes_chip {s : State} (hs : s.Inv) {b : Byte} {ws : List Wr}
    (hws : ∀ w ∈ ws, ∃ pa, w.loc = .chip pa false ∧ (Loc.chip pa false).plain = true ∧ w.b = b) (q : Nat) :
    sget 0 (putBytes s ws).mem.bytes q = if ∃ w ∈ ws, w.loc = .chip q false then b else sget 0 s.mem.bytes q := by
  induction ws generalizing s with
  | nil => simp [putBytes]
  | cons w ws ih =>
    obtain ⟨pa, hloc, hplain, rfl⟩ := hws w (by simp)
    have hstep : s.putByte w.loc w.b = s.chipPut pa w.b := by rw [hloc]; rfl
    have hinv : (s.chipPut pa w.b).Inv := hstep ▸ putByte_inv hs _ _
    have hfold : putBytes s (w :: ws) = putBytes (s.chipPut pa w.b) ws := by rw [← hstep]; rfl
    rw [hfold, ih hinv fun v hv => hws v (by simp [hv]), sget_chipPut hs hplain]
    by_cases hq : q = pa
    · subst hq
      simp [hloc]
    · have hne : ¬ Loc.chip pa false = .chip q false := by simpa using Ne.symm hq
      simp [hloc, hne, hq]

theorem accTile_plain {core t i : Nat} (ht : t < 8) (hi : i < 0x8000) : (Loc.chip (tilePa core t + i) false).plain = true := by
  have hoff : blockOff (tilePa core t + i) = accOff + 0x8000 * t + i := by
    simp only [blockOff, tilePa, ht, if_true, coreBlock, chipBase, accOff]
    omega
  simp only [Loc.plain, isReg, isPart, hoff, accOff, partOff, ipadOff]
  simp
  omega

theorem chip_byteAt_of_mem {s t : State} {pa : Nat} (h : t.mem = s.mem) (hp : (Loc.chip pa false).plain = true) :
    t.byteAt (.chip pa false) = s.byteAt (.chip pa false) := by
  have hs : ∀ y : State, y.byteAt (.chip pa false) = sget 0 y.mem.bytes pa := fun _ => chipByte_of_plain hp
  rw [hs, hs, h]

theorem zeroTile_byteAt {s : State} (hs : s.Inv) {core t i : Nat} (ht : t < 8) (hi : i < 0x8000) (owner : CtxId) :
    (s.zeroTile core t owner).byteAt (.chip (tilePa core t + i) false) = 0 := by
  have hplain := accTile_plain (core := core) ht hi
  have hsize : tileSize t = 0x8000 := if_pos ht
  let ws := wrs (tileLocs core t 0 (tileSize t)) (List.replicate (tileSize t) 0)
  have hws : ∀ w ∈ ws, ∃ j < 0x8000, w.loc = .chip (tilePa core t + j) false ∧ w.b = 0 := by
    intro w hw
    simp only [ws, wrs, List.mem_map, Prod.exists] at hw
    obtain ⟨l, b, hlb, rfl⟩ := hw
    obtain ⟨hl, hb⟩ := List.of_mem_zip hlb
    simp only [tileLocs, List.mem_map, List.mem_range, hsize] at hl
    obtain ⟨j, hj, rfl⟩ := hl
    exact ⟨j, hj, rfl, (List.mem_replicate.1 hb).2⟩
  have hmem : ∃ w ∈ ws, w.loc = .chip (tilePa core t + i) false := by
    have hl : Loc.chip (tilePa core t + i) false ∈ ws.map (·.loc) := by
      have hfst : ws.map (·.loc) = tileLocs core t 0 (tileSize t) := by
        simp [ws, wrs, List.map_fst_zip, tileLocs, Function.comp_def]
      rw [hfst, hsize]
      exact List.mem_map.2 ⟨i, List.mem_range.2 hi, rfl⟩
    simpa using hl
  have hzero : (s.write ws).byteAt (.chip (tilePa core t + i) false) = 0 := by
    rw [byteAt_write s ws hplain]
    refine (chipByte_of_plain hplain).trans ?_
    rw [sget_putBytes_chip hs (b := 0) (fun w hw => ?_), if_pos hmem]
    obtain ⟨j, hj, hloc, hb⟩ := hws w hw
    exact ⟨_, hloc, accTile_plain ht hj, hb⟩
  exact (chip_byteAt_of_mem (modCore_mem _ _ _) hplain).trans hzero

theorem mwStep_tzero {s : State} {core : Nat} {m : MWord} (hs : s.Inv) (hk : m.kind = .tzero) {tile i : Nat}
    (ht : (s.panel m.panel).accTile m.f.td.toNat = some tile) (hlt : tile < 8) (hi : i < 0x8000) :
    ((s.mwStep core m).read (tileLocs core tile i 1)).map (·.1) = [0] := by
  have hstep : s.mwStep core m = (s.zeroTile core tile m.ctx).mwNext core m.id := by
    simp only [State.mwStep, hk, ht, Option.getD_some]
  have hplain := accTile_plain (core := core) hlt hi
  have hbyte : ((s.zeroTile core tile m.ctx).mwNext core m.id).byteAt (.chip (tilePa core tile + i) false) = 0 :=
    (chip_byteAt_of_mem (modCore_mem _ _ _) hplain).trans (zeroTile_byteAt hs hlt hi m.ctx)
  rw [hstep]
  simpa [State.read, tileLocs] using hbyte

/-! ### ALIGN (R228) -/

theorem roundNE_zero (x : Nat) : roundNE x 0 = x := by
  simp [roundNE, Nat.mod_one]

/-- `roundNE` is the nearest multiple, and of two as near the even one. -/
theorem roundNE_nearest (x k : Nat) :
    2 * (roundNE x k * 2 ^ k) ≤ 2 * x + 2 ^ k ∧ 2 * x ≤ 2 * (roundNE x k * 2 ^ k) + 2 ^ k ∧
      ((2 * (roundNE x k * 2 ^ k) = 2 * x + 2 ^ k ∨ 2 * x = 2 * (roundNE x k * 2 ^ k) + 2 ^ k) → roundNE x k % 2 = 0) := by
  have hpos : 0 < 2 ^ k := Nat.two_pow_pos k
  have hdiv : x / 2 ^ k * 2 ^ k + x % 2 ^ k = x := by
    rw [Nat.mul_comm]; exact Nat.div_add_mod x (2 ^ k)
  have hmod := Nat.mod_lt x hpos
  have hup : (x / 2 ^ k + 1) * 2 ^ k = x / 2 ^ k * 2 ^ k + 2 ^ k := Nat.succ_mul _ _
  unfold roundNE
  simp only
  split_ifs with hlow hhigh
  · exact ⟨by omega, by omega, fun h => by omega⟩
  · rw [hup]
    exact ⟨by omega, by omega, fun h => by omega⟩
  · rcases Nat.mod_two_eq_zero_or_one (x / 2 ^ k) with h | h
    · rw [h, Nat.add_zero]
      exact ⟨by omega, by omega, fun _ => h⟩
    · rw [h, hup]
      exact ⟨by omega, by omega, fun _ => by omega⟩

/-- The exponent of a BF16 pattern, 1 for a subnormal. -/
def bfExp (v : Nat) : Nat := if v / 2 ^ 7 % 2 ^ 8 = 0 then 1 else v / 2 ^ 7 % 2 ^ 8
/-- The significand of a BF16 pattern. -/
def bfSig (v : Nat) : Nat := v % 2 ^ 7 + if v / 2 ^ 7 % 2 ^ 8 = 0 then 0 else 128
/-- The block exponent of finite elements. -/
def blockExp (xs : List Nat) : Nat := (xs.map bfExp).foldl max 0

theorem le_foldl_max {l : List Nat} {a n : Nat} (h : n ∈ l ∨ n ≤ a) : n ≤ l.foldl max a := by
  induction l generalizing a with
  | nil => simpa using h
  | cons b bs ih =>
    refine ih ?_
    rcases h with h | h
    · rcases List.mem_cons.1 h with rfl | h
      · exact .inr (Nat.le_max_right _ _)
      · exact .inl h
    · exact .inr (h.trans (Nat.le_max_left _ _))

theorem foldl_max_mem (l : List Nat) (a : Nat) : l.foldl max a ∈ a :: l := by
  induction l generalizing a with
  | nil => simp
  | cons b bs ih =>
    have h := ih (max a b)
    rcases List.mem_cons.1 h with h | h
    · rw [List.foldl_cons, h]
      rcases max_choice a b with hm | hm <;> simp [hm]
    · exact List.mem_cons_of_mem _ (List.mem_cons_of_mem _ h)

theorem blockExp_max {xs : List Nat} (hne : xs ≠ []) : (∀ v ∈ xs, bfExp v ≤ blockExp xs) ∧ ∃ v ∈ xs, bfExp v = blockExp xs := by
  have hle : ∀ v ∈ xs, bfExp v ≤ blockExp xs := fun v hv => le_foldl_max (.inl (List.mem_map_of_mem hv))
  refine ⟨hle, ?_⟩
  rcases List.mem_cons.1 (foldl_max_mem (xs.map bfExp) 0) with h | h
  · obtain ⟨v, hv⟩ := List.exists_mem_of_ne_nil xs hne
    have h1 : 1 ≤ bfExp v := by unfold bfExp; split <;> omega
    have h2 := hle v hv
    have h3 : blockExp xs = 0 := h
    omega
  · obtain ⟨v, hv, he⟩ := List.mem_map.1 h
    exact ⟨v, hv, he⟩

/-- What AlignBlock makes of finite elements. -/
theorem alignBlock_of_finite {xs : List Nat} (h : ∀ v ∈ xs, v < 2 ^ 16 ∧ v / 2 ^ 7 % 2 ^ 8 ≠ 255) :
    alignBlock xs = (blockExp xs, xs.map (fun v =>
      if v < 2 ^ 15 then (roundNE (bfSig v * 128) (blockExp xs - bfExp v) : Int)
      else -(roundNE (bfSig v * 128) (blockExp xs - bfExp v) : Int))) := by
  have hexp : ∀ v, bitsOf v 14 7 = v / 2 ^ 7 % 2 ^ 8 := fun v => bitsOf_eq v 14 7
  have hfin : xs.any (fun x => bitsOf x 14 7 == 255) = false := by
    rw [List.any_eq_false]
    intro v hv
    simpa [hexp] using (h v hv).2
  have hsig : ∀ v, bitsOf v 6 0 = v % 2 ^ 7 := fun v => bitsOf_zero v 6
  simp only [alignBlock, hfin, Bool.false_eq_true, if_false]
  refine Prod.ext ?_ (List.map_congr_left fun v hv => ?_)
  · simp only [hexp]
    rfl
  · have hsign : bitAt v 15 = decide (¬ v < 2 ^ 15) := by
      have hlt := (h v hv).1
      simp only [bitAt]
      rw [Bool.eq_iff_iff]
      simp
      omega
    simp only [hexp, hsig, hsign]
    by_cases hv15 : v < 2 ^ 15
    · have hpos : ¬ decide (¬ v < 2 ^ 15) = true := by simpa using hv15
      rw [if_pos hv15, if_neg hpos]
      rfl
    · have hneg : decide (¬ v < 2 ^ 15) = true := by simpa using hv15
      rw [if_neg hv15, if_pos hneg]
      rfl

/-! ### O39 -/

/-- Settles O39: starts, steps and ends by the words that the order holds, the three followed forms by their own steps, and ALIGN by
`roundNE_nearest`. -/
theorem matrixSteps : Obligations.MatrixSteps := by
  unfold Obligations.MatrixSteps
  refine ⟨fun s core id m h => ⟨fun hk hready => ⟨?_, fun hr _ => mwStart_mword hr h⟩, fun hk hready => ?_, treadleStepEnd_of_own h,
    matrixWordComplete_of_done h⟩, fun s core m h hr _ hs => ⟨mwStep_bclr h hr, mwStep_bload_single h hr, fun hk tile ht hlt i hi =>
    mwStep_tzero hs hk ht hlt hi⟩, fun s core m hgm hq hr _ => mwEnd_of_plain hr hgm hq, fun xs hfin hne => ?_⟩
  · have hstart := matrixWordStart_of_ready h (by simpa [hk] using ⟨m, h, hready⟩)
    simpa [hk] using hstart
  · have hstart := matrixWordStart_of_ready h (by simpa [hk] using hready)
    simpa [hk] using hstart
  · intro ex sig e
    have hblock := alignBlock_of_finite hfin
    have he : e = blockExp xs := congrArg Prod.fst hblock
    obtain ⟨hmax, hmem⟩ := blockExp_max hne
    refine ⟨fun v hv => he ▸ hmax v hv, he ▸ hmem, by rw [hblock, List.length_map], fun j hj => ?_⟩
    refine ⟨roundNE (bfSig xs[j] * 128) (blockExp xs - bfExp xs[j]), ?_, ?_⟩
    · simp [hblock, List.getElem?_eq_getElem hj]
    · rw [he]
      exact roundNE_nearest _ _

end Sys2Proof.Proofs
end

section
/-! SUPPORT. Copies, queue fences and futures (O40): a register list that names a register twice. -/
namespace Sys2Proof.Proofs
open Sys2Proof Sys2Proof.Machine

/-! ### O40 -/

/-- A weft whose list of registers names v0 of lane 0 twice; lane 0 is active, its handles are EMPTY. -/
def doubledWeft : Weft := { Weft.at0 1 with regs := [(keyV 0 0, 5), (keyV 0 0, 7)] }

/-- The word of the doubled weft. -/
def doubledWord : SlotWord := ⟨1, 1, 8, 0, 1, 0, 0, none⟩

/-- A machine with the doubled weft, its word due. -/
def doubled : State := { State.reset with
  panels := [Panel.at0 1]
  wefts := [doubledWeft]
  nextId := 10
  cur := some doubledWord }

/-- An `hget.ref` of handle 0 to v0, with FLAG 0. -/
def refToV0 : EF := ⟨1, 0, 0, .none, 0, false, false, .v 0, .zero, .zero⟩
def unflagged : Common := ⟨0, false, 0⟩

theorem doubled_due : Due doubled doubledWord (icOf (doubled.ready doubledWord) doubledWord) (Instr.hgetRef unflagged refToV0).view false where
  cur    := rfl
  fresh  := rfl
  reads  := rfl
  active := by decide +kernel
  gang   := by decide +kernel
  budget := by decide +kernel
  mode   := by decide
  flag   := by decide +kernel
  beam   := by decide

/-- What v0 of lane 0 reads as in the state that follows. -/
def v0After (o : Host.Outcome State Fault Refusal) : Option DWord :=
  match o with
  | .next t => some ((t.weft 1).newest (keyV 0 0))
  | _ => none

theorem v0After_hgetRef : v0After (exec (.hgetRef unflagged refToV0) doubled) = some 7 := by decide +kernel

/-- Refutes O40: the clause on `hget.ref` asks nothing of the list of registers. Where it names v0 twice, the write of 0, which an EMPTY
handle gives, changes the first entry and leaves 7 in the second, and v0 then reads 7. -/
theorem not_enginesAndFutures : ¬ Obligations.EnginesAndFutures := by
  unfold Obligations.EnginesAndFutures
  rintro ⟨hwords, -⟩
  obtain ⟨-, -, -, -, -, -, href, -⟩ := hwords unflagged refToV0
  obtain ⟨t, ht, hw⟩ := href _ _ _ doubled_due
  have hread := v0After_hgetRef
  rw [ht] at hread
  have hregs := hw.regs (keyV 0 0)
  have hzero : (t.weft 1).newest (keyV 0 0) = 0 := hregs.trans (by decide +kernel)
  exact absurd ((Option.some.inj hread).symm.trans hzero) (by decide)

end Sys2Proof.Proofs
end

section
/-! SUPPORT. Barriers (O41): words that arrive and wait, the decision of a completion, and the step to the next phase. -/
namespace Sys2Proof.Proofs
open Sys2Proof Sys2Proof.Machine

/-- A due word whose plan raises a fault on lanes: they take it, and nothing else happens (R198). -/
theorem runWord_raise {s : State} {sw : SlotWord} {x : IC} {v : View} {p : Bool} {plan : IC → State → Plan} {ls : List Nat} {e : LFault}
    (h : Due s sw x v p) (hp : plan x (s.ready sw) = .raise ls e) :
    runWord v p plan s = .next ((s.ready sw).faultLanes x.w.id x.pc x.hdr .load (ls.map (fun k => (k, e)))) := by
  have hactive : ¬ x.lanes.isEmpty = true := by simpa using h.active
  have hlate : ¬ x.late = true := by simp [h.on_time]
  have hgang : ¬ v.gmBad (coreIdx x.w.core) = true := by simp [h.gang]
  have hbudget : ¬ v.overBudget x.p.alloc = true := by simp [h.budget]
  have hmode : ¬ (p && !x.sys) = true := by simpa using h.mode
  have hflag : ¬ x.flagFull v.common = true := by simp [h.flag]
  have hbeam : ¬ (x.p.launch.replay && viewCommits v && (s.ready sw).beamBusy x.p.id) = true := by simpa using h.beam
  simp only [runWord, h.cur]
  rw [← h.reads, State.doPlan, if_neg hactive, if_neg hlate, if_neg hgang, if_neg hbudget, if_neg hmode, if_neg hflag, if_neg hbeam, hp]

/-- A due word all of whose lanes pass without an effect completes. -/
theorem runWord_pass {s : State} {sw : SlotWord} {x : IC} {v : View} {plan : IC → State → Plan} {f : IC → State → State}
    (h : Due s sw x v false) (hp : plan x (s.ready sw) = .part x.lanes f [] []) (hf : ∀ y, f x y = y) :
    ∃ t, runWord v false plan s = .next t ∧ Wrote (s.ready sw) t x v.common noMore [] [] := by
  refine ⟨_, runWord_part h hp, Wrote.ofAtWord ?_⟩
  have hwrote := perform_tracked h.reading.atWord v.common [] [] noMore (e := id) (fun _ => by rfl) (fun _ => by rfl) (fun _ => by rfl)
  simp only [mapLanes_noMore, modWeft_self] at hwrote
  rwa [show f x = fun y => id (y.tracked x [] []) from funext hf]

/-! ### Arriving and waiting (R358) -/

/-- Whether an arriving word has still to wait, as a release at its scope does (R137), or for its panel's commit point (R449). -/
def ArrivalHeld (sc : Scope) (s : State) (x : IC) : Prop :=
  (∃ l ∈ x.w.loads, l.wait ≠ .ready ∧ l.lane ∈ x.lanes) ∨ x.w.sq ≠ [] ∨
    (∃ m ∈ (s.core x.w.core).morder, m.weft = x.w.id ∧ m.lane ∈ x.lanes) ∨
    (Scope.core.rank < sc.rank ∧ (s.storesOut x.w.core = true ∨ s.commitWaits x.p.id = true))

/-- None of a word's lanes has arrived in the current phase. -/
def IC.Fresh (x : IC) (idx : Nat) : Prop := ∀ k ∈ x.lanes, (x.w.lane k).arrived.getD idx none ≠ some (x.p.phase idx)

theorem hasArrived_of_fresh {x : IC} {idx : Nat} (h : IC.Fresh x idx) : x.hasArrived idx = [] :=
  List.filter_eq_nil_iff.2 fun k hk => by simpa [Lane.arrivedAt] using h k hk

theorem notArrived_of_fresh {x : IC} {idx : Nat} (h : IC.Fresh x idx) : x.notArrived idx = x.lanes :=
  List.filter_eq_self.2 fun k hk => by simpa [Lane.arrivedAt] using h k hk

theorem releaseWaits_of_not_held {s : State} {x : IC} {sc : Scope} (h : ¬ ArrivalHeld sc s x) : s.releaseWaits x sc = false := by
  simp only [ArrivalHeld, not_or] at h
  obtain ⟨hloads, hqueue, hmatrix, hstores⟩ := h
  simp only [State.releaseWaits, State.wordsOut, Bool.or_eq_false_iff]
  refine ⟨⟨⟨?_, by simpa using hqueue⟩, ?_⟩, ?_⟩
  · simpa using hloads
  · simpa using hmatrix
  · by_cases hrank : Scope.core.rank < sc.rank
    · simpa [hrank] using fun hs => hstores ⟨hrank, .inl hs⟩
    · simp [hrank]

theorem commitWaits_of_not_held {s : State} {x : IC} {sc : Scope} (h : ¬ ArrivalHeld sc s x) :
    (decide (Scope.core.rank < sc.rank) && s.commitWaits x.p.id) = false := by
  simp only [ArrivalHeld, not_or] at h
  obtain ⟨-, -, -, hstores⟩ := h
  by_cases hrank : Scope.core.rank < sc.rank
  · simpa [hrank] using fun hs => hstores ⟨hrank, .inr hs⟩
  · simp [hrank]

/-- What the arrival of a word's lanes does, with the park of a `bsync` after it. -/
def arrival (f : EF) (sync : Bool) (x : IC) (y : State) : State :=
  let idx := barIdx f.scope f.tag.toNat
  let go (z : State) : State :=
    let z1 := (z.spread x.w.core f.scope).arriveLanes x idx x.lanes
    if sync then (z1.addParts x.w.id x.track x.lanes.length).modWeft x.w.id (fun w => w.park x.lanes (.barrier idx (x.p.phase idx) x.track))
    else z1
  if Scope.core.rank < f.scope.rank then y.committed x.p.id go else go y

theorem arriveWord_performs {i : Instr} {f : EF} {sync : Bool} (he : ∀ s, exec i s = arriveWord i.view f sync s) :
    Performs i false (fun s x => x.p.isMember f.scope f.tag.toNat = true ∧ IC.Fresh x (barIdx f.scope f.tag.toNat) ∧
      ¬ ArrivalHeld f.scope s x) (arrival f sync) := by
  refine performs_active he fun s x hl ⟨hmember, hfresh, hheld⟩ => ?_
  have hactive : ¬ x.lanes.isEmpty = true := by simpa using hl
  simp only [hmember, hasArrived_of_fresh hfresh, notArrived_of_fresh hfresh, releaseWaits_of_not_held hheld,
    commitWaits_of_not_held hheld, modWeft_park_nil, Bool.not_true, if_neg hactive, Bool.false_eq_true, if_false]
  exact ⟨_, rfl, rfl⟩

/-- A `bwait` none of whose lanes has arrived in the current phase completes. -/
theorem bwait_completes {c : Common} {f : EF} {s : State} {sw : SlotWord} {x : IC} (h : Due s sw x (Instr.bwait c f).view false)
    (hmember : x.p.isMember f.scope f.tag.toNat = true) (hfresh : IC.Fresh x (barIdx f.scope f.tag.toNat)) :
    Completes (.bwait c f) s sw x noMore [] [] := by
  have hactive : ¬ x.lanes.isEmpty = true := by simpa using h.active
  refine runWord_pass h (f := fun _ y => y) ?_ fun _ => rfl
  simp only [hmember, hasArrived_of_fresh hfresh, notArrived_of_fresh hfresh, modWeft_park_nil, Bool.not_true, if_neg hactive,
    Bool.false_eq_true, if_false]

/-- The fault MEMBER. -/
def notMember : LFault := ⟨.member, 0, 0, 0, 0⟩

theorem arriveWord_raises {s : State} {sw : SlotWord} {x : IC} {v : View} {f : EF} (sync : Bool) (h : Due s sw x v false)
    (hmember : x.p.isMember f.scope f.tag.toNat = false) :
    arriveWord v f sync s = .next ((s.ready sw).faultLanes x.w.id x.pc x.hdr .load (x.lanes.map (fun k => (k, notMember)))) := by
  refine runWord_raise h ?_
  simp only [hmember, Bool.not_false, if_true]
  rfl

theorem bwait_raises {c : Common} {s : State} {sw : SlotWord} {x : IC} {f : EF} (h : Due s sw x (Instr.bwait c f).view false)
    (hmember : x.p.isMember f.scope f.tag.toNat = false) :
    exec (.bwait c f) s =
      .next ((s.ready sw).faultLanes x.w.id x.pc x.hdr .load (x.lanes.map (fun k => (k, notMember)))) := by
  refine runWord_raise h ?_
  simp only [hmember, Bool.not_false, if_true]
  rfl

/-! ### Deciding a completion (R161, R359) -/

section
variable {s : State} {b : BarrierName}

theorem not_decided_of_no_marks (h : (s.barMembers b).filter (fun q => (q.1.bars.getD (recIdx b) BarRec.nil).decided) = []) :
    s.decided b = false := by
  rw [State.decided, List.any_eq_false]
  exact List.filter_eq_nil_iff.1 h

theorem decided_of_marks (h : (s.barMembers b).filter (fun q => (q.1.bars.getD (recIdx b) BarRec.nil).decided) ≠ []) :
    s.decided b = true := by
  obtain ⟨q, hq⟩ := List.exists_mem_of_ne_nil _ h
  obtain ⟨hmem, hmark⟩ := List.mem_filter.1 hq
  exact List.any_eq_true.2 ⟨q, hmem, hmark⟩

theorem decideBar_of_not_done (h : s.phaseDone b = false) : s.decideBar b = s := by
  simp [State.decideBar, h]

/-- A panel whose barrier's completion is decided. -/
def decidedPanel (b : BarrierName) (p : Panel) : Panel := { p with bars := p.bars.modify (recIdx b) (fun r => { r with decided := true }) }

theorem decidedPanel_decided {p : Panel} (h : recIdx b < p.bars.length) :
    ((decidedPanel b p).bars.getD (recIdx b) BarRec.nil).decided = true := by
  simp [decidedPanel, List.getD_eq_getElem?_getD, h]

/-- The members' panels once their completion is decided. -/
def decidedPanels (s : State) (b : BarrierName) (p : Panel) : Panel :=
  if ((s.barMembers b).map (fun q => q.1.id)).contains p.id then decidedPanel b p else p

theorem decideBar_of_done (hd : s.decided b = false) (h : s.phaseDone b = true) :
    s.decideBar b = { s with
      panels := s.panels.map (decidedPanels s b)
      saved := s.saved.map (fun v => { v with panel := decidedPanels s b v.panel }) } := by
  simp only [State.decideBar, hd, h, Bool.not_true, Bool.or_self, Bool.false_eq_true, if_false]
  rfl

theorem decideBar_panel (hd : s.decided b = false) (h : s.phaseDone b = true) {p : Panel} (hp : p ∈ s.panels)
    (hmember : p.id ∈ (s.barMembers b).map (fun q => q.1.id)) : decidedPanel b p ∈ (s.decideBar b).panels := by
  rw [decideBar_of_done hd h]
  refine List.mem_map.2 ⟨p, hp, ?_⟩
  rw [decidedPanels, if_pos (List.contains_iff_mem.2 hmember)]

theorem barrierComplete_decides (hd : s.decided b = false) : exec (.barrierComplete b) s = .next (s.decideBar b) :=
  show execBarrierComplete b s = _ by simp [execBarrierComplete, hd]

theorem barrierComplete_completes (hd : s.decided b = true)
    (h : ∀ q ∈ (s.barMembers b).filter (fun q => (q.1.bars.getD (recIdx b) BarRec.nil).decided), q.1.launch.replay = false) :
    let marks := (s.barMembers b).filter (fun q => (q.1.bars.getD (recIdx b) BarRec.nil).decided)
    exec (.barrierComplete b) s = .next (marks.foldl (fun y q => y.nextPhase (recIdx b) q)
      (marks.foldl (fun y q => y.spread q.1.core (barScope b)) s)) := by
  intro marks
  have hreplay : (marks.map (·.1)).filter (fun p => p.launch.replay && s.panels.any (fun q => q.id == p.id)) = [] := by
    refine List.filter_eq_nil_iff.2 fun p hp => ?_
    obtain ⟨q, hq, rfl⟩ := List.mem_map.1 hp
    simp [h q hq]
  show execBarrierComplete b s = _
  simp only [execBarrierComplete, hd, Bool.not_true, Bool.false_eq_true, if_false]
  rw [hreplay]
  simp [marks]

end

/-! ### The next phase (R161) -/

section
variable {s : State} {idx : Nat} {q : Panel × List Weft}

/-- A member's panel in its next phase. -/
def nextPanel (idx : Nat) (q : Panel × List Weft) (p : Panel) : Panel :=
  if p.id = q.1.id then { p with bars := p.bars.modify idx (fun r => { r with phase := q.1.phase idx + 1, decided := false }) } else p
/-- A weft as its panel's next phase begins: a member's waiting lanes go on. -/
def nextWeft (idx : Nat) (q : Panel × List Weft) (w : Weft) : Weft :=
  if q.2.any (fun x => x.id == w.id) then w.phaseWake idx (q.1.phase idx) else w

theorem nextWeft_id (w : Weft) : (nextWeft idx q w).id = w.id := by
  unfold nextWeft
  split <;> rfl

/-- The phase goes on and the lanes wake; then the flags of what waited fall. -/
theorem nextPhase_eq (s : State) (idx : Nat) (q : Panel × List Weft) :
    s.nextPhase idx q = q.2.foldl (fun y w => (w.phaseTracks idx (q.1.phase idx)).foldl (fun z t => z.partDone w.id t) y)
      { s with
        panels := s.panels.map (nextPanel idx q)
        wefts := s.wefts.map (nextWeft idx q)
        saved := s.saved.map (fun v => { v with panel := nextPanel idx q v.panel, wefts := v.wefts.map (nextWeft idx q) }) } := rfl

/-- What the end of parts keeps, the step to the next phase keeps from its first part on. -/
theorem nextPhase_keeps {α : Type} (g : State → α) (h : ∀ y w id, g (y.partDone w id) = g y) (s : State) (idx : Nat) (q : Panel × List Weft) :
    g (s.nextPhase idx q) = g { s with
        panels := s.panels.map (nextPanel idx q)
        wefts := s.wefts.map (nextWeft idx q)
        saved := s.saved.map (fun v => { v with panel := nextPanel idx q v.panel, wefts := v.wefts.map (nextWeft idx q) }) } := by
  rw [nextPhase_eq]
  exact foldl_keeps g (fun y (w : Weft) => foldl_keeps g (fun z t => h z w.id t) _ y) _ _

/-- The end of a part leaves the lanes of every weft. -/
theorem lanes_partDone (s : State) (v id w : Nat) : ((s.partDone v id).weft w).lanes = (s.weft w).lanes := by
  by_cases hwv : w = v
  · subst hwv
    by_cases hw : s.hasWeft w = true
    · rw [partDone_weft hw, weft_partDone_lanes]
    · have hmissing : (s.partDone w id).hasWeft w = false :=
        (hasWeft_modWeft (s := s) (fun y => weft_partDone_id y id)).trans (by simpa using hw)
      rw [weft_missing hmissing, weft_missing (by simpa using hw)]
  · rw [partDone_weft_ne hwv]

theorem nextPhase_lanes {w : Nat} (hw : s.hasWeft w = true) :
    ((s.nextPhase idx q).weft w).lanes = (nextWeft idx q (s.weft w)).lanes := by
  rw [nextPhase_keeps (fun y => (y.weft w).lanes) fun y v id => lanes_partDone y v id w]
  exact congrArg Weft.lanes (weft_of_map rfl nextWeft_id hw)

theorem nextWeft_of_not_member {w : Weft} (h : ∀ v ∈ q.2, v.id ≠ w.id) : nextWeft idx q w = w :=
  if_neg fun hany => by
    obtain ⟨v, hv, hid⟩ := List.any_eq_true.1 hany
    exact h v hv (by simpa using hid)

theorem nextWeft_of_member {v w : Weft} (hv : v ∈ q.2) (h : v.id = w.id) : nextWeft idx q w = w.phaseWake idx (q.1.phase idx) :=
  if_pos (List.any_eq_true.2 ⟨v, hv, by simp [h]⟩)

theorem nextPanel_id (p : Panel) : (nextPanel idx q p).id = p.id := by
  unfold nextPanel
  split <;> rfl

/-- A change of every panel that keeps their ids, read at a panel's id. -/
theorem panel_of_map {t : State} {f : Panel → Panel} (h : t.panels = s.panels.map f) (hid : ∀ y, (f y).id = y.id) (hnil : f Panel.nil = Panel.nil)
    (p : Nat) : t.panel p = f (s.panel p) := by
  have hcomp : ((fun x : Panel => x.id == p) ∘ f) = fun x => x.id == p := funext fun y => by rw [Function.comp_apply, hid]
  simp only [State.panel, h, List.find?_map, hcomp]
  cases s.panels.find? (fun x => x.id == p) <;> simp [hnil]

/-- The end of a part changes of a panel its checkpoint alone. -/
theorem panel_bars_partDone (s : State) (w id p : Nat) : ((s.partDone w id).panel p).bars = (s.panel p).bars := by
  rw [panel_of_map (t := s.partDone w id) rfl (fun y => by split <;> rfl) rfl]
  split <;> rfl

theorem nextPhase_panel_bars {p : Panel} (hp : p ∈ s.panels) :
    ((s.nextPhase idx q).panel p.id).bars = (nextPanel idx q (s.panel p.id)).bars := by
  rw [nextPhase_keeps (fun y => (y.panel p.id).bars) fun y w id => panel_bars_partDone y w id p.id]
  have hcomp : ((fun x : Panel => x.id == p.id) ∘ nextPanel idx q) = fun x => x.id == p.id :=
    funext fun y => by rw [Function.comp_apply, nextPanel_id]
  have hsome : (s.panels.find? (fun x => x.id == p.id)).isSome = true := List.find?_isSome.2 ⟨p, hp, by simp⟩
  obtain ⟨y, hy⟩ := Option.isSome_iff_exists.1 hsome
  simp only [State.panel, List.find?_map, hcomp, hy, Option.map_some, Option.getD_some]

theorem panel_id_of_mem {p : Panel} (hp : p ∈ s.panels) : (s.panel p.id).id = p.id := by
  have hsome : (s.panels.find? (fun x => x.id == p.id)).isSome = true := List.find?_isSome.2 ⟨p, hp, by simp⟩
  obtain ⟨y, hy⟩ := Option.isSome_iff_exists.1 hsome
  simpa [State.panel, hy] using List.find?_some hy

theorem nextPanel_phase {p : Panel} (hid : p.id = q.1.id) (hidx : idx < p.bars.length) :
    (nextPanel idx q p).phase idx = q.1.phase idx + 1 := by
  simp [nextPanel, hid, Panel.phase, List.getD_eq_getElem?_getD, hidx]

end

/-! ### O41 -/

/-- Settles O41: an arriving word passes every check when its lanes are fresh; the completion is decided, then steps each member on. -/
theorem barriers : Obligations.Barriers := by
  unfold Obligations.Barriers
  refine ⟨fun c f => ⟨?_, ?_, fun s sw x h hmember hfresh => bwait_completes h hmember hfresh, ?_⟩, fun s b => ⟨fun hmarks => ?_, ?_⟩,
    fun s idx q => ⟨?_, ?_, fun p hp hid hidx => ?_, fun w hw hne => ?_, fun v hv hw i => ?_⟩⟩
  · exact performs_congr (arriveWord_performs (sync := false) fun _ => rfl) (fun _ _ h => h) fun _ _ => rfl
  · exact performs_congr (arriveWord_performs (sync := true) fun _ => rfl) (fun _ _ h => h) fun _ _ => rfl
  · intro i hi s sw x h hmember
    obtain rfl | rfl | rfl : i = .arrive c f ∨ i = .bsync c f ∨ i = .bwait c f := by simpa using hi
    · exact arriveWord_raises false h hmember
    · exact arriveWord_raises true h hmember
    · exact bwait_raises h hmember
  · have hd := not_decided_of_no_marks hmarks
    refine ⟨barrierComplete_decides hd, decideBar_of_not_done, fun hdone => ⟨fun p hp hmember hidx => ?_, ?_⟩⟩
    · exact ⟨decidedPanel b p, decideBar_panel hd hdone hp hmember, rfl, rfl, decidedPanel_decided hidx⟩
    · rw [decideBar_of_done hd hdone]
      exact ⟨rfl, rfl, rfl⟩
  · exact fun hmarks hreplay => barrierComplete_completes (decided_of_marks hmarks) hreplay
  · exact nextPhase_keeps State.mem (fun _ _ _ => rfl) s idx q
  · exact nextPhase_keeps State.cores (fun _ _ _ => rfl) s idx q
  · rw [Panel.phase, nextPhase_panel_bars hp]
    exact nextPanel_phase ((panel_id_of_mem hp).trans hid) hidx
  · rw [nextPhase_lanes hw, nextWeft_of_not_member]
    rw [weft_id hw]
    exact hne
  · rw [weft_lane_congr (nextPhase_lanes hw), nextWeft_of_member hv (weft_id hw).symm, Weft.phaseWake, lane_unpark]
    congr 1
    funext p
    cases p <;> rfl

end Sys2Proof.Proofs
end

section
/-! SUPPORT. Words of the task queues and of the network engine (O42): words that enter the store queue lane by lane, `deq` and `nwait`. -/
namespace Sys2Proof.Proofs
open Sys2Proof Sys2Proof.Machine

/-! ### Words all of whose lanes pass their operands -/

theorem filter_unpoisoned {ls : List Nat} {pz : Nat → Bool} (h : ∀ k ∈ ls, pz k = false) : ls.filter (fun k => !pz k) = ls :=
  List.filter_eq_self.2 fun k hk => by simp [h k hk]

theorem filter_poisoned {ls : List Nat} {pz : Nat → Bool} (h : ∀ k ∈ ls, pz k = false) : ls.filter pz = [] :=
  List.filter_eq_nil_iff.2 fun k hk => by simp [h k hk]

/-- A lane's step at a home, which enters the store queue, and for which the lane waits (R363, R380). -/
def enterStep (x : IC) (op : IC → Nat → State → SqOp × List Nat) (k : Nat) (z : State) : State :=
  let q := op x k z
  let z1 := (z.addParts x.w.id x.track 1).modWeft x.w.id (fun w => (w.addUnknown z.nextId q.2).park [k] (.step x.track))
  ({ z1 with nextId := z.nextId + 1 } : State).enqueue x.w.id k x.track x.sys x.pc x.hdr q.1

theorem stepWord_performs {i : Instr} {pz : IC → Nat → Bool} {op : IC → Nat → State → SqOp × List Nat}
    (he : ∀ s, exec i s = stepWord i.view pz op s) :
    Performs i false (fun _ x => ∀ k ∈ x.lanes, pz x k = false) (fun x => x.each (enterStep x op)) := by
  refine performs_part he fun s x hpz => ?_
  simp only [filter_unpoisoned hpz, filter_poisoned hpz]
  exact ⟨_, rfl, rfl⟩

theorem foreignBar_of_member {x : IC} {f : EF} (h : f.bar = true → x.p.isMember f.scope f.tag.toNat = true) :
    x.foreignBar (efBarrier f) = false := by
  cases hbar : f.bar <;> simp [IC.foreignBar, efBarrier, hbar, h]

/-- A lane's command, which enters the store queue, and for whose acceptance the lane waits (R349, R366). -/
def enterCommand (x : IC) (cmd : Nat → State → SqOp) (k : Nat) (z : State) : State :=
  ((z.addParts x.w.id x.track 1).enqueue x.w.id k x.track x.sys x.pc x.hdr (cmd k z)).modWeft x.w.id (fun w => w.park [k] (.step x.track))

theorem engineWord_performs {i : Instr} {f : EF} {kind : FutKind} {pz : IC → Nat → Bool} {cmd : IC → Option FutRef → Nat → State → SqOp}
    (he : ∀ s, exec i s = engineWord i.view f kind pz cmd s) :
    Performs i false
      (fun s x => (f.bar = true → x.p.isMember f.scope f.tag.toNat = true) ∧ x.awaits = false ∧ s.futureHeld x f.h.toNat kind = false ∧
        ∀ k ∈ x.lanes, pz x k = false)
      (fun x y =>
        let m := y.makeFuture x f.h.toNat kind x.lanes.length
        x.each (enterCommand x (cmd x m.2)) m.1) := by
  refine performs_part he fun s x ⟨hmember, hawaits, hheld, hpz⟩ => ?_
  simp only [foreignBar_of_member hmember, hawaits, hheld, filter_unpoisoned hpz, filter_poisoned hpz, Bool.or_self, Bool.false_eq_true,
    if_false]
  exact ⟨_, rfl, rfl⟩

/-- The post of a lane of an `npost`. -/
def postOp (f : EF) (x : IC) (r : Option FutRef) (k : Nat) (z : State) : SqOp :=
  .post f.q.toNat ⟨z.nextId, x.p.id, x.w.id, k, x.sys, x.p.ctx, [], x.addr f.a k, f.swz.toNat, f.ds, efBarrier f, r, 0, 0, none, false, false,
    none⟩

theorem npost_performs (c : Common) (f : EF) :
    Performs (.npost c f) false
      (fun s x => (f.bar = true → x.p.isMember f.scope f.tag.toNat = true) ∧ x.awaits = false ∧ s.futureHeld x f.h.toNat .post = false ∧
        ∀ k ∈ x.lanes, x.pz true f.a k = false)
      (fun x y =>
        let m := y.makeFuture x f.h.toNat .post x.lanes.length
        x.each (enterCommand x (postOp f x m.2)) m.1) :=
  engineWord_performs (pz := fun x k => x.pz true f.a k) (cmd := postOp f) fun _ => rfl

/-! ### `deq` (R365) -/

/-- Each lane of a `deq` becomes a requester under one future, and the queues that they ask serve. -/
def request (f : EF) (q : Nat → Seg) (x : IC) (y : State) : State :=
  y.committed x.p.id (fun z =>
    let m := z.makeFuture x f.h.toNat .deq x.lanes.length
    match m.2 with
    | none => m.1
    | some r =>
      let d := match f.d with
        | .v n => n.toNat
        | _ => 0
      let z1 : State := { m.1 with deqs := m.1.deqs ++ x.lanes.map (fun k => ⟨x.track, x.w.id, x.p.id, k, q k, x.p.ctx, r, d⟩) }
      ((x.lanes.map q).eraseDups).foldl (fun u seg => u.queueStep x.p.ctx seg stepFuel) z1)

theorem deq_performs (c : Common) (f : EF) (q : Nat → Desc × Seg × Nat × List Loc) :
    Performs (.deq c f) false
      (fun s x => s.futureHeld x f.h.toNat .deq = false ∧ x.awaits = false ∧ s.commitWaits x.p.id = false ∧
        ∀ k ∈ x.lanes, x.pz true f.a k = false ∧ s.check (s.reqOf x.w.id k) .dequeue (x.addr f.a k) 0 64 64 = .ok (q k))
      (request f (fun k => (q k).2.1)) := by
  refine performs_part (fun _ => rfl) fun s x ⟨hheld, hawaits, hcommit, hlanes⟩ => ?_
  have hpz : ∀ k ∈ x.lanes, x.pz true f.a k = false := fun k hk => (hlanes k hk).1
  have hsort : sortLanes (fun i => (s.check (s.reqOf x.w.id i) .dequeue (x.addr f.a i) 0 64 64).map (fun r => r.2.1)) x.lanes =
      (x.lanes.map (fun k => (k, (q k).2.1)), [], []) :=
    sortLanes_ok fun k hk => by rw [(hlanes k hk).2]; rfl
  simp only [filter_unpoisoned hpz, filter_poisoned hpz, hsort, hheld, hawaits, hcommit, Bool.or_self, Bool.and_false, List.isEmpty_nil,
    Bool.not_true, Bool.false_eq_true, if_false, List.map_map, Function.comp_def, List.map_id', List.length_map]
  refine ⟨_, rfl, ?_⟩
  funext u
  rw [request]
  congr 1
  funext z
  split <;> rename_i hm <;> simp only [hm]
  cases f.d <;> rfl

/-! ### `nwait` (R366) -/

theorem any_poison_eq_false {bs : List (Byte × Bool)} (h : ∀ b ∈ bs, b.2 = false) : bs.any (·.2) = false :=
  List.any_eq_false.2 fun b hb => by simp [h b hb]

section
variable {s : State} {sw : SlotWord} {x : IC} {c : Common} {f : EF} {q : Desc × Seg × Nat × List Loc}
variable (h : Due s sw x (Instr.nwait c f).view false) (ha : x.pz true f.a x.agent = false) (hb : x.pz true f.b x.agent = false)
  (hw : x.awaits = false) (hq : (s.ready sw).check ((s.ready sw).reqOf x.w.id x.agent) .load (x.addr f.a x.agent) 0 8 8 = .ok q)
  (hclean : ∀ b ∈ q.2.2.2.map (fun l => (s.ready sw).laneByte x.w.id l), b.2 = false)
include h ha hb hw hq hclean

/-- A word that is at least the operand lets the lanes go on. -/
theorem nwait_passes (hle : (x.rd true f.b x.agent).toNat ≤
      leNat ((q.2.2.2.map (fun l => (s.ready sw).laneByte x.w.id l)).map (·.1))) :
    ∃ t, exec (.nwait c f) s = .next t ∧ Wrote (s.ready sw) t x c noMore [] [] := by
  refine ⟨_, runWord_go h (f := id) ?_, ?_⟩
  · simp only [ha, hb, hw, hq, any_poison_eq_false hclean, Bool.or_self, Bool.false_eq_true, if_false, if_pos hle]
  · have hwrote := perform_tracked h.reading c [] [] noMore (e := id) (fun _ => by rfl) (fun _ => by rfl) (fun _ => by rfl)
    simp only [mapLanes_noMore, modWeft_self] at hwrote
    exact hwrote

/-- The lanes wait at a word below the operand. -/
theorem nwait_waits (hlt : leNat ((q.2.2.2.map (fun l => (s.ready sw).laneByte x.w.id l)).map (·.1)) <
      (x.rd true f.b x.agent).toNat) :
    exec (.nwait c f) s = .next (((s.ready sw).atWord x).modWeft x.w.id (fun w => w.park x.lanes .nwait)) := by
  refine runWord_stay h (f := fun y => y.modWeft x.w.id (fun w => w.park x.lanes .nwait)) ?_
  simp only [ha, hb, hw, hq, any_poison_eq_false hclean, Bool.or_self, Bool.false_eq_true, if_false, if_neg (Nat.not_le.2 hlt)]

end

/-! ### O42 -/

/-- Settles O42: the words of O42 but `deq` and `nwait` enter the store queue lane by lane. -/
theorem taskAndPostWords : Obligations.TaskAndPostWords := by
  unfold Obligations.TaskAndPostWords
  refine fun c f => ⟨?_, ?_, ?_, fun q => deq_performs c f q, ?_, fun s sw x q h ha hb hw hq hclean => ⟨?_, ?_⟩⟩
  · refine performs_congr (stepWord_performs fun _ => rfl) (fun _ x hx k hk => ?_) fun _ _ => rfl
    obtain ⟨haddr, hrecord⟩ := hx k hk
    rw [haddr, any_poison_eq_false hrecord]
    rfl
  · refine performs_congr (stepWord_performs fun _ => rfl) (fun _ x hx k hk => ?_) fun _ _ => rfl
    obtain ⟨haddr, hvalue⟩ := hx k hk
    rw [haddr, hvalue]
    rfl
  · refine performs_congr (stepWord_performs fun _ => rfl) (fun _ x hx k hk => ?_) fun _ _ => rfl
    obtain ⟨haddr, hvalue⟩ := hx k hk
    rw [haddr, hvalue]
    rfl
  · exact npost_performs c f
  · exact nwait_passes h ha hb hw hq hclean
  · exact nwait_waits h ha hb hw hq hclean

end Sys2Proof.Proofs
end

section
/-! SUPPORT. Dependence counters and task queues (O43): a step at a counter, at a ring, the service of a requester, and a steal. -/
namespace Sys2Proof.Proofs
open Sys2Proof Sys2Proof.Machine

/-! ### Steps at a counter (R362) -/

section
variable {s : State} {r : Req} {a : DWord} {seg : Seg} {off : Nat} {k : Counter}

theorem dcaddStep_eq {b : Word} (h : s.counterAt r .counterAdd a = .ok (seg, off, k)) :
    let n : Counter := { k with count := (k.count + b.toNat) % 2 ^ 24 }
    let put := s.deviceWrite r.ctx seg off 8 n.word
    s.dcaddStep r a b = .ok (k.count, if n.count = 0 ∧ k.count ≠ 0 then put.release r a seg off n else put) := by
  simp only [State.dcaddStep, h]

theorem dcinitStep_eq {b : DWord} (h : s.counterAt r .counterSet a = .ok (seg, off, k)) :
    let n : Counter := ⟨if k.list = noRec then (b.extractLsb' 40 24).toNat else k.qseg, k.list, (b.extractLsb' 0 24).toNat⟩
    let put := s.deviceWrite r.ctx seg off 8 n.word
    s.dcinitStep r a b = .ok (if n.count = 0 then put.release r a seg off n else put) := by
  simp only [State.dcinitStep, h, bitsOf_toNat]

theorem release_of_no_list (h : k.list = noRec) : s.release r a seg off k = s := by
  rw [State.release, if_pos h]

end

/-! ### Steps at a queue (R360, R363, R365) -/

section
variable {s : State} {c : CtxId} {seg : Seg}

/-- A header with a reserved byte set is malformed. -/
theorem tq_of_reserved {d : Desc} {ls : List Loc} (h : s.deviceLocs c .dequeue seg 0 64 = .ok (d, ls)) (hset : s.leAt (ls.drop 16) ≠ 0) :
    s.tq c seg = .ok none := by
  simp only [State.tq, h]
  rw [if_pos (.inr (.inl hset))]

variable {r : Req} {a : DWord} {bs : List Byte} {q : TaskQ}

theorem ringPut_of_malformed (h : s.tq r.ctx seg = .ok none) : s.ringPut r a seg bs = .error (qfull 2 a) := by
  simp only [State.ringPut, h]

theorem ringPut_of_full (h : s.tq r.ctx seg = .ok (some q)) (hfull : q.occ = 2 ^ q.log2n) :
    s.ringPut r a seg bs = .error (qfull 1 a) := by
  simp only [State.ringPut, h, if_pos hfull]

theorem ringPut_of_room (h : s.tq r.ctx seg = .ok (some q)) (hroom : q.occ ≠ 2 ^ q.log2n) {old : List (Byte × Bool)}
    (hold : s.recAt r.ctx seg (q.ring q.tail) = .ok old) :
    s.ringPut r a seg bs = .ok (((s.putRec r.ctx seg (q.ring q.tail) (bs.map (fun b => (b, false)))).putTq r.ctx seg
      { q with tail := (q.tail + 1) % 65536 }).queueStep r.ctx seg stepFuel) := by
  simp only [State.ringPut, h, if_neg hroom, hold]

/-- The record at HEAD goes to the oldest requester. -/
theorem serveOne_of_record {d : Deq} {rec : List (Byte × Bool)} (h : s.tq? c seg = some q) (hd : s.nextDeq c seg = some d)
    (hocc : q.occ ≠ 0) (hrec : s.recAt c seg (q.ring q.head) = .ok rec) :
    s.serveOne c seg = some ((s.putTq c seg { q with head := (q.head + 1) % 65536 }).giveRec d rec) := by
  simp only [State.serveOne, h, hd, if_neg hocc, hrec]

/-- A die scheduler steals half of its fullest saturated queue (R382). -/
theorem stealStep_steals {die : Nat} {d : Desc} (hs : s.schedules die = true) (hq : s.saturated die = some (c, seg, q))
    (hd : s.readDesc c seg = .ok d) :
    exec (.stealStep die) s =
      .next (((s.thieves die c d).take (q.occ / 2)).foldl (fun y t => (y.stealOne c seg t).queueStep c seg stepFuel) s) := by
  show execStealStep die s = _
  simp only [execStealStep, hs, Bool.not_true, Bool.false_eq_true, if_false, hq, hd]

end

/-! ### O43 -/

/-- Settles O43: each step by the case of its definition that its hypotheses choose. -/
theorem queueAndCounterSteps : Obligations.QueueAndCounterSteps := by
  unfold Obligations.QueueAndCounterSteps
  refine ⟨fun s r a seg off k => ⟨fun b h => dcaddStep_eq h, fun b h => dcinitStep_eq h, fun n h => release_of_no_list h⟩,
    fun s c seg d ls h hset => tq_of_reserved h hset,
    fun s r a seg bs => ⟨ringPut_of_malformed, fun q h => ⟨ringPut_of_full h, fun hroom old hold => ringPut_of_room h hroom hold⟩⟩,
    fun s c seg q d bs h hd hocc hrec => serveOne_of_record h hd hocc hrec,
    fun s die c seg q d hs hq hd => stealStep_steals hs hq hd⟩

end Sys2Proof.Proofs
end

section
/-! SUPPORT. System words (O45): system registers, trace records, `chkerr`, shootdowns and publications. -/
namespace Sys2Proof.Proofs
open Sys2Proof Sys2Proof.Machine

/-! ### Contexts -/

section
variable {s t : State} {c : CtxId}

theorem ctx_congr (h : t.ctxs = s.ctxs) (q : CtxId) : t.ctx q = s.ctx q := by
  rw [State.ctx, h, State.ctx]

/-- A context changed reads as changed, where there is one. -/
theorem ctx_modCtx_self {f : Ctx → Ctx} (hid : ∀ q, (f q).id = q.id) (h : ∃ q ∈ s.ctxs, q.id = c) : (s.modCtx c f).ctx c = f (s.ctx c) := by
  have hcomp : ((fun x : Ctx => x.id == c) ∘ fun x => if x.id = c then f x else x) = fun x => x.id == c := by
    funext x
    by_cases hx : x.id = c <;> simp [hx, hid]
  obtain ⟨q, hq, hqc⟩ := h
  have hsome : (s.ctxs.find? (fun x => x.id == c)).isSome = true := List.find?_isSome.2 ⟨q, hq, by simpa using hqc⟩
  obtain ⟨y, hy⟩ := Option.isSome_iff_exists.1 hsome
  have hyc : y.id = c := by simpa using List.find?_some hy
  simp only [State.ctx, State.modCtx, List.find?_map, hcomp, hy, Option.map_some, Option.getD_some, if_pos hyc]

/-- A change of a context that keeps its identifier and CIR keeps every CIR. -/
theorem cir_modCtx {f : Ctx → Ctx} (hid : ∀ q, (f q).id = q.id) (hcir : ∀ q, (f q).cir = q.cir) (q : CtxId) :
    ((s.modCtx c f).ctx q).cir = (s.ctx q).cir := by
  have hcomp : ((fun x : Ctx => x.id == q) ∘ fun x => if x.id = c then f x else x) = fun x => x.id == q := by
    funext x
    by_cases hx : x.id = c <;> simp [hx, hid]
  simp only [State.ctx, State.modCtx, List.find?_map, hcomp]
  cases s.ctxs.find? (fun x => x.id == q) with
  | none => rfl
  | some y => by_cases hy : y.id = c <;> simp [hy, hcir]

theorem hasCtx_modCtx {f : Ctx → Ctx} (hid : ∀ q, (f q).id = q.id) {d : CtxId} (h : ∃ q ∈ s.ctxs, q.id = c) :
    ∃ q ∈ (s.modCtx d f).ctxs, q.id = c := by
  obtain ⟨q, hq, hqc⟩ := h
  refine ⟨if q.id = d then f q else q, List.mem_map.2 ⟨q, hq, rfl⟩, ?_⟩
  split <;> simp [hid, hqc]

theorem cir_modCount (d : CtxId) (k : Nat) (f : Nat → Nat) (q : CtxId) : ((s.modCount d k f).ctx q).cir = (s.ctx q).cir :=
  cir_modCtx (fun _ => by rfl) (fun _ => by rfl) q

theorem hasCtx_modCount (d : CtxId) (k : Nat) (f : Nat → Nat) (h : ∃ q ∈ s.ctxs, q.id = c) : ∃ q ∈ (s.modCount d k f).ctxs, q.id = c :=
  hasCtx_modCtx (fun _ => by rfl) h

/-- The issue of a word counts it in its context, and keeps every CIR. -/
theorem cir_issued (x : IC) (k : Common) (q : CtxId) : ((s.issued x k).ctx q).cir = (s.ctx q).cir := by
  show (((s.modWeft x.w.id _).countIssue x).ctx q).cir = _
  simp only [State.countIssue]
  split <;> simp only [cir_modCount] <;> rfl

theorem hasCtx_issued (x : IC) (k : Common) (h : ∃ q ∈ s.ctxs, q.id = c) : ∃ q ∈ (s.issued x k).ctxs, q.id = c := by
  show ∃ q ∈ ((s.modWeft x.w.id _).countIssue x).ctxs, _
  simp only [State.countIssue]
  split <;> exact hasCtx_modCount _ _ _ (hasCtx_modCount _ _ _ (hasCtx_modCount _ _ _ h))

end

/-! ### `sysr` and `sysw` (R367) -/

theorem sysr_writes {c : Common} {f : SF} {s : State} {sw : SlotWord} {x : IC} (h : Due s sw x (Instr.sysr c f).view (!f.sreg.readable)) :
    ∃ t, exec (.sysr c f) s = .next t ∧
      Wrote (s.ready sw) t x c noMore (wordWrites true f.d x.lanes (fun k => BitVec.ofNat 64 ((s.ready sw).sysVal x f.sreg k))) [] := by
  refine ⟨_, runWord_go h rfl, ?_⟩
  have hwrote := perform_tracked h.reading c (wordWrites true f.d x.lanes (fun k => BitVec.ofNat 64 ((s.ready sw).sysVal x f.sreg k))) []
    noMore (e := id) (fun _ => by rfl) (fun _ => by rfl) (fun _ => by rfl)
  simp only [mapLanes_noMore, modWeft_self] at hwrote
  exact hwrote

/-- The effect of the write of a system register, its fields as bits of the value. -/
def setRegister (r : SReg) (v : DWord) (x : IC) (y : State) : State :=
  match r with
  | .ctxid => y.renameCtx x.p.ctx (v.setWidth 16)
  | .owner => y.modCtx x.p.ctx (fun q => { q with func := (v.extractLsb' 16 4).toNat, tag := v.extractLsb' 0 12 })
  | .cir => y.modCtx x.p.ctx (fun q => { q with cir := v })
  | .trapv => y.modCtx x.p.ctx (fun q => { q with trapv := v.extractLsb' 40 24 })
  | .prio => y.modCtx x.p.ctx (fun q => { q with prio := v.toNat })
  | .xinva => y.modCore x.w.core (fun k => { k with xinva := v })
  | .mqs n => (y.modCore x.w.core (fun k => { k with mqs := k.mqs.set n.toNat v })).slotWritten x.w.core n.toNat
  | .xinv =>
    let at_ := (y.core x.w.core).xinva
    let k : Shoot := ⟨y.nextId, (v.extractLsb' 60 4).toNat, v.extractLsb' 32 16, segOf at_, (offOf at_).toNat,
      (v.extractLsb' 0 20).toNat, x.w.id, x.track⟩
    (({ y with shoots := y.shoots ++ [k], nextId := y.nextId + 1 } : State).shoot k).addParts x.w.id x.track 1
  | _ => y

theorem sysSet_eq (s : State) (x : IC) (r : SReg) (v : DWord) : s.sysSet x r v = setRegister r v x s := by
  cases r
  case owner =>
    simp only [State.sysSet, setRegister, bitsOf_toNat, BitVec.ofNat_toNat]
    rfl
  case xinv =>
    simp only [State.sysSet, setRegister, State.startShoot, bitsOf_toNat, BitVec.ofNat_toNat]
    rfl
  all_goals rfl

section
variable {i : Instr} {f : SF}

theorem syswWord_performs (he : ∀ s, exec i s = syswWord i.view f s) :
    Performs i true (fun _ x => x.pz true f.a x.agent = false ∧ sysBad f.sreg (x.rd true f.a x.agent).toNat = false)
      (fun x => setRegister f.sreg (x.rd true f.a x.agent) x) := by
  refine performs_go he fun s x ⟨hpz, hgood⟩ => ?_
  simp only [hpz, hgood, Bool.false_eq_true, if_false, sysSet_eq]

theorem syswWord_raises {s : State} {sw : SlotWord} {x : IC} {v : View} (h : Due s sw x v true) (hpz : x.pz true f.a x.agent = false)
    (hbad : sysBad f.sreg (x.rd true f.a x.agent).toNat = true) :
    syswWord v f s = .next ((s.ready sw).faultLanes x.w.id x.pc x.hdr .load (x.lanes.map (fun k => (k, illFault .field x.pc)))) := by
  refine runWord_raise h ?_
  simp only [hpz, hbad, Bool.false_eq_true, if_false, if_true]

/-- The words that write a system register, all of one meaning. -/
theorem sysw_words {c : Common} (h : i ∈ [Instr.sysw c f, .xinvSeg c f, .xinvPages c f, .xinvCtx c f]) (s : State) :
    exec i s = syswWord i.view f s := by
  obtain rfl | rfl | rfl | rfl : i = .sysw c f ∨ i = .xinvSeg c f ∨ i = .xinvPages c f ∨ i = .xinvCtx c f := by simpa using h
  all_goals rfl

end

/-! ### `trace`, `brk` and `chkerr` (R368 to R370) -/

theorem trace_performs (c : Common) (f : SF) :
    Performs (.trace c f) false (fun _ x => x.pz true f.a x.agent = false)
      (fun x y => y.emit x.w.id 1 f.imm.toNat (maskOf x.lanes) x.pc x.lanes2 x.pc2 (x.rd true f.a x.agent)) := by
  refine performs_go (fun _ => rfl) fun s x hpz => ?_
  simp only [hpz, Bool.false_eq_true, if_false]

section
variable {c : Common} {f : SF} {s : State} {sw : SlotWord} {x : IC}

/-- Without a debugger a `brk` does nothing. -/
theorem brk_completes (h : Due s sw x (Instr.brk c f).view false) (hdebug : (s.ctx x.p.ctx).debug = false) :
    ∃ t, exec (.brk c f) s = .next t ∧ Wrote (s.ready sw) t x c noMore [] [] := by
  refine ⟨_, runWord_go h (f := id) ?_, ?_⟩
  · exact if_pos (by rw [show ((s.ready sw).ctx x.p.ctx).debug = false from hdebug]; rfl)
  · have hwrote := perform_tracked h.reading c [] [] noMore (e := id) (fun _ => by rfl) (fun _ => by rfl) (fun _ => by rfl)
    simp only [mapLanes_noMore, modWeft_self] at hwrote
    exact hwrote

theorem brk_performs (c : Common) (f : SF) :
    Performs (.brk c f) false (fun s x => (s.ctx x.p.ctx).debug = true ∧ (s.core x.w.core).trace.length < 64)
      (fun x y => (y.emit x.w.id 2 f.imm.toNat (maskOf x.lanes) x.pc x.lanes2 x.pc2 0).modWeft x.w.id (fun w => { w with halted := true })) := by
  refine performs_go (fun _ => rfl) fun s x ⟨hdebug, hroom⟩ => ?_
  have hfree : s.traceRoom x.w.core = true := decide_eq_true hroom
  simp only [hdebug, hfree, Bool.not_true, Bool.false_eq_true, if_false]

/-- CIR without its low 19 bits. -/
def clearedCir (v : DWord) : DWord := BitVec.ofNat 64 (bitsOf v.toNat 63 19 * 2 ^ 19)

theorem clearedCir_eq (v : DWord) : clearedCir v = v >>> 19 <<< 19 := by
  apply BitVec.eq_of_toNat_eq
  have hv := v.isLt
  simp only [clearedCir, bitsOf_eq, BitVec.toNat_ofNat, BitVec.toNat_shiftLeft, BitVec.toNat_ushiftRight, Nat.shiftRight_eq_div_pow,
    Nat.shiftLeft_eq]
  congr 2
  omega

theorem chkerr_reads (h : Due s sw x (Instr.chkerr c f).view false) (hloads : x.w.loads = [])
    (hwords : ∀ k ∈ s.cores, ∀ m ∈ k.2.morder, m.weft ≠ x.w.id) (hctx : ∃ q ∈ s.ctxs, q.id = x.p.ctx) :
    let v := (s.ctx x.p.ctx).cir
    ∃ t, exec (.chkerr c f) s = .next t ∧ Wrote (s.ready sw) t x c noMore (wordWrites true f.d x.lanes (fun _ => v)) [] ∧
      (t.ctx x.p.ctx).cir = v >>> 19 <<< 19 := by
  intro v
  have hnone : ((s.ready sw).cores.any (fun k => k.2.morder.any (fun m => m.weft == x.w.id))) = false :=
    List.any_eq_false.2 fun k hk => by simpa using fun m hm => hwords k hk m hm
  let clear : State → State := fun y => y.modCtx x.p.ctx (fun k => { k with cir := clearedCir v })
  refine ⟨(s.ready sw).perform x c (fun y => (clear y).tracked x (wordWrites true f.d x.lanes (fun _ => v))), runWord_go h ?_, ?_, ?_⟩
  · rw [hloads, hnone]
    rfl
  · have hwrote := perform_tracked h.reading c (wordWrites true f.d x.lanes (fun _ => v)) [] noMore (e := clear) (fun _ => by rfl)
      (fun _ => by rfl) (fun y => modCtx_apart fun _ => by rfl)
    simp only [mapLanes_noMore, modWeft_self] at hwrote
    have hcomm : ∀ y, (clear y).tracked x (wordWrites true f.d x.lanes (fun _ => v)) =
        clear (y.tracked x (wordWrites true f.d x.lanes (fun _ => v))) := fun y => by
      unfold State.tracked
      split <;> rfl
    simpa only [hcomm] using hwrote
  · rw [State.perform, ctx_congr (partDone_ctxs _ _ _), ctx_congr (tracked_ctxs _ _ _ _)]
    have hself : (clear ((s.ready sw).issued x c)).ctx x.p.ctx = _ := ctx_modCtx_self (fun _ => by rfl) (hasCtx_issued x c hctx)
    rw [hself]
    exact clearedCir_eq v

end

/-! ### Shootdowns (R70) -/

/-- A map whose values are changed, the default value by itself, reads as changed. -/
theorem sget_map_values {α : Type} (d : α) (f : α → α) (hd : f d = d) (m : List (Nat × α)) (i : Nat) :
    sget d (m.map (fun q => (q.1, f q.2))) i = f (sget d m i) := by
  induction m with
  | nil => exact hd.symm
  | cons q m ih =>
    obtain ⟨k, v⟩ := q
    simp only [List.map_cons, sget]
    split
    · exact hd.symm
    · split
      · rfl
      · exact ih

section
variable {s : State} {k : Shoot}

/-- A core without what a shootdown removes. -/
def shotCore (k : Shoot) (c : CoreSt) : CoreSt :=
  { c with
    tlbDesc := c.tlbDesc.filter (fun e => !k.hitsDesc e.1 e.2.1)
    tlbPage := c.tlbPage.filter (fun e => !k.hitsPage e.ctx e.seg e.page e.pgsz) }

theorem shoot_core (core : Nat) : (s.shoot k).core core = shotCore k (s.core core) :=
  sget_map_values CoreSt.reset (shotCore k) rfl s.cores core

theorem shoot_walkCache {d : DieSt} (hd : d ∈ (s.shoot k).dies) {l : WalkLine} (hl : l ∈ d.walkCache) {u : CtxId × Seg} (hu : u ∈ l.users)
    (hc : u.1 = k.ctx) : k.opc ≠ 3 ∧ u.2 ≠ k.seg := by
  obtain ⟨e, -, rfl⟩ := List.mem_map.1 hd
  obtain ⟨-, hkeep⟩ := List.mem_filter.1 hl
  have hnone := List.any_eq_false.1 (by simpa only [Bool.not_eq_true'] using hkeep) u hu
  simpa [hc] using hnone

theorem shoot_walks {w : Walk} (hw : w ∈ (s.shoot k).walks) (hended : w.result.isSome = true) (hc : w.ctx = k.ctx) : k.opc ≠ 3 := by
  obtain ⟨-, hkeep⟩ := List.mem_filter.1 hw
  intro h3
  simp [hended, Shoot.hitsPage, hc, h3] at hkeep

theorem shootdownComplete_of_done {id : Nat} (h : s.shoots.find? (fun k => k.id == id) = some k) (hw : s.shootWaits k = false) :
    exec (.shootdownComplete id) s = .next (((({ s with shoots := s.shoots.filter (fun q => q.id != id) } : State).shoot k).recheck
      k).partDone k.weft k.track) := by
  show execShootdownComplete id s = _
  simp only [execShootdownComplete, h, hw, Bool.false_eq_true, if_false]

end

/-! ### Publications (R371) -/

theorem publish_performs (c : Common) (f : SF) (q : Desc × Seg × Nat × List Loc) :
    Performs (.publish c f) false
      (fun s x => x.pz true f.a x.agent = false ∧ x.awaits = false ∧ s.futureHeld x (f.imm.toNat % 16) .publish = false ∧ x.w.sq = [] ∧
        s.storesOut x.w.core = false ∧ s.check (s.reqOf x.w.id x.agent) .load (x.addr f.a x.agent) 0 64 8 = .ok q)
      (fun x y =>
        let m := (y.takeWalks (whoFor x.w.core x.w.id)).makeFuture x (f.imm.toNat % 16) .publish 0
        match m.2 with
        | none => m.1
        | some r => { m.1 with
            pubs := m.1.pubs ++ [⟨m.1.nextId, x.p.ctx, r, absEnd (x.addr f.a x.agent) q.2.1 q.2.2.1, x.sys, x.p.id⟩]
            nextId := m.1.nextId + 1 }) := by
  refine performs_go (fun _ => rfl) fun s x ⟨hpz, hawaits, hheld, hqueue, hstores, hq⟩ => ?_
  simp only [hpz, hawaits, hheld, hqueue, hstores, hq, List.isEmpty_nil, Bool.not_true, Bool.or_self, Bool.false_eq_true, if_false] <;> rfl

/-- The first number of a range at which a partial function has a value. -/
theorem findSome?_range_eq {α : Type} {g : Nat → Option α} {lo hi n : Nat} {v : α} (hlo : lo ≤ n) (hhi : n ≤ hi) (hn : g n = some v)
    (hfirst : ∀ m, lo ≤ m → m < n → g m = none) : ((List.range (hi + 1 - lo)).map (· + lo)).findSome? g = some v := by
  have hrange : (List.range (hi + 1 - lo)).map (· + lo) = List.range' lo (n - lo) ++ n :: List.range' (n + 1) (hi - n) := by
    have hsplit := List.range'_append_1 (s := lo) (m := n - lo) (n := hi + 1 - n)
    rw [show lo + (n - lo) = n by omega, show hi + 1 - n = (hi - n) + 1 by omega, List.range'_succ,
      show n - lo + (hi - n + 1) = hi + 1 - lo by omega] at hsplit
    rw [hsplit, List.range'_eq_map_range]
    exact List.map_congr_left fun a _ => Nat.add_comm a lo
  refine List.findSome?_eq_some_iff.2 ⟨_, n, _, hrange, hn, fun m hm => ?_⟩
  obtain ⟨hm1, hm2⟩ := List.mem_range'_1.1 hm
  exact hfirst m hm1 (by omega)

theorem findSome?_range_none {α : Type} {g : Nat → Option α} {lo hi : Nat} (h : ∀ n, lo ≤ n → n ≤ hi → g n = none) :
    ((List.range (hi + 1 - lo)).map (· + lo)).findSome? g = none := by
  refine List.findSome?_eq_none_iff.2 fun n hn => ?_
  obtain ⟨k, hk, rfl⟩ := List.mem_map.1 hn
  have := List.mem_range.1 hk
  exact h _ (by omega) (by omega)

section
variable {s : State} {id : Nat} {p : Pub} (h : s.pubs.find? (fun p => p.id == id) = some p)
include h

theorem publishCheck_rejects {n : Nat} (hc : s.pubCheck p = .reject n) :
    exec (.publishCheck id) s =
      .next (({ s with pubs := s.pubs.filter (fun q => q.id != id) } : State).completeFut p.fut (BitVec.ofNat 64 (5 + n * 256))) := by
  show execPublishCheck id s = _
  simp only [execPublishCheck, h, hc]

theorem publishCheck_asks {ps : List PageReq} (hc : s.pubCheck p = .ask ps) :
    exec (.publishCheck id) s = .next (s.queueWalks 0 (coreDie (s.panel p.panel).core) ps) := by
  show execPublishCheck id s = _
  simp only [execPublishCheck, h, hc]

theorem publishCheck_waits {g : LFault} (hc : s.pubCheck p = .wait g) :
    exec (.publishCheck id) s = .next (s.report "page" p.ctx [id, g.addr.toNat, g.reason]) := by
  show execPublishCheck id s = _
  simp only [execPublishCheck, h, hc]

variable {hd : StageHdr} {code fm : List Byte} {records : Nat} (hc : s.pubCheck p = .ok hd code fm records)
include hc

/-- The descriptor and places of a segment number that a publication may take. -/
def freeSegment (s : State) (p : Pub) (hd : StageHdr) (n : Nat) : Option (Nat × (Nat × Nat × Nat × Nat) × List Loc) :=
  (s.freeDesc p.ctx n).bind (fun d => (s.codeLocs p.ctx d.2.2.2 (bitsOf d.2.1 47 36) hd.codelen).map (fun ls => (n, d, ls)))

theorem publishCheck_full (hnone : ∀ n, (s.ctx p.ctx).publo.toNat ≤ n → n ≤ (s.ctx p.ctx).pubhi.toNat → freeSegment s p hd n = none) :
    exec (.publishCheck id) s =
      .next (({ s with pubs := s.pubs.filter (fun q => q.id != id) } : State).completeFut p.fut 6) := by
  have hfind := findSome?_range_none hnone
  unfold freeSegment at hfind
  show execPublishCheck id s = _
  simp only [execPublishCheck, h, hc]
  rw [hfind]

theorem publishCheck_seals {n : Nat} {d : Nat × Nat × Nat × Nat} {ls : List Loc} (hlo : (s.ctx p.ctx).publo.toNat ≤ n)
    (hhi : n ≤ (s.ctx p.ctx).pubhi.toNat) (hn : freeSegment s p hd n = some (n, d, ls))
    (hfirst : ∀ m, (s.ctx p.ctx).publo.toNat ≤ m → m < n → freeSegment s p hd m = none) :
    exec (.publishCheck id) s =
      .next (({ s with pubs := s.pubs.filter (fun q => q.id != id) } : State).seal p hd code fm records n d ls) := by
  have hfind := findSome?_range_eq hlo hhi hn hfirst
  unfold freeSegment at hfind
  show execPublishCheck id s = _
  simp only [execPublishCheck, h, hc]
  rw [hfind]

end

/-! ### O45 -/

/-- Settles O45: the words by their plans, the shootdown by what its filters keep, the publication by the first free segment. -/
theorem systemWords : Obligations.SystemWords := by
  unfold Obligations.SystemWords
  refine ⟨fun c f => ⟨fun s sw x h => sysr_writes h, fun i hi => ⟨?_, fun s sw x h hpz hbad => ?_⟩, trace_performs c f,
      fun s sw x h hdebug => brk_completes h hdebug, brk_performs c f, fun s sw x h hloads hwords hctx => chkerr_reads h hloads hwords hctx,
      fun q => publish_performs c f q⟩,
    fun s id k h hw => shootdownComplete_of_done h hw, fun s k core => ⟨rfl, rfl, ?_, ?_, ?_, ?_⟩, fun s id p h => ⟨?_, ?_, ?_, ?_⟩⟩
  · refine performs_congr (syswWord_performs (f := f) (sysw_words hi)) (fun _ _ hx => hx) fun x u => ?_
    rfl
  · exact (sysw_words hi s).trans (syswWord_raises h hpz hbad)
  · rw [shoot_core]
    rfl
  · rw [shoot_core]
    simp only [Bool.decide_and]
    rfl
  · exact fun d hd l hl u hu hc => shoot_walkCache hd hl hu hc
  · exact fun w hw hended hc => shoot_walks hw hended hc
  · exact fun n hc => publishCheck_rejects h hc
  · exact fun ps hc => publishCheck_asks h hc
  · exact fun g hc => publishCheck_waits h hc
  · exact fun hd code fm records hc => ⟨fun hnone => publishCheck_full h hc hnone,
      fun n d ls hlo hhi hn hfirst => publishCheck_seals h hc hlo hhi hn hfirst⟩

end Sys2Proof.Proofs
end

section
/-! SUPPORT. Traps and the return from them (O46): a fault that enters its handler, and a trap frame that is popped. -/
namespace Sys2Proof.Proofs
open Sys2Proof Sys2Proof.Machine

/-! ### Entering a handler (R385, R405, R406) -/

/-- A lane as it enters a handler. -/
def enteredLane (h : DWord) (l : Lane) : Lane :=
  { l with fb := l.sp + 0x20, sp := l.sp + 0x20, mtop := 0, sys := true, pc := h, pos := .header, hh := none, st := .active }

/-- The link record of a trap frame. -/
def trapLink (l : Lane) (h : DWord) (bud fsize : Nat) : Frame :=
  { ret := l.pc
    cseg := (segOf h).toNat
    entry := (offOf h).toNat % 2 ^ 16
    fsize := fsize
    bud := bud / 16 - 1
    mkd := false
    savfb := mkAddr l.sseg l.fb
    ent := 0
    smtop := l.mtop.toNat
    tf := 2
    hv := false }

/-- The bytes of a trap frame: its link record, its four trap locals, v0 to v7. -/
def trapBytes (s : State) (w k : Nat) (f : LFault) (pc h : DWord) (bud fsize : Nat) : List Byte :=
  natLE 32 (trapLink ((s.weft w).lane k) h bud fsize).word ++ (natLE 8 f.addr.toNat ++ (natLE 8 (codeWord f.code.code f.reason k f.info) ++
    (natLE 8 pc.toNat ++ (natLE 8 f.extra.toNat ++ (List.range 8).flatMap (fun i => natLE 4 (s.regNow (s.weft w) k i))))))

section
variable {s : State} {w k : Nat} {f : LFault} {pc : DWord}

theorem trapBytes_fields (h : DWord) (bud fsize : Nat) :
    let bytes := trapBytes s w k f pc h bud fsize
    bytes.take 32 = natLE 32 (trapLink ((s.weft w).lane k) h bud fsize).word ∧ (bytes.drop 32).take 8 = natLE 8 f.addr.toNat ∧
      (bytes.drop 40).take 8 = natLE 8 (codeWord f.code.code f.reason k f.info) ∧ (bytes.drop 48).take 8 = natLE 8 pc.toNat := by
  have hdrop : ∀ (n m : Nat) (a : List Byte) (b : List Byte), a.length = n → (a ++ b).drop (n + m) = b.drop m := fun n m a b ha => by
    rw [← ha, ← List.drop_drop, List.drop_left]
  have htake : ∀ (n : Nat) (a b : List Byte), a.length = n → (a ++ b).take n = a := fun n a b ha => by rw [← ha, List.take_left]
  intro bytes
  refine ⟨htake 32 _ _ (length_natLE 32 _), ?_, ?_, ?_⟩
  · rw [show bytes.drop 32 = _ from hdrop 32 0 _ _ (length_natLE 32 _)]
    exact htake 8 _ _ (length_natLE 8 _)
  · rw [show bytes.drop 40 = _ from hdrop 32 8 _ _ (length_natLE 32 _), hdrop 8 0 _ _ (length_natLE 8 _)]
    exact htake 8 _ _ (length_natLE 8 _)
  · rw [show bytes.drop 48 = _ from hdrop 32 16 _ _ (length_natLE 32 _), hdrop 8 8 _ _ (length_natLE 8 _),
      hdrop 8 0 _ _ (length_natLE 8 _)]
    exact htake 8 _ _ (length_natLE 8 _)

theorem otherFunction_of_not_accown (hacc : f.code ≠ .accown) (c : CtxId) : s.otherFunction c f = false := by
  simp [State.otherFunction, hacc]

/-- The word of the trap table of a fault. -/
def trapWord (s : State) (w : Nat) (f : LFault) : DWord × Bool :=
  s.trapEntry (s.panel (s.weft w).panel).ctx (if f.code = .trap then 0x100 + 8 * f.info else 8 * f.code.code)

variable (hsys : ((s.weft w).lane k).sys = false) (hpage : f.code ≠ .page) (hacc : f.code ≠ .accown)
include hsys hpage hacc

theorem deliver_of_no_entry (he : trapWord s w f = (0, false)) : s.deliver w k f pc = s.stopLane w k f := by
  rw [trapWord] at he
  simp only [State.deliver, otherFunction_of_not_accown hacc, hsys, if_neg hpage, he, Bool.false_eq_true, if_false, if_true]

variable (hover : f.code ≠ .overlay) {bud fsize : Nat} {q : Desc × Seg × Nat × List Loc} (he : (trapWord s w f).1 ≠ 0)
  (hproc : s.procAt { s.reqNow w k with sys := true } (trapWord s w f).1 true = .ok (bud, fsize))
  (hbud : bud ≤ (s.panel (s.weft w).panel).alloc)
  (hq : s.check { s.reqNow w k with sys := true, fb := 0 } .store (mkAddr segSTK ((s.weft w).lane k).sp) 0 0x60 8 = .ok q)
include hover he hproc hbud hq

omit hsys hpage hacc hover he in
theorem enterHandler_enters :
    s.enterHandler w k (trapWord s w f).1 ((s.weft w).lane k).pc 2
      [f.addr.toNat, codeWord f.code.code f.reason k f.info, pc.toNat, f.extra.toNat] [] 0x60 =
    .ok ((s.enqueue w k 0 true ((s.weft w).lane k).pc 0
      (.store (wrs q.2.2.2 (trapBytes s w k f pc (trapWord s w f).1 bud fsize)) .none)).modLane w k (enteredLane (trapWord s w f).1)) := by
  have hbudget : ¬ (s.panel (s.weft w).panel).alloc < bud := Nat.not_lt.2 hbud
  simp only [State.enterHandler, State.handlerProc, hproc, if_neg hbudget, State.enterFrame, hq, Chk.map, Chk.bind, trapBytes,
    List.flatMap_cons, List.flatMap_nil, List.append_nil, List.append_assoc]
  rfl

/-- A fault whose handler can be entered stores a trap frame through the store queue, and puts the lane at the handler. -/
theorem deliver_enters : s.deliver w k f pc =
    (s.enqueue w k 0 true ((s.weft w).lane k).pc 0 (.store (wrs q.2.2.2 (trapBytes s w k f pc (trapWord s w f).1 bud fsize)) .none)).modLane
      w k (enteredLane (trapWord s w f).1) := by
  have henter := enterHandler_enters (f := f) (pc := pc) hproc hbud hq
  rw [trapWord] at henter he
  simp only [State.deliver, otherFunction_of_not_accown hacc, hsys, if_neg hpage, if_neg he, if_neg hover, if_neg hacc, henter,
    Bool.false_eq_true, if_false]
  rfl

end

/-! ### What the entry leaves -/

/-- A weft whose store queue has one entry more. -/
def withEntry (e : SqEntry) (v : Weft) : Weft := { v with sq := v.sq ++ [e] }

section
variable {s : State} {w k : Nat} (hw : s.hasWeft w = true) (hk : k < (s.weft w).lanes.length)
include hw

/-- An entry joins the end of the store queue of a weft in which no place is kept for it. -/
theorem enqueue_appends {track : Nat} {sys : Bool} {pc : DWord} {hdr : Off} {op : SqOp} {addr : DWord}
    (h : ∀ z ∈ (s.weft w).sq, z.awaits k track = false) :
    (s.enqueue w k track sys pc hdr op addr).hasWeft w = true ∧
    (s.enqueue w k track sys pc hdr op addr).weft w = withEntry ⟨s.nextId, k, sys, track, pc, hdr, addr, op⟩ (s.weft w) ∧
    (∀ v, v ≠ w → (s.enqueue w k track sys pc hdr op addr).weft v = s.weft v) ∧ (s.enqueue w k track sys pc hdr op addr).mem = s.mem := by
  have hnone : ((s.weft w).sq.any (fun e => e.awaits k track)) = false := List.any_eq_false.2 fun z hz => by simp [h z hz]
  let e : SqEntry := ⟨s.nextId, k, sys, track, pc, hdr, addr, op⟩
  have hid : ∀ v, (withEntry e v).id = v.id := fun _ => by rfl
  have henqueue : s.enqueue w k track sys pc hdr op addr = { s.modWeft w (withEntry e) with nextId := s.nextId + 1 } := by
    rw [State.enqueue, hnone]
    rfl
  rw [henqueue]
  exact ⟨(hasWeft_modWeft hid).trans hw, weft_modWeft_self hid hw, fun v hv => weft_modWeft_ne hid hv, rfl⟩

theorem weft_modLane_self (g : Lane → Lane) : (s.modLane w k g).weft w = (s.weft w).modLane k g :=
  weft_modWeft_self (f := fun v => v.modLane k g) (fun _ => by rfl) hw

omit hw in
theorem weft_modLane_ne {v : Nat} (hv : v ≠ w) (g : Lane → Lane) : (s.modLane w k g).weft v = s.weft v :=
  weft_modWeft_ne (f := fun v => v.modLane k g) (fun _ => by rfl) hv

include hk

/-- After a store has joined the queue and the lane has changed, nothing else of the state's wefts and memory has. -/
theorem enqueue_modLane {track : Nat} {sys : Bool} {pc : DWord} {hdr : Off} {op : SqOp} (g : Lane → Lane)
    (h : ∀ z ∈ (s.weft w).sq, z.awaits k track = false) :
    let t := (s.enqueue w k track sys pc hdr op).modLane w k g
    t.mem = s.mem ∧ (∀ v, v ≠ w → t.weft v = s.weft v) ∧ (∀ i, i ≠ k → (t.weft w).lane i = (s.weft w).lane i) ∧
      (t.weft w).regs = (s.weft w).regs ∧ (t.weft w).lane k = g ((s.weft w).lane k) ∧
      (t.weft w).sq = (s.weft w).sq ++ [⟨s.nextId, k, sys, track, pc, hdr, 0, op⟩] := by
  obtain ⟨hhere, hself, hothers, hmem⟩ := enqueue_appends (sys := sys) (pc := pc) (hdr := hdr) (op := op) (addr := 0) hw h
  refine ⟨hmem, fun v hv => (weft_modLane_ne hv g).trans (hothers v hv), ?_⟩
  rw [weft_modLane_self hhere g, hself]
  refine ⟨fun i hi => ?_, rfl, ?_, rfl⟩
  · rw [lane_modLane g fun h => absurd h hi, if_neg hi]
    rfl
  · rw [lane_modLane g fun _ => (show k < (withEntry _ (s.weft w)).lanes.length from hk), if_pos rfl]
    rfl

end

/-! ### Popping a trap frame (R388) -/

/-- A lane to which a trap frame returns. -/
def returnedLane (fb : Nat) (f : Frame) (l : Lane) : Lane :=
  { l with sp := BitVec.ofNat 40 fb - 0x20, fb := offOf f.savfb, mtop := BitVec.ofNat 24 f.smtop, sys := false, pc := f.ret, pos := .resume,
           st := (l.back.map LaneSt.parked).getD .active, hh := none, back := none, unb := if f.tf = 1 then none else l.unb }

section
variable {s : State} {w k fb : Nat} {f : Frame} {sv : List Nat}

theorem sweepFut_mem (s : State) (r : FutRef) : (s.sweepFut r).mem = s.mem := by
  unfold State.sweepFut
  split
  · split <;> rfl
  · rfl

/-- A popped frame leaves of memory and of the wefts what the return of its lane leaves. -/
theorem popTrap_eq : (s.popTrap w k fb f sv).mem = s.mem ∧
    (s.popTrap w k fb f sv).wefts = (s.modWeft w (fun v => (v.restoreV k sv).modLane k (returnedLane fb f))).wefts := by
  rw [State.popTrap]
  cases ((s.weft w).lane k).hh with
  | none => exact ⟨rfl, rfl⟩
  | some r => exact ⟨sweepFut_mem _ r, sweepFut_wefts _ r⟩

/-- The values that a frame gives v0 to v7 of a lane. -/
def savedRegs (k : Nat) (sv : List Nat) : List (Nat × DWord) :=
  (List.range 8).map (fun n => (keyV k n, BitVec.ofNat 64 (sv.getD (n / 2) 0 / 2 ^ (32 * (n % 2)) % 2 ^ 32)))

theorem restoreV_eq (v : Weft) : v.restoreV k sv = v.setRegs (savedRegs k sv) := by
  have hbits : ∀ n x, bitsOf x (32 * (n % 2) + 31) (32 * (n % 2)) = x / 2 ^ (32 * (n % 2)) % 2 ^ 32 := fun n x => by
    rw [bitsOf_eq, show 32 * (n % 2) + 31 + 1 - 32 * (n % 2) = 32 by omega]
  simp only [Weft.restoreV, hbits, savedRegs]

theorem savedRegs_nodup : ((savedRegs k sv).map (·.1)).Nodup := by
  rw [savedRegs, List.map_map]
  exact List.Nodup.map (fun a b h => by simpa [keyV] using h) List.nodup_range

/-- The value of a key in a list of values under distinct keys. -/
theorem lookupKey_map {κ : Nat → Nat} (hκ : Function.Injective κ) (g : Nat → DWord) (n : Nat) (l : List Nat) :
    lookupKey (κ n) (l.map (fun m => (κ m, g m))) = if n ∈ l then some (g n) else none := by
  induction l with
  | nil => rfl
  | cons m l ih =>
    rw [List.map_cons, lookupKey, ih]
    by_cases hm : m = n
    · simp [hm]
    · simp [hκ.ne hm, Ne.symm hm]

theorem lookupKey_savedRegs {n : Nat} (hn : n < 8) :
    lookupKey (keyV k n) (savedRegs k sv) = some (BitVec.ofNat 64 (sv.getD (n / 2) 0 / 2 ^ (32 * (n % 2)) % 2 ^ 32)) := by
  rw [savedRegs, lookupKey_map (κ := keyV k) (fun a b h => by simpa [keyV] using h), if_pos (List.mem_range.2 hn)]

theorem restoreV_regs {v : Weft} (hr : risesFrom 0 v.regs) {n : Nat} (hn : n < 8) :
    sget 0 (v.restoreV k sv).regs (keyV k n) = BitVec.ofNat 64 (sv.getD (n / 2) 0 / 2 ^ (32 * (n % 2)) % 2 ^ 32) := by
  rw [restoreV_eq, Weft.setRegs, sget_put (r := (v.regs, v.poison)) [] hr savedRegs_nodup, lookupKey_savedRegs hn, Option.getD_some]

/-- `rett` of a lane: v0 to v7, the frame registers, the mode and the PC come back. -/
theorem popTrap_returns (hw : s.hasWeft w = true) (hk : k < (s.weft w).lanes.length) (hr : risesFrom 0 (s.weft w).regs) :
    let t := s.popTrap w k fb f sv
    t.mem = s.mem ∧ (∀ v, v ≠ w → t.weft v = s.weft v) ∧ (t.weft w).lane k = returnedLane fb f ((s.weft w).lane k) ∧
      ∀ n < 8, sget 0 (t.weft w).regs (keyV k n) = BitVec.ofNat 64 (sv.getD (n / 2) 0 / 2 ^ (32 * (n % 2)) % 2 ^ 32) := by
  obtain ⟨hmem, hwefts⟩ := popTrap_eq (s := s) (w := w) (k := k) (fb := fb) (f := f) (sv := sv)
  have hid : ∀ v : Weft, ((v.restoreV k sv).modLane k (returnedLane fb f)).id = v.id := fun _ => by rfl
  have hself : (s.popTrap w k fb f sv).weft w = ((s.weft w).restoreV k sv).modLane k (returnedLane fb f) := (weft_congr hwefts _).trans (weft_modWeft_self hid hw)
  refine ⟨hmem, fun v hv => (weft_congr hwefts _).trans (weft_modWeft_ne hid hv), ?_, fun n hn => ?_⟩
  · rw [hself, lane_modLane _ fun _ => (show k < ((s.weft w).restoreV k sv).lanes.length from hk), if_pos rfl]
    rfl
  · rw [hself]
    exact restoreV_regs hr hn

end

/-! ### O46 -/

theorem trap_performs (c : Common) (f : SF) :
    Performs (.trap c f) false (fun _ _ => True)
      (fun x => x.each (fun k y => y.deliver x.w.id k ⟨.trap, 0, 0, f.imm.toNat, 0⟩ x.pc)) :=
  performs_go (fun _ => rfl) fun _ _ _ => rfl

theorem rett_performs (c : Common) (f : SF) :
    Performs (.rett c f) true (fun s x => ∀ k ∈ x.lanes, s.pending (x.w.lane k).hh = false)
      (fun x => x.each (fun k y => y.rettLane x k)) := by
  refine performs_go (fun _ => rfl) fun s x hdone => ?_
  have hnone : (x.lanes.any (fun i => s.pending (x.w.lane i).hh)) = false := List.any_eq_false.2 fun k hk => by simp [hdone k hk]
  simp only [hnone, Bool.false_eq_true, if_false]
  rfl

/-- Settles O46: a handler is entered by one store and a change of the lane; a frame is popped by the registers and the lane. -/
theorem trapsAndReturn : Obligations.TrapsAndReturn := by
  unfold Obligations.TrapsAndReturn
  refine ⟨fun c f => ⟨trap_performs c f, rett_performs c f⟩, ?_, fun s w k fb f sv hw hk hr => popTrap_returns hw hk hr⟩
  intro s w k f pc hw hk l c e hsys hpage hover hacc hfree
  refine ⟨fun he => deliver_of_no_entry hsys hpage hacc he, fun bud fsize q he hproc hbud hq => ?_⟩
  have henters := deliver_enters (pc := pc) hsys hpage hacc hover he hproc hbud hq
  rw [henters]
  obtain ⟨hmem, hothers, hlanes, hregs, hlane, hsq⟩ := enqueue_modLane (sys := true) (pc := l.pc) (hdr := 0)
    (op := .store (wrs q.2.2.2 (trapBytes s w k f pc (trapWord s w f).1 bud fsize)) .none) hw hk (enteredLane (trapWord s w f).1) hfree
  obtain ⟨hlink, haddr, hcode, hpc⟩ := trapBytes_fields (s := s) (w := w) (k := k) (f := f) (pc := pc) (trapWord s w f).1 bud fsize
  exact ⟨hmem, hothers, hlanes, hregs, hlane, _, _, hsq, rfl, rfl, hlink, haddr, hcode, hpc⟩

end Sys2Proof.Proofs
end

section
/-! SUPPORT. Launches and panels (O47): the take of a launch record, the placement of a launch's panels, and the end of a panel. -/
namespace Sys2Proof.Proofs
open Sys2Proof Sys2Proof.Machine

/-! ### Taking a launch record (R372, R374) -/

section
variable {s : State} {die : Nat} {c : CtxId} {seg : Seg} {q : TaskQ} {bs : List (Byte × Bool)}

/-- The record at the head of entry `e` taken: HEAD and the turn go on. -/
def tookRecord (s : State) (die e : Nat) (c : CtxId) (seg : Seg) (q : TaskQ) (x : Nat) (args : Option (List (DWord × Bool))) : State :=
  ((((s.putTq c seg { q with head := (q.head + 1) % 65536 }).queueStep c seg stepFuel).takeLaunch die c seg x args).takeAts die).modDie die
    (fun d => { d with lqNext := (e + 1) % 16 })

/-- What is done with the record of the entry in turn. -/
def takeTurn (s : State) (die e : Nat) (c : CtxId) (seg : Seg) (q : TaskQ) (x : Nat) : State :=
  if launchRefusal c die x none < 4 then tookRecord s die e c seg q x none
  else match s.launchArgs die c (BitVec.ofNat 64 (bitsOf x 191 128)) with
    | .ok args => tookRecord s die e c seg q x (some args)
    | .fault _ => tookRecord s die e c seg q x none
    | .miss ps => s.queueWalks (whoNet die) die ps

/-- Of the entry in turn the scheduler takes a record where there is one. -/
theorem launchTake_turn (hs : s.schedules die = true)
    (htab : lookupKey (die * 16 + (s.die die).lqNext % 16) s.lqTab = some (c, seg))
    (hbad : s.lqBad.contains (die * 16 + (s.die die).lqNext % 16) = false) (hbusy : s.queueBusy die c seg = false)
    (hq : s.lqQueue die c seg = some q) (hocc : q.occ ≠ 0) (hrec : s.recAt c seg (q.ring q.head) = .ok bs) :
    exec (.launchTake die) s = .next (takeTurn s die ((s.die die).lqNext % 16) c seg q (recNat bs)) := by
  have horder : (List.range 16).map (fun k => ((s.die die).lqNext + k) % 16) =
      (s.die die).lqNext % 16 :: (List.range' 1 15).map (fun k => ((s.die die).lqNext + k) % 16) := rfl
  show execLaunchTake die s = _
  rw [execLaunchTake, if_pos hs, horder]
  simp only [State.takeFrom, htab, hbad, hbusy, hq, if_neg hocc, hrec, Bool.or_self, Bool.false_eq_true, if_false]
  rfl

theorem argp_eq (x : Nat) : BitVec.ofNat 64 (bitsOf x 191 128) = BitVec.ofNat 64 (x / 2 ^ 128 % 2 ^ 64) := by rw [bitsOf_eq]

end

/-! ### Records taken and refused (R374) -/

section
variable {c : CtxId} {die x : Nat} {args : Option (List (DWord × Bool))}

theorem launchRefusal_of_kind (h : x / 2 ^ 126 % 4 ≠ 1) : launchRefusal c die x args = 1 :=
  if_pos (by rw [bitsOf_eq]; exact h)

/-- A record with a reserved bit set is refused. -/
theorem launchRefusal_of_reserved (hk : x / 2 ^ 126 % 4 = 1)
    (h : x / 2 ^ 384 % 2 ^ 128 ≠ 0 ∨ x / 2 ^ 324 % 2 ^ 6 ≠ 0 ∨ x / 2 ^ 288 % 2 ^ 8 ≠ 0 ∨ x / 2 ^ 112 % 2 ^ 14 ≠ 0) :
    launchRefusal c die x args = 2 := by
  have hkind : ¬ bitsOf x 127 126 ≠ 1 := by rw [bitsOf_eq, not_not]; exact hk
  refine (if_neg hkind).trans (if_pos ?_)
  simp only [bitsOf_eq]
  exact h

/-- Without its argument words no record becomes a launch. -/
theorem launchRefusal_none : launchRefusal c die x none ≠ 0 ∧ launchRefusal c die x none ≤ 4 := by
  simp only [launchRefusal, Option.isNone_none, if_true]
  split_ifs <;> decide

theorem takeLaunch_of_refusal {s : State} {seg : Seg} (h : launchRefusal c die x args ≠ 0) :
    s.takeLaunch die c seg x args =
      (s.report "launch refused" c [die, launchRefusal c die x args]).event (s.ctx c).func 2 (launchRefusal c die x args) c 0 0 0 :=
  if_pos h

theorem takeLaunch_of_accepted {s : State} {seg : Seg} (h : launchRefusal c die x args = 0) :
    s.takeLaunch die c seg x args =
      { s with launches := s.launches ++ [Launch.ofRecord c die seg s.nextId x (args.getD [])], nextId := s.nextId + 1 } :=
  if_neg (not_not.2 h)

theorem args_of_accepted (h : launchRefusal c die x args = 0) : some (args.getD []) = args := by
  cases args with
  | none => exact absurd h launchRefusal_none.1
  | some a => rfl

end

theorem bitAt_eq (x i : Nat) : bitAt x i = decide (x / 2 ^ i % 2 = 1) := by
  rw [bitAt, Nat.shiftRight_eq_div_pow]
  rfl

/-! ### Placement (R377, R378) -/

theorem length_nextIndexes_pos {l : Launch} (h : l.next < l.panels) : l.nextIndexes.length ≠ 0 := by
  simp only [Launch.nextIndexes, List.length_map, List.length_range]
  omega

/-- A launch's next panels started on what they are allotted. -/
def startNext (s : State) (l : Launch) (as : List Allot) : State :=
  let s2 := (l.nextIndexes.zip as).foldl (fun y z => y.startPanel l z.1 z.2) s
  { s2 with launches := s2.launches.map (fun q => if q.id = l.id then { q with next := q.next + l.nextIndexes.length } else q) }

/-- A launch with panels to place, no saved group, and no cores kept for it, in whose turn cores are found for them. -/
theorem placeTurn_seats {s s1 : State} {l : Launch} {rest : List Launch} {as : List Allot} (haim : ∀ a ∈ s.aims, a.1 ≠ l.id)
    (hsaved : s.nextSaved l = []) (hnext : l.next < l.panels) (hblocks : s.blocksFor l l.nextIndexes.length = true)
    (hseat : s.seatSets l (l.nextIndexes.map (fun _ _ => [])) (s.searchSets l) = (s1, .seated as)) :
    s.placeTurn (l :: rest) = ((startNext s1 l as).rotate l.id).endSearch := by
  have hnone : s.aims.find? (fun a => a.1 == l.id) = none := List.find?_eq_none.2 fun a ha => by simpa using haim a ha
  have hnew : s.turnOn l (s.searchSets l) [] = (startNext s1 l as, .seated as) := by
    rw [State.turnOn, List.isEmpty_nil, if_pos rfl]
    simp only [State.turnNew, hblocks, Bool.not_true, Bool.false_eq_true, if_false, hseat]
    rfl
  simp only [State.placeTurn, hsaved, List.isEmpty_nil, if_true, if_neg (length_nextIndexes_pos hnext), hnone, hnew]

theorem panelPlace_eq {s : State} {die : Nat} (hs : s.schedules die = true) :
    exec (.panelPlace die) s = .next (s.placeTurn (byPrio (s.launches.filter (fun l => l.die == die)))) := by
  show execPanelPlace die s = _
  rw [execPanelPlace, if_pos hs]

/-! ### The end of a panel (R379) -/

theorem panel_id {s : State} {p : Nat} (h : ∃ q ∈ s.panels, q.id = p) : (s.panel p).id = p := by
  obtain ⟨q, hq, rfl⟩ := h
  exact panel_id_of_mem hq

theorem credits_of_retired {s : State} {p : Panel} (h : s.retired p = true) : s.credits.any (fun k => k.panel == p.id) = false := by
  simp only [State.retired, Bool.and_eq_true, Bool.not_eq_true'] at h
  obtain ⟨⟨-, hcredits⟩, -⟩ := h
  exact hcredits

/-- A panel that has exited and retired, and requests nothing of a queue, ends. -/
theorem panelEnd_ends {s : State} {p : Nat} (hhere : ∃ q ∈ s.panels, q.id = p) (hexit : s.panelExited p = true)
    (hlife : (s.panel p).life ≠ .halting) (hdeqs : ∀ d ∈ s.deqs, d.panel ≠ p) :
    let s1 := s.modPanel p (fun q => { q with life := .ending })
    s1.commitWaits p = false → s1.retired (s.panel p) = true →
      exec (.panelEnd p) s = .next ((s1.doneAdd (s.panel p)).freePanel (s.panel p)) := by
  intro s1 hcommit hretired
  have hany : s.panels.any (fun q => q.id == p) = true := by
    obtain ⟨q, hq, hqp⟩ := hhere
    exact List.any_eq_true.2 ⟨q, hq, by simpa using hqp⟩
  have hnone : s.deqs.filter (fun d => d.panel == p) = [] := List.filter_eq_nil_iff.2 fun d hd => by simpa using hdeqs d hd
  have hcredits : (s1.credits.any (fun k => k.panel == p && (s.panel p).launch.replay && s1.creditWaits k)) = false := by
    have hfree := credits_of_retired hretired
    rw [panel_id hhere, List.any_eq_false] at hfree
    exact List.any_eq_false.2 fun k hk => by simp [show (k.panel == p) = false by simpa using hfree k hk]
  have hrun : ((s.panel p).life == .halting) = false := by simpa using hlife
  show execPanelEnd p s = _
  simp only [execPanelEnd, hany, hexit, hrun, hnone, List.foldl_nil, Bool.not_true, Bool.or_self, Bool.false_eq_true, if_false]
  rw [if_neg (by rw [hcommit, hcredits]; decide), if_neg (by rw [hretired]; decide)]

/-! ### O47 -/

/-- Settles O47: the entry in turn is the first of the round, the launch the first in priority; the rest are the fields of the records. -/
theorem launchesAndPanels : Obligations.LaunchesAndPanels := by
  unfold Obligations.LaunchesAndPanels
  refine ⟨?_, fun s die c seg x args => ⟨takeLaunch_of_refusal, fun h => ?_,
      launchRefusal_of_kind, launchRefusal_of_reserved, fun h => h ▸ launchRefusal_none⟩,
    fun s die l rest s1 as hs hprio haim hsaved hnext hblocks hseat => ?_,
    fun s p hhere hexit hlife hdeqs => panelEnd_ends hhere hexit hlife hdeqs, fun l idx weft i => ?_⟩
  · intro s die c seg q bs e hs htab hbad hbusy hq hocc hrec x taken argp
    rw [launchTake_turn hs htab hbad hbusy hq hocc hrec]
    refine ⟨fun h => congrArg _ (if_pos h), fun h => ?_⟩
    rw [takeTurn, if_neg (Nat.not_lt.2 h), argp_eq]
    exact ⟨fun args ha => by rw [ha]; rfl, fun f hf => by rw [hf]; rfl, fun ps hps => by rw [hps]⟩
  · refine ⟨Launch.ofRecord c die seg s.nextId x (args.getD []), takeLaunch_of_accepted h, args_of_accepted h, rfl, rfl, rfl, rfl, ?_⟩
    exact ⟨congrArg (BitVec.ofNat 64) (bitsOf_zero x 63), bitsOf_eq x 287 256, congrArg (BitVec.ofNat 64) (bitsOf_eq x 255 192), bitsOf_eq x 367 362, bitAt_eq x 320⟩
  · rw [panelPlace_eq hs, hprio]
    exact congrArg _ (placeTurn_seats haim hsaved hnext hblocks hseat)
  · exact ⟨rfl, rfl, rfl, rfl, rfl, rfl, rfl, rfl, fun _ _ _ _ => ⟨rfl, rfl, rfl⟩⟩

end Sys2Proof.Proofs
end

section
/-! SUPPORT. Pre-emption (O49): what a write of bytes leaves alone, a saved panel put on its core, and the events of pre-emption. -/
namespace Sys2Proof.Proofs
open Sys2Proof Sys2Proof.Machine

/-! ### What writes leave alone -/

section
variable {α : Type} (g : State → α) (hw : ∀ y w f, g (State.modWeft y w f) = g y) (hc : ∀ (y : State) c, g { y with cores := c } = g y)
  (hm : ∀ (y : State) m, g { y with mem := m } = g y)
include hm

theorem hbmPut_preserves (s : State) (pa okey cpol : Nat) (b : Byte) : g (s.hbmPut pa okey cpol b) = g s := by
  rw [show s.hbmPut pa okey cpol b = _ from hbmPut_pkgMemOnly s pa okey cpol b]
  exact hm _ _

include hw

theorem putByte_preserves (s : State) (l : Loc) (b : Byte) : g (s.putByte l b) = g s := by
  cases l with
  | hbm pa k c => exact hbmPut_preserves g hm s pa k c b
  | chip pa w =>
    show g (s.chipPut pa b) = g s
    unfold State.chipPut
    dsimp only
    split
    · split
      · exact hw _ _ _
      · rfl
    · split
      · rfl
      · exact hm _ _
  | zero => rfl
  | host _ a => exact hm _ _
  | remote _ _ _ _ off => exact hm _ _

theorem putBytes_preserves (s : State) (ws : List Wr) : g (putBytes s ws) = g s := by
  unfold putBytes
  exact foldl_keeps g (fun y w => putByte_preserves g hw hm y w.loc w.b) ws s

include hc

/-- A write changes memory, wefts and cores alone. -/
theorem write_preserves (s : State) (ws : List Wr) : g (s.write ws) = g s :=
  (write_keeps g hw hc hm s ws).trans (putBytes_preserves g hw hm s ws)

theorem clearShare_preserves (s : State) (a : Allot) (n : Nat) : g (s.clearShare a n) = g s := by
  unfold State.clearShare
  split
  · rfl
  · exact write_preserves g hw hc hm _ _

theorem zeroTile_preserves (s : State) (core t : Nat) (o : CtxId) : g (s.zeroTile core t o) = g s :=
  (hc _ _).trans (write_preserves g hw hc hm _ _)

theorem fillTiles_preserves (s : State) (v : Saved) (a : Allot) (data : List (List (Byte × Bool))) : g (s.fillTiles v a data) = g s := by
  unfold State.fillTiles
  refine (foldl_keeps g (fun y q => ?_) _ _).trans (foldl_keeps g (fun y j => ?_) _ _)
  · exact (hc _ _).trans ((hc _ _).trans (write_preserves g hw hc hm _ _))
  · split
    · exact (hc _ _).trans (zeroTile_preserves g hw hc hm _ _ _ _)
    · rfl

end

/-! ### Halts and saves (R402, R416, R418) -/

section
variable {s : State} {p : Nat}

theorem preemptRequest_halts (hrun : (s.panel p).life = .running) (hs : s.savable (s.panel p) = true) :
    exec (.preemptRequest p) s = .next ((s.groupOf (s.panel p)).foldl (fun y q => y.haltPanel q.id) s) :=
  congrArg Host.Outcome.next (if_pos ⟨hrun, hs⟩)

/-- A panel that requests nothing of a queue halts; its commands and words wait no longer. -/
theorem haltPanel_of_no_deq (h : ∀ d ∈ s.deqs, d.panel ≠ p) :
    s.haltPanel p = (s.modPanel p (fun q => { q with life := if q.life = .running then .halting else q.life })).modCore (s.panel p).core
      (fun c => { c with
        copyQ := c.copyQ.map (fun q => q.map (fun k => if k.panel = p then { k with waits := none } else k))
        morder := c.morder.map (fun m => if m.panel = p then { m with waits := none } else m) }) := by
  have hnone : s.deqs.filter (fun d => d.panel == p) = [] := List.filter_eq_nil_iff.2 fun d hd => by simpa using h d hd
  rw [State.haltPanel, modCore_deqs, modPanel_deqs, hnone, List.foldl_nil]

theorem panelSave_saves {ks : List (Panel × Nat)} {t : State} (hne : s.groupOf (s.panel p) ≠ [])
    (h : ∀ q ∈ s.groupOf (s.panel p), q.life = .halting ∧ (s.die (coreDie q.core)).tripped = false ∧ s.commitWaits q.id = false ∧
      s.quiet q = true)
    (hks : ((s.groupOf (s.panel p)).foldl (fun y q => y.calm q) s).pickBlocks
      ((s.groupOf (s.panel p)).map (fun q => ((s.groupOf (s.panel p)).foldl (fun y q => y.calm q) s).panel q.id)) [] = some ks)
    (ht : ((s.groupOf (s.panel p)).foldl (fun y q => y.calm q) s).writeBlocks ks = .ok t) :
    exec (.panelSave p) s = .next (ks.foldl (fun y q => y.finishSave q.1 q.2) t) := by
  have hempty : (s.groupOf (s.panel p)).isEmpty = false := by simpa using hne
  have hhalted : (s.groupOf (s.panel p)).all (fun q => q.life == .halting && !(s.die (coreDie q.core)).tripped) = true :=
    List.all_eq_true.2 fun q hq => by
      obtain ⟨hlife, htrip, -, -⟩ := h q hq
      simp [hlife, htrip]
  have hcommit : (s.groupOf (s.panel p)).any (fun q => s.commitWaits q.id) = false := List.any_eq_false.2 fun q hq => by
    obtain ⟨-, -, hwait, -⟩ := h q hq
    simp [hwait]
  have hquiet : (s.groupOf (s.panel p)).all (fun q => s.quiet q) = true := List.all_eq_true.2 fun q hq => by
    obtain ⟨-, -, -, hq⟩ := h q hq
    exact hq
  show execPanelSave p s = _
  simp only [execPanelSave, State.saveGroup, hempty, hhalted, hcommit, hquiet, Bool.not_true, Bool.not_false, Bool.and_self,
    Bool.false_eq_true, if_false, if_true, hks, ht]

end

/-! ### Resumption (R419) -/

section
variable {s : State} {cores : List (Nat × Nat)} {v : Saved} {a : Allot} {ws : List Weft} {pad : List Byte} {data : List (List (Byte × Bool))}

theorem panelResume_resumes {id : Nat} (h : s.saved.find? (fun v => v.id == id) = some v) :
    exec (.panelResume id) s = .next (s.turnResume (s.searchSets v.panel.launch) (s.savedGroup v)).1 := by
  show execPanelResume id s = _
  simp only [execPanelResume, h]

/-- A resumed panel leaves the saved ones. -/
theorem putResumed_saved : (s.putResumed cores v a ws pad data).saved = s.saved.filter (fun z => z.id != v.id) := by
  refine (foldl_keeps State.saved (fun y c => ?_) _ _).trans
    (congrArg (List.filter (fun z : Saved => z.id != v.id)) ((fillTiles_preserves State.saved (fun _ _ _ => rfl) (fun _ _ => rfl) (fun _ _ => rfl)
      _ v a data).trans ((write_preserves State.saved (fun _ _ _ => rfl) (fun _ _ => rfl) (fun _ _ => rfl) _ _).trans
        (clearShare_preserves State.saved (fun _ _ _ => rfl) (fun _ _ => rfl) (fun _ _ => rfl) s a _))))
  split <;> rfl

theorem putResumed_panels : (s.putResumed cores v a ws pad data).panels = s.panels ++ [s.resumedPanel v a] := by
  refine (foldl_keeps State.panels (fun y c => ?_) _ _).trans
    (congrArg (· ++ [s.resumedPanel v a]) ((fillTiles_preserves State.panels (fun _ _ _ => rfl) (fun _ _ => rfl) (fun _ _ => rfl)
      _ v a data).trans ((write_preserves State.panels (fun _ _ _ => rfl) (fun _ _ => rfl) (fun _ _ => rfl) _ _).trans
        (clearShare_preserves State.panels (fun _ _ _ => rfl) (fun _ _ => rfl) (fun _ _ => rfl) s a _))))
  split <;> rfl

end

/-! ### Gang switches and watchdogs (R421, R422) -/

/-- At its instant a switch of gangs none of whose panels run or are saved leaves the list. -/
theorem gangSwitch_leaves {s : State} {g : Nat} {x : Gang} (h : s.gangs[g]? = some x) (hat : x.at_.toNat ≤ s.time)
    (hout : ∀ p ∈ s.panels, p.launch.gang = x.out → p.life ≠ .running) (hinc : ∀ v ∈ s.saved, v.panel.launch.gang ≠ x.inc) :
    exec (.gangSwitch g) s = .next { s with gangs := s.gangs.eraseIdx g } := by
  have hpanels : s.panels.filter (fun p => p.launch.gang == x.out && p.life == .running) = [] :=
    List.filter_eq_nil_iff.2 fun p hp => by simpa using hout p hp
  have hsaved : s.saved.filter (fun v => v.panel.launch.gang == x.inc) = [] :=
    List.filter_eq_nil_iff.2 fun v hv => by simpa using hinc v hv
  show execGangSwitch g s = _
  simp only [execGangSwitch, h, if_neg (Nat.not_lt.2 hat), hpanels, hsaved, List.foldl_nil]

theorem hangWatchdog_reports {s : State} {w : Nat} (hw : s.hasWeft w = true) :
    let v := s.weft w
    let p := s.panel v.panel
    let k := s.ctx p.ctx
    let pcs := v.liveLanes.map (fun i => (v.lane i).pc.toNat)
    k.wdog ≠ 0 → 1024 * k.wdog ≤ v.hang → exec (.hangWatchdog w) s =
      .next (((s.modWeft w (fun x => { x with hang := 0 })).report "watchdog" p.ctx
        ([p.index, v.pweft, s.leafOf? v (s.core v.core).slot] ++ pcs)).event k.func 4 0 p.ctx p.index (pcs.headD 0) 0) := by
  intro v p k pcs hset hreached
  have hdue : ¬ (k.wdog = 0 ∨ v.hang < 1024 * k.wdog ∨ (!s.hasWeft w) = true) := by
    rw [hw]
    simp only [Bool.not_true, Bool.false_eq_true, or_false]
    omega
  exact if_neg hdue

/-! ### O49 -/

/-- Settles O49: each event by the branch that its hypotheses choose; a resumption writes bytes and cores beside its panel. -/
theorem preemptionEvents : Obligations.PreemptionEvents := by
  unfold Obligations.PreemptionEvents
  refine ⟨fun s p hrun hs => preemptRequest_halts hrun hs, fun s p h => haltPanel_of_no_deq h,
    fun s p ks t hne h hks ht => panelSave_saves hne h hks ht, fun s id v h => panelResume_resumes h, fun s cores v a ws pad data => ?_,
    fun s g x h hat hout hinc => gangSwitch_leaves h hat hout hinc, fun s w hw => hangWatchdog_reports hw⟩
  exact ⟨putResumed_saved, s.resumedPanel v a, putResumed_panels, rfl, rfl, rfl, rfl, rfl, rfl⟩

end Sys2Proof.Proofs
end

section
/-! SUPPORT. Software and debug events (O53): a stopped lane of a weft whose panel is not there. -/
namespace Sys2Proof.Proofs
open Sys2Proof Sys2Proof.Machine

/-! ### O53 -/

/-- A readable segment of on-chip bytes. -/
def chipSegment : Desc := ⟨4, true, true, false, false, false, false, 0, 0, 0, 0xFFF, 0, 0, 0, 0, 0⟩

/-- A stopped lane that holds entry 3 by its UNBOUND handler. -/
def stoppedLane : Lane := { Lane.at0 with st := .stopped ⟨.trap, 0, 0, 0, 0⟩, unb := some (3, 0) }

/-- A weft with the stopped lane, of panel 5. -/
def strayWeft : Weft := { Weft.at0 1 with panel := 5, lanes := [stoppedLane] }

/-- A REPLAY panel of number 0. -/
def replayPanel : Panel := { Panel.at0 0 with launch := { (Panel.at0 0).launch with replay := true } }

/-- A machine with the weft but without its panel; panel 0, which is there, runs under REPLAY. -/
def strayed : State := { State.reset with
  cores := [(0, { CoreSt.reset with tlbDesc := [(0, 2, chipSegment)] })]
  panels := [replayPanel]
  wefts := [strayWeft]
  nextId := 10 }

/-- The frames that the lane's walk finds: the one at 0x20, a root. -/
def rootFrames : List (Nat × Frame) := [(0x20, Frame.ofNat 0)]

theorem strayed_walk : strayed.framesFrom (strayed.reqNow 1 0) 1 (frameFuel ((strayed.weft 1).lane 0).fb.toNat)
    ((strayed.weft 1).lane 0).fb.toNat = .ok rootFrames := by decide +kernel

/-- Whether panel 0 has a checkpoint in the state that follows. -/
def panel0Checkpoint (o : Host.Outcome State Fault Refusal) : Bool :=
  match o with
  | .next t => (t.panel 0).ckpt.isSome
  | _ => false

theorem checkpoint_after_laneEnd : panel0Checkpoint (exec (.laneEnd 1 0) strayed) = true := by decide +kernel

/-- The end of a stopped lane that holds entries, of a weft whose panel is there and does not run under REPLAY (R290). -/
theorem laneEnd_of_panel {s : State} {w k : Nat} {fs : List (Nat × Frame)} (hstop : ((s.weft w).lane k).isStopped = true)
    (hsub : (s.weft w).inSub k = false) (hid : (s.panel (s.weft w).panel).id = (s.weft w).panel)
    (hwalk : s.framesFrom (s.reqNow w k) w (frameFuel ((s.weft w).lane k).fb.toNat) ((s.weft w).lane k).fb.toNat = .ok fs)
    (hpage : s.entryPage (s.panel (s.weft w).panel).ctx (heldEntries fs ++ ((s.weft w).lane k).binds.map (·.1)) = none)
    (hheld : heldEntries fs ++ ((s.weft w).lane k).binds.map (·.1) ≠ []) (hreplay : (s.panel (s.weft w).panel).launch.replay = false) :
    exec (.laneEnd w k) s = .next ((((s.modLane w k (fun x => { x with st := ((s.weft w).lane k).st, pos := .ending })).failLane
      (s.panel (s.weft w).panel).ctx ((s.weft w).lane k)).wakeLane w k true).exitFrames w k (s.panel (s.weft w).panel).ctx fs) := by
  have hempty : ¬ (heldEntries fs ++ ((s.weft w).lane k).binds.map (·.1)).isEmpty = true := by simpa using hheld
  have hpanel : (((s.modLane w k (fun x => { x with st := ((s.weft w).lane k).st, pos := .ending })).panel
      (s.panel (s.weft w).panel).id).launch.replay) = false := by
    rw [hid]
    exact hreplay
  show execLaneEnd w k s = _
  simp only [execLaneEnd, hstop, hsub, Bool.not_false, Bool.and_self, if_true, State.endLane, hwalk, hpage, if_neg hempty, State.atCommit,
    hpanel, Bool.false_eq_true, if_false]

/-- Refutes O53: the clause on the end of a lane that holds entries reads REPLAY of the panel that its weft names. In `strayed` that panel
is not there, the end's commit point is that of panel 0, and it checkpoints panel 0. Of a weft whose panel is there the clause holds
(`laneEnd_of_panel`). -/
theorem not_softwareAndDebugEvents : ¬ Obligations.SoftwareAndDebugEvents := by
  unfold Obligations.SoftwareAndDebugEvents
  rintro ⟨hstopped, -⟩
  obtain ⟨-, hend⟩ := hstopped strayed 1 0 (by decide)
  obtain ⟨-, hheld, -⟩ := hend (by decide)
  have hnext := hheld rootFrames strayed_walk (by decide +kernel) (by decide) (by decide)
  have hckpt := checkpoint_after_laneEnd
  rw [hnext] at hckpt
  exact absurd hckpt (by decide +kernel)

end Sys2Proof.Proofs
end

section
/-! SUPPORT. The delta stream form (R230, R355): a stream decodes to the codes that it encodes. -/
namespace Sys2Proof.Proofs
open Sys2Proof Sys2Proof.Machine

/-! ### Items in bytes -/

/-- The items of packed items are the items, and after them at most a pad item. -/
theorem unpackItems_packItems : ∀ is : List Nat, (∀ d ∈ is, d < 16) → ∃ r, unpackItems (packItems is) = is ++ r
  | [], _ => ⟨[], rfl⟩
  | [a], h => by
    have ha : a < 16 := h a (by simp)
    refine ⟨[0], ?_⟩
    simp only [packItems, unpackItems, List.flatMap_cons, List.flatMap_nil, BitVec.toNat_ofNat]
    rw [show a % 2 ^ 8 % 16 = a by omega, show a % 2 ^ 8 / 16 = 0 by omega]
    rfl
  | a :: b :: is, h => by
    have ha : a < 16 := h a (by simp)
    have hb : b < 16 := h b (by simp)
    obtain ⟨r, hr⟩ := unpackItems_packItems is fun d hd => h d (by simp [hd])
    refine ⟨r, ?_⟩
    simp only [unpackItems] at hr
    simp only [packItems, unpackItems, List.flatMap_cons, BitVec.toNat_ofNat, hr]
    rw [show (a + 16 * b) % 2 ^ 8 % 16 = a by omega, show (a + 16 * b) % 2 ^ 8 / 16 = b by omega]
    rfl

/-! ### Codes in items -/

/-- A delta that fits in a nibble, as the nibble. -/
def nibbleOf (p c : Nat) : Nat := (((c : Int) - p) % 16).toNat
/-- Whether a code follows a code by a delta that fits. -/
def Near (p c : Nat) : Prop := -7 ≤ (c : Int) - p ∧ (c : Int) - p ≤ 7

theorem nibbleOf_lt (p c : Nat) : nibbleOf p c < 16 := by
  unfold nibbleOf
  omega

theorem nibbleOf_ne_eight {p c : Nat} (h : Near p c) : nibbleOf p c ≠ 8 := by
  obtain ⟨hlo, hhi⟩ := h
  unfold nibbleOf
  omega

/-- The code that a delta gives. -/
theorem code_of_nibble {p c : Nat} (hc : c < 256) (h : Near p c) :
    (p + (if 8 ≤ nibbleOf p c then nibbleOf p c + 240 else nibbleOf p c)) % 256 = c := by
  obtain ⟨hlo, hhi⟩ := h
  unfold nibbleOf
  split <;> omega

theorem deltaItems_near {p c : Nat} (h : Near p c) (cs : List Nat) : deltaItems (some p) (c :: cs) = nibbleOf p c :: deltaItems (some c) cs := by
  obtain ⟨hlo, hhi⟩ := h
  simp [deltaItems, hlo, hhi, nibbleOf]

theorem deltaItems_far {q : Option Nat} {c : Nat} (h : ∀ p, q = some p → ¬ Near p c) (cs : List Nat) :
    deltaItems q (c :: cs) = 8 :: (c % 16) :: (c / 16 % 16) :: deltaItems (some c) cs := by
  cases q with
  | none => rfl
  | some p =>
    have hfar := h p rfl
    simp only [Near, not_and] at hfar
    have hcond : ((some p).isSome && decide (-7 ≤ (c : Int) - ((some p).getD 0 : Nat)) && decide ((c : Int) - ((some p).getD 0 : Nat) ≤ 7)) = false := by
      simpa using hfar
    simp only [deltaItems]
    rw [if_neg (by rw [hcond]; decide)]
    rfl

theorem deltaItems_lt : ∀ (cs : List Nat) (q : Option Nat), ∀ d ∈ deltaItems q cs, d < 16
  | [], _, d, h => by simp [deltaItems] at h
  | c :: cs, q, d, h => by
    by_cases hnear : ∃ p, q = some p ∧ Near p c
    · obtain ⟨p, rfl, hp⟩ := hnear
      rw [deltaItems_near hp] at h
      rcases List.mem_cons.1 h with rfl | h
      · exact nibbleOf_lt p c
      · exact deltaItems_lt cs _ d h
    · rw [deltaItems_far fun p hp hn => hnear ⟨p, hp, hn⟩] at h
      simp only [List.mem_cons] at h
      rcases h with rfl | rfl | rfl | h
      · decide
      · omega
      · omega
      · exact deltaItems_lt cs _ d h

/-! ### Codes from items -/

theorem deltaCodes_escape (n p lo hi : Nat) (r : List Nat) :
    deltaCodes (n + 1) p (8 :: lo :: hi :: r) = (lo + 16 * hi) :: deltaCodes n (lo + 16 * hi) r := rfl

theorem deltaCodes_nibble {n p d : Nat} (h : d ≠ 8) (r : List Nat) :
    deltaCodes (n + 1) p (d :: r) = (p + (if 8 ≤ d then d + 240 else d)) % 256 :: deltaCodes n ((p + (if 8 ≤ d then d + 240 else d)) % 256) r := by
  rw [deltaCodes.eq_def]
  split
  · next heq => cases heq
  · next heq =>
      obtain ⟨rfl, -⟩ := List.cons.inj heq
      exact absurd rfl h
  · rename_i hn heq
    obtain ⟨rfl, rfl⟩ := List.cons.inj heq
    obtain rfl := Nat.succ.inj hn
    simp [h]
  · next heq => cases heq

/-- The items of codes, whatever follows them, give the codes. -/
theorem deltaCodes_deltaItems : ∀ (cs : List Nat), (∀ c ∈ cs, c < 256) → ∀ (q : Option Nat) (p : Nat) (r : List Nat), (∀ x, q = some x → x = p) →
    deltaCodes cs.length p (deltaItems q cs ++ r) = cs
  | [], _, _, _, _, _ => rfl
  | c :: cs, h, q, p, r, hq => by
    have hc : c < 256 := h c (by simp)
    have ih := deltaCodes_deltaItems cs (fun x hx => h x (by simp [hx])) (some c) c r (fun x hx => (Option.some.inj hx).symm)
    by_cases hnear : ∃ x, q = some x ∧ Near x c
    · obtain ⟨x, rfl, hx⟩ := hnear
      obtain rfl := hq x rfl
      rw [deltaItems_near hx, List.cons_append, List.length_cons, deltaCodes_nibble (nibbleOf_ne_eight hx), code_of_nibble hc hx, ih]
    · rw [deltaItems_far fun x hx hn => hnear ⟨x, hx, hn⟩]
      simp only [List.cons_append, List.length_cons, deltaCodes_escape]
      rw [show c % 16 + 16 * (c / 16 % 16) = c by omega, ih]

/-- R230: a stream decodes to the codes that it encodes. -/
theorem deltaDecode_deltaEncode (cs : List Byte) : deltaDecode cs.length (deltaEncode cs) = cs := by
  obtain ⟨r, hr⟩ := unpackItems_packItems (deltaItems none (cs.map BitVec.toNat)) (deltaItems_lt _ _)
  have hcodes := deltaCodes_deltaItems (cs.map BitVec.toNat) (fun c hc => by
    obtain ⟨b, -, rfl⟩ := List.mem_map.1 hc
    exact b.isLt) none 0 r (fun x hx => by cases hx)
  rw [List.length_map] at hcodes
  rw [deltaDecode, deltaEncode, hr, hcodes, List.map_map]
  exact (List.map_congr_left fun b _ => by simp).trans (List.map_id cs)

/-- The items of a code after a code: its delta where that fits, else an escape and the code in two nibbles. -/
theorem deltaItems_step (a b : Byte) (cs : List Byte) :
    let d : Int := b.toNat - a.toNat
    deltaItems (some a.toNat) ((b :: cs).map BitVec.toNat) = (if -7 ≤ d ∧ d ≤ 7 then [(BitVec.ofInt 4 d).toNat]
      else [8, (b.extractLsb' 0 4).toNat, (b.extractLsb' 4 4).toNat]) ++ deltaItems (some b.toNat) (cs.map BitVec.toNat) := by
  intro d
  by_cases h : -7 ≤ d ∧ d ≤ 7
  · rw [if_pos h, List.map_cons, deltaItems_near h, BitVec.toNat_ofInt]
    rfl
  · rw [if_neg h, List.map_cons, deltaItems_far (fun p hp => by cases hp; exact h), BitVec.extractLsb'_toNat, BitVec.extractLsb'_toNat,
      Nat.shiftRight_zero, Nat.shiftRight_eq_div_pow]
    rfl

end Sys2Proof.Proofs
end

section
/-! SUPPORT. Errors and rollback (O50): a pad share that lies past its core's pad. -/
namespace Sys2Proof.Proofs
open Sys2Proof Sys2Proof.Machine

/-! ### O50 -/

/-- A panel of core 0 whose share starts where the physical addresses come round to its core's register file. -/
def overrunPanel : Panel := { Panel.at0 1 with padb := (2 ^ 31 - padOff) / 0x4000 }

/-- A checkpoint of the panel's weft, with one byte of the share. -/
def overrunCkpt : Ckpt := ⟨[Weft.at0 1], [0xFF], [], 0, true⟩

/-- A machine with the panel and its weft. -/
def overrun : State := { State.reset with
  panels := [overrunPanel]
  wefts := [Weft.at0 1]
  nextId := 10 }

theorem rollback_writes_register : ((overrun.rollbackTo overrunPanel overrunCkpt).weft 1).regs = [(keyV 0 0, 0xFF)] := by decide +kernel

/-- Refutes O50: the clause on a rollback takes a panel of any pad share. The share of `overrunPanel` starts past its core's pad, the pad bytes
of its checkpoint are written back into v0 of lane 0, and that register is not the checkpoint's. -/
theorem not_errorsAndRollback : ¬ Obligations.ErrorsAndRollback := by
  unfold Obligations.ErrorsAndRollback
  rintro ⟨-, -, -, hrollback, -⟩
  obtain ⟨-, -, hweft⟩ := hrollback overrun overrunPanel overrunCkpt 1 ⟨overrunPanel, by decide, rfl⟩ (by decide)
  obtain ⟨hregs, -⟩ := hweft (Weft.at0 1) (by decide +kernel)
  rw [rollback_writes_register] at hregs
  exact absurd hregs (by decide)

end Sys2Proof.Proofs
end

section
/-! SUPPORT. What resets, repairs and key commands leave (O51). -/
namespace Sys2Proof.Proofs
open Sys2Proof Sys2Proof.Machine

/-! ### What a reset of a function changes last -/

/-- What has been sent to the host, the contexts, the launches, and the panels with their numbers and launches. -/
structure Standing where
  hostOut  : List HostMsg
  ctxs     : List Ctx
  launches : List Launch
  panels   : List (Nat × Launch)

/-- What stands in a state. -/
def standing (s : State) : Standing := ⟨s.hostOut, s.ctxs, s.launches, s.panels.map fun p => (p.id, p.launch)⟩

theorem write_standing (s : State) (ws : List Wr) : standing (s.write ws) = standing s :=
  write_preserves standing (fun _ _ _ => rfl) (fun _ _ => rfl) (fun _ _ => rfl) s ws

theorem deviceWrite_standing (s : State) (c : CtxId) (seg : Seg) (off size x : Nat) :
    standing (s.deviceWrite c seg off size x) = standing s := by
  unfold State.deviceWrite
  split
  · exact write_standing s _
  · rfl

theorem bindEntry_standing (s : State) (c : CtxId) (eb e b : Nat) : standing (s.bindEntry c eb e b).1 = standing s := by
  cases hw : s.entryWords c eb e with
  | error f => simp only [State.bindEntry, hw]
  | ok q =>
    obtain ⟨lo, hi⟩ := q
    cases hx : BEntry.parse lo hi with
    | none => simp only [State.bindEntry, hw, hx]
    | some x =>
      rw [bindEntry_of_parse b hw hx]
      split
      · exact deviceWrite_standing s c (s.ctx c).btseg (eb + 16 * e) 16 _
      · rfl

theorem bindFailed_standing (s : State) (c : CtxId) (e cseq : Nat) : standing (s.bindFailed c e cseq) = standing s := by
  unfold State.bindFailed
  split
  · exact bindEntry_standing s c _ e _
  · rfl

theorem failLane_standing (s : State) (c : CtxId) (l : Lane) : standing (s.failLane c l) = standing s := by
  unfold State.failLane
  refine foldl_keeps standing (fun y q => ?_) l.binds s
  exact bindFailed_standing y c q.1 q.2

theorem failBinds_standing (s : State) (c : CtxId) (ws : List Weft) : standing (s.failBinds c ws) = standing s := by
  unfold State.failBinds
  exact foldl_keeps standing (fun y w => foldl_keeps standing (fun z l => failLane_standing z c l) w.lanes y) ws s

theorem quitWalks_standing (s : State) (core who : Nat) : standing (s.quitWalks core who) = standing s := by
  unfold State.quitWalks
  dsimp only
  split <;> rfl

theorem partDone_standing (s : State) (w id : Nat) : standing (s.partDone w id) = standing s := by
  have hpanels : (s.partDone w id).panels.map (fun p => (p.id, p.launch)) = s.panels.map (fun p => (p.id, p.launch)) := by
    simp only [State.partDone, State.modBoth, List.map_map]
    refine List.map_congr_left fun p _ => ?_
    rw [Function.comp_apply]
    split <;> rfl
  exact congrArg (Standing.mk s.hostOut s.ctxs s.launches) hpanels

theorem sweepFut_standing (s : State) (r : FutRef) : standing (s.sweepFut r) = standing s := by
  unfold State.sweepFut
  split
  · split <;> rfl
  · rfl

theorem completeFut_standing (s : State) (r : FutRef) (v : DWord) : standing (s.completeFut r v) = standing s := by
  unfold State.completeFut
  split
  · split
    · refine (sweepFut_standing _ r).trans ((foldl_keeps standing (fun y w => ?_) _ _).trans rfl)
      exact partDone_standing y w.1 w.2
    · rfl
  · rfl

theorem endPart_standing (s : State) (r : FutRef) (bytes fault : Nat) (cancelled : Bool) :
    standing (s.endPart r bytes fault cancelled) = standing s := by
  unfold State.endPart
  split
  · rfl
  · dsimp only
    split
    · exact completeFut_standing _ r _
    · rfl

theorem modPend_standing (s : State) (pid : Nat) (b : Option (Scope × Nat)) (g : Nat → Nat) :
    standing (s.modPend pid b g) = standing s := by
  cases b with
  | none => rfl
  | some q =>
    have hpanels : (s.modPend pid (some q) g).panels.map (fun p => (p.id, p.launch)) = s.panels.map (fun p => (p.id, p.launch)) := by
      simp only [State.modPend, State.modPanel, List.map_map]
      refine List.map_congr_left fun p _ => ?_
      rw [Function.comp_apply]
      split <;> rfl
    exact congrArg (Standing.mk s.hostOut s.ctxs s.launches) hpanels

theorem endPost_standing (s : State) (core q : Nat) (p : NetPost) (fault : Nat) (cancelled : Bool) :
    standing (s.endPost core q p fault cancelled) = standing s := by
  unfold State.endPost
  dsimp only
  split
  · exact (endPart_standing _ _ _ _ _).trans (modPend_standing _ _ _ _)
  · exact modPend_standing _ _ _ _

theorem eraseKeys_standing (s : State) (key : Nat) : standing (s.eraseKeys key) = standing s := by
  unfold State.eraseKeys
  refine Eq.trans rfl (foldl_keeps standing (fun y k => ?_) s.cores s)
  refine foldl_keeps standing (fun z q => ?_) _ y
  refine foldl_keeps standing (fun a p => ?_) _ z
  exact endPost_standing a k.1 q.2 p _ _

theorem dropLines_standing (s : State) (f : DLine → Bool) : standing (s.dropLines f) = standing s := by
  unfold State.dropLines
  split <;> rfl

theorem voidKey_standing (s : State) (key : Nat) : standing (s.voidKey key) = standing s := dropLines_standing s _

theorem zeroTile_standing (s : State) (core t : Nat) (o : CtxId) : standing (s.zeroTile core t o) = standing s :=
  zeroTile_preserves standing (fun _ _ _ => rfl) (fun _ _ => rfl) (fun _ _ => rfl) s core t o

theorem clearCore_standing (s : State) (mine : CtxId → Bool) (core : Nat) : standing (s.clearCore mine core) = standing s := by
  unfold State.clearCore
  dsimp only
  refine (foldl_keeps standing (fun y t => ?_) (List.range 12) _).trans (foldl_keeps standing (fun y e => write_standing y _) _ s)
  split
  · exact zeroTile_standing y core t 0
  · rfl

/-- A panel that leaves its core is not among the panels any more; the rest stands. -/
theorem leaveCore_standing (s : State) (p : Panel) :
    standing (s.leaveCore p) = { standing s with panels := (standing s).panels.filter (fun q => q.1 != p.id) } := by
  have hdrop : ∀ (y : State) core c, standing (y.dropResid core c) = standing y := fun y core c => by
    unfold State.dropResid
    split <;> rfl
  have hwalks : standing ((s.weftsOf p.id).foldl (fun y w => y.quitWalks p.core (whoFor p.core w.id)) s) = standing s :=
    foldl_keeps standing (fun y w => quitWalks_standing y _ _) _ s
  rw [← hwalks]
  unfold State.leaveCore
  dsimp only
  rw [hdrop]
  simp only [standing, List.filter_map, Function.comp_def, modCore_panels, modCore_hostOut, modCore_ctxs, modCore_launches]

theorem clearShare_standing (s : State) (a : Allot) (n : Nat) : standing (s.clearShare a n) = standing s :=
  clearShare_preserves standing (fun _ _ _ => rfl) (fun _ _ => rfl) (fun _ _ => rfl) s a n

/-! ### The panels of a context are discarded (R456) -/

/-- Panels that leave their cores, their pads cleared. -/
def leaveCores (s : State) (ps : List Panel) : State :=
  ps.foldl (fun y p => (y.clearShare ⟨p.core, 0, 0, p.padb, 0, 0⟩ p.launch.padu).leaveCore p) s

theorem leaveCores_standing (ps : List Panel) (s : State) :
    standing (leaveCores s ps) = { standing s with panels := (standing s).panels.filter (fun q => ps.all (fun p => q.1 != p.id)) } := by
  induction ps generalizing s with
  | nil => simp [leaveCores]
  | cons p ps ih =>
    rw [leaveCores, List.foldl_cons]
    refine (ih _).trans ?_
    rw [leaveCore_standing, clearShare_standing]
    simp only [List.filter_filter, List.all_cons, Bool.and_comm]

/-- The entries that handlers of discarded panels were to bind are bound FAILED. -/
def unbindPanels (s : State) (mine : CtxId → Bool) : State :=
  (s.saved.filter (fun v => mine v.panel.ctx)).foldl (fun y v => y.failBinds v.panel.ctx v.wefts)
    ((s.panels.filter (fun p => mine p.ctx)).foldl (fun y p => y.failBinds p.ctx (y.weftsOf p.id)) s)

theorem unbindPanels_standing (s : State) (mine : CtxId → Bool) : standing (unbindPanels s mine) = standing s := by
  unfold unbindPanels
  refine (foldl_keeps standing (fun y v => ?_) _ _).trans (foldl_keeps standing (fun y p => ?_) _ s)
  · exact failBinds_standing y _ _
  · exact failBinds_standing y _ _

/-- Their walks are given up. -/
def quitPanels (s : State) (mine : CtxId → Bool) : State :=
  ((unbindPanels s mine).lates.filter (fun q => ((s.wefts.filter (fun w => mine (s.panel w.panel).ctx)).map (fun w => w.id)).contains q.weft)).foldl
    (fun y q => y.quitWalks (y.weft q.weft).core (whoFor (y.weft q.weft).core q.track)) (unbindPanels s mine)

theorem quitPanels_standing (s : State) (mine : CtxId → Bool) : standing (quitPanels s mine) = standing s := by
  unfold quitPanels
  refine (foldl_keeps standing (fun y q => ?_) _ _).trans (unbindPanels_standing s mine)
  exact quitWalks_standing y _ _

theorem discardPanels_standing (s : State) (mine : CtxId → Bool) :
    standing (s.discardPanels mine) =
      { standing s with
        launches := s.launches.filter (fun l => !mine l.ctx)
        panels := (standing s).panels.filter (fun q => (s.panels.filter (fun p => mine p.ctx)).all (fun p => q.1 != p.id)) } := by
  have hleft := leaveCores_standing (s.panels.filter (fun p => mine p.ctx)) (quitPanels s mine)
  rw [quitPanels_standing] at hleft
  have hdiscard : standing (s.discardPanels mine) = { standing (leaveCores (quitPanels s mine) (s.panels.filter (fun p => mine p.ctx))) with
      launches := (standing (leaveCores (quitPanels s mine) (s.panels.filter (fun p => mine p.ctx)))).launches.filter
        (fun l => !mine l.ctx) } := rfl
  rw [hdiscard, hleft]
  rfl

/-- No discarded panel stays. -/
theorem discardPanels_panels (s : State) (mine : CtxId → Bool) {q : Nat × Launch} (hq : q ∈ (standing (s.discardPanels mine)).panels) :
    mine q.2.ctx = false := by
  rw [discardPanels_standing] at hq
  obtain ⟨hmem, hkept⟩ := List.mem_filter.1 hq
  obtain ⟨p, hp, rfl⟩ := List.mem_map.1 hmem
  by_contra hmine
  have hdiscarded : p ∈ s.panels.filter (fun p => mine p.ctx) := List.mem_filter.2 ⟨hp, by simpa [Panel.ctx] using hmine⟩
  simpa using List.all_eq_true.1 hkept p hdiscarded

/-! ### The reset of a function (R456, R469) -/

/-- The contexts of a function. -/
def ofFn (s : State) (n : Nat) (c : CtxId) : Bool := s.ctxs.any (fun x => x.id == c && x.func == n)

/-- The panels of a function discarded, and the cores and the keys cleared of its contexts. -/
def clearedFn (s : State) (n : Nat) : State :=
  ((s.ctxs.filter (fun x => x.func == n)).flatMap (fun c => [c.tag.toNat, bitsOf c.root.toNat 11 0])).foldl
    (fun y k => if (y.key k).1 = .empty then y else (y.voidKey k).eraseKeys k)
    ((s.discardPanels (ofFn s n)).cores.foldl (fun y k => y.clearCore (ofFn s n) k.1) (s.discardPanels (ofFn s n)))

theorem clearedFn_standing (s : State) (n : Nat) : standing (clearedFn s n) = standing (s.discardPanels (ofFn s n)) := by
  unfold clearedFn
  refine (foldl_keeps standing (fun y k => ?_) _ _).trans (foldl_keeps standing (fun y k => ?_) _ _)
  · split
    · rfl
    · exact (eraseKeys_standing _ k).trans (voidKey_standing y k)
  · exact clearCore_standing y _ k.1

theorem resetFn_standing (s : State) (n : Nat) :
    standing (s.resetFn n) = { standing (s.discardPanels (ofFn s n)) with
      hostOut := s.hostOut ++ [.msix n 1], ctxs := s.ctxs.filter (fun c => c.func != n) } := by
  have hreset : standing (s.resetFn n) = { standing (clearedFn s n) with
      hostOut := (standing (clearedFn s n)).hostOut ++ [.msix n 1]
      ctxs := (standing (clearedFn s n)).ctxs.filter (fun c => c.func != n) } := rfl
  rw [hreset, clearedFn_standing, discardPanels_standing]
  rfl

theorem functionLevelReset_clears (s : State) {n : Nat} (hboot : s.boot = 7) (hpos : 0 < n) (hlt : n < 16) :
    ∃ t, exec (.functionLevelReset n) s = .next t ∧
      t.ctxs = s.ctxs.filter (fun c => c.func != n) ∧ t.hostOut = s.hostOut ++ [.msix n 1] ∧
      (∀ p ∈ t.panels, ∀ c ∈ s.ctxs, c.func = n → c.id ≠ p.ctx) ∧ (∀ l ∈ t.launches, ∀ c ∈ s.ctxs, c.func = n → c.id ≠ l.ctx) := by
  have hstanding := resetFn_standing s n
  have hof : ∀ c ∈ s.ctxs, c.func = n → ofFn s n c.id = true := fun c hc hn =>
    List.any_eq_true.2 ⟨c, hc, by simp [hn]⟩
  refine ⟨s.resetFn n, ?_, congrArg Standing.ctxs hstanding, congrArg Standing.hostOut hstanding, fun p hp c hc hn hid => ?_,
    fun l hl c hc hn hid => ?_⟩
  · show execFunctionLevelReset n s = _
    rw [execFunctionLevelReset, if_neg (by omega), if_neg (by omega)]
  · have hmem : (p.id, p.launch) ∈ (standing (s.resetFn n)).panels := List.mem_map.2 ⟨p, hp, rfl⟩
    rw [hstanding] at hmem
    have hfree := discardPanels_panels s (ofFn s n) hmem
    rw [show ofFn s n p.launch.ctx = true from (congrArg (ofFn s n) hid).symm.trans (hof c hc hn)] at hfree
    cases hfree
  · have hmem : l ∈ (standing (s.resetFn n)).launches := hl
    rw [hstanding, discardPanels_standing] at hmem
    obtain ⟨-, hfree⟩ := List.mem_filter.1 hmem
    rw [show ofFn s n l.ctx = true from (congrArg (ofFn s n) hid).symm.trans (hof c hc hn)] at hfree
    cases hfree

theorem functionLevelReset_zero (s : State) (hboot : s.boot = 7) :
    exec (.functionLevelReset 0) s = .next ((List.range 16).foldl (fun y n => y.resetFn n) s) := by
  show execFunctionLevelReset 0 s = _
  rw [execFunctionLevelReset, if_neg (by omega), if_pos rfl]

/-! ### A drained quad (R458) -/

/-- A change at a key leaves what is looked up above it, in whatever order the map stands. -/
theorem sget_sput_above {α : Type} [DecidableEq α] (d : α) {i j : Nat} (h : i < j) (v : α) (m : List (Nat × α)) :
    sget d (sput d m i v) j = sget d m j := by
  induction m with
  | nil =>
    rw [sput]
    split
    · rfl
    · simp only [sget]
      rw [if_neg (by omega), if_neg (by omega)]
  | cons p m ih =>
    obtain ⟨k, x⟩ := p
    rw [sput]
    split
    · split
      · rfl
      · rw [sget, if_neg (by omega), if_neg (by omega)]
    · split
      · split
        · rw [sget, if_neg (by omega), if_neg (by omega)]
        · rw [sget, sget, if_neg (by omega), if_neg (by omega), if_neg (by omega), if_neg (by omega)]
      · simp only [sget, ih]

theorem clearBeam_core_above (s : State) {c k : Nat} (h : c < k) : (s.clearBeam c).core k = s.core k := sget_sput_above _ h _ _

theorem emptyTiles_of_unowned {s : State} {core : Nat} : ∀ {ts : List Nat}, (∀ t ∈ ts, (s.tag core t).owner = 0) → s.emptyTiles core ts = some s
  | [], _ => rfl
  | t :: ts, h => by
    rw [State.emptyTiles, if_pos (h t List.mem_cons_self)]
    exact emptyTiles_of_unowned fun u hu => h u (List.mem_cons_of_mem t hu)

/-- The tiles of one more core spilled and its structures cleared, where those before have been. -/
def emptyCore (acc : Option State) (c : Nat) : Option State :=
  acc.bind (fun y => (y.emptyTiles c (List.range 12)).map (fun z => z.clearBeam c))

/-- Cores in rising order whose tiles nobody owns are cleared. -/
theorem emptyCores_of_unowned : ∀ {cs : List Nat} {s : State}, cs.Pairwise (· < ·) → (∀ c ∈ cs, ∀ t < 12, (s.tag c t).owner = 0) →
    cs.foldl emptyCore (some s) = some (cs.foldl State.clearBeam s)
  | [], _, _, _ => rfl
  | c :: cs, s, hrise, h => by
    obtain ⟨habove, hrise⟩ := List.pairwise_cons.1 hrise
    have hempty : s.emptyTiles c (List.range 12) = some s :=
      emptyTiles_of_unowned fun t ht => h c List.mem_cons_self t (List.mem_range.1 ht)
    have hcore : emptyCore (some s) c = some (s.clearBeam c) := by simp [emptyCore, hempty]
    rw [List.foldl_cons, hcore, List.foldl_cons]
    refine emptyCores_of_unowned hrise fun k hk t ht => ?_
    have hkeep : (s.clearBeam c).tag k t = s.tag k t := by rw [State.tag, clearBeam_core_above s (habove k hk), State.tag]
    rw [hkeep]
    exact h k (List.mem_cons_of_mem c hk) t ht

theorem quadCores_rise (die quad : Nat) : (quadCores die quad).Pairwise (· < ·) := by
  simp [quadCores, List.range_succ, coreOf]

theorem clearBeams_keep {α : Type} (g : State → α) (hg : ∀ (y : State) c, g { y with cores := c } = g y) (cs : List Nat) (s : State) :
    g (cs.foldl State.clearBeam s) = g s := foldl_keeps g (fun y _ => hg y _) cs s

/-- A cleared core. -/
def Cleared (k : CoreSt) : Prop := k.resid = [] ∧ k.beams = List.replicate 16 Macro.reset

theorem clearBeams_cleared : ∀ {cs : List Nat} {s : State} {c : Nat}, risesFrom 0 s.cores → (c ∈ cs ∨ Cleared (s.core c)) →
    Cleared ((cs.foldl State.clearBeam s).core c)
  | [], _, _, _, h => h.resolve_left (List.not_mem_nil)
  | k :: cs, s, c, hrise, h => by
    rw [List.foldl_cons]
    refine clearBeams_cleared (risesFrom_modCore hrise k _) ?_
    have hcore : (s.clearBeam k).core c = if c = k then { s.core k with resid := [], beams := List.replicate 16 Macro.reset, shuttle := 0 }
      else s.core c := core_modCore hrise k c _
    by_cases hck : c = k
    · right
      rw [hcore, if_pos hck]
      exact ⟨rfl, rfl⟩
    · rw [hcore, if_neg hck]
      exact h.imp_left fun hmem => (List.mem_cons.1 hmem).resolve_left hck

/-- A die's controller places nothing more on a quad. -/
def closeQuad (s : State) (die quad : Nat) : State :=
  s.modDie die (fun d => { d with drained := if d.drained.contains quad then d.drained else d.drained ++ [quad] })

theorem die_modDie {s : State} {d : Nat} (f : DieSt → DieSt) (h : d < s.dies.length) : (s.modDie d f).die d = f (s.die d) := by
  simp [State.die, State.modDie, List.getD_eq_getElem?_getD, h]

theorem closeQuad_drained (s : State) {die : Nat} (quad : Nat) (h : die < s.dies.length) :
    ((closeQuad s die quad).die die).drained.contains quad = true := by
  rw [closeQuad, die_modDie _ h]
  dsimp only
  split
  · assumption
  · simp

/-- The panels of a quad. -/
def quadPanels (s : State) (die quad : Nat) : List Panel := s.panels.filter (fun p => (quadCores die quad).contains p.core)

theorem quadDrain_of_empty {s : State} {die quad : Nat} (hpanels : ∀ p ∈ s.panels, p.core ∉ quadCores die quad)
    (htiles : ∀ c ∈ quadCores die quad, ∀ t < 12, (s.tag c t).owner = 0) :
    exec (.quadDrain die quad) s = .next (((quadCores die quad).foldl State.clearBeam (closeQuad s die quad)).report "quad drained" 0 [die, quad]) := by
  have hnone : quadPanels (closeQuad s die quad) die quad = [] := by
    refine List.filter_eq_nil_iff.2 fun p hp => ?_
    simpa using hpanels p hp
  have hempty : (quadCores die quad).foldl emptyCore (some (closeQuad s die quad)) = _ :=
    emptyCores_of_unowned (quadCores_rise die quad) htiles
  show execQuadDrain die quad s = _
  unfold execQuadDrain
  dsimp only
  rw [← closeQuad, ← quadPanels, hnone, if_neg (by simp)]
  show (match (quadCores die quad).foldl emptyCore (some (closeQuad s die quad)) with
    | some s2 => Host.Outcome.next (s2.report "quad drained" 0 [die, quad])
    | none => Host.Outcome.next ((closeQuad s die quad).report "page" 0 [die, quad])) = _
  rw [hempty]

theorem quadDrain_of_halted {s : State} {die quad : Nat} (hsome : quadPanels s die quad ≠ [])
    (hhalted : ∀ p ∈ quadPanels s die quad, (s.panel p.id).life ≠ .running) :
    exec (.quadDrain die quad) s = .next (closeQuad s die quad) := by
  have hfold : ∀ ps : List Panel, (∀ p ∈ ps, (s.panel p.id).life ≠ .running) → ps.foldl (fun y p =>
      if (y.panel p.id).life = .running ∧ y.savable p = true then y.haltGroup p else y) (closeQuad s die quad) = closeQuad s die quad := by
    intro ps
    induction ps with
    | nil => exact fun _ => rfl
    | cons p ps ih =>
      intro h
      rw [List.foldl_cons, if_neg fun hrun => h p List.mem_cons_self hrun.1]
      exact ih fun q hq => h q (List.mem_cons_of_mem p hq)
  show execQuadDrain die quad s = _
  unfold execQuadDrain
  dsimp only
  rw [← closeQuad, show List.filter (fun p => (quadCores die quad).contains p.core) (closeQuad s die quad).panels = quadPanels s die quad from rfl,
    if_pos (by simpa using hsome), hfold _ hhalted]

/-! ### The repair of a quad (R459) -/

/-- Cores given their heald maps in turn. -/
def giveMaps (die quad : Nat) (s : State) (gs : List (BitVec 16 × Nat)) : State :=
  gs.foldl (fun y g => y.modCore (coreOf die quad g.2) (fun k => { k with good := g.1, absent := decide (goodCount g.1 < 8) })) s

theorem giveMaps_core {die quad c : Nat} : ∀ {gs : List (BitVec 16 × Nat)} {s : State}, risesFrom 0 s.cores →
    (∀ g ∈ gs, coreOf die quad g.2 ≠ c) → (giveMaps die quad s gs).core c = s.core c
  | [], _, _, _ => rfl
  | g :: gs, s, hrise, h => by
    rw [giveMaps, List.foldl_cons]
    refine (giveMaps_core (risesFrom_modCore hrise _ _) fun x hx => h x (List.mem_cons_of_mem g hx)).trans ?_
    exact (core_modCore hrise _ c _).trans (if_neg fun hc => h g List.mem_cons_self hc.symm)

theorem giveMaps_absent {die quad : Nat} {g : BitVec 16 × Nat} : ∀ {gs : List (BitVec 16 × Nat)} {s : State}, risesFrom 0 s.cores →
    (gs.map (·.2)).Nodup → g ∈ gs → ((giveMaps die quad s gs).core (coreOf die quad g.2)).absent = decide (goodCount g.1 < 8)
  | [], _, _, _, h => absurd h List.not_mem_nil
  | x :: gs, s, hrise, hnodup, h => by
    obtain ⟨hfresh, hnodup⟩ := List.nodup_cons.1 hnodup
    have hrise' : risesFrom 0 (s.modCore (coreOf die quad x.2) (fun k => { k with good := x.1, absent := decide (goodCount x.1 < 8) })).cores :=
      risesFrom_modCore hrise _ _
    rw [giveMaps, List.foldl_cons]
    rcases List.mem_cons.1 h with rfl | h
    · have hother : ∀ y ∈ gs, coreOf die quad y.2 ≠ coreOf die quad g.2 := fun y hy heq =>
        hfresh (List.mem_map.2 ⟨y, hy, by simpa [coreOf] using heq⟩)
      refine (congrArg CoreSt.absent (giveMaps_core hrise' hother)).trans ?_
      rw [core_modCore hrise, if_pos rfl]
    · exact giveMaps_absent hrise' hnodup h

theorem quadBack_absent {s : State} (die quad : Nat) {a b c d g : BitVec 16} {j : Nat} (hj : [a, b, c, d][j]? = some g)
    (hbad : goodCount g < 8) (hrise : risesFrom 0 s.cores) : ((s.quadBack die quad [a, b, c, d]).core (coreOf die quad j)).absent = true := by
  have hmem : (g, j) ∈ [a, b, c, d].zipIdx := List.mem_zipIdx_iff_getElem?.2 hj
  have habsent := giveMaps_absent (die := die) (quad := quad) hrise (by simp) hmem
  exact habsent.trans (by simpa using hbad)

/-- A repaired quad is reported. -/
def repaired (t : State) (die quad : Nat) : State := (t.report "quad repair" 0 [die, quad]).event 0 7 0 0 0 0 0

theorem quadRepair_refuse {s : State} {die quad : Nat} {a b c d : BitVec 16} (hempty : s.quadEmpty die quad = true)
    (hgood : ∀ g ∈ [a, b, c, d], 8 ≤ goodCount g) :
    exec (.quadRepair die quad (.refuse a b c d)) s = .next (repaired (s.quadBack die quad [a, b, c, d]) die quad) := by
  have hall : [a, b, c, d].all (fun g => decide (8 ≤ goodCount g)) = true := List.all_eq_true.2 fun g hg => decide_eq_true (hgood g hg)
  show execQuadRepair die quad (.refuse a b c d) s = _
  simp only [execQuadRepair, hempty, hall, Bool.not_true, Bool.false_eq_true, if_false, if_true]
  rfl

theorem quadRepair_replace {s : State} {die quad : Nat} (a b c d : BitVec 16) (hempty : s.quadEmpty die quad = true) :
    exec (.quadRepair die quad (.replace a b c d)) s = .next (repaired (s.quadReplace die quad [a, b, c, d]) die quad) := by
  show execQuadRepair die quad (.replace a b c d) s = _
  simp only [execQuadRepair, hempty, Bool.not_true, Bool.false_eq_true, if_false]
  rfl

/-! ### Key slots (R88) -/

theorem voidKey_lines (s : State) (key : Nat) : (s.voidKey key).mem.lines = s.mem.lines.filter (fun l => l.okey != key) := by
  show (s.dropLines (fun l => l.okey == key)).mem.lines = _
  unfold State.dropLines
  split
  · rfl
  · next h => exact (List.filter_eq_self.2 fun l hl => by simpa using fun hk => h (List.any_eq_true.2 ⟨l, hl, by simpa using hk⟩)).symm

/-- What a key that is overwritten leaves: all but the lines, the key slots and what cores still see under the key. -/
theorem voidKey_keeps {α : Type} (g : State → α) (hmem : ∀ (y : State) m, g { y with mem := { y.mem with lines := m } } = g y)
    (hkeys : ∀ (y : State) ks st, g { y with keys := ks, stale := st } = g y) (s : State) (key : Nat) : g (s.voidKey key) = g s := by
  refine (hkeys _ _ _).trans ?_
  unfold State.dropLines
  split
  · exact hmem _ _
  · rfl

theorem voidKey_keys (s : State) (key : Nat) : (s.voidKey key).keys = sput (.empty, 0) s.keys key (.empty, (s.key key).2 + 1) := by
  have hkeys : (s.dropLines (fun l => l.okey == key)).keys = s.keys := by
    unfold State.dropLines
    split <;> rfl
  show sput _ (s.dropLines (fun l => l.okey == key)).keys key (.empty, (sget _ (s.dropLines (fun l => l.okey == key)).keys key).2 + 1) = _
  rw [hkeys]
  rfl

theorem keyDrainComplete_voids {s : State} {key : Nat} (hdraining : (s.key key).1 = .draining) (hidle : s.keyBusy key = false) :
    exec (.keyDrainComplete key) s = .next (s.voidKey key) := by
  show execKeyDrainComplete key s = _
  rw [execKeyDrainComplete, if_pos ⟨hdraining, hidle⟩]

/-! ### O51 -/

/-- Settles O51: resets and drains by what each of their steps leaves, the other commands clause by clause. -/
theorem serviceEvents : Obligations.ServiceEvents := by
  unfold Obligations.ServiceEvents
  refine ⟨fun s n hboot hpos hlt => functionLevelReset_clears s hboot hpos hlt, functionLevelReset_zero, ?_, ?_, ?_, ?_, ?_, fun _ _ => rfl, ?_⟩
  · intro s die quad hpanels htiles
    refine ⟨_, quadDrain_of_empty hpanels htiles, clearBeams_keep State.mem (fun _ _ => rfl) _ _, clearBeams_keep State.panels (fun _ _ => rfl) _ _,
      fun hdie => ?_, fun c hc hrise _ => clearBeams_cleared (s := closeQuad s die quad) hrise (.inl hc)⟩
    rw [← closeQuad_drained s quad hdie]
    exact clearBeams_keep (fun y => (y.die die).drained.contains quad) (fun _ _ => rfl) (quadCores die quad) (closeQuad s die quad)
  · rintro s die quad ps rfl hsome hhalted
    exact quadDrain_of_halted hsome hhalted
  · intro s die quad a b c d hempty
    refine ⟨fun hgood => quadRepair_refuse hempty hgood, fun hspare => ?_, fun j g hj hbad hrise _ => quadBack_absent die quad hj hbad hrise,
      fun hspare => ?_⟩
    · rw [quadRepair_replace a b c d hempty, State.quadReplace, if_pos hspare]
      rfl
    · rw [quadRepair_replace a b c d hempty, State.quadReplace, if_neg (by omega)]
      rfl
  · intro s stack row hnew
    show execHbmRowSpare stack row s = _
    rw [execHbmRowSpare, if_neg (by rw [hnew]; decide)]
  · intro s die hidle
    have hnone : s.dies.any (fun d => d.restarting) = false := List.any_eq_false.2 fun d hd => by simp [hidle d hd]
    constructor <;> simp only [exec, execFirmwareUpdate, hnone, Bool.false_eq_true, if_false, if_true]
  · intro s key
    refine ⟨fun hlt hempty => ?_, fun hused => ?_, fun hlive => ?_, fun hdraining hidle => ⟨_, keyDrainComplete_voids hdraining hidle,
      voidKey_keys s key, voidKey_lines s key, voidKey_keeps (fun y => y.mem.bytes) (fun _ _ => rfl) (fun _ _ _ => rfl) s key,
      voidKey_keeps (fun y => y.mem.tags) (fun _ _ => rfl) (fun _ _ _ => rfl) s key,
      voidKey_keeps State.cores (fun _ _ => rfl) (fun _ _ _ => rfl) s key, voidKey_keeps State.wefts (fun _ _ => rfl) (fun _ _ _ => rfl) s key⟩⟩
    · show execKeyCreate key s = _
      rw [execKeyCreate, if_pos ⟨hlt, hempty⟩]
    · show execKeyCreate key s = _
      rw [execKeyCreate, if_neg fun h => hused h.2]
    · show execKeyDestroy key s = _
      rw [execKeyDestroy, if_pos hlive]

end Sys2Proof.Proofs
end

section
/-! SUPPORT. Every lane of a die stops when it trips (R487). -/
namespace Sys2Proof.Proofs
open Sys2Proof Sys2Proof.Machine

/-! ### The seat of a weft: its panel and what its lanes do -/

/-- The panel of a weft, if it is there, and what each of its lanes does. -/
def seat (w : Nat) (s : State) : Option (Nat × List LaneSt) :=
  (s.wefts.find? (fun x => x.id == w)).map (fun x => (x.panel, x.lanes.map (·.st)))

theorem seat_of_weft {s : State} {w : Nat} (h : s.hasWeft w = true) : seat w s = some ((s.weft w).panel, (s.weft w).lanes.map (·.st)) := by
  obtain ⟨y, hy⟩ := Option.isSome_iff_exists.mp (List.find?_isSome.mpr (List.any_eq_true.mp h))
  simp only [seat, State.weft, hy, Option.map_some, Option.getD_some]

section
variable {w : Nat}

theorem seat_congr {s t : State} (h : t.wefts = s.wefts) : seat w t = seat w s := by rw [seat, seat, h]

/-- A change of every weft that keeps their numbers. -/
theorem seat_of_map {s t : State} {f : Weft → Weft} (h : t.wefts = s.wefts.map f) (hid : ∀ y, (f y).id = y.id) :
    seat w t = (s.wefts.find? (fun x => x.id == w)).map (fun x => ((f x).panel, (f x).lanes.map (·.st))) := by
  have hcomp : ((fun x : Weft => x.id == w) ∘ f) = fun x => x.id == w := funext fun y => by rw [Function.comp_apply, hid]
  simp only [seat, h, List.find?_map, hcomp, Option.map_map, Function.comp_def]

theorem seat_modWeft (s : State) (v : Nat) {f : Weft → Weft} (hid : ∀ y, (f y).id = y.id) (hpanel : ∀ y, (f y).panel = y.panel)
    (hlanes : ∀ y, (f y).lanes = y.lanes) : seat w (s.modWeft v f) = seat w s := by
  rw [seat_of_map (f := fun x => if x.id = v then f x else x) rfl (fun y => by split <;> simp [hid])]
  refine congrArg (fun g => Option.map g _) (funext fun x => ?_)
  split
  · rw [hpanel, hlanes]
  · rfl

/-- A lane changed. -/
theorem seat_modLane (s : State) (v j : Nat) (g : Lane → Lane) {st : LaneSt} (hst : ∀ l, (g l).st = st) :
    seat w (s.modLane v j g) = if v = w then (seat w s).map (fun q => (q.1, q.2.modify j (fun _ => st))) else seat w s := by
  have hmap : seat w (s.modLane v j g) = _ := seat_of_map (f := fun x => if x.id = v then x.modLane j g else x) rfl (fun y => by split <;> rfl)
  rw [hmap]
  have hlanes : ∀ ls : List Lane, (ls.modify j g).map (·.st) = (ls.map (·.st)).modify j (fun _ => st) := fun ls => by
    refine List.ext_getElem? fun i => ?_
    simp only [List.getElem?_map, List.getElem?_modify]
    cases ls[i]? with
    | none => rfl
    | some l =>
      simp only [Option.map_some, Option.map_eq_map]
      split <;> simp [hst]
  cases hfind : s.wefts.find? (fun x => x.id == w) with
  | none => simp [seat, hfind]
  | some x =>
    have hx : x.id = w := by simpa using List.find?_some hfind
    by_cases hv : v = w
    · subst hv
      simp [seat, hfind, hx, Weft.modLane, hlanes]
    · have hne : x.id ≠ v := fun h => hv (h.symm.trans hx)
      simp [seat, hfind, if_neg hne, if_neg hv]

/-! ### What keeps every seat -/

theorem putByte_seat (s : State) (l : Loc) (b : Byte) : seat w (s.putByte l b) = seat w s := by
  cases l with
  | hbm pa k c => exact seat_congr (hbmPut_wefts s pa k c b)
  | chip pa win =>
    show seat w (s.chipPut pa b) = _
    unfold State.chipPut
    dsimp only
    split
    · split
      · exact seat_modWeft s _ (fun _ => rfl) (fun _ => rfl) (fun _ => rfl)
      · rfl
    · split <;> rfl
  | zero => rfl
  | host f a => rfl
  | remote n r p k o => rfl

theorem pzRegs_seat (s : State) (ws : List Wr) : seat w (s.pzRegs ws) = seat w s := by
  refine foldl_keeps (seat w) (fun y q => ?_) ws s
  dsimp only
  split
  · split
    · split
      · rfl
      · split
        · exact seat_modWeft y _ (fun _ => rfl) (fun _ => rfl) (fun _ => rfl)
        · split
          · exact seat_modWeft y _ (fun _ => rfl) (fun _ => rfl) (fun _ => rfl)
          · rfl
    · rfl
  all_goals rfl

theorem write_seat (s : State) (ws : List Wr) : seat w (s.write ws) = seat w s := by
  have hbytes : seat w (ws.foldl (fun x q => x.putByte q.loc q.b) s) = seat w s := foldl_keeps (seat w) (fun y q => putByte_seat y q.loc q.b) ws s
  exact (seat_congr (staleBeams_wefts _ ws)).trans ((pzRegs_seat _ ws).trans hbytes)

theorem event_seat (s : State) (n kind reason : Nat) (c : CtxId) (panel data addr : Nat) :
    seat w (s.event n kind reason c panel data addr) = seat w s := by
  unfold State.event
  dsimp only
  split
  · rfl
  · split
    · exact write_seat s _
    · split <;> rfl

theorem partDone_seat (s : State) (v id : Nat) : seat w (s.partDone v id) = seat w s :=
  seat_modWeft s v (f := fun x => x.partDone id) (fun _ => weft_partDone_id _ _) (fun _ => weft_partDone_panel _ _) (fun _ => weft_partDone_lanes _ _)

theorem quitLate_seat (s : State) (v j : Nat) : seat w (s.quitLate v j) = seat w s := by
  unfold State.quitLate State.leaveWalk
  split
  · exact (partDone_seat _ v _).trans (seat_modWeft s v (fun _ => rfl) (fun _ => rfl) (fun _ => rfl))
  · rfl

theorem completeFut_seat (s : State) (r : FutRef) (v : DWord) : seat w (s.completeFut r v) = seat w s := by
  unfold State.completeFut
  split
  · split
    · refine (seat_congr (sweepFut_wefts _ r)).trans ((foldl_keeps (seat w) (fun y p => ?_) _ _).trans rfl)
      exact partDone_seat y p.1 p.2
    · rfl
  · rfl

theorem weft_complete_panel (x : Weft) (op : Nat) : (x.complete op).panel = x.panel := by
  unfold Weft.complete
  split <;> rfl

theorem endDeq_seat (s : State) (d : Deq) (status : Nat) : seat w (s.endDeq d status) = seat w s := by
  have hstep : ∀ y : State, seat w (y.modBoth d.weft (fun x => x.complete d.op)) = seat w y := fun y =>
    seat_modWeft y d.weft (f := fun x => x.complete d.op) (fun _ => weft_complete_id _ _) (fun _ => weft_complete_panel _ _)
      (fun _ => weft_complete_lanes _ _)
  have hfold := foldl_keeps (seat w) (fun y (_ : Nat) => hstep y) (List.range 32) s
  unfold State.endDeq
  dsimp only
  rw [completeFut_seat, ← hfold]
  generalize List.foldl _ s _ = y
  exact seat_congr rfl

theorem haltPanel_seat (s : State) (pid : Nat) : seat w (s.haltPanel pid) = seat w s := by
  unfold State.haltPanel
  dsimp only
  refine (foldl_keeps (seat w) (fun y d => ?_) _ _).trans rfl
  split
  · exact endDeq_seat y d 0
  · rfl

/-- The stop of a lane. -/
theorem stopLane_seat (s : State) (v j : Nat) (f : LFault) :
    seat w (s.stopLane v j f) = if v = w then (seat w s).map (fun q => (q.1, q.2.modify j (fun _ => .stopped f))) else seat w s := by
  have hlane : seat w ((s.quitLate v j).modLane v j (stopWith f)) = _ := seat_modLane (w := w) (s.quitLate v j) v j (stopWith f) (fun _ => rfl)
  rw [quitLate_seat] at hlane
  exact (event_seat _ _ _ _ _ _ _ _).trans hlane

end

/-! ### Lanes that do not run any more -/

/-- Lane `i` of a weft, which is there and of a panel, has exited or stopped. -/
def Halted (i : Nat) (q : Option (Nat × List LaneSt)) : Prop :=
  ∃ p sts st, q = some (p, sts) ∧ sts[i]? = some st ∧ st ≠ .active ∧ ∀ k, st ≠ .parked k

/-- A weft of a panel, which has a lane `i`. -/
def Seated (pid i : Nat) (q : Option (Nat × List LaneSt)) : Prop := ∃ sts, q = some (pid, sts) ∧ i < sts.length

section
variable {w i pid : Nat} {s : State}

theorem stopLane_halted (v j : Nat) (f : LFault) (h : Halted i (seat w s)) : Halted i (seat w (s.stopLane v j f)) := by
  rw [stopLane_seat]
  split
  · obtain ⟨p, sts, st, hseat, hst, hactive, hparked⟩ := h
    refine ⟨p, _, if j = i then .stopped f else st, by rw [hseat]; rfl, ?_, ?_, ?_⟩
    · simp only [List.getElem?_modify, hst]
      split <;> rfl
    · split <;> simp [hactive]
    · split <;> simp [hparked]
  · exact h

theorem stopLane_seated (v j : Nat) (f : LFault) (h : Seated pid i (seat w s)) : Seated pid i (seat w (s.stopLane v j f)) := by
  rw [stopLane_seat]
  split
  · obtain ⟨sts, hseat, hlt⟩ := h
    exact ⟨_, by rw [hseat]; rfl, by simpa using hlt⟩
  · exact h

theorem stopLane_halts (f : LFault) (h : Seated pid i (seat w s)) : Halted i (seat w (s.stopLane w i f)) := by
  obtain ⟨sts, hseat, hlt⟩ := h
  rw [stopLane_seat, if_pos rfl, hseat]
  exact ⟨pid, _, .stopped f, rfl, by simp [hlt], by simp, by simp⟩

/-- What each step of a fold keeps, and one step reaches from what each step keeps, is so after the fold. -/
theorem foldl_reaches {α β : Type} {P Q : α → Prop} {f : α → β → α} (hP : ∀ y b, P y → P (f y b)) (hQ : ∀ y b, Q y → Q (f y b)) {b : β}
    (hb : ∀ y, Q y → P (f y b)) : ∀ {l : List β} {a : α}, b ∈ l → Q a → P (l.foldl f a)
  | [], _, h, _ => absurd h List.not_mem_nil
  | c :: l, a, h, ha => by
    rw [List.foldl_cons]
    rcases List.mem_cons.1 h with rfl | h
    · exact List.foldlRecOn (motive := P) l f (hb a ha) fun y hy c _ => hP y c hy
    · exact foldl_reaches hP hQ hb h (hQ a c ha)

/-- A lane that has not exited or stopped, as a step of the stop of a panel takes it. -/
def stopLive (x : Weft) (z : State) (j : Nat) : State :=
  match (x.lane j).st with
  | .stopped _ => z
  | .active | .parked _ | .exited => z.stopLane x.id j ⟨.none, 0, 0, 0, 0⟩

theorem stopLive_halted (x : Weft) (z : State) (j : Nat) (h : Halted i (seat w z)) : Halted i (seat w (stopLive x z j)) := by
  unfold stopLive
  split
  · exact h
  all_goals exact stopLane_halted _ _ _ h

theorem stopLive_seated (x : Weft) (z : State) (j : Nat) (h : Seated pid i (seat w z)) : Seated pid i (seat w (stopLive x z j)) := by
  unfold stopLive
  split
  · exact h
  all_goals exact stopLane_seated _ _ _ h

/-- The lanes of a weft stopped. -/
def stopWeft (z : State) (x : Weft) : State := x.liveLanes.foldl (stopLive x) z

theorem stopWeft_halted (z : State) (x : Weft) (h : Halted i (seat w z)) : Halted i (seat w (stopWeft z x)) :=
  List.foldlRecOn (motive := fun z => Halted i (seat w z)) x.liveLanes (stopLive x) h fun y hy j _ => stopLive_halted x y j hy

theorem stopWeft_seated (z : State) (x : Weft) (h : Seated pid i (seat w z)) : Seated pid i (seat w (stopWeft z x)) :=
  List.foldlRecOn (motive := fun z => Seated pid i (seat w z)) x.liveLanes (stopLive x) h fun y hy j _ => stopLive_seated x y j hy

theorem stopPanel_eq (s : State) (pid : Nat) : s.stopPanel pid = (s.weftsOf pid).foldl stopWeft s := rfl

theorem stopPanel_halted (s : State) (p : Nat) (h : Halted i (seat w s)) : Halted i (seat w (s.stopPanel p)) :=
  List.foldlRecOn (motive := fun z => Halted i (seat w z)) (s.weftsOf p) stopWeft h fun y hy x _ => stopWeft_halted y x hy

theorem stopPanel_seated (s : State) (p : Nat) (h : Seated pid i (seat w s)) : Seated pid i (seat w (s.stopPanel p)) :=
  List.foldlRecOn (motive := fun z => Seated pid i (seat w z)) (s.weftsOf p) stopWeft h fun y hy x _ => stopWeft_seated y x hy

/-- A weft that sits in a panel, with its lane `i`. -/
theorem weft_of_seated (h : Seated pid i (seat w s)) : ∃ x ∈ s.weftsOf pid, x.id = w ∧ i < x.lanes.length ∧
    seat w s = some (pid, x.lanes.map (·.st)) := by
  obtain ⟨sts, hseat, hlt⟩ := h
  cases hfind : s.wefts.find? (fun x => x.id == w) with
  | none => simp [seat, hfind] at hseat
  | some x =>
    simp only [seat, hfind, Option.map_some, Option.some.injEq, Prod.mk.injEq] at hseat
    obtain ⟨hpanel, rfl⟩ := hseat
    refine ⟨x, List.mem_filter.2 ⟨List.mem_of_find?_eq_some hfind, by simpa using hpanel⟩, by simpa using List.find?_some hfind, by simpa using hlt, ?_⟩
    simp [seat, hfind, hpanel]

/-- The stop of a panel halts each lane of its wefts. -/
theorem stopPanel_halts (hi : i < 32) (h : Seated pid i (seat w s)) : Halted i (seat w (s.stopPanel pid)) := by
  obtain ⟨x, hx, rfl, hlt, hseat⟩ := weft_of_seated h
  by_cases hst : Halted i (seat x.id s)
  · exact stopPanel_halted s pid hst
  · have hlane : (x.lanes.map (·.st))[i]? = some (x.lane i).st := by
      simp [Weft.lane, List.getD_eq_getElem?_getD, hlt]
    have hruns : (x.lane i).st = .active ∨ ∃ k, (x.lane i).st = .parked k := by
      by_contra hno
      push Not at hno
      exact hst ⟨pid, _, _, hseat, hlane, hno.1, hno.2⟩
    have hlive : i ∈ x.liveLanes := by
      refine List.mem_filter.2 ⟨List.mem_range.2 hi, ?_⟩
      rcases hruns with h | ⟨k, h⟩ <;> simp [h]
    have hstop : ∀ z, Seated pid i (seat x.id z) → Halted i (seat x.id (stopLive x z i)) := by
      intro z hz
      unfold stopLive
      rcases hruns with h | ⟨k, h⟩ <;> rw [h] <;> exact stopLane_halts _ hz
    have hweft : ∀ z, Seated pid i (seat x.id z) → Halted i (seat x.id (stopWeft z x)) := fun z hz =>
      foldl_reaches (P := fun z => Halted i (seat x.id z)) (Q := fun z => Seated pid i (seat x.id z)) (fun y j => stopLive_halted x y j)
        (fun y j => stopLive_seated x y j) hstop hlive hz
    exact foldl_reaches (P := fun z => Halted i (seat x.id z)) (Q := fun z => Seated pid i (seat x.id z)) (fun y v => stopWeft_halted y v)
      (fun y v => stopWeft_seated y v) hweft hx h

/-- A panel of a die that trips halts, and its lanes stop. -/
def tripPanel (y : State) (p : Panel) : State := (y.haltPanel p.id).stopPanel p.id

theorem tripPanel_halted (y : State) (p : Panel) (h : Halted i (seat w y)) : Halted i (seat w (tripPanel y p)) :=
  stopPanel_halted _ p.id (by rwa [haltPanel_seat])

theorem tripPanel_seated (y : State) (p : Panel) (h : Seated pid i (seat w y)) : Seated pid i (seat w (tripPanel y p)) :=
  stopPanel_seated _ p.id (by rwa [haltPanel_seat])

theorem tripPanels_halt {ps : List Panel} {p : Panel} (hp : p ∈ ps) (hi : i < 32) (h : Seated p.id i (seat w s)) :
    Halted i (seat w (ps.foldl tripPanel s)) :=
  foldl_reaches (P := fun z => Halted i (seat w z)) (Q := fun z => Seated p.id i (seat w z)) (fun y q => tripPanel_halted y q)
    (fun y q => tripPanel_seated y q) (fun y hy => stopPanel_halts hi (by rwa [haltPanel_seat])) hp h

/-- What a halted lane does. -/
theorem lane_of_halted (h : Halted i (seat w s)) : ((s.weft w).lane i).st ≠ .active ∧ ∀ k, ((s.weft w).lane i).st ≠ .parked k := by
  obtain ⟨p, sts, st, hseat, hst, hactive, hparked⟩ := h
  cases hfind : s.wefts.find? (fun x => x.id == w) with
  | none => simp [seat, hfind] at hseat
  | some x =>
    simp only [seat, hfind, Option.map_some, Option.some.injEq, Prod.mk.injEq] at hseat
    obtain ⟨-, rfl⟩ := hseat
    rw [List.getElem?_map] at hst
    obtain ⟨l, hl, rfl⟩ := Option.map_eq_some_iff.1 hst
    have hlane : (s.weft w).lane i = l := by simp [State.weft, hfind, Weft.lane, List.getD_eq_getElem?_getD, hl]
    rw [hlane]
    exact ⟨hactive, hparked⟩

end

end Sys2Proof.Proofs
end

section
/-! SUPPORT. The host interface, time, power and cold reset (O52). -/
namespace Sys2Proof.Proofs
open Sys2Proof Sys2Proof.Machine

/-! ### A trip leaves its die tripped -/

theorem event_dies (s : State) (n kind reason : Nat) (c : CtxId) (panel data addr : Nat) :
    (s.event n kind reason c panel data addr).dies = s.dies := by
  unfold State.event
  dsimp only
  split
  · rfl
  · split
    · exact write_preserves State.dies (fun _ _ _ => rfl) (fun _ _ => rfl) (fun _ _ => rfl) s _
    · split <;> rfl

theorem completeFut_dies (s : State) (r : FutRef) (v : DWord) : (s.completeFut r v).dies = s.dies := by
  have hsweep : ∀ y : State, (y.sweepFut r).dies = y.dies := fun y => by
    unfold State.sweepFut
    split
    · split <;> rfl
    · rfl
  unfold State.completeFut
  split
  · split
    · exact (hsweep _).trans ((foldl_keeps State.dies (f := fun y (w : Nat × Nat) => State.partDone y w.1 w.2) (fun _ _ => rfl) _ _).trans rfl)
    · rfl
  · rfl

theorem endDeq_dies (s : State) (d : Deq) (status : Nat) : (s.endDeq d status).dies = s.dies := by
  have hfold : ((List.range 32).foldl (fun y _ => y.modBoth d.weft (fun w => w.complete d.op)) s).dies = s.dies :=
    foldl_keeps State.dies (f := fun y _ => State.modBoth y d.weft (fun w => w.complete d.op)) (fun _ _ => rfl) (List.range 32) s
  unfold State.endDeq
  dsimp only
  rw [completeFut_dies, ← hfold]

theorem haltPanel_dies (s : State) (pid : Nat) : (s.haltPanel pid).dies = s.dies := by
  unfold State.haltPanel
  dsimp only
  refine (foldl_keeps State.dies (fun y d => ?_) _ _).trans rfl
  split
  · exact endDeq_dies y d 0
  · rfl

theorem stopLane_dies (s : State) (v j : Nat) (f : LFault) : (s.stopLane v j f).dies = s.dies := by
  have hquit : (s.quitLate v j).dies = s.dies := by
    unfold State.quitLate State.leaveWalk
    split <;> rfl
  exact (event_dies _ _ _ _ _ _ _ _).trans hquit

theorem tripPanel_dies (s : State) (p : Panel) : (tripPanel s p).dies = s.dies := by
  rw [tripPanel, stopPanel_eq]
  refine (foldl_keeps State.dies (fun y x => ?_) _ _).trans (haltPanel_dies s p.id)
  refine foldl_keeps State.dies (fun z j => ?_) x.liveLanes y
  unfold stopLive
  split
  · rfl
  all_goals exact stopLane_dies _ _ _ _

/-- A die that has tripped. -/
def tripDie (s : State) (die : Nat) : State := s.modDie die (fun d => { d with tripped := true })

/-- The panels of a die. -/
def diePanels (s : State) (die : Nat) : List Panel := s.panels.filter (fun p => coreDie p.core == die)

theorem thermalTrip_eq (s : State) {die : Nat} (h : die < 4) : exec (.thermalTrip die) s =
    .next ((((diePanels s die).foldl tripPanel (tripDie s die)).report "thermal trip" 0 [die]).event 0 7 0 0 0 0 0) := by
  show execThermalTrip die s = _
  rw [execThermalTrip, if_neg (by simp only [Config.dies]; omega)]
  rfl

theorem thermalTrip_stops (s : State) {die : Nat} (h : die < 4) : ∃ t, exec (.thermalTrip die) s = .next t ∧
    (die < s.dies.length → (t.die die).tripped = true) ∧
    ∀ w, s.hasWeft w = true → (∃ p ∈ s.panels, p.id = (s.weft w).panel ∧ coreDie p.core = die) →
      ∀ i < 32, i < (s.weft w).lanes.length → ((t.weft w).lane i).st ≠ .active ∧ ∀ k, ((t.weft w).lane i).st ≠ .parked k := by
  refine ⟨_, thermalTrip_eq s h, fun hdie => ?_, fun w hw hpanel i hi hlane => ?_⟩
  · have hdies : (((diePanels s die).foldl tripPanel (tripDie s die)).report "thermal trip" 0 [die]).dies = (tripDie s die).dies :=
      foldl_keeps State.dies (fun y p => tripPanel_dies y p) _ _
    rw [State.die, event_dies, hdies]
    exact congrArg DieSt.tripped (die_modDie _ hdie)
  · obtain ⟨p, hp, hid, hdie⟩ := hpanel
    have hseated : Seated p.id i (seat w (tripDie s die)) := ⟨_, hid ▸ seat_of_weft hw, by simpa using hlane⟩
    have hmem : p ∈ diePanels s die := List.mem_filter.2 ⟨hp, by simpa using hdie⟩
    have hhalted := tripPanels_halt hmem hi hseated
    refine lane_of_halted ?_
    rw [event_seat]
    exact hhalted

/-! ### The event ring (R468) -/

theorem fn_modFn {s : State} {n : Nat} (f : Fn → Fn) (h : n < s.fns.length) : (s.modFn n f).fn n = f (s.fn n) := by
  simp [State.fn, State.modFn, List.getD_eq_getElem?_getD, h]

/-- The bytes of an event record. -/
def eventRecord (s : State) (kind reason : Nat) (c : CtxId) (panel data addr : Nat) : List Byte :=
  natLE 32 (kind % 2 ^ 8 + reason % 2 ^ 8 * 2 ^ 8 + c.toNat * 2 ^ 16 + panel % 2 ^ 32 * 2 ^ 32 + data % 2 ^ 64 * 2 ^ 64 +
    addr % 2 ^ 64 * 2 ^ 128 + s.time % 2 ^ 64 * 2 ^ 192)

/-- The places of the ring's next record. -/
def ringPlaces (f : Fn) (n : Nat) : List Loc := (List.range 32).map (fun i => Loc.host n (f.evBase.toNat + 32 * (f.evTail % f.ring) + i))

theorem event_of_room {s : State} {n : Nat} (kind reason : Nat) (c : CtxId) (panel data addr : Nat) (hring : (s.fn n).ring ≠ 0)
    (hheld : (s.fn n).held = []) (hroom : (s.fn n).room = true) (hdrops : (s.fn n).evDrops = 0) :
    s.event n kind reason c panel data addr =
      { (s.write (wrs (ringPlaces (s.fn n) n) (eventRecord s kind reason c panel data addr))).modFn n (fun x =>
          { x with evTail := (x.evTail + 1) % 2 ^ 32, evDrops := 0 }) with
        hostOut := (s.write (wrs (ringPlaces (s.fn n) n) (eventRecord s kind reason c panel data addr))).hostOut ++ [.msix n 0] } := by
  unfold State.event
  dsimp only
  rw [if_neg hring, if_pos (by rw [hheld, hroom]; rfl)]
  unfold State.putEvent
  dsimp only
  rw [if_pos hdrops]
  rfl

theorem room_of_lt {f : Fn} (hring : f.ring ≠ 0) (h : (f.evTail + 2 ^ 32 - f.evCtl.toNat / 2 ^ 32) % 2 ^ 32 < f.ring) : f.room = true := by
  have hhead : bitsOf f.evCtl.toNat 63 32 = f.evCtl.toNat / 2 ^ 32 := by
    rw [bitsOf_eq]
    exact Nat.mod_eq_of_lt (by have := f.evCtl.isLt; omega)
  rw [Fn.room, hhead]
  simp only [Bool.and_eq_true, decide_eq_true_eq]
  exact ⟨Nat.pos_of_ne_zero hring, h⟩

/-- R468: a record enters the ring. -/
theorem event_enters {s : State} {n : Nat} (kind reason : Nat) (c : CtxId) (panel data addr : Nat) (hring : (s.fn n).ring ≠ 0)
    (hheld : (s.fn n).held = []) (hroom : (s.fn n).room = true) (hfn : n < s.fns.length) (hdrops : (s.fn n).evDrops = 0) :
    ((s.event n kind reason c panel data addr).fn n).evTail = ((s.fn n).evTail + 1) % 2 ^ 32 ∧
      (s.event n kind reason c panel data addr).hostOut = s.hostOut ++ [.msix n 0] ∧
      (s.event n kind reason c panel data addr).mem =
        (s.write (wrs (ringPlaces (s.fn n) n) (eventRecord s kind reason c panel data addr))).mem := by
  have hfns : ∀ ws, (s.write ws).fns = s.fns := write_preserves State.fns (fun _ _ _ => rfl) (fun _ _ => rfl) (fun _ _ => rfl) s
  have hhost : ∀ ws, (s.write ws).hostOut = s.hostOut := write_preserves State.hostOut (fun _ _ _ => rfl) (fun _ _ => rfl) (fun _ _ => rfl) s
  rw [event_of_room kind reason c panel data addr hring hheld hroom hdrops]
  refine ⟨?_, by rw [hhost], rfl⟩
  refine (congrArg Fn.evTail (fn_modFn _ (by rwa [hfns]))).trans ?_
  rw [State.fn, hfns]
  rfl

/-! ### Host registers and the aperture (R463 to R467) -/

theorem launchDoorbell_eq {s : State} {fn : Nat} (v : DWord) (hopen : s.barOpen fn = true) :
    exec (.launchDoorbell fn v) s = .next (s.doorbell fn v) := congrArg Host.Outcome.next (if_pos hopen)

/-- LQDB moves TAIL of a live entry, or its fault is an event (R466). -/
theorem doorbell_live {s : State} {fn : Nat} {v : DWord} {c : CtxId} {seg : Seg} {q : TaskQ}
    (htab : lookupKey (v.toNat / 2 ^ 20 % 4 * 16 + v.toNat / 2 ^ 16 % 16) s.lqTab = some (c, seg))
    (hq : s.lqQueue (v.toNat / 2 ^ 20 % 4) c seg = some q) :
    s.doorbell fn v = if (s.ctx c).func ≠ fn ∨ v.toNat / 2 ^ 22 ≠ 0 ∨ 2 ^ q.log2n < (v.toNat % 2 ^ 16 + 65536 - q.head) % 65536 then s.doorbellFault fn v
      else (s.putTq c seg { q with tail := v.toNat % 2 ^ 16 }).queueStep c seg stepFuel := by
  have hdie : bitsOf v.toNat 21 20 = v.toNat / 2 ^ 20 % 4 := bitsOf_eq _ _ _
  have hentry : bitsOf v.toNat 19 16 = v.toNat / 2 ^ 16 % 16 := bitsOf_eq _ _ _
  have htail : bitsOf v.toNat 15 0 = v.toNat % 2 ^ 16 := bitsOf_zero _ _
  have hrest : bitsOf v.toNat 63 22 = v.toNat / 2 ^ 22 := by
    rw [bitsOf_eq]
    exact Nat.mod_eq_of_lt (by have := v.isLt; omega)
  unfold State.doorbell
  simp only [hdie, hentry, htail, hrest, htab, hq]

theorem putEvCtl_ok {s : State} (fn : Nat) {v : DWord} (hzero : v.toNat / 2 ^ 5 % 2 ^ 27 = 0)
    (hsize : v.toNat % 2 ^ 5 = 0 ∨ 7 ≤ v.toNat % 2 ^ 5 ∧ v.toNat % 2 ^ 5 ≤ 16) :
    s.putEvCtl fn v = (s.modFn fn (fun f => { f with evCtl := v })).releaseHeld fn Config.heldEvents := by
  have hok : evCtlOk v = true := by
    rw [evCtlOk, bitsOf_eq, bitsOf_zero]
    simpa using ⟨hzero, hsize⟩
  rw [State.putEvCtl, if_pos hok]

theorem ofNat_bitsOf_low (v : DWord) : BitVec.ofNat 16 (bitsOf v.toNat 15 0) = v.setWidth 16 := by
  rw [bitsOf_zero]
  refine BitVec.eq_of_toNat_eq ?_
  rw [BitVec.toNat_ofNat, BitVec.toNat_setWidth, Nat.mod_mod]

theorem ensureCtx_of_mem {s : State} {c : CtxId} (h : ∃ x ∈ s.ctxs, x.id = c) : s.ensureCtx c = s := by
  obtain ⟨x, hx, hid⟩ := h
  rw [State.ensureCtx, if_pos (List.any_eq_true.2 ⟨x, hx, by simpa using hid⟩)]

/-- A write of APSEG whose reserved bits are 0 (R464). -/
theorem putApseg_of_reserved {s : State} (fn : Nat) {v : DWord} (hzero : v.toNat / 2 ^ 16 % 2 ^ 24 = 0) :
    s.putApseg fn v = if segOf v = 0 then s.modFn fn (fun f => { f with apseg := v })
      else if ((s.ensureCtx (v.setWidth 16)).ctx (v.setWidth 16)).func = fn then (s.ensureCtx (v.setWidth 16)).modFn fn (fun f => { f with apseg := v })
      else s.ensureCtx (v.setWidth 16) := by
  have hreserved : bitsOf v.toNat 39 16 = 0 := (bitsOf_eq _ _ _).trans hzero
  unfold State.putApseg
  dsimp only
  rw [ofNat_bitsOf_low, if_neg (by rw [hreserved]; decide)]

theorem inBar2_of_lt {off n : Nat} (hpos : 0 < n) (hle : off + n ≤ 2 ^ 32) : inBar2 off n = true := by
  rw [inBar2, decide_eq_true hpos, decide_eq_true hle]
  rfl

theorem hostApertureWrite_eq {s : State} {fn off : Nat} {bs : List Byte} (hopen : s.barOpen fn = true) (hpos : 0 < bs.length)
    (hle : off + bs.length ≤ 2 ^ 32) :
    (∀ ls, s.aperture fn .store off bs.length = .ok ls → exec (.hostApertureWrite fn off bs) s = .next (s.landAll 0 (wrs ls bs))) ∧
    ∀ f c, s.aperture fn .store off bs.length = .error (f, c) →
      exec (.hostApertureWrite fn off bs) s = .next (s.event fn 5 f.reason c 0 0 f.addr.toNat) := by
  have hbar : (s.barOpen fn && inBar2 off bs.length) = true := by rw [hopen, inBar2_of_lt hpos hle]; rfl
  constructor
  · intro ls hls
    show execHostApertureWrite fn off bs s = _
    rw [execHostApertureWrite, if_pos hbar, hls]
  · intro f c hf
    show execHostApertureWrite fn off bs s = _
    rw [execHostApertureWrite, if_pos hbar, hf]
    rfl

theorem hostApertureRead_closed {s : State} (fn : Nat) {off n : Nat} (hpos : 0 < n) (hle : off + n ≤ 2 ^ 32) (hboot : s.boot ≠ 7) :
    exec (.hostApertureRead fn off n) s = .next { s with hostOut := s.hostOut ++ [.readDone fn (List.replicate n 0)] } := by
  show execHostApertureRead fn off n s = _
  rw [execHostApertureRead, if_neg (by simp [inBar2_of_lt hpos hle]), if_pos hboot]

theorem boot_of_barOpen {s : State} {fn : Nat} (h : s.barOpen fn = true) : s.boot = 7 := by
  simp only [State.barOpen, Bool.and_eq_true, beq_iff_eq] at h
  exact h.1.1

theorem hostApertureRead_open {s : State} {fn off n : Nat} (hpos : 0 < n) (hle : off + n ≤ 2 ^ 32) (hopen : s.barOpen fn = true) :
    (∀ ls, s.aperture fn .load off n = .ok ls → exec (.hostApertureRead fn off n) s =
        .next { s with hostOut := s.hostOut ++ [.readDone fn (ls.map s.byteAt)] }) ∧
      ∀ f c, s.aperture fn .load off n = .error (f, c) →
        exec (.hostApertureRead fn off n) s = .next { s.event fn 5 f.reason c 0 0 f.addr.toNat with
          hostOut := (s.event fn 5 f.reason c 0 0 f.addr.toNat).hostOut ++ [.readDone fn (List.replicate n 0xFF)] } := by
  have hbar : ¬ (!inBar2 off n) = true := by simp [inBar2_of_lt hpos hle]
  have hboot : ¬ s.boot ≠ 7 := not_not.2 (boot_of_barOpen hopen)
  constructor
  · intro ls hls
    show execHostApertureRead fn off n s = _
    rw [execHostApertureRead, if_neg hbar, if_neg hboot, if_pos hopen, hls]
  · intro f c hf
    show execHostApertureRead fn off n s = _
    rw [execHostApertureRead, if_neg hbar, if_neg hboot, if_pos hopen, hf]
    rfl

/-- An invalidation completes where no access checked against the page's entries is still to be sent (R467). -/
theorem atsInvalidation_completes {s : State} {die page : Nat}
    (h : ∀ e ∈ (s.die die).ats, e.2.1 = page → ∀ g, e.2.2 = some g → s.hostPending die e.1 g = false) :
    exec (.atsInvalidation die page) s = .next
      { s.modDie die (fun d => { d with ats := d.ats.filter (fun e => e.2.1 != page) }) with hostOut := s.hostOut ++ [.atsDone die page] } := by
  show execAtsInvalidation die page s = _
  unfold execAtsInvalidation
  dsimp only
  rw [if_neg]
  · rfl
  · intro hany
    obtain ⟨e, he, hpending⟩ := List.any_eq_true.1 hany
    obtain ⟨hmem, hpage⟩ := List.mem_filter.1 he
    cases hg : e.2.2 with
    | none => simp [hg] at hpending
    | some g =>
      have hsent := h e hmem (by simpa using hpage) g hg
      simp [hg, hsent] at hpending

/-! ### Cold reset and attestation (R488, R489) -/

theorem report_slices {head nonce time rest : List Byte} (hhead : head.length = 8) (hnonce : nonce.length = 32) (htime : time.length = 8) :
    ((head ++ (nonce ++ (time ++ rest))).drop 8).take 32 = nonce ∧ ((head ++ (nonce ++ (time ++ rest))).drop 40).take 8 = time := by
  constructor
  · rw [List.drop_left' hhead, List.take_left' hnonce]
  · rw [← List.append_assoc, List.drop_left' (by simp [hhead, hnonce]), List.take_left' htime]

/-- Where the nonce and the time stand in a report. -/
theorem attestReport_fields (s : State) {nonce : List Byte} (h : nonce.length = 32) :
    ((s.attestReport nonce).drop 8).take 32 = nonce ∧ ((s.attestReport nonce).drop 40).take 8 = natLE 8 s.time := by
  simp only [State.attestReport, State.attestBody, List.append_assoc]
  exact report_slices rfl h (length_natLE 8 s.time)

theorem attestationRequest_eq {s : State} (bus : Nat) {nonce : List Byte} (hboot : s.boot = 7) (hnonce : nonce.length = 32)
    (hidle : ∀ d ∈ s.dies, d.restarting = false) :
    exec (.attestationRequest bus nonce) s = .next ((s.write (wrs ((List.range (s.attestReport nonce).length).map
      (fun i => Loc.host 0 (bus + i))) (s.attestReport nonce))).event 0 7 0 0 0 0 0) := by
  have hnone : s.dies.any (fun d => d.restarting) = false := List.any_eq_false.2 fun d hd => by simp [hidle d hd]
  show execAttestationRequest bus nonce s = _
  rw [execAttestationRequest, if_neg (by simp [hboot, hnonce, hnone])]

theorem coldReset_clears (s : State) : ∃ t, exec (.coldReset none) s = .next t ∧ t.panels = [] ∧ t.wefts = [] ∧ t.ctxs = [] ∧ t.futs = [] ∧
    t.launches = [] ∧ t.saved = [] ∧ t.lqTab = [] ∧ t.walks = [] ∧ t.fns = State.reset.fns ∧
    t.boot = State.reset.boot ∧ t.time = State.reset.time ∧ (∀ k ∈ t.keys, k.2.1 = .empty) ∧ (∀ e ∈ t.mem.bytes, e.1 < hbmEnd) ∧
    t.mem.host = s.mem.host ∧ ∀ f, exec (.coldReset (some f)) s = .next (t.bootFailed f) := by
  refine ⟨s.cold, rfl, rfl, rfl, rfl, rfl, rfl, rfl, rfl, rfl, rfl, rfl, rfl, fun k hk => ?_, fun e he => ?_, rfl, fun _ => rfl⟩
  · obtain ⟨x, -, rfl⟩ := List.mem_map.1 hk
    rfl
  · simpa using (List.mem_filter.1 he).2

/-! ### O52 -/

/-- Settles O52: registers, aperture and ring by the lemma of each; a trip by the seats of the wefts. -/
theorem hostAndPowerEvents : Obligations.HostAndPowerEvents := by
  unfold Obligations.HostAndPowerEvents
  refine ⟨⟨?_, ?_, ?_, ?_, ?_, ?_, ?_, ?_, ?_⟩, ?_, fun _ => rfl, fun _ _ => ⟨rfl, rfl⟩, thermalTrip_stops, coldReset_clears, ?_⟩
  · intro s fn v c seg q tail hopen htab hq
    rw [launchDoorbell_eq v hopen, doorbell_live htab hq]
    refine ⟨fun hfn hhigh hroom => ?_, fun hfn => ?_⟩
    · rw [if_neg (by simp only [hfn, hhigh, not_true_eq_false, ne_eq, false_or]; exact Nat.not_lt.2 hroom)]
    · rw [if_pos (.inl hfn)]
      rfl
  · intro s fn v hopen hzero hsize
    show execEvctlWrite fn v s = _
    rw [execEvctlWrite, if_pos hopen, putEvCtl_ok fn hzero hsize]
  · intro s fn v hzero hopen hreserved
    have hboth : (s.barOpen 0 && s.barOpen fn) = true := by rw [hzero, hopen]; rfl
    have hexec : exec (.apsegWrite fn v) s = .next (s.putApseg fn v) := congrArg Host.Outcome.next (if_pos hboth)
    rw [hexec, putApseg_of_reserved fn hreserved]
    refine ⟨fun hseg => by rw [if_pos hseg], fun hseg hctx hfn => ?_⟩
    rw [ensureCtx_of_mem hctx, if_neg hseg, if_pos hfn]
  · intro s fn off v hopen
    have hexec : exec (.bar0Write fn off v) s = .next (s.bar0 fn off v) := congrArg Host.Outcome.next (if_pos hopen)
    rw [hexec]
    refine ⟨?_, ?_, ?_, ?_⟩
    · rintro rfl
      exact (launchDoorbell_eq v hopen).symm
    · rintro rfl hlow
      rw [State.bar0, if_neg (by decide), if_pos rfl, if_pos ((bitsOf_zero _ _).trans hlow)]
    · rintro rfl
      exact (congrArg Host.Outcome.next (if_pos hopen)).symm
    · rintro rfl rfl
      have hboth : (s.barOpen 0 && s.barOpen 0) = true := by rw [hopen]; rfl
      exact (congrArg Host.Outcome.next (if_pos hboth)).symm
  · exact fun s fn off bs hopen hpos hle => hostApertureWrite_eq hopen hpos hle
  · exact fun s fn off n hpos hle => ⟨hostApertureRead_closed fn hpos hle, fun hopen => hostApertureRead_open hpos hle hopen⟩
  · intro s id page die fn p hfind
    show execAtsTranslationResponse id page s = _
    rw [execAtsTranslationResponse, hfind]
    rfl
  · exact fun s die page h => atsInvalidation_completes h
  · intro s n kind reason c panel data addr f
    refine ⟨fun hring => if_pos hring, fun hring hheld hroom hfn hdrops => ?_⟩
    exact event_enters kind reason c panel data addr hring hheld (room_of_lt hring hroom) hfn hdrops
  · exact fun _ _ => rfl
  · exact fun s bus nonce hboot hnonce hidle => ⟨attestationRequest_eq bus hboot hnonce hidle, attestReport_fields s hnonce⟩

end Sys2Proof.Proofs
end

section
/-! SUPPORT. A write does not depend on what it does not touch. -/
namespace Sys2Proof.Proofs
open Sys2Proof Sys2Proof.Machine

/-! ### Changes beside memory -/

/-- A state with other memory. -/
def setMem (m : MemSt) (y : State) : State := { y with mem := m }
/-- A state with other wefts. -/
def setWefts (w : List Weft) (y : State) : State := { y with wefts := w }
/-- A state with other cores. -/
def setCores (c : List (Nat × CoreSt)) (y : State) : State := { y with cores := c }

/-- A change of the state beside memory and keys. -/
structure Aside (h : State → State) : Prop where
  mem     : ∀ y, (h y).mem = y.mem
  keys    : ∀ y, (h y).keys = y.keys
  withMem : ∀ y m, h (setMem m y) = setMem m (h y)

/-- The arrays after a byte is written under a key of a generation. -/
def dramMem (m : MemSt) (g pa okey : Nat) (b : Byte) : MemSt :=
  { m with
    bytes := sput 0 (if (m.tag pa).2.2 = 0 ∨ ((m.tag pa).1 = okey ∧ (m.tag pa).2.1 = g) then m.bytes
      else (List.range 64).foldl (fun z i => sput 0 z (64 * (pa / 64) + i) (Config.freeByte (64 * (pa / 64) + i) okey g (m.tag pa).2.2)) m.bytes)
      pa b
    tags := sput (0, 0, 0) m.tags (pa / 64) (okey, g, (m.tag pa).2.2 + 1) }

theorem dramPut_eq (y : State) (pa okey : Nat) (b : Byte) : y.dramPut pa okey b = setMem (dramMem y.mem (y.key okey).2 pa okey b) y := rfl

/-- Memory after a line is allocated. -/
def lineMem (m : MemSt) (l : DLine) (cpol : Nat) : MemSt := { m with lines := if cpol = 0 then l :: m.lines else m.lines ++ [l] }

/-- The line that a miss allocates. -/
def missLine (y : State) (pa okey : Nat) : DLine := ⟨pa / 64, okey, false, (List.range 64).map (fun i => y.dramByte (64 * (pa / 64) + i) okey)⟩

theorem allocLine_eq (y : State) (pa okey cpol : Nat) : y.allocLine pa okey cpol =
    if 2 ≤ cpol ∨ (y.mem.line? pa okey).isSome then y
    else setMem (lineMem (y.evict pa).mem (missLine (y.evict pa) pa okey) cpol) (y.evict pa) := rfl

/-- A fold of steps that commute with a change. -/
theorem foldl_commutes {α β : Type} (h : α → α) {f : α → β → α} (hf : ∀ y b, f (h y) b = h (f y b)) (l : List β) (s : α) :
    l.foldl f (h s) = h (l.foldl f s) := List.foldl_hom h hf

section
variable {h : State → State} (a : Aside h)
include a

theorem Aside.key (y : State) (k : Nat) : (h y).key k = y.key k := by rw [State.key, State.key, a.keys]

theorem Aside.dramByte (y : State) (pa k : Nat) : (h y).dramByte pa k = y.dramByte pa k := by
  simp only [State.dramByte, a.key, a.mem]

theorem Aside.dramPut (y : State) (pa k : Nat) (b : Byte) : (h y).dramPut pa k b = h (y.dramPut pa k b) := by
  rw [dramPut_eq, dramPut_eq, a.mem, a.key, a.withMem]

theorem Aside.writeBack (y : State) (l : DLine) : (h y).writeBack l = h (y.writeBack l) := by
  unfold State.writeBack
  split
  · exact foldl_commutes h (fun z i => a.dramPut z _ _ _) _ y
  · rfl

theorem Aside.evict (y : State) (pa : Nat) : (h y).evict pa = h (y.evict pa) := by
  unfold State.evict
  dsimp only
  rw [a.mem]
  split
  · rfl
  · split
    · rfl
    · next v _ =>
      show setMem { ((h y).writeBack v).mem with lines := ((h y).writeBack v).mem.lines.erase v } ((h y).writeBack v) =
        h (setMem { (y.writeBack v).mem with lines := (y.writeBack v).mem.lines.erase v } (y.writeBack v))
      rw [a.writeBack, a.mem, a.withMem]

theorem Aside.allocLine (y : State) (pa k c : Nat) : (h y).allocLine pa k c = h (y.allocLine pa k c) := by
  have hline : missLine (h (y.evict pa)) pa k = missLine (y.evict pa) pa k := by
    unfold missLine
    simp only [a.dramByte]
  rw [allocLine_eq, allocLine_eq, a.mem, a.evict, a.mem, hline]
  split
  · rfl
  · rw [a.withMem]

theorem Aside.allocAll (y : State) (ls : List Loc) : (h y).allocAll ls = h (y.allocAll ls) := by
  refine foldl_commutes h (fun z l => ?_) ls y
  cases l with
  | hbm pa k c => exact a.allocLine z pa k c
  | chip | zero | host | remote => rfl

theorem Aside.hbmPut (y : State) (pa k c : Nat) (b : Byte) : (h y).hbmPut pa k c b = h (y.hbmPut pa k c b) := by
  unfold State.hbmPut
  dsimp only
  rw [a.allocLine, a.mem]
  split
  · exact (a.withMem _ _).symm
  · exact a.dramPut _ pa k b

end

/-! ### Changes beside memory, wefts, panels and cores -/

/-- A change of the state beside all that a write reads or changes. -/
structure Apart (h : State → State) : Prop extends Aside h where
  wefts     : ∀ y, (h y).wefts = y.wefts
  panels    : ∀ y, (h y).panels = y.panels
  cores     : ∀ y, (h y).cores = y.cores
  withWefts : ∀ y w, h (setWefts w y) = setWefts w (h y)
  withCores : ∀ y c, h (setCores c y) = setCores c (h y)

section
variable {h : State → State} (a : Apart h)
include a

theorem Apart.regHome (y : State) (c off : Nat) : (h y).regHome c off = y.regHome c off := by
  unfold State.regHome
  rw [a.panels, a.wefts]

theorem Apart.modWeft (y : State) (v : Nat) (f : Weft → Weft) : (h y).modWeft v f = h (y.modWeft v f) := by
  show setWefts ((h y).wefts.map _) (h y) = h (setWefts (y.wefts.map _) y)
  rw [a.wefts, a.withWefts]

theorem Apart.chipPut (y : State) (pa : Nat) (b : Byte) : (h y).chipPut pa b = h (y.chipPut pa b) := by
  have hfiled : ∀ (c : Nat) (x : Weft), (h y).filed c x = y.filed c x := fun c x => by
    unfold State.filed State.core
    rw [a.cores]
  unfold State.chipPut
  dsimp only
  split
  · rw [a.regHome]
    split
    · simp only [hfiled]
      exact a.modWeft y _ _
    · rfl
  · split
    · rfl
    · rw [a.mem]
      exact (a.withMem _ _).symm

theorem Apart.putByte (y : State) (l : Loc) (b : Byte) : (h y).putByte l b = h (y.putByte l b) := by
  cases l with
  | hbm pa k c => exact a.hbmPut y pa k c b
  | chip pa w => exact a.chipPut y pa b
  | zero => rfl
  | host f p =>
    show setMem { (h y).mem with host := sput 0 (h y).mem.host p b } (h y) = _
    rw [a.mem]
    exact (a.withMem _ _).symm
  | remote n r p k o =>
    show setMem { (h y).mem with remote := sput 0 (h y).mem.remote (remoteKey n r o) b } (h y) = _
    rw [a.mem]
    exact (a.withMem _ _).symm

theorem Apart.pzRegs (y : State) (ws : List Wr) : (h y).pzRegs ws = h (y.pzRegs ws) := by
  refine foldl_commutes h (fun z q => ?_) ws y
  dsimp only
  split
  · split
    · rw [a.regHome]
      split
      · rfl
      · split
        · exact a.modWeft z _ _
        · split
          · exact a.modWeft z _ _
          · rfl
    · rfl
  all_goals rfl

theorem Apart.staleBeams (y : State) (ws : List Wr) : (h y).staleBeams ws = h (y.staleBeams ws) := by
  unfold State.staleBeams
  dsimp only
  rw [a.cores]
  split
  · exact (a.withCores _ _).symm
  · rfl

theorem Apart.write (y : State) (ws : List Wr) : (h y).write ws = h (y.write ws) := by
  have hbytes : ws.foldl (fun x w => x.putByte w.loc w.b) (h y) = h (ws.foldl (fun x w => x.putByte w.loc w.b) y) :=
    foldl_commutes h (fun z w => a.putByte z w.loc w.b) ws y
  have hpz : (h y).pzAfter ws = y.pzAfter ws := by
    unfold State.pzAfter
    rw [a.mem]
  unfold State.write
  dsimp only
  rw [hbytes, hpz, a.pzRegs, a.staleBeams, a.mem]
  exact (a.withMem _ _).symm

end

/-- What cores still see, and the next number. -/
def withStale (st : List Stale) (n : Nat) (y : State) : State := { y with stale := st, nextId := n }

theorem withStale_apart (st : List Stale) (n : Nat) : Apart (withStale st n) where
  mem _ := rfl
  keys _ := rfl
  withMem _ _ := rfl
  wefts _ := rfl
  panels _ := rfl
  cores _ := rfl
  withWefts _ _ := rfl
  withCores _ _ := rfl

/-! ### Bytes that land throughout the package (R135) -/

/-- The owners of the pads that places lie in. -/
def padOwners (s : State) (ls : List Loc) : List Panel :=
  ls.filterMap (fun l => match l with
    | .chip pa _ => if isPad pa then s.padOwner (coreOfPa pa) (blockOff pa - padOff) else none
    | .hbm _ _ _ | .zero | .host _ _ | .remote _ _ _ _ _ => none)

/-- One more owner among panels, where it is neither the panel itself nor among them. -/
def addOwner (pid : Nat) (acc : List Panel) (p : Panel) : List Panel :=
  if p.id = pid ∨ acc.any (fun q => q.id == p.id) then acc else acc ++ [p]

theorem padsOf_eq (s : State) (pid : Nat) (ls : List Loc) : s.padsOf pid ls = (padOwners s ls).foldl (addOwner pid) [] := rfl

theorem addOwners_ne_nil (pid : Nat) : ∀ (ps : List Panel) {acc : List Panel}, acc ≠ [] → ps.foldl (addOwner pid) acc ≠ []
  | [], _, h => h
  | p :: ps, acc, h => by
    refine addOwners_ne_nil pid ps ?_
    unfold addOwner
    split
    · exact h
    · simp

theorem addOwners_eq_nil {pid : Nat} : ∀ {ps : List Panel}, ps.foldl (addOwner pid) [] = [] ↔ ∀ p ∈ ps, p.id = pid
  | [] => by simp
  | p :: ps => by
    rw [List.foldl_cons]
    by_cases hp : p.id = pid
    · have hstep : addOwner pid [] p = [] := if_pos (.inl hp)
      rw [hstep, addOwners_eq_nil]
      simp [hp]
    · have hstep : addOwner pid [] p = [p] := if_neg (by simp [hp])
      rw [hstep]
      exact iff_of_false (addOwners_ne_nil pid ps (by simp)) (by simp [hp])

theorem padsOf_eq_nil_of_sublist {s : State} {pid : Nat} {ls ks : List Loc} (hsub : ks.Sublist ls) (h : s.padsOf pid ls = []) :
    s.padsOf pid ks = [] := by
  rw [padsOf_eq, addOwners_eq_nil] at h ⊢
  exact fun p hp => h p ((hsub.filterMap _).subset hp)

theorem zip_fst_sublist {α β : Type} : ∀ (xs : List α) (ys : List β), ((xs.zip ys).map (·.1)).Sublist xs
  | [], _ => by simp
  | x :: xs, [] => by simp
  | x :: xs, y :: ys => by simpa using zip_fst_sublist xs ys

theorem wrs_locs_sublist (ls : List Loc) (bs : List Byte) (pz : Bool) : ((wrs ls bs pz).map (·.loc)).Sublist ls := by
  have hlocs : (wrs ls bs pz).map (·.loc) = (ls.zip bs).map (·.1) := by
    simp only [wrs, List.map_map]
    rfl
  rw [hlocs]
  exact zip_fst_sublist ls bs

/-- Bytes that land in no panel's pad, of no panel's operation, are bytes written. -/
theorem landAll_eq {s : State} {ls : List Loc} (bs : List Byte) (pz : Bool) (h : s.padsOf 0 ls = []) :
    ∃ st n, s.landAll 0 (wrs ls bs pz) = withStale st n (s.write (wrs ls bs pz)) := by
  obtain ⟨st, n, hstale⟩ := leaveStale_eq { s with nextId := s.nextId + 1 } noCore s.nextId (wrs ls bs pz)
  have hpads : ({ s with nextId := s.nextId + 1 } : State).padsOf 0 ((wrs ls bs pz).map (·.loc)) = [] :=
    padsOf_eq_nil_of_sublist (s := s) (wrs_locs_sublist ls bs pz) h
  have hland : ({ s with nextId := s.nextId + 1 } : State).landBy 0 noCore (wrs ls bs pz) s.nextId 0 =
      withStale st n (s.write (wrs ls bs pz)) := by
    unfold State.landBy
    dsimp only
    rw [hpads, State.keptOf, if_neg (by simp)]
    show State.writeBy _ noCore (wrs ls bs pz) s.nextId = _
    rw [State.writeBy, hstale]
    exact (withStale_apart st n).write s (wrs ls bs pz)
  unfold State.landAll
  rw [hland]
  unfold State.spreadCmd
  split
  · exact ⟨st, n, rfl⟩
  · exact ⟨_, n, rfl⟩

/-! ### A packet is received (R432, R437) -/

theorem rxPdc_names (s : State) (die peer : Nat) : (s.rxPdc die peer).die = die ∧ (s.rxPdc die peer).peer = peer := by
  unfold State.rxPdc
  cases hfind : s.rxPdcs.find? (fun d => d.die == die && d.peer == peer) with
  | none => exact ⟨rfl, rfl⟩
  | some d => simpa using List.find?_some hfind

/-- The receive side just replaced is found. -/
theorem rxPdc_putRx (s : State) (d : RxPdc) : (s.putRx d).rxPdc d.die d.peer = d := by
  have hnone : (s.rxPdcs.filter (fun x => !(x.die == d.die && x.peer == d.peer))).find? (fun x => x.die == d.die && x.peer == d.peer) = none := by
    refine List.find?_eq_none.2 fun x hx hnamed => ?_
    obtain ⟨-, hother⟩ := List.mem_filter.1 hx
    rw [hnamed] at hother
    cases hother
  unfold State.rxPdc State.putRx
  dsimp only
  rw [List.find?_append, hnone]
  simp

section
variable {s : State} {die : Nat} {p : Packet}

theorem netPacketReceive_again (hord : p.mode.toNat < 2) (hseen : (s.rxPdc die p.peer).seen.contains p.psn = true) :
    exec (.netPacketReceive die p) s = .next (s.sendAck (s.rxPdc die p.peer) none) := by
  show execNetPacketReceive die p s = _
  unfold execNetPacketReceive
  dsimp only
  rw [if_pos ⟨hord, hseen⟩]

theorem netPacketReceive_unknown (hnew : p.mode.toNat < 2 → (s.rxPdc die p.peer).seen.contains p.psn = false)
    (hpid : Config.pidContext p.jobid p.pid = none) :
    exec (.netPacketReceive die p) s = .next (s.sendAck (s.rxPdc die p.peer) (some (p.psn, FaultCode.rights.code))) := by
  have hfresh : ¬ (p.mode.toNat < 2 ∧ (s.rxPdc die p.peer).seen.contains p.psn = true) := fun h => Bool.false_ne_true ((hnew h.1).symm.trans h.2)
  show execNetPacketReceive die p s = _
  unfold execNetPacketReceive
  dsimp only
  rw [if_neg hfresh, hpid]
  rfl

/-- The receive side after a packet's bytes have landed. -/
def received (d : RxPdc) (p : Packet) : RxPdc :=
  if p.mode.toNat < 2 then { d with seen := d.seen ++ [p.psn], msgs := sput 0 d.msgs p.msg (sget 0 d.msgs p.msg + 1) } else d

theorem received_names (d : RxPdc) (p : Packet) : (received d p).die = d.die ∧ (received d p).peer = d.peer := by
  unfold received
  split <;> exact ⟨rfl, rfl⟩

/-- The receive side replaced and, but under UUD, an acknowledgement sent. -/
def answered (y : State) (p : Packet) (r : RxPdc) : State := if p.mode = 3 then y.putRx r else (y.putRx r).sendAck r none

theorem answered_keeps {α : Type} (g : State → α) (hg : ∀ (y : State) rx w, g { y with rxPdcs := rx, wire := w } = g y) (y : State) (p : Packet)
    (r : RxPdc) : g (answered y p r) = g y := by
  unfold answered
  split
  · exact hg y _ _
  · exact hg y _ _

theorem answered_rxPdc (y : State) (p : Packet) (r : RxPdc) : (answered y p r).rxPdc r.die r.peer = r := by
  unfold answered
  split
  · exact rxPdc_putRx y r
  · exact rxPdc_putRx y r

theorem answered_wire (y : State) {p : Packet} (r : RxPdc) (h : p.mode ≠ 3) :
    (answered y p r).wire = y.wire ++ [.ack r.die ⟨r.peer, rxCack r, rxSack r, none⟩] := by
  rw [answered, if_neg h]
  rfl

/-- A packet without an add is placed where no panel's pad is concerned. -/
theorem placePacket_eq (d : RxPdc) (r : Req) {ls : List Loc} (hrctr : p.rctr = 0) (hpads : s.padsOf 0 ls = []) :
    s.placePacket p d r ls = some (answered (s.landAll 0 (wrs ls (packetPayload p) p.poison)) p (received d p)) := by
  have hfree : ¬ (s.padHolds 0 ls).isSome = true := by simp [State.padHolds, hpads]
  have hadd : ¬ (p.mode.toNat < 2 ∧ sget 0 d.msgs p.msg + 1 = p.count ∧ p.rctr ≠ 0) := fun h => h.2.2 hrctr
  unfold State.placePacket
  dsimp only
  rw [if_neg hfree, if_neg hadd]
  rfl

theorem netPacketReceive_places {c : CtxId} {ls : List Loc} (hnew : p.mode.toNat < 2 → (s.rxPdc die p.peer).seen.contains p.psn = false)
    (hpid : Config.pidContext p.jobid p.pid = some c) (hctx : ∃ x ∈ s.ctxs, x.id = c)
    (hturn : p.mode = 1 → p.psn = rxCack (s.rxPdc die p.peer) + 1) (hrctr : p.rctr = 0)
    (hls : s.rxCheck (rxReq die c) .store p.dst p.off (packetPayload p).length 1 = .ok ls) (hpads : s.padsOf 0 ls = []) :
    exec (.netPacketReceive die p) s = .next (answered (s.landAll 0 (wrs ls (packetPayload p) p.poison)) p
      (received (s.rxPdc die p.peer) p)) := by
  have hfresh : ¬ (p.mode.toNat < 2 ∧ (s.rxPdc die p.peer).seen.contains p.psn = true) := fun h => Bool.false_ne_true ((hnew h.1).symm.trans h.2)
  have hknown : (Config.pidContext p.jobid p.pid).bind (fun c => (s.ctxs.find? (fun x => x.id == c)).map (fun x => x.id)) = some c := by
    obtain ⟨x, hx, hid⟩ := hctx
    have hsome : (s.ctxs.find? (fun x => x.id == c)).isSome = true := List.find?_isSome.2 ⟨x, hx, by simpa using hid⟩
    obtain ⟨y, hy⟩ := Option.isSome_iff_exists.1 hsome
    have hyid : y.id = c := by simpa using List.find?_some hy
    simp [hpid, hy, hyid]
  have horder : ¬ (p.mode = 1 ∧ p.psn ≠ rxCack (s.rxPdc die p.peer) + 1) := fun h => h.2 (hturn h.1)
  show execNetPacketReceive die p s = _
  unfold execNetPacketReceive
  dsimp only
  rw [if_neg hfresh, hknown]
  dsimp only
  rw [if_neg horder, hls, if_pos hrctr]
  dsimp only
  rw [placePacket_eq _ _ hrctr hpads]
  rfl

end

/-- What a packet leaves where it is placed. -/
theorem packet_placed (s : State) (die : Nat) (p : Packet) {ls : List Loc} (hpads : s.padsOf 0 ls = []) {t : State}
    (ht : t = answered (s.landAll 0 (wrs ls (packetPayload p) p.poison)) p (received (s.rxPdc die p.peer) p)) :
    t.mem = (s.write (wrs ls (packetPayload p) p.poison)).mem ∧ t.wefts = (s.write (wrs ls (packetPayload p) p.poison)).wefts ∧
      (p.mode.toNat < 2 → (t.rxPdc die p.peer).seen = (s.rxPdc die p.peer).seen ++ [p.psn]) ∧
      (p.mode ≠ 3 → ∃ k, t.wire = s.wire ++ [.ack (s.rxPdc die p.peer).die k]) := by
  obtain ⟨st, n, hland⟩ := landAll_eq (packetPayload p) p.poison hpads
  obtain ⟨hdie, hpeer⟩ := rxPdc_names s die p.peer
  obtain ⟨hrdie, hrpeer⟩ := received_names (s.rxPdc die p.peer) p
  rw [hland] at ht
  subst ht
  refine ⟨answered_keeps State.mem (fun _ _ _ => rfl) _ p _, answered_keeps State.wefts (fun _ _ _ => rfl) _ p _, fun hord => ?_,
    fun hmode => ?_⟩
  · have hside := answered_rxPdc (withStale st n (s.write (wrs ls (packetPayload p) p.poison))) p (received (s.rxPdc die p.peer) p)
    rw [hrdie, hrpeer, hdie, hpeer] at hside
    rw [hside, received, if_pos hord]
  · have hwire : (withStale st n (s.write (wrs ls (packetPayload p) p.poison))).wire = s.wire :=
      write_preserves State.wire (fun _ _ _ => rfl) (fun _ _ => rfl) (fun _ _ => rfl) s _
    have hack := answered_wire (withStale st n (s.write (wrs ls (packetPayload p) p.poison))) (received (s.rxPdc die p.peer) p) hmode
    rw [hwire, hrdie] at hack
    exact ⟨_, hack⟩

/-! ### Acknowledgements, retransmission and waiting (R433, R434, R426, R366) -/

theorem ackShows_iff (a : NetAck) (v : Word) : ackShows a v = true ↔ (v - a.cack = 0 ∨ 2 ^ 31 ≤ (v - a.cack).toNat ∨
    ∃ k, k < 64 ∧ v = a.cack + 1 + BitVec.ofNat 32 k ∧ a.sack.getLsbD k = true) := by
  have hzero : v - a.cack = 0 ↔ (v - a.cack).toNat = 0 := BitVec.toNat_inj.symm
  have hnext : ∀ k, k < 64 → (v = a.cack + 1 + BitVec.ofNat 32 k ↔ (v - a.cack).toNat = k + 1) := by
    intro k hk
    bv_omega
  unfold ackShows
  simp only [Bool.or_eq_true, Bool.and_eq_true, beq_iff_eq, decide_eq_true_eq, hzero, or_assoc]
  refine or_congr_right' fun hne => or_congr_right ⟨?_, ?_⟩
  · rintro ⟨hle, hbit⟩
    exact ⟨(v - a.cack).toNat - 1, by omega, (hnext _ (by omega)).2 (by omega), hbit⟩
  · rintro ⟨k, hk, hv, hbit⟩
    have hd := (hnext k hk).1 hv
    rw [hd]
    exact ⟨by omega, hbit⟩

section
variable {s : State} {die pdc : Nat} {psn : Word} {d : Pdc} {u : InFlight}

/-- A packet that is given up: its post has gone or was cancelled, and it has been sent again before. -/
def GivenUp (s : State) (u : InFlight) : Prop := u.tries ≠ 0 ∧ ∀ at_, s.postAt u.post = some at_ → at_.2.2.cancel = true

/-- The same, as a step decides it. -/
def givenUp (s : State) (u : InFlight) : Bool :=
  match s.postAt u.post with
  | some (_, _, p) => p.cancel && decide (1 ≤ u.tries)
  | none => decide (1 ≤ u.tries)

theorem givenUp_iff : givenUp s u = true ↔ GivenUp s u := by
  unfold givenUp GivenUp
  cases s.postAt u.post with
  | none => simp [Nat.one_le_iff_ne_zero]
  | some at_ => simp [Nat.one_le_iff_ne_zero, and_comm]

theorem netRtoExpiry_of_found (hd : s.pdcs.find? (fun d => d.id == pdc && d.die == die) = some d)
    (hu : d.unacked.find? (fun u => u.psn == psn) = some u) : exec (.netRtoExpiry die pdc psn) s =
      if givenUp s u then
        .next (match (s.modPdc pdc (fun z => { z with unacked := z.unacked.filter (fun y => y.psn != psn) })).postAt u.post with
          | some (core, q, _) => (s.modPdc pdc (fun z => { z with unacked := z.unacked.filter (fun y => y.psn != psn) })).settlePosts core q
          | none => s.modPdc pdc (fun z => { z with unacked := z.unacked.filter (fun y => y.psn != psn) }))
      else .next { s.modPdc pdc (fun z => { z with unacked := z.unacked.map (fun y => if y.psn = psn then { y with tries := y.tries + 1 } else y) }) with
        wire := s.wire ++ [.packet die u.pkt] } := by
  have hfound : (s.pdcs.find? (fun d => d.id == pdc && d.die == die)).bind (fun d => d.unacked.find? (fun x => x.psn == psn)) = some u := by
    rw [hd]
    exact hu
  show execNetRtoExpiry die pdc psn s = _
  unfold execNetRtoExpiry
  rw [hfound]
  rfl

theorem pdcIdleTimeout_of_found (hd : s.pdcs.find? (fun d => d.id == pdc && d.die == die) = some d) :
    exec (.pdcIdleTimeout die pdc) s = .next (if s.pdcIdle d then { s with pdcs := s.pdcs.filter (fun z => z.id != pdc) } else s) := by
  show execPdcIdleTimeout die pdc s = _
  unfold execPdcIdleTimeout
  rw [hd]
  dsimp only
  split <;> rfl

end

theorem nwaitRecheck_frees (s : State) {w : Nat} (hw : s.hasWeft w = true) : ∃ t, exec (.nwaitRecheck w) s = .next t ∧ t.mem = s.mem ∧
    (∀ v, v ≠ w → t.weft v = s.weft v) ∧ ∀ i, (t.weft w).lane i = ((s.weft w).lane i).unpark (fun p => p == .nwait) := by
  refine ⟨s.modWeft w (fun x => x.unpark (fun p => p == .nwait)), rfl, rfl, fun v hv => ?_, fun i => ?_⟩
  · exact weft_modWeft_ne (f := fun x => x.unpark (fun p => p == .nwait)) (fun _ => rfl) hv
  · rw [weft_modWeft_self (f := fun x => x.unpark (fun p => p == .nwait)) (fun _ => rfl) hw, lane_unpark]

end Sys2Proof.Proofs
end

section
/-! SUPPORT. The next packet of a post is sent (R425, R431). -/
namespace Sys2Proof.Proofs
open Sys2Proof Sys2Proof.Machine

/-! ### What the parts of a sending leave -/

/-- The posts of a queue of a core. -/
def postsAt (s : State) (core q : Nat) : List NetPost := (s.core core).netQ.getD q []

/-- Where no post has come to its end, none ends (R353, R435). -/
theorem settlePosts_eq_self {s : State} {core q : Nat}
    (h : ∀ z ∈ postsAt s core q, (z.done && z.acked == z.req.len) = false ∧ z.cancel = false) : s.settlePosts core q = s := by
  refine foldl_eq_self fun z hz => ?_
  obtain ⟨hdone, hcancel⟩ := h z hz
  simp only [hdone, hcancel, Bool.false_and, Bool.false_eq_true, if_false]

theorem takeWalks_preserves {α : Type} (g : State → α) (hd : ∀ (y : State) d w, g { y with dies := d, walks := w } = g y) (s : State) (who : Nat) :
    g (s.takeWalks who) = g s := by
  have hats : g (s.takeAts (whoDie who)) = g s := by
    rw [State.takeAts]
    split
    · exact hd s _ s.walks
    · rfl
  rw [State.takeWalks]
  split
  · exact (hd (s.takeAts (whoDie who)) (s.takeAts (whoDie who)).dies _).trans hats
  · exact hats

/-- A claim of tiles leaves the map of cores in order, and the queues of every core. -/
theorem claim_netQ (core k : Nat) (c : CtxId) : ∀ (ts : List Nat) {s : State}, risesFrom 0 s.cores →
    risesFrom 0 (s.claim core c ts).cores ∧ ((s.claim core c ts).core k).netQ = (s.core k).netQ
  | [], _, h => ⟨h, rfl⟩
  | t :: ts, s, h => by
    rw [State.claim, List.foldl_cons]
    by_cases howner : (s.tag core t).owner = 0
    · rw [if_pos howner]
      obtain ⟨hrise, hnetQ⟩ := claim_netQ core k c ts (s := s.modTag core t (fun g => { g with owner := c })) (risesFrom_modCore h core _)
      refine ⟨hrise, hnetQ.trans ?_⟩
      rw [State.modTag, core_modCore h]
      split
      · next hk => rw [hk]
      · rfl
    · rw [if_neg howner]
      exact claim_netQ core k c ts h

/-- The state from which a packet is formed, its places read. -/
def readFrom (s : State) (core : Nat) (c : CtxId) (src : List Loc) : State := (s.touch core c src).allocAll src

theorem readFrom_eq (s : State) (core : Nat) (c : CtxId) (src : List Loc) : ∃ cs, cs = (s.touch core c src).cores ∧
    readFrom s core c src = setCores cs (s.allocAll src) := by
  obtain ⟨cs, htouch⟩ := touch_eq s core c src
  have haside : Aside (setCores cs) := ⟨fun _ => rfl, fun _ => rfl, fun _ _ => rfl⟩
  refine ⟨cs, (congrArg State.cores htouch).symm, ?_⟩
  rw [readFrom, htouch]
  exact haside.allocAll s src

theorem readFrom_mem (s : State) (core : Nat) (c : CtxId) (src : List Loc) : (readFrom s core c src).mem = (s.allocAll src).mem := by
  obtain ⟨cs, -, h⟩ := readFrom_eq s core c src
  rw [h]
  rfl

theorem readFrom_keeps {α : Type} (g : State → α) (hc : ∀ (y : State) c, g { y with cores := c } = g y)
    (hm : ∀ (y : State) m, g { y with mem := m } = g y) (s : State) (core : Nat) (c : CtxId) (src : List Loc) :
    g (readFrom s core c src) = g s := by
  obtain ⟨cs, -, h⟩ := readFrom_eq s core c src
  rw [h, (allocAll_pkgMemOnly s src).withMem]
  exact (hc _ cs).trans (hm s _)

theorem readFrom_netQ {s : State} (h : risesFrom 0 s.cores) (core k : Nat) (c : CtxId) (src : List Loc) :
    risesFrom 0 (readFrom s core c src).cores ∧ ((readFrom s core c src).core k).netQ = (s.core k).netQ := by
  obtain ⟨cs, hcs, hread⟩ := readFrom_eq s core c src
  obtain ⟨hrise, hnetQ⟩ := claim_netQ core k c (src.filterMap (tileOfLoc core)) h
  have hcores : (readFrom s core c src).cores = (s.touch core c src).cores := by rw [hread, hcs]; rfl
  refine ⟨hcores ▸ hrise, ?_⟩
  rw [State.core, hcores]
  exact hnetQ

theorem getD_modify {α : Type} (f : List α → List α) (hf : f [] = []) (l : List (List α)) (q : Nat) : (l.modify q f).getD q [] = f (l.getD q []) := by
  simp only [List.getD_eq_getElem?_getD, List.getElem?_modify_eq]
  cases l[q]? with
  | none => exact hf.symm
  | some x => rfl

theorem postsAt_putPost {s : State} (h : risesFrom 0 s.cores) (core q : Nat) (p : NetPost) :
    postsAt (s.putPost core q p) core q = (postsAt s core q).map (fun x => if x.id = p.id then p else x) := by
  unfold postsAt State.putPost
  rw [core_modCore h, if_pos rfl]
  exact getD_modify (fun ps => ps.map (fun x => if x.id = p.id then p else x)) rfl _ q

theorem core_dropBoard (s : State) (id k : Nat) : ((s.dropBoard id).core k).netQ = (s.core k).netQ := by
  have hcore : (s.dropBoard id).core k = { s.core k with board := (s.core k).board.filter (fun b => b.cmd != id) } :=
    sget_map_values CoreSt.reset (fun x => { x with board := x.board.filter (fun b => b.cmd != id) }) rfl s.cores k
  rw [hcore]

/-- The PDC that a packet goes by is among the PDCs (R426). -/
theorem openPdc_frame {s s0 : State} {die : Nat} {c : CtxId} {epi : Nat} {pdc : Pdc} (h : s.openPdc die c epi = some (s0, pdc)) :
    pdc ∈ s0.pdcs ∧ s0.cores = s.cores ∧ s0.wire = s.wire := by
  unfold State.openPdc at h
  split at h
  · next d hd =>
    obtain ⟨rfl, rfl⟩ : s = s0 ∧ d = pdc := by simpa using h
    exact ⟨List.mem_of_find?_eq_some hd, rfl, rfl⟩
  · dsimp only at h
    split at h
    · simp only [Option.some.injEq, Prod.mk.injEq] at h
      obtain ⟨rfl, rfl⟩ := h
      exact ⟨by simp, rfl, rfl⟩
    · split at h
      · simp only [Option.some.injEq, Prod.mk.injEq] at h
        obtain ⟨rfl, rfl⟩ := h
        exact ⟨by simp, rfl, rfl⟩
      · cases h

/-! ### A packet goes out -/

/-- A post of which a packet has gone out. -/
def sentPost (p : NetPost) (n : Nat) (e : Desc × Seg × Nat) : NetPost :=
  { p with sent := p.sent + n, done := p.sent + n == p.req.len, src := some e }

/-- A packet goes out by a PDC; the last one frees the post's scoreboard entries. -/
def packetOut (y : State) (core q : Nat) (p : NetPost) (n : Nat) (e : Desc × Seg × Nat) (pdc : Pdc) (pk : Packet) (who : Nat) : State :=
  let s1 := (y.putPost core q (sentPost p n e)).modPdc pdc.id (fun d => { d with
    psn := d.psn + 1
    unacked := d.unacked ++ [⟨pdc.psn, pk, p.id, 0⟩] })
  let s2 : State := { s1 with wire := s1.wire ++ [.packet (coreDie core) pk] }
  (if p.sent + n == p.req.len then s2.dropBoard p.id else s2).takeWalks who

section
variable {y : State} {core q n who : Nat} {p : NetPost} {e : Desc × Seg × Nat} {pdc : Pdc} {pk : Packet}

/-- What a packet that goes out leaves beside cores, PDCs, the wire and the waiting for walks. -/
theorem packetOut_keeps {α : Type} (g : State → α) (hg : ∀ (z : State) c d w di wa, g { z with cores := c, pdcs := d, wire := w, dies := di, walks := wa } = g z) :
    g (packetOut y core q p n e pdc pk who) = g y := by
  unfold packetOut
  dsimp only
  refine (takeWalks_preserves g (fun z d w => hg z z.cores z.pdcs z.wire d w) _ who).trans ?_
  split
  · exact hg y _ _ _ y.dies y.walks
  · exact hg y _ _ _ y.dies y.walks

theorem packetOut_wire : (packetOut y core q p n e pdc pk who).wire = y.wire ++ [.packet (coreDie core) pk] := by
  unfold packetOut
  dsimp only
  rw [takeWalks_preserves State.wire (fun _ _ _ => rfl)]
  split <;> rfl

theorem packetOut_pdcs : (packetOut y core q p n e pdc pk who).pdcs = y.pdcs.map (fun d => if d.id = pdc.id then { d with
    psn := d.psn + 1
    unacked := d.unacked ++ [⟨pdc.psn, pk, p.id, 0⟩] } else d) := by
  unfold packetOut
  dsimp only
  rw [takeWalks_preserves State.pdcs (fun _ _ _ => rfl)]
  split <;> rfl

theorem packetOut_posts (h : risesFrom 0 y.cores) : postsAt (packetOut y core q p n e pdc pk who) core q =
    (postsAt y core q).map (fun x => if x.id = p.id then sentPost p n e else x) := by
  rw [← show (sentPost p n e).id = p.id from rfl, ← postsAt_putPost h core q (sentPost p n e)]
  unfold packetOut
  dsimp only
  rw [takeWalks_preserves (fun z => postsAt z core q) (fun _ _ _ => rfl)]
  split
  · unfold postsAt
    rw [core_dropBoard]
    rfl
  · rfl

end

section
variable {s s0 : State} {core q : Nat} {p : NetPost} {pdc : Pdc} {e : Desc × Seg × Nat} {ls : List Loc}

/-- The bytes of a packet with their poison. -/
def packetBytes (s0 : State) (core : Nat) (p : NetPost) (src : List Loc) : List (Byte × Bool) :=
  src.map (fun l => s0.coreByte (s0.postReq core p).core p.panel l)

/-- The next packet of a post with the bytes of its places, all there and free. -/
theorem sendPacket_eq (hmode : p.req.mode ≠ 3) (hopen : s.openPdc (coreDie core) p.ctx p.req.epi = some (s0, pdc))
    (hwindow : pdc.unacked.length < 512) (hend : s0.postEnd (s0.postReq core p) p = .ok e)
    (hls : s0.endLocs (s0.postReq core p) .load e p.sent (min (p.req.packet p.ds) (p.req.len - p.sent)) = .ok ls)
    (hfree : ∀ l ∈ ls.map (Loc.swz p.swz), s0.tileBusy s0.mwWrites l = false) :
    s.sendPacket core q p = (packetOut (readFrom s0 (s0.postReq core p).core p.ctx (ls.map (Loc.swz p.swz))) core q p
      (min (p.req.packet p.ds) (p.req.len - p.sent)) e pdc
      (p.packetOf (s.endpoint p.ctx p.req.epi) pdc (packetBytes s0 core p (ls.map (Loc.swz p.swz)))) (s0.postReq core p).who).settlePosts core q := by
  have huud : (p.req.mode == 3) = false := by simpa using hmode
  have hidle : ¬ (ls.map (Loc.swz p.swz)).any (s0.tileBusy s0.mwWrites) = true := fun hany => by
    obtain ⟨l, hl, hbusy⟩ := List.any_eq_true.1 hany
    rw [hfree l hl] at hbusy
    cases hbusy
  have hroom : ¬ nsccWindow ≤ pdc.unacked.length := by
    rw [nsccWindow]
    omega
  unfold State.sendPacket
  dsimp only
  rw [hopen]
  dsimp only
  rw [if_neg hroom, hend]
  dsimp only
  rw [hls]
  dsimp only
  rw [if_neg hidle]
  simp only [huud, Bool.false_eq_true, if_false]
  rfl

end

/-! ### NET_PACKET_SEND -/

section
variable {s : State} {core q : Nat} {p : NetPost} {rest : List NetPost}

/-- The oldest post of a queue, none of which has come to its end, sends. -/
theorem netPacketSend_eq (hposts : postsAt s core q = p :: rest) (hopen : ∀ z ∈ p :: rest, z.done = false ∧ z.cancel = false)
    (hstall : p.stall = none) (hpanel : ∃ pn ∈ s.panels, pn.id = p.panel ∧ pn.life ≠ .halting) :
    exec (.netPacketSend core q) s = .next (s.sendPacket core q p) := by
  obtain ⟨hdone, hcancel⟩ := hopen p List.mem_cons_self
  have hsettle : s.settlePosts core q = s := settlePosts_eq_self fun z hz => by
    obtain ⟨hz1, hz2⟩ := hopen z (hposts ▸ hz)
    exact ⟨by rw [hz1]; rfl, hz2⟩
  have hfirst : ((s.core core).netQ.getD q []).find? (fun z => !z.done) = some p := by
    rw [show (s.core core).netQ.getD q [] = p :: rest from hposts]
    exact List.find?_cons_of_pos (by simp [hdone])
  have hready : s.panels.any (fun x => x.id == p.panel && x.life != .halting) = true := by
    obtain ⟨pn, hpn, hid, hlife⟩ := hpanel
    exact List.any_eq_true.2 ⟨pn, hpn, by simp [hid, hlife]⟩
  show execNetPacketSend core q s = _
  unfold execNetPacketSend
  dsimp only
  rw [hsettle, hfirst]
  dsimp only
  rw [hready, hcancel, hstall, if_neg (by decide)]

/-- The posts of the queue after the packet: none has come to its end, for what has been sent is not acknowledged. -/
theorem sentPosts_open {n : Nat} {e : Desc × Seg × Nat} (hopen : ∀ z ∈ p :: rest, z.done = false ∧ z.cancel = false)
    (hacked : p.acked ≠ p.req.len) : ∀ z ∈ (p :: rest).map (fun x => if x.id = p.id then sentPost p n e else x),
      (z.done && z.acked == z.req.len) = false ∧ z.cancel = false := by
  intro z hz
  obtain ⟨x, hx, rfl⟩ := List.mem_map.1 hz
  split
  · have hreq : (sentPost p n e).req = p.req := rfl
    have hne : ((sentPost p n e).acked == (sentPost p n e).req.len) = false := by
      rw [hreq]
      exact beq_false_of_ne hacked
    exact ⟨by rw [hne, Bool.and_false], (hopen p List.mem_cons_self).2⟩
  · obtain ⟨hdone, hcancel⟩ := hopen x hx
    exact ⟨by rw [hdone]; rfl, hcancel⟩

end

/-- The next packet of the oldest post of a queue (R425, R431). -/
theorem netPacketSend_sends {s : State} {core q : Nat} {p : NetPost} {rest : List NetPost} {s0 : State} {pdc : Pdc} {e : Desc × Seg × Nat}
    {ls : List Loc} (hposts : postsAt s core q = p :: rest) (hopen : ∀ z ∈ p :: rest, z.done = false ∧ z.cancel = false)
    (hstall : p.stall = none) (hpanel : ∃ pn ∈ s.panels, pn.id = p.panel ∧ pn.life ≠ .halting) (hmode : p.req.mode ≠ 3)
    (hacked : p.acked ≠ p.req.len) (hpdc : s.openPdc (coreDie core) p.ctx p.req.epi = some (s0, pdc)) (hwindow : pdc.unacked.length < 512)
    (hend : s0.postEnd (s0.postReq core p) p = .ok e)
    (hls : s0.endLocs (s0.postReq core p) .load e p.sent (min (p.req.packet p.ds) (p.req.len - p.sent)) = .ok ls)
    (hfree : ∀ l ∈ ls.map (Loc.swz p.swz), s0.tileBusy s0.mwWrites l = false) (hrise : risesFrom 0 s.cores) :
    let src := ls.map (Loc.swz p.swz)
    let n := min (p.req.packet p.ds) (p.req.len - p.sent)
    let pk := p.packetOf (s.endpoint p.ctx p.req.epi) pdc (packetBytes s0 core p src)
    ∃ t, exec (.netPacketSend core q) s = .next t ∧ t.mem = (s0.allocAll src).mem ∧ t.wire = s.wire ++ [.packet (coreDie core) pk] ∧
      (∀ z ∈ postsAt t core q, z.id = p.id → z.sent = p.sent + n ∧ z.done = decide (p.sent + n = p.req.len)) ∧
      ∃ d ∈ t.pdcs, d.id = pdc.id ∧ d.psn = pdc.psn + 1 ∧ ∃ u ∈ d.unacked, u.psn = pdc.psn ∧ u.pkt = pk ∧ u.post = p.id := by
  intro src n pk
  obtain ⟨hmem, hcores, hwire⟩ := openPdc_frame hpdc
  obtain ⟨hyrise, hynetQ⟩ := readFrom_netQ (s := s0) (hcores ▸ hrise) (s0.postReq core p).core core p.ctx src
  have hyposts : postsAt (readFrom s0 (s0.postReq core p).core p.ctx src) core q = p :: rest := by
    rw [postsAt, hynetQ, State.core, hcores]
    exact hposts
  have hsent := packetOut_posts (core := core) (q := q) (p := p) (n := n) (e := e) (pdc := pdc) (pk := pk) (who := (s0.postReq core p).who) hyrise
  rw [hyposts] at hsent
  have hsettle : (packetOut (readFrom s0 (s0.postReq core p).core p.ctx src) core q p n e pdc pk (s0.postReq core p).who).settlePosts core q =
      packetOut (readFrom s0 (s0.postReq core p).core p.ctx src) core q p n e pdc pk (s0.postReq core p).who :=
    settlePosts_eq_self (hsent ▸ sentPosts_open hopen hacked)
  refine ⟨packetOut (readFrom s0 (s0.postReq core p).core p.ctx src) core q p n e pdc pk (s0.postReq core p).who, ?_, ?_, ?_, ?_, ?_⟩
  · rw [netPacketSend_eq hposts hopen hstall hpanel, sendPacket_eq hmode hpdc hwindow hend hls hfree]
    exact congrArg Host.Outcome.next hsettle
  · exact (packetOut_keeps State.mem fun _ _ _ _ _ _ => rfl).trans (readFrom_mem s0 _ p.ctx src)
  · rw [packetOut_wire, readFrom_keeps State.wire (fun _ _ => rfl) (fun _ _ => rfl), hwire]
  · intro z hz hid
    rw [hsent] at hz
    obtain ⟨x, -, rfl⟩ := List.mem_map.1 hz
    by_cases hx : x.id = p.id
    · rw [if_pos hx]
      exact ⟨rfl, rfl⟩
    · rw [if_neg hx] at hid
      exact absurd hid hx
  · rw [packetOut_pdcs, readFrom_keeps State.pdcs (fun _ _ => rfl) (fun _ _ => rfl)]
    refine ⟨_, List.mem_map.2 ⟨pdc, hmem, if_pos rfl⟩, rfl, rfl, ⟨pdc.psn, pk, p.id, 0⟩, by simp, rfl, rfl, rfl⟩

end Sys2Proof.Proofs
end

section
/-! SUPPORT. Acknowledgements: the posts that end, and the packets that are taken off (R433 to R435). -/
namespace Sys2Proof.Proofs
open Sys2Proof Sys2Proof.Machine

/-! ### What the network engine holds -/

/-- The PDCs, what has been sent, and the posts of each core by queue. -/
structure NetView where
  pdcs   : List Pdc
  wire   : List WireMsg
  queues : List (List (List NetPost))

/-- What the network engine holds in a state. -/
def netView (s : State) : NetView := ⟨s.pdcs, s.wire, s.cores.map (·.2.netQ)⟩

theorem write_netView (s : State) (ws : List Wr) : netView (s.write ws) = netView s := by
  have hstale : netView ((((putBytes s ws).pzRegs ws).staleBeams ws)) = netView ((putBytes s ws).pzRegs ws) := by
    unfold State.staleBeams
    dsimp only
    split
    · refine congrArg (NetView.mk _ _) ?_
      simp only [List.map_map, Function.comp_def]
    · rfl
  have hbytes : netView (putBytes s ws) = netView s := putBytes_preserves netView (fun _ _ _ => rfl) (fun _ _ => rfl) s ws
  exact (hstale.trans (pzRegs_keeps netView (fun _ _ _ => rfl) _ ws)).trans hbytes

theorem inbound_netView (s : State) (p : Panel) (ls : List Loc) : netView (s.inbound p ls) = netView s := by
  unfold State.inbound
  split <;> rfl

theorem landAll_netView (s : State) (pid : Nat) (ws : List Wr) (id : Nat) : netView (s.landAll pid ws id) = netView s := by
  have hspread : ∀ (y : State) n, netView (y.spreadCmd n) = netView y := fun y n => by
    unfold State.spreadCmd
    split <;> rfl
  have hland : ∀ (y : State) src, netView (y.landBy pid noCore ws src id) = netView y := fun y src => by
    obtain ⟨st, n, hstale⟩ := leaveStale_eq y noCore src ws
    unfold State.landBy
    dsimp only
    refine (foldl_keeps netView (fun z p => inbound_netView z p _) _ _).trans ?_
    rw [State.writeBy, hstale]
    exact write_netView _ ws
  exact (hspread _ _).trans (hland _ _)

theorem queueWalks_netView (s : State) (who die : Nat) (ps : List PageReq) : netView (s.queueWalks who die ps) = netView s := by
  unfold State.queueWalks
  refine foldl_keeps netView (fun y p => ?_) ps s
  obtain ⟨c, seg, pg, sz, base⟩ := p
  unfold State.queueWalk State.askAts
  dsimp only
  split
  · split <;> rfl
  · split <;> rfl

/-! ### What the end of a part of a future leaves -/

section
variable {α : Type} (g : State → α) (hfuts : ∀ (y : State) f, g { y with futs := f } = g y) (hboth : ∀ (y : State) w f, g (y.modBoth w f) = g y)
include hfuts hboth

theorem completeFut_preserves (s : State) (r : FutRef) (v : DWord) : g (s.completeFut r v) = g s := by
  have hsweep : ∀ y : State, g (y.sweepFut r) = g y := fun y => by
    unfold State.sweepFut
    split
    · split
      · exact hfuts _ _
      · rfl
    · rfl
  unfold State.completeFut
  split
  · split
    · refine (hsweep _).trans ((foldl_keeps g (fun y w => ?_) _ _).trans (hfuts s _))
      exact hboth y w.1 _
    · rfl
  · rfl

theorem endPart_preserves (s : State) (r : FutRef) (bytes fault : Nat) (cancelled : Bool) : g (s.endPart r bytes fault cancelled) = g s := by
  unfold State.endPart
  split
  · rfl
  · dsimp only
    split
    · exact (completeFut_preserves g hfuts hboth _ r _).trans (hfuts s _)
    · exact hfuts s _

end

/-- The queue of an ended post without it, and the packets of the post taken off. -/
def postGone (s : State) (core q : Nat) (p : NetPost) : State :=
  (({ s with pdcs := s.pdcs.map (fun d => { d with unacked := d.unacked.filter (fun x => x.post != p.id) }) } : State).modCore core (fun k =>
    { k with netQ := k.netQ.modify q (fun ps => ps.filter (fun x => x.id != p.id)) })).dropBoard p.id

/-- Beside the post and its packets, an end changes pending bytes and futures. -/
theorem endPost_preserves {α : Type} (g : State → α) (hfuts : ∀ (y : State) f, g { y with futs := f } = g y)
    (hboth : ∀ (y : State) w f, g (y.modBoth w f) = g y) (hpend : ∀ (y : State) ps sv, g { y with panels := ps, saved := sv } = g y)
    (s : State) (core q : Nat) (p : NetPost) (fault : Nat) (cancelled : Bool) :
    g (s.endPost core q p fault cancelled) = g (postGone s core q p) := by
  have hmod : ∀ (y : State) pid b f, g (y.modPend pid b f) = g y := fun y pid b f => by
    cases b with
    | none => rfl
    | some x => exact hpend y _ _
  unfold State.endPost
  dsimp only
  split
  · exact (endPart_preserves g hfuts hboth _ _ _ _ _).trans (hmod _ _ _ _)
  · exact hmod _ _ _ _

/-! ### Entries of a map that is changed at a key -/

theorem mem_sput {α : Type} [DecidableEq α] (d : α) {i : Nat} {v : α} {e : Nat × α} : ∀ {m : List (Nat × α)}, e ∈ sput d m i v → e ∈ m ∨ e = (i, v)
  | [], h => by
    rw [sput] at h
    split at h
    · cases h
    · exact .inr (List.mem_singleton.1 h)
  | (k, x) :: m, h => by
    rw [sput] at h
    split at h
    · split at h
      · exact .inl h
      · rcases List.mem_cons.1 h with rfl | h
        · exact .inr rfl
        · exact .inl h
    · split at h
      · next hik =>
        split at h
        · exact .inl (List.mem_cons_of_mem _ h)
        · rcases List.mem_cons.1 h with rfl | h
          · exact .inr (by rw [hik])
          · exact .inl (List.mem_cons_of_mem _ h)
      · rcases List.mem_cons.1 h with rfl | h
        · exact .inl List.mem_cons_self
        · exact (mem_sput d h).imp_left (List.mem_cons_of_mem _)

/-- An entry stays, or it is the one that is changed. -/
theorem sput_mem {α : Type} [DecidableEq α] (d : α) {i : Nat} {v : α} {e : Nat × α} : ∀ {m : List (Nat × α)}, e ∈ m →
    e ∈ sput d m i v ∨ e = (i, sget d m i) ∧ (v = d ∨ (i, v) ∈ sput d m i v)
  | (k, x) :: m, h => by
    rw [sput, sget]
    split
    · split
      · exact .inl h
      · exact .inl (List.mem_cons_of_mem _ h)
    · split
      · next hik =>
        rcases List.mem_cons.1 h with rfl | h
        · refine .inr ⟨by rw [hik], ?_⟩
          split
          · next hv => exact .inl hv
          · exact .inr (by rw [hik]; exact List.mem_cons_self)
        · split
          · exact .inl h
          · exact .inl (List.mem_cons_of_mem _ h)
      · rcases List.mem_cons.1 h with rfl | h
        · exact .inl List.mem_cons_self
        · exact (sput_mem d h).imp (List.mem_cons_of_mem _) fun hr => ⟨hr.1, hr.2.imp_right (List.mem_cons_of_mem _)⟩

/-- What is looked up is the default, or stands at the key. -/
theorem sget_mem {α : Type} (d : α) (i : Nat) : ∀ m : List (Nat × α), sget d m i = d ∨ (i, sget d m i) ∈ m
  | [] => .inl rfl
  | (k, x) :: m => by
    rw [sget]
    split
    · exact .inl rfl
    · split
      · next hik => exact .inr (by rw [hik]; exact List.mem_cons_self)
      · exact (sget_mem d i m).imp_right (List.mem_cons_of_mem _)

theorem mem_modify {α : Type} {f : α → α} {x : α} {l : List α} {j : Nat} (h : x ∈ l.modify j f) : x ∈ l ∨ ∃ y ∈ l, x = f y := by
  obtain ⟨n, hn⟩ := List.getElem?_of_mem h
  rw [List.getElem?_modify] at hn
  obtain ⟨y, hy, rfl⟩ := Option.map_eq_some_iff.1 hn
  split
  · exact .inr ⟨y, List.mem_of_getElem? hy, rfl⟩
  · exact .inl (List.mem_of_getElem? hy)

theorem modify_mem {α : Type} (f : α → α) {x : α} {l : List α} (j : Nat) (h : x ∈ l) : x ∈ l.modify j f ∨ f x ∈ l.modify j f := by
  obtain ⟨n, hn⟩ := List.getElem?_of_mem h
  have hmod : (l.modify j f)[n]? = some (if j = n then f x else x) := by
    rw [List.getElem?_modify, hn]
    split <;> rfl
  have hmem := List.mem_of_getElem? hmod
  split at hmem
  · exact .inr hmem
  · exact .inl hmem

end Sys2Proof.Proofs
end

section
/-! SUPPORT. The posts that end with an acknowledgement, and O44. -/
namespace Sys2Proof.Proofs
open Sys2Proof Sys2Proof.Machine

/-! ### Posts by their queues -/

/-- Every post of some cores' queues has a property. -/
def AllPosts (P : NetPost → Prop) (v : NetView) : Prop := ∀ k ∈ v.queues, ∀ q ∈ k, ∀ p ∈ q, P p

/-- Some post of the queues has a property. -/
def SomePost (P : NetPost → Prop) (v : NetView) : Prop := ∃ k ∈ v.queues, ∃ q ∈ k, ∃ p ∈ q, P p

theorem somePost_iff {P : NetPost → Prop} {s : State} : SomePost P (netView s) ↔ ∃ c ∈ s.cores, ∃ q ∈ c.2.netQ, ∃ p ∈ q, P p := by
  constructor
  · rintro ⟨k, hk, h⟩
    obtain ⟨c, hc, rfl⟩ := List.mem_map.1 hk
    exact ⟨c, hc, h⟩
  · rintro ⟨c, hc, h⟩
    exact ⟨c.2.netQ, List.mem_map.2 ⟨c, hc, rfl⟩, h⟩

theorem AllPosts.of_some {P Q : NetPost → Prop} {v : NetView} (h : AllPosts P v) (hs : SomePost Q v) : ∃ p, P p ∧ Q p := by
  obtain ⟨k, hk, q, hq, p, hp, hQ⟩ := hs
  exact ⟨p, h k hk q hq p hp, hQ⟩

/-- The posts of a queue that is looked up stand in some core's queues. -/
theorem postsAt_some {s : State} {core q : Nat} {p : NetPost} (h : p ∈ postsAt s core q) : SomePost (· = p) (netView s) := by
  unfold postsAt at h
  rw [List.getD_eq_getElem?_getD] at h
  cases hq : (s.core core).netQ[q]? with
  | none => simp [hq] at h
  | some ps =>
    rw [hq] at h
    have hmem := List.mem_of_getElem? hq
    rcases sget_mem CoreSt.reset core s.cores with hcore | hcore
    · rw [State.core, hcore] at hmem
      obtain rfl : ps = [] := List.eq_of_mem_replicate hmem
      cases h
    · exact ⟨_, List.mem_map.2 ⟨_, hcore, rfl⟩, ps, hmem, p, h, rfl⟩

theorem postAt_some {s : State} {i core q : Nat} {p : NetPost} (h : s.postAt i = some (core, q, p)) :
    p.id = i ∧ SomePost (· = p) (netView s) := by
  obtain ⟨c, hc, hin⟩ := List.exists_of_findSome?_eq_some h
  obtain ⟨z, hz, hfind⟩ := List.exists_of_findSome?_eq_some hin
  obtain ⟨p', hp', heq⟩ := Option.map_eq_some_iff.1 hfind
  simp only [Prod.mk.injEq] at heq
  obtain ⟨-, -, rfl⟩ := heq
  refine ⟨by simpa using List.find?_some hp', somePost_iff.2 ⟨c, hc, z.1, ?_, p', List.mem_of_find?_eq_some hp', rfl⟩⟩
  exact List.mem_of_getElem? (List.mem_zipIdx_iff_getElem?.1 hz)

/-- A post is found where one of its number stands. -/
theorem postAt_isSome_iff {s : State} {i : Nat} : (s.postAt i).isSome = true ↔ SomePost (fun p => p.id = i) (netView s) := by
  constructor
  · intro h
    obtain ⟨⟨core, q, p⟩, hp⟩ := Option.isSome_iff_exists.1 h
    obtain ⟨hid, k, hk, ps, hps, p', hp', rfl⟩ := postAt_some hp
    exact ⟨k, hk, ps, hps, p', hp', hid⟩
  · intro h
    obtain ⟨c, hc, ps, hps, p, hp, hid⟩ := somePost_iff.1 h
    obtain ⟨n, hn⟩ := List.getElem?_of_mem hps
    have hzip : (ps, n) ∈ c.2.netQ.zipIdx := List.mem_zipIdx_iff_getElem?.2 hn
    have hfind : (ps.find? (fun p => p.id == i)).isSome = true := List.find?_isSome.2 ⟨p, hp, by simpa using hid⟩
    unfold State.postAt
    rw [List.findSome?_isSome_iff]
    refine ⟨c, hc, ?_⟩
    rw [List.findSome?_isSome_iff]
    exact ⟨(ps, n), hzip, by simpa using hfind⟩

section
variable {s : State} {core q : Nat} {g : List NetPost → List NetPost}

/-- One queue of a core changed. -/
def modQueue (s : State) (core q : Nat) (g : List NetPost → List NetPost) : State :=
  s.modCore core (fun k => { k with netQ := k.netQ.modify q g })

theorem reset_posts_nil : ∀ ps ∈ CoreSt.reset.netQ, ps = [] := fun _ h => List.eq_of_mem_replicate h

theorem modQueue_all {P : NetPost → Prop} (h : AllPosts P (netView s)) (hg : ∀ ps, (∀ p ∈ ps, P p) → ∀ p ∈ g ps, P p) :
    AllPosts P (netView (modQueue s core q g)) := by
  intro k hk ps hps p hp
  obtain ⟨c, hc, rfl⟩ := List.mem_map.1 hk
  have hcore : ∀ ps ∈ (s.core core).netQ, ∀ p ∈ ps, P p := by
    rcases sget_mem CoreSt.reset core s.cores with hd | hmem
    · intro ps hps p hp
      rw [State.core, hd] at hps
      rw [reset_posts_nil ps hps] at hp
      cases hp
    · exact h _ (List.mem_map.2 ⟨_, hmem, rfl⟩)
  rcases mem_sput _ hc with hold | rfl
  · exact h _ (List.mem_map.2 ⟨c, hold, rfl⟩) ps hps p hp
  · rcases mem_modify hps with hps | ⟨ps', hps', rfl⟩
    · exact hcore ps hps p hp
    · exact hg ps' (hcore ps' hps') p hp

/-- A post that a change of a queue keeps stays. -/
theorem modQueue_some {P : NetPost → Prop} (h : SomePost P (netView s)) (hg : ∀ ps p, p ∈ ps → P p → p ∈ g ps) :
    SomePost P (netView (modQueue s core q g)) := by
  obtain ⟨c, hc, ps, hps, p, hp, hP⟩ := somePost_iff.1 h
  refine somePost_iff.2 ?_
  rcases sput_mem CoreSt.reset (i := core) (v := { s.core core with netQ := (s.core core).netQ.modify q g }) hc with hold | ⟨rfl, hnew⟩
  · exact ⟨c, hold, ps, hps, p, hp, hP⟩
  · have hkept : ∃ ps' ∈ (s.core core).netQ.modify q g, p ∈ ps' := by
      rcases modify_mem g q hps with hps | hps
      · exact ⟨ps, hps, hp⟩
      · exact ⟨g ps, hps, hg ps p hp hP⟩
    obtain ⟨ps', hps', hp'⟩ := hkept
    rcases hnew with hreset | hmem
    · have hnil := reset_posts_nil ps' (by rw [← hreset]; exact hps')
      rw [hnil] at hp'
      cases hp'
    · exact ⟨_, hmem, ps', hps', p, hp', hP⟩

end

/-- Packets of the posts that end are not kept (R93). -/
def dropPosts (ended : List Nat) (d : Pdc) : Pdc := { d with unacked := d.unacked.filter (fun u => !ended.contains u.post) }

theorem dropPosts_nil (d : Pdc) : dropPosts [] d = d := by
  have hall : d.unacked.filter (fun u => !([] : List Nat).contains u.post) = d.unacked := List.filter_eq_self.2 fun _ _ => rfl
  rw [dropPosts, hall]

theorem dropPosts_cons (i : Nat) (ended : List Nat) (d : Pdc) :
    { dropPosts ended d with unacked := (dropPosts ended d).unacked.filter (fun x => x.post != i) } = dropPosts (i :: ended) d := by
  simp only [dropPosts, List.filter_filter, List.contains_cons, Bool.not_or, bne]

theorem dropPosts_after (i : Nat) (ended : List Nat) (d : Pdc) :
    dropPosts ended { d with unacked := d.unacked.filter (fun x => x.post != i) } = dropPosts (i :: ended) d := by
  simp only [dropPosts, List.filter_filter, List.contains_cons, Bool.not_or, bne, Bool.and_comm]

theorem postGone_netView (s : State) (core q : Nat) (p : NetPost) :
    netView (postGone s core q p) = { netView (modQueue s core q (fun ps => ps.filter (fun x => x.id != p.id))) with
      pdcs := s.pdcs.map (fun d => { d with unacked := d.unacked.filter (fun x => x.post != p.id) }) } := by
  have hqueues : (postGone s core q p).cores.map (·.2.netQ) = (modQueue s core q (fun ps => ps.filter (fun x => x.id != p.id))).cores.map (·.2.netQ) := by
    simp only [postGone, State.dropBoard, List.map_map, Function.comp_def]
    rfl
  exact congrArg (NetView.mk _ _) hqueues

theorem endPost_netView (s : State) (core q : Nat) (p : NetPost) (fault : Nat) (cancelled : Bool) :
    netView (s.endPost core q p fault cancelled) = netView (postGone s core q p) :=
  endPost_preserves netView (fun _ _ => rfl) (fun _ _ _ => rfl) (fun _ _ _ => rfl) s core q p fault cancelled

/-! ### The settling of posts after an acknowledgement (R435) -/

/-- A post is one of another state's, as far as its number and its end go. -/
def OfPost (s : State) (p : NetPost) : Prop := SomePost (fun x => x.id = p.id ∧ x.done = p.done ∧ x.cancel = p.cancel) (netView s)

/-- What the network engine holds while posts of `s` end: the packets of the ended posts are dropped from the PDCs. -/
structure Settles (s : State) (base : List Pdc) (wire : List WireMsg) (v : NetView) : Prop where
  pdcs  : ∃ ended, v.pdcs = base.map (dropPosts ended) ∧ ∀ i ∈ ended, SomePost (fun p => p.id = i ∧ (p.done = true ∨ p.cancel = true)) (netView s)
  wire  : v.wire = wire
  posts : AllPosts (OfPost s) v

section
variable {s y : State} {base : List Pdc} {wire : List WireMsg} {core q : Nat} {p : NetPost}

/-- Posts of a state that settles are posts of the state that it settles from. -/
theorem Settles.ofPost (h : Settles s base wire (netView y)) (hp : SomePost (· = p) (netView y)) : OfPost s p := by
  obtain ⟨x, hx, rfl⟩ := h.posts.of_some hp
  exact hx

theorem Settles.putPost (h : Settles s base wire (netView y)) (hp : OfPost s p) : Settles s base wire (netView (y.putPost core q p)) := by
  obtain ⟨hpdcs, hwire, hposts⟩ := h
  refine ⟨hpdcs, hwire, modQueue_all hposts fun ps hps z hz => ?_⟩
  obtain ⟨x, hx, rfl⟩ := List.mem_map.1 hz
  split
  · exact hp
  · exact hps x hx

theorem Settles.endPost (h : Settles s base wire (netView y)) (hp : OfPost s p) (hover : p.done = true ∨ p.cancel = true) (fault : Nat)
    (cancelled : Bool) : Settles s base wire (netView (y.endPost core q p fault cancelled)) := by
  obtain ⟨⟨ended, hpdcs, hended⟩, hwire, hposts⟩ := h
  rw [endPost_netView, postGone_netView]
  have hover' : SomePost (fun x => x.id = p.id ∧ (x.done = true ∨ x.cancel = true)) (netView s) := by
    obtain ⟨k, hk, ps, hps, x, hx, hid, hdone, hcancel⟩ := hp
    exact ⟨k, hk, ps, hps, x, hx, hid, by rwa [hdone, hcancel]⟩
  refine ⟨⟨p.id :: ended, ?_, List.forall_mem_cons.2 ⟨hover', hended⟩⟩, hwire, modQueue_all hposts fun ps hps z hz => hps z (List.mem_filter.1 hz).1⟩
  show y.pdcs.map _ = _
  rw [show y.pdcs = base.map (dropPosts ended) from hpdcs, List.map_map]
  exact List.map_congr_left fun d _ => dropPosts_cons p.id ended d

theorem Settles.modPend (h : Settles s base wire (netView y)) (pid : Nat) (b : Option (Scope × Nat)) (f : Nat → Nat) :
    Settles s base wire (netView (y.modPend pid b f)) := by
  cases b with
  | none => exact h
  | some x => exact h

theorem Settles.ackPacket (h : Settles s base wire (netView y)) (x : InFlight) : Settles s base wire (netView (y.ackPacket x)) := by
  unfold State.ackPacket
  split
  · exact h
  · next core q p hp =>
    have hof : OfPost s p := h.ofPost (postAt_some hp).2
    exact (h.putPost (p := { p with acked := p.acked + x.span }) hof).modPend _ _ _

theorem Settles.finishPost (h : Settles s base wire (netView y)) (hp : OfPost s p) (hdone : p.done = true) :
    Settles s base wire (netView (y.finishPost core q p)) := by
  unfold State.finishPost
  dsimp only
  split
  · exact h.endPost hp (.inl hdone) _ _
  · split
    · exact h
    · split
      · rw [queueWalks_netView]
        exact h
      · split
        · exact h.putPost (p := { p with stall := _ }) hp
        · exact h.endPost hp (.inl hdone) _ _
      · unfold State.landAdd
        split
        · exact h
        · next hland =>
          split at hland
          · cases hland
          · obtain rfl := Option.some.inj hland
            refine Settles.endPost ?_ hp (.inl hdone) _ _
            rw [landAll_netView]
            exact h

theorem Settles.settlePosts (h : Settles s base wire (netView y)) : Settles s base wire (netView (y.settlePosts core q)) := by
  unfold State.settlePosts
  refine List.foldlRecOn (motive := fun z => Settles s base wire (netView z)) _ _ h fun z hz p hp => ?_
  have hof : OfPost s p := h.ofPost (postsAt_some hp)
  split
  · next hdone =>
    rw [Bool.and_eq_true] at hdone
    exact hz.finishPost hof hdone.1
  · split
    · next hcancel =>
      rw [Bool.and_eq_true] at hcancel
      exact hz.endPost hof (.inr hcancel.1) _ _
    · exact hz

end

/-! ### NET_ACK_RECEIVE (R433, R434) -/

/-- The PDCs after packets are taken off one of them. -/
def takenOff (s : State) (id : Nat) (keep : Pdc → List InFlight) : List Pdc :=
  s.pdcs.map (fun z => if z.id = id then { z with unacked := keep z } else z)

theorem takenOff_dropPosts (s : State) (id : Nat) (keep : Pdc → List InFlight) (ended : List Nat) :
    (takenOff s id keep).map (dropPosts ended) = s.pdcs.map (fun z =>
      { z with unacked := (if z.id = id then keep z else z.unacked).filter (fun u => !ended.contains u.post) }) := by
  rw [takenOff, List.map_map]
  refine List.map_congr_left fun z _ => ?_
  rw [Function.comp_apply]
  by_cases h : z.id = id
  · rw [if_pos h, if_pos h]
    rfl
  · rw [if_neg h, if_neg h]
    rfl

theorem allPosts_self (s : State) : AllPosts (OfPost s) (netView s) := fun k hk q hq p hp => ⟨k, hk, q, hq, p, hp, rfl, rfl, rfl⟩

/-- The packets that an acknowledgement shows are counted, and those to be sent again are sent. -/
def acked (s : State) (die : Nat) (d : Pdc) (got left again : List InFlight) : State :=
  let s1 := got.foldl (fun y x => y.ackPacket x) (s.modPdc d.id (fun z => { z with unacked := left }))
  { s1 with wire := s1.wire ++ again.map (fun x => .packet die x.pkt) }

theorem acked_settles (s : State) (die : Nat) (d : Pdc) (got left again : List InFlight) :
    Settles s (takenOff s d.id (fun _ => left)) (s.wire ++ again.map (fun x => .packet die x.pkt)) (netView (acked s die d got left again)) := by
  have hstart : Settles s (takenOff s d.id (fun _ => left)) s.wire (netView (s.modPdc d.id (fun z => { z with unacked := left }))) := by
    refine ⟨⟨[], ?_, by simp⟩, rfl, allPosts_self s⟩
    rw [List.map_congr_left (g := id) (fun d _ => dropPosts_nil d), List.map_id]
    rfl
  have hgot : Settles s (takenOff s d.id (fun _ => left)) s.wire
      (netView (got.foldl (fun y x => y.ackPacket x) (s.modPdc d.id (fun z => { z with unacked := left })))) :=
    List.foldlRecOn (motive := fun y => Settles s (takenOff s d.id (fun _ => left)) s.wire (netView y)) _ _ hstart fun y hy x _ => hy.ackPacket x
  obtain ⟨hpdcs, hwire, hposts⟩ := hgot
  exact ⟨hpdcs, congrArg (· ++ again.map (fun x => WireMsg.packet die x.pkt)) hwire, hposts⟩

/-- The queue of an acknowledged post settles. -/
def settleAt (y : State) (id : Nat) : State :=
  match y.postAt id with
  | some (core, q, _) => y.settlePosts core q
  | none => y

theorem settleAt_settles {s y : State} {base : List Pdc} {wire : List WireMsg} (h : Settles s base wire (netView y)) (id : Nat) :
    Settles s base wire (netView (settleAt y id)) := by
  unfold settleAt
  split
  · exact h.settlePosts
  · exact h

theorem netAckReceive_positive {s : State} {die : Nat} {a : NetAck} {d : Pdc} (hd : s.pdcs.find? (fun d => d.id == a.pdc && d.die == die) = some d)
    (hack : a.nack = none) :
    let reord := bitsOf (s.endpoint d.ctx d.epi) 319 316
    let left := d.unacked.filter (fun u => !ackShows a u.psn)
    ∃ t, ∃ ended : List Nat, exec (.netAckReceive die a) s = .next t ∧
      t.pdcs = s.pdcs.map (fun z =>
        { z with unacked := (if z.id = d.id then left else z.unacked).filter (fun u => !ended.contains u.post) }) ∧
      (∀ i ∈ ended, ∃ c ∈ s.cores, ∃ q ∈ c.2.netQ, ∃ p ∈ q, p.id = i ∧ (p.done = true ∨ p.cancel = true)) ∧
      t.wire = s.wire ++ (left.filter (fun u => resend a reord (d.psn - 1) u.psn)).map (fun u => .packet die u.pkt) := by
  intro reord left
  have hsettled : Settles s (takenOff s d.id (fun _ => left))
      (s.wire ++ (left.filter (fun u => resend a reord (d.psn - 1) u.psn)).map (fun u => .packet die u.pkt))
      (netView (((d.unacked.filter (fun x => ackShows a x.psn)).map (·.post)).eraseDups.foldl settleAt
        (acked s die d (d.unacked.filter (fun x => ackShows a x.psn)) left (left.filter (fun u => resend a reord (d.psn - 1) u.psn))))) :=
    List.foldlRecOn (motive := fun y => Settles s _ _ (netView y)) _ _ (acked_settles s die d _ left _) fun y hy i _ => settleAt_settles hy i
  obtain ⟨⟨ended, hpdcs, hended⟩, hwire, -⟩ := hsettled
  refine ⟨_, ended, ?_, hpdcs.trans (takenOff_dropPosts s d.id _ ended), fun i hi => somePost_iff.1 (hended i hi), hwire⟩
  show execNetAckReceive die a s = _
  unfold execNetAckReceive
  rw [hd]
  dsimp only
  rw [hack]
  rfl

/-- A negative acknowledgement ends the post of a packet that it names. -/
def nackStep (code : Nat) (y : State) (x : InFlight) : State :=
  match y.postAt x.post with
  | some (core, q, p) => y.endPost core q p code false
  | none => y

/-- A post of another number stays where a post ends. -/
theorem endPost_somePost {y : State} {core q i : Nat} {p : NetPost} (fault : Nat) (cancelled : Bool) (hi : i ≠ p.id)
    (h : SomePost (fun x => x.id = i) (netView y)) : SomePost (fun x => x.id = i) (netView (y.endPost core q p fault cancelled)) := by
  rw [endPost_netView, postGone_netView]
  exact modQueue_some (g := fun ps => ps.filter (fun x => x.id != p.id)) h fun ps z hz hid =>
    List.mem_filter.2 ⟨hz, by simpa [hid] using hi⟩

/-- No post is there after an end that was not there before it. -/
theorem endPost_somePost_of {y : State} {core q i : Nat} {p : NetPost} (fault : Nat) (cancelled : Bool)
    (h : SomePost (fun x => x.id = i) (netView (y.endPost core q p fault cancelled))) : SomePost (fun x => x.id = i) (netView y) := by
  rw [endPost_netView, postGone_netView] at h
  have hall : AllPosts (OfPost y) (netView (modQueue y core q (fun ps => ps.filter (fun x => x.id != p.id)))) :=
    modQueue_all (allPosts_self y) fun ps hps z hz => hps z (List.mem_filter.1 hz).1
  obtain ⟨z, ⟨k, hk, ps, hps, x, hx, hid, -⟩, hzid⟩ := AllPosts.of_some hall h
  exact ⟨k, hk, ps, hps, x, hx, hid.trans hzid⟩

/-- The posts of the named packets end, and nothing else but their packets goes. -/
theorem nackSteps (code : Nat) : ∀ (hits : List InFlight) (y : State), ∃ ended,
    (hits.foldl (nackStep code) y).pdcs = y.pdcs.map (dropPosts ended) ∧ (hits.foldl (nackStep code) y).wire = y.wire ∧
      (hits.foldl (nackStep code) y).mem = y.mem ∧
      ∀ i, i ∈ ended ↔ SomePost (fun p => p.id = i) (netView y) ∧ ∃ u ∈ hits, u.post = i
  | [], y => ⟨[], by rw [List.map_congr_left (g := id) (fun d _ => dropPosts_nil d), List.map_id]; rfl, rfl, rfl, by simp⟩
  | x :: hits, y => by
    rw [List.foldl_cons]
    obtain ⟨ended, hpdcs, hwire, hmem, hended⟩ := nackSteps code hits (nackStep code y x)
    cases hat : y.postAt x.post with
    | none =>
      have hstep : nackStep code y x = y := by rw [nackStep, hat]
      rw [hstep] at hpdcs hwire hmem hended ⊢
      have hgone : ¬ SomePost (fun p => p.id = x.post) (netView y) := fun h => by
        have hsome := postAt_isSome_iff.2 h
        rw [hat] at hsome
        cases hsome
      refine ⟨ended, hpdcs, hwire, hmem, fun i => (hended i).trans (and_congr_right fun hi => ?_)⟩
      simp only [List.mem_cons, exists_eq_or_imp]
      exact (or_iff_right fun hx : x.post = i => hgone (hx ▸ hi)).symm
    | some at_ =>
      obtain ⟨core, q, p⟩ := at_
      obtain ⟨hid, hfound⟩ := postAt_some hat
      have hstep : nackStep code y x = y.endPost core q p code false := by rw [nackStep, hat]
      rw [hstep] at hpdcs hwire hmem hended ⊢
      have hview := (endPost_netView y core q p code false).trans (postGone_netView y core q p)
      have hfirst : (y.endPost core q p code false).pdcs = y.pdcs.map (fun d => { d with unacked := d.unacked.filter (fun u => u.post != p.id) }) :=
        congrArg NetView.pdcs hview
      refine ⟨p.id :: ended, ?_, hwire.trans (congrArg NetView.wire hview), hmem.trans ?_, fun i => ?_⟩
      · rw [hpdcs, hfirst, List.map_map]
        exact List.map_congr_left fun d _ => dropPosts_after p.id ended d
      · exact endPost_preserves State.mem (fun _ _ => rfl) (fun _ _ _ => rfl) (fun _ _ _ => rfl) y core q p code false
      · simp only [List.mem_cons, exists_eq_or_imp, hended i]
        constructor
        · rintro (rfl | ⟨hi, hu⟩)
          · obtain ⟨k, hk, ps, hps, z, hz, rfl⟩ := hfound
            exact ⟨⟨k, hk, ps, hps, z, hz, rfl⟩, .inl hid.symm⟩
          · exact ⟨endPost_somePost_of code false hi, .inr hu⟩
        · rintro ⟨hi, hx⟩
          by_cases hp : i = p.id
          · exact .inl hp
          · exact .inr ⟨endPost_somePost code false hp hi, hx.resolve_left fun hx => hp (hx.symm.trans hid.symm)⟩

theorem netAckReceive_negative {s : State} {die : Nat} {a : NetAck} {d : Pdc} {psn : Word} {code : Nat}
    (hd : s.pdcs.find? (fun d => d.id == a.pdc && d.die == die) = some d) (hnack : a.nack = some (psn, code)) :
    ∃ t, ∃ ended : List Nat, exec (.netAckReceive die a) s = .next t ∧ t.wire = s.wire ∧ t.mem = s.mem ∧
      t.pdcs = s.pdcs.map (fun z => { z with
        unacked := (if z.id = d.id then z.unacked.filter (fun u => u.psn != psn) else z.unacked).filter (fun u => !ended.contains u.post) }) ∧
      ∀ i, i ∈ ended ↔ (s.postAt i).isSome = true ∧ ∃ u ∈ d.unacked, u.psn = psn ∧ u.post = i := by
  obtain ⟨ended, hpdcs, hwire, hmem, hended⟩ := nackSteps code (d.unacked.filter (fun x => x.psn == psn))
    (s.modPdc d.id (fun z => { z with unacked := z.unacked.filter (fun x => x.psn != psn) }))
  refine ⟨_, ended, ?_, hwire, hmem, hpdcs.trans (takenOff_dropPosts s d.id (fun z => z.unacked.filter (fun u => u.psn != psn)) ended), fun i => ?_⟩
  · show execNetAckReceive die a s = _
    unfold execNetAckReceive
    rw [hd]
    dsimp only
    rw [hnack]
    rfl
  · rw [hended i, postAt_isSome_iff]
    refine and_congr Iff.rfl (exists_congr fun u => ?_)
    rw [List.mem_filter, beq_iff_eq, and_assoc]

/-! ### O44 -/

/-- Settles O44: sending by what goes out and what is left, acknowledgements by the posts that end, the delta stream by its items. -/
theorem networkEvents : Obligations.NetworkEvents := by
  unfold Obligations.NetworkEvents
  refine ⟨?_, deltaDecode_deltaEncode, deltaItems_step, by decide, fun _ => rfl, ?_, ackShows_iff, ?_, fun s die pdc d hd => pdcIdleTimeout_of_found hd,
    ?_, fun s w hw => nwaitRecheck_frees s hw⟩
  · intro s core q p rest s0 pdc e ls w src bytes n hposts hopen hstall hpanel hmode hacked hpdc hwindow hend hls hfree hrise _
    obtain ⟨t, hexec, hmem, hwire, hsent, hpdcs⟩ :=
      netPacketSend_sends hposts hopen hstall hpanel hmode hacked hpdc hwindow hend hls hfree hrise
    refine ⟨t, _, hexec, hmem, hwire, rfl, rfl, rfl, rfl, rfl, ?_, hsent, hpdcs⟩
    have hbytes : (packetBytes s0 core p src).map (·.1) = bytes := List.map_map
    show (if p.ds then deltaEncode ((packetBytes s0 core p src).map (·.1)) else (packetBytes s0 core p src).map (·.1)) = _
    rw [hbytes]
  · exact fun s die a d hd => ⟨fun hack => netAckReceive_positive hd hack, fun psn code hnack => netAckReceive_negative hd hnack⟩
  · intro s die pdc psn d u hd hu gone
    have hexec := netRtoExpiry_of_found hd hu
    refine ⟨fun hkept => ?_, fun hgone hpost => ?_⟩
    · rw [hexec, if_neg fun h => hkept (givenUp_iff.1 h)]
      rfl
    · have hnone : (s.modPdc pdc (fun z => { z with unacked := z.unacked.filter (fun y => y.psn != psn) })).postAt u.post = none := hpost
      rw [hexec, if_pos (givenUp_iff.2 hgone), hnone]
      rfl
  · intro s die p d ack
    refine ⟨fun hord hseen => netPacketReceive_again hord hseen, fun hnew hpid => netPacketReceive_unknown hnew hpid, ?_⟩
    intro c ls hnew hpid hctx hturn hrctr bytes hls hpads
    exact ⟨_, netPacketReceive_places hnew hpid hctx hturn hrctr hls hpads, packet_placed s die p hpads rfl⟩

end Sys2Proof.Proofs
end
